-- ==== Sys2Proof/Word.lean ====
section
/-! DEFINITION. The word types of the EP4896 (R3, R4, R7, R29, R121) and the unit numbers of R7.
Only the types and their plainest constructors stand here: helpers that a test may show wrong stand in
`Sys2Proof/Machine/Ops.lean`. -/

namespace Sys2Proof

/-- A byte, bit 0 least significant (R4). -/
abbrev Byte := BitVec 8

/-- A 32-bit word: a register (R472), an operand (R32) or the data of a wire word (R29). -/
abbrev Word := BitVec 32

/-- The 12-bit tag of a word (R121). -/
abbrev Tag := BitVec 12

/-- A die of the package (R7). -/
abbrev Die := Fin 2

/-- A harness of a die (R7). -/
abbrev Harn := Fin 36

/-- A row of a harness (R7). -/
abbrev Row := Fin 8

/-- A physical column of a harness: 0–7, and 8 for the spare column S (R7, R83). -/
abbrev Col := Fin 9

/-- A field port (R7). -/
abbrev Port := Fin 96

/-- A pick ring (R7). -/
abbrev Ring := Fin 48

/-- A queue pair (R7). -/
abbrev Qp := Fin 16

/-- A yarn number (R125). -/
abbrev YarnNo := Fin 32768

/-- A bobbin number (R125). -/
abbrev BobNo := Fin 65536

/-- The local index of a power domain of a die (R211). -/
abbrev DomIx := Fin 65

/-- A word with its tag, as a bobbin holds it (R121, R250). -/
structure TWord where
  data : Word
  tag  : Tag
  deriving DecidableEq, Repr

/-- A 48-bit wire word: data, tag and draft index (R29). MODEL: `fl` is the number of the item in flight that the
word belongs to, 0 for a word of none; it decides only which words a replay discards (R182). -/
structure Wire where
  data : Word
  tag  : Tag
  idx  : BitVec 4
  fl   : Nat := 0
  deriving DecidableEq, Repr

/-- Who makes a register access (R474, from the source endpoint of the CFGR packet). -/
inductive Requester where
  /-- the Rentur firmware of the block's own die -/
  | fwOwn
  /-- the Rentur firmware of the other die -/
  | fwOther
  /-- the Selvedge wire -/
  | selvedge
  /-- the host, through the Diagnostic Window -/
  | host
  deriving DecidableEq, Repr

end Sys2Proof
end

