-- ==== Sys2Proof/Machine/Regs.lean ====
section
/-! DEFINITION. The registers of the device (R323, R326, R341, R342, R470, R475, R476 and the register
sections of the chapters): their names, blocks, offsets, instances and fields, each field with its access code
(R8), reset value and reset level (R9) and, where the field has reserved encodings (R11), the values that are not
reserved. The names are the manual's; `PCFG` is PORT[n].CFG. Reserved bits are the bits no field names (R10). -/

namespace Sys2Proof.Machine

/-- The access codes of R8; `w1cc` is a W1C field that holds a code. -/
inductive Access where
  | rw | ro | w1c | w1cc | w1s | rc | wo | rwl
  deriving DecidableEq, Repr

/-- The reset levels of R415, in the order of their codes. -/
inductive Level where
  | power | device | die | host | control | harness
  deriving DecidableEq, Repr

/-- The register blocks of R470, with the Host Window (R475). -/
inductive Block where
  | dc | vgl | noc | har | yrn | bob | prt | hbm | cfg | brd | cxl | frg | dbg | mt | bar0
  deriving DecidableEq, Repr

/-- One field of a register: bits, access, reset value, reset level, and the values that are not reserved
(no list: every value is allowed). -/
structure FieldSpec where
  hi    : Nat
  lo    : Nat
  acc   : Access
  reset : Nat
  lvl   : Level
  ok    : List (Nat × Nat)
  deriving DecidableEq, Repr

/-- One register: its block, offset in the block, instances within one unit of the block and their stride,
whether host writes are ignored (R478), whether only the Selvedge wire writes it (R456), and its fields. -/
structure RegSpec where
  blk    : Block
  off    : Nat
  count  : Nat
  stride : Nat
  fw     : Bool
  sel    : Bool
  fields : List FieldSpec
  deriving DecidableEq, Repr

/-- The registers by name (R475, R476). -/
inductive Reg where
  | RST_CAUSE
  | RST_STAT
  | RST_REQ
  | OPT_STAT
  | RST_REACH
  | DIE_ID
  | REFCLK_STAT
  | DOM_CTL
  | DOM_STAT
  | RT_STAT
  | RT_ERR
  | RT_SPILL
  | WDT_CTL
  | WDT_KICK
  | WDT_STAT
  | WDT_HIST
  | SEM
  | VGL_CTL
  | VGL_STAT
  | VGL_TIME_FRAC
  | VGL_TIME_NS
  | VGL_TIME_S_LO
  | VGL_TIME_S_HI
  | VGL_SET_NS
  | VGL_SET_S_LO
  | VGL_SET_S_HI
  | VGL_STEP
  | VGL_INC
  | VGL_PPS_ERR
  | VGL_ALM
  | VGL_ALM_NS
  | VGL_ALM_S_LO
  | VGL_ALM_S_HI
  | VGL_CMP_CTL
  | VGL_CMP_STAT
  | VGL_PWR
  | NOC_CTL
  | NOC_STAT
  | NOC_ERR
  | NOC_RT_SEL
  | NOC_RT_DATA
  | PROXY_STAT
  | TSEQ_CTL
  | TSEQ_STAT
  | TSEQ_SRC_LO
  | TSEQ_SRC_HI
  | TSEQ_URG_LO
  | TSEQ_URG_HI
  | TSEQ_LANE_LO
  | TSEQ_LANE_HI
  | SWAP_CTL
  | DARN_MAP
  | DARN_STAT
  | LL_FAULT
  | CLK_CTL
  | CLK_STAT
  | AVS_CTL
  | AVS_STAT
  | AGE_STAT
  | BANK_COLL
  | BANK_CTL
  | TBL
  | CELL_CSEL
  | CELL_CWORD
  | CELL_CEMPTY
  | CELL_CBUBBLE
  | CELL_CHOLD
  | CELL_CFORCED
  | CELL_COVF
  | YARN_SEL
  | YARN_STAT
  | YARN_OVF
  | BEAT_CTL
  | BEAT_NUM_LO
  | BEAT_NUM_HI
  | BEAT_CMT_LO
  | BEAT_CMT_HI
  | BEAT_STAT
  | JRN_BASE
  | JRN_SIZE
  | JRN_STAT
  | RPL_STAT
  | RPL_LAST
  | BOB_SEL
  | BOB_STAT
  | BOB_QUOTA
  | BOB_CTL
  | BOB_POP_TAG
  | BOB_POP
  | BOB_PUSH_TAG
  | BOB_PUSH
  | BOB_ERR
  | BOB_ERR_WP1
  | BOB_ERR_WP2
  | BOB_ERR_RP1
  | BOB_ERR_RP2
  | PCFG
  | PCS_STAT
  | RX_DROP
  | QBV_CTL
  | QBV_BASE_NS
  | QBV_BASE_S
  | QBV_CYCLE
  | PL_CTL
  | PL_PERIOD
  | PL_BASE_NS
  | PL_BASE_S
  | PL_LEAD
  | PL_NODES
  | PL_STAT
  | PL_ERR
  | PL_DLY
  | HBM_STAT
  | HBM_ECC
  | HBM_UE_ADDR
  | HBM_RET
  | CFG_STAT
  | CFG_PROG
  | SCRUB_CTL
  | SCRUB_STAT
  | SCRUB_LAST
  | BRD_CTL
  | BRD_STAT
  | BRD_ERR
  | CXL_LINK_STAT
  | FCLK_STAT
  | RO_CNT
  | FIO_STAT
  | FIO_IN
  | GATE_IN
  | GATE_OUT
  | GATE_CNT
  | SER_CTL
  | SER_STAT
  | SER_TXD
  | SER_RXD
  | DBG_STAT
  | DBG_HALT_LO
  | DBG_HALT_HI
  | BP_CTL
  | BP_SEL
  | BP_VAL
  | BP_MASK
  | BP_TAG
  | BP_HITS
  | MT_CTL
  | MT_HSEL_LO
  | MT_HSEL_HI
  | MT_STAT
  | MT_FAIL
  | MT_FAIL_ADDR
  | MEM_ECC
  | REP_STAT
  | HW_ID
  | SERIAL_LO
  | SERIAL_HI
  | CAP
  | FW_VER
  | IMG_ID
  | DEV_STATE
  | DEV_BEAT_LO
  | DEV_BEAT_HI
  | DEV_PERIOD
  | DIAG_CTL
  | DIAG_STAT
  | HOST_ERR
  | QP_DB_SQ
  | QP_DB_CQ
  | REGION_DB
  | SQ_BASE_LO
  | SQ_BASE_HI
  | CQ_BASE_LO
  | CQ_BASE_HI
  | QP_SIZE
  | QP_CTL
  | QP_STAT
  | QP_LAST
  | QP_EVT
  | EVT_PEND
  | EVT_EN
  | EVT_VEC
  | EVT_LOST
  | MSIX_ADDR_LO
  | MSIX_ADDR_HI
  | MSIX_DATA
  | MSIX_CTL
  | MSIX_PBA
  deriving DecidableEq, Repr

/-- A named field of a register: its bits. -/
structure Fld where
  reg : Reg
  hi  : Nat
  lo  : Nat
  deriving DecidableEq, Repr

/-- The number of a register in this model, for the keys of the register bank. -/
def regNo : Reg → Nat
  | .RST_CAUSE => 0
  | .RST_STAT => 1
  | .RST_REQ => 2
  | .OPT_STAT => 3
  | .RST_REACH => 4
  | .DIE_ID => 5
  | .REFCLK_STAT => 6
  | .DOM_CTL => 7
  | .DOM_STAT => 8
  | .RT_STAT => 9
  | .RT_ERR => 10
  | .RT_SPILL => 11
  | .WDT_CTL => 12
  | .WDT_KICK => 13
  | .WDT_STAT => 14
  | .WDT_HIST => 15
  | .SEM => 16
  | .VGL_CTL => 17
  | .VGL_STAT => 18
  | .VGL_TIME_FRAC => 19
  | .VGL_TIME_NS => 20
  | .VGL_TIME_S_LO => 21
  | .VGL_TIME_S_HI => 22
  | .VGL_SET_NS => 23
  | .VGL_SET_S_LO => 24
  | .VGL_SET_S_HI => 25
  | .VGL_STEP => 26
  | .VGL_INC => 27
  | .VGL_PPS_ERR => 28
  | .VGL_ALM => 29
  | .VGL_ALM_NS => 30
  | .VGL_ALM_S_LO => 31
  | .VGL_ALM_S_HI => 32
  | .VGL_CMP_CTL => 33
  | .VGL_CMP_STAT => 34
  | .VGL_PWR => 35
  | .NOC_CTL => 36
  | .NOC_STAT => 37
  | .NOC_ERR => 38
  | .NOC_RT_SEL => 39
  | .NOC_RT_DATA => 40
  | .PROXY_STAT => 41
  | .TSEQ_CTL => 42
  | .TSEQ_STAT => 43
  | .TSEQ_SRC_LO => 44
  | .TSEQ_SRC_HI => 45
  | .TSEQ_URG_LO => 46
  | .TSEQ_URG_HI => 47
  | .TSEQ_LANE_LO => 48
  | .TSEQ_LANE_HI => 49
  | .SWAP_CTL => 50
  | .DARN_MAP => 51
  | .DARN_STAT => 52
  | .LL_FAULT => 53
  | .CLK_CTL => 54
  | .CLK_STAT => 55
  | .AVS_CTL => 56
  | .AVS_STAT => 57
  | .AGE_STAT => 58
  | .BANK_COLL => 59
  | .BANK_CTL => 60
  | .TBL => 61
  | .CELL_CSEL => 62
  | .CELL_CWORD => 63
  | .CELL_CEMPTY => 64
  | .CELL_CBUBBLE => 65
  | .CELL_CHOLD => 66
  | .CELL_CFORCED => 67
  | .CELL_COVF => 68
  | .YARN_SEL => 69
  | .YARN_STAT => 70
  | .YARN_OVF => 71
  | .BEAT_CTL => 72
  | .BEAT_NUM_LO => 73
  | .BEAT_NUM_HI => 74
  | .BEAT_CMT_LO => 75
  | .BEAT_CMT_HI => 76
  | .BEAT_STAT => 77
  | .JRN_BASE => 78
  | .JRN_SIZE => 79
  | .JRN_STAT => 80
  | .RPL_STAT => 81
  | .RPL_LAST => 82
  | .BOB_SEL => 83
  | .BOB_STAT => 84
  | .BOB_QUOTA => 85
  | .BOB_CTL => 86
  | .BOB_POP_TAG => 87
  | .BOB_POP => 88
  | .BOB_PUSH_TAG => 89
  | .BOB_PUSH => 90
  | .BOB_ERR => 91
  | .BOB_ERR_WP1 => 92
  | .BOB_ERR_WP2 => 93
  | .BOB_ERR_RP1 => 94
  | .BOB_ERR_RP2 => 95
  | .PCFG => 96
  | .PCS_STAT => 97
  | .RX_DROP => 98
  | .QBV_CTL => 99
  | .QBV_BASE_NS => 100
  | .QBV_BASE_S => 101
  | .QBV_CYCLE => 102
  | .PL_CTL => 103
  | .PL_PERIOD => 104
  | .PL_BASE_NS => 105
  | .PL_BASE_S => 106
  | .PL_LEAD => 107
  | .PL_NODES => 108
  | .PL_STAT => 109
  | .PL_ERR => 110
  | .PL_DLY => 111
  | .HBM_STAT => 112
  | .HBM_ECC => 113
  | .HBM_UE_ADDR => 114
  | .HBM_RET => 115
  | .CFG_STAT => 116
  | .CFG_PROG => 117
  | .SCRUB_CTL => 118
  | .SCRUB_STAT => 119
  | .SCRUB_LAST => 120
  | .BRD_CTL => 121
  | .BRD_STAT => 122
  | .BRD_ERR => 123
  | .CXL_LINK_STAT => 124
  | .FCLK_STAT => 125
  | .RO_CNT => 126
  | .FIO_STAT => 127
  | .FIO_IN => 128
  | .GATE_IN => 129
  | .GATE_OUT => 130
  | .GATE_CNT => 131
  | .SER_CTL => 132
  | .SER_STAT => 133
  | .SER_TXD => 134
  | .SER_RXD => 135
  | .DBG_STAT => 136
  | .DBG_HALT_LO => 137
  | .DBG_HALT_HI => 138
  | .BP_CTL => 139
  | .BP_SEL => 140
  | .BP_VAL => 141
  | .BP_MASK => 142
  | .BP_TAG => 143
  | .BP_HITS => 144
  | .MT_CTL => 145
  | .MT_HSEL_LO => 146
  | .MT_HSEL_HI => 147
  | .MT_STAT => 148
  | .MT_FAIL => 149
  | .MT_FAIL_ADDR => 150
  | .MEM_ECC => 151
  | .REP_STAT => 152
  | .HW_ID => 153
  | .SERIAL_LO => 154
  | .SERIAL_HI => 155
  | .CAP => 156
  | .FW_VER => 157
  | .IMG_ID => 158
  | .DEV_STATE => 159
  | .DEV_BEAT_LO => 160
  | .DEV_BEAT_HI => 161
  | .DEV_PERIOD => 162
  | .DIAG_CTL => 163
  | .DIAG_STAT => 164
  | .HOST_ERR => 165
  | .QP_DB_SQ => 166
  | .QP_DB_CQ => 167
  | .REGION_DB => 168
  | .SQ_BASE_LO => 169
  | .SQ_BASE_HI => 170
  | .CQ_BASE_LO => 171
  | .CQ_BASE_HI => 172
  | .QP_SIZE => 173
  | .QP_CTL => 174
  | .QP_STAT => 175
  | .QP_LAST => 176
  | .QP_EVT => 177
  | .EVT_PEND => 178
  | .EVT_EN => 179
  | .EVT_VEC => 180
  | .EVT_LOST => 181
  | .MSIX_ADDR_LO => 182
  | .MSIX_ADDR_HI => 183
  | .MSIX_DATA => 184
  | .MSIX_CTL => 185
  | .MSIX_PBA => 186

/-- Registers, part 0. -/
def regList0 : List Reg :=
   [.RST_CAUSE, .RST_STAT, .RST_REQ, .OPT_STAT, .RST_REACH, .DIE_ID, .REFCLK_STAT, .DOM_CTL, .DOM_STAT,
    .RT_STAT, .RT_ERR, .RT_SPILL, .WDT_CTL, .WDT_KICK, .WDT_STAT, .WDT_HIST, .SEM, .VGL_CTL, .VGL_STAT,
    .VGL_TIME_FRAC, .VGL_TIME_NS, .VGL_TIME_S_LO, .VGL_TIME_S_HI, .VGL_SET_NS, .VGL_SET_S_LO, .VGL_SET_S_HI,
    .VGL_STEP, .VGL_INC, .VGL_PPS_ERR, .VGL_ALM, .VGL_ALM_NS, .VGL_ALM_S_LO, .VGL_ALM_S_HI, .VGL_CMP_CTL,
    .VGL_CMP_STAT, .VGL_PWR, .NOC_CTL, .NOC_STAT, .NOC_ERR, .NOC_RT_SEL]

/-- Registers, part 1. -/
def regList1 : List Reg :=
   [.NOC_RT_DATA, .PROXY_STAT, .TSEQ_CTL, .TSEQ_STAT, .TSEQ_SRC_LO, .TSEQ_SRC_HI, .TSEQ_URG_LO, .TSEQ_URG_HI,
    .TSEQ_LANE_LO, .TSEQ_LANE_HI, .SWAP_CTL, .DARN_MAP, .DARN_STAT, .LL_FAULT, .CLK_CTL, .CLK_STAT, .AVS_CTL,
    .AVS_STAT, .AGE_STAT, .BANK_COLL, .BANK_CTL, .TBL, .CELL_CSEL, .CELL_CWORD, .CELL_CEMPTY, .CELL_CBUBBLE,
    .CELL_CHOLD, .CELL_CFORCED, .CELL_COVF, .YARN_SEL, .YARN_STAT, .YARN_OVF, .BEAT_CTL, .BEAT_NUM_LO,
    .BEAT_NUM_HI, .BEAT_CMT_LO, .BEAT_CMT_HI, .BEAT_STAT, .JRN_BASE, .JRN_SIZE]

/-- Registers, part 2. -/
def regList2 : List Reg :=
   [.JRN_STAT, .RPL_STAT, .RPL_LAST, .BOB_SEL, .BOB_STAT, .BOB_QUOTA, .BOB_CTL, .BOB_POP_TAG, .BOB_POP,
    .BOB_PUSH_TAG, .BOB_PUSH, .BOB_ERR, .BOB_ERR_WP1, .BOB_ERR_WP2, .BOB_ERR_RP1, .BOB_ERR_RP2, .PCFG,
    .PCS_STAT, .RX_DROP, .QBV_CTL, .QBV_BASE_NS, .QBV_BASE_S, .QBV_CYCLE, .PL_CTL, .PL_PERIOD, .PL_BASE_NS,
    .PL_BASE_S, .PL_LEAD, .PL_NODES, .PL_STAT, .PL_ERR, .PL_DLY, .HBM_STAT, .HBM_ECC, .HBM_UE_ADDR, .HBM_RET,
    .CFG_STAT, .CFG_PROG, .SCRUB_CTL, .SCRUB_STAT]

/-- Registers, part 3. -/
def regList3 : List Reg :=
   [.SCRUB_LAST, .BRD_CTL, .BRD_STAT, .BRD_ERR, .CXL_LINK_STAT, .FCLK_STAT, .RO_CNT, .FIO_STAT, .FIO_IN,
    .GATE_IN, .GATE_OUT, .GATE_CNT, .SER_CTL, .SER_STAT, .SER_TXD, .SER_RXD, .DBG_STAT, .DBG_HALT_LO,
    .DBG_HALT_HI, .BP_CTL, .BP_SEL, .BP_VAL, .BP_MASK, .BP_TAG, .BP_HITS, .MT_CTL, .MT_HSEL_LO, .MT_HSEL_HI,
    .MT_STAT, .MT_FAIL, .MT_FAIL_ADDR, .MEM_ECC, .REP_STAT, .HW_ID, .SERIAL_LO, .SERIAL_HI, .CAP, .FW_VER,
    .IMG_ID, .DEV_STATE]

/-- Registers, part 4. -/
def regList4 : List Reg :=
   [.DEV_BEAT_LO, .DEV_BEAT_HI, .DEV_PERIOD, .DIAG_CTL, .DIAG_STAT, .HOST_ERR, .QP_DB_SQ, .QP_DB_CQ,
    .REGION_DB, .SQ_BASE_LO, .SQ_BASE_HI, .CQ_BASE_LO, .CQ_BASE_HI, .QP_SIZE, .QP_CTL, .QP_STAT, .QP_LAST,
    .QP_EVT, .EVT_PEND, .EVT_EN, .EVT_VEC, .EVT_LOST, .MSIX_ADDR_LO, .MSIX_ADDR_HI, .MSIX_DATA, .MSIX_CTL,
    .MSIX_PBA]

/-- Every register. -/
def allRegs : List Reg := regList0 ++ regList1 ++ regList2 ++ regList3 ++ regList4

/-! Block, offset, instances, write rules and fields of every register. -/

/-- RST_CAUSE (R445). -/
def specRST_CAUSE : RegSpec :=
  ⟨.dc, 0x0, 1, 0, false, false,
    [⟨14, 0, .w1c, 1, .power, []⟩]⟩
/-- RST_STAT (R445). -/
def specRST_STAT : RegSpec :=
  ⟨.dc, 0x4, 1, 0, false, false,
    [⟨31, 31, .ro, 0, .device, []⟩,
     ⟨30, 28, .ro, 7, .device, []⟩,
     ⟨27, 24, .ro, 0, .device, []⟩,
     ⟨15, 0, .ro, 0, .device, []⟩]⟩
/-- RST_REQ (R445). -/
def specRST_REQ : RegSpec :=
  ⟨.dc, 0x8, 1, 0, true, false,
    [⟨31, 31, .w1s, 0, .die, []⟩,
     ⟨18, 16, .rw, 7, .die, []⟩,
     ⟨5, 0, .rw, 0, .die, []⟩]⟩
/-- OPT_STAT (R445). -/
def specOPT_STAT : RegSpec :=
  ⟨.dc, 0xc, 1, 0, false, false,
    [⟨31, 31, .ro, 0, .die, []⟩,
     ⟨30, 30, .ro, 0, .die, []⟩,
     ⟨15, 8, .ro, 0, .die, []⟩,
     ⟨7, 0, .ro, 0, .device, []⟩]⟩
/-- RST_REACH (R445). -/
def specRST_REACH : RegSpec :=
  ⟨.dc, 0x10, 14, 4, false, false,
    [⟨2, 0, .ro, 7, .device, []⟩]⟩
/-- DIE_ID (R479). -/
def specDIE_ID : RegSpec :=
  ⟨.dc, 0x80, 1, 0, false, false,
    [⟨31, 16, .ro, 0x4896, .power, []⟩,
     ⟨15, 8, .ro, 0xb0, .power, []⟩,
     ⟨0, 0, .ro, 0, .power, []⟩]⟩
/-- REFCLK_STAT (R479). -/
def specREFCLK_STAT : RegSpec :=
  ⟨.dc, 0x84, 1, 0, false, false,
    [⟨31, 31, .ro, 0, .device, []⟩,
     ⟨30, 30, .ro, 0, .device, []⟩,
     ⟨29, 29, .w1c, 0, .power, []⟩,
     ⟨15, 0, .ro, 0, .power, []⟩]⟩
/-- DOM_CTL (R219). -/
def specDOM_CTL : RegSpec :=
  ⟨.dc, 0x1000, 65, 8, true, false,
    [⟨8, 8, .rw, 0, .die, []⟩,
     ⟨1, 0, .rw, 2, .die, [(0, 2)]⟩]⟩
/-- DOM_STAT (R219). -/
def specDOM_STAT : RegSpec :=
  ⟨.dc, 0x1004, 65, 8, false, false,
    [⟨31, 31, .ro, 0, .die, []⟩,
     ⟨30, 30, .ro, 0, .die, []⟩,
     ⟨27, 24, .ro, 0, .die, []⟩,
     ⟨19, 16, .w1cc, 0, .die, []⟩,
     ⟨1, 0, .ro, 0, .die, []⟩]⟩
/-- RT_STAT (R363). -/
def specRT_STAT : RegSpec :=
  ⟨.dc, 0x2000, 1, 0, true, false,
    [⟨31, 31, .ro, 0, .control, []⟩,
     ⟨30, 30, .ro, 0, .control, []⟩,
     ⟨29, 29, .ro, 0, .control, []⟩,
     ⟨28, 28, .ro, 1, .control, []⟩,
     ⟨27, 27, .ro, 0, .control, []⟩,
     ⟨26, 24, .ro, 0, .control, []⟩,
     ⟨15, 8, .ro, 0, .control, []⟩,
     ⟨7, 0, .ro, 0, .control, []⟩]⟩
/-- RT_ERR (R363). -/
def specRT_ERR : RegSpec :=
  ⟨.dc, 0x2004, 1, 0, true, false,
    [⟨31, 31, .w1c, 0, .die, []⟩,
     ⟨30, 28, .ro, 0, .die, []⟩,
     ⟨23, 16, .ro, 0, .die, []⟩,
     ⟨15, 0, .ro, 0, .die, []⟩]⟩
/-- RT_SPILL (R363). -/
def specRT_SPILL : RegSpec :=
  ⟨.dc, 0x2010, 8, 4, true, false,
    [⟨31, 16, .ro, 0, .control, []⟩,
     ⟨15, 0, .ro, 0, .control, []⟩]⟩
/-- WDT_CTL (R363). -/
def specWDT_CTL : RegSpec :=
  ⟨.dc, 0x2040, 1, 0, true, false,
    [⟨31, 31, .rwl, 0, .control, []⟩,
     ⟨9, 0, .rwl, 0x3e8, .control, [(1, 1000)]⟩]⟩
/-- WDT_KICK (R363). -/
def specWDT_KICK : RegSpec :=
  ⟨.dc, 0x2044, 1, 0, true, false,
    [⟨15, 0, .wo, 0, .control, []⟩]⟩
/-- WDT_STAT (R363). -/
def specWDT_STAT : RegSpec :=
  ⟨.dc, 0x2048, 1, 0, true, false,
    [⟨31, 31, .ro, 0, .control, []⟩,
     ⟨30, 30, .w1c, 0, .control, []⟩,
     ⟨19, 0, .ro, 0xf4240, .control, []⟩]⟩
/-- WDT_HIST (R363). -/
def specWDT_HIST : RegSpec :=
  ⟨.dc, 0x204c, 1, 0, true, false,
    [⟨15, 8, .ro, 0, .die, []⟩,
     ⟨7, 0, .ro, 0, .die, []⟩]⟩
/-- SEM (R363). -/
def specSEM : RegSpec :=
  ⟨.dc, 0x2100, 64, 4, true, false,
    [⟨31, 31, .ro, 0, .die, []⟩,
     ⟨30, 30, .ro, 0, .die, []⟩,
     ⟨16, 16, .ro, 0, .die, []⟩,
     ⟨2, 0, .ro, 0, .die, []⟩]⟩
/-- VGL_CTL (R445). -/
def specVGL_CTL : RegSpec :=
  ⟨.vgl, 0x0, 1, 0, true, false,
    [⟨31, 31, .w1s, 0, .power, []⟩,
     ⟨30, 30, .rw, 1, .power, []⟩,
     ⟨23, 16, .rw, 0x64, .power, [(1, 255)]⟩,
     ⟨1, 0, .rw, 0, .power, [(0, 2)]⟩]⟩
/-- VGL_STAT (R445). -/
def specVGL_STAT : RegSpec :=
  ⟨.vgl, 0x4, 1, 0, true, false,
    [⟨31, 31, .ro, 0, .power, []⟩,
     ⟨30, 30, .ro, 0, .power, []⟩,
     ⟨29, 29, .ro, 0, .power, []⟩,
     ⟨28, 28, .ro, 0, .power, []⟩]⟩
/-- VGL_TIME_FRAC (R445). -/
def specVGL_TIME_FRAC : RegSpec :=
  ⟨.vgl, 0x8, 1, 0, true, false,
    [⟨15, 0, .ro, 0, .power, []⟩]⟩
/-- VGL_TIME_NS (R445). -/
def specVGL_TIME_NS : RegSpec :=
  ⟨.vgl, 0xc, 1, 0, true, false,
    [⟨29, 0, .ro, 0, .power, []⟩]⟩
/-- VGL_TIME_S_LO (R445). -/
def specVGL_TIME_S_LO : RegSpec :=
  ⟨.vgl, 0x10, 1, 0, true, false,
    [⟨31, 0, .ro, 0, .power, []⟩]⟩
/-- VGL_TIME_S_HI (R445). -/
def specVGL_TIME_S_HI : RegSpec :=
  ⟨.vgl, 0x14, 1, 0, true, false,
    [⟨15, 0, .ro, 0, .power, []⟩]⟩
/-- VGL_SET_NS (R445). -/
def specVGL_SET_NS : RegSpec :=
  ⟨.vgl, 0x18, 1, 0, true, false,
    [⟨29, 0, .rw, 0, .power, []⟩]⟩
/-- VGL_SET_S_LO (R445). -/
def specVGL_SET_S_LO : RegSpec :=
  ⟨.vgl, 0x1c, 1, 0, true, false,
    [⟨31, 0, .rw, 0, .power, []⟩]⟩
/-- VGL_SET_S_HI (R445). -/
def specVGL_SET_S_HI : RegSpec :=
  ⟨.vgl, 0x20, 1, 0, true, false,
    [⟨15, 0, .rw, 0, .power, []⟩]⟩
/-- VGL_STEP (R445). -/
def specVGL_STEP : RegSpec :=
  ⟨.vgl, 0x24, 1, 0, true, false,
    [⟨31, 0, .wo, 0, .power, []⟩]⟩
/-- VGL_INC (R445). -/
def specVGL_INC : RegSpec :=
  ⟨.vgl, 0x28, 1, 0, true, false,
    [⟨31, 0, .rw, 0x28000000, .power, []⟩]⟩
/-- VGL_PPS_ERR (R445). -/
def specVGL_PPS_ERR : RegSpec :=
  ⟨.vgl, 0x2c, 1, 0, true, false,
    [⟨31, 0, .ro, 0, .power, []⟩]⟩
/-- VGL_ALM (R445). -/
def specVGL_ALM : RegSpec :=
  ⟨.vgl, 0x40, 4, 16, true, false,
    [⟨31, 31, .rw, 0, .power, []⟩,
     ⟨30, 30, .w1c, 0, .power, []⟩,
     ⟨2, 0, .rw, 0, .power, []⟩]⟩
/-- VGL_ALM_NS (R445). -/
def specVGL_ALM_NS : RegSpec :=
  ⟨.vgl, 0x44, 4, 16, true, false,
    [⟨29, 0, .rw, 0, .power, []⟩]⟩
/-- VGL_ALM_S_LO (R445). -/
def specVGL_ALM_S_LO : RegSpec :=
  ⟨.vgl, 0x48, 4, 16, true, false,
    [⟨31, 0, .rw, 0, .power, []⟩]⟩
/-- VGL_ALM_S_HI (R445). -/
def specVGL_ALM_S_HI : RegSpec :=
  ⟨.vgl, 0x4c, 4, 16, true, false,
    [⟨15, 0, .rw, 0, .power, []⟩]⟩
/-- VGL_CMP_CTL (R445). -/
def specVGL_CMP_CTL : RegSpec :=
  ⟨.vgl, 0x100, 8, 4, true, false,
    [⟨31, 31, .rw, 0, .power, []⟩,
     ⟨30, 30, .rw, 0, .power, []⟩,
     ⟨29, 27, .rw, 0, .power, []⟩,
     ⟨26, 19, .rw, 0, .power, []⟩,
     ⟨14, 10, .rw, 0, .power, []⟩,
     ⟨9, 0, .rw, 0, .power, []⟩]⟩
/-- VGL_CMP_STAT (R445). -/
def specVGL_CMP_STAT : RegSpec :=
  ⟨.vgl, 0x120, 1, 0, true, false,
    [⟨15, 8, .w1c, 0, .power, []⟩,
     ⟨7, 0, .ro, 0, .power, []⟩]⟩
/-- VGL_PWR (R445). -/
def specVGL_PWR : RegSpec :=
  ⟨.vgl, 0x200, 1, 0, true, false,
    [⟨31, 30, .ro, 0, .power, []⟩,
     ⟨7, 0, .ro, 0, .power, []⟩]⟩
/-- NOC_CTL (R249). -/
def specNOC_CTL : RegSpec :=
  ⟨.noc, 0x0, 1, 0, true, false,
    [⟨31, 31, .w1s, 0, .die, []⟩]⟩
/-- NOC_STAT (R249). -/
def specNOC_STAT : RegSpec :=
  ⟨.noc, 0x4, 1, 0, false, false,
    [⟨31, 31, .ro, 0, .die, []⟩,
     ⟨30, 30, .ro, 0, .die, []⟩,
     ⟨29, 29, .w1c, 0, .die, []⟩,
     ⟨15, 0, .ro, 0, .die, []⟩]⟩
/-- NOC_ERR (R249). -/
def specNOC_ERR : RegSpec :=
  ⟨.noc, 0x8, 1, 0, false, false,
    [⟨31, 16, .ro, 0, .die, []⟩,
     ⟨15, 8, .ro, 0, .die, []⟩,
     ⟨7, 7, .w1c, 0, .die, []⟩,
     ⟨5, 0, .ro, 0, .die, []⟩]⟩
/-- NOC_RT_SEL (R249). -/
def specNOC_RT_SEL : RegSpec :=
  ⟨.noc, 0x10, 1, 0, true, false,
    [⟨14, 14, .rw, 0, .die, []⟩,
     ⟨13, 8, .rw, 0, .die, [(0, 41)]⟩,
     ⟨5, 0, .rw, 0, .die, [(0, 42)]⟩]⟩
/-- NOC_RT_DATA (R249). -/
def specNOC_RT_DATA : RegSpec :=
  ⟨.noc, 0x14, 1, 0, true, false,
    [⟨2, 0, .rw, 0, .die, [(0, 5), (7, 7)]⟩]⟩
/-- PROXY_STAT (R249). -/
def specPROXY_STAT : RegSpec :=
  ⟨.noc, 0x100, 65, 4, false, false,
    [⟨31, 16, .ro, 0, .die, []⟩,
     ⟨15, 8, .ro, 0, .die, []⟩,
     ⟨7, 0, .ro, 0, .die, []⟩]⟩
/-- TSEQ_CTL (R120). -/
def specTSEQ_CTL : RegSpec :=
  ⟨.har, 0x0, 1, 0, false, false,
    [⟨31, 31, .rw, 0, .harness, []⟩,
     ⟨24, 24, .rw, 0, .harness, []⟩,
     ⟨23, 16, .rw, 0, .harness, []⟩]⟩
/-- TSEQ_STAT (R120). -/
def specTSEQ_STAT : RegSpec :=
  ⟨.har, 0x4, 1, 0, false, false,
    [⟨31, 31, .ro, 0, .harness, []⟩,
     ⟨30, 30, .ro, 0, .harness, []⟩,
     ⟨29, 29, .ro, 0, .harness, []⟩,
     ⟨28, 28, .ro, 1, .harness, []⟩,
     ⟨15, 0, .rc, 0, .harness, []⟩]⟩
/-- TSEQ_SRC_LO (R120). -/
def specTSEQ_SRC_LO : RegSpec :=
  ⟨.har, 0x8, 1, 0, false, false,
    [⟨31, 0, .rw, 0, .harness, []⟩]⟩
/-- TSEQ_SRC_HI (R120). -/
def specTSEQ_SRC_HI : RegSpec :=
  ⟨.har, 0xc, 1, 0, false, false,
    [⟨31, 0, .rw, 0, .harness, []⟩]⟩
/-- TSEQ_URG_LO (R120). -/
def specTSEQ_URG_LO : RegSpec :=
  ⟨.har, 0x10, 1, 0, false, false,
    [⟨31, 0, .rw, 0, .harness, []⟩]⟩
/-- TSEQ_URG_HI (R120). -/
def specTSEQ_URG_HI : RegSpec :=
  ⟨.har, 0x14, 1, 0, false, false,
    [⟨31, 0, .rw, 0, .harness, []⟩]⟩
/-- TSEQ_LANE_LO (R120). -/
def specTSEQ_LANE_LO : RegSpec :=
  ⟨.har, 0x18, 1, 0, false, false,
    [⟨23, 0, .rw, 0, .harness, []⟩]⟩
/-- TSEQ_LANE_HI (R120). -/
def specTSEQ_LANE_HI : RegSpec :=
  ⟨.har, 0x1c, 1, 0, false, false,
    [⟨17, 0, .rw, 0, .harness, []⟩]⟩
/-- SWAP_CTL (R120). -/
def specSWAP_CTL : RegSpec :=
  ⟨.har, 0x20, 1, 0, false, false,
    [⟨31, 31, .w1s, 0, .harness, []⟩,
     ⟨30, 30, .w1s, 0, .harness, []⟩,
     ⟨23, 16, .ro, 0, .harness, []⟩,
     ⟨15, 0, .ro, 0, .harness, []⟩]⟩
/-- DARN_MAP (R120). -/
def specDARN_MAP : RegSpec :=
  ⟨.har, 0x30, 1, 0, false, false,
    [⟨31, 0, .ro, 0, .die, []⟩]⟩
/-- DARN_STAT (R120). -/
def specDARN_STAT : RegSpec :=
  ⟨.har, 0x34, 1, 0, false, false,
    [⟨31, 31, .ro, 0, .die, []⟩,
     ⟨9, 8, .ro, 0, .die, []⟩,
     ⟨6, 4, .ro, 0, .die, []⟩,
     ⟨2, 0, .ro, 0, .die, []⟩]⟩
/-- LL_FAULT (R120). -/
def specLL_FAULT : RegSpec :=
  ⟨.har, 0x40, 1, 0, false, false,
    [⟨31, 31, .w1c, 0, .harness, []⟩,
     ⟨30, 30, .ro, 0, .die, []⟩,
     ⟨20, 17, .ro, 0, .harness, []⟩,
     ⟨16, 0, .ro, 0, .harness, []⟩]⟩
/-- CLK_CTL (R219). -/
def specCLK_CTL : RegSpec :=
  ⟨.har, 0x100, 1, 0, false, false,
    [⟨6, 0, .rw, 0x78, .die, [(16, 120)]⟩]⟩
/-- CLK_STAT (R219). -/
def specCLK_STAT : RegSpec :=
  ⟨.har, 0x104, 1, 0, false, false,
    [⟨31, 31, .ro, 0, .harness, []⟩,
     ⟨30, 30, .ro, 0, .harness, []⟩,
     ⟨29, 29, .w1c, 0, .die, []⟩,
     ⟨23, 16, .ro, 0, .die, []⟩,
     ⟨6, 0, .ro, 0, .harness, []⟩]⟩
/-- AVS_CTL (R219). -/
def specAVS_CTL : RegSpec :=
  ⟨.har, 0x108, 1, 0, false, false,
    [⟨31, 31, .rw, 1, .die, []⟩,
     ⟨21, 16, .rw, 0x30, .die, [(0, 48)]⟩,
     ⟨13, 8, .rw, 0, .die, [(0, 48)]⟩,
     ⟨5, 0, .rw, 0x1a, .die, [(0, 48)]⟩]⟩
/-- AVS_STAT (R219). -/
def specAVS_STAT : RegSpec :=
  ⟨.har, 0x10c, 1, 0, false, false,
    [⟨31, 31, .w1c, 0, .die, []⟩,
     ⟨21, 16, .ro, 0x1a, .die, []⟩,
     ⟨15, 8, .ro, 0, .harness, []⟩,
     ⟨7, 0, .ro, 0, .harness, []⟩]⟩
/-- AGE_STAT (R219). -/
def specAGE_STAT : RegSpec :=
  ⟨.har, 0x110, 1, 0, true, false,
    [⟨31, 16, .rw, 0, .die, []⟩,
     ⟨15, 0, .rw, 0, .die, []⟩]⟩
/-- BANK_COLL (R273). -/
def specBANK_COLL : RegSpec :=
  ⟨.har, 0x200, 1, 0, false, false,
    [⟨31, 0, .ro, 0, .harness, []⟩]⟩
/-- BANK_CTL (R273). -/
def specBANK_CTL : RegSpec :=
  ⟨.har, 0x204, 1, 0, false, false,
    [⟨31, 31, .w1s, 0, .harness, []⟩,
     ⟨0, 0, .rw, 0, .die, []⟩]⟩
/-- TBL (R120). -/
def specTBL : RegSpec :=
  ⟨.har, 0x400, 256, 4, false, false,
    [⟨31, 0, .ro, 0, .harness, []⟩]⟩
/-- CELL_CSEL (R83). -/
def specCELL_CSEL : RegSpec :=
  ⟨.har, 0x8000, 1, 0, false, false,
    [⟨31, 31, .rw, 0, .harness, []⟩,
     ⟨6, 4, .rw, 0, .harness, []⟩,
     ⟨3, 0, .rw, 0, .harness, [(0, 8)]⟩]⟩
/-- CELL_CWORD (R83). -/
def specCELL_CWORD : RegSpec :=
  ⟨.har, 0x8004, 1, 0, false, false,
    [⟨31, 0, .ro, 0, .harness, []⟩]⟩
/-- CELL_CEMPTY (R83). -/
def specCELL_CEMPTY : RegSpec :=
  ⟨.har, 0x8008, 1, 0, false, false,
    [⟨31, 0, .ro, 0, .harness, []⟩]⟩
/-- CELL_CBUBBLE (R83). -/
def specCELL_CBUBBLE : RegSpec :=
  ⟨.har, 0x800c, 1, 0, false, false,
    [⟨31, 0, .ro, 0, .harness, []⟩]⟩
/-- CELL_CHOLD (R83). -/
def specCELL_CHOLD : RegSpec :=
  ⟨.har, 0x8010, 1, 0, false, false,
    [⟨31, 0, .ro, 0, .harness, []⟩]⟩
/-- CELL_CFORCED (R83). -/
def specCELL_CFORCED : RegSpec :=
  ⟨.har, 0x8014, 1, 0, false, false,
    [⟨31, 0, .ro, 0, .harness, []⟩]⟩
/-- CELL_COVF (R83). -/
def specCELL_COVF : RegSpec :=
  ⟨.har, 0x8018, 1, 0, false, false,
    [⟨31, 0, .ro, 0, .harness, []⟩]⟩
/-- YARN_SEL (R155). -/
def specYARN_SEL : RegSpec :=
  ⟨.yrn, 0x0, 1, 0, false, false,
    [⟨13, 0, .rw, 0, .die, []⟩]⟩
/-- YARN_STAT (R155). -/
def specYARN_STAT : RegSpec :=
  ⟨.yrn, 0x4, 1, 0, false, false,
    [⟨26, 24, .ro, 0, .die, []⟩,
     ⟨23, 20, .ro, 0, .die, []⟩,
     ⟨19, 16, .ro, 0, .die, []⟩,
     ⟨14, 0, .ro, 0, .die, []⟩]⟩
/-- YARN_OVF (R155). -/
def specYARN_OVF : RegSpec :=
  ⟨.yrn, 0x8, 1, 0, false, false,
    [⟨31, 0, .rw, 0, .die, []⟩]⟩
/-- BEAT_CTL (R196). -/
def specBEAT_CTL : RegSpec :=
  ⟨.yrn, 0x100, 1, 0, false, false,
    [⟨31, 31, .ro, 0, .device, []⟩,
     ⟨16, 0, .rw, 0xfa, .device, [(10, 100000)]⟩]⟩
/-- BEAT_NUM_LO (R196). -/
def specBEAT_NUM_LO : RegSpec :=
  ⟨.yrn, 0x104, 1, 0, false, false,
    [⟨31, 0, .ro, 0, .device, []⟩]⟩
/-- BEAT_NUM_HI (R196). -/
def specBEAT_NUM_HI : RegSpec :=
  ⟨.yrn, 0x108, 1, 0, false, false,
    [⟨15, 0, .ro, 0, .device, []⟩]⟩
/-- BEAT_CMT_LO (R196). -/
def specBEAT_CMT_LO : RegSpec :=
  ⟨.yrn, 0x10c, 1, 0, false, false,
    [⟨31, 0, .ro, 0xffffffff, .device, []⟩]⟩
/-- BEAT_CMT_HI (R196). -/
def specBEAT_CMT_HI : RegSpec :=
  ⟨.yrn, 0x110, 1, 0, false, false,
    [⟨15, 0, .ro, 0xffff, .device, []⟩]⟩
/-- BEAT_STAT (R196). -/
def specBEAT_STAT : RegSpec :=
  ⟨.yrn, 0x114, 1, 0, false, false,
    [⟨31, 31, .ro, 0, .die, []⟩,
     ⟨30, 30, .ro, 0, .die, []⟩,
     ⟨29, 29, .w1c, 0, .die, []⟩,
     ⟨19, 16, .ro, 0, .die, []⟩,
     ⟨15, 0, .ro, 0, .die, []⟩]⟩
/-- JRN_BASE (R196). -/
def specJRN_BASE : RegSpec :=
  ⟨.yrn, 0x120, 1, 0, false, false,
    [⟨22, 0, .rw, 0, .die, []⟩]⟩
/-- JRN_SIZE (R196). -/
def specJRN_SIZE : RegSpec :=
  ⟨.yrn, 0x124, 1, 0, false, false,
    [⟨19, 0, .rw, 0, .die, []⟩]⟩
/-- JRN_STAT (R196). -/
def specJRN_STAT : RegSpec :=
  ⟨.yrn, 0x128, 1, 0, false, false,
    [⟨31, 31, .w1c, 0, .die, []⟩,
     ⟨30, 24, .ro, 0, .die, []⟩,
     ⟨23, 23, .ro, 0, .die, []⟩,
     ⟨22, 22, .w1c, 0, .die, []⟩,
     ⟨15, 0, .ro, 0, .die, []⟩]⟩
/-- RPL_STAT (R196). -/
def specRPL_STAT : RegSpec :=
  ⟨.yrn, 0x130, 1, 0, false, false,
    [⟨31, 31, .ro, 0, .die, []⟩,
     ⟨30, 24, .ro, 0, .die, []⟩,
     ⟨23, 16, .ro, 0, .die, []⟩,
     ⟨15, 0, .ro, 0, .die, []⟩]⟩
/-- RPL_LAST (R196). -/
def specRPL_LAST : RegSpec :=
  ⟨.yrn, 0x134, 1, 0, false, false,
    [⟨31, 31, .w1c, 0, .die, []⟩,
     ⟨30, 28, .ro, 0, .die, []⟩,
     ⟨27, 24, .ro, 0, .die, []⟩,
     ⟨15, 0, .ro, 0, .die, []⟩]⟩
/-- BOB_SEL (R155). -/
def specBOB_SEL : RegSpec :=
  ⟨.bob, 0x0, 1, 0, false, false,
    [⟨14, 0, .rw, 0, .die, []⟩]⟩
/-- BOB_STAT (R155). -/
def specBOB_STAT : RegSpec :=
  ⟨.bob, 0x4, 1, 0, false, false,
    [⟨31, 28, .ro, 0, .die, []⟩,
     ⟨27, 27, .ro, 0, .die, []⟩,
     ⟨26, 26, .ro, 0, .die, []⟩,
     ⟨25, 25, .ro, 0, .die, []⟩,
     ⟨19, 16, .ro, 0, .die, []⟩,
     ⟨15, 0, .ro, 0, .die, []⟩]⟩
/-- BOB_QUOTA (R155). -/
def specBOB_QUOTA : RegSpec :=
  ⟨.bob, 0x8, 1, 0, false, false,
    [⟨31, 31, .ro, 0, .die, []⟩,
     ⟨16, 0, .rw, 0, .die, []⟩]⟩
/-- BOB_CTL (R155). -/
def specBOB_CTL : RegSpec :=
  ⟨.bob, 0xc, 1, 0, false, false,
    [⟨0, 0, .w1s, 0, .die, []⟩]⟩
/-- BOB_POP_TAG (R155). -/
def specBOB_POP_TAG : RegSpec :=
  ⟨.bob, 0x10, 1, 0, false, false,
    [⟨31, 30, .ro, 0, .die, []⟩,
     ⟨11, 0, .ro, 0, .die, []⟩]⟩
/-- BOB_POP (R155). -/
def specBOB_POP : RegSpec :=
  ⟨.bob, 0x14, 1, 0, false, false,
    [⟨31, 0, .rc, 0, .die, []⟩]⟩
/-- BOB_PUSH_TAG (R155). -/
def specBOB_PUSH_TAG : RegSpec :=
  ⟨.bob, 0x18, 1, 0, false, false,
    [⟨11, 0, .rw, 0, .die, []⟩]⟩
/-- BOB_PUSH (R155). -/
def specBOB_PUSH : RegSpec :=
  ⟨.bob, 0x1c, 1, 0, false, false,
    [⟨31, 0, .wo, 0, .die, []⟩]⟩
/-- BOB_ERR (R155). -/
def specBOB_ERR : RegSpec :=
  ⟨.bob, 0x40, 1, 0, false, false,
    [⟨31, 31, .w1c, 0, .die, []⟩,
     ⟨17, 16, .ro, 0, .die, []⟩,
     ⟨15, 0, .ro, 0, .die, []⟩]⟩
/-- BOB_ERR_WP1 (R155). -/
def specBOB_ERR_WP1 : RegSpec :=
  ⟨.bob, 0x44, 1, 0, false, false,
    [⟨31, 0, .ro, 0, .die, []⟩]⟩
/-- BOB_ERR_WP2 (R155). -/
def specBOB_ERR_WP2 : RegSpec :=
  ⟨.bob, 0x48, 1, 0, false, false,
    [⟨31, 0, .ro, 0, .die, []⟩]⟩
/-- BOB_ERR_RP1 (R155). -/
def specBOB_ERR_RP1 : RegSpec :=
  ⟨.bob, 0x4c, 1, 0, false, false,
    [⟨31, 0, .ro, 0, .die, []⟩]⟩
/-- BOB_ERR_RP2 (R155). -/
def specBOB_ERR_RP2 : RegSpec :=
  ⟨.bob, 0x50, 1, 0, false, false,
    [⟨31, 0, .ro, 0, .die, []⟩]⟩
/-- PCFG (R315). -/
def specPCFG : RegSpec :=
  ⟨.prt, 0x0, 1, 0, true, false,
    [⟨31, 31, .rw, 0, .power, []⟩,
     ⟨26, 24, .rw, 0, .power, [(0, 5)]⟩,
     ⟨23, 22, .rw, 0, .power, [(0, 2)]⟩,
     ⟨21, 21, .rw, 1, .power, []⟩,
     ⟨20, 20, .rw, 0, .die, []⟩,
     ⟨19, 19, .rw, 0, .die, []⟩]⟩
/-- PCS_STAT (R315). -/
def specPCS_STAT : RegSpec :=
  ⟨.prt, 0x4, 1, 0, false, false,
    [⟨31, 31, .ro, 0, .die, []⟩,
     ⟨30, 30, .ro, 0, .die, []⟩,
     ⟨29, 29, .ro, 0, .die, []⟩,
     ⟨28, 28, .ro, 0, .die, []⟩,
     ⟨27, 27, .ro, 0, .die, []⟩,
     ⟨23, 16, .ro, 0, .die, []⟩,
     ⟨15, 0, .ro, 0, .die, []⟩]⟩
/-- RX_DROP (R315). -/
def specRX_DROP : RegSpec :=
  ⟨.prt, 0x8, 1, 0, false, false,
    [⟨31, 16, .ro, 0, .die, []⟩,
     ⟨15, 0, .ro, 0, .die, []⟩]⟩
/-- QBV_CTL (R315). -/
def specQBV_CTL : RegSpec :=
  ⟨.prt, 0x10, 1, 0, false, false,
    [⟨31, 31, .w1s, 0, .die, []⟩,
     ⟨30, 30, .ro, 0, .die, []⟩,
     ⟨29, 29, .rw, 0, .die, []⟩,
     ⟨7, 0, .rw, 0, .die, []⟩]⟩
/-- QBV_BASE_NS (R315). -/
def specQBV_BASE_NS : RegSpec :=
  ⟨.prt, 0x14, 1, 0, false, false,
    [⟨29, 0, .rw, 0, .die, []⟩]⟩
/-- QBV_BASE_S (R315). -/
def specQBV_BASE_S : RegSpec :=
  ⟨.prt, 0x18, 1, 0, false, false,
    [⟨31, 0, .rw, 0, .die, []⟩]⟩
/-- QBV_CYCLE (R315). -/
def specQBV_CYCLE : RegSpec :=
  ⟨.prt, 0x1c, 1, 0, false, false,
    [⟨29, 0, .rw, 0, .die, [(0, 999999999)]⟩]⟩
/-- PL_CTL (R315). -/
def specPL_CTL : RegSpec :=
  ⟨.prt, 0x100, 1, 0, true, false,
    [⟨31, 31, .rw, 0, .die, []⟩,
     ⟨30, 30, .w1s, 0, .die, []⟩,
     ⟨29, 29, .rw, 1, .power, []⟩]⟩
/-- PL_PERIOD (R315). -/
def specPL_PERIOD : RegSpec :=
  ⟨.prt, 0x104, 1, 0, true, false,
    [⟨20, 0, .rw, 0x3d090, .power, [(8000, 2000000)]⟩]⟩
/-- PL_BASE_NS (R315). -/
def specPL_BASE_NS : RegSpec :=
  ⟨.prt, 0x108, 1, 0, true, false,
    [⟨29, 0, .rw, 0, .die, [(0, 999999999)]⟩]⟩
/-- PL_BASE_S (R315). -/
def specPL_BASE_S : RegSpec :=
  ⟨.prt, 0x10c, 1, 0, true, false,
    [⟨31, 0, .rw, 0, .die, []⟩]⟩
/-- PL_LEAD (R315). -/
def specPL_LEAD : RegSpec :=
  ⟨.prt, 0x110, 1, 0, true, false,
    [⟨20, 0, .rw, 0x2710, .die, []⟩]⟩
/-- PL_NODES (R315). -/
def specPL_NODES : RegSpec :=
  ⟨.prt, 0x114, 1, 0, true, false,
    [⟨23, 16, .rw, 0, .die, [(0, 254)]⟩,
     ⟨11, 0, .rw, 0, .die, [(0, 3071)]⟩]⟩
/-- PL_STAT (R315). -/
def specPL_STAT : RegSpec :=
  ⟨.prt, 0x118, 1, 0, false, false,
    [⟨31, 29, .ro, 0, .die, []⟩,
     ⟨23, 16, .ro, 0, .die, []⟩,
     ⟨15, 8, .ro, 0, .die, []⟩,
     ⟨7, 0, .ro, 0, .die, []⟩]⟩
/-- PL_ERR (R315). -/
def specPL_ERR : RegSpec :=
  ⟨.prt, 0x11c, 1, 0, false, false,
    [⟨31, 24, .ro, 0, .die, []⟩,
     ⟨23, 16, .ro, 0, .die, []⟩,
     ⟨15, 8, .ro, 0, .die, []⟩,
     ⟨7, 0, .ro, 0, .die, []⟩]⟩
/-- PL_DLY (R315). -/
def specPL_DLY : RegSpec :=
  ⟨.prt, 0x120, 1, 0, false, false,
    [⟨31, 16, .ro, 0, .die, []⟩,
     ⟨15, 0, .ro, 0, .die, []⟩]⟩
/-- HBM_STAT (R273). -/
def specHBM_STAT : RegSpec :=
  ⟨.hbm, 0x0, 1, 0, false, false,
    [⟨31, 31, .ro, 0, .die, []⟩,
     ⟨30, 29, .ro, 0, .die, []⟩,
     ⟨28, 27, .ro, 0, .die, []⟩,
     ⟨15, 8, .ro, 0, .die, []⟩]⟩
/-- HBM_ECC (R273). -/
def specHBM_ECC : RegSpec :=
  ⟨.hbm, 0x4, 1, 0, false, false,
    [⟨31, 16, .ro, 0, .die, []⟩,
     ⟨15, 8, .ro, 0, .die, []⟩,
     ⟨7, 0, .ro, 0, .die, []⟩]⟩
/-- HBM_UE_ADDR (R273). -/
def specHBM_UE_ADDR : RegSpec :=
  ⟨.hbm, 0x8, 1, 0, false, false,
    [⟨31, 31, .w1c, 0, .die, []⟩,
     ⟨22, 0, .ro, 0, .die, []⟩]⟩
/-- HBM_RET (R273). -/
def specHBM_RET : RegSpec :=
  ⟨.hbm, 0xc, 1, 0, false, false,
    [⟨31, 31, .ro, 0, .die, []⟩,
     ⟨30, 26, .ro, 0, .die, []⟩,
     ⟨25, 25, .ro, 0, .die, []⟩,
     ⟨15, 0, .ro, 0, .die, []⟩]⟩
/-- CFG_STAT (R392). -/
def specCFG_STAT : RegSpec :=
  ⟨.cfg, 0x0, 1, 0, false, false,
    [⟨31, 31, .ro, 0, .die, []⟩,
     ⟨30, 30, .ro, 0, .die, []⟩,
     ⟨29, 29, .ro, 0, .die, []⟩,
     ⟨28, 28, .ro, 0, .die, []⟩,
     ⟨27, 26, .ro, 0, .die, []⟩,
     ⟨25, 22, .ro, 0, .die, []⟩,
     ⟨15, 8, .ro, 0, .die, []⟩,
     ⟨7, 0, .ro, 0, .die, []⟩]⟩
/-- CFG_PROG (R392). -/
def specCFG_PROG : RegSpec :=
  ⟨.cfg, 0x4, 1, 0, false, false,
    [⟨15, 8, .ro, 0, .die, []⟩,
     ⟨7, 0, .ro, 0, .die, []⟩]⟩
/-- SCRUB_CTL (R392). -/
def specSCRUB_CTL : RegSpec :=
  ⟨.cfg, 0x10, 1, 0, true, false,
    [⟨31, 31, .rw, 1, .die, []⟩]⟩
/-- SCRUB_STAT (R392). -/
def specSCRUB_STAT : RegSpec :=
  ⟨.cfg, 0x14, 1, 0, false, false,
    [⟨31, 16, .ro, 0, .die, []⟩,
     ⟨15, 8, .ro, 0, .die, []⟩,
     ⟨7, 0, .ro, 0, .die, []⟩]⟩
/-- SCRUB_LAST (R392). -/
def specSCRUB_LAST : RegSpec :=
  ⟨.cfg, 0x18, 1, 0, false, false,
    [⟨31, 31, .w1c, 0, .die, []⟩,
     ⟨30, 30, .ro, 0, .die, []⟩,
     ⟨23, 0, .ro, 0, .die, []⟩]⟩
/-- BRD_CTL (R249). -/
def specBRD_CTL : RegSpec :=
  ⟨.brd, 0x0, 1, 0, false, false,
    [⟨31, 31, .w1s, 0, .die, []⟩,
     ⟨30, 30, .rw, 0, .die, []⟩]⟩
/-- BRD_STAT (R249). -/
def specBRD_STAT : RegSpec :=
  ⟨.brd, 0x4, 1, 0, false, false,
    [⟨31, 29, .ro, 1, .die, []⟩,
     ⟨28, 28, .ro, 0, .die, []⟩,
     ⟨27, 27, .ro, 0, .die, []⟩,
     ⟨26, 26, .ro, 0, .die, []⟩,
     ⟨23, 0, .ro, 0, .die, []⟩]⟩
/-- BRD_ERR (R249). -/
def specBRD_ERR : RegSpec :=
  ⟨.brd, 0x8, 1, 0, false, false,
    [⟨31, 24, .ro, 0, .die, []⟩,
     ⟨23, 16, .ro, 0, .die, []⟩,
     ⟨15, 0, .ro, 0, .die, []⟩]⟩
/-- CXL_LINK_STAT (R480). -/
def specCXL_LINK_STAT : RegSpec :=
  ⟨.cxl, 0x10000, 1, 0, false, false,
    [⟨31, 31, .ro, 0, .device, []⟩,
     ⟨30, 28, .ro, 0, .device, []⟩,
     ⟨27, 26, .ro, 0, .device, []⟩,
     ⟨25, 24, .ro, 0, .device, []⟩,
     ⟨23, 23, .ro, 0, .device, []⟩,
     ⟨22, 22, .ro, 0, .device, []⟩,
     ⟨21, 21, .ro, 0, .device, []⟩,
     ⟨20, 20, .ro, 0, .device, []⟩,
     ⟨19, 19, .ro, 0, .device, []⟩,
     ⟨15, 8, .ro, 0, .device, []⟩,
     ⟨7, 0, .ro, 0, .device, []⟩]⟩
/-- FCLK_STAT (R414). -/
def specFCLK_STAT : RegSpec :=
  ⟨.frg, 0x0, 1, 0, false, false,
    [⟨31, 31, .ro, 0, .die, []⟩,
     ⟨30, 30, .ro, 0, .die, []⟩,
     ⟨29, 26, .ro, 0, .die, []⟩,
     ⟨25, 25, .w1c, 0, .die, []⟩,
     ⟨7, 0, .ro, 0, .die, []⟩]⟩
/-- RO_CNT (R414). -/
def specRO_CNT : RegSpec :=
  ⟨.frg, 0x10, 4, 4, false, false,
    [⟨15, 0, .ro, 0, .die, []⟩]⟩
/-- FIO_STAT (R414). -/
def specFIO_STAT : RegSpec :=
  ⟨.frg, 0x20, 1, 0, false, false,
    [⟨31, 31, .ro, 0, .power, []⟩,
     ⟨30, 30, .ro, 0, .power, []⟩,
     ⟨29, 29, .w1c, 0, .power, []⟩]⟩
/-- FIO_IN (R414). -/
def specFIO_IN : RegSpec :=
  ⟨.frg, 0x24, 1, 0, false, false,
    [⟨31, 0, .ro, 0, .die, []⟩]⟩
/-- GATE_IN (R414). -/
def specGATE_IN : RegSpec :=
  ⟨.frg, 0x1000, 64, 16, true, false,
    [⟨31, 31, .ro, 0, .die, []⟩,
     ⟨19, 16, .ro, 0, .die, []⟩,
     ⟨15, 0, .ro, 0, .die, []⟩]⟩
/-- GATE_OUT (R414). -/
def specGATE_OUT : RegSpec :=
  ⟨.frg, 0x1004, 64, 16, true, false,
    [⟨31, 31, .ro, 0, .die, []⟩,
     ⟨30, 30, .ro, 0, .die, []⟩,
     ⟨15, 0, .ro, 0, .die, []⟩]⟩
/-- GATE_CNT (R414). -/
def specGATE_CNT : RegSpec :=
  ⟨.frg, 0x1008, 64, 16, true, false,
    [⟨31, 16, .ro, 0, .die, []⟩,
     ⟨15, 0, .ro, 0, .die, []⟩]⟩
/-- SER_CTL (R414). -/
def specSER_CTL : RegSpec :=
  ⟨.frg, 0x2000, 8, 32, false, false,
    [⟨31, 31, .rw, 0, .die, []⟩,
     ⟨30, 29, .rw, 0, .die, []⟩,
     ⟨28, 27, .rw, 0, .die, []⟩,
     ⟨26, 25, .rw, 0, .die, [(0, 2)]⟩,
     ⟨24, 24, .rw, 0, .die, []⟩,
     ⟨23, 23, .rw, 0, .die, []⟩,
     ⟨22, 16, .rw, 0, .die, []⟩,
     ⟨15, 0, .rw, 0, .die, []⟩]⟩
/-- SER_STAT (R414). -/
def specSER_STAT : RegSpec :=
  ⟨.frg, 0x2004, 8, 32, false, false,
    [⟨31, 31, .ro, 0, .die, []⟩,
     ⟨30, 30, .w1c, 0, .die, []⟩,
     ⟨29, 29, .w1c, 0, .die, []⟩,
     ⟨28, 28, .w1c, 0, .die, []⟩,
     ⟨22, 16, .ro, 0, .die, []⟩,
     ⟨6, 0, .ro, 0, .die, []⟩]⟩
/-- SER_TXD (R414). -/
def specSER_TXD : RegSpec :=
  ⟨.frg, 0x2008, 8, 32, false, false,
    [⟨10, 0, .wo, 0, .die, []⟩]⟩
/-- SER_RXD (R414). -/
def specSER_RXD : RegSpec :=
  ⟨.frg, 0x200c, 8, 32, false, false,
    [⟨31, 31, .rc, 1, .die, []⟩,
     ⟨7, 0, .rc, 0, .die, []⟩]⟩
/-- DBG_STAT (R469). -/
def specDBG_STAT : RegSpec :=
  ⟨.dbg, 0x0, 1, 0, false, true,
    [⟨31, 31, .ro, 0, .power, []⟩,
     ⟨30, 28, .ro, 0, .device, []⟩,
     ⟨27, 27, .ro, 0, .device, []⟩,
     ⟨26, 26, .w1c, 0, .power, []⟩,
     ⟨25, 25, .ro, 0, .power, []⟩,
     ⟨19, 18, .ro, 0, .power, []⟩,
     ⟨17, 16, .ro, 0, .power, []⟩,
     ⟨15, 0, .ro, 0, .power, []⟩]⟩
/-- DBG_HALT_LO (R469). -/
def specDBG_HALT_LO : RegSpec :=
  ⟨.dbg, 0x8, 1, 0, false, true,
    [⟨31, 0, .ro, 0, .harness, []⟩]⟩
/-- DBG_HALT_HI (R469). -/
def specDBG_HALT_HI : RegSpec :=
  ⟨.dbg, 0xc, 1, 0, false, true,
    [⟨3, 0, .ro, 0, .harness, []⟩]⟩
/-- BP_CTL (R469). -/
def specBP_CTL : RegSpec :=
  ⟨.dbg, 0x1000, 576, 32, false, true,
    [⟨31, 31, .rw, 0, .power, []⟩,
     ⟨30, 28, .rw, 0, .power, [(0, 3)]⟩,
     ⟨27, 26, .rw, 0, .power, [(0, 2)]⟩,
     ⟨25, 24, .rw, 0, .power, [(0, 2)]⟩,
     ⟨23, 23, .w1c, 0, .power, []⟩,
     ⟨17, 16, .rw, 0, .power, []⟩,
     ⟨15, 0, .rw, 0, .power, []⟩]⟩
/-- BP_SEL (R469). -/
def specBP_SEL : RegSpec :=
  ⟨.dbg, 0x1004, 576, 32, false, true,
    [⟨31, 31, .rw, 0, .power, []⟩,
     ⟨30, 16, .rw, 0, .power, []⟩,
     ⟨15, 15, .rw, 0, .power, []⟩,
     ⟨14, 11, .rw, 0, .power, []⟩,
     ⟨10, 10, .rw, 0, .power, []⟩,
     ⟨9, 7, .rw, 0, .power, []⟩,
     ⟨6, 3, .rw, 0, .power, [(0, 8)]⟩]⟩
/-- BP_VAL (R469). -/
def specBP_VAL : RegSpec :=
  ⟨.dbg, 0x1008, 576, 32, false, true,
    [⟨31, 0, .rw, 0, .power, []⟩]⟩
/-- BP_MASK (R469). -/
def specBP_MASK : RegSpec :=
  ⟨.dbg, 0x100c, 576, 32, false, true,
    [⟨31, 0, .rw, 0, .power, []⟩]⟩
/-- BP_TAG (R469). -/
def specBP_TAG : RegSpec :=
  ⟨.dbg, 0x1010, 576, 32, false, true,
    [⟨27, 16, .rw, 0, .power, []⟩,
     ⟨11, 0, .rw, 0, .power, []⟩]⟩
/-- BP_HITS (R469). -/
def specBP_HITS : RegSpec :=
  ⟨.dbg, 0x1014, 576, 32, false, true,
    [⟨31, 0, .ro, 0, .power, []⟩]⟩
/-- MT_CTL (R273). -/
def specMT_CTL : RegSpec :=
  ⟨.mt, 0x0, 1, 0, false, false,
    [⟨31, 31, .w1s, 0, .die, []⟩,
     ⟨30, 30, .w1s, 0, .die, []⟩,
     ⟨13, 13, .rw, 0, .die, []⟩,
     ⟨12, 11, .rw, 1, .die, [(0, 2)]⟩,
     ⟨10, 7, .rw, 0xf, .die, [(1, 15)]⟩,
     ⟨2, 0, .rw, 0, .die, []⟩]⟩
/-- MT_HSEL_LO (R273). -/
def specMT_HSEL_LO : RegSpec :=
  ⟨.mt, 0x4, 1, 0, false, false,
    [⟨31, 0, .rw, 0, .die, []⟩]⟩
/-- MT_HSEL_HI (R273). -/
def specMT_HSEL_HI : RegSpec :=
  ⟨.mt, 0x8, 1, 0, false, false,
    [⟨3, 0, .rw, 0, .die, []⟩]⟩
/-- MT_STAT (R273). -/
def specMT_STAT : RegSpec :=
  ⟨.mt, 0xc, 1, 0, false, false,
    [⟨31, 31, .ro, 0, .die, []⟩,
     ⟨30, 30, .w1c, 0, .die, []⟩,
     ⟨29, 29, .w1c, 0, .die, []⟩,
     ⟨27, 16, .ro, 0, .die, []⟩,
     ⟨6, 0, .ro, 0, .die, []⟩]⟩
/-- MT_FAIL (R273). -/
def specMT_FAIL : RegSpec :=
  ⟨.mt, 0x10, 1, 0, false, false,
    [⟨31, 31, .w1c, 0, .die, []⟩,
     ⟨30, 29, .ro, 0, .die, []⟩,
     ⟨27, 22, .ro, 0, .die, []⟩,
     ⟨21, 18, .ro, 0, .die, []⟩,
     ⟨17, 15, .ro, 0, .die, []⟩]⟩
/-- MT_FAIL_ADDR (R273). -/
def specMT_FAIL_ADDR : RegSpec :=
  ⟨.mt, 0x14, 1, 0, false, false,
    [⟨15, 0, .ro, 0, .die, []⟩]⟩
/-- MEM_ECC (R273). -/
def specMEM_ECC : RegSpec :=
  ⟨.mt, 0x40, 1, 0, false, false,
    [⟨31, 16, .ro, 0, .die, []⟩,
     ⟨15, 11, .ro, 0, .die, []⟩,
     ⟨10, 6, .ro, 0, .die, []⟩,
     ⟨5, 1, .ro, 0, .die, []⟩]⟩
/-- REP_STAT (R273). -/
def specREP_STAT : RegSpec :=
  ⟨.mt, 0x80, 1, 0, false, false,
    [⟨12, 0, .ro, 0, .device, []⟩]⟩
/-- HW_ID (R323). -/
def specHW_ID : RegSpec :=
  ⟨.bar0, 0x0, 1, 0, false, false,
    [⟨31, 16, .ro, 0x4896, .power, []⟩,
     ⟨15, 8, .ro, 0xb0, .power, []⟩]⟩
/-- SERIAL_LO (R323). -/
def specSERIAL_LO : RegSpec :=
  ⟨.bar0, 0x4, 1, 0, false, false,
    [⟨31, 0, .ro, 0, .power, []⟩]⟩
/-- SERIAL_HI (R323). -/
def specSERIAL_HI : RegSpec :=
  ⟨.bar0, 0x8, 1, 0, false, false,
    [⟨31, 0, .ro, 0, .power, []⟩]⟩
/-- CAP (R323). -/
def specCAP : RegSpec :=
  ⟨.bar0, 0xc, 1, 0, false, false,
    [⟨31, 0, .ro, 0x10401000, .power, []⟩]⟩
/-- FW_VER (R323). -/
def specFW_VER : RegSpec :=
  ⟨.bar0, 0x10, 2, 4, false, false,
    [⟨31, 24, .ro, 0, .die, []⟩,
     ⟨23, 16, .ro, 0, .die, []⟩,
     ⟨15, 1, .ro, 0, .die, []⟩,
     ⟨0, 0, .ro, 0, .die, []⟩]⟩
/-- IMG_ID (R323). -/
def specIMG_ID : RegSpec :=
  ⟨.bar0, 0x18, 2, 4, false, false,
    [⟨31, 0, .ro, 0, .die, []⟩]⟩
/-- DEV_STATE (R323). -/
def specDEV_STATE : RegSpec :=
  ⟨.bar0, 0x100, 1, 0, false, false,
    [⟨31, 31, .ro, 0, .host, []⟩,
     ⟨30, 30, .ro, 0, .die, []⟩,
     ⟨29, 29, .ro, 0, .die, []⟩,
     ⟨28, 28, .ro, 0, .die, []⟩,
     ⟨27, 27, .ro, 0, .die, []⟩,
     ⟨26, 25, .ro, 0, .device, []⟩,
     ⟨24, 23, .ro, 0, .device, []⟩,
     ⟨22, 22, .ro, 0, .device, []⟩]⟩
/-- DEV_BEAT_LO (R323). -/
def specDEV_BEAT_LO : RegSpec :=
  ⟨.bar0, 0x104, 1, 0, false, false,
    [⟨31, 0, .ro, 0xffffffff, .device, []⟩]⟩
/-- DEV_BEAT_HI (R323). -/
def specDEV_BEAT_HI : RegSpec :=
  ⟨.bar0, 0x108, 1, 0, false, false,
    [⟨15, 0, .ro, 0xffff, .device, []⟩]⟩
/-- DEV_PERIOD (R323). -/
def specDEV_PERIOD : RegSpec :=
  ⟨.bar0, 0x10c, 1, 0, false, false,
    [⟨16, 0, .ro, 0xfa, .device, []⟩]⟩
/-- DIAG_CTL (R323). -/
def specDIAG_CTL : RegSpec :=
  ⟨.bar0, 0x110, 1, 0, false, false,
    [⟨1, 1, .ro, 0, .device, []⟩,
     ⟨0, 0, .rw, 0, .host, []⟩]⟩
/-- DIAG_STAT (R323). -/
def specDIAG_STAT : RegSpec :=
  ⟨.bar0, 0x114, 1, 0, false, false,
    [⟨31, 31, .w1c, 0, .host, []⟩,
     ⟨29, 25, .ro, 0, .host, []⟩,
     ⟨24, 0, .ro, 0, .host, []⟩]⟩
/-- HOST_ERR (R323). -/
def specHOST_ERR : RegSpec :=
  ⟨.bar0, 0x118, 1, 0, false, false,
    [⟨31, 16, .ro, 0, .host, []⟩,
     ⟨15, 8, .ro, 0, .host, []⟩,
     ⟨7, 0, .ro, 0, .host, []⟩]⟩
/-- QP_DB_SQ (R326). -/
def specQP_DB_SQ : RegSpec :=
  ⟨.bar0, 0x1000, 16, 8, false, false,
    [⟨15, 0, .wo, 0, .host, []⟩]⟩
/-- QP_DB_CQ (R326). -/
def specQP_DB_CQ : RegSpec :=
  ⟨.bar0, 0x1004, 16, 8, false, false,
    [⟨15, 0, .wo, 0, .host, []⟩]⟩
/-- REGION_DB (R337). -/
def specREGION_DB : RegSpec :=
  ⟨.bar0, 0x1800, 64, 8, false, false,
    [⟨15, 0, .wo, 0, .host, []⟩]⟩
/-- SQ_BASE_LO (R326). -/
def specSQ_BASE_LO : RegSpec :=
  ⟨.bar0, 0x2000, 16, 64, false, false,
    [⟨31, 6, .rw, 0, .host, []⟩]⟩
/-- SQ_BASE_HI (R326). -/
def specSQ_BASE_HI : RegSpec :=
  ⟨.bar0, 0x2004, 16, 64, false, false,
    [⟨31, 0, .rw, 0, .host, []⟩]⟩
/-- CQ_BASE_LO (R326). -/
def specCQ_BASE_LO : RegSpec :=
  ⟨.bar0, 0x2008, 16, 64, false, false,
    [⟨31, 5, .rw, 0, .host, []⟩]⟩
/-- CQ_BASE_HI (R326). -/
def specCQ_BASE_HI : RegSpec :=
  ⟨.bar0, 0x200c, 16, 64, false, false,
    [⟨31, 0, .rw, 0, .host, []⟩]⟩
/-- QP_SIZE (R326). -/
def specQP_SIZE : RegSpec :=
  ⟨.bar0, 0x2010, 16, 64, false, false,
    [⟨27, 16, .rw, 1, .host, [(1, 4095)]⟩,
     ⟨11, 0, .rw, 1, .host, [(1, 4095)]⟩]⟩
/-- QP_CTL (R326). -/
def specQP_CTL : RegSpec :=
  ⟨.bar0, 0x2014, 16, 64, false, false,
    [⟨31, 31, .rw, 0, .host, []⟩,
     ⟨21, 16, .rw, 0, .host, []⟩,
     ⟨7, 0, .rw, 0, .host, []⟩]⟩
/-- QP_STAT (R326). -/
def specQP_STAT : RegSpec :=
  ⟨.bar0, 0x2018, 16, 64, false, false,
    [⟨31, 31, .ro, 0, .host, []⟩,
     ⟨30, 30, .w1c, 0, .host, []⟩,
     ⟨27, 24, .ro, 0, .host, []⟩,
     ⟨15, 0, .ro, 0, .host, []⟩]⟩
/-- QP_LAST (R326). -/
def specQP_LAST : RegSpec :=
  ⟨.bar0, 0x201c, 16, 64, false, false,
    [⟨31, 16, .ro, 0, .die, []⟩,
     ⟨15, 0, .ro, 0, .die, []⟩]⟩
/-- QP_EVT (R326). -/
def specQP_EVT : RegSpec :=
  ⟨.bar0, 0x2020, 16, 64, false, false,
    [⟨31, 1, .ro, 0, .host, []⟩]⟩
/-- EVT_PEND (R341). -/
def specEVT_PEND : RegSpec :=
  ⟨.bar0, 0x4000, 1, 0, false, false,
    [⟨31, 1, .w1c, 0, .host, []⟩]⟩
/-- EVT_EN (R341). -/
def specEVT_EN : RegSpec :=
  ⟨.bar0, 0x4004, 1, 0, false, false,
    [⟨31, 1, .rw, 0, .host, []⟩]⟩
/-- EVT_VEC (R341). -/
def specEVT_VEC : RegSpec :=
  ⟨.bar0, 0x4008, 1, 0, false, false,
    [⟨5, 0, .rw, 0, .host, []⟩]⟩
/-- EVT_LOST (R341). -/
def specEVT_LOST : RegSpec :=
  ⟨.bar0, 0x400c, 1, 0, false, false,
    [⟨15, 0, .ro, 0, .host, []⟩]⟩
/-- MSIX_ADDR_LO (R342). -/
def specMSIX_ADDR_LO : RegSpec :=
  ⟨.bar0, 0x8000, 64, 16, false, false,
    [⟨31, 0, .rw, 0, .host, []⟩]⟩
/-- MSIX_ADDR_HI (R342). -/
def specMSIX_ADDR_HI : RegSpec :=
  ⟨.bar0, 0x8004, 64, 16, false, false,
    [⟨31, 0, .rw, 0, .host, []⟩]⟩
/-- MSIX_DATA (R342). -/
def specMSIX_DATA : RegSpec :=
  ⟨.bar0, 0x8008, 64, 16, false, false,
    [⟨31, 0, .rw, 0, .host, []⟩]⟩
/-- MSIX_CTL (R342). -/
def specMSIX_CTL : RegSpec :=
  ⟨.bar0, 0x800c, 64, 16, false, false,
    [⟨0, 0, .rw, 1, .host, []⟩]⟩
/-- MSIX_PBA (R342). -/
def specMSIX_PBA : RegSpec :=
  ⟨.bar0, 0x9000, 2, 4, false, false,
    [⟨31, 0, .ro, 0, .host, []⟩]⟩

/-- Block, offset, instances, write rules and fields of a register. -/
def regSpec : Reg → RegSpec
  | .RST_CAUSE => specRST_CAUSE
  | .RST_STAT => specRST_STAT
  | .RST_REQ => specRST_REQ
  | .OPT_STAT => specOPT_STAT
  | .RST_REACH => specRST_REACH
  | .DIE_ID => specDIE_ID
  | .REFCLK_STAT => specREFCLK_STAT
  | .DOM_CTL => specDOM_CTL
  | .DOM_STAT => specDOM_STAT
  | .RT_STAT => specRT_STAT
  | .RT_ERR => specRT_ERR
  | .RT_SPILL => specRT_SPILL
  | .WDT_CTL => specWDT_CTL
  | .WDT_KICK => specWDT_KICK
  | .WDT_STAT => specWDT_STAT
  | .WDT_HIST => specWDT_HIST
  | .SEM => specSEM
  | .VGL_CTL => specVGL_CTL
  | .VGL_STAT => specVGL_STAT
  | .VGL_TIME_FRAC => specVGL_TIME_FRAC
  | .VGL_TIME_NS => specVGL_TIME_NS
  | .VGL_TIME_S_LO => specVGL_TIME_S_LO
  | .VGL_TIME_S_HI => specVGL_TIME_S_HI
  | .VGL_SET_NS => specVGL_SET_NS
  | .VGL_SET_S_LO => specVGL_SET_S_LO
  | .VGL_SET_S_HI => specVGL_SET_S_HI
  | .VGL_STEP => specVGL_STEP
  | .VGL_INC => specVGL_INC
  | .VGL_PPS_ERR => specVGL_PPS_ERR
  | .VGL_ALM => specVGL_ALM
  | .VGL_ALM_NS => specVGL_ALM_NS
  | .VGL_ALM_S_LO => specVGL_ALM_S_LO
  | .VGL_ALM_S_HI => specVGL_ALM_S_HI
  | .VGL_CMP_CTL => specVGL_CMP_CTL
  | .VGL_CMP_STAT => specVGL_CMP_STAT
  | .VGL_PWR => specVGL_PWR
  | .NOC_CTL => specNOC_CTL
  | .NOC_STAT => specNOC_STAT
  | .NOC_ERR => specNOC_ERR
  | .NOC_RT_SEL => specNOC_RT_SEL
  | .NOC_RT_DATA => specNOC_RT_DATA
  | .PROXY_STAT => specPROXY_STAT
  | .TSEQ_CTL => specTSEQ_CTL
  | .TSEQ_STAT => specTSEQ_STAT
  | .TSEQ_SRC_LO => specTSEQ_SRC_LO
  | .TSEQ_SRC_HI => specTSEQ_SRC_HI
  | .TSEQ_URG_LO => specTSEQ_URG_LO
  | .TSEQ_URG_HI => specTSEQ_URG_HI
  | .TSEQ_LANE_LO => specTSEQ_LANE_LO
  | .TSEQ_LANE_HI => specTSEQ_LANE_HI
  | .SWAP_CTL => specSWAP_CTL
  | .DARN_MAP => specDARN_MAP
  | .DARN_STAT => specDARN_STAT
  | .LL_FAULT => specLL_FAULT
  | .CLK_CTL => specCLK_CTL
  | .CLK_STAT => specCLK_STAT
  | .AVS_CTL => specAVS_CTL
  | .AVS_STAT => specAVS_STAT
  | .AGE_STAT => specAGE_STAT
  | .BANK_COLL => specBANK_COLL
  | .BANK_CTL => specBANK_CTL
  | .TBL => specTBL
  | .CELL_CSEL => specCELL_CSEL
  | .CELL_CWORD => specCELL_CWORD
  | .CELL_CEMPTY => specCELL_CEMPTY
  | .CELL_CBUBBLE => specCELL_CBUBBLE
  | .CELL_CHOLD => specCELL_CHOLD
  | .CELL_CFORCED => specCELL_CFORCED
  | .CELL_COVF => specCELL_COVF
  | .YARN_SEL => specYARN_SEL
  | .YARN_STAT => specYARN_STAT
  | .YARN_OVF => specYARN_OVF
  | .BEAT_CTL => specBEAT_CTL
  | .BEAT_NUM_LO => specBEAT_NUM_LO
  | .BEAT_NUM_HI => specBEAT_NUM_HI
  | .BEAT_CMT_LO => specBEAT_CMT_LO
  | .BEAT_CMT_HI => specBEAT_CMT_HI
  | .BEAT_STAT => specBEAT_STAT
  | .JRN_BASE => specJRN_BASE
  | .JRN_SIZE => specJRN_SIZE
  | .JRN_STAT => specJRN_STAT
  | .RPL_STAT => specRPL_STAT
  | .RPL_LAST => specRPL_LAST
  | .BOB_SEL => specBOB_SEL
  | .BOB_STAT => specBOB_STAT
  | .BOB_QUOTA => specBOB_QUOTA
  | .BOB_CTL => specBOB_CTL
  | .BOB_POP_TAG => specBOB_POP_TAG
  | .BOB_POP => specBOB_POP
  | .BOB_PUSH_TAG => specBOB_PUSH_TAG
  | .BOB_PUSH => specBOB_PUSH
  | .BOB_ERR => specBOB_ERR
  | .BOB_ERR_WP1 => specBOB_ERR_WP1
  | .BOB_ERR_WP2 => specBOB_ERR_WP2
  | .BOB_ERR_RP1 => specBOB_ERR_RP1
  | .BOB_ERR_RP2 => specBOB_ERR_RP2
  | .PCFG => specPCFG
  | .PCS_STAT => specPCS_STAT
  | .RX_DROP => specRX_DROP
  | .QBV_CTL => specQBV_CTL
  | .QBV_BASE_NS => specQBV_BASE_NS
  | .QBV_BASE_S => specQBV_BASE_S
  | .QBV_CYCLE => specQBV_CYCLE
  | .PL_CTL => specPL_CTL
  | .PL_PERIOD => specPL_PERIOD
  | .PL_BASE_NS => specPL_BASE_NS
  | .PL_BASE_S => specPL_BASE_S
  | .PL_LEAD => specPL_LEAD
  | .PL_NODES => specPL_NODES
  | .PL_STAT => specPL_STAT
  | .PL_ERR => specPL_ERR
  | .PL_DLY => specPL_DLY
  | .HBM_STAT => specHBM_STAT
  | .HBM_ECC => specHBM_ECC
  | .HBM_UE_ADDR => specHBM_UE_ADDR
  | .HBM_RET => specHBM_RET
  | .CFG_STAT => specCFG_STAT
  | .CFG_PROG => specCFG_PROG
  | .SCRUB_CTL => specSCRUB_CTL
  | .SCRUB_STAT => specSCRUB_STAT
  | .SCRUB_LAST => specSCRUB_LAST
  | .BRD_CTL => specBRD_CTL
  | .BRD_STAT => specBRD_STAT
  | .BRD_ERR => specBRD_ERR
  | .CXL_LINK_STAT => specCXL_LINK_STAT
  | .FCLK_STAT => specFCLK_STAT
  | .RO_CNT => specRO_CNT
  | .FIO_STAT => specFIO_STAT
  | .FIO_IN => specFIO_IN
  | .GATE_IN => specGATE_IN
  | .GATE_OUT => specGATE_OUT
  | .GATE_CNT => specGATE_CNT
  | .SER_CTL => specSER_CTL
  | .SER_STAT => specSER_STAT
  | .SER_TXD => specSER_TXD
  | .SER_RXD => specSER_RXD
  | .DBG_STAT => specDBG_STAT
  | .DBG_HALT_LO => specDBG_HALT_LO
  | .DBG_HALT_HI => specDBG_HALT_HI
  | .BP_CTL => specBP_CTL
  | .BP_SEL => specBP_SEL
  | .BP_VAL => specBP_VAL
  | .BP_MASK => specBP_MASK
  | .BP_TAG => specBP_TAG
  | .BP_HITS => specBP_HITS
  | .MT_CTL => specMT_CTL
  | .MT_HSEL_LO => specMT_HSEL_LO
  | .MT_HSEL_HI => specMT_HSEL_HI
  | .MT_STAT => specMT_STAT
  | .MT_FAIL => specMT_FAIL
  | .MT_FAIL_ADDR => specMT_FAIL_ADDR
  | .MEM_ECC => specMEM_ECC
  | .REP_STAT => specREP_STAT
  | .HW_ID => specHW_ID
  | .SERIAL_LO => specSERIAL_LO
  | .SERIAL_HI => specSERIAL_HI
  | .CAP => specCAP
  | .FW_VER => specFW_VER
  | .IMG_ID => specIMG_ID
  | .DEV_STATE => specDEV_STATE
  | .DEV_BEAT_LO => specDEV_BEAT_LO
  | .DEV_BEAT_HI => specDEV_BEAT_HI
  | .DEV_PERIOD => specDEV_PERIOD
  | .DIAG_CTL => specDIAG_CTL
  | .DIAG_STAT => specDIAG_STAT
  | .HOST_ERR => specHOST_ERR
  | .QP_DB_SQ => specQP_DB_SQ
  | .QP_DB_CQ => specQP_DB_CQ
  | .REGION_DB => specREGION_DB
  | .SQ_BASE_LO => specSQ_BASE_LO
  | .SQ_BASE_HI => specSQ_BASE_HI
  | .CQ_BASE_LO => specCQ_BASE_LO
  | .CQ_BASE_HI => specCQ_BASE_HI
  | .QP_SIZE => specQP_SIZE
  | .QP_CTL => specQP_CTL
  | .QP_STAT => specQP_STAT
  | .QP_LAST => specQP_LAST
  | .QP_EVT => specQP_EVT
  | .EVT_PEND => specEVT_PEND
  | .EVT_EN => specEVT_EN
  | .EVT_VEC => specEVT_VEC
  | .EVT_LOST => specEVT_LOST
  | .MSIX_ADDR_LO => specMSIX_ADDR_LO
  | .MSIX_ADDR_HI => specMSIX_ADDR_HI
  | .MSIX_DATA => specMSIX_DATA
  | .MSIX_CTL => specMSIX_CTL
  | .MSIX_PBA => specMSIX_PBA

/-! The named fields. -/

def fRST_CAUSE_cause : Fld := ⟨.RST_CAUSE, 14, 0⟩
def fRST_STAT_asserted : Fld := ⟨.RST_STAT, 31, 31⟩
def fRST_STAT_level : Fld := ⟨.RST_STAT, 30, 28⟩
def fRST_STAT_stage : Fld := ⟨.RST_STAT, 27, 24⟩
def fRST_STAT_held : Fld := ⟨.RST_STAT, 15, 0⟩
def fRST_REQ_go : Fld := ⟨.RST_REQ, 31, 31⟩
def fRST_REQ_level : Fld := ⟨.RST_REQ, 18, 16⟩
def fRST_REQ_harness : Fld := ⟨.RST_REQ, 5, 0⟩
def fOPT_STAT_bad : Fld := ⟨.OPT_STAT, 31, 31⟩
def fOPT_STAT_fld : Fld := ⟨.OPT_STAT, 30, 30⟩
def fOPT_STAT_boot : Fld := ⟨.OPT_STAT, 15, 8⟩
def fOPT_STAT_clk_src : Fld := ⟨.OPT_STAT, 7, 0⟩
def fRST_REACH_level : Fld := ⟨.RST_REACH, 2, 0⟩
def fDIE_ID_part : Fld := ⟨.DIE_ID, 31, 16⟩
def fDIE_ID_stepping : Fld := ⟨.DIE_ID, 15, 8⟩
def fDIE_ID_die : Fld := ⟨.DIE_ID, 0, 0⟩
def fREFCLK_STAT_locked : Fld := ⟨.REFCLK_STAT, 31, 31⟩
def fREFCLK_STAT_src : Fld := ⟨.REFCLK_STAT, 30, 30⟩
def fREFCLK_STAT_switched : Fld := ⟨.REFCLK_STAT, 29, 29⟩
def fREFCLK_STAT_fails : Fld := ⟨.REFCLK_STAT, 15, 0⟩
def fDOM_CTL_woa : Fld := ⟨.DOM_CTL, 8, 8⟩
def fDOM_CTL_target : Fld := ⟨.DOM_CTL, 1, 0⟩
def fDOM_STAT_busy : Fld := ⟨.DOM_STAT, 31, 31⟩
def fDOM_STAT_pend_up : Fld := ⟨.DOM_STAT, 30, 30⟩
def fDOM_STAT_step : Fld := ⟨.DOM_STAT, 27, 24⟩
def fDOM_STAT_err : Fld := ⟨.DOM_STAT, 19, 16⟩
def fDOM_STAT_state : Fld := ⟨.DOM_STAT, 1, 0⟩
def fRT_STAT_run : Fld := ⟨.RT_STAT, 31, 31⟩
def fRT_STAT_halt_mon : Fld := ⟨.RT_STAT, 30, 30⟩
def fRT_STAT_halt_hard : Fld := ⟨.RT_STAT, 29, 29⟩
def fRT_STAT_in_reset : Fld := ⟨.RT_STAT, 28, 28⟩
def fRT_STAT_fault_entry : Fld := ⟨.RT_STAT, 27, 27⟩
def fRT_STAT_level : Fld := ⟨.RT_STAT, 26, 24⟩
def fRT_STAT_pend : Fld := ⟨.RT_STAT, 15, 8⟩
def fRT_STAT_preempt : Fld := ⟨.RT_STAT, 7, 0⟩
def fRT_ERR_valid : Fld := ⟨.RT_ERR, 31, 31⟩
def fRT_ERR_cause : Fld := ⟨.RT_ERR, 30, 28⟩
def fRT_ERR_ce : Fld := ⟨.RT_ERR, 23, 16⟩
def fRT_ERR_lockups : Fld := ⟨.RT_ERR, 15, 0⟩
def fRT_SPILL_used : Fld := ⟨.RT_SPILL, 31, 16⟩
def fRT_SPILL_limit : Fld := ⟨.RT_SPILL, 15, 0⟩
def fWDT_CTL_lock : Fld := ⟨.WDT_CTL, 31, 31⟩
def fWDT_CTL_timeout : Fld := ⟨.WDT_CTL, 9, 0⟩
def fWDT_KICK_key : Fld := ⟨.WDT_KICK, 15, 0⟩
def fWDT_STAT_frozen : Fld := ⟨.WDT_STAT, 31, 31⟩
def fWDT_STAT_warn : Fld := ⟨.WDT_STAT, 30, 30⟩
def fWDT_STAT_remain : Fld := ⟨.WDT_STAT, 19, 0⟩
def fWDT_HIST_escal : Fld := ⟨.WDT_HIST, 15, 8⟩
def fWDT_HIST_expiries : Fld := ⟨.WDT_HIST, 7, 0⟩
def fSEM_held : Fld := ⟨.SEM, 31, 31⟩
def fSEM_owner_halted : Fld := ⟨.SEM, 30, 30⟩
def fSEM_owner_die : Fld := ⟨.SEM, 16, 16⟩
def fSEM_owner_level : Fld := ⟨.SEM, 2, 0⟩
def fVGL_CTL_load : Fld := ⟨.VGL_CTL, 31, 31⟩
def fVGL_CTL_pps_en : Fld := ⟨.VGL_CTL, 30, 30⟩
def fVGL_CTL_pps_w : Fld := ⟨.VGL_CTL, 23, 16⟩
def fVGL_CTL_disc : Fld := ⟨.VGL_CTL, 1, 0⟩
def fVGL_STAT_tcxo_ok : Fld := ⟨.VGL_STAT, 31, 31⟩
def fVGL_STAT_pps_lock : Fld := ⟨.VGL_STAT, 30, 30⟩
def fVGL_STAT_holdover : Fld := ⟨.VGL_STAT, 29, 29⟩
def fVGL_STAT_tcxo_chk : Fld := ⟨.VGL_STAT, 28, 28⟩
def fVGL_TIME_FRAC_frac : Fld := ⟨.VGL_TIME_FRAC, 15, 0⟩
def fVGL_TIME_NS_ns : Fld := ⟨.VGL_TIME_NS, 29, 0⟩
def fVGL_TIME_S_LO_s_lo : Fld := ⟨.VGL_TIME_S_LO, 31, 0⟩
def fVGL_TIME_S_HI_s_hi : Fld := ⟨.VGL_TIME_S_HI, 15, 0⟩
def fVGL_SET_NS_ns : Fld := ⟨.VGL_SET_NS, 29, 0⟩
def fVGL_SET_S_LO_s_lo : Fld := ⟨.VGL_SET_S_LO, 31, 0⟩
def fVGL_SET_S_HI_s_hi : Fld := ⟨.VGL_SET_S_HI, 15, 0⟩
def fVGL_STEP_step : Fld := ⟨.VGL_STEP, 31, 0⟩
def fVGL_INC_inc : Fld := ⟨.VGL_INC, 31, 0⟩
def fVGL_PPS_ERR_e : Fld := ⟨.VGL_PPS_ERR, 31, 0⟩
def fVGL_ALM_en : Fld := ⟨.VGL_ALM, 31, 31⟩
def fVGL_ALM_fired : Fld := ⟨.VGL_ALM, 30, 30⟩
def fVGL_ALM_act : Fld := ⟨.VGL_ALM, 2, 0⟩
def fVGL_ALM_NS_ns : Fld := ⟨.VGL_ALM_NS, 29, 0⟩
def fVGL_ALM_S_LO_s_lo : Fld := ⟨.VGL_ALM_S_LO, 31, 0⟩
def fVGL_ALM_S_HI_s_hi : Fld := ⟨.VGL_ALM_S_HI, 15, 0⟩
def fVGL_CMP_CTL_en : Fld := ⟨.VGL_CMP_CTL, 31, 31⟩
def fVGL_CMP_CTL_pol : Fld := ⟨.VGL_CMP_CTL, 30, 30⟩
def fVGL_CMP_CTL_act : Fld := ⟨.VGL_CMP_CTL, 29, 27⟩
def fVGL_CMP_CTL_filt : Fld := ⟨.VGL_CMP_CTL, 26, 19⟩
def fVGL_CMP_CTL_hyst : Fld := ⟨.VGL_CMP_CTL, 14, 10⟩
def fVGL_CMP_CTL_thr : Fld := ⟨.VGL_CMP_CTL, 9, 0⟩
def fVGL_CMP_STAT_tripped : Fld := ⟨.VGL_CMP_STAT, 15, 8⟩
def fVGL_CMP_STAT_now : Fld := ⟨.VGL_CMP_STAT, 7, 0⟩
def fVGL_PWR_state : Fld := ⟨.VGL_PWR, 31, 30⟩
def fVGL_PWR_wake : Fld := ⟨.VGL_PWR, 7, 0⟩
def fNOC_CTL_sw_start : Fld := ⟨.NOC_CTL, 31, 31⟩
def fNOC_STAT_switching : Fld := ⟨.NOC_STAT, 31, 31⟩
def fNOC_STAT_gen : Fld := ⟨.NOC_STAT, 30, 30⟩
def fNOC_STAT_gen_late : Fld := ⟨.NOC_STAT, 29, 29⟩
def fNOC_STAT_sw_count : Fld := ⟨.NOC_STAT, 15, 0⟩
def fNOC_ERR_ce_cnt : Fld := ⟨.NOC_ERR, 31, 16⟩
def fNOC_ERR_ue_cnt : Fld := ⟨.NOC_ERR, 15, 8⟩
def fNOC_ERR_valid : Fld := ⟨.NOC_ERR, 7, 7⟩
def fNOC_ERR_router : Fld := ⟨.NOC_ERR, 5, 0⟩
def fNOC_RT_SEL_gen : Fld := ⟨.NOC_RT_SEL, 14, 14⟩
def fNOC_RT_SEL_router : Fld := ⟨.NOC_RT_SEL, 13, 8⟩
def fNOC_RT_SEL_entry : Fld := ⟨.NOC_RT_SEL, 5, 0⟩
def fNOC_RT_DATA_link : Fld := ⟨.NOC_RT_DATA, 2, 0⟩
def fPROXY_STAT_asleep : Fld := ⟨.PROXY_STAT, 31, 16⟩
def fPROXY_STAT_held : Fld := ⟨.PROXY_STAT, 15, 8⟩
def fPROXY_STAT_ev_drop : Fld := ⟨.PROXY_STAT, 7, 0⟩
def fTSEQ_CTL_run : Fld := ⟨.TSEQ_CTL, 31, 31⟩
def fTSEQ_CTL_tbl_en : Fld := ⟨.TSEQ_CTL, 24, 24⟩
def fTSEQ_CTL_tbl_len : Fld := ⟨.TSEQ_CTL, 23, 16⟩
def fTSEQ_STAT_swap_armed : Fld := ⟨.TSEQ_STAT, 31, 31⟩
def fTSEQ_STAT_swap_busy : Fld := ⟨.TSEQ_STAT, 30, 30⟩
def fTSEQ_STAT_darn_busy : Fld := ⟨.TSEQ_STAT, 29, 29⟩
def fTSEQ_STAT_parked : Fld := ⟨.TSEQ_STAT, 28, 28⟩
def fTSEQ_STAT_dead_cnt : Fld := ⟨.TSEQ_STAT, 15, 0⟩
def fTSEQ_SRC_LO_mask : Fld := ⟨.TSEQ_SRC_LO, 31, 0⟩
def fTSEQ_SRC_HI_mask : Fld := ⟨.TSEQ_SRC_HI, 31, 0⟩
def fTSEQ_URG_LO_mask : Fld := ⟨.TSEQ_URG_LO, 31, 0⟩
def fTSEQ_URG_HI_mask : Fld := ⟨.TSEQ_URG_HI, 31, 0⟩
def fTSEQ_LANE_LO_lanes : Fld := ⟨.TSEQ_LANE_LO, 23, 0⟩
def fTSEQ_LANE_HI_lanes : Fld := ⟨.TSEQ_LANE_HI, 17, 0⟩
def fSWAP_CTL_arm : Fld := ⟨.SWAP_CTL, 31, 31⟩
def fSWAP_CTL_cancel : Fld := ⟨.SWAP_CTL, 30, 30⟩
def fSWAP_CTL_last_status : Fld := ⟨.SWAP_CTL, 23, 16⟩
def fSWAP_CTL_swap_count : Fld := ⟨.SWAP_CTL, 15, 0⟩
def fDARN_MAP_rows : Fld := ⟨.DARN_MAP, 31, 0⟩
def fDARN_STAT_busy : Fld := ⟨.DARN_STAT, 31, 31⟩
def fDARN_STAT_result : Fld := ⟨.DARN_STAT, 9, 8⟩
def fDARN_STAT_row : Fld := ⟨.DARN_STAT, 6, 4⟩
def fDARN_STAT_col : Fld := ⟨.DARN_STAT, 2, 0⟩
def fLL_FAULT_valid : Fld := ⟨.LL_FAULT, 31, 31⟩
def fLL_FAULT_failed : Fld := ⟨.LL_FAULT, 30, 30⟩
def fLL_FAULT_idx : Fld := ⟨.LL_FAULT, 20, 17⟩
def fLL_FAULT_seg : Fld := ⟨.LL_FAULT, 16, 0⟩
def fCLK_CTL_freq : Fld := ⟨.CLK_CTL, 6, 0⟩
def fCLK_STAT_locked : Fld := ⟨.CLK_STAT, 31, 31⟩
def fCLK_STAT_slewing : Fld := ⟨.CLK_STAT, 30, 30⟩
def fCLK_STAT_fail : Fld := ⟨.CLK_STAT, 29, 29⟩
def fCLK_STAT_fail_cnt : Fld := ⟨.CLK_STAT, 23, 16⟩
def fCLK_STAT_freq_now : Fld := ⟨.CLK_STAT, 6, 0⟩
def fAVS_CTL_en : Fld := ⟨.AVS_CTL, 31, 31⟩
def fAVS_CTL_vmax : Fld := ⟨.AVS_CTL, 21, 16⟩
def fAVS_CTL_vmin : Fld := ⟨.AVS_CTL, 13, 8⟩
def fAVS_CTL_vman : Fld := ⟨.AVS_CTL, 5, 0⟩
def fAVS_STAT_limit : Fld := ⟨.AVS_STAT, 31, 31⟩
def fAVS_STAT_vnow : Fld := ⟨.AVS_STAT, 21, 16⟩
def fAVS_STAT_margin : Fld := ⟨.AVS_STAT, 15, 8⟩
def fAVS_STAT_stretch : Fld := ⟨.AVS_STAT, 7, 0⟩
def fAGE_STAT_shift : Fld := ⟨.AGE_STAT, 31, 16⟩
def fAGE_STAT_meas : Fld := ⟨.AGE_STAT, 15, 0⟩
def fBANK_COLL_cnt : Fld := ⟨.BANK_COLL, 31, 0⟩
def fBANK_CTL_clr : Fld := ⟨.BANK_CTL, 31, 31⟩
def fBANK_CTL_coll_ev : Fld := ⟨.BANK_CTL, 0, 0⟩
def fTBL_entry : Fld := ⟨.TBL, 31, 0⟩
def fCELL_CSEL_frz : Fld := ⟨.CELL_CSEL, 31, 31⟩
def fCELL_CSEL_row : Fld := ⟨.CELL_CSEL, 6, 4⟩
def fCELL_CSEL_col : Fld := ⟨.CELL_CSEL, 3, 0⟩
def fCELL_CWORD_count : Fld := ⟨.CELL_CWORD, 31, 0⟩
def fCELL_CEMPTY_count : Fld := ⟨.CELL_CEMPTY, 31, 0⟩
def fCELL_CBUBBLE_count : Fld := ⟨.CELL_CBUBBLE, 31, 0⟩
def fCELL_CHOLD_count : Fld := ⟨.CELL_CHOLD, 31, 0⟩
def fCELL_CFORCED_count : Fld := ⟨.CELL_CFORCED, 31, 0⟩
def fCELL_COVF_count : Fld := ⟨.CELL_COVF, 31, 0⟩
def fYARN_SEL_entry : Fld := ⟨.YARN_SEL, 13, 0⟩
def fYARN_STAT_prio : Fld := ⟨.YARN_STAT, 26, 24⟩
def fYARN_STAT_state : Fld := ⟨.YARN_STAT, 23, 20⟩
def fYARN_STAT_in_flight : Fld := ⟨.YARN_STAT, 19, 16⟩
def fYARN_STAT_yarn : Fld := ⟨.YARN_STAT, 14, 0⟩
def fYARN_OVF_ovf_count : Fld := ⟨.YARN_OVF, 31, 0⟩
def fBEAT_CTL_pend : Fld := ⟨.BEAT_CTL, 31, 31⟩
def fBEAT_CTL_period : Fld := ⟨.BEAT_CTL, 16, 0⟩
def fBEAT_NUM_LO_num : Fld := ⟨.BEAT_NUM_LO, 31, 0⟩
def fBEAT_NUM_HI_num : Fld := ⟨.BEAT_NUM_HI, 15, 0⟩
def fBEAT_CMT_LO_num : Fld := ⟨.BEAT_CMT_LO, 31, 0⟩
def fBEAT_CMT_HI_num : Fld := ⟨.BEAT_CMT_HI, 15, 0⟩
def fBEAT_STAT_split : Fld := ⟨.BEAT_STAT, 31, 31⟩
def fBEAT_STAT_peer_lost : Fld := ⟨.BEAT_STAT, 30, 30⟩
def fBEAT_STAT_late : Fld := ⟨.BEAT_STAT, 29, 29⟩
def fBEAT_STAT_lag : Fld := ⟨.BEAT_STAT, 19, 16⟩
def fBEAT_STAT_late_cnt : Fld := ⟨.BEAT_STAT, 15, 0⟩
def fJRN_BASE_granules : Fld := ⟨.JRN_BASE, 22, 0⟩
def fJRN_SIZE_granules : Fld := ⟨.JRN_SIZE, 19, 0⟩
def fJRN_STAT_full : Fld := ⟨.JRN_STAT, 31, 31⟩
def fJRN_STAT_use : Fld := ⟨.JRN_STAT, 30, 24⟩
def fJRN_STAT_rsz_pend : Fld := ⟨.JRN_STAT, 23, 23⟩
def fJRN_STAT_rsz_refused : Fld := ⟨.JRN_STAT, 22, 22⟩
def fJRN_STAT_refused : Fld := ⟨.JRN_STAT, 15, 0⟩
def fRPL_STAT_active : Fld := ⟨.RPL_STAT, 31, 31⟩
def fRPL_STAT_groups : Fld := ⟨.RPL_STAT, 30, 24⟩
def fRPL_STAT_lost : Fld := ⟨.RPL_STAT, 23, 16⟩
def fRPL_STAT_count : Fld := ⟨.RPL_STAT, 15, 0⟩
def fRPL_LAST_valid : Fld := ⟨.RPL_LAST, 31, 31⟩
def fRPL_LAST_result : Fld := ⟨.RPL_LAST, 30, 28⟩
def fRPL_LAST_class : Fld := ⟨.RPL_LAST, 27, 24⟩
def fRPL_LAST_id : Fld := ⟨.RPL_LAST, 15, 0⟩
def fBOB_SEL_entry : Fld := ⟨.BOB_SEL, 14, 0⟩
def fBOB_STAT_state : Fld := ⟨.BOB_STAT, 31, 28⟩
def fBOB_STAT_rsz_pend : Fld := ⟨.BOB_STAT, 27, 27⟩
def fBOB_STAT_open : Fld := ⟨.BOB_STAT, 26, 26⟩
def fBOB_STAT_delivering : Fld := ⟨.BOB_STAT, 25, 25⟩
def fBOB_STAT_wstat : Fld := ⟨.BOB_STAT, 19, 16⟩
def fBOB_STAT_items : Fld := ⟨.BOB_STAT, 15, 0⟩
def fBOB_QUOTA_refused : Fld := ⟨.BOB_QUOTA, 31, 31⟩
def fBOB_QUOTA_quota : Fld := ⟨.BOB_QUOTA, 16, 0⟩
def fBOB_CTL_flush : Fld := ⟨.BOB_CTL, 0, 0⟩
def fBOB_POP_TAG_status : Fld := ⟨.BOB_POP_TAG, 31, 30⟩
def fBOB_POP_TAG_tag : Fld := ⟨.BOB_POP_TAG, 11, 0⟩
def fBOB_POP_data : Fld := ⟨.BOB_POP, 31, 0⟩
def fBOB_PUSH_TAG_tag : Fld := ⟨.BOB_PUSH_TAG, 11, 0⟩
def fBOB_PUSH_data : Fld := ⟨.BOB_PUSH, 31, 0⟩
def fBOB_ERR_valid : Fld := ⟨.BOB_ERR, 31, 31⟩
def fBOB_ERR_cause : Fld := ⟨.BOB_ERR, 17, 16⟩
def fBOB_ERR_bobbin : Fld := ⟨.BOB_ERR, 15, 0⟩
def fBOB_ERR_WP1_wp : Fld := ⟨.BOB_ERR_WP1, 31, 0⟩
def fBOB_ERR_WP2_wp : Fld := ⟨.BOB_ERR_WP2, 31, 0⟩
def fBOB_ERR_RP1_rp : Fld := ⟨.BOB_ERR_RP1, 31, 0⟩
def fBOB_ERR_RP2_rp : Fld := ⟨.BOB_ERR_RP2, 31, 0⟩
def fPCFG_en : Fld := ⟨.PCFG, 31, 31⟩
def fPCFG_mode : Fld := ⟨.PCFG, 26, 24⟩
def fPCFG_fec : Fld := ⟨.PCFG, 23, 22⟩
def fPCFG_an_en : Fld := ⟨.PCFG, 21, 21⟩
def fPCFG_lpbk : Fld := ⟨.PCFG, 20, 20⟩
def fPCFG_ptp_en : Fld := ⟨.PCFG, 19, 19⟩
def fPCS_STAT_link : Fld := ⟨.PCS_STAT, 31, 31⟩
def fPCS_STAT_blk_lock : Fld := ⟨.PCS_STAT, 30, 30⟩
def fPCS_STAT_hi_ber : Fld := ⟨.PCS_STAT, 29, 29⟩
def fPCS_STAT_rem_fault : Fld := ⟨.PCS_STAT, 28, 28⟩
def fPCS_STAT_fec_lock : Fld := ⟨.PCS_STAT, 27, 27⟩
def fPCS_STAT_los_cnt : Fld := ⟨.PCS_STAT, 23, 16⟩
def fPCS_STAT_fec_ce : Fld := ⟨.PCS_STAT, 15, 0⟩
def fRX_DROP_no_match : Fld := ⟨.RX_DROP, 31, 16⟩
def fRX_DROP_bad : Fld := ⟨.RX_DROP, 15, 0⟩
def fQBV_CTL_change : Fld := ⟨.QBV_CTL, 31, 31⟩
def fQBV_CTL_pend : Fld := ⟨.QBV_CTL, 30, 30⟩
def fQBV_CTL_en : Fld := ⟨.QBV_CTL, 29, 29⟩
def fQBV_CTL_alen : Fld := ⟨.QBV_CTL, 7, 0⟩
def fQBV_BASE_NS_value : Fld := ⟨.QBV_BASE_NS, 29, 0⟩
def fQBV_BASE_S_value : Fld := ⟨.QBV_BASE_S, 31, 0⟩
def fQBV_CYCLE_value : Fld := ⟨.QBV_CYCLE, 29, 0⟩
def fPL_CTL_run : Fld := ⟨.PL_CTL, 31, 31⟩
def fPL_CTL_disc : Fld := ⟨.PL_CTL, 30, 30⟩
def fPL_CTL_heal : Fld := ⟨.PL_CTL, 29, 29⟩
def fPL_PERIOD_value : Fld := ⟨.PL_PERIOD, 20, 0⟩
def fPL_BASE_NS_value : Fld := ⟨.PL_BASE_NS, 29, 0⟩
def fPL_BASE_S_value : Fld := ⟨.PL_BASE_S, 31, 0⟩
def fPL_LEAD_value : Fld := ⟨.PL_LEAD, 20, 0⟩
def fPL_NODES_count : Fld := ⟨.PL_NODES, 23, 16⟩
def fPL_NODES_base : Fld := ⟨.PL_NODES, 11, 0⟩
def fPL_STAT_rstate : Fld := ⟨.PL_STAT, 31, 29⟩
def fPL_STAT_even_reach : Fld := ⟨.PL_STAT, 23, 16⟩
def fPL_STAT_odd_first : Fld := ⟨.PL_STAT, 15, 8⟩
def fPL_STAT_cycle : Fld := ⟨.PL_STAT, 7, 0⟩
def fPL_ERR_crc : Fld := ⟨.PL_ERR, 31, 24⟩
def fPL_ERR_lost : Fld := ⟨.PL_ERR, 23, 16⟩
def fPL_ERR_heal : Fld := ⟨.PL_ERR, 15, 8⟩
def fPL_ERR_lead : Fld := ⟨.PL_ERR, 7, 0⟩
def fPL_DLY_dly_odd : Fld := ⟨.PL_DLY, 31, 16⟩
def fPL_DLY_dly_even : Fld := ⟨.PL_DLY, 15, 0⟩
def fHBM_STAT_changing : Fld := ⟨.HBM_STAT, 31, 31⟩
def fHBM_STAT_rate : Fld := ⟨.HBM_STAT, 30, 29⟩
def fHBM_STAT_refresh : Fld := ⟨.HBM_STAT, 28, 27⟩
def fHBM_STAT_temp : Fld := ⟨.HBM_STAT, 15, 8⟩
def fHBM_ECC_ce : Fld := ⟨.HBM_ECC, 31, 16⟩
def fHBM_ECC_ue : Fld := ⟨.HBM_ECC, 15, 8⟩
def fHBM_ECC_ode : Fld := ⟨.HBM_ECC, 7, 0⟩
def fHBM_UE_ADDR_valid : Fld := ⟨.HBM_UE_ADDR, 31, 31⟩
def fHBM_UE_ADDR_page : Fld := ⟨.HBM_UE_ADDR, 22, 0⟩
def fHBM_RET_pc_ret : Fld := ⟨.HBM_RET, 31, 31⟩
def fHBM_RET_pc : Fld := ⟨.HBM_RET, 30, 26⟩
def fHBM_RET_copying : Fld := ⟨.HBM_RET, 25, 25⟩
def fHBM_RET_pages : Fld := ⟨.HBM_RET, 15, 0⟩
def fCFG_STAT_busy : Fld := ⟨.CFG_STAT, 31, 31⟩
def fCFG_STAT_done : Fld := ⟨.CFG_STAT, 30, 30⟩
def fCFG_STAT_err : Fld := ⟨.CFG_STAT, 29, 29⟩
def fCFG_STAT_fallback : Fld := ⟨.CFG_STAT, 28, 28⟩
def fCFG_STAT_src : Fld := ⟨.CFG_STAT, 27, 26⟩
def fCFG_STAT_steps : Fld := ⟨.CFG_STAT, 25, 22⟩
def fCFG_STAT_seg : Fld := ⟨.CFG_STAT, 15, 8⟩
def fCFG_STAT_code : Fld := ⟨.CFG_STAT, 7, 0⟩
def fCFG_PROG_seg_done : Fld := ⟨.CFG_PROG, 15, 8⟩
def fCFG_PROG_seg_count : Fld := ⟨.CFG_PROG, 7, 0⟩
def fSCRUB_CTL_en : Fld := ⟨.SCRUB_CTL, 31, 31⟩
def fSCRUB_STAT_rewrites : Fld := ⟨.SCRUB_STAT, 31, 16⟩
def fSCRUB_STAT_unrepaired : Fld := ⟨.SCRUB_STAT, 15, 8⟩
def fSCRUB_STAT_cycles : Fld := ⟨.SCRUB_STAT, 7, 0⟩
def fSCRUB_LAST_valid : Fld := ⟨.SCRUB_LAST, 31, 31⟩
def fSCRUB_LAST_unrepaired : Fld := ⟨.SCRUB_LAST, 30, 30⟩
def fSCRUB_LAST_frame : Fld := ⟨.SCRUB_LAST, 23, 0⟩
def fBRD_CTL_retrain : Fld := ⟨.BRD_CTL, 31, 31⟩
def fBRD_CTL_hold_down : Fld := ⟨.BRD_CTL, 30, 30⟩
def fBRD_STAT_lstate : Fld := ⟨.BRD_STAT, 31, 29⟩
def fBRD_STAT_half_sel : Fld := ⟨.BRD_STAT, 28, 28⟩
def fBRD_STAT_split : Fld := ⟨.BRD_STAT, 27, 27⟩
def fBRD_STAT_rejoin_pend : Fld := ⟨.BRD_STAT, 26, 26⟩
def fBRD_STAT_lane_ok : Fld := ⟨.BRD_STAT, 23, 0⟩
def fBRD_ERR_retrain_cnt : Fld := ⟨.BRD_ERR, 31, 24⟩
def fBRD_ERR_down_cnt : Fld := ⟨.BRD_ERR, 23, 16⟩
def fBRD_ERR_nak_cnt : Fld := ⟨.BRD_ERR, 15, 0⟩
def fCXL_LINK_STAT_up : Fld := ⟨.CXL_LINK_STAT, 31, 31⟩
def fCXL_LINK_STAT_rate : Fld := ⟨.CXL_LINK_STAT, 30, 28⟩
def fCXL_LINK_STAT_width : Fld := ⟨.CXL_LINK_STAT, 27, 26⟩
def fCXL_LINK_STAT_flit : Fld := ⟨.CXL_LINK_STAT, 25, 24⟩
def fCXL_LINK_STAT_cxl : Fld := ⟨.CXL_LINK_STAT, 23, 23⟩
def fCXL_LINK_STAT_cache_en : Fld := ⟨.CXL_LINK_STAT, 22, 22⟩
def fCXL_LINK_STAT_mem_en : Fld := ⟨.CXL_LINK_STAT, 21, 21⟩
def fCXL_LINK_STAT_ide_io : Fld := ⟨.CXL_LINK_STAT, 20, 20⟩
def fCXL_LINK_STAT_ide_cm : Fld := ⟨.CXL_LINK_STAT, 19, 19⟩
def fCXL_LINK_STAT_down_cnt : Fld := ⟨.CXL_LINK_STAT, 15, 8⟩
def fCXL_LINK_STAT_retrain_cnt : Fld := ⟨.CXL_LINK_STAT, 7, 0⟩
def fFCLK_STAT_pll0_lock : Fld := ⟨.FCLK_STAT, 31, 31⟩
def fFCLK_STAT_pll1_lock : Fld := ⟨.FCLK_STAT, 30, 30⟩
def fFCLK_STAT_ro_run : Fld := ⟨.FCLK_STAT, 29, 26⟩
def fFCLK_STAT_lock_lost : Fld := ⟨.FCLK_STAT, 25, 25⟩
def fFCLK_STAT_net_on : Fld := ⟨.FCLK_STAT, 7, 0⟩
def fRO_CNT_count : Fld := ⟨.RO_CNT, 15, 0⟩
def fFIO_STAT_rail_ok : Fld := ⟨.FIO_STAT, 31, 31⟩
def fFIO_STAT_rail_v : Fld := ⟨.FIO_STAT, 30, 30⟩
def fFIO_STAT_lost : Fld := ⟨.FIO_STAT, 29, 29⟩
def fFIO_IN_level : Fld := ⟨.FIO_IN, 31, 0⟩
def fGATE_IN_bound : Fld := ⟨.GATE_IN, 31, 31⟩
def fGATE_IN_wstat : Fld := ⟨.GATE_IN, 19, 16⟩
def fGATE_IN_bobbin : Fld := ⟨.GATE_IN, 15, 0⟩
def fGATE_OUT_bound : Fld := ⟨.GATE_OUT, 31, 31⟩
def fGATE_OUT_delivering : Fld := ⟨.GATE_OUT, 30, 30⟩
def fGATE_OUT_bobbin : Fld := ⟨.GATE_OUT, 15, 0⟩
def fGATE_CNT_items_in : Fld := ⟨.GATE_CNT, 31, 16⟩
def fGATE_CNT_items_out : Fld := ⟨.GATE_CNT, 15, 0⟩
def fSER_CTL_en : Fld := ⟨.SER_CTL, 31, 31⟩
def fSER_CTL_mode : Fld := ⟨.SER_CTL, 30, 29⟩
def fSER_CTL_spi_mode : Fld := ⟨.SER_CTL, 28, 27⟩
def fSER_CTL_parity : Fld := ⟨.SER_CTL, 26, 25⟩
def fSER_CTL_stop2 : Fld := ⟨.SER_CTL, 24, 24⟩
def fSER_CTL_flow : Fld := ⟨.SER_CTL, 23, 23⟩
def fSER_CTL_addr : Fld := ⟨.SER_CTL, 22, 16⟩
def fSER_CTL_div : Fld := ⟨.SER_CTL, 15, 0⟩
def fSER_STAT_busy : Fld := ⟨.SER_STAT, 31, 31⟩
def fSER_STAT_rx_ovf : Fld := ⟨.SER_STAT, 30, 30⟩
def fSER_STAT_tx_ovf : Fld := ⟨.SER_STAT, 29, 29⟩
def fSER_STAT_err : Fld := ⟨.SER_STAT, 28, 28⟩
def fSER_STAT_tx_lvl : Fld := ⟨.SER_STAT, 22, 16⟩
def fSER_STAT_rx_lvl : Fld := ⟨.SER_STAT, 6, 0⟩
def fSER_TXD_txd : Fld := ⟨.SER_TXD, 10, 0⟩
def fSER_RXD_empty : Fld := ⟨.SER_RXD, 31, 31⟩
def fSER_RXD_byte : Fld := ⟨.SER_RXD, 7, 0⟩
def fDBG_STAT_session : Fld := ⟨.DBG_STAT, 31, 31⟩
def fDBG_STAT_scope : Fld := ⟨.DBG_STAT, 30, 28⟩
def fDBG_STAT_lockout : Fld := ⟨.DBG_STAT, 27, 27⟩
def fDBG_STAT_forced : Fld := ⟨.DBG_STAT, 26, 26⟩
def fDBG_STAT_dbg_rst : Fld := ⟨.DBG_STAT, 25, 25⟩
def fDBG_STAT_hard : Fld := ⟨.DBG_STAT, 19, 18⟩
def fDBG_STAT_mon : Fld := ⟨.DBG_STAT, 17, 16⟩
def fDBG_STAT_fails : Fld := ⟨.DBG_STAT, 15, 0⟩
def fDBG_HALT_LO_halted : Fld := ⟨.DBG_HALT_LO, 31, 0⟩
def fDBG_HALT_HI_halted : Fld := ⟨.DBG_HALT_HI, 3, 0⟩
def fBP_CTL_en : Fld := ⟨.BP_CTL, 31, 31⟩
def fBP_CTL_kind : Fld := ⟨.BP_CTL, 30, 28⟩
def fBP_CTL_link : Fld := ⟨.BP_CTL, 27, 26⟩
def fBP_CTL_action : Fld := ⟨.BP_CTL, 25, 24⟩
def fBP_CTL_fired : Fld := ⟨.BP_CTL, 23, 23⟩
def fBP_CTL_rw : Fld := ⟨.BP_CTL, 17, 16⟩
def fBP_CTL_count : Fld := ⟨.BP_CTL, 15, 0⟩
def fBP_SEL_use_yarn : Fld := ⟨.BP_SEL, 31, 31⟩
def fBP_SEL_yarn : Fld := ⟨.BP_SEL, 30, 16⟩
def fBP_SEL_use_idx : Fld := ⟨.BP_SEL, 15, 15⟩
def fBP_SEL_idx : Fld := ⟨.BP_SEL, 14, 11⟩
def fBP_SEL_use_cell : Fld := ⟨.BP_SEL, 10, 10⟩
def fBP_SEL_row : Fld := ⟨.BP_SEL, 9, 7⟩
def fBP_SEL_col : Fld := ⟨.BP_SEL, 6, 3⟩
def fBP_VAL_val : Fld := ⟨.BP_VAL, 31, 0⟩
def fBP_MASK_mask : Fld := ⟨.BP_MASK, 31, 0⟩
def fBP_TAG_mask : Fld := ⟨.BP_TAG, 27, 16⟩
def fBP_TAG_tag : Fld := ⟨.BP_TAG, 11, 0⟩
def fBP_HITS_hits : Fld := ⟨.BP_HITS, 31, 0⟩
def fMT_CTL_start : Fld := ⟨.MT_CTL, 31, 31⟩
def fMT_CTL_abort : Fld := ⟨.MT_CTL, 30, 30⟩
def fMT_CTL_mode : Fld := ⟨.MT_CTL, 13, 13⟩
def fMT_CTL_alg : Fld := ⟨.MT_CTL, 12, 11⟩
def fMT_CTL_bg : Fld := ⟨.MT_CTL, 10, 7⟩
def fMT_CTL_tgt : Fld := ⟨.MT_CTL, 2, 0⟩
def fMT_HSEL_LO_hsel : Fld := ⟨.MT_HSEL_LO, 31, 0⟩
def fMT_HSEL_HI_hsel : Fld := ⟨.MT_HSEL_HI, 3, 0⟩
def fMT_STAT_busy : Fld := ⟨.MT_STAT, 31, 31⟩
def fMT_STAT_refused : Fld := ⟨.MT_STAT, 30, 30⟩
def fMT_STAT_fail : Fld := ⟨.MT_STAT, 29, 29⟩
def fMT_STAT_skipped : Fld := ⟨.MT_STAT, 27, 16⟩
def fMT_STAT_pct : Fld := ⟨.MT_STAT, 6, 0⟩
def fMT_FAIL_valid : Fld := ⟨.MT_FAIL, 31, 31⟩
def fMT_FAIL_mem : Fld := ⟨.MT_FAIL, 30, 29⟩
def fMT_FAIL_harness : Fld := ⟨.MT_FAIL, 27, 22⟩
def fMT_FAIL_unit : Fld := ⟨.MT_FAIL, 21, 18⟩
def fMT_FAIL_row : Fld := ⟨.MT_FAIL, 17, 15⟩
def fMT_FAIL_ADDR_addr : Fld := ⟨.MT_FAIL_ADDR, 15, 0⟩
def fMEM_ECC_ce : Fld := ⟨.MEM_ECC, 31, 16⟩
def fMEM_ECC_ue_scr : Fld := ⟨.MEM_ECC, 15, 11⟩
def fMEM_ECC_ue_bank : Fld := ⟨.MEM_ECC, 10, 6⟩
def fMEM_ECC_ue_nsto : Fld := ⟨.MEM_ECC, 5, 1⟩
def fREP_STAT_used : Fld := ⟨.REP_STAT, 12, 0⟩
def fHW_ID_part : Fld := ⟨.HW_ID, 31, 16⟩
def fHW_ID_stepping : Fld := ⟨.HW_ID, 15, 8⟩
def fSERIAL_LO_serial : Fld := ⟨.SERIAL_LO, 31, 0⟩
def fSERIAL_HI_serial : Fld := ⟨.SERIAL_HI, 31, 0⟩
def fCAP_cap : Fld := ⟨.CAP, 31, 0⟩
def fFW_VER_major : Fld := ⟨.FW_VER, 31, 24⟩
def fFW_VER_minor : Fld := ⟨.FW_VER, 23, 16⟩
def fFW_VER_build : Fld := ⟨.FW_VER, 15, 1⟩
def fFW_VER_slot : Fld := ⟨.FW_VER, 0, 0⟩
def fIMG_ID_id : Fld := ⟨.IMG_ID, 31, 0⟩
def fDEV_STATE_host_ready : Fld := ⟨.DEV_STATE, 31, 31⟩
def fDEV_STATE_ctl_halted1 : Fld := ⟨.DEV_STATE, 30, 30⟩
def fDEV_STATE_ctl_halted0 : Fld := ⟨.DEV_STATE, 29, 29⟩
def fDEV_STATE_split : Fld := ⟨.DEV_STATE, 28, 28⟩
def fDEV_STATE_peer_lost : Fld := ⟨.DEV_STATE, 27, 27⟩
def fDEV_STATE_die1 : Fld := ⟨.DEV_STATE, 26, 25⟩
def fDEV_STATE_die0 : Fld := ⟨.DEV_STATE, 24, 23⟩
def fDEV_STATE_pwr_cap : Fld := ⟨.DEV_STATE, 22, 22⟩
def fDEV_BEAT_LO_beat : Fld := ⟨.DEV_BEAT_LO, 31, 0⟩
def fDEV_BEAT_HI_beat : Fld := ⟨.DEV_BEAT_HI, 15, 0⟩
def fDEV_PERIOD_period : Fld := ⟨.DEV_PERIOD, 16, 0⟩
def fDIAG_CTL_unlocked : Fld := ⟨.DIAG_CTL, 1, 1⟩
def fDIAG_CTL_inspect : Fld := ⟨.DIAG_CTL, 0, 0⟩
def fDIAG_STAT_valid : Fld := ⟨.DIAG_STAT, 31, 31⟩
def fDIAG_STAT_status : Fld := ⟨.DIAG_STAT, 29, 25⟩
def fDIAG_STAT_word : Fld := ⟨.DIAG_STAT, 24, 0⟩
def fHOST_ERR_hdm_denied : Fld := ⟨.HOST_ERR, 31, 16⟩
def fHOST_ERR_db_err : Fld := ⟨.HOST_ERR, 15, 8⟩
def fHOST_ERR_acc_err : Fld := ⟨.HOST_ERR, 7, 0⟩
def fQP_DB_SQ_tail : Fld := ⟨.QP_DB_SQ, 15, 0⟩
def fQP_DB_CQ_head : Fld := ⟨.QP_DB_CQ, 15, 0⟩
def fREGION_DB_index : Fld := ⟨.REGION_DB, 15, 0⟩
def fSQ_BASE_LO_base : Fld := ⟨.SQ_BASE_LO, 31, 6⟩
def fSQ_BASE_HI_base : Fld := ⟨.SQ_BASE_HI, 31, 0⟩
def fCQ_BASE_LO_base : Fld := ⟨.CQ_BASE_LO, 31, 5⟩
def fCQ_BASE_HI_base : Fld := ⟨.CQ_BASE_HI, 31, 0⟩
def fQP_SIZE_cq_size : Fld := ⟨.QP_SIZE, 27, 16⟩
def fQP_SIZE_sq_size : Fld := ⟨.QP_SIZE, 11, 0⟩
def fQP_CTL_en : Fld := ⟨.QP_CTL, 31, 31⟩
def fQP_CTL_vector : Fld := ⟨.QP_CTL, 21, 16⟩
def fQP_CTL_coal : Fld := ⟨.QP_CTL, 7, 0⟩
def fQP_STAT_ready : Fld := ⟨.QP_STAT, 31, 31⟩
def fQP_STAT_err : Fld := ⟨.QP_STAT, 30, 30⟩
def fQP_STAT_cause : Fld := ⟨.QP_STAT, 27, 24⟩
def fQP_STAT_sq_head : Fld := ⟨.QP_STAT, 15, 0⟩
def fQP_LAST_beat : Fld := ⟨.QP_LAST, 31, 16⟩
def fQP_LAST_cid : Fld := ⟨.QP_LAST, 15, 0⟩
def fQP_EVT_mask : Fld := ⟨.QP_EVT, 31, 1⟩
def fEVT_PEND_pend : Fld := ⟨.EVT_PEND, 31, 1⟩
def fEVT_EN_en : Fld := ⟨.EVT_EN, 31, 1⟩
def fEVT_VEC_vec : Fld := ⟨.EVT_VEC, 5, 0⟩
def fEVT_LOST_lost : Fld := ⟨.EVT_LOST, 15, 0⟩
def fMSIX_ADDR_LO_addr : Fld := ⟨.MSIX_ADDR_LO, 31, 0⟩
def fMSIX_ADDR_HI_addr : Fld := ⟨.MSIX_ADDR_HI, 31, 0⟩
def fMSIX_DATA_data : Fld := ⟨.MSIX_DATA, 31, 0⟩
def fMSIX_CTL_mask : Fld := ⟨.MSIX_CTL, 0, 0⟩
def fMSIX_PBA_pend : Fld := ⟨.MSIX_PBA, 31, 0⟩

end Sys2Proof.Machine
end

