-- ==== Sys2Proof/Syntax.lean ====
section
/-! DEFINITION. The commands of the device as a block: one constructor of `Instr` for each row of the operation
and event table, in the table's order. An operand is either which unit the step happens in, or what comes into
the device from outside at that step (a frame, a temperature, a monitor reading, an upset, a signature). -/

namespace Sys2Proof
open Machine

/-- An upset that the cell's own checks detect in a cycle (R82, R251). -/
inductive CellUpset where
  | draftParity | regParity | residue | scratchCorrected | scratchUncorrectable
  deriving DecidableEq, Repr

/-- Why the firmware darns a cell (R116). -/
inductive DarnWhy where
  | secondFault | march | host
  deriving DecidableEq, Repr

/-- Where a word written into a bobbin comes from: an output lane of a harness gateway (R131) or an entry-point
producer with the word it sends (R24). -/
inductive WordSrc where
  | lane (d : Die) (h : Harn) (l : Fin 8)
  | entry (w : TWord)
  deriving DecidableEq, Repr

/-- What a read of HBM finds (R262, R263). -/
inductive ReadOutcome where
  | clean | corrected | uncorrectable | onDie
  deriving DecidableEq, Repr

/-- What the beat engine finds when it reads checkpoints and journal entries for a restore (R185, R262): all readable, all readable
with a granule corrected, the last committed checkpoint unreadable, neither checkpoint readable, or a needed journal entry
unreadable. -/
inductive RestoreRead where
  | good | corrected | lastBad | bothBad | entryBad
  deriving DecidableEq, Repr

/-- What a network access finds in the memory it reaches: the outcome of its error check at one place, as a 64-bit word of a bank
memory, a granule of a stack, or a word of a request for several (R254, R262), the 64-bit words of a write that port A writes
in its cycle (R253), and whether the sink of an event has taken the event before it (R232). -/
structure Finds where
  ecc   : ReadOutcome
  pos   : BitVec 5
  clash : List (Fin 8)
  taken : Bool := true
  deriving DecidableEq, Repr

/-- What the admission of an item finds (R254, R256): nothing, a frame with a word corrected, a frame with an uncorrectable word, or
an uncorrectable yarn table entry. -/
inductive AdmitUpset where
  | none | frameCorrected | frameBad | yarnBad
  deriving DecidableEq, Repr

/-- What the bobbin engine finds (R255, R256): nothing, a near-store entry corrected, an uncorrectable near-store entry, or an
uncorrectable bobbin table entry. -/
inductive BobUpset where
  | none | corrected | bad | entryBad
  deriving DecidableEq, Repr

/-- The place of a test word that fails in a march test, as MT_FAIL and MT_FAIL_ADDR show it (R273). -/
structure MarchPlace where
  mem  : Fin 3
  har  : Harn
  unit : BitVec 4
  row  : Row
  addr : BitVec 16
  deriving DecidableEq, Repr

/-- What a router finds in the flits of a packet (R228). -/
inductive FlitErr where
  | none | corrected | data | header
  deriving DecidableEq, Repr

/-- The message classes of R225. -/
inductive MsgClass where
  | request | response | spill | event
  deriving DecidableEq, Repr

/-- A packet: the header fields of R225 and its payload (R226); `len` is the flits less one and `addr` is in 64-byte units. For
a CFGR packet `write` says read or write, `inspect` is the inspect attribute and `sub` the word of the 64-byte unit (log entry
210). `status` is that of a response, which its header carries in bits [25:21]. `poison` is the mark of a router that found the
data damaged (R228). -/
structure Packet where
  cls     : MsgClass
  gen     : Bool
  dst     : BitVec 9
  src     : BitVec 9
  op      : BitVec 5
  len     : BitVec 4
  token   : BitVec 8
  addr    : BitVec 26
  status  : BitVec 5
  write   : Bool
  inspect : Bool
  data    : List Byte
  sub     : BitVec 4 := 0
  poison  : Bool := false
  deriving DecidableEq, Repr

/-- An event packet (R226, R232): its source, the router and port of the sink, its code and its 60 bytes of data. -/
structure NetEvent where
  src  : BitVec 9
  sink : BitVec 8
  code : BitVec 8
  data : BitVec 480
  deriving DecidableEq, Repr

/-- What the PCS of a port has found since its last report (R277, R292, R315). Of an Ethernet port: the link, its lock, whether
Clause 37 auto-negotiation is done, the remote fault, the FEC lock and whether the partner has answered the verification of
802.3br. Of a Pickline port: the sync headers that the receiver has looked at and the rx_ok bits of the IDLE blocks. Of both: the
high bit error ratio and the corrected FEC codewords. -/
structure LineState where
  link     : Bool
  blkLock  : Bool
  hiBer    : Bool
  remFault : Bool
  fecLock  : Bool
  anDone   : Bool
  verified : Bool
  fecCe    : BitVec 16
  headers  : List (BitVec 2)
  rxOk     : List Bool
  deriving DecidableEq, Repr

/-- A Pickline block: its sync header, 0b01 for data and 0b10 for control, and its 64 payload bits (R290, R291). -/
structure PlBlock where
  sync : BitVec 2
  data : BitVec 64
  deriving DecidableEq, Repr

/-- A command of the host (R330) as the queue engine holds it: the queue pair it came from, its fields, and the
bytes of its data buffer (`bufOk` is false when the buffer could not be read or read as poison). -/
structure HostCmd where
  qp     : Qp
  cid    : BitVec 16
  atBeat : Bool
  fence  : Bool
  opcode : Byte
  beat   : BitVec 48
  bufLen : Word
  ops    : List Word
  buf    : List Byte
  bufOk  : Bool
  deriving DecidableEq, Repr

/-- Where a personality image comes from (R377, R380): a slot of the NV store, the pins of the configuration slave port, or a
push by the firmware; the pins and the push bring the header and segment table with them, and the pins the bytes that came
before the first image since CFG_CS_N was asserted (R378). -/
inductive ImgSrc where
  | slot (b : Bool)
  | pins (sync head : List Byte)
  | pushed (head : List Byte)
  deriving DecidableEq, Repr

/-- What wakes the device (R437, R438, R445). -/
inductive WakeCause where
  | doorbell | pin | alarm (a : Fin 4) | comparator (c : Fin 8)
  deriving DecidableEq, Repr

/-- How a firmware swap ended (R362). -/
inductive SwapResult where
  | done (version : BitVec 31)
  | badSignature
  | watchdog
  deriving DecidableEq, Repr

/-- The kinds of host reset (R316, R343). -/
inductive HostResetKind where
  | hot | linkDown | flr | cxlReset | command
  deriving DecidableEq, Repr

/-- A request frame of the Selvedge wire: its sequence bit, its CRC byte, and whether its LEN and
argument values are the command's own (R451, R452, R454); `frame` is the CMD, LEN and argument bytes (R453). -/
structure SvReq where
  seq    : Bool
  crc    : Byte
  lenOk  : Bool
  frame  : List Byte
  deriving DecidableEq, Repr

/-- The memory that an access of the host through the function names: the Diagnostic Window (BAR 2, R324), the Host Window (BAR 0,
R322), or the function's configuration space (R318). -/
inductive HostSpace where
  | diag | window | config
  deriving DecidableEq, Repr

/-- What the firmware of a complex does that the manual gives a meaning: a call and a return (R349), a write of a register of the
current window, a load and a store at an internal address (R346, R351), the spill region of a bank (R350), the level of an event
line, none when it is not enabled, and whether the line enters fault entry (R351, R353), and one of the eight timers with its time
in µs (R353). -/
inductive CoreAct where
  | call
  | ret
  | setReg (r : Fin 16) (v : BitVec 64)
  | load (addr : BitVec 38) (r : Fin 16) (f : Finds)
  | store (addr : BitVec 38) (v : BitVec 64) (f : Finds)
  | region (bank : Fin 8) (base : BitVec 20) (limit : BitVec 16)
  | line (l : Fin 128) (level : Option (Fin 8)) (fault : Bool)
  | timer (t : Fin 8) (us : Option Nat)
  deriving DecidableEq, Repr

/-- The target of HALT and RESUME (R455). -/
inductive HaltTarget where
  | control | harness | all
  deriving DecidableEq, Repr

/-- The steps of the device, one constructor per row of the operation and event table. -/
inductive Instr where
  /-- CELL_CYCLE (R53) -/
  | cellCycle (d : Die) (h : Harn) (r : Row) (c : Col) (u : Option CellUpset)
  /-- REED_CYCLE (R93) -/
  | reedCycle (d : Die) (h : Harn) (i : Fin 64)
  /-- HARNESS_GATE_TRANSFER (R203) -/
  | harnessGateTransfer (d : Die) (vertical : Bool) (h : Harn) (k : Fin 8) (both : Option (BitVec 4))
  /-- GATEWAY_LANE_CYCLE (R99) -/
  | gatewayLaneCycle (d : Die) (h : Harn) (lane : Option (Fin 8))
  /-- TREADLE_STEP (R101) -/
  | treadleStep (d : Die) (h : Harn)
  /-- SWAP_ARM (R111) -/
  | swapArm (rq : Requester) (d : Die) (h : Harn)
  /-- SWAP_CANCEL (R120) -/
  | swapCancel (rq : Requester) (d : Die) (h : Harn)
  /-- BANK_EXCHANGE (R112) -/
  | bankExchange (d : Die) (bad : List Harn)
  /-- SWAP_TIMEOUT (R112) -/
  | swapTimeout (d : Die)
  /-- DARNING (R117) -/
  | darning (d : Die) (h : Harn) (r : Row) (c : Fin 8) (why : DarnWhy) (spareFaulty : Bool)
  /-- OVERFLOW_REPORT (R137) -/
  | overflowReport (d : Die)
  /-- ITEM_ADMIT (R129) -/
  | itemAdmit (d : Die) (h : Harn) (idx : Fin 16) (u : AdmitUpset)
  /-- MARK_TAKE (R161) -/
  | markTake (d : Die) (y : YarnNo) (input : Fin 4)
  /-- BOBBIN_WORD_WRITE (R123) -/
  | bobbinWordWrite (b : BobNo) (src : WordSrc) (flip : Word)
  /-- BOBBIN_SPILL (R139) -/
  | bobbinSpill (b : BobNo) (flip : Word) (u : BobUpset)
  /-- BOBBIN_REFILL (R139) -/
  | bobbinRefill (b : BobNo) (flip : Word) (out : ReadOutcome)
  /-- BOBBIN_WORD_READ (R143) -/
  | bobbinWordRead (b : BobNo) (flip : Word) (u : BobUpset)
  /-- EGRESS_STALL_TIMEOUT (R145) -/
  | egressStallTimeout (b : BobNo)
  /-- BEAT_BOUNDARY (R165) -/
  | beatBoundary (d : Die)
  /-- CHECKPOINT_WRITTEN (R172) -/
  | checkpointWritten (d : Die) (y : YarnNo)
  /-- READY (R176) -/
  | ready
  /-- COMMIT (R176) -/
  | commit (d : Die)
  /-- REPLAY_START (R182) -/
  | replayStart (d : Die)
  /-- REPLAY_RESTORE_DONE (R183) -/
  | replayRestoreDone (d : Die) (rd : RestoreRead)
  /-- DIE_LOST_DECLARE (R192) -/
  | dieLostDeclare (d : Die)
  /-- YARN_MIGRATE_DONE (R194) -/
  | yarnMigrateDone (y : YarnNo)
  /-- DIE_RELOAD (R194) -/
  | dieReload (d : Die)
  /-- HARNESS_CLOCK_FAIL (R202) -/
  | harnessClockFail (d : Die) (h : Harn)
  /-- HARNESS_CLOCK_RELOCK (R202) -/
  | harnessClockRelock (d : Die) (h : Harn) (ok : Bool)
  /-- CLK_FREQ_WRITE (R200) -/
  | clkFreqWrite (rq : Requester) (d : Die) (h : Harn) (v : Word)
  /-- CLK_SLEW_DONE (R200) -/
  | clkSlewDone (d : Die) (h : Harn)
  /-- AVS_LOOP_TICK (R207) -/
  | avsLoopTick (d : Die) (h : Harn) (margin : BitVec 8) (headroom : BitVec 6)
  /-- CLOCK_STRETCH (R208) -/
  | clockStretch (d : Die) (h : Harn) (cycles : BitVec 8)
  /-- AGING_MEASURE (R210) -/
  | agingMeasure (d : Die) (h : Harn) (fRef : Nat) (fStressed : Nat)
  /-- DOM_TARGET_WRITE (R216) -/
  | domTargetWrite (rq : Requester) (d : Die) (i : DomIx) (v : Word)
  /-- DOMAIN_STEP_COMPLETE (R214) -/
  | domainStepComplete (d : Die) (i : DomIx) (ok : Bool) (f : Finds)
  /-- DOMAIN_PRECHARGE_TIMEOUT (R217) -/
  | domainPrechargeTimeout (d : Die) (i : DomIx)
  /-- PROXY_PACKET (R239) -/
  | proxyPacket (d : Die) (i : DomIx) (p : Packet)
  /-- NETWORK_PACKET_RECEIVE (R226) -/
  | networkPacketReceive (p : Packet) (errs : List (Fin 42 × FlitErr)) (f : Finds)
  /-- EVENT_RECEIVE (R232) -/
  | eventReceive (d : Die) (e : NetEvent) (taken : Bool)
  /-- REQUEST_TIMEOUT (R228) -/
  | requestTimeout (d : Die) (ep : BitVec 8) (token : BitVec 8)
  /-- NETWORK_LOCKUP (R234) -/
  | networkLockup (d : Die)
  /-- GEN_SWITCH_START (R236) -/
  | genSwitchStart (rq : Requester) (d : Die)
  /-- GEN_SWITCH_ROUTER (R236) -/
  | genSwitchRouter (d : Die) (r : Fin 42)
  /-- GEN_SWITCH_COMPLETE (R236) -/
  | genSwitchComplete (d : Die)
  /-- GEN_SWITCH_LATE (R237) -/
  | genSwitchLate (d : Die)
  /-- BREDAN_FRAME_RECEIVE (R244) -/
  | bredanFrameReceive (d : Die) (frame : BitVec 4320) (errs : List (Fin 42 × FlitErr)) (f : Finds)
  /-- BREDAN_NO_FRAME (R246) -/
  | bredanNoFrame (d : Die)
  /-- BRD_RETRAIN (R246) -/
  | brdRetrain (rq : Requester) (d : Die)
  /-- BRD_HOLD_DOWN (R247) -/
  | brdHoldDown (rq : Requester) (d : Die) (v : Bool)
  /-- BREDAN_RETRAIN_DONE (R246) -/
  | bredanRetrainDone (d : Die) (near : BitVec 24) (far : BitVec 24)
  /-- BREDAN_TRAIN_ATTEMPT (R248) -/
  | bredanTrainAttempt (d : Die) (near : BitVec 24) (far : BitVec 24)
  /-- REJOIN_EVENT (R179) -/
  | rejoinEvent
  /-- BANK_COLL_CLEAR (R273) -/
  | bankCollClear (rq : Requester) (d : Die) (h : Harn)
  /-- HBM_TEMP_READ (R264) -/
  | hbmTempRead (d : Die) (temp : BitVec 9)
  /-- HBM_RATE_GROUP_DONE (R264) -/
  | hbmRateGroupDone (d : Die) (bad : Option (Fin 4))
  /-- HBM_PATROL_SCRUB (R262) -/
  | hbmPatrolScrub (d : Die) (granule : Fin 771751936) (out : ReadOutcome)
  /-- HBM_RETIRE_COPY_DONE (R266) -/
  | hbmRetireCopyDone (d : Die)
  /-- MT_START (R268) -/
  | mtStart (rq : Requester) (d : Die) (v : Word)
  /-- MT_ABORT (R273) -/
  | mtAbort (rq : Requester) (d : Die)
  /-- MARCH_CHUNK_DONE (R271) -/
  | marchChunkDone (d : Die) (touched : Bool) (bad : Option Nat)
  /-- MT_PASS_DONE (R272) -/
  | mtPassDone (d : Die) (bad : List MarchPlace)
  /-- ETH_FRAME_RECEIVE (R280) -/
  | ethFrameReceive (p : Port) (bytes : List Byte) (fcsOk : Bool)
  /-- ETH_FRAME_TRANSMIT (R285) -/
  | ethFrameTransmit (p : Port) (due : Option Nat)
  /-- QBV_CHANGE (R286) -/
  | qbvChange (rq : Requester) (p : Port)
  /-- QBV_CYCLE_START (R286) -/
  | qbvCycleStart (p : Port)
  /-- PORT_LINK_CHANGE (R292) -/
  | portLinkChange (p : Port) (l : LineState)
  /-- PL_FRAME_BUILD (R304) -/
  | plFrameBuild (k : Ring)
  /-- PL_CYCLE_START (R303) -/
  | plCycleStart (k : Ring)
  /-- PL_FRAME_RETURN (R306) -/
  | plFrameReturn (k : Ring) (odd : Bool) (blocks : List PlBlock)
  /-- PL_PICK_INSTANT (R303) -/
  | plPickInstant (k : Ring)
  /-- PL_CYCLE_END (R307) -/
  | plCycleEnd (k : Ring)
  /-- DLY (R297) -/
  | dly (k : Ring) (odd : Bool) (got : Option PlBlock) (x : BitVec 64)
  /-- PL_DISCOVER (R299) -/
  | plDiscover (rq : Requester) (k : Ring)
  /-- PL_RUN_WRITE (R310) -/
  | plRunWrite (rq : Requester) (k : Ring) (v : Bool)
  /-- PL_GRID_WRITE (R302) -/
  | plGridWrite (rq : Requester) (k : Ring) (reg : Fin 4) (v : Word)
  /-- PORT_CFG_WRITE (R276) -/
  | portCfgWrite (rq : Requester) (p : Port) (v : Word)
  /-- SQ_TAIL_DOORBELL (R327) -/
  | sqTailDoorbell (q : Qp) (v : BitVec 16)
  /-- CQ_HEAD_DOORBELL (R327) -/
  | cqHeadDoorbell (q : Qp) (v : BitVec 16)
  /-- COMMAND_FETCH (R332) -/
  | commandFetch (q : Qp) (entry : BitVec 512) (ok : Bool) (buf : List Byte) (bufOk : Bool)
  /-- COMPLETION_WRITE (R328) -/
  | completionWrite (q : Qp) (ok : Bool)
  /-- QP_ENABLE (R327) -/
  | qpEnable (q : Qp) (v : Word)
  /-- QP_DISABLE (R329) -/
  | qpDisable (q : Qp) (v : Word)
  /-- NOP (R335) -/
  | nop (c : HostCmd)
  /-- EVENT_SUB (R335) -/
  | eventSub (c : HostCmd)
  /-- RESET (R335) -/
  | resetCmd (c : HostCmd)
  /-- YARN_CREATE (R335) -/
  | yarnCreate (c : HostCmd)
  /-- YARN_START (R335) -/
  | yarnStart (c : HostCmd)
  /-- YARN_HOLD (R128) -/
  | yarnHold (c : HostCmd)
  /-- YARN_RESUME (R335) -/
  | yarnResume (c : HostCmd)
  /-- YARN_RESTART (R335) -/
  | yarnRestart (c : HostCmd)
  /-- YARN_DELETE (R335) -/
  | yarnDelete (c : HostCmd)
  /-- YARN_MODIFY (R335) -/
  | yarnModify (c : HostCmd)
  /-- YARN_QUERY (R335) -/
  | yarnQuery (c : HostCmd)
  /-- BOB_CREATE (R335) -/
  | bobCreate (c : HostCmd)
  /-- BOB_DELETE (R335) -/
  | bobDelete (c : HostCmd)
  /-- BOB_FLUSH (R150) -/
  | bobFlush (c : HostCmd)
  /-- BOB_CTL_FLUSH (R150) -/
  | bobCtlFlush (rq : Requester) (d : Die)
  /-- BOB_RESIZE (R335) -/
  | bobResize (c : HostCmd)
  /-- BOB_QUOTA_WRITE (R153) -/
  | bobQuotaWrite (rq : Requester) (d : Die) (v : Word)
  /-- BOB_QUERY (R335) -/
  | bobQuery (c : HostCmd)
  /-- BOB_POP (R155) -/
  | bobPop (rq : Requester) (d : Die) (inspect : Bool)
  /-- BOB_PUSH (R155) -/
  | bobPush (rq : Requester) (d : Die) (v : Word)
  /-- ITEM_PUSH (R336) -/
  | itemPush (c : HostCmd)
  /-- REGION_MAP (R337) -/
  | regionMap (c : HostCmd)
  /-- REGION_DOORBELL (R337) -/
  | regionDoorbell (j : Fin 64) (v : BitVec 16)
  /-- REGION_INPUT_READ (R337) -/
  | regionInputRead (j : Fin 64) (out : ReadOutcome)
  /-- REGION_OUTPUT_WRITE (R337) -/
  | regionOutputWrite (j : Fin 64)
  /-- DRAFT_LOAD (R107) -/
  | draftLoad (c : HostCmd)
  /-- DRAFT_SWAP (R111) -/
  | draftSwap (c : HostCmd)
  /-- DARN (R116) -/
  | darn (c : HostCmd)
  /-- HARNESS_CFG (R335) -/
  | harnessCfg (c : HostCmd)
  /-- BEAT_SET (R157) -/
  | beatSet (c : HostCmd)
  /-- BEAT_PERIOD_WRITE (R157) -/
  | beatPeriodWrite (rq : Requester) (d : Die) (v : Word)
  /-- DOMAIN_SET (R218) -/
  | domainSet (c : HostCmd)
  /-- MEM_TEST (R335) -/
  | memTest (c : HostCmd)
  /-- WINDOW_SET (R335) -/
  | windowSet (c : HostCmd)
  /-- BEATWIN_SET (R338) -/
  | beatwinSet (c : HostCmd)
  /-- BEATWIN_PUB (R338) -/
  | beatwinPub (c : HostCmd)
  /-- BEATWIN_AREA_WRITE (R339) -/
  | beatwinAreaWrite
  /-- PORT_CFG (R335) -/
  | portCfg (c : HostCmd)
  /-- PORT_TABLE (R335) -/
  | portTable (c : HostCmd)
  /-- RING_CFG (R301) -/
  | ringCfg (c : HostCmd)
  /-- NODE_SET (R301) -/
  | nodeSet (c : HostCmd)
  /-- NV_WRITE (R335) -/
  | nvWrite (c : HostCmd)
  /-- DIE_UPDATE (R194) -/
  | dieUpdate (c : HostCmd)
  /-- FW_SWAP_DONE (R362) -/
  | fwSwapDone (d : Die) (res : SwapResult)
  /-- HDM_ACCESS (R320) -/
  | hdmAccess (line : Fin 738197504) (wr : Option (List Byte)) (poison : Bool) (out : ReadOutcome)
  /-- DIAG_READ (R325) -/
  | diagRead (sp : HostSpace) (off : BitVec 27) (width : Fin 17) (f : Finds)
  /-- DIAG_WRITE (R325) -/
  | diagWrite (sp : HostSpace) (off : BitVec 27) (width : Fin 17) (v : BitVec 64) (f : Finds)
  /-- HOST_RESET (R343) -/
  | hostReset (kind : HostResetKind)
  /-- MAILBOX_MESSAGE (R355) -/
  | mailboxMessage (d : Die)
  /-- EVENT_LINE_PENDING (R353) -/
  | eventLinePending (d : Die) (line : Fin 128)
  /-- HANDLER_YIELD (R353) -/
  | handlerYield (d : Die) (acts : List CoreAct) (ce : BitVec 8) (ue : Option Bool)
  /-- LOCKSTEP_MISMATCH (R345) -/
  | lockstepMismatch (d : Die)
  /-- WINDOW_OVERFLOW_TRAP (R351) -/
  | windowOverflowTrap (d : Die) (bank : Fin 8) (free : BitVec 16)
  /-- WDT_KICK (R356) -/
  | wdtKick (rq : Requester) (d : Die) (v : Word)
  /-- WDT_PREWARN (R356) -/
  | wdtPrewarn (d : Die)
  /-- WDT_EXPIRE (R356) -/
  | wdtExpire (d : Die)
  /-- RENTUR_RESTART_DONE (R359) -/
  | renturRestartDone (d : Die) (version : BitVec 31)
  /-- SEM_ACQUIRE (R363) -/
  | semAcquire (d : Die) (i : Fin 64) (owner : Die) (level : Fin 8)
  /-- IMAGE_LOAD (R381) -/
  | imageLoad (d : Die) (src : ImgSrc)
  /-- SEGMENT_LOAD (R374) -/
  | segmentLoad (d : Die) (bytes : List Byte) (nvBad : Bool)
  /-- STARTUP_STEP (R385) -/
  | startupStep (d : Die)
  /-- STARTUP_CLOCK_TIMEOUT (R385) -/
  | startupClockTimeout (d : Die)
  /-- FIO_RAIL_WAIT_TIMEOUT (R382) -/
  | fioRailWaitTimeout (d : Die)
  /-- CFG_CS_DEASSERT (R378) -/
  | cfgCsDeassert
  /-- IMAGE_PUSH (R380) -/
  | imagePush (d : Die) (head : List Byte)
  /-- MASTER_COPY_RELOAD (R388) -/
  | masterCopyReload (d : Die) (h : Harn)
  /-- SCRUB_FRAME_CHECK (R389) -/
  | scrubFrameCheck (d : Die) (frame : BitVec 24) (bad : Bool) (stillBad : Bool)
  /-- SCRUB_REPAIR_DONE (R390) -/
  | scrubRepairDone (d : Die) (stillBad : Bool)
  /-- GATE_IN_WORD (R406) -/
  | gateInWord (d : Die) (g : Fin 64) (w : TWord)
  /-- GATE_OUT_WORD (R407) -/
  | gateOutWord (d : Die) (g : Fin 64) (ready : Bool)
  /-- FRINGE_PLL_LOCK_LOSS (R401) -/
  | fringePllLockLoss (d : Die) (i : Fin 2)
  /-- FIO_RAIL_LOSS (R412) -/
  | fioRailLoss (d : Die)
  /-- SER_TXD_WRITE (R409) -/
  | serTxdWrite (rq : Requester) (d : Die) (c : Fin 8) (v : Word)
  /-- SER_RXD_READ (R414) -/
  | serRxdRead (rq : Requester) (d : Die) (c : Fin 8) (inspect : Bool)
  /-- SER_BYTE_RECEIVE (R409) -/
  | serByteReceive (d : Die) (c : Fin 8) (b : Byte) (bad : Bool)
  /-- RO_COUNT_WINDOW (R410) -/
  | roCountWindow (d : Die) (i : Fin 4) (count : BitVec 16)
  /-- RESET_SOURCE_ASSERT (R422) -/
  | resetSourceAssert (d : Die) (src : Fin 13)
  /-- RESET_SOURCE_RELEASE (R423) -/
  | resetSourceRelease (d : Die) (src : Fin 13)
  /-- RELEASE_STAGE (R422) -/
  | releaseStage (d : Die) (cs : Bool)
  /-- RST_REQ_GO (R445) -/
  | rstReqGo (rq : Requester) (d : Die) (v : Word)
  /-- DIE_RESTORE (R418) -/
  | dieRestore (d : Die)
  /-- DOZE_ENTRY (R437) -/
  | dozeEntry
  /-- VIGIL_ENTRY (R438) -/
  | vigilEntry
  /-- WAKE (R437) -/
  | wake (cause : WakeCause)
  /-- VIGIL_TICK (R440) -/
  | vigilTick
  /-- VGL_LOAD (R440) -/
  | vglLoad (rq : Requester)
  /-- VGL_STEP (R440) -/
  | vglStep (rq : Requester) (v : Word)
  /-- PPS_IN_EDGE (R441) -/
  | ppsInEdge
  /-- PPS_HOLDOVER (R441) -/
  | ppsHoldover
  /-- TCXO_FAIL (R441) -/
  | tcxoFail (reference : Bool)
  /-- ALARM_FIRE (R443) -/
  | alarmFire (a : Fin 4)
  /-- COMPARATOR_TRIP (R444) -/
  | comparatorTrip (c : Fin 8)
  /-- POWER_CAP_TICK (R486) -/
  | powerCapTick (milliwatts : Nat) (junction : Int)
  /-- NV_RETENTION_SCRUB (R500) -/
  | nvRetentionScrub (d : Die) (block : Fin 8192)
  /-- BREAK (R449) -/
  | brk (low : Nat)
  /-- ID (R455) -/
  | ident (q : SvReq)
  /-- READ (R456) -/
  | svRead (q : SvReq) (addr : BitVec 48) (count : Byte) (attr : Byte) (f : Finds)
  /-- WRITE (R456) -/
  | svWrite (q : SvReq) (addr : BitVec 48) (words : List Word) (f : Finds)
  /-- CHALLENGE (R458) -/
  | challenge (q : SvReq)
  /-- UNLOCK (R458) -/
  | unlock (q : SvReq) (scope : Byte) (slot : Byte) (key : List Byte) (sig : List Byte)
  /-- LOCK (R455) -/
  | lock (q : SvReq)
  /-- HALT (R463) -/
  | halt (q : SvReq) (d : Die) (t : HaltTarget) (h : Harn) (hard : Bool) (linked : Bool)
  /-- HALT_FORCED (R467) -/
  | haltForced (d : Die)
  /-- RESUME (R465) -/
  | resume (q : SvReq) (d : Die) (t : HaltTarget) (h : Harn)
  /-- STEP (R465) -/
  | svStep (q : SvReq) (d : Die) (h : Harn) (cycles : BitVec 16)
  /-- STEP_DONE (R465) -/
  | stepDone (d : Die) (h : Harn)
  /-- RST_ASSERT (R457) -/
  | rstAssert (q : SvReq) (level : Byte) (d : Die) (h : Harn)
  /-- RST_RELEASE (R457) -/
  | rstRelease (q : SvReq)
  /-- STATUS (R455) -/
  | svStatus (q : SvReq)
  /-- UNLOCK_LOCKOUT_END (R460) -/
  | unlockLockoutEnd
  /-- NONCE_EXPIRE (R458) -/
  | nonceExpire
  /-- TSEQ_STAT_READ (R120) -/
  | tseqStatRead (rq : Requester) (d : Die) (h : Harn) (inspect : Bool)
  /-- BEAT_NUM_LO_READ (R477) -/
  | beatNumLoRead (rq : Requester) (d : Die) (cmt : Bool) (inspect : Bool)
  /-- DEV_BEAT_LO_READ (R477) -/
  | devBeatLoRead (rq : Requester) (inspect : Bool)
  /-- VGL_TIME_FRAC_READ (R477) -/
  | vglTimeFracRead (rq : Requester) (inspect : Bool)
  /-- JRN_SIZE_WRITE (R166) -/
  | jrnSizeWrite (rq : Requester) (d : Die) (v : Word)
  /-- JRN_BASE_WRITE (R166) -/
  | jrnBaseWrite (rq : Requester) (d : Die) (v : Word)
  /-- REGISTER_WRITE (R8) -/
  | registerWrite (rq : Requester) (d : Die) (reg : Reg) (i : Nat) (v : Word)
  /-- BREDAN_LANE_ALIGNMENT_LOSS (R246) -/
  | bredanLaneAlignmentLoss (d : Die) (lane : Fin 24)
  /-- GATE_CONTROL_LIST_ENTRY_END (R286) -/
  | gateControlListEntryEnd (p : Port)
  /-- COALESCE_INTERVAL_EXPIRE (R326) -/
  | coalesceIntervalExpire (q : Qp)
  /-- MSIX_VECTOR_UNMASK (R342) -/
  | msixVectorUnmask (v : Fin 64)
  /-- NV_STORE_WRITE_DONE (R335) -/
  | nvStoreWriteDone (d : Die) (ok : Bool)
  /-- SERDES_RECALIBRATION (R500) -/
  | serdesRecalibration (p : Port)
  /-- SERDES_SUPPLY_LOSS (R311) -/
  | serdesSupplyLoss (lost : Bool)
  /-- QUAD_REFERENCE_LOSS (R274) -/
  | quadReferenceLoss (quad : Fin 24) (lost : Bool)
  /-- FIO_RAIL_RETURN (R412) -/
  | fioRailReturn (d : Die) (v33 : Bool)
  /-- TCXO_RECOVERY (R441) -/
  | tcxoRecovery
  /-- D3HOT_ENTRY (R316) -/
  | d3hotEntry (d0 : Bool)
  /-- FRINGE_CLOCK_EDGE (R394) -/
  | fringeClockEdge (d : Die) (net : Fin 8) (level : BitVec 32) (rx : BitVec 256)
  /-- FRINGE_PLL_RELOCK (R401) -/
  | fringePllRelock (d : Die) (i : Fin 2)
  /-- SER_BYTE_SENT (R409) -/
  | serByteSent (d : Die) (c : Fin 8) (nack : Bool)
  /-- COMPARATOR_CLEAR (R444) -/
  | comparatorClear (c : Fin 8)
  /-- SELVEDGE_IDLE_TIMEOUT (R450) -/
  | selvedgeIdleTimeout
  /-- SELVEDGE_FRAMING_ERROR (R449) -/
  | selvedgeFramingError
  /-- SEMAPHORE_RELEASE (R363) -/
  | semaphoreRelease (d : Die) (i : Fin 64)
  /-- QP_DISABLE_TIMEOUT (R329) -/
  | qpDisableTimeout (q : Qp)
  /-- CXL_LINK_RETRAIN (R480) -/
  | cxlLinkRetrain (up : Bool) (status : Word)
  deriving DecidableEq, Repr

end Sys2Proof
end

