-- ==== Sys2Proof/Decode.lean ====
section
/-! DEFINITION. The decoder of the operation and event table. The table gives no row any bits: its rows are commands and
events of a block, not words. So no word spells a command, and the decoder answers none on every word. -/

namespace Sys2Proof

/-- The command that a word of the table's bits spells: the table gives no row any bits. -/
def decodeTableWord (_nbits _w : Nat) : Option Instr := none

end Sys2Proof
end

