-- ==== Sys2Proof/Config.lean ====
section
/-! DEFINITION. What the manual leaves open, as constants without a body: nothing can be proved of their values.
The free values are read
at a counter that the step advances (log entry 4). -/

namespace Sys2Proof

/-- A free value, by the number of the reading. -/
opaque Config.freeWord : Nat → BitVec 64

/-- The rank of a router under the up/down rule of R233; the manual does not give the ranks. -/
opaque Config.routerRank : Nat → Nat

/-- Which of a router's links, counted in the order of R221's list, its output link number names: R249 numbers the output links
of a router 0 to 5 and does not say which is which. -/
opaque Config.outLink : Nat → Nat → Nat

/-- The MAC address of a port, which the firmware takes from the NV store (R279); the manual does not say where it
stands there. -/
opaque Config.portMac : Nat → BitVec 48

/-- Is a traffic class of a port express (R277, R285)? The manual gives no register for the choice. -/
opaque Config.express : Nat → Nat → Bool

/-- The latency of a port's mode for received (false) and transmitted (true) frames in ns, fused at production test (R288); the
manual gives no value. -/
opaque Config.portLatency : Nat → Bool → Nat

/-- The priority level that the firmware of a die assigns to an event line it has enabled (R353). -/
opaque Config.lineLevel : Nat → Nat → Option (Fin 8)

/-- Does the firmware of a die map an event line to fault entry (R351)? -/
opaque Config.lineFault : Nat → Nat → Bool

/-- The event line of a timer of a complex (R353). -/
opaque Config.timerLine : Nat → Nat → Fin 128

/-- The event line that tells the firmware of a die that the die is loaded (R387). -/
opaque Config.loadLine : Nat → Fin 128

/-- The boot ROM of a complex (R346), which the manual does not print. -/
opaque Config.bootRom : Nat → Nat → Byte

/-- A word of the function's configuration space that the manual does not fix (R318). -/
opaque Config.cfgWord : Nat → BitVec 32

/-- The event line of die 0 on which the Vigil domain signals an alarm (0 to 3) or a comparator (4 to 11) (R353, R443). -/
opaque Config.vigilLine : Nat → Fin 128

/-- The stack offset, in 64-byte units, that a channel group's endpoint address names: the rules give each endpoint 26 bits of
address and do not say how the stripes of its pseudo-channels lie in them (R225, R260). -/
opaque Config.groupUnit : Nat → Nat → Nat

/-- Does a firmware with this header speak the mailbox protocol of the firmware that an FW_VER word shows? The header names the
range of versions (R361) in a place that the rules do not give. -/
opaque Config.mailboxFits : List Byte → Nat → Bool

/-- The true random number generator of R458. -/
opaque Config.nonce : Nat → BitVec 128

end Sys2Proof
end

