-- ==== Sys2Proof/Machine/State.lean ====
section
/-! DEFINITION. The state of the device as plain data, the reasons a step may stop, and the state right after a
POWER reset. A `Sparse` store is a list of key and value pairs with rising keys that lists no entry equal to what
an unlisted key reads as; its operations stand in `Sys2Proof/Machine/Sparse.lean`. Each field's comment names the
rule that gives the machine the state, or says MODEL where the field is the model's own bookkeeping. -/

namespace Sys2Proof.Machine

/-- A store by key in canonical form: rising keys, no entry that an unlisted key would read as. -/
abbrev Sparse (α : Type) := List (Nat × α)

/-- A byte memory in canonical form; an unlisted byte reads as 0. -/
abbrev Mem := List Host.Cell

/-! ## The array (R29 to R83, R84 to R120) -/

/-- The slot context of a cell (R35). -/
structure SlotCtx where
  sr0 : Word
  sr1 : Word
  sr2 : Word
  sr3 : Word
  acc0 : BitVec 96
  acc1 : BitVec 96
  mmVal : Word
  mmCount : BitVec 16
  mmIdx : BitVec 16
  eOut : BitVec 5
  mvSeen : Bool
  wMax : BitVec 7
  s : BitVec 5
  ovfOwn : Bool
  mmWrap : Bool
  mmValid : Bool
  poisonItem : Bool
  ovfItem : Bool
  satA1 : Bool
  satA0 : Bool
  satB1 : Bool
  satB0 : Bool
  pos : BitVec 12
  deriving DecidableEq, Repr

/-- A result on its way into a context (R53, R56): a register of the code of R41, an accumulator with its sat
bits, the search state, a scratch word, a measured headroom width (R77), an overflow (R69, R74), the shift of
the next item (R78), or the passing of an item's last word through the output stage (R71, R134), with whether the item
is of data words, which alone can set ovf_own (R38, R71). -/
inductive Upd where
  | reg (code : BitVec 5) (v : Word)
  | acc (one : Bool) (v : BitVec 96) (satHi : Bool) (satLo : Bool)
  | search (val : Word) (count : BitVec 16) (idx : BitVec 16) (valid : Bool) (wrap : Bool)
  | scratch (addr : BitVec 9) (v : Word)
  | width (w : BitVec 7)
  | overflow
  | shift (s : BitVec 5)
  | passed (data : Bool)
  deriving DecidableEq, Repr

/-- A pending result: its slot, the item that issued it, the number of the data word that issued it, its age in
cycles that did not freeze, the age at which it lands, whether it is an accumulation that forwards (R55), and the
result. -/
structure Pend where
  slot  : BitVec 4
  item  : Nat
  word  : Nat
  age   : Nat
  land  : Nat
  chain : Bool
  dead  : Bool
  upd   : Upd
  deriving DecidableEq, Repr

/-- A frame image loaded into the second context buffer of a slot, with the item it is for (R134); `cont` says that
the item goes on from the context of the item before it, which is of the same yarn (R37, R132). -/
structure Loaded where
  flight : Nat
  cont   : Bool
  ctx    : SlotCtx
  deriving DecidableEq, Repr

/-- An item of a slot that two later items have followed while results of it are still on their way (R56): its number, its flight
and the context they land in. -/
structure OldItem where
  item : Nat
  fl   : Option Nat
  ctx  : SlotCtx
  deriving DecidableEq, Repr

/-- One draft slot of a cell: the active buffer, the buffer of the item before it until it is written back, the
loaded buffers, and where the slot stands in its item (R66, R134). MODEL: `item` numbers the slot's items,
`words` its data words, and `older` keeps the items before `old` that still have results on their way. -/
structure SlotSt where
  act      : SlotCtx
  actItem  : Nat
  actFl    : Option Nat
  actDone  : Bool
  old      : SlotCtx
  oldItem  : Nat
  oldFl    : Option Nat
  oldDone  : Bool
  older    : List OldItem
  next     : List Loaded
  inItem   : Bool
  words    : Nat
  deriving DecidableEq, Repr

/-- The cell counters (R83). -/
structure CellCnt where
  word   : Word
  empty  : Word
  bubble : Word
  hold   : Word
  forced : Word
  ovf    : Word
  deriving DecidableEq, Repr

/-- A weave cell (R29, R30): the words offered on IA by its reed, on IB, by the treadling table and as an urgent
word, the word on OUT, the index of the last word consumed (R61), the pipeline (R53), the pending results (R54),
the slots, the darning tracks of a spare with the reed's IA and IB words, the table's, the urgent ones and OUT's (R118),
the counters (R83), and whether the word on IB has been reported as one whose kind is not data (R59, R82). -/
structure CellSt where
  ia      : Option Wire
  ib      : Option Wire
  tbl     : Option Wire
  urg     : Option Wire
  out     : Option Wire
  lastIdx : BitVec 4
  pipe    : List (Option Wire)
  pend    : List Pend
  slots   : Sparse SlotSt
  trackA  : List (Option Wire)
  trackB  : List (Option Wire)
  trackT  : List (Option Wire)
  trackU  : List (Option Wire)
  trackO  : List (Option Wire)
  ibBad   : Bool
  cnt     : CellCnt
  deriving DecidableEq, Repr

/-- An item at a gateway: its flight, yarn, stage, index, the words it has ready, how many words and bubbles are
sent or owed, and the lane cycles since its admission (R98, R99, R134, R135). -/
structure GwItem where
  flight  : Nat
  yarn    : Nat
  stage   : Nat
  idx     : BitVec 4
  ready   : List TWord
  sent    : Nat
  closed  : Bool
  bubbles : Nat
  age     : Nat
  deriving DecidableEq, Repr

/-- A frame write-back under way: the index, the item and the cycles of the retiring cell still to pass (R134
step 5). -/
structure WriteBack where
  idx    : BitVec 4
  flight : Nat
  cell   : Nat
  left   : Nat
  deriving DecidableEq, Repr

/-- A fault that a cell has reported (R82): the cell as row × 16 + column, the draft slot, the kind, and the beats
committed by then, by which the firmware tells a second fault of the same kind (R116). -/
structure CellFaultRec where
  cell : Nat
  slot : Nat
  kind : Nat
  beat : Nat
  deriving DecidableEq, Repr

/-- A harness (R197): the bank that is resident (R111), the treadling table (R101): its position, whether its word is offered,
the indices whose items it has begun, and when it stops between items, the first entry held back and the entries of begun items
served past it (R112, R120; log entry 191); the gateway (R99, R131, R135) with the buffers of its input and output lanes (R205),
the swap (R111, R112), the halt (R463), the clock and voltage loops (R200, R202, R206, R207: `headroom` is the highest code that
the rail allows as last sensed), and what the firmware knows of it (R116, R388); for its comparators (R462) what each has
counted, the cells that have taken their step of the cycle, the comparators that have matched in it, and the cycles left until a
comparator's halt. -/
structure HarSt where
  flip     : Bool
  tpos     : BitVec 8
  tOffered : Bool
  tOpen    : List Nat
  tHold    : Option Nat
  tDone    : List Nat
  gw       : List GwItem
  laneLast : Sparse (BitVec 4)
  firstAge : Sparse Nat
  gwIn     : Sparse (List Wire)
  gwOut    : Sparse (List Wire)
  armTick  : Option Nat
  draining : Bool
  wbs      : List WriteBack
  halted   : Bool
  stepping : Nat
  inReset  : Bool
  lost     : Bool
  deadBeat : Option Nat
  collBeat : Option Nat
  headroom : Nat
  aboveFor : Nat
  relocks  : Nat
  faultAt  : List CellFaultRec
  bpCount  : Sparse Nat
  acted    : List Nat
  bpNow    : List Nat
  haltIn   : Nat
  deriving DecidableEq, Repr

/-- A harness gate (R90, R203): the words waiting from the west or north end and from the east or south end, whose
turn it is, and its contention state (R114, R115). -/
structure GateSt where
  fromA     : List Wire
  fromB     : List Wire
  turnB     : Bool
  contended : Option Nat
  forced    : Bool
  failed    : Bool
  deriving DecidableEq, Repr

/-- The array of both dies. -/
structure ArrSt where
  cells     : Sparse CellSt
  hars      : Sparse HarSt
  reedIn    : Sparse (Option Wire)
  gates     : Sparse GateSt
  cellDraft : Sparse (BitVec 192)
  reedDraft : Sparse (BitVec 96)
  table     : Sparse Word
  scratch   : Sparse Word
  shared    : Sparse Word
  bank      : Mem
  deriving DecidableEq, Repr

/-! ## Yarns, bobbins and items in flight (R121 to R155) -/

/-- The yarn states (R127). -/
inductive YState where
  | free | idle | run | hold | replay | migrate | stopped | split
  deriving DecidableEq, Repr

/-- A stage word of a descriptor (R126). -/
structure Stage where
  harness : Nat
  idx     : BitVec 4
  images  : Nat
  frame   : Nat
  deriving DecidableEq, Repr

/-- An output binding of a descriptor (R126). -/
structure OutBind where
  lane : Fin 8
  idx  : BitVec 4
  bob  : Nat
  deriving DecidableEq, Repr

/-- An entry to be re-injected to a yarn (R184): the bobbin's wp before the item and the item's words. -/
structure ReInject where
  wp    : Word
  words : List TWord
  ord   : Nat
  deriving DecidableEq, Repr

/-- A cut whose checkpoint is not yet in HBM (R162, R171, R172): the ordinal of its beat, the yarn's counters and positions at
the cut, the table positions of its harnesses (R102), the wp after the mark in each output bobbin once that mark is written
(R163), the stage frames still to be copied and those the generation holds. -/
structure CutRec where
  ord     : Nat
  itemsIn : Word
  ovf     : Word
  inNext  : Nat
  rps     : List Word
  mwps    : List (Option Word)
  toCopy  : List Nat
  copied  : List Nat
  tpos    : List (BitVec 8)
  twin    : Word
  deriving DecidableEq, Repr

/-- A yarn descriptor (R126) and what the engines keep of the yarn: its cuts and marks as ordinals of beats
(R161, R162, R179), the checkpoints in HBM (`written`), the stage frames copied (`copies`: ordinal, stage,
generation) and the descriptors as of past cuts (`snaps`), a hold that waits for an item boundary (R128), its replay
(R182, R184, R185), whether a live update holds it (R194), and what a twin compares at its cuts (R191). -/
structure Yarn where
  state      : YState
  pinned     : Bool
  migratable : Bool
  prot       : BitVec 2
  replay     : BitVec 2
  ovfPolicy  : BitVec 2
  homeDie    : Die
  entryIdx   : BitVec 4
  prio       : BitVec 3
  entry      : Nat
  stages     : List Stage
  ins        : List (Option Nat)
  outs       : List (Option OutBind)
  inNext     : Nat
  outMax     : BitVec 12
  ovfCount   : Word
  itemsIn    : Word
  itemsDone  : Word
  ckpt       : BitVec 64
  ckptBeat   : Word
  before     : YState
  holdReq    : Bool
  splitReq   : Bool
  delReq     : Bool
  updHold    : Bool
  stopReq    : Bool
  marks      : List Nat
  cut        : Nat
  cuts       : List CutRec
  lastAt     : Option Word
  written    : List Nat
  copies     : List (Nat × Nat × Nat)
  snaps      : List (Nat × List Byte)
  target     : Option Word
  replays    : Nat
  reinject   : List (List ReInject)
  rpFault    : List (Option Word)
  twinHash   : Word
  twinLog    : List (Nat × Word × Word)
  deriving DecidableEq, Repr

/-- An item in flight (R129, R131, R134): the yarn and die, its place in the yarn's sequence, the stages it has
passed, the outputs it has closed, the stages that all its words have entered by the gateway (R126), and the words
of its input item still to be read. -/
structure Flight where
  id      : Nat
  die     : Die
  yarn    : Nat
  seq     : Word
  inBob   : Option Nat
  retired : List Nat
  closed  : List Nat
  entered : List Nat
  left    : Nat
  resv    : List Nat
  deriving DecidableEq, Repr

/-- A word in a bobbin, with the value of wp it was accepted at. -/
structure PosWord where
  pos : Word
  w   : TWord
  deriving DecidableEq, Repr

/-- A closed item of a bobbin: where its first word stands, its words, kind and exponent, the ordinal of the beat
in which it closed, and whether it is journalled. A beat mark that stands before an open item whose words have
already gone to the spool is held in `side` (R159). -/
structure ItemRec where
  start : Word
  n     : Nat
  kind  : BitVec 2
  exp   : BitVec 5
  ord   : Nat
  jrn   : Bool
  side  : Option TWord
  deriving DecidableEq, Repr

/-- The open item of a bobbin: where it starts, its words, kind and exponent, whether its words agree (R124), and for
an entry-fed bobbin the words themselves, as the journal takes them. -/
structure OpenRec where
  start : Word
  n     : Nat
  kind  : BitVec 2
  exp   : BitVec 5
  mixed : Bool
  words : List TWord
  deriving DecidableEq, Repr

/-- The bobbin states (R138). -/
inductive BState where
  | free | active | resetting
  deriving DecidableEq, Repr

/-- The producer and consumer types (R138). -/
inductive EndType where
  | yarn | port | gate | host
  deriving DecidableEq, Repr

/-- An egress record (R186): items sent, and for a mark the count and beat and the hash since it. -/
structure Egress where
  sent     : Word
  markSent : Word
  markBeat : Word
  hash     : Word
  deriving DecidableEq, Repr

/-- A working egress record for a mark taken (R186), by the ordinal of its beat. -/
structure WorkRec where
  ord      : Nat
  markSent : Word
  markBeat : Word
  hash     : Word
  deriving DecidableEq, Repr

/-- A bobbin descriptor (R138), the second pointer copies, the near-store part (R139), the items, and the egress
state (R186, R187). MODEL: `spoolPos` gives the position of each word in the spool, `dead` the discarded ranges
whose words are still there, `grown` the words of a grow that are not yet free (R152), `skip` the regenerated words
to discard (R183), `blocked` that a divergence keeps its items in (R188), `stalled` that its port discards (R145), `lost` the
items a bobbin fault took (R183), `skipEnd` that the words to discard end with an item (R183, R188), `jrnGone` where the
latest of its journal entries that have been released ends (R169, R185), `prodCut` and `consCut` that its producer or consumer
lies across a split (R22). -/
structure Bob where
  state     : BState
  rszPend   : Bool
  prod      : EndType
  cons      : EndType
  dropOld   : Bool
  wstat     : BitVec 4
  consId    : BitVec 16
  prodId    : BitVec 16
  die       : Die
  entry     : Nat
  base      : Nat
  quota     : Nat
  wp        : Word
  rp        : Word
  wp2       : Word
  rp2       : Word
  wseq      : Word
  rseq      : Word
  wpos      : Nat
  rpos      : Nat
  wmark     : Nat
  newQuota  : Nat
  drops     : BitVec 16
  stall     : BitVec 16
  resv      : Word
  egress    : Egress
  head      : List PosWord
  tail      : List PosWord
  spoolPos  : List Word
  dead      : List (Word × Nat)
  items     : List ItemRec
  opened    : Option OpenRec
  dropping  : Bool
  flushed   : Bool
  deliver   : Nat
  grown     : Nat
  works     : List WorkRec
  suppress  : Nat
  supHash   : Word
  supGoal   : Word
  skip      : Nat
  skipEnd   : Bool
  jrnGone   : Word
  inspected : Bool
  blocked   : Bool
  stalled   : Bool
  lost      : List ItemRec
  prodCut   : Bool
  consCut   : Bool
  deriving DecidableEq, Repr

/-- A deleted yarn as committed beats still hold it (R28, R335): its last cut and its descriptors as of past cuts. -/
structure GoneYarn where
  die   : Die
  yarn  : Nat
  cut   : Nat
  snaps : List (Nat × List Byte)
  deriving DecidableEq, Repr

/-- Yarns, bobbins and flights of the device; `yarns` is by 2 × number + die, since a twin has a descriptor on
each die (R191). `reports` holds the overflow reports on their way to the yarn engine (R71), each with the item's place
in the yarn's sequence, `lastYarn` the yarn
last admitted at each harness and index (R130), and `gone` the deleted yarns that the last committed beat still holds. -/
structure FlowSt where
  yarns      : Sparse Yarn
  bobs       : Sparse Bob
  flights    : List Flight
  nextFlight : Nat
  reports    : List (Die × Nat × Word)
  lastYarn   : Sparse Nat
  badEntries : List (Nat × Nat)
  gone       : List GoneYarn
  deriving DecidableEq, Repr

/-! ## Beats, the journal and replay (R156 to R196) -/

/-- A journal entry as the beat engine finds it (R166, R167): the ordinal of its beat, where its header block
and its data blocks stand in the ring, and the header's own fields. -/
structure JEntry where
  ord      : Nat
  block    : Nat
  blocks   : List Nat
  bob      : Nat
  wp       : Word
  n        : Nat
  beat     : Word
  src      : BitVec 2
  dropped  : Bool
  rejrn    : Bool
  mirrored : Bool
  deriving DecidableEq, Repr

/-- A fault the beat engine has to cover (R189): the class, the number RPL_LAST shows, and the harness, the bobbin or the yarn
that it names. -/
structure FaultRec where
  cls  : BitVec 4
  id   : BitVec 16
  har  : Option Nat
  bob  : Option Nat
  yarn : Option Nat := none
  deriving DecidableEq, Repr

/-- A replay in progress (R182): the fault it covers, its yarns (each as 2 × number + die) and the result so far. -/
structure Replay where
  fault    : FaultRec
  yarns    : List Nat
  restored : Bool
  result   : BitVec 3
  silent   : Bool
  deriving DecidableEq, Repr

/-- The phases of a live update or reload (R194, R362). -/
inductive UpdPhase where
  | moving | reloading | firmware
  deriving DecidableEq, Repr

/-- A live update (R194, R362): the phase, what it loads and from which slots. -/
structure Update where
  phase  : UpdPhase
  fw     : Bool
  img    : Bool
  fwSlot : Bool
  imSlot : Bool
  moving : List Nat
  deriving DecidableEq, Repr

/-- The beat engine of a die: whether it runs, the ordinal of its beat and the numbers of recent beats (R156, R179), the beats
it has committed, READY and COMMIT that have arrived (R176), the journal ring with the blocks of a grow that are not yet free
(R152, R166), the faults and replays (R182), the ordinal from which commits are joint and the rejoin that is pending (R178,
R179) and the live update (R194). -/
structure BeatSt where
  started   : Bool
  ord       : Nat
  nums      : List (Nat × BitVec 48)
  cmt       : Nat
  readyMsg  : List Nat
  commitMsg : List Nat
  lastTick  : Nat
  jw        : Nat
  jr        : Nat
  jlen      : Nat
  jmark     : Nat
  jshrink   : Option Nat
  jgrown    : Nat
  jents     : List JEntry
  refusedAt : Option Nat
  faults    : List FaultRec
  replays   : List Replay
  joint     : Nat
  rejoinMod : Option Nat
  update    : Option Update
  deriving DecidableEq, Repr

/-! ## Domains, network and link (R197 to R249) -/

/-- The steps of R214 and R215. -/
inductive DStep where
  | none | u1 | u2 | u3 | u4 | u5 | u6 | d1 | d2 | d3 | d4 | d5
  deriving DecidableEq, Repr

/-- The states of R212. -/
inductive DState where
  | off | ret | on
  deriving DecidableEq, Repr

/-- A power domain's sequencer (R213 to R217): the state it last held, its step, whether its power-up waits for a
precharge (R213), the target, the state that a shutdown goes to (R216), the attempts of the clock lock that failed, and
whether a power-up only restarts the clock (R216). -/
structure DomSt where
  state   : DState
  step    : DStep
  waiting : Bool
  goal    : DState
  fall    : DState
  locks   : Nat
  fast    : Bool
  deriving DecidableEq, Repr

/-- A slot of an event sink (R232): the latest data, whether the slot is full, and the events merged. -/
structure EvSlot where
  data   : BitVec 480
  full   : Bool
  merges : Nat
  deriving DecidableEq, Repr

/-- An access by the Diagnostic Window or the debug port that a proxy holds until its domain is ON (R239): who asks, the
address in the internal map, the word written, and the inspect attribute. -/
structure HeldAcc where
  rq      : Requester
  addr    : Nat
  w       : Option Word
  inspect : Bool
  deriving DecidableEq, Repr

/-- A host access to a line of the host-managed window that a proxy holds until its channel group is ON (R239): the line, the data
written, and whether they are poison. -/
structure HeldLine where
  line   : Nat
  wr     : Option (List Byte)
  poison : Bool
  deriving DecidableEq, Repr

/-- A request waiting for its response (R228, R231). -/
structure Await where
  die   : Die
  ep    : BitVec 8
  token : BitVec 8
  cross : Bool
  deriving DecidableEq, Repr

/-- The networks: route tables (R233), routers that have switched (R236), packets and accesses held for a domain (R239) or by
a switch (R236), tokens in use (R231), event slots (R232), events held (R239), and packets that the tables bring to no
endpoint, each with the die in whose network it stays (R233, R234). -/
structure NetSt where
  routes   : Sparse (BitVec 3)
  switched : List (Nat × Nat)
  held     : Sparse (List Packet)
  heldEv   : Sparse (List NetEvent)
  heldAcc  : Sparse (List HeldAcc)
  heldHdm  : Sparse (List HeldLine)
  awaits   : List Await
  slots    : Sparse EvSlot
  stray    : List (Die × Packet)
  deriving DecidableEq, Repr

/-- A half of the Bredan link (R241 to R248): sequence numbers, the retry buffer, NAKs in a row, whether it waits for a resent
frame and whether a NAK is due, the retrains that failed, the credits it holds and those it owes, the flits that wait to be
sent and the requests that wait to be tracked, the flits received of packets that are not whole, the scramblers of its lanes,
whether it stays at half width, the beat boundary to announce, the one last announced to it, the beat that die 0's rejoin
event carries, whether an acknowledgement waits for room, and the headers of packets sent that a router has marked poisoned. -/
structure BrdSt where
  nextSeq   : BitVec 12
  sendSeq   : BitVec 12
  unacked   : List (BitVec 4320)
  naks      : Nat
  waitSeq   : Bool
  nakDue    : Bool
  retrains  : List Nat
  credits   : List Nat
  crDue     : List Nat
  txq       : List (BitVec 576)
  waitq     : List Packet
  rxq       : List (BitVec 576)
  prbs      : List (BitVec 31)
  width12   : Bool
  bnd       : Option (BitVec 16)
  bndSeen   : Option (BitVec 16 × BitVec 9)
  rejoinEv  : Option (BitVec 48)
  ackDue    : Bool
  marked    : List (BitVec 64)
  deriving DecidableEq, Repr

/-! ## Memories (R250 to R273) -/

/-- An allocated region of a stack, in 4 KiB granules (R261). -/
inductive RegionKind where
  | spool (b : Nat) | journal | checkpoint (y : Nat) | window | user
  deriving DecidableEq, Repr

/-- An allocated region. -/
structure Alloc where
  stack : Die
  base  : Nat
  len   : Nat
  kind  : RegionKind
  deriving DecidableEq, Repr

/-- A stack and its controller (R262, R264, R266): the temperature band in force and since when every reading has lain
below each lower edge by 3 °C, the channel groups that have changed rate, the pages retired, the times of retirements by
pseudo-channel and of corrected errors by page, the pseudo-channel retired, the training failures by pseudo-channel, the
granules of 32 bytes that are marked poisoned, and those of 4 KiB that the firmware has withdrawn from allocation. -/
structure HbmSt where
  band    : Nat
  coolAt  : List (Option Nat)
  groups  : Nat
  pages   : List Nat
  pageAt  : List (Nat × Nat)
  ceAt    : List (Nat × Nat)
  pc      : Option Nat
  pcFails : List Nat
  poison  : List Nat
  bad     : List Nat
  deriving DecidableEq, Repr

/-- A chunk of a preserving pass, or the memories still to be tested (R271): memory, first word, abandonments. -/
structure Chunk where
  mem   : BitVec 2
  har   : Nat
  unit  : Nat
  row   : Nat
  first : Nat
  tries : Nat
  deriving DecidableEq, Repr

/-- The march test engine of a die (R268, R271). -/
structure MarchSt where
  total   : Nat
  chunks  : List Chunk
  cmd     : Option (Qp × BitVec 16)
  startup : Bool
  deriving DecidableEq, Repr

/-- The firmware's copy of the yarn and bobbin descriptors of a die at the boundary of an ordinal (R418). -/
structure DescCopy where
  die   : Die
  ord   : Nat
  yarns : Sparse Yarn
  bobs  : Sparse Bob
  deriving DecidableEq, Repr

/-- The memories of the device beside the array's: HBM by stack offset (R259), the NV stores (R376), the draft master copies
(R365), the tightly coupled memories (R346), what is allocated (R261), the SYS frames (R366), the darnings that the firmware has
recorded in the NV store by harness, row and column (R119), its records of aging by harness (the shift and the frequency limit,
0 for none, R210), what failures of march tests have withdrawn or lost (bank blocks by harness and block, spare cells by harness
and row, harnesses, R272), the bank blocks that hold initial contents from the image, the harnesses whose banks DRAFT_LOAD or
DRAFT_SWAP has changed since the load (R388), the default yarn and bobbin tables of the images (R364), and its copies of the
descriptors in its share of HBM (R418). -/
structure MemSt where
  hbm      : Mem
  nv       : Mem
  master   : Mem
  itcm     : Mem
  dtcm     : Mem
  stack    : Sparse HbmSt
  march    : Sparse MarchSt
  allocs   : List Alloc
  sys      : Mem
  darned   : List (Nat × Nat × Nat)
  aged     : Sparse (Nat × Nat)
  withdrawn : List Nat
  spareBad : List (Nat × Nat)
  marchLost : List Nat
  imageBank : List Nat
  drafted  : List Nat
  yarnImg  : Mem
  bobImg   : Mem
  descs    : List DescCopy
  deriving DecidableEq, Repr

/-! ## Ports and rings (R274 to R315) -/

/-- A STREAM item being assembled by a receive rule (R282). -/
structure Seg where
  rule  : Nat
  len   : Nat
  got   : Nat
  drop  : Bool
  deriving DecidableEq, Repr

/-- The frames of a STREAM item that a traffic class has still to send (R284, R285), without their FCS. -/
structure TxItem where
  tc     : Nat
  frames : List (List Byte)
  deriving DecidableEq, Repr

/-- A frame that has been preempted (R285): its class, its bytes, how many of them have left, and its fragments so far. -/
structure TxFrame where
  tc    : Nat
  bytes : List Byte
  sent  : Nat
  count : Nat
  deriving DecidableEq, Repr

/-- A port (R276, R282, R285, R286): items being assembled, the last binding served in each class, the gate control
list in force (whether there is one, its entries and cycle time, when the current cycle and entry began and which
entry it is), whether the port has been silenced until it is configured again (R313), the items that it is sending, the frame
that is preempted, whether preemption is verified, the counts of the block lock process (R290), the rx_ok bits of the last four
IDLE blocks (R292), the delay exchange of a trunk link: the next sequence number, and the request that waits for its response
with the time at which it left, in units of 2⁻⁸ ns (R297), and the Ethernet frame or fragment that left last: when it left and its
bytes (R313). -/
structure PortSt where
  segs    : List Seg
  lastIn  : Sparse Nat
  started : Bool
  olen    : Nat
  ocycle  : Nat
  cycleAt : Nat
  entry   : Nat
  entryAt : Nat
  cut     : Bool
  txq     : List TxItem
  frag    : Option TxFrame
  verified : Bool
  lockCnt : Nat
  lockBad : Nat
  idles   : List Bool
  dlySeq  : BitVec 16
  dlyReq  : Option (BitVec 16 × Nat)
  sending : Option (Nat × Nat)
  deriving DecidableEq, Repr

/-- A slot built into a COMMAND frame (R295, R304). -/
structure CmdSlot where
  addr  : Nat
  seq   : Byte
  valid : Bool
  safe  : Bool
  data  : List Word
  deriving DecidableEq, Repr

/-- A ring's cycle (R299, R302 to R309): whether its sequencer runs, the grid in force (period, base and lead), the
cycle under way (start, number, what it sends by the codes of PL_STAT.rstate, and whether it has ended), a discovery
that waits, the slots built, the origins of the COMMAND and COLLECT frames that have not returned, the reaches and
identities of those that have, the addresses whose status is taken, what the last cycle found, the pick instant of the cycle
before, the COMMAND and COLLECT frames of the cycle with the port and the time at which each leaves, and whether the ring is
silent until run = 1 (R313). -/
structure RingSt where
  running   : Bool
  period    : Nat
  base      : Nat
  lead      : Nat
  start     : Nat
  cycle     : BitVec 16
  mode      : Nat
  ended     : Bool
  discPend  : Bool
  slots     : List CmdSlot
  built     : Bool
  cmdOut    : List Bool
  colOut    : List Bool
  evenReach : List Nat
  oddReach  : List Nat
  whole     : Bool
  taken     : List Nat
  found     : List (Nat × Nat)
  picked    : Bool
  prev      : Option (Nat × Nat × Nat)
  prevPick  : Nat
  sending   : List (Bool × Nat × List PlBlock)
  silent    : Bool
  deriving DecidableEq, Repr

/-- Ports, rings, the port tables (R280, R283, R286) and node tables (R300) as words, the quad references
(R274), and the MAC addresses that PORT_CFG has given (R335). -/
structure PortsSt where
  ports    : Sparse PortSt
  rings    : Sparse RingSt
  tables   : Sparse Word
  nodes    : Sparse Word
  lastCmd  : Sparse (List Word)
  macs     : Sparse (Option (BitVec 48))
  quadLost : List Nat
  supply   : Bool
  deriving DecidableEq, Repr

/-! ## The host interface (R316 to R344) -/

/-- A completion (R331) waiting to be written; `event` names an event's code, die and source for merging (R340). -/
structure Completion where
  result0 : Word
  result1 : Word
  result2 : Word
  beat    : BitVec 48
  status  : Byte
  cid     : BitVec 16
  event   : Option (Nat × Die × Word × Nat)
  buf     : List Byte
  deriving DecidableEq, Repr

/-- A queue pair (R326 to R329): the tails and heads, the expected phase, completions waiting, commands in
flight, the message that waits for its interval, whether it drains after a disable, and whether it has stopped on an
error. -/
structure QpSt where
  sqTail   : Nat
  cqTail   : Nat
  cqHead   : Nat
  phase    : Bool
  waiting  : List Completion
  inFlight : Nat
  coalBusy : Bool
  msgDue   : Bool
  draining : Bool
  stopped  : Bool
  deriving DecidableEq, Repr

/-- A staged command and the tick at which it was fetched (R332). -/
structure Staged where
  cmd  : HostCmd
  tick : Nat
  deriving DecidableEq, Repr

/-- What a command in progress waits for (R335). -/
inductive WaitOp where
  | none
  | hold (y : Nat)
  | delete (y : Nat)
  | swap (d : Die) (h : Nat)
  | darn (d : Die) (h : Nat)
  | domain (d : Die) (i : Nat)
  | march (d : Die)
  | nv (d : Die)
  | update (d : Die)
  | release (d : Die) (level : Level) (h : Nat)
  | region (j : Nat)
  deriving DecidableEq, Repr

/-- A command in progress: its completion so far, the beat whose commit it waits for (R332), and the operation. -/
structure Waiting where
  qp    : Qp
  cpl   : Completion
  ord   : Option (Die × Nat)
  op    : WaitOp
  mute  : Bool
  deriving DecidableEq, Repr

/-- A host region (R337). -/
structure HostReg where
  mapped : Bool
  out    : Bool
  bob    : Nat
  base   : Nat
  log2   : Nat
  dev    : BitVec 16
  host   : BitVec 16
  stop   : Bool
  deriving DecidableEq, Repr

/-- The beat window (R338, R339): place, area size, published yarns with their stage masks, what was published before
with the ordinal of the first checkpoint it no longer applies to, the next checkpoint to copy, the areas that are
complete, and the beat shown. -/
structure BeatWin where
  base    : Nat
  area    : Nat
  pubs    : Sparse (BitVec 4)
  old     : List (Nat × Sparse (BitVec 4))
  next    : Nat
  done    : List Nat
  shown   : Option Nat
  deriving DecidableEq, Repr

/-- What the function presents to the host (R318): its identification, and the sizes of BAR 0 and BAR 2, each 64-bit and
non-prefetchable memory. -/
structure PciFn where
  vendor    : BitVec 16
  device    : BitVec 16
  revision  : Byte
  cls       : BitVec 24
  subVendor : BitVec 16
  subDevice : BitVec 16
  bar0      : Nat
  bar2      : Nat
  deriving DecidableEq, Repr

/-- The host interface. -/
structure HostSt where
  qps      : Sparse QpSt
  staged   : List Staged
  waits    : List Waiting
  regions  : Sparse HostReg
  win      : BeatWin
  bell     : Bool
  d3hot    : Bool
  fn       : PciFn
  deriving DecidableEq, Repr

/-! ## The Rentur complexes (R345 to R363) -/

/-- How a Rentur core is halted (R466). -/
inductive HaltMode where
  | none | monitor | hard
  deriving DecidableEq, Repr

/-- A command handed to a complex that has not served it (R333, R355); `mute` when its completion will not be
written (R329, R343). -/
structure Handed where
  cmd  : HostCmd
  mute : Bool
  deriving DecidableEq, Repr

/-- A Rentur complex: the pending event lines, the levels that hold a preempted handler and the level that runs (R353); the
commands handed to it (R355); its halt, the level halted, and a halt that is deferred (`some true`: a hard one), with whether
the core is between a load-reserve and its store-conditional (R466, R467); whether the ITCM holds verified firmware (R358); the
tick of the last watchdog expiry and the watchdog's time left in µs at the tick `wdtAt` (R356); and the register windows (R349):
for each bank the current one, the window of bank 0 to return to from fault entry (R351), and the registers by (bank × 8 +
window) × 16 + register; for each bank how many windows behind the current one are filled, and the base of its spill region in
DTCM (R350); the levels and fault entries that the firmware has given to event lines, and its timers by the tick at which each
signals (R353); whether firmware has run since the last reset of DIE reach or wider, and the digest of the firmware image
(R358). -/
structure RtSt where
  lines    : List Nat
  preempt  : List Nat
  level    : Option Nat
  mailbox  : List Handed
  halt     : HaltMode
  haltLvl  : Nat
  linked   : Bool
  haltWait : Option Bool
  fwOk     : Bool
  lastExp  : Option Nat
  wdt      : Nat
  wdtAt    : Nat
  window   : List (Fin 8)
  back     : Fin 8
  windows  : Sparse (BitVec 64)
  filled   : List Nat
  spillAt  : List Nat
  lineSet  : Sparse (Option (Option (Fin 8) × Bool))
  timers   : Sparse (Option Nat)
  booted   : Bool
  digest   : List Byte
  deriving DecidableEq, Repr

/-! ## Images, the fringe and reset (R364 to R445) -/

/-- A segment of the image being loaded (R369). -/
structure SegEnt where
  off   : Nat
  len   : Nat
  cls   : Nat
  first : Nat
  count : Nat
  deriving DecidableEq, Repr

/-- A SHA-384 digest in progress: its eight words, the bytes that do not fill a block, and how many bytes there were. -/
structure ShaSt where
  words : List Nat
  rest  : List Byte
  count : Nat
  deriving DecidableEq, Repr

/-- The configuration engine of a die (R376 to R392): a load that waits for its rail or its image, one that runs (source, header,
segment table, segments done, the key of the next segment, the running digest, whether the last-segment flags were right), the
key store (R372), the slot the die was loaded from (R388), the start-up (R385), whether a failure is kept (R383), whether the
load is one of a live update (R194) or of a wake from DOZE (R437), the FRINGE frame under repair and the draft memory frames
that differed lately (R390), the NV slot that NV_WRITE writes (R377), what its two segment buffers hold, the newer first
(R250), whether an image has been taken from the pins since CFG_CS_N was asserted (R378), and whether the last load from the NV
slots has failed (R380). -/
structure ImgSt where
  waiting  : Bool
  loading  : Bool
  src      : Option ImgSrc
  header   : List Byte
  table    : List SegEnt
  done     : Nat
  key      : Option Nat
  digest   : ShaSt
  keys     : List Nat
  nvSlot   : Byte
  starting : Bool
  stepNo   : Nat
  failed   : Bool
  update   : Bool
  retained : Bool
  scrubGot : Option (BitVec 24)
  scrubAt  : List (BitVec 24 × Nat)
  nvBusy   : Option Nat
  buffers  : List (List Byte)
  pinsTaken : Bool
  nvFailed : Bool
  deriving DecidableEq, Repr

/-- A serial controller's buffers (R409). -/
structure SerSt where
  tx : List (BitVec 11)
  rx : List Byte
  deriving DecidableEq, Repr

/-- A fringe gate (R406, R407): the words buffered inbound, and whether the item at the head is in delivery. -/
structure FGate where
  buf    : List TWord
  inOpen : Bool
  deriving DecidableEq, Repr

/-- The fringe of both dies: frames (R364), golden signatures (R389), flip-flops (R394), gates (R406), serial controllers
(R409), whether the pins of a die are in their fuse-map states (R431), the last samples of the deserialisers (R404), and what each
pin's serialiser sends with bit 8 its output enable. -/
structure FringeSt where
  frames   : Mem
  golden   : Sparse Word
  ffs      : Sparse Bool
  gates    : Sparse FGate
  sers     : Sparse SerSt
  fuseMap  : List Bool
  rx       : Sparse (BitVec 8)
  outputs  : Sparse (BitVec 16)
  deriving DecidableEq, Repr

/-- An asserted reset source (R419): source, reach, and die and harness it acts on. -/
structure Asserted where
  src   : Nat
  level : Level
  die   : Die
  har   : Nat
  deriving DecidableEq, Repr

/-- The option bytes in force on a die (R428, R429): boot, start-up order and delay, march, debug enables, and the ports. -/
structure Opts where
  boot  : Nat
  order : Nat
  dly   : Nat
  march : Nat
  debug : Nat
  ports : List Nat
  deriving DecidableEq, Repr

/-- Resets and power states (R415 to R439): the sources asserted, the release stage each die has reached (R422),
and the power state; `request` is a request for DOZE (false) or VIGIL (true), and whether it is the host's, which the
firmware checks (R436). -/
structure RstSt where
  asserted : List Asserted
  stage    : Sparse Nat
  opened   : Bool
  dozing   : Bool
  vigil    : Bool
  request  : Option (Bool × Bool)
  heldWake : Option WakeCause
  wakeNLow : Bool
  cfgDone  : Bool
  restore  : List Nat
  opts     : Sparse Opts
  deriving DecidableEq, Repr

/-- The Vigil domain (R440 to R444): the counter, its pending load and step, PPS discipline, the latched values
of the time registers for each requester (R477), and MODEL time in ticks of the TCXO since POWER reset. -/
structure VigilSt where
  seconds  : BitVec 48
  ns       : Nat
  frac     : Nat
  load     : Bool
  step     : Option (BitVec 32)
  ppsBad   : Nat
  ppsGood  : Nat
  ppsHigh  : Nat
  tcxoBad  : Bool
  latches  : Sparse Word
  ticks    : Nat
  deriving DecidableEq, Repr

/-- The power cap that the firmware of die 0 keeps (R486): the power of the last ten periods of 1 ms in mW, newest first,
the frequencies that HARNESS_CFG last requested, the periods since the last step up, and the tick of the last event at the
lowest frequencies. -/
structure CapSt where
  samples : List Nat
  asked   : Sparse Nat
  since   : Nat
  eventAt : Option Nat
  deriving DecidableEq, Repr

/-! ## Debug (R446 to R469) -/

/-- A READ or WRITE of the debug port that waits for a domain that it has woken (R239, R456). -/
structure SvWait where
  write : Bool
  addr  : Nat
  count : Nat
  attr  : Nat
  words : List Word
  deriving DecidableEq, Repr

/-- The debug domain: whether a break has been received and a frame is in progress, with the length in ns of its break, which is
eight unit times (R449); the last request executed and its response (R453), and the die whose deferred halt holds back a
response (R467); the number of the nonce (R458); failed unlocks in a row (R460); the comparators whose link has matched (R462);
and the debug request source as it is asserted (R457); and a request that waits for a domain (R239). -/
structure DbgSt where
  session : Bool
  framed  : Bool
  t       : Nat
  last    : Option SvReq
  status  : Byte
  resp    : List Byte
  haltFor : Option Die
  nonce   : Option Nat
  fails   : Nat
  armed   : List Nat
  rstHeld : Option Asserted
  svWait  : Option SvWait
  deriving DecidableEq, Repr

/-! ## Fuses and outputs -/

/-- A fuse record of a repair (R256): the sub-array, the failing column and the redundant column that replaces it. -/
structure RepairRec where
  array  : Nat
  column : Fin 128
  spare  : Fin 2
  deriving DecidableEq, Repr

/-- What production fuses hold (R210 to R432 name each): serial numbers, reaches (R421), the margin targets
(R207), the fuse map (R431), repairs (R256), and key digests and keys as numbers (R371, R375, R458), with the public-key slots
that are revoked (R375). -/
structure Fuses where
  serial    : BitVec 64
  reach     : List (BitVec 3)
  margin    : BitVec 8
  fuseMap   : List (BitVec 3)
  repairs   : List (List RepairRec)
  deviceKey : Nat
  groupKey  : Option Nat
  pubKeys   : List (Option Nat)
  revoked   : List Bool
  debugKeys : List (Option Nat)
  deriving DecidableEq, Repr

/-- What the device emits, newest last. -/
inductive Output where
  | word (b : Nat) (w : TWord)
  | hostWord (rq : Requester) (w : TWord)
  | frame (p : Nat) (bytes : List Byte) (time : Nat)
  | fragment (p : Nat) (count : Nat) (last : Bool) (bytes : List Byte)
  | egress (p : Nat) (bytes : List Byte) (time : Nat)
  | ring (k : Nat) (odd : Bool) (blocks : List PlBlock)
  | frameCut (p : Nat) (sent : Nat)
  | ringCut (k : Nat) (odd : Bool) (sent : Nat) (eof : PlBlock)
  | completion (q : Nat) (index : Nat) (bytes : List Byte)
  | buffer (q : Nat) (cid : BitVec 16) (bytes : List Byte)
  | msi (v : Nat) (addr : BitVec 64) (data : Word)
  | value (rq : Requester) (v : Word)
  | window (data : List Byte) (poison : Bool)
  | selvedge (status : Byte) (data : List Byte) (crc : Byte)
  | packet (p : Packet)
  | flit (d : Die) (f : BitVec 576)
  | event (d : Die) (code : Nat) (data : Word)
  | link (d : Die) (frame : BitVec 4320) (lanes : List Nat)
  | rejoin (beat : BitVec 48)
  | serial (d : Die) (c : Nat) (b : BitVec 11)
  | pps (high : Bool)
  | wakeN (low : Bool)
  | ptp (p : Nat) (bytes : List Byte) (time : Nat)
  deriving DecidableEq, Repr

/-- The state of the device. `regs` is the register bank by `regKey`; `pending` is the queue of steps that wait,
first in, first out; `outbox` is what the device has emitted; `free` counts the open values used (MODEL). -/
structure State where
  arr     : ArrSt
  flow    : FlowSt
  beats   : Sparse BeatSt
  doms    : Sparse DomSt
  net     : NetSt
  brd     : Sparse BrdSt
  mem     : MemSt
  ports   : PortsSt
  host    : HostSt
  rt      : Sparse RtSt
  img     : Sparse ImgSt
  fringe  : FringeSt
  rst     : RstSt
  vigil   : VigilSt
  dbg     : DbgSt
  cap     : CapSt
  fuses   : Fuses
  regs    : Sparse Word
  pending : List Instr
  outbox  : List Output
  free    : Nat
  deriving DecidableEq, Repr

/-- Why a step stops with a fault. No rule of the manual stops the device in a step, so no meaning answers with
one; the constructor keeps the type inhabited. Safe: a fault allows nothing. -/
inductive Fault where
  /-- raised by nothing in this model; safe -/
  | unused
  deriving DecidableEq, Repr

/-- Why a step is refused. Safe: a refusal allows nothing. -/
inductive Refusal where
  /-- raised by an arm of `exec` whose step has no meaning yet; safe -/
  | notModelled (mnemonic : String)
  deriving DecidableEq, Repr

/-- The fuses of the model's part: the factory reaches of R419 and R421, the factory fuse map of R431, and for
what the manual leaves to the part (serial number, keys, margin target) the values of log entry 6. -/
def fusesFactory : Fuses where
  serial := 0
  reach := [0, 1, 0, 1, 4, 7, 7, 1, 5, 4, 2, 3, 1, 2]
  margin := 0
  fuseMap := List.replicate 64 2
  repairs := [[], []]
  deviceKey := 0
  groupKey := none
  pubKeys := [some 0, none, none, none]
  revoked := List.replicate 4 false
  debugKeys := [some 0, none]

/-- The state right after a POWER reset, at step 1 of R426: every register at its reset value (the bank lists
nothing), no domain ON, no stage released, every memory empty, and no step waiting. -/
def State.reset : State where
  arr := { cells := [], hars := [], reedIn := [], gates := [], cellDraft := [], reedDraft := [], table := [],
           scratch := [], shared := [], bank := [] }
  flow := { yarns := [], bobs := [], flights := [], nextFlight := 1, reports := [], lastYarn := [],
            badEntries := [], gone := [] }
  beats := []
  doms := []
  net := { routes := [], switched := [], held := [], heldEv := [], heldAcc := [], heldHdm := [], awaits := [], slots := [], stray := [] }
  brd := []
  mem := { hbm := [], nv := [], master := [], itcm := [], dtcm := [], stack := [], march := [], allocs := [],
           sys := [], darned := [], aged := [], withdrawn := [], spareBad := [], marchLost := [], imageBank := [], drafted := [], yarnImg := [],
           bobImg := [], descs := [] }
  ports := { ports := [], rings := [], tables := [], nodes := [], lastCmd := [], macs := [], quadLost := [],
             supply := true }
  host := { qps := [], staged := [], waits := [], regions := [],
            win := { base := 0, area := 0, pubs := [], old := [], next := 0, done := [], shown := none },
            bell := false, d3hot := false,
            fn := { vendor := 0x1F3C, device := 0x4896, revision := 0xB0, cls := 0x120000, subVendor := 0x1F3C,
                    subDevice := 0x4896, bar0 := 0x10000, bar2 := 0x8000000 } }
  rt := []
  img := []
  fringe := { frames := [], golden := [], ffs := [], gates := [], sers := [], fuseMap := [true, true],
              rx := [], outputs := [] }
  rst := { asserted := [], stage := [(0, 0), (1, 0)], opened := false, dozing := false, vigil := false,
           request := none, heldWake := none, wakeNLow := false, cfgDone := false, restore := [],
           opts := [] }
  vigil := { seconds := 0, ns := 0, frac := 0, load := false, step := none, ppsBad := 0, ppsGood := 0,
             ppsHigh := 0, tcxoBad := false, latches := [], ticks := 0 }
  dbg := { session := false, framed := false, t := 0, last := none, status := 0, resp := [], haltFor := none, nonce := none,
           fails := 0, armed := [], rstHeld := none, svWait := none }
  cap := { samples := [], asked := [], since := 0, eventAt := none }
  fuses := fusesFactory
  regs := []
  pending := []
  outbox := []
  free := 0

end Sys2Proof.Machine
end

