-- ==== Sys2Proof/Machine/Sparse.lean ====
section
/-! DEFINITION. Stores in canonical form and the bit, byte and check-sum helpers that every part of the model uses.
What an unlisted key reads as is the argument `d`: for the register bank it depends on the key. -/

namespace Sys2Proof.Machine

/-! ## Stores -/

/-- The value at a key. -/
def sparseGet {α : Type} (d : Nat → α) : Sparse α → Nat → α
  | [], k => d k
  | (k', v) :: m, k => if k = k' then v else sparseGet d m k

/-- Forget a key. -/
def sparseErase {α : Type} (m : Sparse α) (k : Nat) : Sparse α := m.filter (fun e => e.1 ≠ k)

/-- Write a value at a key; writing what an unlisted key reads as removes the entry. -/
def sparseSet {α : Type} [DecidableEq α] (d : Nat → α) : Sparse α → Nat → α → Sparse α
  | [], k, v => if v = d k then [] else [(k, v)]
  | (k', v') :: m, k, v =>
    if k = k' then (if v = d k then sparseErase m k else (k, v) :: m)
    else if k < k' then (if v = d k then (k', v') :: sparseErase m k else (k, v) :: (k', v') :: m)
    else (k', v') :: sparseSet d m k v

/-- The canonical form: keys above `lo`, strictly rising, no entry equal to what an unlisted key reads as. -/
def sparseWfFrom {α : Type} [DecidableEq α] (d : Nat → α) : Nat → Sparse α → Bool
  | _, [] => true
  | lo, (k, v) :: m => decide (lo ≤ k) && !decide (v = d k) && sparseWfFrom d (k + 1) m

/-- The canonical form of a store. -/
def sparseWf {α : Type} [DecidableEq α] (d : Nat → α) (m : Sparse α) : Bool := sparseWfFrom d 0 m

/-- Change the value at a key. -/
def sparseMod {α : Type} [DecidableEq α] (d : Nat → α) (m : Sparse α) (k : Nat) (f : α → α) : Sparse α :=
  sparseSet d m k (f (sparseGet d m k))

/-- Forget every key that a test names. -/
def sparseDrop {α : Type} (m : Sparse α) (p : Nat → Bool) : Sparse α := m.filter (fun e => !p e.1)

/-! ## Memories of bytes -/

/-- What a byte nothing has written reads as (log entry 3). -/
def byteDefault : Nat → Byte := fun _ => 0

/-- The canonical form of a memory. -/
def Memory.wf (m : Mem) : Bool := sparseWf byteDefault m

/-- The byte at an address. -/
def memByte (m : Mem) (a : Nat) : Byte := sparseGet byteDefault m a

/-- Write the byte at an address. -/
def memSetByte (m : Mem) (a : Nat) (v : Byte) : Mem := sparseSet byteDefault m a v

/-- The `n` bytes from an address. -/
def memRead (m : Mem) (a : Nat) : Nat → List Byte
  | 0 => []
  | n + 1 => memByte m a :: memRead m (a + 1) n

/-- Write bytes from an address upwards. -/
def memWrite (m : Mem) (a : Nat) : List Byte → Mem
  | [] => m
  | b :: bs => memWrite (memSetByte m a b) (a + 1) bs

/-- Forget the bytes of a range: they read as 0 again. -/
def memClear (m : Mem) (a n : Nat) : Mem := m.filter (fun e => !(decide (a ≤ e.1) && decide (e.1 < a + n)))

/-! ## Bits, bytes and words (R4) -/

/-- Bits `hi` to `lo` of a number. -/
def bitsOf (v hi lo : Nat) : Nat := v / 2 ^ lo % 2 ^ (hi + 1 - lo)

/-- One bit of a number. -/
def bitOf (v i : Nat) : Bool := v / 2 ^ i % 2 = 1

/-- A number with bits `hi` to `lo` replaced. -/
def putBits (v hi lo f : Nat) : Nat :=
  v % 2 ^ lo + (f % 2 ^ (hi + 1 - lo)) * 2 ^ lo + v / 2 ^ (hi + 1) * 2 ^ (hi + 1)

/-- The bytes of a number, little-endian. -/
def leBytes : Nat → Nat → List Byte
  | 0, _ => []
  | n + 1, v => BitVec.ofNat 8 (v % 256) :: leBytes n (v / 256)

/-- The number that bytes spell, little-endian. -/
def leNat : List Byte → Nat
  | [] => 0
  | b :: bs => b.toNat + 256 * leNat bs

/-- The bytes of a number, most significant first. -/
def beBytes (n v : Nat) : List Byte := (leBytes n v).reverse

/-- The number that bytes spell, big-endian. -/
def beNat (bs : List Byte) : Nat := leNat bs.reverse

/-- A little-endian field of a byte list: `n` bytes from offset `o`; bytes beyond the list read as 0. -/
def fieldAt (bs : List Byte) (o n : Nat) : Nat := leNat ((bs.drop o).take n)

/-- The 32-bit words of a byte list. -/
def wordsOf : List Byte → List Word
  | a :: b :: c :: d :: bs => BitVec.ofNat 32 (leNat [a, b, c, d]) :: wordsOf bs
  | _ => []

/-- The bytes of words, little-endian. -/
def bytesOf : List Word → List Byte
  | [] => []
  | w :: ws => leBytes 4 w.toNat ++ bytesOf ws

/-- A byte list filled with zeros up to a length. -/
def padTo (n : Nat) (bs : List Byte) : List Byte := bs ++ List.replicate (n - bs.length) 0

/-- Replace the element at an index. -/
def listSet {α : Type} : List α → Nat → α → List α
  | [], _, _ => []
  | _ :: xs, 0, v => v :: xs
  | x :: xs, i + 1, v => x :: listSet xs i v

/-- Is every bit of a range zero? -/
def zeroBits (v hi lo : Nat) : Bool := bitsOf v hi lo = 0

/-- A number as a signed value of `w` bits. -/
def signed (w v : Nat) : Int := if v % 2 ^ w < 2 ^ (w - 1) then (v % 2 ^ w : Nat) else (v % 2 ^ w : Nat) - (2 ^ w : Nat)

/-- A signed value in `w` bits of two's complement. -/
def unsigned (w : Nat) (v : Int) : Nat := (v % (2 ^ w : Nat)).toNat

/-- A count that stops at a limit. -/
def stopAt (limit v : Nat) : Nat := if v < limit then v + 1 else v

/-! ## Check sums -/

/-- One bit of CRC-32C (reflected polynomial 0x82F63B78; the manual names the CRC, log entry 7). -/
def crc32cBit (c : Nat) : Nat := if c % 2 = 1 then Nat.xor (c / 2) 0x82F63B78 else c / 2

/-- One byte of CRC-32C. -/
def crc32cByte (c : Nat) (b : Byte) : Nat :=
  crc32cBit (crc32cBit (crc32cBit (crc32cBit (crc32cBit (crc32cBit (crc32cBit (crc32cBit
    (Nat.xor c b.toNat))))))))

/-- CRC-32C continued over bytes, between the initial and the final inversion. -/
def crc32cRun : Nat → List Byte → Nat
  | c, [] => c
  | c, b :: bs => crc32cRun (crc32cByte c b) bs

/-- CRC-32C of bytes. -/
def crc32c (bs : List Byte) : Nat := Nat.xor (crc32cRun 0xFFFFFFFF bs) 0xFFFFFFFF

/-- CRC-32C extended by further bytes: `crcExtend (crc32c a) b = crc32c (a ++ b)`. -/
def crcExtend (c : Nat) (bs : List Byte) : Nat := Nat.xor (crc32cRun (Nat.xor c 0xFFFFFFFF) bs) 0xFFFFFFFF

/-- One bit of the CRC-8 of R452. -/
def crc8Bit (c : Nat) : Nat := if 128 ≤ c then Nat.xor (c * 2 % 256) 7 else c * 2

/-- The CRC-8 of R452: polynomial x⁸ + x² + x + 1, initial value 0, no reflection. -/
def crc8 : List Byte → Nat
  | bs => bs.foldl (fun c b => crc8Bit (crc8Bit (crc8Bit (crc8Bit (crc8Bit (crc8Bit (crc8Bit (crc8Bit
    (Nat.xor c b.toNat))))))))) 0

/-- The parity of a number of `w` bits. -/
def parity : Nat → Nat → Bool
  | 0, _ => false
  | w + 1, v => xor (v % 2 = 1) (parity w (v / 2))

end Sys2Proof.Machine
end

