-- ==== Sys2Proof/Machine/Ops.lean ====
section
/-! DEFINITION. The named operations over the state: what each store holds before anything is written, access to
the parts of the state, the register bank (R8, R9), outputs, MSI-X messages (R342), events (R340) and completions
(R331). -/

namespace Sys2Proof.Machine

/-! ## What a store holds before anything is written (the cleared contents of R198, R415) -/

def slotCtxZero : SlotCtx where
  sr0 := 0
  sr1 := 0
  sr2 := 0
  sr3 := 0
  acc0 := 0
  acc1 := 0
  mmVal := 0
  mmCount := 0
  mmIdx := 0
  eOut := 0
  mvSeen := false
  wMax := 0
  s := 0
  ovfOwn := false
  mmWrap := false
  mmValid := false
  poisonItem := false
  ovfItem := false
  satA1 := false
  satA0 := false
  satB1 := false
  satB0 := false
  pos := 0

def slotInit : SlotSt where
  act := slotCtxZero
  actItem := 0
  actFl := none
  actDone := false
  old := slotCtxZero
  oldItem := 0
  oldFl := none
  oldDone := false
  older := []
  next := []
  inItem := false
  words := 0

def cellCntZero : CellCnt := { word := 0, empty := 0, bubble := 0, hold := 0, forced := 0, ovf := 0 }

def cellInit : CellSt where
  ia := none
  ib := none
  tbl := none
  urg := none
  out := none
  lastIdx := 0
  pipe := []
  pend := []
  slots := []
  trackA := []
  trackB := []
  trackT := []
  trackU := []
  trackO := []
  ibBad := false
  cnt := cellCntZero

def harInit : HarSt where
  flip := false
  tpos := 0
  tOffered := false
  tOpen := []
  tHold := none
  tDone := []
  gw := []
  laneLast := []
  firstAge := []
  gwIn := []
  gwOut := []
  armTick := none
  draining := false
  wbs := []
  halted := false
  stepping := 0
  inReset := false
  lost := false
  deadBeat := none
  collBeat := none
  headroom := 63
  aboveFor := 0
  relocks := 0
  faultAt := []
  bpCount := []
  acted := []
  bpNow := []
  haltIn := 0

def gateInit : GateSt where
  fromA := []
  fromB := []
  turnB := false
  contended := none
  forced := false
  failed := false

def yarnFree : Yarn where
  state := .free
  pinned := false
  migratable := false
  prot := 0
  replay := 0
  ovfPolicy := 0
  homeDie := 0
  entryIdx := 0
  prio := 0
  entry := 0
  stages := []
  ins := []
  outs := []
  inNext := 0
  outMax := 0
  ovfCount := 0
  itemsIn := 0
  itemsDone := 0
  ckpt := 0
  ckptBeat := 0
  before := .free
  holdReq := false
  splitReq := false
  delReq := false
  updHold := false
  stopReq := false
  marks := []
  cut := 0
  cuts := []
  lastAt := none
  written := []
  copies := []
  snaps := []
  target := none
  replays := 0
  reinject := []
  rpFault := []
  twinHash := 0
  twinLog := []

def egressZero : Egress := { sent := 0, markSent := 0, markBeat := 0, hash := 0 }

def bobFree : Bob where
  state := .free
  rszPend := false
  prod := .yarn
  cons := .yarn
  dropOld := false
  wstat := 0
  consId := 0
  prodId := 0
  die := 0
  entry := 0
  base := 0
  quota := 0
  wp := 0
  rp := 0
  wp2 := 0
  rp2 := 0
  wseq := 0
  rseq := 0
  wpos := 0
  rpos := 0
  wmark := 0
  newQuota := 0
  drops := 0
  stall := 0
  resv := 0
  egress := egressZero
  head := []
  tail := []
  spoolPos := []
  dead := []
  items := []
  opened := none
  dropping := false
  flushed := false
  deliver := 0
  grown := 0
  works := []
  suppress := 0
  supHash := 0
  supGoal := 0
  skip := 0
  skipEnd := false
  jrnGone := 0
  inspected := false
  blocked := false
  stalled := false
  lost := []
  prodCut := false
  consCut := false

def beatInit : BeatSt where
  started := false
  ord := 0
  nums := []
  cmt := 0
  readyMsg := []
  commitMsg := []
  lastTick := 0
  jw := 0
  jr := 0
  jlen := 0
  jmark := 0
  jshrink := none
  jgrown := 0
  jents := []
  refusedAt := none
  faults := []
  replays := []
  joint := 0
  rejoinMod := none
  update := none

def domInit : DomSt where
  state := .off
  step := .none
  waiting := false
  goal := .on
  fall := .off
  locks := 0
  fast := false

def brdInit : BrdSt where
  nextSeq := 0
  sendSeq := 0
  unacked := []
  naks := 0
  waitSeq := false
  nakDue := false
  retrains := []
  credits := [32, 32, 32, 32]
  crDue := [0, 0, 0, 0]
  txq := []
  waitq := []
  rxq := []
  ackDue := false
  marked := []
  prbs := (List.range 24).map (fun i => BitVec.ofNat 31 i)
  width12 := false
  bnd := none
  bndSeen := none
  rejoinEv := none

def hbmInit : HbmSt where
  band := 0
  coolAt := [none, none, none, none]
  groups := 0
  pages := []
  pageAt := []
  ceAt := []
  pc := none
  pcFails := []
  poison := []
  bad := []

def marchInit : MarchSt := { total := 0, chunks := [], cmd := none, startup := false }

def portInit : PortSt where
  segs := []
  lastIn := []
  started := false
  olen := 0
  ocycle := 0
  cycleAt := 0
  entry := 0
  entryAt := 0
  cut := false
  txq := []
  frag := none
  verified := false
  lockCnt := 0
  lockBad := 0
  idles := []
  dlySeq := 0
  dlyReq := none
  sending := none

def ringInit : RingSt where
  running := false
  period := 0
  base := 0
  lead := 0
  start := 0
  cycle := 0
  mode := 0
  ended := true
  discPend := false
  slots := []
  built := false
  cmdOut := []
  colOut := []
  evenReach := []
  oddReach := []
  whole := false
  taken := []
  found := []
  picked := false
  prev := none
  prevPick := 0
  sending := []
  silent := true

def qpInit : QpSt where
  sqTail := 0
  cqTail := 0
  cqHead := 0
  phase := true
  waiting := []
  inFlight := 0
  coalBusy := false
  msgDue := false
  draining := false
  stopped := false

def regionInit : HostReg where
  mapped := false
  out := false
  bob := 0
  base := 0
  log2 := 0
  dev := 0
  host := 0
  stop := false

def rtInit : RtSt where
  lines := []
  preempt := []
  level := none
  mailbox := []
  halt := .none
  haltLvl := 0
  linked := false
  haltWait := none
  fwOk := false
  lastExp := none
  wdt := 1000000
  wdtAt := 0
  window := [0, 0, 0, 0, 0, 0, 0, 0]
  back := 0
  windows := []
  filled := List.replicate 8 0
  spillAt := List.replicate 8 0
  lineSet := []
  timers := []
  booted := false
  digest := []

def imgInit : ImgSt where
  waiting := false
  loading := false
  src := none
  header := []
  table := []
  done := 0
  key := none
  digest := { words := [], rest := [], count := 0 }
  keys := []
  nvSlot := 0xFF
  starting := false
  stepNo := 0
  failed := false
  update := false
  retained := false
  scrubGot := none
  scrubAt := []
  nvBusy := none
  buffers := []
  pinsTaken := false
  nvFailed := false

/-- The factory option bytes (R429). -/
def optsFactory : Opts where
  boot := 0x14
  order := 0x2D
  dly := 0
  march := 0
  debug := 7
  ports := List.replicate 48 0

def serInit : SerSt := { tx := [], rx := [] }

def fgateInit : FGate := { buf := [], inOpen := false }

/-! ## Keys and access -/

def harKey (d : Die) (h : Nat) : Nat := d.val * 36 + h
def cellKey (d : Die) (h r c : Nat) : Nat := harKey d h * 72 + r * 9 + c
def reedKey (d : Die) (h i code : Nat) : Nat := (harKey d h * 64 + i) * 32 + code
def gateKey (d : Die) (vertical : Bool) (h k : Nat) : Nat :=
  ((d.val * 2 + (if vertical then 1 else 0)) * 36 + h) * 8 + k
def cellDraftKey (ck : Nat) (bank : Bool) (slot : Nat) : Nat := (ck * 2 + (if bank then 1 else 0)) * 16 + slot
def reedDraftKey (d : Die) (h i : Nat) (bank : Bool) (slot : Nat) : Nat :=
  ((harKey d h * 64 + i) * 2 + (if bank then 1 else 0)) * 16 + slot
def tableKey (d : Die) (h : Nat) (bank : Bool) (e : Nat) : Nat :=
  (harKey d h * 2 + (if bank then 1 else 0)) * 256 + e
def bankAddr (d : Die) (h o : Nat) : Nat := harKey d h * 0x80000 + o
def hbmAddr (stack : Die) (off : Nat) : Nat := stack.val * 0x5C0000000 + off
def masterAddr (d : Die) (h : Nat) (bank : Bool) (o : Nat) : Nat :=
  (harKey d h * 2 + (if bank then 1 else 0)) * 173056 + o
def nvAddr (d : Die) (o : Nat) : Nat := d.val * 0x2000000 + o
def fringeAddr (d : Die) (frame o : Nat) : Nat := (d.val * 24832 + frame) * 128 + o
def otherDie (d : Die) : Die := if d = 0 then 1 else 0

/-- The key of flip-flop A (false) or B (true) of cell i of a fringe tile. -/
def ffKey (d : Die) (t i : Nat) (b : Bool) : Nat := ((d.val * 1536 + t) * 32 + i) * 2 + (if b then 1 else 0)

def getCell (s : State) (k : Nat) : CellSt := sparseGet (fun _ => cellInit) s.arr.cells k
def setCell (s : State) (k : Nat) (v : CellSt) : State :=
  { s with arr.cells := sparseSet (fun _ => cellInit) s.arr.cells k v }
def getHar (s : State) (d : Die) (h : Nat) : HarSt := sparseGet (fun _ => harInit) s.arr.hars (harKey d h)
def setHar (s : State) (d : Die) (h : Nat) (v : HarSt) : State :=
  { s with arr.hars := sparseSet (fun _ => harInit) s.arr.hars (harKey d h) v }
def modHar (s : State) (d : Die) (h : Nat) (f : HarSt → HarSt) : State := setHar s d h (f (getHar s d h))
def getReedIn (s : State) (k : Nat) : Option Wire := sparseGet (fun _ => none) s.arr.reedIn k
def setReedIn (s : State) (k : Nat) (w : Option Wire) : State :=
  { s with arr.reedIn := sparseSet (fun _ => none) s.arr.reedIn k w }
def getGate (s : State) (k : Nat) : GateSt := sparseGet (fun _ => gateInit) s.arr.gates k
def setGate (s : State) (k : Nat) (v : GateSt) : State :=
  { s with arr.gates := sparseSet (fun _ => gateInit) s.arr.gates k v }
def getScratch (s : State) (ck a : Nat) : Word := sparseGet (fun _ => 0) s.arr.scratch (ck * 512 + a)
def setScratch (s : State) (ck a : Nat) (w : Word) : State :=
  { s with arr.scratch := sparseSet (fun _ => 0) s.arr.scratch (ck * 512 + a) w }
def getShared (s : State) (ck g : Nat) : Word := sparseGet (fun _ => 0) s.arr.shared (ck * 16 + g)
def setShared (s : State) (ck g : Nat) (w : Word) : State :=
  { s with arr.shared := sparseSet (fun _ => 0) s.arr.shared (ck * 16 + g) w }
def getCellDraft (s : State) (ck : Nat) (bank : Bool) (slot : Nat) : BitVec 192 :=
  sparseGet (fun _ => 0) s.arr.cellDraft (cellDraftKey ck bank slot)
def setCellDraft (s : State) (ck : Nat) (bank : Bool) (slot : Nat) (w : BitVec 192) : State :=
  { s with arr.cellDraft := sparseSet (fun _ => 0) s.arr.cellDraft (cellDraftKey ck bank slot) w }
def getReedDraft (s : State) (d : Die) (h i : Nat) (bank : Bool) (slot : Nat) : BitVec 96 :=
  sparseGet (fun _ => 0) s.arr.reedDraft (reedDraftKey d h i bank slot)
def setReedDraft (s : State) (d : Die) (h i : Nat) (bank : Bool) (slot : Nat) (w : BitVec 96) : State :=
  { s with arr.reedDraft := sparseSet (fun _ => 0) s.arr.reedDraft (reedDraftKey d h i bank slot) w }
def getTable (s : State) (d : Die) (h : Nat) (bank : Bool) (e : Nat) : Word :=
  sparseGet (fun _ => 0) s.arr.table (tableKey d h bank e)
def setTable (s : State) (d : Die) (h : Nat) (bank : Bool) (e : Nat) (w : Word) : State :=
  { s with arr.table := sparseSet (fun _ => 0) s.arr.table (tableKey d h bank e) w }
def getYarn (s : State) (d : Die) (y : Nat) : Yarn := sparseGet (fun _ => yarnFree) s.flow.yarns (2 * y + d.val)
def setYarn (s : State) (d : Die) (y : Nat) (v : Yarn) : State :=
  { s with flow.yarns := sparseSet (fun _ => yarnFree) s.flow.yarns (2 * y + d.val) v }
def modYarn (s : State) (d : Die) (y : Nat) (f : Yarn → Yarn) : State := setYarn s d y (f (getYarn s d y))
def getBob (s : State) (b : Nat) : Bob := sparseGet (fun _ => bobFree) s.flow.bobs b
def setBob (s : State) (b : Nat) (v : Bob) : State :=
  { s with flow.bobs := sparseSet (fun _ => bobFree) s.flow.bobs b v }
def modBob (s : State) (b : Nat) (f : Bob → Bob) : State := setBob s b (f (getBob s b))
def getBeat (s : State) (d : Die) : BeatSt := sparseGet (fun _ => beatInit) s.beats d.val
def setBeat (s : State) (d : Die) (v : BeatSt) : State :=
  { s with beats := sparseSet (fun _ => beatInit) s.beats d.val v }
def modBeat (s : State) (d : Die) (f : BeatSt → BeatSt) : State := setBeat s d (f (getBeat s d))
def domKey (d : Die) (i : Nat) : Nat := d.val * 65 + i
def getDom (s : State) (d : Die) (i : Nat) : DomSt := sparseGet (fun _ => domInit) s.doms (domKey d i)
def setDom (s : State) (d : Die) (i : Nat) (v : DomSt) : State :=
  { s with doms := sparseSet (fun _ => domInit) s.doms (domKey d i) v }
def getBrd (s : State) (d : Die) : BrdSt := sparseGet (fun _ => brdInit) s.brd d.val
def setBrd (s : State) (d : Die) (v : BrdSt) : State := { s with brd := sparseSet (fun _ => brdInit) s.brd d.val v }
def getHbm (s : State) (d : Die) : HbmSt := sparseGet (fun _ => hbmInit) s.mem.stack d.val
def setHbm (s : State) (d : Die) (v : HbmSt) : State :=
  { s with mem.stack := sparseSet (fun _ => hbmInit) s.mem.stack d.val v }
def getMarch (s : State) (d : Die) : MarchSt := sparseGet (fun _ => marchInit) s.mem.march d.val
def setMarch (s : State) (d : Die) (v : MarchSt) : State :=
  { s with mem.march := sparseSet (fun _ => marchInit) s.mem.march d.val v }
def getPort (s : State) (p : Nat) : PortSt := sparseGet (fun _ => portInit) s.ports.ports p
def setPort (s : State) (p : Nat) (v : PortSt) : State :=
  { s with ports.ports := sparseSet (fun _ => portInit) s.ports.ports p v }
def getRing (s : State) (k : Nat) : RingSt := sparseGet (fun _ => ringInit) s.ports.rings k
def setRing (s : State) (k : Nat) (v : RingSt) : State :=
  { s with ports.rings := sparseSet (fun _ => ringInit) s.ports.rings k v }
def getQp (s : State) (q : Nat) : QpSt := sparseGet (fun _ => qpInit) s.host.qps q
def setQp (s : State) (q : Nat) (v : QpSt) : State :=
  { s with host.qps := sparseSet (fun _ => qpInit) s.host.qps q v }
def getRegion (s : State) (j : Nat) : HostReg := sparseGet (fun _ => regionInit) s.host.regions j
def setRegion (s : State) (j : Nat) (v : HostReg) : State :=
  { s with host.regions := sparseSet (fun _ => regionInit) s.host.regions j v }
def getRt (s : State) (d : Die) : RtSt := sparseGet (fun _ => rtInit) s.rt d.val
def setRt (s : State) (d : Die) (v : RtSt) : State := { s with rt := sparseSet (fun _ => rtInit) s.rt d.val v }
def getImg (s : State) (d : Die) : ImgSt := sparseGet (fun _ => imgInit) s.img d.val
def setImg (s : State) (d : Die) (v : ImgSt) : State := { s with img := sparseSet (fun _ => imgInit) s.img d.val v }
def modImg (s : State) (d : Die) (f : ImgSt → ImgSt) : State := setImg s d (f (getImg s d))
def getOpts (s : State) (d : Die) : Opts := sparseGet (fun _ => optsFactory) s.rst.opts d.val
def setOpts (s : State) (d : Die) (v : Opts) : State :=
  { s with rst.opts := sparseSet (fun _ => optsFactory) s.rst.opts d.val v }
def getSer (s : State) (d : Die) (c : Nat) : SerSt := sparseGet (fun _ => serInit) s.fringe.sers (d.val * 8 + c)
def setSer (s : State) (d : Die) (c : Nat) (v : SerSt) : State :=
  { s with fringe.sers := sparseSet (fun _ => serInit) s.fringe.sers (d.val * 8 + c) v }
def getFGate (s : State) (d : Die) (g : Nat) : FGate :=
  sparseGet (fun _ => fgateInit) s.fringe.gates (d.val * 64 + g)
def setFGate (s : State) (d : Die) (g : Nat) (v : FGate) : State :=
  { s with fringe.gates := sparseSet (fun _ => fgateInit) s.fringe.gates (d.val * 64 + g) v }
/-- The release stage a die has reached (R422); 8 is fully released. -/
def getStage (s : State) (d : Die) : Nat := sparseGet (fun _ => 8) s.rst.stage d.val
def setStage (s : State) (d : Die) (v : Nat) : State :=
  { s with rst.stage := sparseSet (fun _ => 8) s.rst.stage d.val v }

/-! ## The register bank -/

/-- The key of a register: its number, die and instance. Instances of a copy that one requester holds (R474)
stand at 8192 × (requester + 1) above. -/
def regKey (r : Reg) (d : Die) (i : Nat) : Nat := (regNo r * 2 + d.val) * 65536 + i

def requesterNo : Requester → Nat
  | .fwOwn => 0
  | .fwOther => 1
  | .selvedge => 2
  | .host => 3

/-- The instance that holds a requester's own copy of a select field (R474). -/
def selInst (rq : Requester) (i : Nat) : Nat := 8192 * (requesterNo rq + 1) + i

/-- A register's reset value: its fields at their reset values (R9), reserved bits 0 (R10). -/
def regResetNat (r : Reg) : Nat := (regSpec r).fields.foldl (fun v f => v + f.reset * 2 ^ f.lo) 0

/-- What the bank reads as at a key that nothing has written. -/
def regDefault (k : Nat) : Word := BitVec.ofNat 32 (regResetNat (allRegs.getD (k / 131072) .RST_CAUSE))

/-- The stored value of a register. -/
def regRaw (s : State) (r : Reg) (d : Die) (i : Nat) : Word := sparseGet regDefault s.regs (regKey r d i)

/-- Store the value of a register. -/
def setReg (s : State) (r : Reg) (d : Die) (i : Nat) (v : Word) : State :=
  { s with regs := sparseSet regDefault s.regs (regKey r d i) v }

/-- The stored value of a field. -/
def getF (s : State) (f : Fld) (d : Die) (i : Nat) : Nat := bitsOf (regRaw s f.reg d i).toNat f.hi f.lo

/-- Store the value of a field; the register's other bits are unchanged. -/
def setF (s : State) (f : Fld) (d : Die) (i : Nat) (v : Nat) : State :=
  setReg s f.reg d i (BitVec.ofNat 32 (putBits (regRaw s f.reg d i).toNat f.hi f.lo v))

/-- A field's bit as a condition. -/
def flagF (s : State) (f : Fld) (d : Die) (i : Nat) : Bool := getF s f d i = 1

/-- Add to a field that stops at its largest value. -/
def addF (s : State) (f : Fld) (d : Die) (i n : Nat) : State :=
  setF s f d i (min (2 ^ (f.hi + 1 - f.lo) - 1) (getF s f d i + n))

/-- Count up in a field that stops at its largest value. -/
def countF (s : State) (f : Fld) (d : Die) (i : Nat) : State :=
  setF s f d i (stopAt (2 ^ (f.hi + 1 - f.lo) - 1) (getF s f d i))

/-- Count up in a field that wraps. -/
def wrapF (s : State) (f : Fld) (d : Die) (i : Nat) : State := setF s f d i (getF s f d i + 1)

/-! ## Outputs and free values -/

/-- What an access finds that meets no error and no other access. -/
def cleanFinds : Finds := { ecc := .clean, pos := 0, clash := [] }

/-- Emit an output. -/
def emit (s : State) (o : Output) : State := { s with outbox := s.outbox ++ [o] }

/-- Send a response frame on the Selvedge wire: STATUS, LEN and the data, with their CRC (R451, R452). -/
def svSend (s : State) (status : Byte) (data : List Byte) : State :=
  emit s (.selvedge status data (BitVec.ofNat 8 (crc8 (status :: BitVec.ofNat 8 data.length :: data))))

/-- The next free value, and the state after it is read (log entry 4). -/
def freeValue (s : State) : BitVec 64 × State := (Config.freeWord s.free, { s with free := s.free + 1 })

/-- The current beat number of a die (R156). -/
def beatNum (s : State) (d : Die) : BitVec 48 :=
  match (getBeat s d).nums with
  | [] => 0
  | (_, n) :: _ => n

/-- The number of the beat of an ordinal, if the engine still keeps it (R179). -/
def numOfOrd (s : State) (d : Die) (o : Nat) : BitVec 48 :=
  match (getBeat s d).nums.find? (fun e => e.1 = o) with
  | some e => e.2
  | none => 0

/-- The number of the last committed beat; all ones before the first commit (R196). -/
def cmtNum (s : State) (d : Die) : BitVec 48 :=
  if (getBeat s d).cmt = 0 then 0xFFFFFFFFFFFF else numOfOrd s d (getBeat s d).cmt

/-! ## MSI-X messages and events -/

/-- Send the message of a vector, or set its pending bit while it is masked (R342). -/
def sendMsi (s : State) (v : Nat) : State :=
  if flagF s fMSIX_CTL_mask 0 v then
    setReg s .MSIX_PBA 0 (v / 32) (BitVec.ofNat 32 (Nat.lor (regRaw s .MSIX_PBA 0 (v / 32)).toNat (2 ^ (v % 32))))
  else
    emit s (.msi v (BitVec.ofNat 64 ((regRaw s .MSIX_ADDR_LO 0 v).toNat +
      (regRaw s .MSIX_ADDR_HI 0 v).toNat * 2 ^ 32)) (regRaw s .MSIX_DATA 0 v))

/-- The entries of a completion queue (R326). -/
def cqDepth (s : State) (q : Nat) : Nat := getF s fQP_SIZE_cq_size 0 q + 1

/-- The entries of a submission queue (R326). -/
def sqDepth (s : State) (q : Nat) : Nat := getF s fQP_SIZE_sq_size 0 q + 1

/-- The free entries of a completion queue: one entry always stays empty (R327, R328). -/
def cqFree (s : State) (q : Nat) : Nat :=
  let p := getQp s q
  (p.cqHead + cqDepth s q - p.cqTail - 1) % cqDepth s q

/-- Does an event completion that waits belong to this code, die, source and beat (R340)? -/
def sameEvent (code : Nat) (d : Die) (src : Word) (ord : Nat) (c : Completion) : Bool :=
  c.event = some (code, d, src, ord)

/-- The first result word of an event completion: code, die and count (R340). -/
def eventResult0 (code : Nat) (d : Die) (count : Nat) : Word :=
  BitVec.ofNat 32 (code + d.val * 256 + (count % 65536) * 65536)

/-- Merge a further event into the waiting completion of its code, source and beat (R340). -/
def mergeEvent (code : Nat) (d : Die) (src : Word) (ord : Nat) (data : Word) :
    List Completion → List Completion
  | [] => []
  | c :: cs =>
    if sameEvent code d src ord c then
      { c with result0 := eventResult0 code d (c.result0.toNat / 65536 + 1), result2 := data } :: cs
    else c :: mergeEvent code d src ord data cs

/-- The completion of one event (R340). -/
def eventCompletion (s : State) (code : Nat) (d : Die) (src data : Word) : Completion where
  result0 := eventResult0 code d 1
  result1 := src
  result2 := data
  beat := beatNum s d
  status := 0x80
  cid := 0xFFFF
  event := some (code, d, src, (getBeat s d).ord)
  buf := []

/-- Deliver an event to one queue pair; `true` when it was merged or had space (R328, R340). -/
def eventToQp (s : State) (code : Nat) (d : Die) (src data : Word) (q : Nat) : State × Bool :=
  let p := getQp s q
  let ord := (getBeat s d).ord
  if p.waiting.any (sameEvent code d src ord) then
    (setQp s q { p with waiting := mergeEvent code d src ord data p.waiting }, true)
  else if flagF s fQP_CTL_en 0 q && flagF s fQP_STAT_ready 0 q &&
      decide (p.waiting.length + p.inFlight < cqFree s q) then
    (setQp s q { p with waiting := p.waiting ++ [eventCompletion s code d src data] }, true)
  else (s, false)

/-- Deliver an event to the queue pairs that subscribe to it: whether any subscribed and whether any took it. -/
def eventToQps (code : Nat) (d : Die) (src data : Word) : List Nat → State × Bool × Bool → State × Bool × Bool
  | [], r => r
  | q :: qs, (s, sub, got) =>
    if bitOf (regRaw s .QP_EVT 0 q).toNat code then
      let r := eventToQp s code d src data q
      eventToQps code d src data qs (r.1, true, got || r.2)
    else eventToQps code d src data qs (s, sub, got)

/-- Raise an event of R341: its bit in EVT_PEND, the message of EVT_VEC when it is enabled, and a completion on
every queue pair that subscribes to it; EVT_LOST counts an event that none of them took. -/
def raiseEvent (s : State) (code : Nat) (d : Die) (src data : Word) : State :=
  let s := setReg s .EVT_PEND 0 0 (BitVec.ofNat 32 (Nat.lor (regRaw s .EVT_PEND 0 0).toNat (2 ^ code)))
  let s := if bitOf (regRaw s .EVT_EN 0 0).toNat code then sendMsi s (getF s fEVT_VEC_vec 0 0) else s
  let r := eventToQps code d src data (List.range 16) (s, false, false)
  let s := emit r.1 (.event d code src)
  if r.2.1 && !r.2.2 then countF s fEVT_LOST_lost 0 0 else s

/-! ## Completions -/

/-- Is a command of a queue pair in progress: one that waits for its operation, or one handed to a complex? -/
def qpBusy (s : State) (q : Nat) : Bool :=
  s.host.waits.any (fun w => decide (w.qp.val = q)) ||
    ((getRt s 0).mailbox ++ (getRt s 1).mailbox).any (fun m => decide (m.cmd.qp.val = q))

/-- A queue pair that is no longer served writes nothing more (R329). -/
def endQp (s : State) (q : Nat) : State :=
  setF (setQp s q { getQp s q with draining := false, waiting := [], inFlight := 0 }) fQP_STAT_ready 0 q 0

/-- After a disable, ready clears once no command is in progress (R329). -/
def drainQp (s : State) (q : Nat) : State := if (getQp s q).draining && !qpBusy s q then endQp s q else s

/-- Give a command its completion: it waits in its queue pair's completion list, unless the queue pair no longer
takes completions (R329, R343). -/
def postCompletion (s : State) (q : Qp) (c : Completion) (mute : Bool) : State :=
  let p := getQp s q.val
  if mute then drainQp s q.val
  else setQp s q.val { p with waiting := p.waiting ++ [c], inFlight := p.inFlight - 1 }

/-- The completion of a command now, with the current beat (R331). -/
def completionOf (s : State) (c : HostCmd) (status : Nat) (r0 r1 r2 : Nat) (buf : List Byte) : Completion where
  result0 := BitVec.ofNat 32 r0
  result1 := BitVec.ofNat 32 r1
  result2 := BitVec.ofNat 32 r2
  beat := beatNum s 0
  status := BitVec.ofNat 8 status
  cid := c.cid
  event := none
  buf := buf

/-- Complete a command at once. -/
def finish (s : State) (c : HostCmd) (status r0 : Nat) : State :=
  postCompletion s c.qp (completionOf s c status r0 0 0 []) false

/-- Is the opcode staged (R335)? -/
def isStaged (op : Nat) : Bool :=
  [0x10, 0x11, 0x12, 0x13, 0x14, 0x15, 0x16, 0x20, 0x21, 0x32, 0x33, 0x40, 0x41, 0x44, 0x45, 0x50, 0x51, 0x52,
    0x53, 0x61].contains op

/-- Record a staged command in QP_LAST at application (R332). -/
def recordLast (s : State) (c : HostCmd) : State :=
  setF (setF s fQP_LAST_cid 0 c.qp.val c.cid.toNat) fQP_LAST_beat 0 c.qp.val ((beatNum s 0).toNat % 65536)

/-- A staged command that failed at application: recorded and completed at once (R332). -/
def failStaged (s : State) (c : HostCmd) (status r0 : Nat) : State := finish (recordLast s c) c status r0

/-- A staged command that succeeded: recorded; it completes once the beat that began at its boundary has committed
and its operation has finished (R332). -/
def stagedOk (s : State) (c : HostCmd) (r0 : Nat) (op : WaitOp) : State :=
  let s := recordLast s c
  let w : Waiting := { qp := c.qp, cpl := completionOf s c 0 r0 0 0 [], ord := some (0, (getBeat s 0).ord),
                       op := op, mute := false }
  { s with host.waits := s.host.waits ++ [w] }

/-- An immediate command whose completion waits for its operation (R335). -/
def waitFor (s : State) (c : HostCmd) (op : WaitOp) : State :=
  let w : Waiting := { qp := c.qp, cpl := completionOf s c 0 0 0 0 [], ord := none, op := op, mute := false }
  { s with host.waits := s.host.waits ++ [w] }

/-- May a wait be completed: its operation has finished and its beat has committed (R332)? -/
def waitReady (s : State) (w : Waiting) : Bool :=
  w.op = .none && (match w.ord with
    | none => true
    | some (d, o) => decide (o ≤ (getBeat s d).cmt))

/-- Complete every command in progress that may be completed, in their order. -/
def settleWaits (s : State) : State :=
  let ready := s.host.waits.filter (waitReady s)
  let s := { s with host.waits := s.host.waits.filter (fun w => !waitReady s w) }
  ready.foldl (fun s w => postCompletion s w.qp w.cpl w.mute) s

/-- A command in progress after the operation it may wait for has ended; the completion of an immediate one shows the current
beat `now` (R331). -/
def endOf (now : BitVec 48) (op : WaitOp) (status r0 r1 : Nat) (w : Waiting) : Waiting :=
  if w.op = op then
    { w with op := .none
             ord := if status = 0 then w.ord else none
             cpl.beat := if w.ord.isNone then now else w.cpl.beat
             cpl.status := BitVec.ofNat 8 status
             cpl.result0 := BitVec.ofNat 32 r0
             cpl.result1 := BitVec.ofNat 32 r1 }
  else w

/-- End the operation that a command in progress waits for, with a change of its completion; the command then
completes as soon as its beat allows. A failure completes at once. -/
def endWait (s : State) (op : WaitOp) (status : Nat) (r0 r1 : Nat) : State :=
  settleWaits { s with host.waits := s.host.waits.map (endOf (beatNum s 0) op status r0 r1) }

end Sys2Proof.Machine
end

