-- ==== Sys2Proof/Machine/Operands.lean ====
section
/-! DEFINITION. The operand forms of the device: the fields of a cell draft (R40) and of a reed draft (R91), which of
them a draft uses (R505), the words of a wire and of an idle word (R60, R121), and the operand fields of a host
command (R335). -/

namespace Sys2Proof.Machine

/-! ## Tags and wire words (R29, R60, R121) -/

/-- Tag bits of a word: first, last, idle, guard overflow seen, poison, kind, exponent (R121). -/
def tagFirst (t : Tag) : Bool := bitOf t.toNat 11
def tagLast (t : Tag) : Bool := bitOf t.toNat 10
def tagIdle (t : Tag) : Bool := bitOf t.toNat 9
def tagOvf (t : Tag) : Bool := bitOf t.toNat 8
def tagPoison (t : Tag) : Bool := bitOf t.toNat 7
def tagKind (t : Tag) : Nat := bitsOf t.toNat 6 5
def tagExp (t : Tag) : Int := signed 5 (bitsOf t.toNat 4 0)

/-- A bit as a number. -/
def bitN (b : Bool) : Nat := if b then 1 else 0

/-- A tag from its fields (R121); the exponent in its five bits. -/
def mkTag (first last idle ovf poison : Bool) (kind exp : Nat) : Tag :=
  BitVec.ofNat 12 (bitN first * 2048 + bitN last * 1024 + bitN idle * 512 + bitN ovf * 256 + bitN poison * 128 +
    kind % 4 * 32 + exp % 32)

/-- The tag of an idle word (R60). -/
def idleTag : Tag := mkTag false false true false false 0 0

/-- An idle word with a reason code (R60). -/
def idleWire (reason : Nat) (idx : BitVec 4) : Wire := { data := BitVec.ofNat 32 (reason % 4), tag := idleTag, idx := idx }

/-- The idle word a consumer receives from a bobbin that has none for it: reason empty (R143). -/
def idleWord : TWord := { data := 0, tag := idleTag }

/-- Is there a word and is it not idle? -/
def liveWire : Option Wire → Bool
  | none => false
  | some w => !tagIdle w.tag

/-- The one-word item of a beat mark (R159): kind beat mark, exponent 0, the beat number's low 32 bits. -/
def markWord (n : BitVec 48) : TWord :=
  { data := BitVec.ofNat 32 n.toNat, tag := mkTag true true false false false 3 0 }

/-! ## The cell draft word (R40) -/

/-- A scratch port of a draft: mode, base, signed step (its four bits) and log2 of the range (R40, R50). -/
structure ScrPort where
  mode : Nat
  base : Nat
  step : Nat
  len  : Nat
  deriving DecidableEq, Repr

/-- The fields of a cell draft (R40). -/
structure CellDraft where
  imm      : Nat
  outIdx   : BitVec 4
  outMode  : Bool
  emit     : Nat
  outSel   : Nat
  expSrc   : Nat
  sInit    : Nat
  grow     : Nat
  bshift   : Nat
  wrWhen   : Nat
  wrSrc    : Nat
  wr       : ScrPort
  rd1      : ScrPort
  rd0      : ScrPort
  mmReset  : Nat
  mmWidth  : Bool
  mmSrc    : Nat
  mmOp     : Nat
  aluWhen  : Nat
  aluDst   : Nat
  aluB     : Nat
  aluA     : Nat
  aluOp    : Nat
  accClr   : Nat
  macWhen  : Nat
  macAcc   : Bool
  macOp    : Nat
  srcZ     : Nat
  srcY     : Nat
  srcX     : Nat
  gOwn     : Nat
  gainEn   : Bool
  rnd      : Bool
  accWrap  : Bool
  en       : Bool
  mode     : Nat
  deriving DecidableEq, Repr

/-- The fields of a draft word (R40). -/
def cellDraftOf (w : BitVec 192) : CellDraft :=
  let n := w.toNat
  { imm := bitsOf n 178 163
    outIdx := BitVec.ofNat 4 (bitsOf n 162 159)
    outMode := bitOf n 158
    emit := bitsOf n 157 156
    outSel := bitsOf n 155 151
    expSrc := bitsOf n 150 149
    sInit := bitsOf n 148 144
    grow := bitsOf n 143 142
    bshift := bitsOf n 141 135
    wrWhen := bitsOf n 134 133
    wrSrc := bitsOf n 132 128
    wr := { mode := bitsOf n 110 109, base := bitsOf n 119 111, step := bitsOf n 123 120, len := bitsOf n 127 124 }
    rd1 := { mode := bitsOf n 91 90, base := bitsOf n 100 92, step := bitsOf n 104 101, len := bitsOf n 108 105 }
    rd0 := { mode := bitsOf n 72 71, base := bitsOf n 81 73, step := bitsOf n 85 82, len := bitsOf n 89 86 }
    mmReset := bitsOf n 70 69
    mmWidth := bitOf n 68
    mmSrc := bitsOf n 67 63
    mmOp := bitsOf n 62 60
    aluWhen := bitsOf n 59 58
    aluDst := bitsOf n 57 53
    aluB := bitsOf n 52 48
    aluA := bitsOf n 47 43
    aluOp := bitsOf n 42 38
    accClr := bitsOf n 37 36
    macWhen := bitsOf n 35 34
    macAcc := bitOf n 33
    macOp := bitsOf n 32 29
    srcZ := bitsOf n 28 24
    srcY := bitsOf n 23 19
    srcX := bitsOf n 18 14
    gOwn := bitsOf n 13 6
    gainEn := bitOf n 5
    rnd := bitOf n 4
    accWrap := bitOf n 3
    en := bitOf n 2
    mode := bitsOf n 1 0 }

/-- Does the draft's parity hold: bit 184 + i makes the parity of bits 23i + 22 to 23i even (R40)? -/
def cellParityOk (w : BitVec 192) : Bool :=
  (List.range 8).all (fun i => parity 23 (bitsOf w.toNat (23 * i + 22) (23 * i)) == bitOf w.toNat (184 + i))

/-- The operations that read operand B (R505). -/
def aluUsesB (op : Nat) : Bool := decide (2 ≤ op ∧ op ≤ 11) || decide (op = 14) || decide (op = 15)

/-- The multiplier operations that use operand Y (R505). -/
def macUsesY (op : Nat) : Bool := decide (1 ≤ op ∧ op ≤ 5)

/-- Does the draft use operand Z (R505)? -/
def macUsesZ (c : CellDraft) : Bool := decide (c.mode = 1) && decide (1 ≤ c.macOp ∧ c.macOp ≤ 3)

/-- The sources of the multiplier that the draft names (R505). -/
def macSources (c : CellDraft) : List Nat :=
  if c.macOp = 0 then []
  else [c.srcX] ++ (if macUsesY c.macOp then [c.srcY] else []) ++ (if macUsesZ c then [c.srcZ] else [])

/-- The sources of the ALU that the draft names (R505). -/
def aluSources (c : CellDraft) : List Nat :=
  if c.aluOp = 0 then [] else [c.aluA] ++ (if aluUsesB c.aluOp then [c.aluB] else [])

/-- The slot register that an indirect scratch port names (R505, R50). -/
def portReg (p : ScrPort) : List Nat := if p.mode = 3 then [4 + p.step % 4] else []

/-- Every source code that the draft names (R505). -/
def draftSources (c : CellDraft) : List Nat :=
  macSources c ++ aluSources c ++ (if c.mmOp = 0 then [] else [c.mmSrc]) ++
    (if c.wr.mode = 0 then [] else [c.wrSrc]) ++ (if c.emit < 2 then [c.outSel] else []) ++
    portReg c.rd0 ++ portReg c.rd1 ++ portReg c.wr

/-- Every code that the draft names, its destination among them (R505). -/
def draftNames (c : CellDraft) : List Nat := draftSources c ++ (if c.aluOp = 0 then [] else [c.aluDst])

/-- Does the draft use IB (R63)? The manual does not say what using IB is: the model takes it that a used source field names
IB, and that exp_src = 0b01 alone does not use it (DESIGN CHOICE, log entry 193). -/
def draftUsesIb (c : CellDraft) : Bool := c.en && (draftSources c).contains 1

/-- Does the draft perform a scaled move (R73)? -/
def draftMoves (c : CellDraft) : Bool :=
  decide (c.aluOp = 16) || decide (c.aluOp = 17) || (decide (c.emit < 2) && decide (c.outSel = 16 ∨ c.outSel = 17))

/-- Is the cell stateful for the draft (R133)? -/
def draftStateful (c : CellDraft) : Bool :=
  c.en && ((draftNames c).any (fun k => decide (4 ≤ k ∧ k ≤ 7)) || decide (c.macOp ≠ 0) || decide (c.mmOp ≠ 0) ||
    draftMoves c)

/-- Is an operation with this condition performed for a word (R42)? -/
def whenHolds (code : Nat) (first last : Bool) : Bool :=
  match code with
  | 0 => true
  | 1 => first
  | 2 => last
  | _ => !first

/-- The address of a scratch port for a word at a position, if the port is used (R50). -/
def scrAddr (p : ScrPort) (pos : Nat) (sr : Nat → Word) : Option Nat :=
  match p.mode with
  | 0 => none
  | 1 => some p.base
  | 2 => some ((p.base + ((pos * signed 4 p.step) % (2 ^ p.len : Nat)).toNat) % 512)
  | _ => some ((p.base + (bitsOf (sr (p.step % 4)).toNat 8 0) % 2 ^ p.len) % 512)

/-- The range of a scratch port: its words modulo 512 (R50). -/
def scrRange (p : ScrPort) : List Nat :=
  match p.mode with
  | 0 => []
  | 1 => [p.base % 512]
  | _ => (List.range (min 512 (2 ^ p.len))).map (fun i => (p.base + i) % 512)

/-! ## The reed draft (R91) -/

/-- Is the reed draft in use? -/
def reedEn (w : BitVec 96) : Bool := bitOf w.toNat 0

/-- The outputs of a reed in the order of their fields in a reed draft (R91). -/
inductive ReedOut where
  | ia | ib | e1 | e2 | e4 | w1 | w2 | w4 | n1 | n2 | n4 | s1 | s2 | s4 | llh | llv | gw
  deriving DecidableEq, Repr

/-- The place of an output's field. -/
def reedOutNo : ReedOut → Nat
  | .ia => 0
  | .ib => 1
  | .e1 => 2
  | .e2 => 3
  | .e4 => 4
  | .w1 => 5
  | .w2 => 6
  | .w4 => 7
  | .n1 => 8
  | .n2 => 9
  | .n4 => 10
  | .s1 => 11
  | .s2 => 12
  | .s4 => 13
  | .llh => 14
  | .llv => 15
  | .gw => 16

/-- Every output of a reed. -/
def reedOuts : List ReedOut :=
  [.ia, .ib, .e1, .e2, .e4, .w1, .w2, .w4, .n1, .n2, .n4, .s1, .s2, .s4, .llh, .llv, .gw]

/-- The source of an output in a reed draft; a null draft reads as none (R91). -/
def reedSel (w : BitVec 96) (o : ReedOut) : Nat :=
  if reedEn w then bitsOf w.toNat (5 * reedOutNo o + 5) (5 * reedOutNo o + 1) else 0

/-- Does this end drive the weft long line, or the warp one, for the index of the draft (R91)? -/
def reedDrvH (w : BitVec 96) : Bool := reedEn w && bitOf w.toNat 86
def reedDrvV (w : BitVec 96) : Bool := reedEn w && bitOf w.toNat 87

/-- Does the reed draft's parity hold (R91)? -/
def reedParityOk (w : BitVec 96) : Bool :=
  (List.range 4).all (fun i => parity 23 (bitsOf w.toNat (23 * i + 22) (23 * i)) == bitOf w.toNat (92 + i))

/-- Where a segment that starts at reed (r, c) ends, if inside the harness: the reed and the input code there
(R85, R92). -/
def segEnd (r c : Nat) : ReedOut → Option (Nat × Nat × Nat)
  | .e1 => if c + 1 < 8 then some (r, c + 1, 5) else none
  | .e2 => if c + 2 < 8 then some (r, c + 2, 6) else none
  | .e4 => if c + 4 < 8 then some (r, c + 4, 7) else none
  | .w1 => if 1 ≤ c then some (r, c - 1, 2) else none
  | .w2 => if 2 ≤ c then some (r, c - 2, 3) else none
  | .w4 => if 4 ≤ c then some (r, c - 4, 4) else none
  | .n1 => if 1 ≤ r then some (r - 1, c, 11) else none
  | .n2 => if 2 ≤ r then some (r - 2, c, 12) else none
  | .n4 => if 4 ≤ r then some (r - 4, c, 13) else none
  | .s1 => if r + 1 < 8 then some (r + 1, c, 8) else none
  | .s2 => if r + 2 < 8 then some (r + 2, c, 9) else none
  | .s4 => if r + 4 < 8 then some (r + 4, c, 10) else none
  | _ => none

/-- The column of the weft long lines between harness h and h + 1 (R89). -/
def weftCol (h : Nat) : Nat := if h % 6 % 2 = 0 then 0 else 4

/-- The row of the warp long lines between harness h and h + 6 (R89). -/
def warpRow (h : Nat) : Nat := if h / 6 % 2 = 0 then 0 else 4

/-- The weft long line at reed (r, c) of harness h: its west harness, and whether this end is the west one (R89). -/
def weftAt (h c : Nat) : Option (Nat × Bool) :=
  if h % 6 ≤ 4 ∧ c = weftCol h then some (h, true)
  else if 1 ≤ h % 6 ∧ c = weftCol (h - 1) then some (h - 1, false)
  else none

/-- The warp long line at reed (r, c) of harness h: its north harness, and whether this end is the north one (R89). -/
def warpAt (h r : Nat) : Option (Nat × Bool) :=
  if h ≤ 29 ∧ r = warpRow h then some (h, true)
  else if 6 ≤ h ∧ r = warpRow (h - 6) then some (h - 6, false)
  else none

/-- The segment address of a long line (R88). -/
def segAddr (d : Die) (vertical : Bool) (h k : Nat) : Nat :=
  d.val * 65536 + h * 1024 + (if vertical then warpRow h * 128 + k * 16 + 3 * 4 else k * 128 + weftCol h * 16) + 3

/-! ## Host command operands (R335) -/

/-- Operand dword i of a command. -/
def opOf (c : HostCmd) (i : Nat) : Nat := (c.ops.getD i 0).toNat

/-- The die and harness operand (R335). -/
def opDie (c : HostCmd) (i : Nat) : Die := if bitOf (opOf c i) 16 then 1 else 0
def opHar (c : HostCmd) (i : Nat) : Nat := bitsOf (opOf c i) 5 0

end Sys2Proof.Machine
end

