-- ==== Sys2Proof/Machine/RingFrames.lean ====
section
/-! DEFINITION. Ports and rings as the die names them (R7, R289), the Pickline frames as blocks (R290 to R296), and the end of a
frame that is cut short (R310). -/

namespace Sys2Proof.Machine

/-! ## Ports and rings -/

/-- The die and local number of a port (R7). -/
def portDie (p : Nat) : Die := if p < 48 then 0 else 1
def portIx (p : Nat) : Nat := p % 48

/-- The mode of a port. -/
def portMode (s : State) (p : Nat) : Nat := getF s fPCFG_mode (portDie p) (portIx p)

/-- Is a mode a Pickline mode (R275)? -/
def isPickline (m : Nat) : Bool := decide (m = 4 ∨ m = 5)

/-- The Vigil time in nanoseconds. -/
def vigilNow (s : State) : Nat := s.vigil.seconds.toNat * 1000000000 + s.vigil.ns

/-- The die of a ring, and the instance of its registers: those of its even port (R289, R315). -/
def ringDie (k : Nat) : Die := if k < 24 then 0 else 1
def ringIx (k : Nat) : Nat := 2 * (k % 24)

/-- The port of a ring: the even or the odd one (R289). -/
def ringPort (k : Nat) (odd : Bool) : Nat := 2 * k + bitN odd

/-- Do the two ports of a ring run as a pair: both enabled, in the same Pickline mode (R276)? -/
def ringPaired (s : State) (k : Nat) : Bool :=
  flagF s fPCFG_en (ringDie k) (ringIx k) && flagF s fPCFG_en (ringDie k) (ringIx k + 1) &&
    isPickline (portMode s (2 * k)) && decide (portMode s (2 * k) = portMode s (2 * k + 1))

/-- The block time in tenths of a nanosecond (R290). -/
def blockTime (s : State) (k : Nat) : Nat := if portMode s (2 * k) = 4 then 256 else 64

/-! ## Blocks (R290, R291) -/

/-- A control block and a data block with their sync headers (R290). -/
def ctrlBlock (x : Nat) : PlBlock := { sync := 0b10, data := BitVec.ofNat 64 x }
def dataBlock (x : Nat) : PlBlock := { sync := 0b01, data := BitVec.ofNat 64 x }

/-- Is a block a control block, or a data block? A block whose sync header is neither is invalid. -/
def isCtrl (b : PlBlock) : Bool := decide (b.sync = 0b10)
def isData (b : PlBlock) : Bool := decide (b.sync = 0b01)

/-- An IDLE block: rx_ok says that the sender's receiver is in block lock (R291). -/
def idleBlock (rxOk : Bool) : PlBlock := ctrlBlock (bitN rxOk * 256 + 0x4B)

/-- The IDLE block that a port sends now. -/
def portIdle (s : State) (p : Nat) : PlBlock := idleBlock (flagF s fPCS_STAT_blk_lock (portDie p) (portIx p))

/-- A DLY block (R297). -/
def dlyBlock (resp : Bool) (seq : BitVec 16) (turn : BitVec 32) : PlBlock :=
  ctrlBlock (turn.toNat * 2 ^ 32 + seq.toNat * 65536 + bitN resp * 256 + 0xB4)

/-- Is a block a DLY block, with its reserved bits 0 (R291, R297)? -/
def isDly (b : PlBlock) : Bool :=
  isCtrl b && decide (bitsOf b.data.toNat 7 0 = 0xB4) && decide (bitsOf b.data.toNat 15 9 = 0)

/-- One step of the Clause 49 block lock process (R290) over a sync header: 64 valid headers in a row give lock, and 16 invalid
ones among 64 take it away. The state is the lock, the headers of this window and the invalid ones among them. -/
def lockStep (x : Bool × Nat × Nat) (h : BitVec 2) : Bool × Nat × Nat :=
  let bad := x.2.2 + bitN (!(decide (h = 0b01) || decide (h = 0b10)))
  let n := x.2.1 + 1
  if bad ≠ 0 ∧ (!x.1 ∨ 16 ≤ bad) then (false, 0, 0)
  else if n = 64 then (x.1 || decide (bad = 0), 0, 0)
  else (x.1, n, bad)

/-! ## Frames (R293 to R296) -/

/-- The frame types of R293. -/
def ftCommand : Nat := 1
def ftCollect : Nat := 2
def ftHold : Nat := 3
def ftDiscover : Nat := 4

/-- A slot as blocks carry it (R295). -/
structure PlSlot where
  head : Nat
  data : List Nat
  deriving DecidableEq, Repr

/-- The fields of a frame (R293 to R296). -/
structure PlFrame where
  ring     : Nat
  cycle    : Nat
  turnAddr : Nat
  origin   : Bool
  turned   : Bool
  ver      : Nat
  ftype    : Nat
  slots    : List PlSlot
  good     : Bool
  deriving DecidableEq, Repr

/-- Words in data blocks: word 2i low, word 2i + 1 high (R295). -/
def blocksOf : List Word → List Nat
  | [] => []
  | [a] => [a.toNat]
  | a :: b :: ws => (a.toNat + b.toNat * 2 ^ 32) :: blocksOf ws

/-- The words of data blocks. -/
def wordsOfBlocks (bs : List Nat) : List Word :=
  bs.flatMap (fun b => [BitVec.ofNat 32 (b % 2 ^ 32), BitVec.ofNat 32 (b / 2 ^ 32)])

/-- The bytes over which a frame's crc runs: each payload as 8 bytes, little-endian (R296). -/
def plCrc (ps : List Nat) : Nat := crc32c (ps.flatMap (fun p => leBytes 8 p))

/-- A time as header blocks give it (R294). -/
def plTime (t : Nat) : Nat := t / 1000000000 % 2 ^ 32 * 2 ^ 32 + t % 1000000000

/-- The EOF block of a frame, from the payloads of its SOF and its data blocks (R296). -/
def eofBlock (sof : Nat) (data : List Nat) (stomp : Bool) : PlBlock :=
  ctrlBlock (plCrc (sof :: data) * 2 ^ 32 + data.length * 65536 + bitN stomp * 256 + 0x99)

/-- A frame as the device sends it: type, origin, time of departure, H2 and slots (R293 to R296). -/
def plFrame (s : State) (k ftype : Nat) (odd : Bool) (tTx h2 : Nat) (slots : List PlSlot) : List PlBlock :=
  let sof := slots.length % 256 * 2 ^ 56 + k * 2 ^ 48 + (getRing s k).cycle.toNat * 2 ^ 32 + bitN odd * 2 ^ 15 +
    2 ^ 12 + ftype * 256 + 0x66
  let data := [tTx, 0, h2] ++ slots.flatMap (fun t => t.head :: t.data)
  [ctrlBlock sof] ++ data.map dataBlock ++ [eofBlock sof data false]

/-- The slots that data blocks hold. -/
def plSlots : Nat → List Nat → List PlSlot
  | 0, _ => []
  | _ + 1, [] => []
  | n + 1, h :: bs => { head := h, data := bs.take (bitsOf h 15 8) } :: plSlots n (bs.drop (bitsOf h 15 8))

/-- The frame that blocks spell, if they begin with SOF and end with EOF; `good` says that it is acceptable (R296). -/
def plParse (blocks : List PlBlock) : Option PlFrame :=
  match blocks with
  | [] => none
  | f :: rest =>
    match rest.getLast? with
    | none => none
    | some l =>
      let body := rest.dropLast
      let sof := f.data.toNat
      let eof := l.data.toNat
      let data := body.map (fun b => b.data.toNat)
      if isCtrl f && isCtrl l && decide (bitsOf sof 7 0 = 0x66) && decide (bitsOf eof 7 0 = 0x99) then
        some { ring := bitsOf sof 53 48, cycle := bitsOf sof 47 32, turnAddr := bitsOf sof 31 24,
               origin := bitOf sof 15, turned := bitOf sof 14, ver := bitsOf sof 13 12, ftype := bitsOf sof 11 8,
               slots := plSlots data.length (data.drop 3),
               good := body.all isData && decide (bitsOf eof 63 32 = plCrc (sof :: data)) &&
                 !bitOf eof 8 && decide (bitsOf sof 13 12 = 1) }
      else none

/-! ## The line code (R290) -/

/-- One bit through the self-synchronising scrambler of Clause 49, 1 + x³⁹ + x⁵⁸: the bit on the line is the payload's bit with
those sent 39 and 58 bits before. The state holds the last 58 bits of the line, the newest in bit 0. -/
def plScrambleBit (st : BitVec 58) (b : Bool) : BitVec 58 × Bool :=
  let y := b ^^ st.getLsbD 38 ^^ st.getLsbD 57
  ((st <<< 1) ||| BitVec.ofNat 58 (bitN y), y)

/-- One bit of the line through the descrambler. -/
def plDescrambleBit (st : BitVec 58) (y : Bool) : BitVec 58 × Bool :=
  ((st <<< 1) ||| BitVec.ofNat 58 (bitN y), y ^^ st.getLsbD 38 ^^ st.getLsbD 57)

/-- A stream of payload bits as the line carries it, and back (R290). The blocks of the model's frames hold the payloads before the
scrambler and after the descrambler: what both start from is of the line and given nowhere (DESIGN CHOICE, log entry 264). -/
def plScramble : BitVec 58 → List Bool → List Bool
  | _, [] => []
  | st, b :: bs => (plScrambleBit st b).2 :: plScramble (plScrambleBit st b).1 bs
def plDescramble : BitVec 58 → List Bool → List Bool
  | _, [] => []
  | st, y :: ys => (plDescrambleBit st y).2 :: plDescramble (plDescrambleBit st y).1 ys

/-- The payload bits of blocks in the order in which they are sent: bit 0 of each first (R290). -/
def payloadBits (bs : List PlBlock) : List Bool := bs.flatMap (fun b => (List.range 64).map (fun i => b.data.getLsbD i))

/-! ## A frame cut short (R310, R313) -/

/-- The time that a frame of some bytes takes at line rate with its preamble, in ns (R275). -/
def lineTime (mode n : Nat) : Nat :=
  let bits := (n + 8) * 8
  match mode with
  | 1 => bits
  | 2 => (bits + 9) / 10
  | _ => (bits + 24) / 25

/-- The bytes of a frame that leave in a time at line rate, after its preamble. -/
def bytesIn (mode t : Nat) : Nat :=
  (match mode with
   | 1 => t / 8
   | 2 => t * 10 / 8
   | _ => t * 25 / 8) - 8

/-- An Ethernet frame that is being sent when its port falls silent is cut short: what has left of it ends with no right FCS
(R313). -/
def cutFrame (s : State) (p : Nat) : State :=
  match (getPort s p).sending with
  | none => s
  | some (t, n) =>
    let mode := portMode s p
    let s' := setPort s p { getPort s p with sending := none }
    if t ≤ vigilNow s ∧ vigilNow s < t + lineTime mode n then emit s' (.frameCut p (min n (bytesIn mode (vigilNow s - t))))
    else s'

/-- A link is gone: PCS_STAT shows no line, and a link that was up counts as lost and raises its event (R315, R341). -/
def dropLink (s : State) (p : Nat) : State :=
  let d := portDie p
  let m := portIx p
  let was := flagF s fPCS_STAT_link d m
  let s := setF (setF (setF (setF (setF s fPCS_STAT_link d m 0) fPCS_STAT_blk_lock d m 0) fPCS_STAT_hi_ber d m 0)
    fPCS_STAT_rem_fault d m 0) fPCS_STAT_fec_lock d m 0
  if was then
    let s := countF s fPCS_STAT_los_cnt d m
    raiseEvent s 0x16 d (BitVec.ofNat 32 p) (regRaw s .PCS_STAT d m)
  else s

/-- The blocks of a frame that have left when a time since its departure has passed: its SOF at least, its EOF not yet. -/
def blocksSent (bt len passed : Nat) : Nat := min (len - 1) (max 1 (passed * 10 / bt))

/-- Is a port in near-end loopback, so that nothing of what it sends reaches its line (R315)? -/
def looped (s : State) (p : Nat) : Bool := flagF s fPCFG_lpbk (portDie p) (portIx p)

/-- Blocks reach the line of a port of a ring, unless it is in loopback. -/
def ringLine (s : State) (k : Nat) (odd : Bool) (blocks : List PlBlock) : State :=
  if looped s (ringPort k odd) then s else emit s (.ring k odd blocks)

/-- End a frame that is being sent at once, with an EOF whose stomp is 1; one in loopback is on no line. -/
def cutShort (s : State) (k : Nat) (x : Bool × Nat × List PlBlock) : State :=
  let now := vigilNow s
  let bt := blockTime s k
  if looped s (ringPort k x.1) then s
  else if x.2.1 ≤ now ∧ (now - x.2.1) * 10 < x.2.2.length * bt then
    let n := blocksSent bt x.2.2.length (now - x.2.1)
    let ps := (x.2.2.take n).map (fun b => b.data.toNat)
    emit s (.ringCut k x.1 n (eofBlock (ps.headD 0) (ps.drop 1) true))
  else s

/-- A condition of R310 begins: the ring ends the COMMAND and COLLECT frames that it is sending. -/
def stompRing (s : State) (k : Nat) : State :=
  let r := getRing s k
  if r.sending = [] then s else setRing (r.sending.foldl (fun s x => cutShort s k x) s) k { r with sending := [] }

/-- The same for every ring of a die. -/
def stompRings (s : State) (d : Die) : State := (List.range 24).foldl (fun s m => stompRing s (d.val * 24 + m)) s

/-- A ring whose supplies or reference are lost is silent until run = 1 (R313). -/
def muteRing (s : State) (k : Nat) : State := setRing s k { getRing s k with silent := true, sending := [] }

/-- A ring that does not send: PL_STAT.rstate reads OFF (R276, R311). -/
def ringOff (s : State) (k : Nat) : State :=
  let r := getRing s k
  setF (setRing s k { ringInit with discPend := r.discPend, silent := r.silent }) fPL_STAT_rstate (ringDie k) (ringIx k) 0

end Sys2Proof.Machine
end

