-- ==== Sys2Proof/Machine/Flags.lean ====
section
/-! DEFINITION. The arithmetic of a weave cell and the flags it sets: products and accumulator updates with their
saturation (R45, R46, R69, R72), ALU lanes (R47), scaled moves with clamp and headroom (R73, R74, R76, R77), the
exponent and shift rules (R78, R79) and the search unit (R48, R80). Values are exact integers; each is narrowed once. -/

namespace Sys2Proof.Machine

/-- Clamp to a signed range of `w` bits (R33). -/
def clampS (w : Nat) (v : Int) : Int :=
  if v < -(2 ^ (w - 1) : Nat) then -(2 ^ (w - 1) : Nat)
  else if (2 ^ (w - 1) : Nat) ≤ v then (2 ^ (w - 1) : Nat) - 1
  else v

/-- Does a value lie outside the signed range of `w` bits? -/
def outS (w : Nat) (v : Int) : Bool := decide (clampS w v ≠ v)

/-- Wrap to a signed value of `w` bits. -/
def wrapS (w : Nat) (v : Int) : Int := signed w (unsigned w v)

/-- The lower and upper 16-bit lane of a word, signed (R32). -/
def laneLo (w : Word) : Int := signed 16 (bitsOf w.toNat 15 0)
def laneHi (w : Word) : Int := signed 16 (bitsOf w.toNat 31 16)
def word32 (w : Word) : Int := signed 32 w.toNat

/-- A word of two 16-bit lanes. -/
def packLanes (lo hi : Int) : Word := BitVec.ofNat 32 (unsigned 16 lo + unsigned 16 hi * 65536)

/-- A word of one 32-bit value. -/
def packWord (v : Int) : Word := BitVec.ofNat 32 (unsigned 32 v)

/-- The halves of an accumulator (R32, R33). -/
def accLo (a : BitVec 96) : Int := signed 48 (bitsOf a.toNat 47 0)
def accHi (a : BitVec 96) : Int := signed 48 (bitsOf a.toNat 95 48)
def accAll (a : BitVec 96) : Int := signed 96 a.toNat
def packAcc (lo hi : Int) : BitVec 96 := BitVec.ofNat 96 (unsigned 48 lo + unsigned 48 hi * 2 ^ 48)

/-! ## The multiplier -/

/-- The product for H0 and for H1; in S32 the first is for the whole accumulator (R45). -/
def macProduct (mode : Nat) (conj : Bool) (x y z : Word) : Int × Int :=
  let xr := laneLo x
  let xi := laneHi x
  let yr := laneLo y
  let yi := laneHi y
  match mode with
  | 0 => if conj then (xr * yr + xi * yi, xi * yr - xr * yi) else (xr * yr - xi * yi, xr * yi + xi * yr)
  | 1 => (xr * yr + xi * yi, laneLo z * yr + laneHi z * yi)
  | _ => (word32 x * word32 y, 0)

/-- The aligned operand A (R45). -/
def macAligned (mode bshift : Nat) (x : Word) : Int × Int :=
  if mode < 2 then (laneLo x * (2 ^ bshift : Nat), laneHi x * (2 ^ bshift : Nat)) else (word32 x * (2 ^ bshift : Nat), 0)

/-- The exact result of one accumulator part by `mac_op` (R46). -/
def macExact (op : Nat) (acc p pc a : Int) : Int :=
  match op with
  | 1 => acc + p
  | 2 => acc - p
  | 3 => p
  | 4 => acc + pc
  | 5 => pc
  | 6 => a
  | 7 => acc + a
  | 8 => acc - a
  | _ => acc

/-- One part of an accumulator after an update: the value, its sat bit and whether it overflowed (R69, R72). -/
def macStore (w : Nat) (wrap sat : Bool) (old exact : Int) : Int × Bool × Bool :=
  if wrap then (wrapS w exact, sat, false)
  else if sat then (old, true, false)
  else if outS w exact then (clampS w exact, true, true)
  else (exact, false, false)

/-- The accumulator after an update: its value, the sat bits of H1 and H0, and whether it overflowed. -/
def macUpdate (c : CellDraft) (acc : BitVec 96) (sat1 sat0 : Bool) (x y z : Word) :
    BitVec 96 × Bool × Bool × Bool :=
  let p := macProduct c.mode false x y z
  let q := macProduct c.mode true x y z
  let a := macAligned c.mode c.bshift x
  if c.mode < 2 then
    let lo := macStore 48 c.accWrap sat0 (accLo acc) (macExact c.macOp (accLo acc) p.1 q.1 a.1)
    let hi := macStore 48 c.accWrap sat1 (accHi acc) (macExact c.macOp (accHi acc) p.2 q.2 a.2)
    (packAcc lo.1 hi.1, hi.2.1, lo.2.1, lo.2.2 || hi.2.2)
  else
    let v := macStore 96 c.accWrap sat0 (accAll acc) (macExact c.macOp (accAll acc) p.1 q.1 a.1)
    (BitVec.ofNat 96 (unsigned 96 v.1), sat1, v.2.1, v.2.2)

/-- The operations of the accumulation chain: MAC, MSU, ADA and SBA (R55). -/
def macChains (op : Nat) : Bool := decide (op = 1 ∨ op = 2 ∨ op = 7 ∨ op = 8)

/-- The operations that read the accumulator (R46). -/
def macReadsAcc (op : Nat) : Bool := decide (op = 1 ∨ op = 2 ∨ op = 4 ∨ op = 7 ∨ op = 8)

/-! ## Scaled moves (R73 to R77) -/

/-- The number of bits of a natural number. -/
def bitLen (n : Nat) : Nat := if n = 0 then 0 else Nat.log2 n + 1

/-- The width of a signed integer (R76). -/
def widthOf (v : Int) : Nat := if v < 0 then bitLen (-v - 1).toNat + 1 else bitLen v.toNat + 1

/-- The shifted value before the clamp (R73). -/
def shiftBy (k : Int) (rnd : Bool) (v : Int) : Int :=
  if 0 < k then
    (if rnd then (v + (2 ^ (k.toNat - 1) : Nat)) / (2 ^ k.toNat : Nat) else v / (2 ^ k.toNat : Nat))
  else v * (2 ^ (-k).toNat : Nat)

/-- A lane of a scaled move, and whether it clamped (R73, R74). -/
def moveLane (w : Nat) (wrap rnd : Bool) (k v : Int) : Int × Bool :=
  let q := shiftBy k rnd v
  if wrap then (wrapS w q, false) else (clampS w q, outS w q)

/-- A scaled move: its word, whether it clamped, and the headroom width measured (R73, R77). `lanes` are the halves
or lanes (one in S32), `b` the base shift (0 for SCL) and `s` the item's shift. -/
def scaledMove (mode : Nat) (wrap rnd : Bool) (b : Nat) (s : Int) (lanes : Int × Int) : Word × Bool × Nat :=
  let k : Int := b + s
  let m (v : Int) : Nat := widthOf (v / (2 ^ b : Nat))
  if mode < 2 then
    let lo := moveLane 16 wrap rnd k lanes.1
    let hi := moveLane 16 wrap rnd k lanes.2
    (packLanes lo.1 hi.1, lo.2 || hi.2, max (m lanes.1) (m lanes.2))
  else
    let v := moveLane 32 wrap rnd k lanes.1
    (packWord v.1, v.2, m lanes.1)

/-- The lanes of an accumulator for a scaled move. -/
def accLanes (mode : Nat) (a : BitVec 96) : Int × Int := if mode < 2 then (accLo a, accHi a) else (accAll a, 0)

/-- The lanes of a register for a scaled move. -/
def wordLanes (mode : Nat) (w : Word) : Int × Int := if mode < 2 then (laneLo w, laneHi w) else (word32 w, 0)

/-- The shift for the next item (R78). -/
def nextShift (c : CellDraft) (wMax : Nat) : Int :=
  let w : Int := if c.mode < 2 then 16 else 32
  min 15 (max (if c.gainEn then -15 else 0) (wMax + c.grow - w))

/-- The exponent of an item's output words, and whether it clamped (R79). -/
def outExp (src : Nat) (ea eb s : Int) : Int × Bool :=
  let e := match src with
    | 0 => ea + s
    | 1 => ea + eb + s
    | 2 => s
    | _ => ea
  (clampS 5 e, outS 5 e)

/-! ## The ALU (R47) -/

/-- One lane of `w` bits of a lane-wise operation; `sh` is the shift count from the lane of B (R47). -/
def aluLane (op w : Nat) (a b : Int) (sh : Nat) : Int :=
  match op with
  | 2 => a + b
  | 3 => clampS w (a + b)
  | 4 => a - b
  | 5 => clampS w (a - b)
  | 9 => a * (2 ^ sh : Nat)
  | 10 => a / (2 ^ sh : Nat)
  | 11 => (unsigned w a / 2 ^ sh : Nat)
  | 12 => clampS w (if a < 0 then -a else a)
  | 13 => clampS w (-a)
  | 14 => if b < a then b else a
  | 15 => if a < b then b else a
  | _ => a

/-- The result of an ALU operation that is no scaled move (R47). -/
def aluResult (mode op : Nat) (a b : Word) : Word :=
  match op with
  | 1 => a
  | 6 => a &&& b
  | 7 => a ||| b
  | 8 => a ^^^ b
  | 18 => packLanes (laneHi a) (laneLo a)
  | 19 => packLanes (clampS 16 (laneHi a)) (clampS 16 (-laneLo a))
  | 20 => packLanes (clampS 16 (-laneHi a)) (clampS 16 (laneLo a))
  | _ =>
    if mode < 2 then
      packLanes (aluLane op 16 (laneLo a) (laneLo b) (bitsOf b.toNat 3 0))
        (aluLane op 16 (laneHi a) (laneHi b) (bitsOf b.toNat 19 16))
    else packWord (aluLane op 32 (word32 a) (word32 b) (bitsOf b.toNat 4 0))

/-! ## The search unit (R48, R80) -/

/-- Does an element replace the best (R48)? -/
def searchBetter (op : Nat) (v best : Int) : Bool :=
  match op with
  | 1 => decide (v < best)
  | 2 => decide (best < v)
  | 3 => decide (v.natAbs < best.natAbs)
  | 4 => decide (best.natAbs < v.natAbs)
  | _ => false

/-- The search state: best value, counter, index of the best, and the flags seen and wrapped. -/
structure SearchSt where
  val   : Int
  count : Nat
  idx   : Nat
  valid : Bool
  wrap  : Bool
  deriving DecidableEq, Repr

/-- One element (R80). -/
def searchElem (op : Nat) (m : SearchSt) (v : Int) : SearchSt :=
  let take := !m.valid || searchBetter op v m.val
  { val := if take then v else m.val
    idx := if take then m.count else m.idx
    count := (m.count + 1) % 65536
    valid := true
    wrap := m.wrap || decide (m.count = 65535) }

/-- The elements of a word (R80). -/
def searchWord (op : Nat) (two : Bool) (m : SearchSt) (w : Word) : SearchSt :=
  if two then searchElem op (searchElem op m (laneLo w)) (laneHi w) else searchElem op m (word32 w)

/-! ## Slot contexts as images (R35) -/

/-- The 64 bytes of a slot context (R35). -/
def slotBytes (c : SlotCtx) : List Byte :=
  leBytes 4 c.sr0.toNat ++ leBytes 4 c.sr1.toNat ++ leBytes 4 c.sr2.toNat ++ leBytes 4 c.sr3.toNat ++
  leBytes 12 c.acc0.toNat ++ leBytes 12 c.acc1.toNat ++ leBytes 4 c.mmVal.toNat ++
  leBytes 4 (c.mmIdx.toNat + c.mmCount.toNat * 65536) ++
  leBytes 4 (c.s.toNat + c.wMax.toNat * 256 + bitN c.mvSeen * 32768 + c.eOut.toNat * 65536) ++
  leBytes 4 (c.pos.toNat + bitN c.satB0 * 8192 + bitN c.satB1 * 16384 + bitN c.satA0 * 32768 +
    bitN c.satA1 * 65536 + bitN c.ovfItem * 131072 + bitN c.poisonItem * 262144 + bitN c.mmValid * 524288 +
    bitN c.mmWrap * 1048576 + bitN c.ovfOwn * 2097152) ++ List.replicate 8 0

/-- The slot context that 64 bytes hold (R35). -/
def slotOfBytes (b : List Byte) : SlotCtx :=
  let m := fieldAt b 0x2C 4
  let e := fieldAt b 0x30 4
  let f := fieldAt b 0x34 4
  { sr0 := BitVec.ofNat 32 (fieldAt b 0x00 4)
    sr1 := BitVec.ofNat 32 (fieldAt b 0x04 4)
    sr2 := BitVec.ofNat 32 (fieldAt b 0x08 4)
    sr3 := BitVec.ofNat 32 (fieldAt b 0x0C 4)
    acc0 := BitVec.ofNat 96 (fieldAt b 0x10 12)
    acc1 := BitVec.ofNat 96 (fieldAt b 0x1C 12)
    mmVal := BitVec.ofNat 32 (fieldAt b 0x28 4)
    mmCount := BitVec.ofNat 16 (bitsOf m 31 16)
    mmIdx := BitVec.ofNat 16 (bitsOf m 15 0)
    eOut := BitVec.ofNat 5 (bitsOf e 20 16)
    mvSeen := bitOf e 15
    wMax := BitVec.ofNat 7 (bitsOf e 14 8)
    s := BitVec.ofNat 5 (bitsOf e 4 0)
    ovfOwn := bitOf f 21
    mmWrap := bitOf f 20
    mmValid := bitOf f 19
    poisonItem := bitOf f 18
    ovfItem := bitOf f 17
    satA1 := bitOf f 16
    satA0 := bitOf f 15
    satB1 := bitOf f 14
    satB0 := bitOf f 13
    pos := BitVec.ofNat 12 (bitsOf f 11 0) }

/-- The context of a yarn that has run no item in the cell (R36). -/
def slotFresh (c : CellDraft) : SlotCtx := { slotCtxZero with s := BitVec.ofNat 5 c.sInit }

end Sys2Proof.Machine
end

