-- ==== Sys2Proof/Machine/YarnOps.lean ====
section
/-! DEFINITION. What the engines do to a yarn from many places: finding yarns and flights, state frames in bank
memory (R133), the end of a hold, split or delete at an item boundary (R128), stopping a yarn (R128, R341), and the
faults that the beat engine has to cover (R82, R116, R189). -/

namespace Sys2Proof.Machine

/-! ## Finding yarns and flights -/

/-- The yarns that have a descriptor on a die, with their numbers. -/
def yarnsOn (s : State) (d : Die) : List (Nat × Yarn) :=
  (s.flow.yarns.filter (fun e => e.1 % 2 = d.val ∧ e.2.state ≠ .free)).map (fun e => (e.1 / 2, e.2))

/-- The stage of a yarn that lies in a harness. -/
def stageIn (y : Yarn) (h : Nat) : Option Nat := y.stages.findIdx? (fun g => g.harness = h)

/-- The stage of a yarn that has an index in a harness. -/
def stageAt (y : Yarn) (h : Nat) (idx : BitVec 4) : Option Nat :=
  y.stages.findIdx? (fun g => g.harness = h ∧ g.idx = idx)

/-- The pinned yarn that owns a draft index of a harness (R102, R132). -/
def ownerOf (s : State) (d : Die) (h : Nat) (idx : BitVec 4) : Option (Nat × Yarn) :=
  (yarnsOn s d).find? (fun e => e.2.pinned && (stageAt e.2 h idx).isSome)

/-- The yarns of a die with a stage in a harness. -/
def yarnsOfHar (s : State) (d : Die) (h : Nat) : List Nat :=
  ((yarnsOn s d).filter (fun e => (stageIn e.2 h).isSome)).map (fun e => e.1)

/-- A flight by its number. -/
def getFlight (s : State) (id : Nat) : Option Flight := s.flow.flights.find? (fun f => f.id = id)

/-- Change a flight. -/
def modFlight (s : State) (id : Nat) (f : Flight → Flight) : State :=
  { s with flow.flights := s.flow.flights.map (fun x => if x.id = id then f x else x) }

/-- The number of a flight: how many were before it, and the yarn, die and place of the item, which a report names when the flight
is over (R71). -/
def flightId (count : Nat) (seq : Word) (d : Die) (y : Nat) : Nat :=
  ((count * 2 ^ 32 + seq.toNat) * 2 + d.val) * 2 ^ 15 + y % 2 ^ 15

/-- The die, yarn and place in its sequence that a flight's number names. -/
def flightOwner (id : Nat) : Die × Nat × Word :=
  (if id / 2 ^ 15 % 2 = 1 then 1 else 0, id % 2 ^ 15, BitVec.ofNat 32 (id / 2 ^ 16))

/-- The flights of a yarn on a die, oldest first. -/
def flightsOf (s : State) (d : Die) (y : Nat) : List Flight :=
  s.flow.flights.filter (fun f => f.die = d ∧ f.yarn = y)

/-- Has an item been retired in every stage (R134)? -/
def retiredAll (y : Yarn) (f : Flight) : Bool := decide (y.stages.length ≤ f.retired.length)

/-- Is a replay of the yarn still restoring it (R182 steps 1 to 4)? -/
def restoring (s : State) (d : Die) (n : Nat) : Bool :=
  ((getBeat s 0).replays ++ (getBeat s 1).replays).any (fun r => r.yarns.contains (2 * n + d.val) && !r.restored)

/-- Is the yarn at an item boundary (R128)? -/
def atBoundary (s : State) (d : Die) (n : Nat) : Bool :=
  (flightsOf s d n).all (retiredAll (getYarn s d n))

/-- Items admitted and not yet retired in the last stage (R155). -/
def inFlight (s : State) (d : Die) (n : Nat) : Nat :=
  ((flightsOf s d n).filter (fun f => !retiredAll (getYarn s d n) f)).length

/-! ## Frames (R133) -/

/-- The physical column of the spare's row that has taken over a column: 8 when the cell is darned (R117, R118). -/
def darnedCol (s : State) (d : Die) (h r : Nat) : Option Nat :=
  let m := (regRaw s .DARN_MAP d h).toNat
  if bitOf m (4 * r + 3) then some (bitsOf m (4 * r + 2) (4 * r)) else none

/-- The physical cell that stands for logical cell (r, c). -/
def physCol (s : State) (d : Die) (h r c : Nat) : Nat := if darnedCol s d h r = some c then 8 else c

/-- The resident draft of a cell. -/
def residentDraft (s : State) (d : Die) (h ck k : Nat) : CellDraft :=
  cellDraftOf (getCellDraft s ck (getHar s d h).flip k)

/-- The keys of the cells of a harness that are stateful for an index, in row-major order (R133). -/
def statefulCells (s : State) (d : Die) (h k : Nat) : List Nat :=
  ((List.range 64).map (fun i => cellKey d h (i / 8) (physCol s d h (i / 8) (i % 8)))).filter
    (fun ck => draftStateful (residentDraft s d h ck k))

/-- The keys of the cells of a harness whose draft of an index is in use. -/
def activeCells (s : State) (d : Die) (h k : Nat) : List Nat :=
  ((List.range 64).map (fun i => cellKey d h (i / 8) (physCol s d h (i / 8) (i % 8)))).filter
    (fun ck => (residentDraft s d h ck k).en)

/-- The header of a frame (R133). -/
def frameHeader (yarn items tpos : Nat) : List Byte :=
  padTo 64 (leBytes 4 (32768 + yarn) ++ leBytes 4 items ++ leBytes 4 (tpos % 256))

/-- The bytes of a stage's frame in bank memory. -/
def frameBytes (s : State) (d : Die) (g : Stage) : List Byte :=
  memRead s.arr.bank (bankAddr d g.harness (g.frame * 64)) (64 * (1 + g.images))

/-- Write bytes into bank memory. -/
def writeBank (s : State) (d : Die) (h o : Nat) (bs : List Byte) : State :=
  { s with arr.bank := memWrite s.arr.bank (bankAddr d h o) bs }

/-- Write a frame's header and images from offset 0 of the frame. -/
def writeFrame (s : State) (d : Die) (g : Stage) (bs : List Byte) : State :=
  writeBank s d g.harness (g.frame * 64) bs

/-- The image of the i-th stateful cell of a frame. -/
def frameImage (s : State) (d : Die) (g : Stage) (i : Nat) : SlotCtx :=
  slotOfBytes (memRead s.arr.bank (bankAddr d g.harness (g.frame * 64 + 64 * (i + 1))) 64)

/-- A granule that is written is poisoned no longer (R266). -/
def clearPoison (s : State) (d : Die) (off n : Nat) : State :=
  let m := getHbm s d
  if m.poison.isEmpty then s
  else setHbm s d { m with poison := m.poison.filter (fun g => decide (off + n ≤ g * 32) || decide (g * 32 + 32 ≤ off)) }

/-- Write bytes into the HBM stack of a die. -/
def writeHbm (s : State) (d : Die) (off : Nat) (bs : List Byte) : State :=
  let s := clearPoison s d off bs.length
  { s with mem.hbm := memWrite s.mem.hbm (hbmAddr d off) bs }

/-- Read bytes of the HBM stack of a die. -/
def readHbm (s : State) (d : Die) (off n : Nat) : List Byte := memRead s.mem.hbm (hbmAddr d off) n

/-- Where generation c mod 3 of a yarn's checkpoints stands in its stack (R171). -/
def ckptOff (y : Yarn) (num : Nat) : Nat := y.ckpt.toNat % 2 ^ 40 + num % 3 * 0x2040

/-- Copy the frame of a stage, as it stands, into a generation (R171, R172). -/
def copyFrame (s : State) (d : Die) (y : Yarn) (num i : Nat) : State :=
  match y.stages[i]? with
  | none => s
  | some g => writeHbm s d (ckptOff y num + 0x40 + i * 0x800) (frameBytes s d g)

/-- Copy the frame of a stage for the cut of an ordinal, and note that the generation holds it. -/
def copyStage (s : State) (d : Die) (n ord i : Nat) : State :=
  let y := getYarn s d n
  let num := (numOfOrd s d ord).toNat
  let f (c : CutRec) : CutRec :=
    if c.ord = ord then { c with toCopy := c.toCopy.erase i, copied := c.copied ++ [i] } else c
  setYarn (copyFrame s d y num i) d n { y with cuts := y.cuts.map f, copies := y.copies ++ [(ord, i, num % 3)] }

/-- Before a stage's frame is written back for an item after a cut, the frame as it stood at the cut is copied into
the cut's generation (R172). -/
def copyOnWrite (s : State) (d : Die) (n i : Nat) (seq : Word) : State :=
  let y := getYarn s d n
  let due := y.cuts.filter (fun c => c.toCopy.contains i && decide (seq ≠ c.itemsIn) &&
    decide ((seq - c.itemsIn).toNat < 2 ^ 31))
  due.foldl (fun s c => copyStage s d n c.ord i) s

/-! ## Item boundaries and stops (R128) -/

/-- The code of a yarn state (R127). -/
def yStateNo : YState → Nat
  | .free => 0
  | .idle => 1
  | .run => 2
  | .hold => 3
  | .replay => 4
  | .migrate => 5
  | .stopped => 6
  | .split => 7

/-- Remove a yarn's descriptor and frames and its checkpoint area in both stacks (R190): the entry is FREE again. -/
def freeYarn (s : State) (d : Die) (n : Nat) : State :=
  let y := getYarn s d n
  let s := y.stages.foldl (fun s g => writeFrame s d g (List.replicate 64 0)) s
  let s := { s with
    mem.allocs := s.mem.allocs.filter (fun a => decide (a.kind ≠ .checkpoint n) || decide (a.base ≠ y.ckpt.toNat % 2 ^ 40 / 4096))
    flow.flights := s.flow.flights.filter (fun f => decide (f.die ≠ d) || decide (f.yarn ≠ n)) }
  setYarn s d n yarnFree

/-- Move a yarn to STOPPED without its event: its waiting hold command completes with INVALID_STATE (R128). -/
def stopQuiet (s : State) (d : Die) (n : Nat) : State :=
  let y := getYarn s d n
  if y.state = .run || y.state = .hold || y.state = .replay then
    let s := setYarn s d n { y with state := .stopped, holdReq := false, splitReq := false, target := none,
                                    reinject := [] }
    if y.holdReq then endWait s (.hold n) 3 (yStateNo .stopped) 0 else s
  else s

/-- Move a yarn to STOPPED by an uncorrectable event (R128, R341). -/
def stopYarn (s : State) (d : Die) (n cause : Nat) : State :=
  let y := getYarn s d n
  if y.state = .run || y.state = .hold || y.state = .replay then
    raiseEvent (stopQuiet s d n) 0x05 d (BitVec.ofNat 32 n) (BitVec.ofNat 32 cause)
  else s

/-- Delete a yarn: the descriptors that committed beats hold stay until the beat of the deletion commits (R28, R335). -/
def deleteYarn (s : State) (d : Die) (n : Nat) : State :=
  let y := getYarn s d n
  let t := freeYarn s d n
  { t with flow.gone := t.flow.gone ++ [{ die := d, yarn := n, cut := y.cut, snaps := y.snaps }] }

/-- May a yarn be deleted in this state (R128)? -/
def deletable : YState → Bool
  | .idle | .hold | .stopped | .split => true
  | .free | .run | .replay | .migrate => false

/-- The transitions of R128 that wait for an item boundary: hold, split, the stop of R115 and delete, which waits until no item
of the yarn remains in any harness and, where another command or a rejoin has returned the yarn to RUN, until it has left RUN
(DESIGN CHOICE, log entry 245). -/
def settleYarn (s : State) (d : Die) (n : Nat) : State :=
  let y := getYarn s d n
  if !atBoundary s d n then s
  else
    let s := if y.state = .run && y.holdReq then
        endWait (setYarn s d n { y with state := .hold, holdReq := false }) (.hold n) 0 0 0
      else s
    let y := getYarn s d n
    let s := if (y.state = .run || y.state = .hold) && y.splitReq then
        setYarn s d n { y with before := y.state, state := .split, splitReq := false }
      else s
    let s := if (getYarn s d n).stopReq then
        stopYarn (modYarn s d n (fun y => { y with stopReq := false })) d n 0xFF
      else s
    let y := getYarn s d n
    if y.delReq && deletable y.state && decide (flightsOf s d n = []) then endWait (deleteYarn s d n) (.delete n) 0 0 0 else s

/-! ## Replay groups (R180) -/

/-- The code of a yarn on a die. -/
def yarnCode (d : Die) (n : Nat) : Nat := 2 * n + d.val

/-- The die of a code. -/
def codeDie (c : Nat) : Die := if c % 2 = 1 then 1 else 0

/-- The code of a yarn as seen from a die: its copy there, or else the one on the other die. -/
def codeFrom (s : State) (d : Die) (n : Nat) : List Nat :=
  if (getYarn s d n).state ≠ .free then [yarnCode d n]
  else if (getYarn s (otherDie d) n).state ≠ .free then [yarnCode (otherDie d) n]
  else []

/-- The yarn of a code. -/
def codeYarn (s : State) (c : Nat) : Yarn := sparseGet (fun _ => yarnFree) s.flow.yarns c

/-- The bobbins a yarn names. -/
def yarnBobs (y : Yarn) : List Nat := (y.ins.filterMap id) ++ (y.outs.filterMap id).map (fun o => o.bob)

/-- The yarns joined to a yarn by a bobbin between yarns (R180). -/
def joined (s : State) (c : Nat) : List Nat :=
  (yarnBobs (codeYarn s c)).flatMap (fun b =>
    let x := getBob s b
    if x.prod = .yarn ∧ x.cons = .yarn then
      codeFrom s (codeDie c) x.prodId.toNat ++ codeFrom s (codeDie c) x.consId.toNat
    else [])

/-- The union of the replay groups of some yarns (R180), in at most `fuel` rounds. -/
def groupsOf : Nat → State → List Nat → List Nat
  | 0, _, cs => cs
  | k + 1, s, cs =>
    let next := (cs ++ cs.flatMap (joined s)).dedup
    if next.length = cs.length then cs else groupsOf k s next

/-- The number of replay groups of a die that hold a yarn in REPLAY (R180, R196): each group is counted at its yarn of the
lowest code. -/
def groupsReplaying (s : State) (d : Die) : Nat :=
  let cs := (s.flow.yarns.filter (fun e => decide (e.1 % 2 = d.val) && decide (e.2.state = .replay))).map (fun e => e.1)
  (cs.filter (fun c => cs.all (fun x => decide (c ≤ x) || !(groupsOf (s.flow.yarns.length + 1) s [c]).contains x))).length

/-! ## Faults (R82, R189) -/

/-- Give the beat engine of a die a fault to cover, once. -/
def addFault (s : State) (d : Die) (f : FaultRec) : State :=
  modBeat s d (fun b => if b.faults.contains f then b else { b with faults := b.faults ++ [f] })

/-- Record the last fault or divergence in RPL_LAST (R196). -/
def rplLast (s : State) (d : Die) (result cls id : Nat) : State :=
  setF (setF (setF (setF s fRPL_LAST_valid d 0 1) fRPL_LAST_result d 0 result) fRPL_LAST_class d 0 cls) fRPL_LAST_id d 0 id

/-- Have all the yarns of a restored replay left REPLAY? -/
def replayOver (s : State) (r : Replay) : Bool := r.restored && r.yarns.all (fun c => decide ((codeYarn s c).state ≠ .replay))

/-- End the replays of a die whose yarns have all caught up or stopped: RPL_LAST, the count and the event (R182, R196, R341).
Where a yarn stopped in the replay, RPL_LAST keeps the record of why (R185, R188); a bobbin fault that replays no yarn has no
event. The event names the first yarn of the replay, and so does RPL_LAST for a fault that names no bobbin (DESIGN CHOICE, log
entry 198). -/
def endReplays (s : State) (d : Die) : State :=
  let ended := (getBeat s d).replays.filter (replayOver s)
  let s := modBeat s d (fun b => { b with replays := b.replays.filter (fun r => !ended.contains r) })
  ended.foldl (fun s r =>
    let n := (r.yarns.headD 0) / 2
    let s := wrapF s fRPL_STAT_count d 0
    if r.yarns.any (fun c => decide ((codeYarn s c).state = .stopped)) then s
    else
      let id := match r.fault.bob with
        | some b => b % 65536
        | none => n
      let s := rplLast s d r.result.toNat r.fault.cls.toNat id
      if r.silent then s
      else raiseEvent s 0x01 d (BitVec.ofNat 32 n) (regRaw s .RPL_LAST d 0)) s

/-- A fault of class 0 of R189 in a harness: its event and its replay (R82, R114, R251). -/
def harnessFault (s : State) (d : Die) (h where_ : Nat) : State :=
  addFault (raiseEvent s 0x08 d (BitVec.ofNat 32 h) (BitVec.ofNat 32 where_)) d
    { cls := 0, id := 0, har := some h, bob := none }

/-- The firmware treats a harness as lost (R116): an event, and a fault of class 6 of R189. -/
def loseHarness (s : State) (d : Die) (h : Nat) : State :=
  if (getHar s d h).lost then s
  else
    let s := modHar s d h (fun a => { a with lost := true })
    addFault (raiseEvent s 0x0A d (BitVec.ofNat 32 h) 0) d { cls := 6, id := 0, har := some h, bob := none }

/-- Has a cell (or a reed, by its own kind) reported two faults of one kind within 64 committed beats (R116)? -/
def secondFault (s : State) (d : Die) (h r c : Nat) : Bool :=
  let fs := (getHar s d h).faultAt.filter (fun f => decide (f.cell = r * 16 + c))
  (List.range fs.length).any (fun i => (List.range fs.length).any (fun j =>
    match fs[i]?, fs[j]? with
    | some a, some b => decide (i < j) && decide (a.kind = b.kind) && decide (b.beat ≤ a.beat + 64)
    | _, _ => false))

/-- A fault that a cell reports, with the draft slot and the kind (R82). A second one of the same kind in a spare cell
that is in use means that the spare is itself faulty, and the harness is lost (R116). -/
def cellFault (s : State) (d : Die) (h r c slot kind : Nat) : State :=
  let f : CellFaultRec := { cell := r * 16 + c, slot := slot, kind := kind, beat := (getBeat s d).cmt }
  let s := modHar s d h (fun a => { a with faultAt := a.faultAt ++ [f] })
  let s := harnessFault s d h (r * 16 + c)
  if c = 8 ∧ secondFault s d h r c then loseHarness s d h else s

/-- The cell number under which a reed's faults are kept: 256 above its cell's. -/
def reedNo (r c : Nat) : Nat := 256 + r * 16 + c

/-- A reed draft fails its parity (R256): a fault of the harness. Two of them from one reed within 64 committed beats are
taken as a persistent fault of the reed, which loses the harness (R116; DESIGN CHOICE, log entry 194). -/
def reedFault (s : State) (d : Die) (h r c slot : Nat) : State :=
  let now := (getBeat s d).cmt
  let again := (getHar s d h).faultAt.any (fun f => decide (f.cell = reedNo r c) && decide (now ≤ f.beat + 64))
  let s := modHar s d h (fun a => { a with faultAt := a.faultAt ++ [{ cell := reedNo r c, slot := slot, kind := 0, beat := now }] })
  let s := harnessFault s d h (r * 16 + c)
  if again then loseHarness s d h else s

/-! ## Where a domain or harness works -/

/-- Is a power domain ON (R212)? -/
def domOn (s : State) (d : Die) (i : Nat) : Bool := (getDom s d i).state = .on

/-- Does a domain work: is it ON with its clock running, as it is until D2 (R212, R215)? -/
def domWorks (s : State) (d : Die) (i : Nat) : Bool :=
  domOn s d i && decide ((getDom s d i).step = .none ∨ (getDom s d i).step = .d1)

/-- Does an asserted source hold a die in reset? -/
def dieHeld (s : State) (d : Die) : Bool :=
  s.rst.asserted.any (fun a => decide (a.level = .power ∨ a.level = .device) || (decide (a.level = .die) && decide (a.die = d)))

/-- The firmware of a die runs its work of a level (R354): its complex is ON and out of reset, and is not halted, or halted in
monitor mode at a level below (R466). -/
def fwAt (s : State) (d : Die) (level : Nat) : Bool :=
  let r := getRt s d
  flagF s fRT_STAT_run d 0 && !flagF s fRT_STAT_in_reset d 0 && domWorks s d 59 &&
    (decide (r.halt = .none) || (decide (r.halt = .monitor) && decide (level < r.haltLvl)))

/-- The firmware of a die serves immediate commands, which is work of level 4 (R354). -/
def fwRuns (s : State) (d : Die) : Bool := fwAt s d 4

/-- Does a domain take new work: is it ON and in no step of a shutdown (R215)? -/
def domTakes (s : State) (d : Die) (i : Nat) : Bool := domOn s d i && decide ((getDom s d i).step = .none)

/-- Do the cells, reeds and sequencer of a harness step: its domain is ON and its clock runs (R215), it is not in reset,
and it is not halted or is being stepped (R204, R463, R465)? -/
def harRuns (s : State) (d : Die) (h : Nat) : Bool :=
  let a := getHar s d h
  let m := getDom s d h
  decide (m.state = .on) && decide (m.step = .none ∨ m.step = .d1) && !a.inReset && (!a.halted || decide (0 < a.stepping))

end Sys2Proof.Machine
end

