-- ==== Sys2Proof/Machine/Breakpoints.lean ====
section
/-! DEFINITION. The debug comparators of a harness (R461, R462): what they match, their links and counts, and the
halts they cause (R463). The comparators of harness h are instances 16h to 16h + 15 of the die's debug block. -/

namespace Sys2Proof.Machine

/-- What the comparators of a harness are shown: a word consumed on IA, a scratch write, or a bank access (R461). -/
inductive Probe where
  | word (r c : Nat) (idx : BitVec 4) (yarn : Option Nat) (w : Wire)
  | scratch (r c : Nat) (addr : Nat)
  | bank (off len : Nat) (write : Bool)
  deriving DecidableEq, Repr

/-- Does comparator `i` (its instance) match (R461)? -/
def bpMatch (s : State) (d : Die) (i : Nat) (p : Probe) : Bool :=
  let cell (r c : Nat) : Bool := !flagF s fBP_SEL_use_cell d i ||
    (decide (getF s fBP_SEL_row d i = r) && decide (getF s fBP_SEL_col d i = c))
  let lo := (regRaw s .BP_VAL d i).toNat
  let m := (regRaw s .BP_MASK d i).toNat
  flagF s fBP_CTL_en d i &&
  (match p with
   | .word r c idx yarn w =>
     decide (getF s fBP_CTL_kind d i = 1) && cell r c &&
     (!flagF s fBP_SEL_use_idx d i || decide (getF s fBP_SEL_idx d i = idx.toNat)) &&
     (!flagF s fBP_SEL_use_yarn d i || decide (yarn = some (getF s fBP_SEL_yarn d i))) &&
     decide (Nat.land (Nat.xor w.tag.toNat (getF s fBP_TAG_tag d i)) (getF s fBP_TAG_mask d i) = 0) &&
     decide (Nat.land (Nat.xor w.data.toNat lo) m = 0)
   | .scratch r c a => decide (getF s fBP_CTL_kind d i = 2) && cell r c && decide (lo ≤ a) && decide (a ≤ m)
   | .bank o n wr => decide (getF s fBP_CTL_kind d i = 3) && bitOf (getF s fBP_CTL_rw d i) (bitN wr) &&
     decide (lo < o + n) && decide (o ≤ m))

/-- Does a debug halt stop every harness of a die (R310)? One in reset has no clock to stop. -/
def dieHalted (s : State) (d : Die) : Bool :=
  (List.range 36).any (fun h => (getHar s d h).halted) && (List.range 36).all (fun h => (getHar s d h).halted || (getHar s d h).inReset)

/-- Halt a harness (R463); the halt of the die's last one ends the frames that its rings are sending (R310). -/
def haltHarness (s : State) (d : Die) (h : Nat) : State :=
  let s := modHar s d h (fun a => { a with halted := true, stepping := 0, haltIn := 0 })
  if dieHalted s d then stompRings s d else s

/-- Halt every harness of a die (R462, R463); one in reset has no clock to stop. -/
def haltAll (s : State) (d : Die) : State :=
  (List.range 36).foldl (fun s h => if (getHar s d h).inReset then s else haltHarness s d h) s

/-- The halt of a comparator of harness `h`: the harness stops at the end of the second cycle after this one (R462). -/
def haltSoon (s : State) (d : Die) (h : Nat) : State :=
  modHar s d h (fun a => { a with haltIn := if a.haltIn = 0 then 3 else a.haltIn })

/-- The halt of all harnesses of the die: its own stops two cycles on, the others stop at once (R462; log entry 236). -/
def haltSoonAll (s : State) (d : Die) (h : Nat) : State :=
  (List.range 36).foldl (fun s k => if k = h then haltSoon s d h else if (getHar s d k).inReset then s else haltHarness s d k) s

/-- A cell takes its step: one that has taken it already begins the next cycle of the harness, in which nothing has matched yet; a
halt that was due at the end of the last stops the harness (R462; log entry 236). -/
def beginCycle (s : State) (d : Die) (h i : Nat) : State :=
  let a := getHar s d h
  if !a.acted.contains i then setHar s d h { a with acted := a.acted ++ [i] }
  else
    let s := setHar s d h { a with acted := [i], bpNow := [], haltIn := a.haltIn - 1 }
    if a.haltIn = 1 then haltHarness s d h else s

/-- The cell a probe names, as a fault names it. -/
def probeCell : Probe → Nat
  | .word r c _ _ _ => r * 16 + c
  | .scratch r c _ => r * 16 + c
  | .bank _ _ _ => 0

/-- A comparator fires: its bit, and its action (R462). -/
def bpFire (s : State) (d : Die) (h i : Nat) (p : Probe) : State :=
  let s := setF s fBP_CTL_fired d i 1
  match getF s fBP_CTL_action d i with
  | 1 => haltSoon s d h
  | 2 => haltSoonAll s d h
  | _ => raiseEvent s 0x08 d (BitVec.ofNat 32 h) (BitVec.ofNat 32 (2 ^ 31 + probeCell p))

/-- The key of a comparator among the armed ones. -/
def bpKey (d : Die) (i : Nat) : Nat := d.val * 576 + i

/-- Note keys among what has matched in the cycle: k for comparator k with its link, 16 + k for its own match. -/
def bpMark (s : State) (d : Die) (h : Nat) (ks : List Nat) : State :=
  if ks = [] then s else modHar s d h (fun a => { a with bpNow := ks ++ a.bpNow })

/-- One comparator: `prev` says how comparator i − 1 links to it (its link code and whether it has just matched). A pair linked by
AND matches when the second of the two does, once in a cycle. Answers the state and whether this comparator counts as matched for
the next. -/
def bpOne (s : State) (d : Die) (h k : Nat) (p : Probe) (prev : Nat × Bool) : State × Nat × Bool :=
  let i := h * 16 + k
  let hit := bpMatch s d i p
  let s := if hit then countF s fBP_HITS_hits d i else s
  let now := (getHar s d h).bpNow
  let armed := s.dbg.armed.contains (bpKey d i)
  let ok := if prev.1 = 1 then (hit || now.contains (16 + k)) && now.contains (k - 1) && !now.contains k
    else if prev.1 = 2 then hit && armed else hit
  let s := bpMark s d h ((if hit then [16 + k] else []) ++ (if ok then [k] else []))
  let s := if prev.1 = 2 && prev.2 then
      { s with dbg.armed := if armed then s.dbg.armed else s.dbg.armed ++ [bpKey d i] }
    else s
  let link := if flagF s fBP_CTL_en d i && decide (k < 15) then getF s fBP_CTL_link d i else 0
  if ok && decide (link = 0) then
    let n := sparseGet (fun _ => 0) (getHar s d h).bpCount k
    let s := modHar s d h (fun a => { a with bpCount := sparseSet (fun _ => 0) a.bpCount k (n + 1) })
    (if n = getF s fBP_CTL_count d i then bpFire s d h i p else s, link, ok)
  else (s, link, ok)

/-- Run the comparators from number `k` on. -/
def bpFrom (d : Die) (h : Nat) (p : Probe) : List Nat → State × Nat × Bool → State
  | [], r => r.1
  | k :: ks, (s, prev) => bpFrom d h p ks (bpOne s d h k p prev)

/-- Show the comparators of a harness a probe (R461, R462). -/
def bpProbe (s : State) (d : Die) (h : Nat) (p : Probe) : State :=
  if (List.range 16).any (fun k => flagF s fBP_CTL_en d (h * 16 + k)) then
    bpFrom d h p (List.range 16) (s, 0, false)
  else s

end Sys2Proof.Machine
end

