-- ==== Sys2Proof/Machine/Crypto.lean ====
section
/-! DEFINITION. The standards that the manual names for images and unlocks (R359, R370 to R372, R375, R458): SHA-384 (FIPS 180-4),
HMAC (FIPS 198-1), the KDF in counter mode (NIST SP 800-108), AES-256 (FIPS 197) with GCM (NIST SP 800-38D) and key wrap (RFC 3394),
and the verification of ECDSA P-384 (FIPS 186-5). The manual names them and does not restate them (PRESUMED, log entry 5). -/

namespace Sys2Proof.Machine

/-! ## Bytes in groups -/

/-- Bytes in groups of `k`. -/
def bytesBy (k n : Nat) (bs : List Byte) : List (List Byte) := (List.range n).map (fun i => (bs.drop (k * i)).take k)

/-! ## SHA-384 (FIPS 180-4) -/

/-- The 80 round constants. -/
def shaConsts : List Nat :=
  [0x428a2f98d728ae22, 0x7137449123ef65cd, 0xb5c0fbcfec4d3b2f, 0xe9b5dba58189dbbc, 0x3956c25bf348b538, 0x59f111f1b605d019,
   0x923f82a4af194f9b, 0xab1c5ed5da6d8118, 0xd807aa98a3030242, 0x12835b0145706fbe, 0x243185be4ee4b28c, 0x550c7dc3d5ffb4e2,
   0x72be5d74f27b896f, 0x80deb1fe3b1696b1, 0x9bdc06a725c71235, 0xc19bf174cf692694] ++
  [0xe49b69c19ef14ad2, 0xefbe4786384f25e3, 0x0fc19dc68b8cd5b5, 0x240ca1cc77ac9c65, 0x2de92c6f592b0275, 0x4a7484aa6ea6e483,
   0x5cb0a9dcbd41fbd4, 0x76f988da831153b5, 0x983e5152ee66dfab, 0xa831c66d2db43210, 0xb00327c898fb213f, 0xbf597fc7beef0ee4,
   0xc6e00bf33da88fc2, 0xd5a79147930aa725, 0x06ca6351e003826f, 0x142929670a0e6e70] ++
  [0x27b70a8546d22ffc, 0x2e1b21385c26c926, 0x4d2c6dfc5ac42aed, 0x53380d139d95b3df, 0x650a73548baf63de, 0x766a0abb3c77b2a8,
   0x81c2c92e47edaee6, 0x92722c851482353b, 0xa2bfe8a14cf10364, 0xa81a664bbc423001, 0xc24b8b70d0f89791, 0xc76c51a30654be30,
   0xd192e819d6ef5218, 0xd69906245565a910, 0xf40e35855771202a, 0x106aa07032bbd1b8] ++
  [0x19a4c116b8d2d0c8, 0x1e376c085141ab53, 0x2748774cdf8eeb99, 0x34b0bcb5e19b48a8, 0x391c0cb3c5c95a63, 0x4ed8aa4ae3418acb,
   0x5b9cca4f7763e373, 0x682e6ff3d6b2b8a3, 0x748f82ee5defb2fc, 0x78a5636f43172f60, 0x84c87814a1f0ab72, 0x8cc702081a6439ec,
   0x90befffa23631e28, 0xa4506cebde82bde9, 0xbef9a3f7b2c67915, 0xc67178f2e372532b] ++
  [0xca273eceea26619c, 0xd186b8c721c0c207, 0xeada7dd6cde0eb1e, 0xf57d4f7fee6ed178, 0x06f067aa72176fba, 0x0a637dc5a2c898a6,
   0x113f9804bef90dae, 0x1b710b35131c471b, 0x28db77f523047d84, 0x32caab7b40c72493, 0x3c9ebe0a15c9bebc, 0x431d67c49c100d4c,
   0x4cc5d4becb3e42b6, 0x597f299cfc657e2a, 0x5fcb6fab3ad6faec, 0x6c44198c4a475817]

/-- A 64-bit word rotated right. -/
def rotr64 (k n : Nat) : Nat := (n >>> k ||| n <<< (64 - k)) % 2 ^ 64

/-- One round with its constant and message word, on the eight working words. -/
def shaRound (k w : Nat) (v : List Nat) : List Nat :=
  match v with
  | [a, b, c, d, e, f, g, h] =>
    let s1 := rotr64 14 e ^^^ rotr64 18 e ^^^ rotr64 41 e
    let ch := (e &&& f) ^^^ ((2 ^ 64 - 1 - e) &&& g)
    let t1 := h + s1 + ch + k + w
    let s0 := rotr64 28 a ^^^ rotr64 34 a ^^^ rotr64 39 a
    let maj := (a &&& b) ^^^ (a &&& c) ^^^ (b &&& c)
    [(t1 + s0 + maj) % 2 ^ 64, a, b, c, (d + t1) % 2 ^ 64, e, f, g]
  | _ => v

/-- The message word after sixteen. -/
def shaNext (ws : List Nat) : Nat :=
  let w1 := ws.getD 1 0
  let w14 := ws.getD 14 0
  let s0 := rotr64 1 w1 ^^^ rotr64 8 w1 ^^^ w1 >>> 7
  let s1 := rotr64 19 w14 ^^^ rotr64 61 w14 ^^^ w14 >>> 6
  (ws.getD 0 0 + s0 + ws.getD 9 0 + s1) % 2 ^ 64

/-- The rounds of a block, with the message words that come. -/
def shaRounds : List Nat → List Nat → List Nat → List Nat
  | [], _, v => v
  | k :: ks, ws, v => shaRounds ks (ws.tail ++ [shaNext ws]) (shaRound k (ws.headD 0) v)

/-- The words after a block of 128 bytes. -/
def shaBlock (h : List Nat) (block : List Byte) : List Nat :=
  ((h.zip (shaRounds shaConsts ((bytesBy 8 16 block).map beNat) h)).map (fun e => (e.1 + e.2) % 2 ^ 64))

/-- The digest before any byte. -/
def shaInit : ShaSt where
  words := [0xcbbb9d5dc1059ed8, 0x629a292a367cd507, 0x9159015a3070dd17, 0x152fecd8f70e5939, 0x67332667ffc00b31,
            0x8eb44a8768581511, 0xdb0c2e0d64f98fa7, 0x47b5481dbefa4fa4]
  rest := []
  count := 0

/-- A running digest with further bytes. -/
def shaUpdate (t : ShaSt) (bs : List Byte) : ShaSt :=
  let all := t.rest ++ bs
  let n := all.length / 128
  { words := (bytesBy 128 n all).foldl shaBlock t.words, rest := all.drop (128 * n), count := t.count + bs.length }

/-- The 48 bytes of the digest of all the bytes. -/
def shaFinal (t : ShaSt) : List Byte :=
  let zeros := (128 + 111 - t.rest.length) % 128
  let e := shaUpdate t ([0x80] ++ List.replicate zeros 0 ++ beBytes 16 (8 * t.count))
  (e.words.take 6).flatMap (beBytes 8)

/-- SHA-384. -/
def sha384 (bs : List Byte) : List Byte := shaFinal (shaUpdate shaInit bs)

/-- A SHA-384 digest as a number. -/
def sha384Nat (bs : List Byte) : Nat := beNat (sha384 bs)

/-! ## HMAC-SHA-384 and the KDF (FIPS 198-1, NIST SP 800-108) -/

/-- HMAC with SHA-384, for a key of at most 128 bytes. -/
def hmac384 (key msg : List Byte) : List Byte :=
  let k := key ++ List.replicate (128 - key.length) 0
  sha384 (k.map (fun b => b ^^^ 0x5C) ++ sha384 (k.map (fun b => b ^^^ 0x36) ++ msg))

/-- The label of R371: the ASCII bytes "EPIMAGE". -/
def kdfLabel : List Byte := [0x45, 0x50, 0x49, 0x4D, 0x41, 0x47, 0x45]

/-- The KDF of R371: one block of counter mode, with a 32-bit counter before label, zero byte, context and the length in bits. -/
def deriveKey (key : Nat) (ctx : List Byte) : Nat :=
  beNat ((hmac384 (beBytes 32 key) (beBytes 4 1 ++ kdfLabel ++ [0] ++ ctx ++ beBytes 4 256)).take 32)

/-! ## AES-256 (FIPS 197) -/

/-- A byte of the field of AES multiplied by x. -/
def xtime (a : Nat) : Nat := if a < 128 then 2 * a else (2 * a - 256) ^^^ 0x1B

/-- A product in the field of AES, over the low `n` bits of the second factor. -/
def gfMul : Nat → Nat → Nat → Nat
  | 0, _, _ => 0
  | n + 1, a, b => (if b % 2 = 1 then a else 0) ^^^ gfMul n (xtime a) (b / 2)

/-- The rows of the S-box of FIPS 197: byte `a` is in row `a / 16`, column `a % 16` from the left. -/
def sBox : List Nat :=
  [0x637c777bf26b6fc53001672bfed7ab76, 0xca82c97dfa5947f0add4a2af9ca472c0, 0xb7fd9326363ff7cc34a5e5f171d83115,
   0x04c723c31896059a071280e2eb27b275, 0x09832c1a1b6e5aa0523bd6b329e32f84, 0x53d100ed20fcb15b6acbbe394a4c58cf,
   0xd0efaafb434d338545f9027f503c9fa8, 0x51a3408f929d38f5bcb6da2110fff3d2, 0xcd0c13ec5f974417c4a77e3d645d1973,
   0x60814fdc222a908846eeb814de5e0bdb, 0xe0323a0a4906245cc2d3ac629195e479, 0xe7c8376d8dd54ea96c56f4ea657aae08,
   0xba78252e1ca6b4c6e8dd741f4bbd8b8a, 0x703eb5664803f60e613557b986c11d9e, 0xe1f8981169d98e949b1e87e9ce5528df,
   0x8ca1890dbfe6426841992d0fb054bb16]

/-- The rows of the inverse S-box. -/
def sBoxBack : List Nat :=
  [0x52096ad53036a538bf40a39e81f3d7fb, 0x7ce339829b2fff87348e4344c4dee9cb, 0x547b9432a6c2233dee4c950b42fac34e,
   0x082ea16628d924b2765ba2496d8bd125, 0x72f8f66486689816d4a45ccc5d65b692, 0x6c704850fdedb9da5e154657a78d9d84,
   0x90d8ab008cbcd30af7e45805b8b34506, 0xd02c1e8fca3f0f02c1afbd0301138a6b, 0x3a9111414f67dcea97f2cfcef0b4e673,
   0x96ac7422e7ad3585e2f937e81c75df6e, 0x47f11a711d29c5896fb7620eaa18be1b, 0xfc563e4bc6d279209adbc0fe78cd5af4,
   0x1fdda8338807c731b11210592780ec5f, 0x60517fa919b54a0d2de57a9f93c99cef, 0xa0e03b4dae2af5b0c8ebbb3c83539961,
   0x172b047eba77d626e169146355210c7d]

/-- The byte of a table at a place. -/
def boxAt (rows : List Nat) (a : Nat) : Nat := rows.getD (a / 16) 0 / 256 ^ (15 - a % 16) % 256

/-- The S-box. -/
def subByte (a : Nat) : Nat := boxAt sBox a

/-- The inverse S-box. -/
def unsubByte (a : Nat) : Nat := boxAt sBoxBack a

/-- Two lists of bytes added. -/
def xorList (a b : List Nat) : List Nat := (a.zip b).map (fun e => e.1 ^^^ e.2)

/-- The words of the key schedule of a 32-byte key, `n` more after those there are. -/
def keyWords : Nat → List (List Nat) → List (List Nat)
  | 0, ws => ws
  | n + 1, ws =>
    let i := ws.length
    let t := ws.getD (i - 1) []
    let t := if i % 8 = 0 then xorList ((t.drop 1 ++ t.take 1).map subByte) [2 ^ (i / 8 - 1), 0, 0, 0]
      else if i % 8 = 4 then t.map subByte else t
    keyWords n (ws ++ [xorList (ws.getD (i - 8) []) t])

/-- The 15 round keys of a key. -/
def roundKeys (key : Nat) : List (List Nat) :=
  let ws := keyWords 52 ((bytesBy 4 8 (beBytes 32 key)).map (fun w => w.map (fun b => b.toNat)))
  (List.range 15).map (fun r => ((ws.drop (4 * r)).take 4).flatten)

/-- The rows of a state shifted, or shifted back; the state stands column by column. -/
def shiftRows (back : Bool) (t : List Nat) : List Nat :=
  (List.range 16).map (fun i => t.getD ((i + (if back then 12 else 4) * (i % 4)) % 16) 0)

/-- The columns of a state mixed with the first row of a circulant matrix. -/
def mixColumns (row : List Nat) (t : List Nat) : List Nat :=
  (List.range 16).map (fun i => (List.range 4).foldl (fun n j =>
    n ^^^ gfMul 4 (t.getD (i / 4 * 4 + j) 0) (row.getD ((j + 4 - i % 4) % 4) 0)) 0)

/-- The rounds of the cipher; the last has no mixing of columns. -/
def aesRounds : List (List Nat) → List Nat → List Nat
  | [], t => t
  | [k], t => xorList (shiftRows false (t.map subByte)) k
  | k :: ks, t => aesRounds ks (xorList (mixColumns [2, 3, 1, 1] (shiftRows false (t.map subByte))) k)

/-- The rounds of the inverse cipher. -/
def aesBack : List (List Nat) → List Nat → List Nat
  | [], t => t
  | [k], t => xorList ((shiftRows true t).map unsubByte) k
  | k :: ks, t => aesBack ks (mixColumns [14, 11, 13, 9] (xorList ((shiftRows true t).map unsubByte) k))

/-- A block of 16 bytes encrypted with round keys. -/
def aesEncrypt (ks : List (List Nat)) (block : List Byte) : List Byte :=
  (aesRounds (ks.drop 1) (xorList (block.map (fun b => b.toNat)) (ks.headD []))).map (BitVec.ofNat 8)

/-- A block of 16 bytes decrypted with round keys. -/
def aesDecrypt (ks : List (List Nat)) (block : List Byte) : List Byte :=
  (aesBack (ks.reverse.drop 1) (xorList (block.map (fun b => b.toNat)) (ks.reverse.headD []))).map (BitVec.ofNat 8)

/-! ## GCM (NIST SP 800-38D) -/

/-- A product in the field of GCM, over `n` bits of the first factor from the most significant of the 128 on. -/
def ghashMul : Nat → Nat → Nat → Nat
  | 0, _, _ => 0
  | n + 1, x, v => (if bitOf x n then v else 0) ^^^ ghashMul n x (if v % 2 = 1 then v / 2 ^^^ 0xE1 * 2 ^ 120 else v / 2)

/-- Bytes filled with zeros to whole blocks. -/
def padBlocks (bs : List Byte) : List Byte := bs ++ List.replicate ((16 - bs.length % 16) % 16) 0

/-- GHASH of whole blocks under a hash key. -/
def ghash (h : Nat) (bs : List Byte) : Nat :=
  ((bytesBy 16 (bs.length / 16) bs).map beNat).foldl (fun y x => ghashMul 128 (y ^^^ x) h) 0

/-- Bytes added to the key stream that starts after a counter block of a 12-byte iv. -/
def gcmStream (ks : List (List Nat)) (iv bs : List Byte) : List Byte :=
  (bs.zip ((List.range ((bs.length + 15) / 16)).flatMap (fun i => aesEncrypt ks (iv ++ beBytes 4 (i + 2))))).map
    (fun e => e.1 ^^^ e.2)

/-- The tag of a ciphertext. -/
def gcmTag (ks : List (List Nat)) (aad iv ct : List Byte) : List Byte :=
  let h := beNat (aesEncrypt ks (List.replicate 16 0))
  let y := ghash h (padBlocks aad ++ padBlocks ct ++ beBytes 8 (8 * aad.length) ++ beBytes 8 (8 * ct.length))
  beBytes 16 (y ^^^ beNat (aesEncrypt ks (iv ++ beBytes 4 1)))

/-- AES-256-GCM with a 12-byte iv opened: the plaintext, if the tag verifies (R370). -/
def openGcm (key : Nat) (aad iv ct tag : List Byte) : Option (List Byte) :=
  let ks := roundKeys key
  if gcmTag ks aad iv ct = tag then some (gcmStream ks iv ct) else none

/-! ## Key wrap (RFC 3394) -/

/-- One step of the unwrap: the register and the blocks after step `t` is undone. -/
def unwrapStep (ks : List (List Nat)) (r : List Byte × List (List Byte)) (t : Nat) : List Byte × List (List Byte) :=
  let i := (t - 1) % 4
  let b := aesDecrypt ks (beBytes 8 (beNat r.1 ^^^ t) ++ r.2.getD i [])
  (b.take 8, listSet r.2 i (b.drop 8))

/-- The 256-bit key that 40 wrapped bytes hold, if its integrity check passes (R372). -/
def unwrapKey (key : Nat) (wrapped : List Byte) : Option Nat :=
  let r := ((List.range 24).map (fun i => 24 - i)).foldl (unwrapStep (roundKeys key)) (wrapped.take 8, bytesBy 8 4 (wrapped.drop 8))
  if r.1 = List.replicate 8 0xA6 ∧ wrapped.length = 40 then some (beNat r.2.flatten) else none

/-! ## ECDSA P-384 (FIPS 186-5) -/

/-- The prime of the field. -/
def p384p : Nat := 2 ^ 384 - 2 ^ 128 - 2 ^ 96 + 2 ^ 32 - 1
/-- The order of the base point. -/
def p384n : Nat := 0xffffffffffffffffffffffffffffffffffffffffffffffffc7634d81f4372ddf581a0db248b0a77aecec196accc52973
/-- The constant of the curve y² = x³ − 3x + b. -/
def p384b : Nat := 0xb3312fa7e23ee7e4988e056be3f82d19181d9c6efe8141120314088f5013875ac656398d8a2ed19d2a85c8edd3ec2aef
/-- The base point, in Jacobian coordinates. -/
def p384g : Nat × Nat × Nat :=
  (0xaa87ca22be8b05378eb1c71ef320ad746e1d3b628ba79b9859f741e082542a385502f25dbf55296c3a545e3872760ab7,
   0x3617de4a96262c6f5d9e98bf9292dc29f8f41dbd289a147ce9da3113b5f0b8c00a60b1ce1d7e819d7a431d7c90ea0e5f, 1)

/-- A power modulo m, over the low `n` bits of the exponent. -/
def powMod (m : Nat) : Nat → Nat → Nat → Nat
  | 0, _, _ => 1
  | n + 1, a, e => (if e % 2 = 1 then a else 1) * powMod m n (a * a % m) (e / 2) % m

/-- A difference modulo the prime. -/
def subP (a b : Nat) : Nat := (a + p384p - b % p384p) % p384p

/-- A point added to itself; z = 0 is the point at infinity. -/
def p384Dbl (q : Nat × Nat × Nat) : Nat × Nat × Nat :=
  let (x, y, z) := q
  let zz := z * z % p384p
  let m := 3 * (subP x zz * (x + zz)) % p384p
  let yy := y * y % p384p
  let s := 4 * x * yy % p384p
  let x3 := subP (m * m) (2 * s)
  (x3, subP (m * subP s x3) (8 * yy * yy), 2 * y * z % p384p)

/-- The sum of two points. -/
def p384Add (a b : Nat × Nat × Nat) : Nat × Nat × Nat :=
  let (x1, y1, z1) := a
  let (x2, y2, z2) := b
  if z1 = 0 then b
  else if z2 = 0 then a
  else
    let u1 := x1 * (z2 * z2) % p384p
    let u2 := x2 * (z1 * z1) % p384p
    let s1 := y1 * (z2 * z2 * z2) % p384p
    let s2 := y2 * (z1 * z1 * z1) % p384p
    let h := subP u2 u1
    let r := subP s2 s1
    if h = 0 then (if r = 0 then p384Dbl a else (1, 1, 0))
    else
      let hh := h * h % p384p
      let x3 := subP (subP (r * r) (hh * h)) (2 * u1 * hh)
      (x3, subP (r * subP (u1 * hh) x3) (s1 * hh * h), h * z1 * z2 % p384p)

/-- A multiple of a point, over the low `n` bits of the factor. -/
def p384Mul : Nat → Nat → Nat × Nat × Nat → Nat × Nat × Nat
  | 0, _, _ => (1, 1, 0)
  | n + 1, k, q =>
    let r := p384Mul n (k / 2) (p384Dbl q)
    if k % 2 = 1 then p384Add q r else r

/-- Is a pair of numbers a point of the curve? -/
def onCurve (x y : Nat) : Bool :=
  decide (x < p384p) && decide (y < p384p) && decide (y * y % p384p = (subP (x * x * x) (3 * x) + p384b) % p384p)

/-- Does a signature, r and s of 48 bytes, verify over a digest with an uncompressed public key (R375)? -/
def ecdsaVerify (pub sig : List Byte) (digest : Nat) : Bool :=
  let x := beNat ((pub.drop 1).take 48)
  let y := beNat ((pub.drop 49).take 48)
  let r := beNat (sig.take 48)
  let s := beNat ((sig.drop 48).take 48)
  let w := powMod p384n 384 s (p384n - 2)
  let q := p384Add (p384Mul 384 (digest * w % p384n) p384g) (p384Mul 384 (r * w % p384n) (x, y, 1))
  let z := powMod p384p 384 q.2.2 (p384p - 2)
  decide (pub.headD 0 = 4) && onCurve x y && decide (1 ≤ r ∧ r < p384n) && decide (1 ≤ s ∧ s < p384n) && decide (q.2.2 ≠ 0) &&
    decide (q.1 * (z * z) % p384p % p384n = r)

end Sys2Proof.Machine
end

