-- ==== Sys2Proof/Machine/Endpoints.lean ====
section
/-! DEFINITION. The network's shape and its packets: the links between the routers (R220, R221), endpoints (R222), routes and the
up/down rule (R233), the flit header (R225) and the flits of a packet (R224, R226). -/

namespace Sys2Proof.Machine

/-! ## Topology (R220, R221) -/

/-- The links between the routers of a die, each a pair of one-way links: the spine, the ribs, the ring and the spine ends
(R221). Routers 0 to 5 are S0 to S5, 6 to 11 RW0 to RW5, 12 to 17 RE0 to RE5, and 18 to 41 P0 to P23 (R220). -/
def netLinks : List (Nat × Nat) :=
  (List.range 5).map (fun r => (r, r + 1)) ++
    (List.range 6).flatMap (fun r => [(6 + r, r), (12 + r, r), (6 + r, 18 + (23 - r)), (12 + r, 18 + (4 + r))]) ++
    (List.range 24).map (fun i => (18 + i, 18 + (i + 1) % 24)) ++ [(0, 18 + 2), (5, 18 + 13), (5, 18 + 14)]

/-- The routers that a router is joined to, in the order of R221's list. -/
def joinedTo (r : Nat) : List Nat :=
  netLinks.filterMap (fun e => if e.1 = r then some e.2 else if e.2 = r then some e.1 else none)

/-- The router at the far end of an output link, if the router has that link (R249). -/
def linkEnd (r l : Nat) : Option Nat := if l < 6 then (joinedTo r)[Config.outLink r l]? else none

/-! ## Endpoints (R222) -/

/-- The die, router and port of an endpoint identifier (R222). -/
def epDie (e : BitVec 9) : Die := if bitOf e.toNat 8 then 1 else 0
def epRouter (e : BitVec 9) : Nat := bitsOf e.toNat 7 2
def epPort (e : BitVec 9) : Nat := bitsOf e.toNat 1 0

/-- The local index of the power domain of an endpoint, if there is one there (R211, R222). -/
def epDomain (e : BitVec 9) : Option Nat :=
  let r := epRouter e
  let p := epPort e
  let zero (i : Nat) : Option Nat := if p = 0 then some i else none
  let onZero (i : Nat) : Option Nat := if epDie e = 0 then some i else none
  if r = 2 ∨ r = 3 then zero 56
  else if 6 ≤ r ∧ r < 12 ∧ p < 3 then some (6 * (r - 6) + p)
  else if 12 ≤ r ∧ r < 18 ∧ p < 3 then some (6 * (r - 12) + 3 + p)
  else if r = 18 then zero 61
  else if r = 19 then zero 59
  else if r = 20 then (match p with
    | 0 => some 60
    | 1 => some 57
    | 2 => onZero 64
    | _ => none)
  else if r = 21 then (match p with
    | 0 => some 58
    | 1 => onZero 62
    | 2 => onZero 63
    | _ => none)
  else if 22 ≤ r ∧ r < 28 then zero (36 + (r - 22))
  else if 28 ≤ r ∧ r < 36 then zero (48 + (r - 28))
  else if 36 ≤ r ∧ r < 42 then zero (36 + (r - 30))
  else none

/-- The endpoint of a die with a router and port number. -/
def endpointOf (d : Die) (ep : BitVec 8) : BitVec 9 := BitVec.ofNat 9 (d.val * 256 + ep.toNat)

/-! ## Routes (R233) -/

/-- The router at which the packets of a table entry leave the die's routers: entry 42 is the other die, whose packets leave at
the link half on P0 (R222, R233). -/
def entryRouter (e : Nat) : Nat := if e = 42 then 18 else e

/-- The routers that a packet passes from router `r` under an entry of the tables, when it reaches that entry's router and leaves
there (link 7); `n` bounds the routers, of which a die has 42. -/
def walkRoute (tab : Nat → Nat → Nat) (e : Nat) : Nat → Nat → Option (List Nat)
  | 0, _ => none
  | n + 1, r =>
    if tab r e = 7 then (if r = entryRouter e then some [r] else none)
    else
      match linkEnd r (tab r e) with
      | none => none
      | some q => (walkRoute tab e n q).map (r :: ·)

/-- The routers that such a packet visits whether or not it arrives. -/
def visited (tab : Nat → Nat → Nat) (e : Nat) : Nat → Nat → List Nat
  | 0, _ => []
  | n + 1, r =>
    match linkEnd r (tab r e) with
    | none => [r]
    | some q => r :: visited tab e n q

/-- Does a link lead towards a lower rank, where ties are broken by router number (R233)? -/
def leadsDown (a b : Nat) : Bool :=
  decide (Config.routerRank b < Config.routerRank a) || (decide (Config.routerRank b = Config.routerRank a) && decide (b < a))

/-- Does a route pass first only links towards a lower rank and then only links towards a higher one (R233)? `up` says that it has
already turned up. -/
def upDown : Bool → List Nat → Bool
  | up, a :: b :: rs => if leadsDown a b then !up && upDown false (b :: rs) else upDown true (b :: rs)
  | _, _ => true

/-- Does a route set of a die satisfy the up/down rule: each route arrives, and goes down before it goes up (R233)? -/
def routesOk (tab : Nat → Nat → Nat) : Bool :=
  (List.range 42).all (fun r => (List.range 43).all (fun e =>
    match walkRoute tab e 42 r with
    | some rs => upDown false rs
    | none => false))

/-! ## The flit header (R225) -/

/-- The code of a message class (R225). -/
def classNo : MsgClass → Nat
  | .request => 0
  | .response => 1
  | .spill => 2
  | .event => 3

/-- The message class of a code. -/
def classOf (n : Nat) : MsgClass := if n = 0 then .request else if n = 1 then .response else if n = 2 then .spill else .event

/-- The header of a packet's flits (R225); a response carries its status in place of an address. -/
def headerOf (p : Packet) : BitVec 64 :=
  BitVec.ofNat 64 (classNo p.cls * 2 ^ 62 + bitN p.gen * 2 ^ 61 + p.dst.toNat * 2 ^ 52 + p.src.toNat * 2 ^ 43 + p.op.toNat * 2 ^ 38 +
    p.len.toNat * 2 ^ 34 + p.token.toNat * 2 ^ 26 + (if p.cls = .response then p.status.toNat * 2 ^ 21 else p.addr.toNat))

/-- Is a packet a register access (R226)? -/
def isCfgr (p : Packet) : Bool := decide (p.cls = .request ∧ p.op = 6)

/-- The payload as it travels: R226 gives that of a register access no layout, and the model puts the word in bytes 0 to 3 and the
write, inspect and word bits in byte 4 (log entry 210). -/
def wireData (p : Packet) : List Byte :=
  if isCfgr p then padTo 4 (p.data.take 4) ++ [BitVec.ofNat 8 (bitN p.write + 2 * bitN p.inspect + 16 * p.sub.toNat)] else p.data

/-- The packet of a header and a payload. -/
def packetOf (h : BitVec 64) (data : List Byte) : Packet :=
  let n := h.toNat
  let cls := classOf (bitsOf n 63 62)
  let op : BitVec 5 := BitVec.ofNat 5 (bitsOf n 42 38)
  let cfgr := decide (cls = .request ∧ op = 6)
  let ctl := fieldAt data 4 1
  { cls := cls, gen := bitOf n 61, dst := BitVec.ofNat 9 (bitsOf n 60 52), src := BitVec.ofNat 9 (bitsOf n 51 43), op := op,
    len := BitVec.ofNat 4 (bitsOf n 37 34), token := BitVec.ofNat 8 (bitsOf n 33 26),
    addr := if cls = .response then 0 else BitVec.ofNat 26 (bitsOf n 25 0),
    status := if cls = .response then BitVec.ofNat 5 (bitsOf n 25 21) else 0,
    write := cfgr && bitOf ctl 0, inspect := cfgr && bitOf ctl 1,
    data := if cfgr then data.take 4 else data, sub := if cfgr then BitVec.ofNat 4 (ctl / 16) else 0 }

/-! ## Flits (R224) -/

/-- The flits of a packet: the len field of a request to read a burst counts those of its response, and the request is one flit
(R224, R226). -/
def flitCount (cls op len : Nat) : Nat := if cls = 0 ∧ op = 3 then 1 else len + 1

/-- The flits of a packet: the header in the top 64 bits of each (log entry 30), then 64 bytes of the payload. -/
def flitsOf (p : Packet) : List (BitVec 576) :=
  (List.range (flitCount (classNo p.cls) p.op.toNat p.len.toNat)).map (fun k =>
    BitVec.ofNat 576 ((headerOf p).toNat * 2 ^ 512 + leNat (padTo 64 ((wireData p).drop (64 * k) |>.take 64))))

/-- The header and the payload bytes of a flit. -/
def flitHeader (f : BitVec 576) : BitVec 64 := BitVec.ofNat 64 (bitsOf f.toNat 575 512)
def flitData (f : BitVec 576) : List Byte := leBytes 64 (bitsOf f.toNat 511 0)

/-- The class of a flit (R225). -/
def flitClass (f : BitVec 576) : Nat := bitsOf f.toNat 575 574

/-- How many flits the packet of a flit has. -/
def flitsNeeded (f : BitVec 576) : Nat :=
  let h := (flitHeader f).toNat
  flitCount (bitsOf h 63 62) (bitsOf h 42 38) (bitsOf h 37 34)

end Sys2Proof.Machine
end

