-- ==== Sys2Proof/Machine/HbmErrors.lean ====
section
/-! DEFINITION. What the HBM controller does on errors: uncorrectable reads (R263), corrected granules (R262), and the
retirement of pages and pseudo-channels (R266); and the errors that bank memories count (R254). A page's retirement counts for the pseudo-channel of the granule that
failed (log entry 32). -/

namespace Sys2Proof.Machine

/-- The pseudo-channel of a logical offset (R260). -/
def pcOf (off : Nat) : Nat := Nat.xor (off / 256 % 32) (off / 256 / 32 % 32)

/-- Twenty-four hours in ticks. -/
def dayTicks : Nat := 24 * 3600 * 25000000

/-- Is a granule in a range marked poisoned (R266)? -/
def poisoned (s : State) (d : Die) (off n : Nat) : Bool :=
  (getHbm s d).poison.any (fun g => decide (off < g * 32 + 32) && decide (g * 32 < off + n))

/-- Raise the retirement event of a stack with a page (R341). -/
def retireEvent (s : State) (d : Die) (page : Nat) : State := raiseEvent s 0x12 d (BitVec.ofNat 32 d.val) (BitVec.ofNat 32 page)

/-- Show what is retired in HBM_RET. -/
def showRetired (s : State) (d : Die) : State :=
  let m := getHbm s d
  let s := setF s fHBM_RET_pages d 0 m.pages.length
  match m.pc with
  | some p => setF (setF s fHBM_RET_pc_ret d 0 1) fHBM_RET_pc d 0 p
  | none => s

/-- Retire a pseudo-channel, the only one a stack may retire (R266). -/
def retirePc (s : State) (d : Die) (pc page : Nat) : State :=
  let m := getHbm s d
  if m.pc.isSome then s
  else retireEvent (setF (showRetired (setHbm s d { m with pc := some pc }) d) fHBM_RET_copying d 0 1) d page

/-- The firmware withdraws the granule of a page that cannot be retired from allocation (R266). -/
def withdrawGranule (s : State) (d : Die) (page : Nat) : State :=
  let m := getHbm s d
  if m.bad.contains page then s else setHbm s d { m with bad := m.bad ++ [page] }

/-- Retire the page of an offset (R266). -/
def retirePage (s : State) (d : Die) (off : Nat) : State :=
  let m := getHbm s d
  let page := off / 4096
  if m.pages.contains page then s
  else if 32768 ≤ m.pages.length then withdrawGranule (retireEvent s d page) d page
  else
    let recent := m.pageAt.filter (fun e => decide (s.vigil.ticks < e.2 + dayTicks))
    let s := setHbm s d { m with pages := m.pages ++ [page], pageAt := recent ++ [(pcOf off, s.vigil.ticks)],
                                 ceAt := m.ceAt.filter (fun e => decide (e.1 ≠ page)) }
    let s := retireEvent (showRetired s d) d page
    let n := (recent.filter (fun e => decide (e.1 = pcOf off))).length + 1
    if 64 ≤ n then retirePc s d (pcOf off) page else s

/-- An uncorrectable error is read at an offset (R263): recorded, counted, and the page retired with the failed granule
marked poisoned. -/
def demandUe (s : State) (d : Die) (off : Nat) : State :=
  let s := countF s fHBM_ECC_ue d 0
  let s := setF (setF s fHBM_UE_ADDR_valid d 0 1) fHBM_UE_ADDR_page d 0 (off / 4096)
  let m := getHbm s d
  let s := if m.poison.contains (off / 32) then s else setHbm s d { m with poison := m.poison ++ [off / 32] }
  retirePage s d off

/-- A granule is corrected (R262): counted, and the fourth in a page within 24 hours retires it. -/
def correctedAt (s : State) (d : Die) (off : Nat) : State :=
  let s := countF s fHBM_ECC_ce d 0
  let m := getHbm s d
  let ces := m.ceAt.filter (fun e => decide (s.vigil.ticks < e.2 + dayTicks)) ++ [(off / 4096, s.vigil.ticks)]
  let s := setHbm s d { m with ceAt := ces }
  if 4 ≤ (ces.filter (fun e => decide (e.1 = off / 4096))).length then retirePage s d off else s

/-- A read of `n` bytes of a stack (R262, R263), with what its check finds in the granule at a place of it: the state, and whether
a granule could not be corrected or is marked poisoned. -/
def stackCheck (s : State) (d : Die) (off n : Nat) (ecc : ReadOutcome) (pos : Nat) : State × Bool :=
  let at_ := off + 32 * pos
  let fresh := decide (ecc = .uncorrectable) && decide (at_ < off + n)
  if fresh then (demandUe s d at_, true)
  else if poisoned s d off n then
    match (getHbm s d).poison.find? (fun g => decide (off < g * 32 + 32) && decide (g * 32 < off + n)) with
    | some g => (demandUe s d (g * 32), true)
    | none => (s, false)
  else
    match ecc with
    | .corrected => (correctedAt s d at_, false)
    | .onDie => (countF s fHBM_ECC_ode d 0, false)
    | _ => (s, false)

/-! ## On-die memories (R251, R254, R255) -/

/-- What the check of a bank memory finds is counted in MEM_ECC (R254, R273): the state, and whether a word could not be
corrected. -/
def bankCheck (s : State) (d : Die) (ecc : ReadOutcome) : State × Bool :=
  match ecc with
  | .corrected => (countF s fMEM_ECC_ce d 0, false)
  | .uncorrectable => (countF s fMEM_ECC_ue_bank d 0, true)
  | _ => (s, false)

end Sys2Proof.Machine
end

