-- ==== Sys2Proof/Machine/Master.lean ====
section
/-! DEFINITION. The draft master copy (R365) and what the loader writes from it into the array: drafts, treadling
tables and constants, at a swap (R112), a darning (R117), a power-up (R198, R214) and a start-up (R384). A word of
scratch is constant when it lies in no write range of a draft of the bank, and a shared register when no draft of
its set owns it (R39, R52; log entry 20). -/

namespace Sys2Proof.Machine

/-- The bytes of a bank of a harness in the master copy. -/
def masterRead (s : State) (d : Die) (h : Nat) (bank : Bool) (o n : Nat) : List Byte :=
  memRead s.mem.master (masterAddr d h bank o) n

/-- Write bytes of a bank in the master copy. -/
def masterWrite (s : State) (d : Die) (h : Nat) (bank : Bool) (o : Nat) (bs : List Byte) : State :=
  { s with mem.master := memWrite s.mem.master (masterAddr d h bank o) bs }

/-- The offsets of R365 in a bank. -/
def masterCellOff (i slot : Nat) : Nat := 24 * (16 * i + slot)
def masterReedOff (i slot : Nat) : Nat := 24576 + 12 * (16 * i + slot)
def masterConstOff (i w : Nat) : Nat := 36864 + 2112 * i + 4 * w
def masterTableOff (e : Nat) : Nat := 172032 + 4 * e

/-- A cell draft of the master copy. -/
def masterCellDraft (s : State) (d : Die) (h : Nat) (bank : Bool) (i slot : Nat) : BitVec 192 :=
  BitVec.ofNat 192 (leNat (masterRead s d h bank (masterCellOff i slot) 24))

/-- A reed draft of the master copy. -/
def masterReedDraft (s : State) (d : Die) (h : Nat) (bank : Bool) (i slot : Nat) : BitVec 96 :=
  BitVec.ofNat 96 (leNat (masterRead s d h bank (masterReedOff i slot) 12))

/-- A constant word of the master copy. -/
def masterConst (s : State) (d : Die) (h : Nat) (bank : Bool) (i w : Nat) : Word :=
  BitVec.ofNat 32 (leNat (masterRead s d h bank (masterConstOff i w) 4))

/-- The drafts of cell i in a bank of the master copy. -/
def masterCellDrafts (s : State) (d : Die) (h : Nat) (bank : Bool) (i : Nat) : List CellDraft :=
  (List.range 16).map (fun k => cellDraftOf (masterCellDraft s d h bank i k))

/-- The scratch words that the drafts of a cell write. -/
def writtenWords (ds : List CellDraft) : List Nat :=
  (ds.filter (fun c => c.en)).flatMap (fun c => scrRange c.wr)

/-- Does a draft of slots 0–13 (or of 14 and 15, for the shadow set) own a shared register (R31, R39)? -/
def ownedShared (ds : List CellDraft) (shadow : Bool) (g : Nat) : Bool :=
  ((List.range 16).filter (fun k => decide (14 ≤ k) == shadow)).any (fun k =>
    match ds[k]? with
    | some c => c.en && bitOf c.gOwn g
    | none => false)

/-- Write the drafts of both banks of logical cell i into a physical cell (R117 step 3, R384). -/
def loadCell (s : State) (d : Die) (h i ck : Nat) : State :=
  (List.range 16).foldl (fun s k =>
    setCellDraft (setCellDraft s ck false k (masterCellDraft s d h false i k)) ck true k
      (masterCellDraft s d h true i k)) s

/-- Write the constants of the resident bank of logical cell i into a physical cell (R112 step 4). -/
def loadConstants (s : State) (d : Die) (h i ck : Nat) : State :=
  let bank := (getHar s d h).flip
  let ds := masterCellDrafts s d h bank i
  let wr := writtenWords ds
  let s := (List.range 512).foldl (fun s w =>
    if wr.contains w then s else setScratch s ck w (masterConst s d h bank i w)) s
  (List.range 16).foldl (fun s g =>
    if ownedShared ds (decide (8 ≤ g)) (g % 8) then s
    else setShared s ck g (masterConst s d h bank i (512 + g))) s

/-- Write the constants of the resident bank into every cell of a harness, spares in use included. -/
def loadHarConstants (s : State) (d : Die) (h : Nat) : State :=
  (List.range 64).foldl (fun s i => loadConstants s d h i (cellKey d h (i / 8) (physCol s d h (i / 8) (i % 8)))) s

/-- Write every draft, reed draft and table of a harness from the master copy. -/
def loadHarDrafts (s : State) (d : Die) (h : Nat) : State :=
  let s := (List.range 64).foldl (fun s i =>
    loadCell s d h i (cellKey d h (i / 8) (physCol s d h (i / 8) (i % 8)))) s
  let s := (List.range 64).foldl (fun s i => (List.range 16).foldl (fun s k =>
    setReedDraft (setReedDraft s d h i false k (masterReedDraft s d h false i k)) d h i true k
      (masterReedDraft s d h true i k)) s) s
  (List.range 256).foldl (fun s e =>
    let w (b : Bool) : Word := BitVec.ofNat 32 (leNat (masterRead s d h b (masterTableOff e) 4))
    setTable (setTable s d h false e (w false)) d h true e (w true)) s

end Sys2Proof.Machine
end

