-- ==== Sys2Proof/Machine/Cells.lean ====
section
/-! DEFINITION. The weave cell (R29 to R83): one harness cycle of one physical cell. A word's operations are computed
in the order in which words are consumed, on the context with every pending result of earlier words applied; by R55
no word reads a source whose result it could not yet see, so this is what the pipeline gives. Results still land in
the contexts at the cycles of R53. -/

namespace Sys2Proof.Machine

/-! ## Contexts and pending results -/

/-- Apply a result to the context of its item (R56). -/
def applyUpd (c : SlotCtx) : Upd → SlotCtx
  | .reg code v =>
    match code.toNat with
    | 4 => { c with sr0 := v }
    | 5 => { c with sr1 := v }
    | 6 => { c with sr2 := v }
    | 7 => { c with sr3 := v }
    | _ => c
  | .acc one v hi lo =>
    if one then { c with acc1 := v, satB1 := hi, satB0 := lo } else { c with acc0 := v, satA1 := hi, satA0 := lo }
  | .search v n i valid wrap => { c with mmVal := v, mmCount := n, mmIdx := i, mmValid := valid, mmWrap := wrap }
  | .scratch _ _ => c
  | .width w => { c with wMax := if c.wMax < w then w else c.wMax, mvSeen := true }
  | .overflow => { c with ovfOwn := true, ovfItem := true }
  | .shift v => { c with s := v }
  | .passed _ => c

/-- Does a pending result belong to an item of a slot? -/
def pendOf (k item : Nat) (p : Pend) : Bool := decide (p.slot.toNat = k) && decide (p.item = item)

/-- The context of an item with every pending result of it applied in order (R55, R57). -/
def effCtx (c : SlotCtx) (k item : Nat) (ps : List Pend) : SlotCtx :=
  (ps.filter (pendOf k item)).foldl (fun c p => applyUpd c p.upd) c

/-- A slot register of a context. -/
def slotReg (c : SlotCtx) (i : Nat) : Word :=
  match i with
  | 0 => c.sr0
  | 1 => c.sr1
  | 2 => c.sr2
  | _ => c.sr3

/-- The last pending write of shared register g by an item of a slot. -/
def pendShared (k item g : Nat) (ps : List Pend) : Option Word :=
  (ps.filter (fun p => pendOf k item p && !p.dead)).foldl (fun r p =>
    match p.upd with
    | .reg code v => if code.toNat = 8 + g then some v else r
    | _ => r) none

/-- The last pending write of a scratch word that a word consumed now sees (R51). -/
def pendScratch (a : Nat) (ps : List Pend) : Option Word :=
  (ps.filter (fun p => decide (2 ≤ p.age))).foldl (fun r p =>
    match p.upd with
    | .scratch b v => if b.toNat = a then some v else r
    | _ => r) none

/-- Shared register g of the set of a slot (R31), as an item of the slot sees it. -/
def sharedOf (s : State) (ck k item : Nat) (ps : List Pend) (g : Nat) : Word :=
  (pendShared k item g ps).getD (getShared s ck ((if 14 ≤ k then 8 else 0) + g))

/-- A scratch word as read now. -/
def scratchOf (s : State) (ck a : Nat) (ps : List Pend) : Word := (pendScratch a ps).getD (getScratch s ck a)

/-- The search state of a context. -/
def searchOf (c : SlotCtx) : SearchSt :=
  { val := signed 32 c.mmVal.toNat, count := c.mmCount.toNat, idx := c.mmIdx.toNat, valid := c.mmValid, wrap := c.mmWrap }

/-- A search state as a result. -/
def searchUpd (m : SearchSt) : Upd :=
  .search (packWord m.val) (BitVec.ofNat 16 m.count) (BitVec.ofNat 16 m.idx) m.valid m.wrap

/-- The search state after a restart (R38, R81). -/
def searchZero : SearchSt := { val := 0, count := 0, idx := 0, valid := false, wrap := false }

/-! ## The first word of an item (R37, R38, R134 step 3) -/

/-- A pending result of the item before, as the next item of the same yarn takes it over (R37); what R38 clears at a
data item's first word is not taken over, and an item of another kind clears nothing. -/
def carryPend (c : CellDraft) (data : Bool) (item : Nat) (p : Pend) : Option Pend :=
  match p.upd with
  | .reg code _ => if code.toNat < 8 then some { p with item := item } else none
  | .acc one v hi lo =>
    if data && (c.accClr = 2 || (c.accClr = 1 && c.macAcc == one)) then none
    else some { p with item := item, upd := .acc one v (!data && hi) (!data && lo) }
  | .search .. => if data && c.mmReset = 0 then none else some { p with item := item }
  | .shift _ => some { p with item := item }
  | .width _ => if data then none else some { p with item := item }
  | .overflow => if data then none else some { p with item := item }
  | _ => none

/-- Forget a result still on its way to a shared register: the first word of a data item clears the register after it (R38). -/
def killShared (k : Nat) (p : Pend) : Pend :=
  match p.upd with
  | .reg code _ => if p.slot.toNat = k && 8 ≤ code.toNat then { p with dead := true } else p
  | _ => p

/-- The image loaded for a flight (R134): the words of an item take the buffer of their own item, whatever the order in
which items of several yarns reach the cell (R26, R37). -/
def loadedFor (sl : SlotSt) (fl : Nat) : Option Loaded := sl.next.find? (fun l => decide (l.flight = fl))

/-- The items before the last two of a slot, as far as results of them are on their way (R56). -/
def olderItems (k : Nat) (sl : SlotSt) (ps : List Pend) : List OldItem :=
  ({ item := sl.oldItem, fl := sl.oldFl, ctx := sl.old } :: sl.older).filter (fun o => ps.any (pendOf k o.item))

/-- A new item of a flight takes the slot's other buffer: the loaded image, the context its own yarn left, or the fresh
context of a cell that keeps nothing. -/
def startItem (c : CellDraft) (k fl : Nat) (data : Bool) (sl : SlotSt) (ps : List Pend) : SlotSt × List Pend :=
  let item := sl.actItem + 1
  let cont := match loadedFor sl fl with
    | some l => l.cont
    | none => draftStateful c
  let ctx := match loadedFor sl fl with
    | some l => if l.cont then sl.act else l.ctx
    | none => if draftStateful c then sl.act else slotFresh c
  let own := if fl = 0 then none else some fl
  let kept := if cont then (ps.filter (pendOf k sl.actItem)).filterMap (carryPend c data item) else []
  ({ sl with act := ctx, actItem := item, actFl := own, actDone := false, old := sl.act, oldItem := sl.actItem,
             oldFl := sl.actFl, oldDone := sl.actDone, older := olderItems k sl ps, next := sl.next.filter (fun l => decide (l.flight ≠ fl)),
             inItem := true },
   (if data then ps.map (killShared k) else ps) ++ kept)

/-- The context after steps 1, 3 and 4 of R38. -/
def clearItem (c : CellDraft) (x : SlotCtx) : SlotCtx :=
  let x := { x with pos := 0, ovfOwn := false, ovfItem := false, poisonItem := false, satA0 := false,
                    satA1 := false, satB0 := false, satB1 := false, mvSeen := false, wMax := 0 }
  let x := if c.accClr = 2 || (c.accClr = 1 && !c.macAcc) then { x with acc0 := 0 } else x
  let x := if c.accClr = 2 || (c.accClr = 1 && c.macAcc) then { x with acc1 := 0 } else x
  if c.mmReset = 0 then { x with mmValid := false, mmWrap := false, mmIdx := 0, mmCount := 0, mmVal := 0 } else x

/-- The shared registers that the draft owns are cleared (R38 step 2). -/
def clearShared (s : State) (ck k : Nat) (c : CellDraft) : State :=
  (List.range 8).foldl (fun s g =>
    if bitOf c.gOwn g then setShared s ck ((if 14 ≤ k then 8 else 0) + g) 0 else s) s

/-- The output exponent is computed (R38 step 5, R79). -/
def setExp (c : CellDraft) (ea eb sh : Int) (x : SlotCtx) : SlotCtx :=
  let e := outExp c.expSrc ea eb sh
  { x with eOut := BitVec.ofNat 5 (unsigned 5 e.1), ovfOwn := x.ovfOwn || e.2, ovfItem := x.ovfItem || e.2 }

/-! ## Sources -/

/-- What a word's operations can read (R41): the context, the shared registers, the words consumed, the scratch reads,
the position and the ALU result. -/
structure Sources where
  ctx    : SlotCtx
  shared : List Word
  ia     : Word
  ib     : Word
  sp0    : Word
  sp1    : Word
  pos    : Nat
  res    : Word

/-- The value of a source code (R41); mm_width counts only where it is used (R505). -/
def sourceVal (c : CellDraft) (v : Sources) (code : Nat) : Word :=
  if code = 0 then v.ia
  else if code = 1 then v.ib
  else if code = 2 then v.sp0
  else if code = 3 then v.sp1
  else if code < 8 then slotReg v.ctx (code - 4)
  else if code < 16 then v.shared.getD (code - 8) 0
  else if code = 18 then (if c.mmWidth && decide (c.mmOp ≠ 0) then packWord (laneLo v.ctx.mmVal) else v.ctx.mmVal)
  else if code = 19 then BitVec.ofNat 32 (bitN v.ctx.mmValid * 131072 + bitN v.ctx.mmWrap * 65536 + v.ctx.mmIdx.toNat)
  else if code = 20 then BitVec.ofNat 32 (bitsOf v.ctx.mmVal.toNat 15 0 * 65536 + v.ctx.mmIdx.toNat)
  else if code = 21 then packWord (signed 16 c.imm)
  else if code = 22 then BitVec.ofNat 32 (c.imm * 65536 + c.imm)
  else if code = 23 then v.res
  else if code = 24 then BitVec.ofNat 32 v.pos
  else 0

/-- The accumulator of a code. -/
def accOf (x : SlotCtx) (one : Bool) : BitVec 96 := if one then x.acc1 else x.acc0

/-! ## Holds (R55, R63) -/

/-- Has an item a result pending on a source that a word consumed now would not yet see (R54)? -/
def pendingOn (ps : List Pend) (k item : Nat) (a0 a1 : Option Nat) (code : Nat) : Bool :=
  ps.any (fun p =>
    match p.upd with
    | .acc one .. => pendOf k item p && decide (code = 16 + bitN one) && decide (p.age < 4)
    | .search .. => pendOf k item p && decide (18 ≤ code ∧ code ≤ 20) && decide (p.age < 2)
    | .scratch a _ => decide (p.slot.toNat = k) && decide (p.age < 2) &&
        ((decide (code = 2) && decide (a0 = some a.toNat)) || (decide (code = 3) && decide (a1 = some a.toNat)))
    | _ => false)

/-- The accumulation chain forwards: an accumulation is pending from the previous word (R55). -/
def chainForwards (c : CellDraft) (ps : List Pend) (k item words : Nat) : Bool :=
  macChains c.macOp && ps.any (fun p => pendOf k item p && p.chain && decide (p.word + 1 = words) &&
    (match p.upd with
     | .acc one .. => one == c.macAcc
     | _ => false))

/-- Does a data word give a data output (R43, R58)? -/
def emits (c : CellDraft) (last : Bool) : Bool := decide (c.emit = 0) || (decide (c.emit = 1) && last)

/-- The sources that a word reads, by the operations performed on it (R42, R55): a scratch port read for the output is
read at the fetch (R53 step 2), so it counts; any other out_sel is read in the output stage, after every earlier result
(R57). -/
def wordReads (c : CellDraft) (first last : Bool) : List Nat :=
  (if whenHolds c.macWhen first last then macSources c else []) ++
  (if whenHolds c.aluWhen first last then aluSources c else []) ++
  (if c.mmOp = 0 then [] else [c.mmSrc]) ++
  (if c.wr.mode ≠ 0 && whenHolds c.wrWhen first last then [c.wrSrc] else []) ++
  (if emits c last && decide (c.outSel = 2 ∨ c.outSel = 3) then [c.outSel] else [])

/-- Does the cell hold for a pending result (R55)? -/
def mustHold (c : CellDraft) (ps : List Pend) (k item words : Nat) (a0 a1 : Option Nat) (first last : Bool) : Bool :=
  (wordReads c first last).any (pendingOn ps k item a0 a1) ||
  (macReadsAcc c.macOp && whenHolds c.macWhen first last && !chainForwards c ps k item words &&
    pendingOn ps k item a0 a1 (16 + bitN c.macAcc))

/-! ## One data word (R45 to R81) -/

/-- A pending result issued now. -/
def issue (k item word land : Nat) (chain : Bool) (u : Upd) : Pend :=
  { slot := BitVec.ofNat 4 k, item := item, word := word, age := 0, land := land, chain := chain, dead := false, upd := u }

/-- The results of the multiplier for a word. -/
def macResults (c : CellDraft) (v : Sources) (k item word : Nat) (first last : Bool) : List Pend :=
  if c.macOp ≠ 0 && whenHolds c.macWhen first last then
    let r := macUpdate c (accOf v.ctx c.macAcc) (if c.macAcc then v.ctx.satB1 else v.ctx.satA1)
      (if c.macAcc then v.ctx.satB0 else v.ctx.satA0) (sourceVal c v c.srcX) (sourceVal c v c.srcY) (sourceVal c v c.srcZ)
    issue k item word 5 (macChains c.macOp) (.acc c.macAcc r.1 r.2.1 r.2.2.1) ::
      (if r.2.2.2 then [issue k item word 5 false .overflow] else [])
  else []

/-- The result of the ALU for a word, if it is performed: the word, and for a scaled move whether it clamped and the
width measured. -/
def aluOf (c : CellDraft) (fine : Bool) (v : Sources) (first last : Bool) : Option (Word × Option (Bool × Nat)) :=
  if c.aluOp ≠ 0 && whenHolds c.aluWhen first last then
    if c.aluOp = 16 then
      let m := scaledMove c.mode c.accWrap (c.rnd && fine) c.bshift (signed 5 v.ctx.s.toNat)
        (accLanes c.mode (accOf v.ctx (c.aluA = 17)))
      some (m.1, some m.2)
    else if c.aluOp = 17 then
      let m := scaledMove c.mode c.accWrap (c.rnd && fine) 0 (signed 5 v.ctx.s.toNat)
        (wordLanes c.mode (sourceVal c v c.aluA))
      some (m.1, some m.2)
    else some (aluResult c.mode c.aluOp (sourceVal c v c.aluA) (sourceVal c v c.aluB), none)
  else none

/-- The results of the ALU for a word: its destination, and the width and overflow of a scaled move. -/
def aluResults (c : CellDraft) (k item word : Nat) (r : Option (Word × Option (Bool × Nat))) : List Pend :=
  match r with
  | none => []
  | some (w, m) =>
    (if 4 ≤ c.aluDst ∧ c.aluDst < 16 then [issue k item word 2 false (.reg (BitVec.ofNat 5 c.aluDst) w)] else []) ++
    (match m with
     | none => []
     | some (clamped, width) =>
       issue k item word 2 false (.width (BitVec.ofNat 7 width)) ::
         (if clamped then [issue k item word 2 false .overflow] else []))

/-- The result of the search unit for a word. -/
def searchResults (c : CellDraft) (v : Sources) (k item word : Nat) : List Pend :=
  if c.mmOp = 0 then []
  else [issue k item word 3 false (searchUpd (searchWord c.mmOp c.mmWidth (searchOf v.ctx) (sourceVal c v c.mmSrc)))]

/-- The scratch write of a word. -/
def scratchResults (c : CellDraft) (v : Sources) (k item word : Nat) (first last : Bool) : List Pend :=
  match scrAddr c.wr v.pos (slotReg v.ctx) with
  | some a =>
    if whenHolds c.wrWhen first last then
      [issue k item word 2 false (.scratch (BitVec.ofNat 9 a) (sourceVal c v c.wrSrc))]
    else []
  | none => []

/-- The index of an output word (R58). -/
def outIdxOf (c : CellDraft) (idx : BitVec 4) : BitVec 4 := if c.en && c.outMode then c.outIdx else idx

/-- The output stage for a word (R57, R73): the data, and for an accumulator the clamp and the width. `v.ctx` is the
context after every result of the word. -/
def outStage (c : CellDraft) (fine : Bool) (v : Sources) : Word × Option (Bool × Nat) :=
  if c.outSel = 16 ∨ c.outSel = 17 then
    let m := scaledMove c.mode c.accWrap (c.rnd && fine) c.bshift (signed 5 v.ctx.s.toNat)
      (accLanes c.mode (accOf v.ctx (c.outSel = 17)))
    (m.1, some m.2)
  else (sourceVal c v c.outSel, none)

/-- The data output word of an item's context (R58). -/
def outWire (c : CellDraft) (x : SlotCtx) (w : Wire) (data : Word) : Wire :=
  { data := data
    tag := mkTag (decide (c.emit = 1) || tagFirst w.tag) (decide (c.emit = 1) || tagLast w.tag) false x.ovfItem
      x.poisonItem 0 x.eOut.toNat
    idx := outIdxOf c w.idx
    fl := w.fl }

/-- The shift for the next item, if the item measured one (R78), and the passing of the last word. -/
def lastResults (c : CellDraft) (x : SlotCtx) (k item word : Nat) (last : Bool) : List Pend :=
  if last then
    (if x.mvSeen then [issue k item word 6 false (.shift (BitVec.ofNat 5 (unsigned 5 (nextShift c x.wMax.toNat))))]
     else []) ++ [issue k item word 6 false (.passed true)]
  else []

/-- The read of a scratch port for a word (R50, R51). A port that is not used reads 0: the manual gives SP0 and SP1 no value
then, and the loader does not reject a draft that names them (DESIGN CHOICE, log entry 192). -/
def portRead (s : State) (ck pos : Nat) (x : SlotCtx) (ps : List Pend) (p : ScrPort) : Word :=
  match scrAddr p pos (slotReg x) with
  | some a => scratchOf s ck a ps
  | none => 0

/-- Execute a data word: the slot's flags and position, the results issued, and the output word. -/
def execData (s : State) (ck k : Nat) (c : CellDraft) (fine : Bool) (sl : SlotSt) (ps : List Pend) (w : Wire)
    (ib : Option Wire) : SlotSt × List Pend × Wire :=
  let first := tagFirst w.tag
  let last := tagLast w.tag
  let bTag := match ib with
    | some b => b.tag
    | none => 0
  let pos := sl.act.pos.toNat
  let act := { sl.act with ovfItem := sl.act.ovfItem || tagOvf w.tag || tagOvf bTag,
                           poisonItem := sl.act.poisonItem || tagPoison w.tag || tagPoison bTag,
                           pos := sl.act.pos + 1 }
  let x := effCtx act k sl.actItem ps
  let v : Sources := { ctx := x, shared := (List.range 8).map (sharedOf s ck k sl.actItem ps), ia := w.data,
                       ib := (ib.map (fun b => b.data)).getD 0, sp0 := portRead s ck pos x ps c.rd0, sp1 := portRead s ck pos x ps c.rd1, pos := pos, res := 0 }
  let alu := aluOf c fine v first last
  let v := { v with res := (alu.map (fun r => r.1)).getD 0 }
  let new := aluResults c k sl.actItem sl.words alu ++ macResults c v k sl.actItem sl.words first last ++
    searchResults c v k sl.actItem sl.words ++ scratchResults c v k sl.actItem sl.words first last
  let ps2 := ps ++ new
  let x2 := effCtx act k sl.actItem ps2
  let v2 := { v with ctx := x2, shared := (List.range 8).map (sharedOf s ck k sl.actItem ps2) }
  let o := outStage c fine v2
  let moved := match o.2 with
    | some (clamped, width) =>
      if emits c last then
        issue k sl.actItem sl.words 6 false (.width (BitVec.ofNat 7 width)) ::
          (if clamped then [issue k sl.actItem sl.words 6 false .overflow] else [])
      else []
    | none => []
  let ps3 := ps2 ++ moved
  let x3 := effCtx act k sl.actItem ps3
  let out := if emits c last then outWire c x3 w o.1 else idleWire 0 (outIdxOf c w.idx)
  ({ sl with act := act, words := sl.words + 1, inItem := !last },
   ps3 ++ lastResults c x3 k sl.actItem sl.words last, out)

/-! ## Landing (R53, R56) and retirement (R71, R134) -/

/-- Get and set a slot of a cell. -/
def getSlot (c : CellSt) (k : Nat) : SlotSt := sparseGet (fun _ => slotInit) c.slots k
def setSlot (c : CellSt) (k : Nat) (v : SlotSt) : CellSt := { c with slots := sparseSet (fun _ => slotInit) c.slots k v }

/-- Has a cell passed the last word of a flight (R134 step 4)? -/
def passedFlight (s : State) (ck k fl : Nat) : Bool :=
  let sl := getSlot (getCell s ck) k
  (decide (sl.actFl = some fl) && sl.actDone) || (decide (sl.oldFl = some fl) && sl.oldDone)

/-- Retire an item in a harness when every stateful cell of the index has passed its last word: the write-back starts,
to end two cycles later (R134 steps 4 and 5). -/
def retireCheck (s : State) (d : Die) (h ck k fl : Nat) : State :=
  match getFlight s fl with
  | none => s
  | some f =>
    let y := getYarn s f.die f.yarn
    match stageAt y h (BitVec.ofNat 4 k) with
    | none => s
    | some i =>
      if f.retired.contains i || !(statefulCells s d h k).all (fun c => passedFlight s c k fl) then s
      else
        let s := modFlight s fl (fun f => { f with retired := f.retired ++ [i] })
        let s := if i + 1 = y.stages.length then
            setYarn s f.die f.yarn { y with itemsDone := y.itemsDone + 1 } else s
        modHar s d h (fun a => { a with wbs := a.wbs ++ [{ idx := BitVec.ofNat 4 k, flight := fl, cell := ck, left := 3 }] })

/-- The yarn to which a report belongs, and the item's place in its sequence: those of the flight, which may be over by then
(R71), or the yarn that owns the index. -/
def reportOf (s : State) (d : Die) (h k : Nat) : Option Nat → Option (Die × Nat × Word)
  | some fl => some (flightOwner fl)
  | none => (ownerOf s d h (BitVec.ofNat 4 k)).map (fun e => (d, e.1, 0))

/-- A cell passes the last word of an item through its output stage: one overflow report if it overflowed (R71), and
the item may be retired. -/
def passItem (s : State) (d : Die) (h ck k : Nat) (fl : Option Nat) (ovf : Bool) : State :=
  let s := if ovf then
      let c := getCell s ck
      let s := if flagF s fCELL_CSEL_frz d h then s else setCell s ck { c with cnt.ovf := c.cnt.ovf + 1 }
      match reportOf s d h k fl with
      | some o => { s with flow.reports := s.flow.reports ++ [o] }
      | none => s
    else s
  match fl with
  | some f => retireCheck s d h ck k f
  | none => s

/-- The end of an item: the context that holds it is done, and the item passes the cell. An item of another kind than
data detects no overflow: the flag that stands is of the item before it (R38, R71). -/
def landPassed (d : Die) (h ck : Nat) (data : Bool) (s : State) (p : Pend) : State :=
  let c := getCell s ck
  let k := p.slot.toNat
  let sl := getSlot c k
  if p.item = sl.actItem then
    passItem (setCell s ck (setSlot c k { sl with actDone := true })) d h ck k sl.actFl (data && sl.act.ovfOwn)
  else if p.item = sl.oldItem then
    passItem (setCell s ck (setSlot c k { sl with oldDone := true })) d h ck k sl.oldFl (data && sl.old.ovfOwn)
  else
    match sl.older.find? (fun o => decide (o.item = p.item)) with
    | some o =>
      passItem (setCell s ck (setSlot c k { sl with older := sl.older.erase o })) d h ck k o.fl (data && o.ctx.ovfOwn)
    | none => s

/-- A result in register code 8 to 15 also goes to the shared registers, unless a later write has overtaken it. -/
def landShared (ck k : Nat) (dead : Bool) (s : State) : Upd → State
  | .reg code v =>
    if 8 ≤ code.toNat ∧ code.toNat < 16 ∧ !dead then
      setShared s ck ((if 14 ≤ k then 8 else 0) + (code.toNat - 8)) v
    else s
  | _ => s

/-- A result lands in the context of its item. -/
def landCtx (ck : Nat) (s : State) (p : Pend) : State :=
  let c := getCell s ck
  let k := p.slot.toNat
  let sl := getSlot c k
  if p.item = sl.actItem then setCell s ck (setSlot c k { sl with act := applyUpd sl.act p.upd })
  else if p.item = sl.oldItem then setCell s ck (setSlot c k { sl with old := applyUpd sl.old p.upd })
  else setCell s ck (setSlot c k { sl with older := sl.older.map (fun o =>
    if o.item = p.item then { o with ctx := applyUpd o.ctx p.upd } else o) })

/-- Land one result whose cycle has come. -/
def landOne (d : Die) (h ck : Nat) (s : State) (p : Pend) : State :=
  match p.upd with
  | .scratch a v => setScratch s ck a.toNat v
  | .passed data => landPassed d h ck data s p
  | _ => landCtx ck (landShared ck p.slot.toNat p.dead s p.upd) p

/-- Land every result whose cycle has come, in order of issue, and age the others. -/
def landAll (s : State) (d : Die) (h ck : Nat) : State :=
  let c := getCell s ck
  let due := c.pend.filter (fun p => decide (p.land ≤ p.age))
  let rest := (c.pend.filter (fun p => decide (p.age < p.land))).map (fun p => { p with age := p.age + 1 })
  due.foldl (landOne d h ck) (setCell s ck { c with pend := rest })

/-- The image of a cell for a flight: the buffer that still holds the flight. -/
def flightCtx (s : State) (ck k fl : Nat) : SlotCtx :=
  let sl := getSlot (getCell s ck) k
  if sl.oldFl = some fl then sl.old else sl.act

/-- Is a write-back of an item under way in any harness? -/
def wbPending (s : State) (fl : Nat) : Bool := s.arr.hars.any (fun (e : Nat × HarSt) => e.2.wbs.any (fun w => decide (w.flight = fl)))

/-- A yarn's item that waits to go on from the context of the item before it takes that context from the buffer when the
buffer is written back, before an item of another yarn can take the slot (R37, R134). -/
def settleLoads (s : State) (d : Die) (n : Nat) (f : Flight) (k : Nat) (cells : List Nat) : State :=
  cells.foldl (fun s ck =>
    let c := getCell s ck
    let sl := getSlot c k
    let x := flightCtx s ck k f.id
    let mine (l : Loaded) : Bool := l.cont && (match getFlight s l.flight with
      | some g => decide (g.yarn = n ∧ g.die = d ∧ g.seq = f.seq + 1)
      | none => false)
    if sl.next.any mine then
      setCell s ck (setSlot c k { sl with next := sl.next.map (fun l => if mine l then { l with cont := false, ctx := x } else l) })
    else s) s

/-- The table position that a stage's frame takes: the one at the yarn's cut for the last item before it (R102), and else the
harness's own. The manual gives the field of a yarn that the table does not feed no contents, and the model writes the harness's
table position there as well (DESIGN CHOICE, log entry 246). -/
def stageTpos (s : State) (d : Die) (h : Nat) (cut : Option CutRec) (i : Nat) : BitVec 8 :=
  match cut.bind (fun c => c.tpos[i]?) with
  | some p => p
  | none => (getHar s d h).tpos

/-- Write the frame of a stage back after an item (R134 step 5), the frame of the cut being copied first (R172). A
pinned yarn's state stays in the cells; its frame is written only for the last item before a cut (R132, R172). Port A
writes bank memory (R461). -/
def writeBack (s : State) (d : Die) (h : Nat) (b : WriteBack) : State :=
  match getFlight s b.flight with
  | none => s
  | some f =>
    let y := getYarn s f.die f.yarn
    match stageAt y h b.idx with
    | none => s
    | some i =>
      match y.stages[i]? with
      | none => s
      | some g =>
        let k := b.idx.toNat
        let atCut := y.cuts.find? (fun c => decide (c.itemsIn = f.seq))
        let s := if y.pinned && atCut.isNone then s
          else
            let s := copyOnWrite s f.die f.yarn i f.seq
            let cells := statefulCells s d h k
            let bs := frameHeader f.yarn f.seq.toNat (stageTpos s d h atCut i).toNat ++ cells.flatMap (fun ck => slotBytes (flightCtx s ck k f.id))
            let s := bpProbe (writeFrame s d g bs) d h (.bank (g.frame * 64) bs.length true)
            if y.pinned then s else settleLoads s f.die f.yarn f k cells
        let done := retiredAll y f && !wbPending s f.id
        let s := if done && decide (f.closed.length = (y.outs.filter (fun o => o.isSome)).length) then
            { s with flow.flights := s.flow.flights.filter (fun x => decide (x.id ≠ f.id)) }
          else s
        settleYarn s f.die f.yarn

/-- One cycle of the write-backs that a cell's retirement started. -/
def tickWriteBacks (s : State) (d : Die) (h ck : Nat) : State :=
  let a := getHar s d h
  let due := a.wbs.filter (fun b => decide (b.cell = ck) && decide (b.left ≤ 1))
  let rest := (a.wbs.filter (fun b => !(decide (b.cell = ck) && decide (b.left ≤ 1)))).map (fun b =>
    if b.cell = ck then { b with left := b.left - 1 } else b)
  due.foldl (fun s b => writeBack s d h b) (setHar s d h { a with wbs := rest })

/-! ## The darning tracks of a spare (R118) -/

/-- Is a word absent or idle? -/
def idleOrNone : Option Wire → Bool
  | none => true
  | some w => tagIdle w.tag

/-- The stages of a track, first to last. -/
def stagesOf {α : Type} (l : List (Option α)) : Option α × Option α × Option α :=
  (l.getD 0 none, l.getD 1 none, l.getD 2 none)

/-- The output track moves one cycle: OUT enters it, and its last stage is on the reed's input. A word waits behind
one that is not idle; an idle word gives way. -/
def shiftTrackO (c : CellSt) : CellSt :=
  let t := stagesOf c.trackO
  let free2 := idleOrNone t.2.2
  let t2 := if free2 then t.2.1 else t.2.2
  let t1in := if free2 then none else t.2.1
  let free1 := idleOrNone t1in
  let t1 := if free1 then t.1 else t1in
  let t0in := if free1 then none else t.1
  let free0 := idleOrNone t0in
  { c with trackO := [if free0 then c.out else t0in, t1, t2], out := if free0 then none else c.out }

/-- An input track moves one cycle: the word at its last stage goes to the spare's input when that is free, and a word
waits behind one that is not idle (R95). Answers the track and the input. -/
def shiftTrackIn (track : List (Option Wire)) (input : Option Wire) : List (Option Wire) × Option Wire :=
  let t := stagesOf track
  let free3 := idleOrNone input
  let out := if free3 then (if t.2.2.isSome then t.2.2 else input) else input
  let t2in := if free3 then none else t.2.2
  let free2 := idleOrNone t2in
  let t2 := if free2 then t.2.1 else t2in
  let t1in := if free2 then none else t.2.1
  let free1 := idleOrNone t1in
  ([if free1 then none else t.1, if free1 then t.1 else t1in, t2], out)

/-- The input tracks move one cycle. The reed's words, the table's and the urgent ones each reach their own input of the
spare three cycles after they are offered (R118), so none of them waits for another. -/
def shiftTracksIn (c : CellSt) : CellSt :=
  let a := shiftTrackIn c.trackA c.ia
  let b := shiftTrackIn c.trackB c.ib
  let t := shiftTrackIn c.trackT c.tbl
  let u := shiftTrackIn c.trackU c.urg
  { c with trackA := a.1, ia := a.2, trackB := b.1, ib := b.2, trackT := t.1, tbl := t.2, trackU := u.1, urg := u.2 }

/-! ## The cycle (R53, R58 to R67) -/

/-- The counting classes of R65. -/
inductive CycleClass where
  | word | empty | bubble | hold | forced
  deriving DecidableEq, Repr

/-- Count a cycle of a cell (R83), unless the harness's counters hold. -/
def countCycle (frz : Bool) (k : CycleClass) (n : CellCnt) : CellCnt :=
  if frz then n
  else match k with
    | .word => { n with word := n.word + 1 }
    | .empty => { n with empty := n.empty + 1 }
    | .bubble => { n with bubble := n.bubble + 1 }
    | .hold => { n with hold := n.hold + 1 }
    | .forced => { n with forced := n.forced + 1 }

/-- The class of an idle word's reason (R60, R65). -/
def reasonClass (r : Nat) : CycleClass :=
  match r with
  | 0 => .empty
  | 1 => .bubble
  | 2 => .hold
  | _ => .forced

/-- Where the word of a cycle comes from. -/
inductive IaFrom where
  | urgent | table | reed | none
  deriving DecidableEq, Repr

/-- Is a logical cell in a 64-bit mask held in two registers (R120)? -/
def inMask (s : State) (lo hi : Reg) (d : Die) (h i : Nat) : Bool :=
  if i < 32 then bitOf (regRaw s lo d h).toNat i else bitOf (regRaw s hi d h).toNat (i - 32)

/-- The word offered on IA: an urgent word first, then the table's for a cell of the source mask, then the reed's
(R101, R103). -/
def offeredIa (c : CellSt) (source : Bool) : IaFrom × Option Wire :=
  if c.urg.isSome then (.urgent, c.urg)
  else if source then (if c.tbl.isSome then (.table, c.tbl) else (.none, none))
  else if c.ia.isSome then (.reed, c.ia)
  else (.none, none)

/-- Take the word from where it was offered. -/
def takeIa (c : CellSt) : IaFrom → CellSt
  | .urgent => { c with urg := none }
  | .table => { c with tbl := none }
  | .reed => { c with ia := none }
  | .none => c

/-- An idle word on IB is offered for one cycle only. -/
def dropIdleIb (c : CellSt) : CellSt := if idleOrNone c.ib then { c with ib := none } else c

/-- The pipeline moves one cycle: the word consumed seven cycles ago comes to OUT (R53, R58). -/
def pushPipe (c : CellSt) (w : Wire) : CellSt :=
  { c with out := c.pipe.getD 6 none, pipe := (some w :: c.pipe).take 7 }

/-- A word of a null draft opens and closes its item in the slot like any other (R66); nothing else of the slot changes
(R44). -/
def nullItem (sl : SlotSt) (w : Wire) : SlotSt :=
  { sl with inItem := !tagLast w.tag, actFl := if tagFirst w.tag then (if w.fl = 0 then none else some w.fl) else sl.actFl }

/-- Consume a word that is not data: it is forwarded, and opens or closes its item's passage (R59, R81). -/
def forwardWord (c : CellDraft) (k : Nat) (sl : SlotSt) (ps : List Pend) (w : Wire) : SlotSt × List Pend :=
  if !c.en then (nullItem sl w, ps)
  else
    let r := if tagFirst w.tag then startItem c k w.fl false sl ps else (sl, ps)
    let p1 := if tagKind w.tag = 2 ∧ c.mmReset = 1 then
        [issue k r.1.actItem r.1.words 3 false (searchUpd searchZero)] else []
    let p2 := if tagLast w.tag then [issue k r.1.actItem r.1.words 6 false (.passed false)] else []
    ({ r.1 with inItem := !tagLast w.tag }, r.2 ++ p1 ++ p2)

/-- The kinds of cell fault (R82, R251). -/
def faultParity : Nat := 0
def faultReg : Nat := 1
def faultResidue : Nat := 2
def faultSkew : Nat := 3
def faultFraming : Nat := 4
def faultScratch : Nat := 5

/-- What the cell's own checks find in the cycle, for the draft slot of the word consumed (R82, R251). -/
def upsetFaults (s : State) (d : Die) (h r c i k : Nat) : Option CellUpset → State
  | none => s
  | some .draftParity => cellFault s d h r c k faultParity
  | some .regParity => cellFault s d h r c k faultReg
  | some .residue => cellFault s d h r c k faultResidue
  | some .scratchCorrected => countF s fMEM_ECC_ce d 0
  | some .scratchUncorrectable =>
    cellFault (loadConstants (countF s fMEM_ECC_ue_scr d 0) d h i (cellKey d h r c)) d h r c k faultScratch

/-- The yarn whose item a slot executes (R461). -/
def slotYarn (s : State) (d : Die) (h : Nat) (sl : SlotSt) (idx : BitVec 4) : Option Nat :=
  match sl.actFl.bind (getFlight s) with
  | some f => some f.yarn
  | none => (ownerOf s d h idx).map (fun e => e.1)

/-- The scratch address a list of results writes, if any. -/
def scratchWrite (ps : List Pend) : Option Nat :=
  ps.foldl (fun r p => match p.upd with
    | .scratch a _ => if p.age = 0 then some a.toNat else r
    | _ => r) none

/-- The exponent of the word at input B when an item begins; it is a free value where the draft asks for it and no word
is there. -/
def takeExp (s : State) (dr : CellDraft) (first : Bool) : Option Wire → State × Int
  | some b => (s, tagExp b.tag)
  | none =>
    if first && decide (dr.expSrc = 1) then ((freeValue s).2, signed 5 ((freeValue s).1.toNat % 32)) else (s, 0)

/-- The word consumed on IB has another draft index than the one on IA (R82). -/
def ibSkew (w : Wire) : Option Wire → Bool
  | some b => decide (b.idx ≠ w.idx)
  | none => false

/-- Does IB carry a word whose kind is not data (R59, R82)? -/
def ibNotData : Option Wire → Bool
  | some b => !tagIdle b.tag && decide (tagKind b.tag ≠ 0)
  | none => false

/-- Whatever the cell does in the cycle, a word on IB whose kind is not data is a skew fault, reported once (R59, R82). -/
def ibCheck (s : State) (d : Die) (h r c : Nat) (idx : BitVec 4) : State :=
  let ck := cellKey d h r c
  let cell := getCell s ck
  if ibNotData cell.ib && !cell.ibBad then
    cellFault (setCell s ck { cell with ibBad := true }) d h r c idx.toNat faultSkew
  else s

/-- Execute the draft on a data word: `st` is the slot and the pending results the word starts from, `act0` the context
it starts in. -/
def consumeData (s : State) (d : Die) (h r col : Nat) (src : IaFrom) (w : Wire) (dr : CellDraft) (st : SlotSt × List Pend)
    (act0 : SlotCtx) : State × Wire × CycleClass :=
  let ck := cellKey d h r col
  let c := getCell s ck
  let k := w.idx.toNat
  let first := tagFirst w.tag
  let ib := if draftUsesIb dr then c.ib else none
  let eff := effCtx act0 k st.1.actItem st.2
  let e := takeExp (if first then clearShared s ck k dr else s) dr first ib
  let act := if first then setExp dr (tagExp w.tag) e.2 (signed 5 eff.s.toNat) act0 else act0
  let x := execData e.1 ck k dr (decide (col = 0 ∨ col = 8)) { st.1 with act := act } st.2 w ib
  let s := setCell e.1 ck
    { setSlot (takeIa c src) k x.1 with pend := x.2.1, lastIdx := w.idx, ib := if ib.isSome then none else c.ib }
  let s := if first && (getSlot c k).inItem then cellFault s d h r col k faultFraming else s
  let s := if ibSkew w ib then cellFault s d h r col k faultSkew else s
  let s := bpProbe s d h (.word r col w.idx (slotYarn s d h x.1 w.idx) w)
  let s := match scratchWrite (x.2.1.drop st.2.length) with
    | some a => bpProbe s d h (.scratch r col a)
    | none => s
  (s, x.2.2, .word)

/-- Forward a mark or an idle command word through the cell. -/
def consumeMark (s : State) (d : Die) (h r col : Nat) (src : IaFrom) (w : Wire) (dr : CellDraft) :
    State × Wire × CycleClass :=
  let ck := cellKey d h r col
  let c := getCell s ck
  let k := w.idx.toNat
  let sl := getSlot c k
  let f := forwardWord dr k sl c.pend w
  let s := setCell s ck { setSlot (takeIa c src) k f.1 with pend := f.2, lastIdx := w.idx }
  let s := if tagFirst w.tag && sl.inItem then cellFault s d h r col k faultFraming else s
  (bpProbe s d h (.word r col w.idx (slotYarn s d h f.1 w.idx) w), { w with idx := outIdxOf dr w.idx }, .word)

/-- Consume the word of the cycle, or hold: the state, the word that enters the pipeline and the class of the
cycle. -/
def consume (s : State) (d : Die) (h r col : Nat) (src : IaFrom) (w : Wire) : State × Wire × CycleClass :=
  let ck := cellKey d h r col
  let c := getCell s ck
  let k := w.idx.toNat
  let dw := getCellDraft s ck (getHar s d h).flip k
  let dr := cellDraftOf dw
  let s := if cellParityOk dw then s else cellFault s d h r col k faultParity
  let sl := getSlot c k
  let hold : State × Wire × CycleClass := (s, idleWire 2 (outIdxOf dr w.idx), .hold)
  if tagIdle w.tag then
    (setCell s ck { takeIa c src with lastIdx := w.idx }, idleWire (bitsOf w.data.toNat 1 0) (outIdxOf dr w.idx),
      reasonClass (bitsOf w.data.toNat 1 0))
  else if tagKind w.tag ≠ 0 then consumeMark s d h r col src w dr
  else if !dr.en then
    let s := setCell s ck { setSlot (takeIa c src) k (nullItem sl w) with lastIdx := w.idx }
    let s := if tagFirst w.tag && sl.inItem then cellFault s d h r col k faultFraming else s
    (bpProbe s d h (.word r col w.idx (slotYarn s d h sl w.idx) w), idleWire 0 w.idx, .word)
  else if draftUsesIb dr && idleOrNone c.ib then hold
  else
    let first := tagFirst w.tag
    let st := if first then startItem dr k w.fl true sl c.pend else (sl, c.pend)
    let act0 := if first then clearItem dr st.1.act else st.1.act
    let eff := effCtx act0 k st.1.actItem st.2
    let a0 := scrAddr dr.rd0 act0.pos.toNat (slotReg eff)
    let a1 := scrAddr dr.rd1 act0.pos.toNat (slotReg eff)
    if mustHold dr st.2 k st.1.actItem st.1.words a0 a1 first (tagLast w.tag) then hold
    else consumeData s d h r col src w dr st act0

/-- The logical cell that a physical cell stands for: itself, the darned cell for a spare in use, and for an idle
spare none. -/
def logicalOf (s : State) (d : Die) (h r c : Nat) : Option Nat :=
  if c < 8 then some (8 * r + c) else (darnedCol s d h r).map (fun k => 8 * r + k)

/-- The cell is clocked: its harness steps, and it is not a cell whose place a spare has taken (R117 step 5). -/
def cellRuns (s : State) (d : Die) (h r c : Nat) : Bool :=
  harRuns s d h && (decide (c = 8) || decide (darnedCol s d h r ≠ some c))

/-- CELL_CYCLE: one harness cycle of physical cell (r, c). -/
def cellCycleStep (s : State) (d : Die) (h r c : Nat) (u : Option CellUpset) : State :=
  let ck := cellKey d h r c
  let frz := flagF s fCELL_CSEL_frz d h
  let i := (logicalOf s d h r c).getD 0
  let cell := getCell s ck
  let cell := if c = 8 ∧ (darnedCol s d h r).isSome then shiftTrackO cell else cell
  if liveWire cell.out then
    tickWriteBacks (setCell s ck (shiftTracksIn { cell with cnt := countCycle frz .hold cell.cnt })) d h ck
  else
    let source := (logicalOf s d h r c).isSome && inMask s .TSEQ_SRC_LO .TSEQ_SRC_HI d h i
    let off := offeredIa cell source
    let w := off.2.getD (idleWire 0 cell.lastIdx)
    let x := consume (ibCheck (setCell s ck cell) d h r c w.idx) d h r c off.1 w
    let cell := getCell x.1 ck
    let cell := dropIdleIb (pushPipe { cell with cnt := countCycle frz x.2.2 cell.cnt, ibBad := ibNotData cell.ib } x.2.1)
    let s := landAll (setCell x.1 ck cell) d h ck
    let s := tickWriteBacks s d h ck
    let s := setCell s ck (shiftTracksIn (getCell s ck))
    upsetFaults s d h r c i w.idx.toNat u

/-- The cycle of a cell that is still clocked once its harness cycle has begun. -/
def cellGoesOn (s : State) (d : Die) (h r c : Nat) (u : Option CellUpset) : State :=
  if cellRuns s d h r c then cellCycleStep s d h r c u else s

/-- CELL_CYCLE (R53): a cell that is not clocked does nothing. -/
def execCellCycle (d : Die) (h : Harn) (r : Row) (c : Col) (u : Option CellUpset) (s : State) :
    Host.Outcome State Fault Refusal :=
  .next (if cellRuns s d h.val r.val c.val then
    cellGoesOn (beginCycle s d h.val (9 * r.val + c.val)) d h.val r.val c.val u else s)

end Sys2Proof.Machine
end

