-- ==== Sys2Proof/Machine/Reeds.lean ====
section
/-! DEFINITION. Reeds and harness gates (R84 to R96, R114, R115, R203, R204): one cycle of a reed, and one transfer of
a gate. A reed input is a one-word register that the segment before it fills. -/

namespace Sys2Proof.Machine

/-- A gate is open towards a harness: its domain is ON with no step in progress, and it is neither held in reset nor
halted, unless it is being stepped (R204, R465). -/
def harOpen (s : State) (d : Die) (h : Nat) : Bool :=
  let m := getDom s d h
  let a := getHar s d h
  decide (m.state = .on) && decide (m.step = .none) && !a.inReset && (!a.halted || decide (0 < a.stepping))

/-- The gate of the long line at a reed: its key, whether this end is the west or north one, the far harness (R89). -/
def lineAt (d : Die) (h r c : Nat) (vertical : Bool) : Option (Nat × Bool × Nat) :=
  if vertical then
    (warpAt h r).map (fun e => (gateKey d true e.1 c, e.2, if e.2 then h + 6 else h - 6))
  else
    (weftAt h c).map (fun e => (gateKey d false e.1 r, e.2, if e.2 then h + 1 else h - 1))

/-! ## Inputs and outputs of a reed -/

/-- The word on OUT of the cell of a reed, or at the end of the spare's output track (R118). -/
def reedCellOut (s : State) (d : Die) (h r c : Nat) : Option Wire :=
  if darnedCol s d h r = some c then (stagesOf (getCell s (cellKey d h r 8)).trackO).2.2
  else (getCell s (cellKey d h r c)).out

/-- The word OUT gave is taken. -/
def takeCellOut (s : State) (d : Die) (h r c : Nat) : State :=
  if darnedCol s d h r = some c then
    let k := cellKey d h r 8
    let x := getCell s k
    let t := stagesOf x.trackO
    setCell s k { x with trackO := [t.1, t.2.1, none] }
  else
    let k := cellKey d h r c
    setCell s k { getCell s k with out := none }

/-- The word on a reed input by its code (R92). A long line in contention offers forced idle words (R114); the manual gives
their reason code and no draft index, and the model gives them the index of the contending words, LL_FAULT.idx (DESIGN
CHOICE, log entry 195). -/
def reedInput (s : State) (d : Die) (h i code : Nat) : Option Wire :=
  let r := i / 8
  let c := i % 8
  if code = 1 then reedCellOut s d h r c
  else
    match getReedIn s (reedKey d h i code) with
    | some w => some w
    | none =>
      if code = 14 ∨ code = 15 then
        match lineAt d h r c (code = 15) with
        | some l => if (getGate s l.1).forced then some (idleWire 3 (BitVec.ofNat 4 (getF s fLL_FAULT_idx d h))) else none
        | none => none
      else none

/-- Remove the word from a reed input. -/
def takeInput (s : State) (d : Die) (h i code : Nat) : State :=
  if code = 1 then takeCellOut s d h (i / 8) (i % 8) else setReedIn s (reedKey d h i code) none

/-- Does this end drive the line for the index of a draft (R90, R91)? -/
def drives (dr : BitVec 96) (o : ReedOut) : Bool :=
  match o with
  | .llh => reedDrvH dr
  | .llv => reedDrvV dr
  | _ => true

/-- The outputs that the word on an input claims (R93). -/
def claims (dr : BitVec 96) (code : Nat) : List ReedOut :=
  reedOuts.filter (fun o => decide (reedSel dr o = code) && drives dr o)

/-- The key of the cell that a reed's IA and IB feed, and whether it is the row's spare (R117, R118). -/
def fedCell (s : State) (d : Die) (h r c : Nat) : Nat × Bool :=
  if darnedCol s d h r = some c then (cellKey d h r 8, true) else (cellKey d h r c, false)

/-- The words that a lane's dual-clock buffer holds: 32 at most (R205). -/
def laneRoom : Nat := 32

/-- The words in the buffer of a lane. -/
def laneWords (m : Sparse (List Wire)) (l : Nat) : List Wire := sparseGet (fun _ => []) m l

/-- The buffers with other words in one of a lane. -/
def setLaneWords (m : Sparse (List Wire)) (l : Nat) (ws : List Wire) : Sparse (List Wire) := sparseSet (fun _ => []) m l ws

/-- Is an output ready for a word (R87, R90, R204)? A place that holds an idle word is: idle words never cause another word
to wait (R95). -/
def outReady (s : State) (d : Die) (h i : Nat) (o : ReedOut) : Bool :=
  let r := i / 8
  let c := i % 8
  let f := fedCell s d h r c
  let cell := getCell s f.1
  let line (v : Bool) : Bool := match lineAt d h r c v with
    | none => false
    | some l =>
      let g := getGate s l.1
      harOpen s d l.2.2 && !g.failed && !g.forced && decide ((if l.2.1 then g.fromA else g.fromB).length < 4)
  match o with
  | .ia => idleOrNone (if f.2 then (stagesOf cell.trackA).1 else cell.ia)
  | .ib => idleOrNone (if f.2 then (stagesOf cell.trackB).1 else cell.ib)
  | .llh => line false
  | .llv => line true
  | .gw => decide (c = 0) && decide ((laneWords (getHar s d h).gwOut r).length < laneRoom)
  | o =>
    match segEnd r c o with
    | some e => idleOrNone (getReedIn s (reedKey d h (8 * e.1 + e.2.1) e.2.2))
    | none => false

/-- Offer a word on an output. An idle word never enters a long line (R90), and the gateway discards it (R99). -/
def putOut (s : State) (d : Die) (h i : Nat) (w : Wire) (o : ReedOut) : State :=
  let r := i / 8
  let c := i % 8
  let f := fedCell s d h r c
  let cell := getCell s f.1
  let line (v : Bool) : State := match lineAt d h r c v with
    | none => s
    | some l =>
      if tagIdle w.tag then s
      else
        let g := getGate s l.1
        setGate s l.1 (if l.2.1 then { g with fromA := g.fromA ++ [w] } else { g with fromB := g.fromB ++ [w] })
  match o with
  | .ia =>
    if f.2 then
      let t := stagesOf cell.trackA
      setCell s f.1 { cell with trackA := [some w, t.2.1, t.2.2] }
    else setCell s f.1 { cell with ia := some w }
  | .ib =>
    if f.2 then
      let t := stagesOf cell.trackB
      setCell s f.1 { cell with trackB := [some w, t.2.1, t.2.2] }
    else setCell s f.1 { cell with ib := some w }
  | .llh => line false
  | .llv => line true
  | .gw => if tagIdle w.tag then s else modHar s d h (fun a => { a with gwOut := setLaneWords a.gwOut r (laneWords a.gwOut r ++ [w]) })
  | o =>
    match segEnd r c o with
    | some e => setReedIn s (reedKey d h (8 * e.1 + e.2.1) e.2.2) (some w)
    | none => s

/-! ## The cycle of a reed (R93 to R96) -/

/-- A word on an input of a reed with the outputs it claims. -/
structure Claim where
  code : Nat
  w    : Wire
  outs : List ReedOut
  deriving DecidableEq, Repr

/-- The words on the inputs of a reed, lowest code first. -/
def reedClaims (s : State) (d : Die) (h i : Nat) : List Claim :=
  let bank := (getHar s d h).flip
  ((List.range 16).map (fun j => j + 1)).filterMap (fun code =>
    (reedInput s d h i code).map (fun w =>
      { code := code, w := w, outs := claims (getReedDraft s d h i bank w.idx.toNat) code }))

/-- The word on the lowest input among the words that are not idle wins an output (R94). -/
def wins (cs : List Claim) (c : Claim) (o : ReedOut) : Bool :=
  match cs.find? (fun x => !tagIdle x.w.tag && x.outs.contains o) with
  | some x => decide (x.code = c.code)
  | none => false

/-- Discard a dead-end word: the count, and one event in each beat in which it changed (R96); a count that stands at its
limit does not change. -/
def deadEnd (s : State) (d : Die) (h : Nat) : State :=
  let full := decide (getF s fTSEQ_STAT_dead_cnt d h = 0xFFFF)
  let s := countF s fTSEQ_STAT_dead_cnt d h
  if full ∨ (getHar s d h).deadBeat = some (getBeat s d).ord then s
  else
    raiseEvent (modHar s d h (fun a => { a with deadBeat := some (getBeat s d).ord })) 0x07 d (BitVec.ofNat 32 h)
      (BitVec.ofNat 32 (getF s fTSEQ_STAT_dead_cnt d h))

/-- Move, keep or discard the word of one claim. `cs` and `s0` are the claims and the state at the start of the
cycle, which decide what it wins and what is ready. -/
def reedWord (s0 : State) (d : Die) (h i : Nat) (cs : List Claim) (s : State) (c : Claim) : State :=
  if tagIdle c.w.tag then
    let free := c.outs.filter (fun o => outReady s0 d h i o &&
      !cs.any (fun x => decide (x.code ≠ c.code) && x.outs.contains o))
    free.foldl (fun s o => putOut s d h i c.w o) (takeInput s d h i c.code)
  else if c.outs = [] then deadEnd (takeInput s d h i c.code) d h
  else if c.outs.all (fun o => wins cs c o && outReady s0 d h i o) then
    c.outs.foldl (fun s o => putOut s d h i c.w o) (takeInput s d h i c.code)
  else s

/-- A reed draft that fails its parity when a word reads it (R256). -/
def reedParity (s : State) (d : Die) (h i : Nat) (cs : List Claim) : State :=
  let bank := (getHar s d h).flip
  match cs.find? (fun c => !reedParityOk (getReedDraft s d h i bank c.w.idx.toNat)) with
  | none => s
  | some c => reedFault s d h (i / 8) (i % 8) c.w.idx.toNat

/-- REED_CYCLE (R93): one cycle of reed i; a reed of a harness that does not step does nothing. -/
def execReedCycle (d : Die) (h : Harn) (i : Fin 64) (s : State) : Host.Outcome State Fault Refusal :=
  .next (if harRuns s d h.val then
    let cs := reedClaims s d h.val i.val
    let t := cs.foldl (fun t c => reedWord s d h.val i.val cs t c) s
    reedParity t d h.val i.val cs
  else s)

/-! ## Harness gates (R90, R114, R115, R203, R204) -/

/-- The far harness of a gate, if the line exists (R89). -/
def gateFar (vertical : Bool) (h : Nat) : Option Nat :=
  if vertical then (if h ≤ 29 then some (h + 6) else none) else (if h % 6 ≤ 4 then some (h + 1) else none)

/-- The reed that a line joins in both its harnesses (R89). -/
def gateReed (vertical : Bool) (h k : Nat) : Nat := if vertical then 8 * warpRow h + k else 8 * k + weftCol h

/-- The indices that words entering a harness with index k may have there: k, and those that the resident drafts of the
cells give to their output words (R58, R97). -/
def reachIdx (s : State) (d : Die) (h k : Nat) : List Nat :=
  (List.range 16).foldl (fun ks _ =>
    (ks ++ ks.flatMap (fun j => ((List.range 64).map (fun i =>
        residentDraft s d h (cellKey d h (i / 8) (physCol s d h (i / 8) (i % 8))) j)).filterMap (fun c =>
      if c.en && c.outMode then some c.outIdx.toNat else none))).dedup) [k]

/-- Does a reed draft select or drive the line of its reed? -/
def usesLine (dr : BitVec 96) (vertical : Bool) : Bool :=
  (if vertical then reedDrvV dr else reedDrvH dr) ||
    reedOuts.any (fun o => decide (reedSel dr o = if vertical then 15 else 14))

/-- The yarns of a harness that use a line: a draft of an index that their words may have there selects or drives it. -/
def lineYarns (s : State) (d : Die) (vertical : Bool) (h reed : Nat) : List Nat :=
  let bank := (getHar s d h).flip
  let used := (List.range 16).filter (fun k => usesLine (getReedDraft s d h reed bank k) vertical)
  ((yarnsOn s d).filter (fun e => e.2.stages.any (fun g => decide (g.harness = h) &&
    (reachIdx s d h g.idx.toNat).any (fun k => used.contains k)))).map (fun e => e.1)

/-- Record a contention in LL_FAULT of a harness (R114); `failed` says whether the line recorded has failed (R115, R120). -/
def recordLine (s : State) (d : Die) (h seg : Nat) (idx : BitVec 4) (failed : Bool) : State :=
  setF (setF (setF (setF s fLL_FAULT_valid d h 1) fLL_FAULT_idx d h idx.toNat) fLL_FAULT_seg d h seg)
    fLL_FAULT_failed d h (bitN failed)

/-- Both ends drive a line (R114): drivers off, forced idle words, LL_FAULT and a fault in both harnesses; again in
the same beat, the line fails and its yarns stop at their next boundary (R115). -/
def contend (s : State) (d : Die) (vertical : Bool) (h far k : Nat) (idx : BitVec 4) : State :=
  let key := gateKey d vertical h k
  let g := getGate s key
  let ord := (getBeat s d).ord
  let seg := segAddr d vertical h k
  let again := decide (g.contended = some ord)
  let s := setGate s key { g with contended := some ord, forced := true, failed := g.failed || again }
  let failed := g.failed || again
  let s := recordLine (recordLine s d h seg idx failed) d far seg idx failed
  let s := if again then
      let reed := gateReed vertical h k
      let ys := (lineYarns s d vertical h reed ++ lineYarns s d vertical far reed).dedup
      ys.foldl (fun s n => settleYarn (modYarn s d n (fun y => { y with stopReq := true })) d n) s
    else s
  harnessFault (harnessFault s d h seg) d far seg

/-- Carry one word across a gate: into the far reed when it comes from the west or north end, and back otherwise. -/
def carry (s : State) (d : Die) (vertical : Bool) (h far k : Nat) (toFar : Bool) : State :=
  let key := gateKey d vertical h k
  let g := getGate s key
  let code := if vertical then 15 else 14
  let reed := gateReed vertical h k
  if toFar then
    match g.fromA with
    | [] => s
    | w :: ws => setReedIn (setGate s key { g with fromA := ws, turnB := true }) (reedKey d far reed code) (some w)
  else
    match g.fromB with
    | [] => s
    | w :: ws => setReedIn (setGate s key { g with fromB := ws, turnB := false }) (reedKey d h reed code) (some w)

/-- May the gate carry a word in a direction: one waits, the receiving side is open and its input is free? -/
def canCarry (s : State) (d : Die) (vertical : Bool) (h far k : Nat) (toFar : Bool) : Bool :=
  let g := getGate s (gateKey d vertical h k)
  let code := if vertical then 15 else 14
  let reed := gateReed vertical h k
  if toFar then !g.fromA.isEmpty && harOpen s d far && harOpen s d h && idleOrNone (getReedIn s (reedKey d far reed code))
  else !g.fromB.isEmpty && harOpen s d h && harOpen s d far && idleOrNone (getReedIn s (reedKey d h reed code))

/-- HARNESS_GATE_TRANSFER (R203): one grant of a gate, or the contention of R114. -/
def gateStep (s : State) (d : Die) (vertical : Bool) (h far k : Nat) (both : Option (BitVec 4)) : State :=
  match both with
  | some idx => contend s d vertical h far k idx
  | none =>
    let g := getGate s (gateKey d vertical h k)
    if g.forced || g.failed then s
    else
      let a := canCarry s d vertical h far k true
      let b := canCarry s d vertical h far k false
      if a && (!b || !g.turnB) then carry s d vertical h far k true
      else if b then carry s d vertical h far k false
      else s

/-- HARNESS_GATE_TRANSFER (R203). A line that does not exist carries nothing. -/
def execHarnessGateTransfer (d : Die) (vertical : Bool) (h : Harn) (k : Fin 8) (both : Option (BitVec 4)) (s : State) :
    Host.Outcome State Fault Refusal :=
  match gateFar vertical h.val with
  | none => .next s
  | some far => .next (gateStep s d vertical h.val far k.val both)

end Sys2Proof.Machine
end

