-- ==== Sys2Proof/Machine/Bobbins.lean ====
section
/-! DEFINITION. The bobbin engine (R121 to R124, R138 to R153): rings of blocks, near-store and spool, words written
and read, discards and flushes, full policy, the pointer check, and the journal that entry items go to (R166 to R170).
A bobbin is named by its number; the copy of a twin yarn's input bobbin on the other die (R191) stands at 65,536 plus
the number. -/

namespace Sys2Proof.Machine

/-! ## Rings of blocks (R141, R152, R153, R166) -/

/-- A ring: the writer's and reader's blocks, the blocks in use, the blocks it held when the writer last wrapped, its
size, and the size of a pending shrink. -/
structure RingPos where
  w    : Nat
  r    : Nat
  used : Nat
  mark : Nat
  size : Nat
  pend : Option Nat
  deriving DecidableEq, Repr

/-- Has the writer wrapped since the reader last did? -/
def ringWrapped (p : RingPos) : Bool := decide (p.w ≠ p.r + p.used)

/-- May no block be written: the ring is full, the writer that has wrapped has come up to the reader (R152, R153), or it stands
at the end of a pending shrink (R153)? -/
def ringFull (p : RingPos) : Bool :=
  decide (p.size ≤ p.used) || (decide (p.w = p.r) && decide (0 < p.used)) || (decide (p.pend = some p.w) && ringWrapped p)

/-- The writer moves past the block it wrote. -/
def ringPush (p : RingPos) : RingPos :=
  let q := p.w + 1
  if q = p.size ∨ (p.pend = some q ∧ !ringWrapped p) then { p with w := 0, mark := q, used := p.used + 1 }
  else { p with w := q, used := p.used + 1 }

/-- The reader moves past the block it read; when it wraps, a pending shrink takes effect (R153), unless the writer still stands
beyond the new end, which runs on to the old one first (DEDUCED, log entry 247). Answers whether it wrapped. -/
def ringPop (p : RingPos) : RingPos × Bool :=
  let q := p.r + 1
  if ringWrapped p && decide (q = p.mark) then
    match p.pend with
    | none => ({ p with r := 0, used := p.used - 1 }, true)
    | some z =>
      if p.w = z then ({ p with r := 0, used := p.used - 1, w := 0, mark := z, size := z, pend := none }, true)
      else if z < p.w then ({ p with r := 0, used := p.used - 1 }, true)
      else ({ p with r := 0, used := p.used - 1, size := z, pend := none }, true)
  else ({ p with r := q, used := p.used - 1 }, false)

/-! ## Allocation of the stacks (R261) -/

/-- The granules of the allocatable share. -/
def allocLimit : Nat := 0x580000

/-- Is a range of granules of a stack free, with none withdrawn (R266)? -/
def allocFree (s : State) (stack : Die) (base len : Nat) : Bool :=
  s.mem.allocs.all (fun a => decide (a.stack ≠ stack) || decide (a.base + a.len ≤ base) || decide (base + len ≤ a.base)) &&
    !(getHbm s stack).bad.any (fun g => decide (base ≤ g) && decide (g < base + len))

/-- The lowest free place for a region within bounds: the firmware's choice in this model (log entry 21). -/
def allocFit (s : State) (stack : Die) (lo hi len : Nat) : Option Nat :=
  let cs := lo :: ((s.mem.allocs.filter (fun a => a.stack = stack)).map (fun a => a.base + a.len) ++
    (getHbm s stack).bad.map (fun g => g + 1))
  (cs.filter (fun c => decide (lo ≤ c) && decide (c + len ≤ hi) && allocFree s stack c len)).foldl
    (fun r c => match r with
      | none => some c
      | some b => some (min b c)) none

/-- Take a region. -/
def allocTake (s : State) (a : Alloc) : State := { s with mem.allocs := s.mem.allocs ++ [a] }

/-- The size of the spool region of a stack (R366), in granules; it stands at the bottom of the share. -/
def spoolRegion (s : State) (d : Die) : Nat := leNat (memRead s.mem.sys (d.val * 4096 + 36) 4)

/-- The size of the journal ring in the image (R366), in granules. -/
def journalRegion (s : State) (d : Die) : Nat := leNat (memRead s.mem.sys (d.val * 4096 + 40) 4)

/-! ## A bobbin's ring and space -/

/-- The spool ring of a bobbin. -/
def bobRing (b : Bob) : RingPos :=
  { w := b.wpos, r := b.rpos, used := (b.wseq - b.rseq).toNat, mark := b.wmark, size := b.quota * 64,
    pend := if b.rszPend then some (b.newQuota * 64) else none }

/-- A bobbin with the positions of a ring. -/
def bobWithRing (b : Bob) (p : RingPos) : Bob :=
  { b with wpos := p.w, rpos := p.r, wmark := p.mark, quota := p.size / 64, rszPend := p.pend.isSome }

/-- The capacity of a bobbin in words (R142, R153). -/
def bobCapacity (b : Bob) : Nat := 32 + 512 * (if b.rszPend then b.newQuota else b.quota)

/-- The words a bobbin holds: none while regenerated words are discarded up to rp (R183). -/
def bobWords (b : Bob) : Nat := if 0 < b.skip then 0 else (b.wp - b.rp).toNat

/-- A regenerated word is discarded as it arrives (R183): wp moves past it, and rp with it unless the consumer's rp was kept. -/
def discardWord (b : Bob) : Bob :=
  let c := { b with skip := b.skip - 1, wp := b.wp + 1, wp2 := b.wp2 + 1 }
  if b.rp = b.wp then { c with rp := b.rp + 1, rp2 := b.rp2 + 1 } else c

/-- The free space of a bobbin (R146, R152, R153). -/
def bobSpace (b : Bob) : Nat :=
  let p := bobRing b
  if decide (p.pend = some p.w) && ringWrapped p then 0
  else bobCapacity b - bobWords b - b.resv.toNat - b.grown

/-- The words of closed and open items and of reservations (R153). -/
def bobOccupancy (b : Bob) : Nat :=
  (b.items.map (fun i => i.n)).sum + (match b.opened with
    | some o => o.n
    | none => 0) + b.resv.toNat

/-- Is a position within a range of words? -/
def inRange (start : Word) (n : Nat) (p : Word) : Bool := decide ((p - start).toNat < n)

/-- Words left in the tail move into the head while the spool part is empty (R139). -/
def moveTail (b : Bob) : Bob :=
  if b.spoolPos = [] then
    let m := 16 - b.head.length
    { b with head := b.head ++ b.tail.take m, tail := b.tail.drop m }
  else b

/-! ## Spool blocks (R139 to R141) -/

/-- The tags of eight words, twelve bits each. -/
def packTags : List TWord → Nat
  | [] => 0
  | w :: ws => w.tag.toNat + 4096 * packTags ws

/-- A block of the spool format: eight words, a sequence number and a bobbin number, with its crc (R140). -/
def spoolBlock (ws : List TWord) (seq bob : Nat) : List Byte :=
  let body := padTo 32 (bytesOf (ws.map (fun w => w.data))) ++ leBytes 12 (packTags ws) ++ leBytes 4 seq ++
    leBytes 2 bob ++ List.replicate 10 0
  body ++ leBytes 4 (crc32c body)

/-- The eight words of a block. -/
def blockWords (bs : List Byte) : List TWord :=
  let tags := fieldAt bs 0x20 12
  (List.range 8).map (fun i =>
    { data := BitVec.ofNat 32 (fieldAt bs (4 * i) 4), tag := BitVec.ofNat 12 (tags / 4096 ^ i % 4096) })

/-- Do a block's crc, bobbin number and sequence number agree (R141)? -/
def blockOk (bs : List Byte) (seq bob : Nat) : Bool :=
  decide (crc32c (bs.take 60) = fieldAt bs 0x3C 4) && decide (fieldAt bs 0x30 2 = bob) &&
    decide (fieldAt bs 0x2C 4 = seq)

/-- The address of a block of a bobbin's ring (R141). -/
def spoolAddr (b : Bob) (j : Nat) : Nat := b.base * 4096 + 64 * j

/-- Spill eight words of the tail as one block (R139, R140). -/
def spillBlock (s : State) (n : Nat) : State :=
  let b := getBob s n
  let p := bobRing b
  if b.tail.length < 8 ∨ ringFull p then s
  else
    let ws := b.tail.take 8
    let s := writeHbm s b.die (spoolAddr b b.wpos) (spoolBlock (ws.map (fun w => w.w)) b.wseq.toNat (n % 65536))
    setBob s n (bobWithRing { b with tail := b.tail.drop 8, wseq := b.wseq + 1,
                                     spoolPos := b.spoolPos ++ ws.map (fun w => w.pos) } (ringPush p))

/-- May the bobbin engine spill (R139)? -/
def maySpill (b : Bob) : Bool := decide (8 ≤ b.tail.length) && (decide (16 ≤ b.head.length) || decide (b.spoolPos ≠ []))

/-! ## Bobbin faults (R149) -/

/-- Empty a bobbin: every word, item and reservation goes (R149 step 2). -/
def emptyBob (b : Bob) : Bob :=
  { b with head := [], tail := [], spoolPos := [], dead := [], items := [], opened := none, deliver := 0, resv := 0,
           grown := 0, rpos := b.wpos, rseq := b.wseq, skip := 0 }

/-- The yarns that produce and consume a bobbin. -/
def bobYarns (b : Bob) : List Nat :=
  (if b.prod = .yarn then [b.prodId.toNat] else []) ++ (if b.cons = .yarn then [b.consId.toNat] else [])

/-- Does replay cover the bobbin's items: is one of its yarns of class REPLAY (R141, R181)? -/
def bobCovered (s : State) (b : Bob) : Bool :=
  let on (d : Die) (y : Nat) : Bool := decide ((getYarn s d y).state ≠ .free) && decide ((getYarn s d y).replay = 0)
  (bobYarns b).any (fun y => on b.die y || on (otherDie b.die) y)

/-- The items in flight hold no reservation in a bobbin any more: their outputs that it takes (R129). -/
def dropResv (s : State) (n : Nat) : State :=
  let keep (f : Flight) (j : Nat) : Bool := match (getYarn s f.die f.yarn).outs.getD j none with
    | some o => decide (o.bob ≠ n)
    | none => true
  { s with flow.flights := s.flow.flights.map (fun f => { f with resv := f.resv.filter (keep f) }) }

/-- A bobbin fault (R149): the bobbin is RESETTING and emptied, an item in delivery ends (R144), BOB_ERR holds both copies of the
pointers, and the beat engine has a fault of the bobbin class. `record` is false for an error of the near-store (R255). -/
def bobFault (s : State) (n cause : Nat) (record : Bool) : State :=
  let b := getBob s n
  let d := b.die
  let s := if record then
      let s := setF (setF (setF s fBOB_ERR_valid d 0 1) fBOB_ERR_cause d 0 cause) fBOB_ERR_bobbin d 0 (n % 65536)
      setReg (setReg (setReg (setReg s .BOB_ERR_WP1 d 0 b.wp) .BOB_ERR_WP2 d 0 b.wp2) .BOB_ERR_RP1 d 0 b.rp)
        .BOB_ERR_RP2 d 0 b.rp2
    else s
  let s := dropResv (setBob s n { emptyBob b with state := .resetting, lost := b.items }) n
  let s := { s with flow.flights := s.flow.flights.map (fun f => if f.inBob = some n then { f with inBob := none, left := 0 } else f) }
  addFault s d { cls := 1, id := BitVec.ofNat 16 n, har := none, bob := some n }

/-- The pointer check at a use of the bobbin (R149). `flip` is an upset of the second copy of wp. Answers the state
and whether the pointers agree. -/
def pointerCheck (s : State) (n : Nat) (flip : Word) : State × Bool :=
  let b := getBob s n
  let b := { b with wp2 := b.wp2 ^^^ flip }
  if b.state = .active && !(decide (b.wp = b.wp2) && decide (b.rp = b.rp2)) then
    (bobFault (setBob s n b) n 0 true, false)
  else (setBob s n b, true)

/-- What the bobbin engine finds at a use of a bobbin (R255, R256): a near-store entry that is corrected is counted, one that cannot
be is a bobbin fault and counted, and so is an uncorrectable entry of the bobbin table, for which BOB_ERR.cause has no code and
reads 0b00 (DESIGN CHOICE, log entry 257). Answers the state and whether the bobbin goes on. -/
def bobCheck (s : State) (n : Nat) (u : BobUpset) : State × Bool :=
  let d := (getBob s n).die
  if (getBob s n).state ≠ .active then (s, true)
  else
    match u with
    | .none => (s, true)
    | .corrected => (countF s fMEM_ECC_ce d 0, true)
    | .bad => (bobFault (countF s fMEM_ECC_ue_nsto d 0) n 0 false, false)
    | .entryBad => (bobFault s n 0 true, false)

/-! ## Refill (R139, R141) -/

/-- The granules a shrunk bobbin gives back. -/
def trimAlloc (s : State) (stack : Die) (kind : RegionKind) (len : Nat) : State :=
  { s with mem.allocs := s.mem.allocs.map (fun a => if a.stack = stack ∧ a.kind = kind then { a with len := len } else a) }

/-- Refill the head from one block: its check, its words but those of discarded items, and the reader's move. A block
that fails is a bobbin fault, or for a bobbin that replay does not cover its words go on with poison = 1 (R141). -/
def refillBlock (s : State) (n : Nat) (out : ReadOutcome) : State :=
  let b := getBob s n
  if b.spoolPos = [] ∨ 8 < b.head.length then s
  else
    let bs := readHbm s b.die (spoolAddr b b.rpos) 64
    let r := stackCheck s b.die (spoolAddr b b.rpos) 64 out 0
    let s := r.1
    let ue := r.2
    let ok := !ue && blockOk bs b.rseq.toNat (n % 65536)
    if !ok && bobCovered s b then bobFault s n (if ue then 2 else 1) true
    else
      let poison (w : TWord) : TWord := if ok then w else { w with tag := w.tag ||| 0x080 }
      let all := (b.spoolPos.take 8).zip ((blockWords bs).map poison)
      let keep := all.filter (fun e => !b.dead.any (fun r => inRange r.1 r.2 e.1))
      let gone := BitVec.ofNat 32 (all.length - keep.length)
      let p := ringPop (bobRing b)
      let left := b.spoolPos.drop 8
      let c := bobWithRing { b with head := b.head ++ keep.map (fun e => { pos := e.1, w := e.2 }), spoolPos := left,
                                    rseq := b.rseq + 1, rp := b.rp + gone, rp2 := b.rp2 + gone,
                                    grown := if p.2 then 0 else b.grown,
                                    dead := b.dead.filter (fun r => left.any (inRange r.1 r.2)) } p.1
      let s := setBob s n (moveTail c)
      let s := if c.quota < b.quota then trimAlloc s b.die (.spool n) c.quota else s
      if ok then s
      else raiseEvent s 0x05 b.die (BitVec.ofNat 32 ((bobYarns b).headD 0)) 0xFF

/-- Refill until the head holds a word, at most `fuel` blocks. -/
def refillSome : Nat → State → Nat → State
  | 0, s, _ => s
  | k + 1, s, n =>
    let b := getBob s n
    if b.head = [] ∧ b.spoolPos ≠ [] then refillSome k (refillBlock s n .clean) n else s

/-! ## Taking words (R143, R144) -/

/-- The closed item at the head of a bobbin that a consumer may take (R143). -/
def headItem (b : Bob) : Option ItemRec :=
  if b.state = .active && !b.consCut then b.items.head? else none

/-- Take the next word of the closed item at the head: it leaves the bobbin. -/
def takeWord (s : State) (n : Nat) : State × TWord :=
  let s := refillSome ((getBob s n).spoolPos.length) s n
  let b := getBob s n
  match b.items with
  | [] => (s, idleWord)
  | i :: is =>
    let done := decide (i.n ≤ b.deliver + 1)
    let b := { b with rp := b.rp + 1, rp2 := b.rp2 + 1, items := if done then is else i :: is,
                      deliver := if done then 0 else b.deliver + 1 }
    match i.side with
    | some w => (setBob s n b, w)
    | none =>
      match b.head with
      | [] => (setBob s n b, idleWord)
      | w :: ws => (setBob s n (moveTail { b with head := ws }), w.w)

/-- Take the words of the item at the head to its end. -/
def takeItem (s : State) (n : Nat) : State × List TWord :=
  match (getBob s n).items with
  | [] => (s, [])
  | i :: _ =>
    (List.range (i.n - (getBob s n).deliver)).foldl (fun r _ =>
      let t := takeWord r.1 n
      (t.1, r.2 ++ [t.2])) (s, [])

/-! ## Discards (R124, R139, R148, R150) -/

/-- Discard a range of words: those in the head and tail go at once, those in the spool when they are read (R139). -/
def dropRange (b : Bob) (start : Word) (n : Nat) : Bob :=
  let keep (w : PosWord) : Bool := !inRange start n w.pos
  let gone := BitVec.ofNat 32 ((b.head.filter (fun w => !keep w)).length + (b.tail.filter (fun w => !keep w)).length)
  moveTail { b with head := b.head.filter keep, tail := b.tail.filter keep, rp := b.rp + gone, rp2 := b.rp2 + gone,
                    dead := if b.spoolPos.any (inRange start n) then b.dead ++ [(start, n)] else b.dead }

/-- Discard the open item whole. -/
def dropOpen (b : Bob) : Bob :=
  match b.opened with
  | none => b
  | some o => { dropRange b o.start o.n with opened := none }

/-- Are the dies split or is one lost (R22, R192)? -/
def apart (s : State) : Bool :=
  flagF s fBRD_STAT_split 0 0 || flagF s fBRD_STAT_split 1 0 || flagF s fBEAT_STAT_peer_lost 0 0 || flagF s fBEAT_STAT_peer_lost 1 0

/-- The journal entry of an item in a ring, or its mirror copy there (R168, R190). -/
def entryOf (mirror : Bool) (n : Nat) (start : Word) (e : JEntry) : Bool :=
  decide (e.bob = n) && decide (e.wp = start) && !e.dropped && decide (e.mirrored = mirror)

/-- Where a block of the journal ring of a die stands (R166). -/
def jrnAddr (s : State) (d : Die) (j : Nat) : Nat := getF s fJRN_BASE_granules d 0 * 4096 + 64 * j

/-- Rewrite the second word of an entry's header with the dropped flag set, and its crc (R167, R168). -/
def markDropped (s : State) (d : Die) (e : JEntry) : State :=
  let a := jrnAddr s d e.block
  let h := readHbm s d a 60
  let body := h.take 4 ++ leBytes 4 (putBits (fieldAt h 4 4) 16 16 1) ++ h.drop 8
  writeHbm s d a (body ++ leBytes 4 (crc32c body))

/-- Set dropped in the entries of a ring that a test names. -/
def dropEntries (s : State) (d : Die) (p : JEntry → Bool) : State :=
  let es := (getBeat s d).jents.filter p
  let s := es.foldl (fun s e => markDropped s d e) s
  modBeat s d (fun b => { b with jents := b.jents.map (fun e => if p e then { e with dropped := true } else e) })

/-- Set dropped in the journal entry of a discarded item of a bobbin (R168): for an item of a twin's copy in the mirror entry of
that copy's ring, and for another in its own entry and, while the dies are together, in the mirror copy of a bobbin that has no
twin (R190, R191). -/
def dropEntry (s : State) (n : Nat) (start : Word) : State :=
  let d := (getBob s n).die
  if 65536 ≤ n then dropEntries s d (entryOf true (n - 65536) start)
  else
    let s := dropEntries s d (entryOf false n start)
    if apart s || decide ((getBob s (n + 65536)).state ≠ .free) then s
    else dropEntries s (otherDie d) (entryOf true n start)

/-- Discard a closed item of a bobbin, its journal entry marked. -/
def dropClosed (s : State) (n : Nat) (i : ItemRec) : State :=
  let b := getBob s n
  let b := { b with items := b.items.erase i }
  let s := setBob s n (dropRange b i.start i.n)
  if i.jrn then dropEntry s n i.start else s

/-- The closed items that a flush or drop old may discard: not in delivery and no beat marks (R148, R150). -/
def droppable (b : Bob) : List ItemRec :=
  (if b.deliver = 0 then b.items else b.items.drop 1).filter (fun i => decide (i.kind ≠ 3))

/-- The item of a twin's input bobbin on the other die that is the copy of a closed item (R191): the one that has as many items
after it. -/
def twinOfItem (s : State) (n : Nat) (i : ItemRec) : Option ItemRec :=
  let mine := (droppable (getBob s n)).reverse
  let its := (droppable (getBob s (n + 65536))).reverse
  if 65536 ≤ n ∨ (getBob s (n + 65536)).state ≠ .active ∨ apart s then none
  else (mine.idxOf? i).bind (fun k => its[k]?)

/-- Has the bobbin a copy for a twin on the other die that takes the same items (R191)? -/
def twinned (s : State) (n : Nat) : Bool :=
  decide (n < 65536) && decide ((getBob s (n + 65536)).state = .active) && !apart s

/-- The closed items that may be discarded: in a bobbin with a twin's copy those that neither copy has begun to take, since both
copies admit the same items (R191). -/
def discardable (s : State) (n : Nat) : List ItemRec :=
  (droppable (getBob s n)).filter (fun i => !twinned s n || (twinOfItem s n i).isSome)

/-- Discard a closed item and its copy in a twin's input bobbin, so that both copies admit the same items (R191). -/
def dropBoth (s : State) (n : Nat) (i : ItemRec) : State :=
  match twinOfItem s n i with
  | some j => dropClosed (dropClosed s n i) (n + 65536) j
  | none => if twinned s n then s else dropClosed s n i

/-- Steps 2 and 3 of R150: the open item is discarded, its further words are dropped, and the producer's next write
has status FLUSHED. -/
def flushOpen (b : Bob) : Bob :=
  if b.opened.isSome then { dropOpen b with dropping := true, flushed := true } else { b with flushed := true }

/-- A flush (R150), which discards the same items from the copy of a bobbin with a twin (R191). -/
def flushBob (s : State) (n : Nat) : State :=
  let s := (discardable s n).foldl (fun s i => dropBoth s n i) s
  modBob s n flushOpen

/-! ## The journal (R166 to R170) -/

/-- The journal ring of a die. -/
def jrnRing (s : State) (d : Die) : RingPos :=
  let b := getBeat s d
  { w := b.jw, r := b.jr, used := b.jlen, mark := b.jmark, size := getF s fJRN_SIZE_granules d 0 * 64,
    pend := b.jshrink.map (fun q => q * 64) }

/-- Store the positions of the journal ring; JRN_SIZE shows the size in force. -/
def setJrnRing (s : State) (d : Die) (p : RingPos) : State :=
  let s := modBeat s d (fun b => { b with jw := p.w, jr := p.r, jlen := p.used, jmark := p.mark,
                                          jshrink := p.pend.map (fun z => z / 64) })
  setF s fJRN_SIZE_granules d 0 (p.size / 64)

/-- The free blocks of the journal ring, of which `grown` are not yet free (R152): a writer that has wrapped has them up to the
reader. -/
def jrnFree (p : RingPos) (grown : Nat) : Nat :=
  let free := (p.pend.getD p.size) - p.used - grown
  if decide (p.pend = some p.w) && ringWrapped p then 0
  else if ringWrapped p then min (p.r - p.w) free
  else free

/-- Write blocks into the journal ring. -/
def jrnBlocks (s : State) (d : Die) : List (List Byte) → State
  | [] => s
  | bs :: rest =>
    let p := jrnRing s d
    jrnBlocks (setJrnRing (writeHbm s d (jrnAddr s d p.w) bs) d (ringPush p)) d rest

/-- Where the next blocks written into a ring will stand. -/
def nextBlocks : Nat → RingPos → List Nat
  | 0, _ => []
  | k + 1, p => p.w :: nextBlocks k (ringPush p)

/-- Words in groups of eight. -/
def groups8 : Nat → List TWord → List (List TWord)
  | 0, _ => []
  | k + 1, ws => if ws = [] then [] else ws.take 8 :: groups8 k (ws.drop 8)

/-- The header block of a journal entry (R167). -/
def jrnHeader (s : State) (n beat src srcId words : Nat) (wp : Word) (rejrn mirror : Bool) : List Byte :=
  let body := padTo 60 (leBytes 4 0x4C4E524A ++ leBytes 4 (n % 65536 + bitN mirror * 131072 + bitN rejrn * 262144) ++
    leBytes 4 beat ++ leBytes 4 wp.toNat ++ leBytes 4 (words + src * 2 ^ 30) ++ leBytes 4 srcId ++
    leBytes 4 s.vigil.ns ++ leBytes 4 s.vigil.seconds.toNat)
  body ++ leBytes 4 (crc32c body)

/-- The source code of an entry-point producer (R167). -/
def srcCode : EndType → Nat
  | .yarn => 0
  | .port => 1
  | .gate => 2
  | .host => 3

/-- The words of JRN_STAT as an event gives them (R196, R341). The occupancy is rounded down, and reads 0 for a ring of size 0
(DESIGN CHOICE, log entry 199). -/
def jrnStatWord (s : State) (d : Die) : Word :=
  let p := jrnRing s d
  let use := if p.size = 0 then 0 else p.used * 100 / p.size
  BitVec.ofNat 32 (putBits (putBits (regRaw s .JRN_STAT d 0).toNat 30 24 use) 23 23 (bitN p.pend.isSome))

/-- An item's entry does not fit (R170): counted, and one event in each beat. -/
def journalRefused (s : State) (d : Die) : State :=
  let s := setF (countF s fJRN_STAT_refused d 0) fJRN_STAT_full d 0 1
  if (getBeat s d).refusedAt = some (getBeat s d).ord then s
  else raiseEvent (modBeat s d (fun b => { b with refusedAt := some b.ord })) 0x03 d 0 (jrnStatWord s d)

/-- Write an entry into the ring of a die; none when it does not fit (R166, R170). -/
def writeEntry (s : State) (d : Die) (n : Nat) (b : Bob) (start : Word) (ws : List TWord) (rejrn mirror : Bool) :
    Option State :=
  let p := jrnRing s d
  let need := 1 + (ws.length + 7) / 8
  if jrnFree p (getBeat s d).jgrown < need then none
  else
    let beat := (beatNum s d).toNat % 2 ^ 32
    let hd := jrnHeader s n beat (srcCode b.prod) b.prodId.toNat ws.length start rejrn mirror
    let e : JEntry :=
      { ord := (getBeat s d).ord, block := p.w, blocks := (nextBlocks need p).drop 1, bob := n, wp := start, n := ws.length, beat := BitVec.ofNat 32 beat,
        src := BitVec.ofNat 2 (srcCode b.prod), dropped := false, rejrn := rejrn, mirrored := mirror }
    let s := jrnBlocks s d (hd :: (groups8 ws.length ws).map (fun g => spoolBlock g beat (n % 65536)))
    some (modBeat s d (fun b => { b with jents := b.jents ++ [e] }))

/-- Is the yarn that consumes a bobbin mirrored or a twin (R190, R191)? -/
def bobMirrored (s : State) (b : Bob) : Bool :=
  decide (b.cons = .yarn) && decide ((getYarn s b.die b.consId.toNat).prot ≠ 0)

/-- Journal an entry item in its die's ring, and its mirror copy in the other's (R166, R190). -/
def journalItem (s : State) (n : Nat) (b : Bob) (start : Word) (ws : List TWord) (rejrn : Bool) : Option State :=
  match writeEntry s b.die n b start ws rejrn false with
  | none => none
  | some s =>
    if bobMirrored s b && !apart s then
      some ((writeEntry s (otherDie b.die) n b start ws rejrn true).getD s)
    else some s

/-! ## Writing words (R123, R124, R146 to R148) -/

/-- Record a write status (R147). -/
def setWstat (s : State) (n code : Nat) : State := modBob s n (fun b => { b with wstat := BitVec.ofNat 4 code })

/-- Store a word: into the head while the spool part is empty and the head has room, into the tail otherwise; a full
tail is spilled first (R139). -/
def storeWord (s : State) (n : Nat) (w : TWord) : State :=
  let s := if 16 ≤ (getBob s n).tail.length then spillBlock s n else s
  modBob s n (fun b =>
    let p : PosWord := { pos := b.wp, w := w }
    let b := { b with wp := b.wp + 1, wp2 := b.wp2 + 1 }
    if b.spoolPos = [] ∧ b.tail = [] ∧ b.head.length < 16 then { b with head := b.head ++ [p] }
    else moveTail { b with tail := b.tail ++ [p] })

/-- Count an item dropped by the full policy (R148). -/
def countDrop (b : Bob) : Bob := { b with drops := if b.drops = 0xFFFF then b.drops else b.drops + 1 }

/-- Drop new (R148, R170): the open item is discarded and the rest of the item is dropped, with status FULL. -/
def dropNew (s : State) (n : Nat) (w : TWord) : State :=
  modBob s n (fun b => countDrop { dropOpen b with dropping := !tagLast w.tag, wstat := 2 })

/-- Drop old (R148): discard closed items from the head until a word fits. -/
def dropOldUntil : Nat → State → Nat → State
  | 0, s, _ => s
  | k + 1, s, n =>
    let b := getBob s n
    if 0 < bobSpace b then s
    else
      match discardable s n with
      | [] => s
      | i :: _ => dropOldUntil k (modBob (dropBoth s n i) n countDrop) n

/-- Put a whole closed item into a bobbin, words and record. -/
def appendItem (s : State) (n : Nat) (ws : List TWord) (jrn : Bool) : State :=
  let b := getBob s n
  let w0 := ws.headD idleWord
  let i : ItemRec := { start := b.wp, n := ws.length, kind := BitVec.ofNat 2 (tagKind w0.tag),
                       exp := BitVec.ofNat 5 (bitsOf w0.tag.toNat 4 0), ord := (getBeat s b.die).ord, jrn := jrn,
                       side := none }
  modBob (ws.foldl (fun s w => storeWord s n w) s) n (fun b => { b with items := b.items ++ [i] })

/-- The mirror entry written last for a bobbin with a twin's copy stands at that copy's position of the item (R191). -/
def mirrorAt (s : State) (d : Die) (n : Nat) (wp : Word) : State :=
  modBeat s d (fun b => { b with jents := match b.jents.getLast? with
    | some e => b.jents.dropLast ++ [if e.bob = n ∧ e.mirrored then { e with wp := wp } else e]
    | none => [] })

/-- Copy a closed entry item into the twin's input bobbin on the other die (R191), unless the dies are apart. -/
def twinItem (s : State) (n : Nat) (ws : List TWord) : State :=
  let c := getBob s (n + 65536)
  if n < 65536 ∧ c.state = .active ∧ !apart s then mirrorAt (appendItem s (n + 65536) ws true) c.die n c.wp else s

/-- Close the open item (R123): one whose words differ is discarded; an entry item is journalled, or refused when its
entry does not fit (R124, R166, R170). -/
def closeItem (s : State) (n : Nat) (entry : Bool) (w : TWord) : State :=
  let b := getBob s n
  match b.opened with
  | none => s
  | some o =>
    if o.mixed then setWstat (setBob s n (dropOpen b)) n 3
    else
      let i : ItemRec := { start := o.start, n := o.n, kind := o.kind, exp := o.exp, ord := (getBeat s b.die).ord,
                           jrn := entry, side := none }
      let shut (s : State) : State := modBob s n (fun b => { b with opened := none, items := b.items ++ [i] })
      if entry then
        match journalItem s n b o.start o.words false with
        | some s => twinItem (shut s) n o.words
        | none => journalRefused (dropNew s n w) b.die
      else shut s

/-- Is the word one that no producer's item may hold: an idle word, or one of kind beat mark, which only the beat engine writes
(R122)? An item that holds one is discarded when it closes, like one whose words differ in kind (DESIGN CHOICE, log entry 200); the
write status of an idle word is FRAMING at once (R155). -/
def noItemWord (w : TWord) : Bool := tagIdle w.tag || decide (tagKind w.tag = 3)

/-- Accept a word into the open item, or open one with it (R123, R124). -/
def joinItem (s : State) (n : Nat) (w : TWord) (entry : Bool) : State :=
  let b := getBob s n
  let kind := BitVec.ofNat 2 (tagKind w.tag)
  let exp := BitVec.ofNat 5 (bitsOf w.tag.toNat 4 0)
  let o : OpenRec := match b.opened with
    | some o => { o with n := o.n + 1, mixed := o.mixed || decide (o.kind ≠ kind) || decide (o.exp ≠ exp) || noItemWord w,
                         words := if entry then o.words ++ [w] else [] }
    | none => { start := b.wp, n := 1, kind := kind, exp := exp, mixed := noItemWord w, words := if entry then [w] else [] }
  let s := storeWord (setBob s n { b with opened := some o, wstat := if tagIdle w.tag then 3 else if b.flushed then 1 else 0, flushed := false }) n w
  if tagLast w.tag then closeItem s n entry w
  else if 4096 ≤ o.n then modBob s n (fun b => { dropOpen b with dropping := true, wstat := 3 })
  else s

/-- Write one word of a producer into a bobbin (R123, R124, R147, R148). `entry` says that the producer is an entry
point, which may find the bobbin full. -/
def writeWord (s : State) (n : Nat) (w : TWord) (entry : Bool) : State :=
  let b := getBob s n
  if b.state = .free then s
  else if b.prodCut then setWstat s n 5
  else if b.state = .resetting then setWstat s n 4
  else if 0 < b.skip && !entry then setBob s n (discardWord b)
  else if b.dropping && !tagFirst w.tag then
    setBob s n { b with dropping := !tagLast w.tag, wstat := if b.flushed then 1 else b.wstat }
  else
    let s := setBob s n { b with dropping := false }
    if !tagFirst w.tag && b.opened.isNone then setWstat s n 3
    else
      let broken := tagFirst w.tag && b.opened.isSome
      let s := if broken then modBob s n dropOpen else s
      let s := if entry && b.dropOld then dropOldUntil b.items.length s n else s
      if entry && decide (bobSpace (getBob s n) = 0) then dropNew s n w
      else
        let s := joinItem s n w entry
        if broken && decide ((getBob s n).wstat = 0) then setWstat s n 3 else s

/-- Write the words of a whole item of an entry-point producer. -/
def writeItem (s : State) (n : Nat) (ws : List TWord) : State := ws.foldl (fun s w => writeWord s n w true) s

/-- The words of an item of data words from their data, with the kind and exponent given (R122). -/
def itemWords (ds : List Word) (kind exp : Nat) (poison : Bool) : List TWord :=
  let n := ds.length
  (List.range n).map (fun i =>
    { data := ds.getD i 0, tag := mkTag (decide (i = 0)) (decide (i + 1 = n)) false false poison kind exp })

/-! ## Beat marks (R159, R160, R163) -/

/-- Move the words of the open item up by one position, for a mark that goes in before them (R159). -/
def shiftOpen (b : Bob) (o : OpenRec) : Bob :=
  let f (w : PosWord) : PosWord := if inRange o.start o.n w.pos then { w with pos := w.pos + 1 } else w
  let g (p : Word) : Word := if inRange o.start o.n p then p + 1 else p
  { b with head := b.head.map f, tail := b.tail.map f, spoolPos := b.spoolPos.map g,
           opened := some { o with start := o.start + 1 } }

/-- Put a word before the first word at or after a position. -/
def insertAt (pos : Word) (x : PosWord) : List PosWord → List PosWord
  | [] => [x]
  | w :: ws => if (w.pos - pos).toNat < 2 ^ 31 then x :: w :: ws else w :: insertAt pos x ws

/-- Write the beat mark of a beat into a bobbin (R159, R160). It replaces a mark that is the last item and not taken;
it stands before an item that is open. -/
def writeMark (s : State) (n : Nat) (num : BitVec 48) (ord : Nat) : State :=
  let b := getBob s n
  if b.state ≠ .active || (decide (b.prod = .yarn) && b.prodCut) then s
  else if 0 < b.skip then setBob s n (discardWord b)
  else
    let w := markWord num
    let rec_ (start : Word) (side : Option TWord) : ItemRec :=
      { start := start, n := 1, kind := 3, exp := 0, ord := ord, jrn := false, side := side }
    let last := b.items.getLast?
    let repl := match last with
      | some i => decide (i.kind = 3)
      | none => false
    if repl then
      let start := (last.map (fun i => i.start)).getD 0
      let side := (last.map (fun i => i.side)).getD none
      let f (p : PosWord) : PosWord := if p.pos = start then { p with w := w } else p
      let spooled := b.spoolPos.contains start
      let b := { b with items := b.items.dropLast ++ [rec_ start (if side.isSome || spooled then some w else none)],
                        head := b.head.map f, tail := b.tail.map f,
                        dead := if spooled then b.dead ++ [(start, 1)] else b.dead }
      setBob s n (if spooled then { b with rp := b.rp - 1, rp2 := b.rp2 - 1 } else b)
    else
      match b.opened with
      | none =>
        let s := storeWord s n w
        modBob s n (fun c => { c with items := c.items ++ [rec_ b.wp none] })
      | some o =>
        let pos := o.start
        let c := shiftOpen b o
        let spooled := b.spoolPos.any (inRange o.start o.n)
        let x : PosWord := { pos := pos, w := w }
        let inHead := c.head.any (fun p => inRange (pos + 1) o.n p.pos)
        let c := if spooled then c
          else if inHead then { c with head := insertAt pos x c.head }
          else { c with tail := insertAt pos x c.tail }
        setBob s n { c with wp := c.wp + 1, wp2 := c.wp2 + 1,
                            items := c.items ++ [rec_ pos (if spooled then some w else none)] }

/-! ## Resizing (R152, R153) -/

/-- Ask for a new quota of a bobbin: the state, whether it is refused, and whether a shrink is pending. -/
def resizeBob (s : State) (n q : Nat) : State × Bool × Bool :=
  let b := getBob s n
  let cur := bobRing b
  if b.state = .free || b.rszPend || decide (q = 0) || decide (65536 < q) then (s, true, false)
  else if q = b.quota then (s, false, false)
  else if b.quota < q then
    if allocFree s b.die (b.base + b.quota) (q - b.quota) && decide (b.base + q ≤ spoolRegion s b.die) then
      let wrapped := ringWrapped cur
      let s := trimAlloc s b.die (.spool n) q
      (setBob s n { b with quota := q, grown := if wrapped then b.grown + 512 * (q - b.quota) else b.grown }, false, false)
    else (s, true, false)
  else if 32 + 512 * q < bobOccupancy b then (s, true, false)
  else if b.spoolPos = [] then
    let s := trimAlloc s b.die (.spool n) q
    (setBob s n { b with quota := q, wpos := 0, rpos := 0, wmark := 64 * q, grown := 0 }, false, false)
  else (setBob s n { b with rszPend := true, newQuota := q }, false, true)

end Sys2Proof.Machine
end

