-- ==== Sys2Proof/Machine/Cuts.lean ====
section
/-! DEFINITION. Yarn descriptors as bytes (R126), cuts and checkpoints (R159 to R164, R171 to R173), output marks
(R163), and the return of a yarn to RUN (R128, R164). -/

namespace Sys2Proof.Machine

/-! ## The yarn descriptor (R126) -/

/-- A stage word. -/
def stageWord (g : Stage) : Nat := 2 ^ 31 + g.harness * 2 ^ 25 + g.idx.toNat * 2 ^ 21 + g.images * 65536 + g.frame

/-- An input word. -/
def inWord (o : Option Nat) : Nat :=
  match o with
  | some b => 2 ^ 31 + b % 65536
  | none => 0

/-- An output word. -/
def outWord (o : Option OutBind) : Nat :=
  match o with
  | some x => 2 ^ 31 + x.lane.val * 2 ^ 24 + x.idx.toNat * 2 ^ 20 + x.bob
  | none => 0

/-- The 128 bytes of a descriptor, with the state given (R126). -/
def descBytes (n : Nat) (y : Yarn) (st : YState) : List Byte :=
  let w0 := bitN y.pinned * 2 ^ 28 + bitN y.migratable * 2 ^ 27 + y.prot.toNat * 2 ^ 25 + y.replay.toNat * 2 ^ 23 +
    y.ovfPolicy.toNat * 2 ^ 21 + y.homeDie.val * 2 ^ 20 + y.entryIdx.toNat * 65536 + y.prio.toNat * 256 + yStateNo st
  let stg (i : Nat) : Nat := ((y.stages[i]?).map stageWord).getD 0
  padTo 128 (leBytes 4 w0 ++ leBytes 4 n ++
    leBytes 4 (stg 0) ++ leBytes 4 (stg 1) ++ leBytes 4 (stg 2) ++ leBytes 4 (stg 3) ++
    leBytes 4 (inWord (y.ins.getD 0 none)) ++ leBytes 4 (inWord (y.ins.getD 1 none)) ++
    leBytes 4 (inWord (y.ins.getD 2 none)) ++ leBytes 4 (inWord (y.ins.getD 3 none)) ++
    leBytes 4 (outWord (y.outs.getD 0 none)) ++ leBytes 4 (outWord (y.outs.getD 1 none)) ++
    leBytes 4 (outWord (y.outs.getD 2 none)) ++ leBytes 4 (outWord (y.outs.getD 3 none)) ++
    leBytes 4 (y.inNext * 4096 + y.outMax.toNat) ++ leBytes 4 y.ovfCount.toNat ++ leBytes 4 y.itemsIn.toNat ++
    leBytes 4 y.itemsDone.toNat ++ leBytes 8 y.ckpt.toNat ++ leBytes 4 y.ckptBeat.toNat)

/-! ## Beats of two dies (R179) -/

/-- The die whose beats the marks of a bobbin count: its producing yarn's, or its own. -/
def markDie (s : State) (b : Bob) : Die :=
  if b.prod = .yarn then
    (if (getYarn s b.die b.prodId.toNat).state = .free then otherDie b.die else b.die)
  else b.die

/-- The ordinal on a die of a beat that die `w` counts: joint beats keep their distance from the first one, and a beat before the
rejoin counts as one before it (R179 step 4). -/
def ordFrom (s : State) (w d : Die) (o : Nat) : Nat :=
  if w = d then o
  else
    let jw := (getBeat s w).joint
    let jd := (getBeat s d).joint
    if jw ≤ o then jd + (o - jw) else min o (jd - 1)

/-! ## Cuts (R162 to R164) -/

/-- Does only the treadling table feed the yarn: is it pinned with no input bobbin (R162)? -/
def tableFed (y : Yarn) : Bool := y.pinned && y.ins.all (fun i => i.isNone)

/-- Words of an admitted item of a bobbin still to be delivered. -/
def undelivered (s : State) (b : Nat) : Nat :=
  ((s.flow.flights.filter (fun f => f.inBob = some b)).map (fun f => f.left)).sum

/-- The bobbin that a yarn's copy on a die reads: the twin's copy of an input bobbin stands on the other die (R191). -/
def inputBob (s : State) (d : Die) (y : Yarn) (b : Nat) : Nat :=
  if y.prot = 2 ∧ (getBob s b).die ≠ d then b + 65536 else b

/-- How far the yarn has read input i at a cut (R162, R171). -/
def cutRp (s : State) (d : Die) (y : Yarn) (i : Nat) : Word :=
  match y.ins.getD i none with
  | none => 0
  | some b0 =>
    let b := inputBob s d y b0
    match (y.reinject.getD i []), (y.rpFault.getD i none) with
    | r :: _, _ => r.wp
    | [], some rp => rp
    | [], none => (getBob s b).rp + BitVec.ofNat 32 (undelivered s b)

/-- Write a pinned yarn's active buffers to the frame of stage i (R132, R172). -/
def writePinned (s : State) (d : Die) (n i : Nat) : State :=
  let y := getYarn s d n
  match y.stages[i]? with
  | none => s
  | some g =>
    let k := g.idx.toNat
    let s := (y.cuts.filter (fun c => c.toCopy.contains i)).foldl (fun s c => copyStage s d n c.ord i) s
    let cells := statefulCells s d g.harness k
    let img (ck : Nat) : List Byte :=
      let c := getCell s ck
      let sl := getSlot c k
      slotBytes (effCtx sl.act k sl.actItem c.pend)
    writeFrame s d g (frameHeader n y.itemsIn.toNat (getHar s d g.harness).tpos.toNat ++ cells.flatMap img)

/-- Has every output item of the items admitted before a cut closed on output j (R163)? -/
def outsClosed (s : State) (d : Die) (n j : Nat) (upTo : Word) : Bool :=
  (flightsOf s d n).all (fun f => f.closed.contains j ||
    (decide (f.seq ≠ upTo) && decide ((f.seq - upTo).toNat < 2 ^ 31)))

/-- Does the copy of a twin on this die write the bound bobbin (R191)? A yarn that is no twin always does. -/
def writesBob (s : State) (d : Die) (y : Yarn) (b : Nat) : Bool := decide (y.prot ≠ 2) || decide ((getBob s b).die = d)

/-- The reservation of a flight in the bobbin of output j goes, if it still holds one (R129). -/
def releaseResv (s : State) (id j : Nat) : State :=
  match getFlight s id with
  | none => s
  | some f =>
    let y := getYarn s f.die f.yarn
    match y.outs.getD j none with
    | some o =>
      if f.resv.contains j then
        modBob (modFlight s id (fun f => { f with resv := f.resv.filter (fun k => decide (k ≠ j)) })) o.bob
          (fun b => { b with resv := b.resv - BitVec.ofNat 32 (y.outMax.toNat + 1) })
      else s
    | none => s

/-- Every reservation of a flight goes (R129, R182). -/
def releaseAll (s : State) (id : Nat) : State := (List.range 4).foldl (fun s j => releaseResv s id j) s

/-- Write the mark of one cut into output j, once the output items before it have closed (R163). -/
def outMark (s : State) (d : Die) (n : Nat) (ord j : Nat) : State :=
  let y := getYarn s d n
  match y.cuts.find? (fun c => c.ord = ord), y.outs.getD j none with
  | some c, some o =>
    if (c.mwps.getD j none).isSome || !outsClosed s d n j c.itemsIn then s
    else
      let s := if writesBob s d y o.bob then writeMark s o.bob (numOfOrd s d ord) ord else s
      let f (c : CutRec) : CutRec := if c.ord = ord then { c with mwps := listSet c.mwps j (some (getBob s o.bob).wp) } else c
      setYarn s d n { y with cuts := y.cuts.map f }
  | _, _ => s

/-- Write every output mark that is due, in the order of the cuts (R163). -/
def outMarks (s : State) (d : Die) (n : Nat) : State :=
  (getYarn s d n).cuts.foldl (fun s c => (List.range 4).foldl (fun s j => outMark s d n c.ord j) s) s

/-- Has every admitted item of a yarn been retired in stage i, and is nothing being written back there? -/
def stageIdle (s : State) (d : Die) (n i : Nat) : Bool :=
  let h := ((getYarn s d n).stages[i]?.map (fun g => g.harness)).getD 0
  (flightsOf s d n).all (fun f => f.retired.contains i && !(getHar s d h).wbs.any (fun w => decide (w.flight = f.id)))

/-- Take the yarn's cut for the beat of an ordinal (R162). A pinned yarn's frame of a stage is written at the cut if the stage has
retired every item before it, and otherwise when the last of them is retired there (R132, R172). -/
def takeCut (s : State) (d : Die) (n ord : Nat) : State :=
  let y := getYarn s d n
  let s := if y.pinned then
      ((List.range y.stages.length).filter (stageIdle s d n)).foldl (fun s i => writePinned s d n i) s
    else s
  let y := getYarn s d n
  let same := decide (y.lastAt = some y.itemsIn) && !tableFed y
  let tpos := y.stages.map (fun g => (getHar s d g.harness).tpos)
  let c : CutRec :=
    { ord := ord, itemsIn := y.itemsIn, ovf := y.ovfCount, inNext := y.inNext,
      rps := (List.range 4).map (cutRp s d y), mwps := [none, none, none, none],
      toCopy := if same then [] else List.range y.stages.length, copied := [], tpos := tpos, twin := y.twinHash }
  let snap := descBytes n { y with itemsDone := y.itemsIn } y.state
  outMarks (setYarn s d n { y with cut := ord, cuts := y.cuts ++ [c], lastAt := some y.itemsIn, twinHash := 0,
                                   snaps := y.snaps ++ [(ord, snap)] }) d n

/-- Take every cut up to an ordinal at this point (R162, R164). -/
def takeCuts (s : State) (d : Die) (n upTo : Nat) : State :=
  (List.range upTo).foldl (fun s i => if (getYarn s d n).cut < i + 1 then takeCut s d n (i + 1) else s) s

/-- Is the yarn in a state in which its cuts wait for its marks (R162, R164)? -/
def cutsAtMarks (y : Yarn) : Bool := y.state = .run || y.state = .replay || y.state = .migrate

/-- The oldest of the marks taken from the valid inputs: the beat of which a mark or a later one has been taken from
every one of them (R162). -/
def marksAll (y : Yarn) : Nat :=
  ((List.range 4).filter (fun i => (y.ins.getD i none).isSome)).foldl
    (fun r i => match r with
      | none => some (y.marks.getD i 0)
      | some m => some (min m (y.marks.getD i 0))) none |>.getD 0

/-- A yarn of a live update at its cut: a migratable one goes to MIGRATE, another to HOLD (R128, R194). -/
def updateAtCut (s : State) (d : Die) (n : Nat) : State :=
  match (getBeat s d).update with
  | none => s
  | some u =>
    let y := getYarn s d n
    if u.phase ≠ .moving then s
    else if y.migratable && (y.state = .run || y.state = .hold) && y.prot ≠ 2 then
      modBeat (setYarn s d n { y with before := y.state, state := .migrate }) d (fun b =>
        { b with update := some { u with moving := u.moving ++ [n] } })
    else if y.state = .run then setYarn s d n { y with state := .hold, updHold := true }
    else s

/-- A mark of an ordinal is taken from input i; with the last of the marks the yarn takes its cut (R162). -/
def noteMark (s : State) (d : Die) (n i ord : Nat) : State :=
  let y := getYarn s d n
  let marks := listSet (y.marks ++ List.replicate (4 - y.marks.length) 0) i (max (y.marks.getD i 0) ord)
  let y := { y with marks := marks }
  let s := setYarn s d n y
  if cutsAtMarks y && decide (y.cut < marksAll y) then updateAtCut (takeCuts s d n (marksAll y)) d n else s

/-- MARK_TAKE (R161): the yarn takes a beat mark at the head of an input bobbin, or one that is re-created between
re-injected items (R184). -/
def markTake (s : State) (d : Die) (n i : Nat) : State :=
  let y := getYarn s d n
  if y.state = .free ∨ restoring s d n ∨ !domWorks s d 56 then s
  else
    match y.ins.getD i none with
    | none => s
    | some b0 =>
      let b := inputBob s d y b0
      match y.reinject.getD i [] with
      | r :: rs =>
        let s := if r.words = [] then setYarn s d n { y with reinject := listSet y.reinject i rs } else s
        if y.marks.getD i 0 < r.ord then noteMark s d n i r.ord else s
      | [] =>
        match headItem (getBob s b) with
        | none => s
        | some it => if it.kind ≠ 3 ∨ 0 < undelivered s b then s else noteMark (takeWord s b).1 d n i (ordFrom s (markDie s (getBob s b)) d it.ord)

/-- MARK_TAKE (R161). -/
def execMarkTake (d : Die) (y : YarnNo) (input : Fin 4) (s : State) : Host.Outcome State Fault Refusal :=
  .next (markTake s d y.val input.val)

/-! ## Checkpoints (R171, R172) -/

/-- The generation that holds the frame of a stage for the checkpoint of an ordinal: the one of its last copy. -/
def frameGen (y : Yarn) (ord i : Nat) : Option Nat :=
  ((y.copies.filter (fun e => decide (e.1 ≤ ord) && decide (e.2.1 = i))).getLast?).map (fun e => e.2.2)

/-- The stack from which bytes of a yarn's checkpoint area are read: for a mirrored yarn the other one, where its own cannot be read
and that copy can (R190). -/
def ckptStack (s : State) (d : Die) (y : Yarn) (off n : Nat) : Die :=
  if y.prot ≠ 0 ∧ apart s = false ∧ poisoned s d off n = true ∧ poisoned s (otherDie d) off n = false then otherDie d else d

/-- Where a stage's frame in the checkpoint of an ordinal stands, and its length. -/
def framePlace (y : Yarn) (ord i : Nat) : Option (Nat × Nat) :=
  match y.stages[i]?, frameGen y ord i with
  | some g, some gen => some (y.ckpt.toNat % 2 ^ 40 + gen * 0x2040 + 0x40 + i * 0x800, 64 * (1 + g.images))
  | _, _ => none

/-- The bytes of a stage's frame in the checkpoint of an ordinal. -/
def ckptFrame (s : State) (d : Die) (y : Yarn) (ord i : Nat) : List Byte :=
  match framePlace y ord i with
  | some (off, n) => readHbm s (ckptStack s d y off n) off n
  | none => []

/-- The state_crc of a checkpoint (R171). -/
def stateCrc (s : State) (d : Die) (y : Yarn) (ord : Nat) : Nat :=
  crc32c ((List.range y.stages.length).flatMap (fun i => ckptFrame s d y ord i))

/-- The 64-byte record of a checkpoint (R171). -/
def ckptRecord (s : State) (d : Die) (y : Yarn) (c : CutRec) : List Byte :=
  let bit (i : Nat) : Nat := bitN (c.copied.contains i) * 2 ^ i
  let rp (i : Nat) : List Byte := leBytes 4 (c.rps.getD i 0).toNat
  let mw (i : Nat) : List Byte := leBytes 4 ((c.mwps.getD i none).getD 0).toNat
  let body := leBytes 4 (numOfOrd s d c.ord).toNat ++ leBytes 4 c.itemsIn.toNat ++ leBytes 4 c.itemsIn.toNat ++
    leBytes 4 c.ovf.toNat ++ leBytes 4 ((bit 0 + bit 1 + bit 2 + bit 3) * 16 + c.inNext) ++
    rp 0 ++ rp 1 ++ rp 2 ++ rp 3 ++ mw 0 ++ mw 1 ++ mw 2 ++ mw 3 ++ leBytes 4 0 ++ leBytes 4 (stateCrc s d y c.ord)
  body ++ leBytes 4 (crc32c body)

/-- May a cut's checkpoint be finished: every item before the cut is written back, every output mark is written, and
no harness of the yarn is halted (R162, R163, R463)? -/
def cutReady (s : State) (d : Die) (n : Nat) (c : CutRec) : Bool :=
  let y := getYarn s d n
  (flightsOf s d n).all (fun f => (decide (f.seq ≠ c.itemsIn) && decide ((f.seq - c.itemsIn).toNat < 2 ^ 31)) ||
    (retiredAll y f && !wbPending s f.id)) &&
  (List.range 4).all (fun j => (y.outs.getD j none).isNone || (c.mwps.getD j none).isSome) &&
  !y.stages.any (fun g => (getHar s d g.harness).halted)

/-- Write a checkpoint's record, with the copies in the other stack for a mirrored or twin yarn (R190). -/
def writeCkpt (s : State) (d : Die) (n : Nat) (c : CutRec) : State :=
  let s := c.toCopy.foldl (fun s i => copyStage s d n c.ord i) s
  let y := getYarn s d n
  let c := (y.cuts.find? (fun x => x.ord = c.ord)).getD c
  let num := (numOfOrd s d c.ord).toNat
  let off := ckptOff y num
  let s := writeHbm s d off (ckptRecord s d y c)
  let s := if y.prot ≠ 0 ∧ !apart s then writeHbm s (otherDie d) off (readHbm s d off 0x2040) else s
  setYarn s d n { y with cuts := y.cuts.filter (fun x => decide (x.ord ≠ c.ord)), written := y.written ++ [c.ord],
                         twinLog := if y.prot = 2 then
                             y.twinLog ++ [(num, BitVec.ofNat 32 (stateCrc s d y c.ord), c.twin)]
                           else y.twinLog }

/-! ## The return to RUN (R128, R164) -/

/-- The words of the spool part of a bobbin, read from its ring without check. -/
def spoolWords : Nat → State → Bob → Nat → List Word → List PosWord
  | 0, _, _, _, _ => []
  | k + 1, s, b, r, ps =>
    if ps = [] then []
    else
      let ws := blockWords (readHbm s b.die (spoolAddr b r) 64)
      let r' := if r + 1 = b.wmark ∧ ringWrapped (bobRing b) then 0 else r + 1
      ((ps.take 8).zip ws).map (fun e => { pos := e.1, w := e.2 }) ++ spoolWords k s b r' (ps.drop 8)

/-- The words of a closed item, where they stand. -/
def itemData (s : State) (n : Nat) (i : ItemRec) : List TWord :=
  let b := getBob s n
  match i.side with
  | some w => [w]
  | none =>
    ((b.head ++ spoolWords b.spoolPos.length s b b.rpos b.spoolPos ++ b.tail).filter
      (fun p => inRange i.start i.n p.pos)).map (fun p => p.w)

/-- Journal one waiting item again, in the ring of its bobbin's die and as a mirror copy; the copy of a twin journals its own
only while the dies are apart. One that does not fit is discarded (R164, R190, R191), unless a twin's other copy has begun to take
it. -/
def rejournalItem (s : State) (n : Nat) (i : ItemRec) : State :=
  let b := getBob s n
  let again : Option State :=
    if 65536 ≤ n then writeEntry s b.die (n - 65536) b i.start (itemData s n i) true true
    else journalItem s n b i.start (itemData s n i) true
  match again with
  | some t =>
    match twinOfItem s n i with
    | some j => mirrorAt t (otherDie b.die) n j.start
    | none => t
  | none => journalRefused (if (discardable s n).contains i then modBob (dropBoth s n i) n countDrop else s) b.die

/-- Journal the items that wait in an entry-fed input bobbin again (R164). -/
def rejournal (s : State) (n : Nat) : State :=
  let b := getBob s n
  if b.prod = .yarn ∨ (65536 ≤ n ∧ !apart s) then s else (droppable b).foldl (fun s i => rejournalItem s n i) s

/-- A yarn returns to RUN (R128): the entry items that wait in the input bobbins of the copy on this die are journalled again
first (R164). -/
def enterRun (s : State) (d : Die) (n : Nat) : State :=
  let y := getYarn s d n
  let mine (b : Nat) : Bool := decide ((getBob s b).die = d) || decide (y.prot ≠ 2)
  let s := (((y.ins.filterMap id).map (inputBob s d y)).filter mine).foldl rejournal s
  modYarn s d n (fun y => { y with state := .run, updHold := false })

end Sys2Proof.Machine
end

