-- ==== Sys2Proof/Machine/Gateway.lean ====
section
/-! DEFINITION. Admission of items (R129 to R132), the gateway lanes, urgent words and stage-to-stage paths of a
harness (R98, R99, R103, R104, R126, R135), the treadling table (R100 to R102), and the overflow reports (R137). -/

namespace Sys2Proof.Machine

/-! ## Retirement of a stage that keeps no state (R134) -/

/-- Retire an item in every stage of its yarn that has no stateful cell: no cell has its last word to pass. -/
def retireStateless (s : State) (id : Nat) : State :=
  match getFlight s id with
  | none => s
  | some f =>
    let y := getYarn s f.die f.yarn
    (List.range y.stages.length).foldl (fun s i =>
      match y.stages[i]?, getFlight s id with
      | some g, some f =>
        if f.retired.contains i || statefulCells s f.die g.harness g.idx.toNat ≠ [] then s
        else
          let s := modFlight s id (fun f => { f with retired := f.retired ++ [i] })
          let s := if i + 1 = y.stages.length then
              modYarn s f.die f.yarn (fun y => { y with itemsDone := y.itemsDone + 1 }) else s
          writeBack s f.die g.harness { idx := g.idx, flight := id, cell := 0, left := 0 }
      | _, _ => s) s

/-- A flight that is written back in every stage and has closed every output leaves the lists. -/
def finishFlight (s : State) (id : Nat) : State :=
  match getFlight s id with
  | none => s
  | some f =>
    let y := getYarn s f.die f.yarn
    if retiredAll y f && !wbPending s id && decide (f.closed.length = (y.outs.filter (fun o => o.isSome)).length) then
      settleYarn { s with flow.flights := s.flow.flights.filter (fun x => decide (x.id ≠ id)) } f.die f.yarn
    else s

/-! ## Admission (R129 to R132, R174) -/

/-- Does the sequencer of a harness admit words: run = 1, no load or start-up of its die is in progress (R384), and its domain
is not shutting down, which stops it like run = 0 (R120, R215; DEDUCED, log entry 209)? -/
def seqRuns (s : State) (d : Die) (h : Nat) : Bool :=
  flagF s fTSEQ_CTL_run d h && !(getImg s d).loading && !(getImg s d).starting && decide ((getDom s d h).step ≠ .d1)

/-- May a harness take new items: it is ON, not in reset, its sequencer runs and no swap is draining (R112, R120)? -/
def admits (s : State) (d : Die) (h : Nat) : Bool :=
  let a := getHar s d h
  decide ((getDom s d h).state = .on) && decide ((getDom s d h).step = .none) && !a.inReset && !a.lost &&
    seqRuns s d h && !a.draining

/-- Is the second context buffer of a stage free: is at most one item of its index there not yet written back? Two buffers
hold the images of two items, and the buffer of an item is free again for the item after the next when it is written back
(R134 step 5), so that one index carries at most two items in a stage (R135). -/
def bufferFree (s : State) (d : Die) (g : Stage) : Bool :=
  decide (((s.flow.flights.filter (fun f => f.die = d)).filter (fun f =>
    match stageAt (getYarn s d f.yarn) g.harness g.idx with
    | none => false
    | some i => !f.retired.contains i || (getHar s d g.harness).wbs.any (fun w => decide (w.flight = f.id)))).length < 2)

/-- Has every output bobbin of a yarn space for its largest item (R129)? A twin's copy looks only at those that it
writes (R191). -/
def outSpace (s : State) (d : Die) (y : Yarn) : Bool :=
  y.outs.all (fun o => match o with
    | none => true
    | some x => !writesBob s d y x.bob || decide (y.outMax.toNat + 1 ≤ bobSpace (getBob s x.bob)))

/-- The words that a yarn's next item brings with it: an item that waits in the bobbin (none), or a re-injected one
(R129 condition 2, R184). -/
inductive NextItem where
  | waiting (b : Nat) (n : Nat)
  | again (words : List TWord)
  | no
  deriving DecidableEq, Repr

/-- The item a yarn would admit next. -/
def nextItem (s : State) (d : Die) (n : Nat) : NextItem :=
  let y := getYarn s d n
  match y.ins.getD y.inNext none with
  | none => .no
  | some b0 =>
    let b := inputBob s d y b0
    match y.reinject.getD y.inNext [] with
    | r :: _ => if y.marks.getD y.inNext 0 < r.ord ∨ r.words = [] then .no else .again r.words
    | [] =>
      if y.state = .replay && (y.rpFault.getD y.inNext none).isSome then .no
      else
        match headItem (getBob s b) with
        | none => .no
        | some i =>
          if i.kind = 3 ∨ (getBob s b).deliver ≠ 0 ∨ 0 < undelivered s b then .no else .waiting b i.n

/-- Is a yarn ready by R129 and R174, its next item apart? A hold or a split that waits for an item boundary bars further items
of a yarn in RUN; a replay goes on, and only delays it (R128). The yarn engine takes new work while its domain is ON and not
shutting down (R212, R215). -/
def readyYarn (s : State) (d : Die) (n : Nat) : Bool :=
  let y := getYarn s d n
  ((decide (y.state = .run) && !y.holdReq && !y.splitReq) || (decide (y.state = .replay) && !restoring s d n)) &&
  domTakes s d 56 && !y.stopReq && decide (y.cut ≤ (getBeat s d).cmt + 2) && outSpace s d y &&
  y.stages.all (fun g => admits s d g.harness && bufferFree s d g)

/-- The next valid input after input i, in rotation (R129). -/
def nextInput (y : Yarn) (i : Nat) : Nat :=
  (([1, 2, 3, 4].map (fun k => (i + k) % 4)).find? (fun j => (y.ins.getD j none).isSome)).getD i

/-- Does the frame in bank memory lag behind the context of the index: an earlier item of the same yarn is not yet
written back there (R37, R134), or the yarn is pinned (R132)? -/
def carriesOn (s : State) (d : Die) (n : Nat) (i : Nat) (g : Stage) : Bool :=
  (getYarn s d n).pinned || (flightsOf s d n).any (fun f => !f.retired.contains i ||
    (getHar s d g.harness).wbs.any (fun w => decide (w.flight = f.id)))

/-- The frame load of one stage: each stateful cell of the index gets the image of its second buffer (R134 step 2). -/
def loadStage (s : State) (d : Die) (n id i : Nat) (g : Stage) : State :=
  let k := g.idx.toNat
  let cont := carriesOn s d n i g
  let st := statefulCells s d g.harness k
  let put (s : State) (ck : Nat) : State :=
    let c := getCell s ck
    let sl := getSlot c k
    let l : Loaded := { flight := id, cont := cont, ctx := frameImage s d g ((st.idxOf? ck).getD 0) }
    setCell s ck (setSlot c k { sl with next := sl.next ++ [l] })
  let s := st.foldl put s
  if cont then s else bpProbe s d g.harness (.bank (g.frame * 64) (64 * (1 + g.images)) false)

/-- Admit an item of a yarn: the frame loads, the reservations, the counters and the rotation (R129, R134), and for a
replayed yarn the target (R182 step 7). `ready` is what the item brings with it. -/
def admitItem (s : State) (d : Die) (n : Nat) (inBob : Option Nat) (left : Nat) : State :=
  let y := getYarn s d n
  let id := flightId s.flow.nextFlight (y.itemsIn + 1) d n
  let f : Flight := { id := id, die := d, yarn := n, seq := y.itemsIn + 1, inBob := inBob, retired := [], closed := [],
                      entered := [], left := left,
                      resv := (List.range 4).filter (fun j => match y.outs.getD j none with
                        | some o => writesBob s d y o.bob
                        | none => false) }
  let s := ((List.range y.stages.length).zip y.stages).foldl (fun s e => loadStage s d n id e.1 e.2) s
  let s := { s with flow.flights := s.flow.flights ++ [f], flow.nextFlight := s.flow.nextFlight + 1 }
  let s := y.outs.foldl (fun s o => match o with
    | some x => if writesBob s d y x.bob then
        modBob s x.bob (fun b => { b with resv := b.resv + BitVec.ofNat 32 (y.outMax.toNat + 1) }) else s
    | none => s) s
  let caught := y.state = .replay ∧ y.target = some (y.itemsIn + 1)
  let y := getYarn s d n
  let y := { y with itemsIn := y.itemsIn + 1, inNext := nextInput y y.inNext,
                    reinject := listSet y.reinject y.inNext ((y.reinject.getD y.inNext []).drop 1) }
  let y := if caught then { y with state := y.before, target := none, rpFault := [] } else y
  let s := setYarn s d n y
  if caught then endReplays (endReplays s 0) 1 else s

/-- Put an item at the gateway of a stage. -/
def pushGw (s : State) (d : Die) (h : Nat) (g : GwItem) : State := modHar s d h (fun a => { a with gw := a.gw ++ [g] })

/-- The yarn engine reads a word of an admitted item and delivers it to the stage-0 gateway (R145). -/
def deliverWord (s : State) (n : Nat) : State :=
  match s.flow.flights.find? (fun f => decide (f.inBob = some n) && decide (0 < f.left)) with
  | none => s
  | some f =>
    match headItem (getBob s n), (getYarn s f.die f.yarn).stages with
    | some _, g :: _ =>
      let r := takeWord s n
      let s := modFlight r.1 f.id (fun f => { f with left := f.left - 1 })
      modHar s f.die g.harness (fun a => { a with gw := a.gw.map (fun x =>
        if x.flight = f.id then { x with ready := x.ready ++ [r.2], closed := decide (f.left = 1) } else x) })
    | _, _ => s

/-- Admit the next item of a yarn from its bobbin or from the journal. The engine takes the first word of an item in its bobbin
as it admits it, so that the item is in delivery from then on (R129, R144; DEDUCED, log entry 197). -/
def admitYarn (s : State) (d : Die) (n : Nat) : State :=
  let y := getYarn s d n
  match y.stages with
  | [] => s
  | g :: _ =>
    let item (ready : List TWord) (closed : Bool) : GwItem :=
      { flight := flightId s.flow.nextFlight (y.itemsIn + 1) d n, yarn := n, stage := 0, idx := g.idx, ready := ready, sent := 0, closed := closed,
        bubbles := 0, age := 0 }
    match nextItem s d n with
    | .no => s
    | .waiting b k => deliverWord (pushGw (admitItem s d n (some b) k) d g.harness (item [] false)) b
    | .again ws => pushGw (admitItem s d n none 0) d g.harness (item ws true)

/-- The key of a harness and index for the last yarn admitted there. -/
def lastKey (d : Die) (h idx : Nat) : Nat := harKey d h * 16 + idx

/-- The yarns that enter at a harness and index and are ready, with their numbers (R130). -/
def candidates (s : State) (d : Die) (h idx : Nat) : List (Nat × Yarn) :=
  (yarnsOn s d).filter (fun e =>
    (match e.2.stages with
     | g :: _ => decide (g.harness = h) && decide (g.idx.toNat = idx)
     | [] => false) && readyYarn s d e.1 && decide (nextItem s d e.1 ≠ .no))

/-- How far a yarn's number follows, cyclically, the number last admitted (R130). -/
def cyclicAfter (last n : Nat) : Nat := (n + 32768 - last - 1) % 32768

/-- Of two ready yarns, does the first go before the second (R130)? -/
def goesBefore (last : Nat) (a b : Nat × Yarn) : Bool :=
  decide (a.2.prio < b.2.prio) || (decide (a.2.prio = b.2.prio) && decide (cyclicAfter last a.1 < cyclicAfter last b.1))

/-- The yarn that is admitted at a harness and index (R130). Before any admission there, the number last admitted counts as
32,767, so that yarn 0 goes first (DESIGN CHOICE, log entry 196). -/
def chosenYarn (s : State) (d : Die) (h idx : Nat) : Option Nat :=
  let last := sparseGet (fun _ => 32767) s.flow.lastYarn (lastKey d h idx)
  ((candidates s d h idx).foldl (fun (r : Option (Nat × Yarn)) e => match r with
    | none => some e
    | some b => if goesBefore last e b then some e else some b) none).map (fun e => e.1)

/-- The admission of an item of a yarn, with what it finds (R254, R256): a frame word that is corrected is counted; one that cannot
be is counted and is a fault of the cell or reed upset class, whose replay covers the yarn; a yarn whose table entry cannot be
corrected stops. -/
def admitUpset (s : State) (d : Die) (n : Nat) (u : AdmitUpset) : State :=
  match u with
  | .none => admitYarn s d n
  | .frameCorrected => admitYarn (bankCheck s d .corrected).1 d n
  | .frameBad =>
    addFault (admitYarn (bankCheck s d .uncorrectable).1 d n) d
      { cls := 0, id := BitVec.ofNat 16 n, har := none, bob := none, yarn := some n }
  | .yarnBad => stopYarn s d n 0xFF

/-- ITEM_ADMIT (R129). -/
def execItemAdmit (d : Die) (h : Harn) (idx : Fin 16) (u : AdmitUpset) (s : State) : Host.Outcome State Fault Refusal :=
  .next (match chosenYarn s d h.val idx.val with
    | none => s
    | some n =>
      let s := admitUpset s d n u
      if u = .yarnBad then s
      else { s with flow.lastYarn := sparseSet (fun _ => 32767) s.flow.lastYarn (lastKey d h.val idx.val) n })

/-! ## Words on their way to the next stage (R126) -/

/-- The yarn whose item a word at the output of a harness belongs to when the harness is not its last stage: the
flight and the next stage, for a word of that stage's index. -/
def onward (s : State) (d : Die) (h : Nat) (x : BitVec 4) : Option (Flight × Nat × Stage) :=
  s.flow.flights.findSome? (fun f =>
    if f.die ≠ d then none
    else
      let y := getYarn s d f.yarn
      match stageIn y h with
      | none => none
      | some i =>
        match y.stages[i + 1]? with
        | none => none
        | some g => if g.idx = x ∧ !f.entered.contains (i + 1) then some (f, i + 1, g) else none)

/-- Add a word to the item of a flight at a gateway, which begins there with its first word. -/
def feedGw (s : State) (d : Die) (h : Nat) (f : Flight) (stage : Nat) (idx : BitVec 4) (w : Wire) : State :=
  let tw : TWord := { data := w.data, tag := w.tag }
  let last := tagLast w.tag
  let a := getHar s d h
  let s := if a.gw.any (fun g => decide (g.flight = f.id)) then
      setHar s d h { a with gw := a.gw.map (fun g =>
        if g.flight = f.id then { g with ready := g.ready ++ [tw], closed := last } else g) }
    else pushGw s d h { flight := f.id, yarn := f.yarn, stage := stage, idx := idx, ready := [tw], sent := 0,
                        closed := last, bubbles := 0, age := 2 }
  if last then modFlight s f.id (fun f => { f with entered := f.entered ++ [stage] }) else s

/-- Take the words that wait at other harnesses' output lanes for a stage in harness h, for indices that a test
names. -/
def pullOnward (s : State) (d : Die) (h : Nat) (p : BitVec 4 → Bool) : State :=
  (List.range 36).foldl (fun s g =>
    (getHar s d g).gwOut.foldl (fun s e =>
      match e.2 with
      | [] => s
      | w :: ws =>
        match onward s d g w.idx with
        | some (f, i, st) =>
          if st.harness = h ∧ p w.idx then
            feedGw (modHar s d g (fun a => { a with gwOut := setLaneWords a.gwOut e.1 ws })) d h f i w.idx w
          else s
        | none => s) s) s

/-! ## Lanes (R98, R99, R135) -/

/-- The lane of a draft entry index 0 to 13 (R98). -/
def laneOf (s : State) (d : Die) (h : Nat) (k : Nat) : Nat :=
  if k < 8 then bitsOf (regRaw s .TSEQ_LANE_LO d h).toNat (3 * k + 2) (3 * k)
  else bitsOf (regRaw s .TSEQ_LANE_HI d h).toNat (3 * (k - 8) + 2) (3 * (k - 8))

/-- The items at the head of their index: one item of an index is delivered at a time (R99). -/
def headsOf (gw : List GwItem) : List GwItem :=
  (List.range 16).filterMap (fun k => gw.find? (fun g => g.idx.toNat = k))

/-- Has an item a word for its lane now: a bubble owed, a further word, or a first word that may start (R120, R134,
R135)? -/
def laneReady (s : State) (d : Die) (h : Nat) (g : GwItem) : Bool :=
  decide (0 < g.bubbles) || (g.ready ≠ [] && (decide (0 < g.sent) ||
    (decide (2 ≤ g.age) && seqRuns s d h &&
      decide (sparseGet (fun _ => 0) (getHar s d h).firstAge g.idx.toNat = 0))))

/-- How far an index follows, cyclically, the index served last. -/
def idxAfter (last k : BitVec 4) : Nat := (k.toNat + 16 - last.toNat - 1) % 16

/-- The item a lane serves (R99): the highest priority, and in turn by rising index among equals. -/
def laneChoice (s : State) (d : Die) (last : BitVec 4) (gs : List GwItem) : Option GwItem :=
  gs.foldl (fun (r : Option GwItem) g => match r with
    | none => some g
    | some b =>
      let pg := (getYarn s d g.yarn).prio
      let pb := (getYarn s d b.yarn).prio
      if pg < pb || (decide (pg = pb) && decide (idxAfter last g.idx < idxAfter last b.idx)) then some g else some b) none

/-- Replace the item of a flight at a gateway; an item that is sent to its end with its bubbles leaves. -/
def putGw (a : HarSt) (g : GwItem) : HarSt :=
  { a with gw := a.gw.filterMap (fun x =>
      if x.flight = g.flight then (if g.closed && g.ready.isEmpty && decide (g.bubbles = 0) then none else some g)
      else some x) }

/-- The next word of an item and the item after it (R99, R135): its words, then the bubbles of a short item. -/
def nextWord (g : GwItem) : Wire × GwItem :=
  match g.ready with
  | w :: ws =>
    let sent := g.sent + 1
    ({ data := w.data, tag := w.tag, idx := g.idx, fl := g.flight },
     { g with ready := ws, sent := sent, bubbles := if tagLast w.tag then 4 - sent else 0 })
  | [] => (idleWire 1 g.idx, { g with bubbles := g.bubbles - 1 })

/-- The word at the head of an input lane's buffer enters the array when the lane's reed input is free (R99, R205). -/
def laneEnter (s : State) (d : Die) (h lane : Nat) : State :=
  let key := reedKey d h (8 * lane) 16
  match laneWords (getHar s d h).gwIn lane with
  | [] => s
  | w :: ws =>
    if liveWire (getReedIn s key) then s
    else
      let s := setReedIn (modHar s d h (fun a => { a with gwIn := setLaneWords a.gwIn lane ws })) key (some w)
      if tagLast w.tag then retireStateless s w.fl else s

/-- One lane cycle: ages, then the word that the lane serves goes into the lane's buffer, if it has room, and the head of the
buffer into the array (R99, R135, R205). -/
def laneCycle (s : State) (d : Die) (h lane : Nat) : State :=
  let mine (k : Nat) : Bool := decide (k < 14) && decide (laneOf s d h k = lane)
  let s := pullOnward s d h (fun k => mine k.toNat)
  let s := modHar s d h (fun a =>
    { a with gw := a.gw.map (fun g => if mine g.idx.toNat then { g with age := g.age + 1 } else g)
             firstAge := (List.range 14).foldl (fun m k =>
               if mine k then sparseMod (fun _ => 0) m k (fun n => n - 1) else m) a.firstAge })
  let a := getHar s d h
  if laneRoom ≤ (laneWords a.gwIn lane).length then laneEnter s d h lane
  else
    let gs := (headsOf a.gw).filter (fun g => mine g.idx.toNat && laneReady s d h g)
    match laneChoice s d (sparseGet (fun _ => 15) a.laneLast lane) gs with
    | none => laneEnter s d h lane
    | some g =>
      let r := nextWord g
      let first := tagFirst r.1.tag
      let a := putGw a r.2
      let a := { a with laneLast := sparseSet (fun _ => 15) a.laneLast lane g.idx,
                        firstAge := if first then sparseSet (fun _ => 0) a.firstAge g.idx.toNat 4 else a.firstAge }
      laneEnter (setHar s d h { a with gwIn := setLaneWords a.gwIn lane (laneWords a.gwIn lane ++ [r.1]) }) d h lane

/-! ## Urgent words and table words on IA (R101, R103, R118) -/

/-- The cells of a mask: for a darned cell, the row's spare, by its darning track (R118). -/
def maskCells (s : State) (d : Die) (h : Nat) (lo hi : Reg) : List (Nat × Bool) :=
  ((List.range 64).filter (inMask s lo hi d h)).map (fun i => fedCell s d h (i / 8) (i % 8))

/-- Is the place where the sequencer offers a word to a cell free? -/
def offerFree (s : State) (urgent : Bool) (c : Nat × Bool) : Bool :=
  let x := getCell s c.1
  let at_ := if urgent then (if c.2 then (stagesOf x.trackU).1 else x.urg)
    else (if c.2 then (stagesOf x.trackT).1 else x.tbl)
  at_.isNone

/-- Offer a word to a cell. -/
def offerTo (urgent : Bool) (w : Wire) (s : State) (c : Nat × Bool) : State :=
  let x := getCell s c.1
  match urgent, c.2 with
  | true, true => setCell s c.1 { x with trackU := [some w, (stagesOf x.trackU).2.1, (stagesOf x.trackU).2.2] }
  | true, false => setCell s c.1 { x with urg := some w }
  | false, true => setCell s c.1 { x with trackT := [some w, (stagesOf x.trackT).2.1, (stagesOf x.trackT).2.2] }
  | false, false => setCell s c.1 { x with tbl := some w }

/-- The urgent words of a cycle (R103, R104): the next word of an event item, offered to every cell of the urgent
mask once the word before it is taken by all of them. The indices 14 and 15 take turns word by word. A new event
item waits while a swap drains (R104); one that passed an earlier stage counts as started in this one (R112 step 1). -/
def urgentCycle (s : State) (d : Die) (h : Nat) : State :=
  let s := pullOnward s d h (fun k => decide (14 ≤ k.toNat))
  let a := getHar s d h
  let cells := maskCells s d h .TSEQ_URG_LO .TSEQ_URG_HI
  if !cells.all (offerFree s true) then s
  else
    let gs := (headsOf a.gw).filter (fun g => decide (14 ≤ g.idx.toNat) && decide (g.ready ≠ []) &&
      (decide (0 < g.sent) || (seqRuns s d h && (decide (0 < g.stage) || !a.draining))))
    let last := sparseGet (fun _ => 15) a.laneLast 8
    match gs.foldl (fun (r : Option GwItem) g => match r with
        | none => some g
        | some b => if idxAfter last g.idx < idxAfter last b.idx then some g else some b) none with
    | none => s
    | some g =>
      let r := nextWord g
      let a := putGw a { r.2 with bubbles := 0 }
      let s := setHar s d h { a with laneLast := sparseSet (fun _ => 15) a.laneLast 8 g.idx }
      let s := cells.foldl (offerTo true r.1) s
      if tagLast r.1.tag then retireStateless s g.flight else s

/-- GATEWAY_LANE_CYCLE (R99): one cycle of a gateway lane, or of the urgent words. -/
def execGatewayLaneCycle (d : Die) (h : Harn) (lane : Option (Fin 8)) (s : State) : Host.Outcome State Fault Refusal :=
  .next (if harRuns s d h.val then
    match lane with
    | some l => laneCycle s d h.val l.val
    | none => urgentCycle s d h.val
  else s)

/-! ## The treadling table (R100 to R102) -/

/-- The word of a table entry (R100). -/
def tableWire (e : Word) : Wire :=
  { data := BitVec.ofNat 32 (bitsOf e.toNat 15 0), tag := mkTag (bitOf e.toNat 30) (bitOf e.toNat 29) false false false 0 0,
    idx := BitVec.ofNat 4 (bitsOf e.toNat 19 16) }

/-- The entry after an entry; after entry tbl_len it is entry 0 (R101). -/
def entryAfter (s : State) (d : Die) (h : Nat) (a : HarSt) : BitVec 8 :=
  if a.tpos.toNat = getF s fTSEQ_CTL_tbl_len d h then 0 else a.tpos + 1

/-- The table moves to the next entry. -/
def tableNext (s : State) (d : Die) (h : Nat) (a : HarSt) : HarSt := { a with tpos := entryAfter s d h a, tOffered := false }

/-- The table offers the word of its entry, which opens or closes the item of its index. While the table stops between
items (`late`), the entry is noted as served past one that is held back. -/
def offerEntry (s : State) (d : Die) (h : Nat) (late : Bool) (w : Wire) : State :=
  let s := (maskCells s d h .TSEQ_SRC_LO .TSEQ_SRC_HI).foldl (offerTo false w) s
  modHar s d h (fun a =>
    { a with tOffered := true
             tOpen := if tagLast w.tag then a.tOpen.filter (fun k => decide (k ≠ w.idx.toNat))
                      else if a.tOpen.contains w.idx.toNat then a.tOpen else a.tOpen ++ [w.idx.toNat]
             tDone := if late && a.tHold.isSome then a.tDone ++ [a.tpos.toNat] else a.tDone })

/-- The first entry of an item of a pinned yarn that only the table feeds: the yarn takes its cut if one is due
(R162), and then its item is admitted like any other (R129, R131), if it may be. Answers the state and whether the
entry is offered now; a yarn that may not be admitted makes the table wait. -/
def tableItem (s : State) (d : Die) (n : Nat) : State × Bool :=
  let y := getYarn s d n
  let ord := (getBeat s d).ord
  let s := if y.cut < ord then updateAtCut (takeCuts s d n ord) d n else s
  if readyYarn s d n then (admitItem s d n none 0, true) else (s, false)

/-- The step of the table at its current entry, once the word before it is accepted (R101). -/
def tableEntry (s : State) (d : Die) (h : Nat) (late : Bool) : State :=
  let a := getHar s d h
  let e := getTable s d h a.flip a.tpos.toNat
  let w := tableWire e
  let owner := ownerOf s d h w.idx
  let dark := match owner with
    | some o => decide (o.2.state ≠ YState.run) && decide (o.2.state ≠ YState.replay)
    | none => false
  if !bitOf e.toNat 31 then modHar s d h (tableNext s d h)
  else if dark then
    modHar s d h (fun a => { tableNext s d h a with tOpen := a.tOpen.filter (fun k => decide (k ≠ w.idx.toNat)) })
  else
    match owner with
    | some (n, y) =>
      if tagFirst w.tag && tableFed y && decide (stageIn y h = some 0) then
        let r := tableItem s d n
        if r.2 then offerEntry r.1 d h late { w with fl := ((flightsOf r.1 d n).getLast?.map (fun f => f.id)).getD 0 } else r.1
      else if tableFed y then
        offerEntry s d h late { w with fl := ((flightsOf s d n).getLast?.map (fun f => f.id)).getD 0 }
      else offerEntry s d h late w
    | none => offerEntry s d h late w

/-- The step of a table that stops admitting, at an item boundary of each index (R112 step 1, R120): words of the items it
has begun are still offered, the first other entry is held back, and once no item is open the table stands at that entry
again. -/
def stopEntry (s : State) (d : Die) (h : Nat) : State :=
  let a := getHar s d h
  let e := getTable s d h a.flip a.tpos.toNat
  if a.tOpen = [] then
    match a.tHold with
    | some p => modHar s d h (fun a => { a with tpos := BitVec.ofNat 8 p, tHold := none })
    | none => s
  else if bitOf e.toNat 31 && a.tOpen.contains (tableWire e).idx.toNat && !tagFirst (tableWire e).tag then
    tableEntry s d h true
  else
    modHar s d h (fun a =>
      { tableNext s d h a with tHold := if bitOf e.toNat 31 && a.tHold.isNone then some a.tpos.toNat else a.tHold })

/-- The step of a table that runs: an entry that was served while the table stopped is passed over once. -/
def runEntry (s : State) (d : Die) (h : Nat) : State :=
  let a := getHar s d h
  if a.tDone.contains a.tpos.toNat then
    modHar s d h (fun a => { tableNext s d h a with tDone := a.tDone.erase a.tpos.toNat })
  else tableEntry s d h false

/-- The last word of a table item is accepted: its stages without state retire it. -/
def tableItemDone (s : State) (d : Die) (h : Nat) : State :=
  let a := getHar s d h
  let w := tableWire (getTable s d h a.flip a.tpos.toNat)
  match ownerOf s d h w.idx with
  | some (n, y) =>
    if tagLast w.tag && tableFed y then (flightsOf s d n).foldl (fun s f => retireStateless s f.id) s else s
  | none => s

/-- One step of the table (R101): the word offered is accepted first; a table that is off offers no further one. -/
def treadleStep (s : State) (d : Die) (h : Nat) : State :=
  let a := getHar s d h
  let cells := maskCells s d h .TSEQ_SRC_LO .TSEQ_SRC_HI
  if a.tOffered && !cells.all (offerFree s false) then s
  else
    let s := if a.tOffered then modHar (tableItemDone s d h) d h (tableNext s d h) else s
    if !flagF s fTSEQ_CTL_tbl_en d h then s
    else if seqRuns s d h && !a.draining && a.tHold.isNone then runEntry s d h
    else stopEntry s d h

/-- TREADLE_STEP (R101). -/
def execTreadleStep (d : Die) (h : Harn) (s : State) : Host.Outcome State Fault Refusal :=
  .next (if harRuns s d h.val then treadleStep s d h.val else s)

/-! ## Overflow reports (R137) -/

/-- Count an overflow report of a yarn and act on its policy. -/
def countOverflow (s : State) (d : Die) (n : Nat) (seq : Word) : State :=
  let y := getYarn s d n
  if y.state = .free then s
  else
    let up (v : Word) : Word := if v = 0xFFFFFFFF then v else v + 1
    let before (c : CutRec) : Bool := decide ((c.itemsIn - seq).toNat < 2 ^ 31)
    let cuts := y.cuts.map (fun c => if before c then { c with ovf := up c.ovf } else c)
    let s := setYarn s d n { y with ovfCount := up y.ovfCount, cuts := cuts }
    let ev (s : State) : State := raiseEvent s 0x06 d (BitVec.ofNat 32 n) (up y.ovfCount)
    match y.ovfPolicy.toNat with
    | 1 => if y.ovfCount = 0 then ev s else s
    | 2 => ev s
    | 3 => settleYarn (modYarn (ev s) d n (fun y => if y.state = .run then { y with holdReq := true } else y)) d n
    | _ => s

/-- OVERFLOW_REPORT (R137): the yarn engine of a die takes the oldest report. -/
def execOverflowReport (d : Die) (s : State) : Host.Outcome State Fault Refusal :=
  .next (match s.flow.reports.find? (fun r => r.1 = d) with
    | none => s
    | some r => countOverflow { s with flow.reports := s.flow.reports.erase r } d r.2.1 r.2.2)

end Sys2Proof.Machine
end

