-- ==== Sys2Proof/Machine/Egress.lean ====
section
/-! DEFINITION. Egress (R143 to R145, R186 to R188): the words that a port, a gate or the host takes, their records and
suppression; the bobbin steps BOBBIN_WORD_WRITE, BOBBIN_SPILL, BOBBIN_REFILL and BOBBIN_WORD_READ; and the bobbin
block's registers that act on a selected bobbin (R155). -/

namespace Sys2Proof.Machine

/-! ## Divergence (R188) -/

/-- Keep in what waits in the egress bobbins of a yarn (R188). -/
def blockEgress (s : State) (y : Yarn) (on : Bool) : State :=
  y.outs.foldl (fun s o => match o with
    | some x => if (getBob s x.bob).cons = .yarn then s else modBob s x.bob (fun b => { b with blocked := on })
    | none => s) s

/-- A divergence (R188): the yarn's copies on the dies given stop, RPL_LAST records the yarn or bobbin, and the event
is raised. For a twin that is the home die's RPL_LAST (DESIGN CHOICE, log entry 201). -/
def divergence (s : State) (ds : List Die) (n id : Nat) : State :=
  let s := ds.foldl (fun s d => blockEgress (stopQuiet s d n) (getYarn s d n) true) s
  let d := ds.headD 0
  let s := rplLast s d 2 9 id
  raiseEvent s 0x04 d (BitVec.ofNat 32 id) (regRaw s .RPL_LAST d 0)

/-! ## Egress records (R186, R187) -/

/-- The ordinal of the last committed checkpoint of a die (R174); 0 before the first commit. -/
def ckptOrd (s : State) (d : Die) : Nat := if (getBeat s d).cmt = 0 then 0 else (getBeat s d).cmt + 1

/-- The working record of a mark: the first one of its ordinal or a later one that took its place (R160, R186). -/
def workOf (ws : List WorkRec) (ord : Nat) : Option WorkRec := ws.find? (fun w => decide (ord ≤ w.ord))

/-- The descriptor shows the record for the mark of the last committed checkpoint, once that mark is taken (R186). -/
def showRecord (s : State) (b : Bob) : Bob :=
  match workOf b.works (ckptOrd s (markDie s b)) with
  | some w => { b with egress := { b.egress with markSent := w.markSent, markBeat := w.markBeat, hash := w.hash } }
  | none => b

/-- The six bytes by which a word enters the hash (R186). -/
def hashBytes (w : TWord) : List Byte := leBytes 4 w.data.toNat ++ leBytes 2 w.tag.toNat

/-- A CRC-32C extended by a word. -/
def hashWord (h : Word) (w : TWord) : Word := BitVec.ofNat 32 (crcExtend h.toNat (hashBytes w))

/-- Egress takes a beat mark (R186). While regenerated items are suppressed, a mark that had been taken keeps its
record, and one that a later mark had replaced takes over that one's. -/
def egressMark (s : State) (n ord : Nat) (data : Word) : State :=
  modBob s n (fun b =>
    let w : WorkRec := { ord := ord, markSent := b.egress.sent - BitVec.ofNat 32 b.suppress, markBeat := data, hash := 0 }
    let b :=
      if b.works.any (fun x => decide (x.ord = ord)) then b
      else
        match workOf b.works ord with
        | some x => { b with works := (b.works.filter (fun y => decide (y.ord < ord))) ++ [{ x with ord := ord, markBeat := data }] ++
                               b.works.filter (fun y => decide (ord < y.ord)) }
        | none => { b with works := b.works ++ [w] }
    showRecord s b)

/-- A word of a suppressed item (R187): hashed; after the last of them the hashes are compared. -/
def suppressWord (s : State) (n : Nat) (w : TWord) : State :=
  let b := getBob s n
  let b := { b with supHash := hashWord b.supHash w, suppress := if tagLast w.tag then b.suppress - 1 else b.suppress }
  let s := setBob s n b
  if b.suppress = 0 ∧ b.supHash ≠ b.supGoal then divergence s [markDie s b] b.prodId.toNat n else s

/-- A word that goes out: hashed into the records, and with the last word the item counts as sent (R186). -/
def sendWord (s : State) (n : Nat) (w : TWord) : State :=
  modBob s n (fun b =>
    { b with works := b.works.map (fun r => { r with hash := hashWord r.hash w })
             egress := { b.egress with hash := hashWord b.egress.hash w
                                       sent := if tagLast w.tag then b.egress.sent + 1 else b.egress.sent } })

/-- Egress takes the next word of a bobbin: the word and whether it goes out, if there is one. -/
def egressTake (s : State) (n : Nat) : State × Option (TWord × Bool) :=
  let b := getBob s n
  if b.blocked then (s, none)
  else
    match headItem b with
    | none => (s, none)
    | some i =>
      let r := takeWord s n
      if i.kind = 3 then (egressMark r.1 n i.ord r.2.data, some (r.2, false))
      else if 0 < b.suppress then (suppressWord r.1 n r.2, some (r.2, false))
      else (sendWord r.1 n r.2, some (r.2, true))

/-- The next word that goes out, at most `fuel` words on. -/
def egressWord : Nat → State → Nat → State × Option TWord
  | 0, s, _ => (s, none)
  | k + 1, s, n =>
    match egressTake s n with
    | (s, none) => (s, none)
    | (s, some (w, true)) => (s, some w)
    | (s, some (_, false)) => egressWord k s n

/-- Take the words of the item that goes out next to its end (R144). -/
def egressRest : Nat → State → Nat → List TWord → State × List TWord
  | 0, s, _, ws => (s, ws)
  | k + 1, s, n, ws =>
    match egressWord (bobWords (getBob s n) + 1) s n with
    | (s, none) => (s, ws)
    | (s, some w) => if tagLast w.tag then (s, ws ++ [w]) else egressRest k s n (ws ++ [w])

/-- Take the next whole item that goes out; no words when there is none. -/
def egressItem (s : State) (n : Nat) : State × List TWord := egressRest 4096 s n []

/-- The items that would go out next, marks and suppressed items left out. -/
def egressItems (b : Bob) : List ItemRec :=
  if b.state ≠ .active ∨ b.consCut ∨ b.blocked then []
  else (b.items.filter (fun i => decide (i.kind ≠ 3))).drop b.suppress

/-- The word that a host pop would return (R155). -/
def peekWord (s : State) (n : Nat) : Option TWord :=
  let b := getBob s n
  match egressItems b with
  | [] => none
  | i :: _ => (itemData s n i).head?

/-- The words of the item that would go out next, without taking it. -/
def peekItem (s : State) (n : Nat) : List TWord :=
  match egressItems (getBob s n) with
  | [] => []
  | i :: _ => itemData s n i

/-- A port that discards (R145): every item that has reached the head goes, counted in drops, sent and the hash
(R287). -/
def stallDrop : Nat → State → Nat → State
  | 0, s, _ => s
  | k + 1, s, n =>
    if (egressItems (getBob s n)).isEmpty then s
    else stallDrop k (modBob (egressItem s n).1 n countDrop) n

/-- Discard while the port is stalled. -/
def dropStalled (s : State) (n : Nat) : State :=
  let b := getBob s n
  if b.stalled then stallDrop b.items.length s n else s

/-! ## BOBBIN_WORD_WRITE (R123, R131) -/

/-- The bindings of a flight that a word of a lane and index belongs to, if its harness is the yarn's last stage. -/
def bindingsOf (s : State) (d : Die) (h l : Nat) (x : BitVec 4) (f : Flight) : List (Nat × OutBind) :=
  let y := getYarn s d f.yarn
  match y.stages.getLast? with
  | none => []
  | some g =>
    if f.die ≠ d ∨ g.harness ≠ h then []
    else (List.range 4).filterMap (fun j => match y.outs.getD j none with
      | some o => if o.lane.val = l ∧ o.idx = x ∧ !f.closed.contains j then some (j, o) else none
      | none => none)

/-- The flight a word is attributed to: the first in the order of admission (R131). -/
def attribute_ (s : State) (d : Die) (h l : Nat) (x : BitVec 4) : Option (Flight × List (Nat × OutBind)) :=
  s.flow.flights.findSome? (fun f =>
    match bindingsOf s d h l x f with
    | [] => none
    | bs => some (f, bs))

/-- A twin's copy hashes its output words up to each cut (R191), the words of several output bindings in the order in which they
arrive (DESIGN CHOICE, log entry 251). -/
def twinWord (s : State) (d : Die) (f : Flight) (w : TWord) : State :=
  modYarn s d f.yarn (fun y =>
    if y.prot ≠ 2 then y
    else
      match y.cuts.find? (fun c => decide ((c.itemsIn - f.seq).toNat < 2 ^ 31)) with
      | some c => { y with cuts := y.cuts.map (fun x => if x.ord = c.ord then { x with twin := hashWord x.twin w } else x) }
      | none => { y with twinHash := hashWord y.twinHash w })

/-- The output item of a flight closes on output j: the reservation goes, marks that waited for it are written, and a
flight that is done leaves (R131, R163). -/
def closeOut (s : State) (d : Die) (f : Flight) (j : Nat) : State :=
  let s := modFlight (releaseResv s f.id j) f.id (fun f => { f with closed := f.closed ++ [j] })
  finishFlight (outMarks s d f.yarn) f.id

/-- One output binding receives a word. Where the words that a restored bobbin discards (R183) end within a regenerated item,
its word count differs from the original's: a divergence (R188). -/
def bindWord (s : State) (d : Die) (f : Flight) (w : TWord) (flip : Word) (j : Nat) (o : OutBind) : State :=
  let y := getYarn s d f.yarn
  let s := if writesBob s d y o.bob then
      let r := pointerCheck s o.bob flip
      let was := getBob r.1 o.bob
      let s := dropStalled (writeWord r.1 o.bob w false) o.bob
      if was.state = .active ∧ was.skip = 1 ∧ was.skipEnd = true ∧ tagLast w.tag = false then divergence s [d] f.yarn o.bob else s
    else s
  let s := twinWord s d f w
  if tagLast w.tag then closeOut s d f j else s

/-- A word of a gateway output lane goes to the bindings it belongs to (R131); a word that no admitted item accounts for
is discarded. A word for a later stage stays. -/
def laneWord (s : State) (b : Nat) (d : Die) (h l : Nat) (flip : Word) : State :=
  match laneWords (getHar s d h).gwOut l with
  | [] => s
  | w :: ws =>
    let taken := modHar s d h (fun a => { a with gwOut := setLaneWords a.gwOut l ws })
    match attribute_ s d h l w.idx with
    | some (f, bs) =>
      if bs.any (fun e => decide (e.2.bob = b)) then
        bs.foldl (fun s e => bindWord s d f { data := w.data, tag := w.tag } (if e.2.bob = b then flip else 0) e.1 e.2) taken
      else s
    | none => if (onward s d h w.idx).isSome then s else taken

/-- BOBBIN_WORD_WRITE (R123): a word of a gateway output lane, or one that an entry-point producer writes. -/
def execBobbinWordWrite (b : BobNo) (src : WordSrc) (flip : Word) (s : State) : Host.Outcome State Fault Refusal :=
  .next (match src with
    | .lane d h l => if domWorks s d 56 then laneWord s b.val d h.val l.val flip else s
    | .entry w =>
      if (getBob s b.val).state = .free ∨ (getBob s b.val).prod = .yarn ∨ domWorks s (getBob s b.val).die 56 = false then s
      else dropStalled (writeWord (pointerCheck s b.val flip).1 b.val w true) b.val)

/-! ## BOBBIN_SPILL and BOBBIN_REFILL (R139, R141) -/

/-- Do something at a bobbin and at its twin copy on the other die (R191), each after the pointer check and while its bobbin engine
works (R212). -/
def eachCopy (s : State) (n : Nat) (flip : Word) (f : State → Nat → State) : State :=
  let one (s : State) (k : Nat) (x : Word) : State :=
    if (getBob s k).state = .active ∧ domWorks s (getBob s k).die 56 = true then
      let r := pointerCheck s k x
      if r.2 then f r.1 k else r.1
    else s
  one (one s n flip) (n + 65536) 0

/-- BOBBIN_SPILL (R139). -/
def execBobbinSpill (b : BobNo) (flip : Word) (u : BobUpset) (s : State) : Host.Outcome State Fault Refusal :=
  .next (eachCopy (bobCheck s b.val u).1 b.val flip (fun s n => if maySpill (getBob s n) then spillBlock s n else s))

/-- BOBBIN_REFILL (R139): one spool block, with what HBM's check finds in it (R262). -/
def execBobbinRefill (b : BobNo) (flip : Word) (out : ReadOutcome) (s : State) : Host.Outcome State Fault Refusal :=
  .next (eachCopy s b.val flip (fun s n => refillBlock s n (if n < 65536 then out else .clean)))

/-! ## BOBBIN_WORD_READ (R143 to R145) -/

/-- A consuming yarn reads one word: a word of the item in delivery, or an idle word with reason empty when the bobbin holds no
closed item that it may take (R143, R144). -/
def yarnRead (s : State) (n : Nat) : State :=
  if (headItem (getBob s n)).isSome then deliverWord s n else emit s (.word (n % 65536) idleWord)

/-- A consumer that is no yarn reads one word; with no closed item it receives an idle word (R143). -/
def readOut (s : State) (n : Nat) : State :=
  let r := egressWord (bobWords (getBob s n) + 1) s n
  emit r.1 (.word n (r.2.getD idleWord))

/-- BOBBIN_WORD_READ (R143): the bobbin's consumer reads it. -/
def execBobbinWordRead (b : BobNo) (flip : Word) (u : BobUpset) (s : State) : Host.Outcome State Fault Refusal :=
  .next (
    let s := (bobCheck s b.val u).1
    let x := getBob s b.val
    if x.state = .active ∧ x.cons = .yarn then eachCopy s b.val flip yarnRead
    else readOut (pointerCheck s b.val flip).1 b.val)

/-! ## The selected bobbin (R150, R152, R153, R155) -/

/-- The bobbin whose descriptor a requester has selected on a die. -/
def selectedBob (s : State) (rq : Requester) (d : Die) : Option Nat :=
  let e := getF s fBOB_SEL_entry d (selInst rq 0)
  (s.flow.bobs.find? (fun x => decide (x.2.state ≠ .free) && decide (x.2.die = d) && decide (x.2.entry = e))).map (fun x => x.1)

/-- A flush of a bobbin and of its twin copy (R150, R191). -/
def flushBoth (s : State) (n : Nat) : State :=
  let s := if (getBob s n).state = .free then s else flushBob s n
  if (getBob s (n + 65536)).state = .free then s
  else if twinned s n then modBob s (n + 65536) flushOpen
  else flushBob s (n + 65536)

/-- BOB_CTL.flush on the selected bobbin (R150). -/
def bobCtlFlush (s : State) (rq : Requester) (d : Die) : State :=
  match selectedBob s rq d with
  | some n => flushBoth s (n % 65536)
  | none => s

/-- BOB_CTL_FLUSH (R150). -/
def execBobCtlFlush (rq : Requester) (d : Die) (s : State) : Host.Outcome State Fault Refusal :=
  .next (bobCtlFlush s rq d)

/-- A write of BOB_QUOTA (R152, R153): a resize of the selected bobbin, refused or not. -/
def bobQuotaWrite (s : State) (rq : Requester) (d : Die) (v : Word) : State :=
  match selectedBob s rq d with
  | some n =>
    let r := resizeBob s n (bitsOf v.toNat 16 0)
    setF r.1 fBOB_QUOTA_refused d 0 (bitN r.2.1)
  | none => s

/-- BOB_QUOTA_WRITE (R153). -/
def execBobQuotaWrite (rq : Requester) (d : Die) (v : Word) (s : State) : Host.Outcome State Fault Refusal :=
  .next (bobQuotaWrite s rq d v)

/-- A read of BOB_POP (R155): an inspect read returns 0 and takes nothing; a read takes the next word for the host. After an
inspect read BOB_POP_TAG.status reads 0b10, for every requester, until the next normal read (DESIGN CHOICE, log entry 202). -/
def bobPop (s : State) (rq : Requester) (d : Die) (inspect : Bool) : State × TWord :=
  match selectedBob s rq d with
  | none => (s, idleWord)
  | some n =>
    if inspect then (modBob s n (fun b => { b with inspected := true }), idleWord)
    else
      let s := (pointerCheck s n 0).1
      let s := modBob s n (fun b => { b with inspected := false })
      if (getBob s n).cons ≠ .host then (s, idleWord)
      else
        let r := egressWord (bobWords (getBob s n) + 1) s n
        (r.1, r.2.getD idleWord)

/-- BOB_POP (R155). -/
def execBobPop (rq : Requester) (d : Die) (inspect : Bool) (s : State) : Host.Outcome State Fault Refusal :=
  .next (
    let r := bobPop s rq d inspect
    emit r.1 (.hostWord rq r.2))

/-- A write of BOB_PUSH (R155): one word with the tag of BOB_PUSH_TAG, into a bobbin whose producer is the host. -/
def bobPush (s : State) (rq : Requester) (d : Die) (v : Word) : State :=
  match selectedBob s rq d with
  | none => s
  | some n =>
    if (getBob s n).prod ≠ .host then s
    else
      let tag := BitVec.ofNat 12 (getF s fBOB_PUSH_TAG_tag d (selInst rq 0))
      writeWord (pointerCheck s n 0).1 n { data := v, tag := tag } true

/-- BOB_PUSH (R155). -/
def execBobPush (rq : Requester) (d : Die) (v : Word) (s : State) : Host.Outcome State Fault Refusal :=
  .next (bobPush s rq d v)

end Sys2Proof.Machine
end

