-- ==== Sys2Proof/Machine/Loader.lean ====
section
/-! DEFINITION. The draft loader: what it rejects in a cell draft (R49, R505), in a reed draft (R108) and in a package
(R105 to R109), and the load of a package (R107, R110). Of all the codes of R109 that a package earns, the lowest is
reported. -/

namespace Sys2Proof.Machine

/-! ## Cell drafts (R49) -/

/-- Every field of a draft that holds a source or destination code, used or not. -/
def codeFields (c : CellDraft) : List Nat :=
  [c.srcX, c.srcY, c.srcZ, c.aluA, c.aluB, c.aluDst, c.mmSrc, c.wrSrc, c.outSel]

/-- Is a scratch port used with a length above 9? -/
def longPort (p : ScrPort) : Bool := decide (p.mode ≠ 0) && decide (9 < p.len)

/-- Does a draft hold a reserved field or encoding (R40, R43, R46 to R48)? -/
def draftReserved (w : BitVec 192) : Bool :=
  let c := cellDraftOf w
  decide (bitsOf w.toNat 183 179 ≠ 0) || decide (c.mode = 3) || decide (8 < c.macOp) || decide (20 < c.aluOp) ||
    decide (4 < c.mmOp) || decide (c.accClr = 3) || decide (c.emit = 3) || decide (2 ≤ c.mmReset) ||
    (codeFields c).any (fun k => decide (26 ≤ k)) || longPort c.rd0 || longPort c.rd1 || longPort c.wr

/-- The sources of a draft that may not name an accumulator (R49). -/
def plainSources (c : CellDraft) : List Nat :=
  macSources c ++ (if c.aluOp = 0 ∨ c.aluOp = 16 then [] else [c.aluA]) ++ (if aluUsesB c.aluOp then [c.aluB] else []) ++
    (if c.mmOp = 0 then [] else [c.mmSrc]) ++ (if c.wr.mode = 0 then [] else [c.wrSrc])

/-- Is a mode, base shift, s_init, accumulator, RES or alu_dst rule of R49 broken? A MOVS that moves no accumulator
breaks the accumulator rule (log entry 22). -/
def draftBad (c : CellDraft) : Bool :=
  (decide (c.mode ≠ 0) && (decide (c.macOp = 4 ∨ c.macOp = 5) || decide (c.aluOp = 19 ∨ c.aluOp = 20))) ||
  decide ((if c.mode = 2 then 95 else 47) < c.bshift) ||
  decide (c.sInit = 16) || (decide (16 ≤ c.sInit) && !c.gainEn) ||
  (plainSources c).any (fun k => decide (k = 16 ∨ k = 17)) ||
  (decide (c.aluOp = 16) && !decide (c.aluA = 16 ∨ c.aluA = 17)) ||
  (macSources c ++ aluSources c ++ (if c.mmOp = 0 then [] else [c.mmSrc])).contains 23 ||
  (decide (c.aluOp ≠ 0) && !(decide (4 ≤ c.aluDst ∧ c.aluDst < 16) || decide (c.aluDst = 25)))

/-- The shared registers a draft names (R39). -/
def namedShared (c : CellDraft) : List Nat := ((draftNames c).filter (fun k => decide (8 ≤ k ∧ k < 16))).map (fun k => k - 8)

/-- Do two drafts of one set conflict over shared registers (R49)? -/
def sharedConflict (a b : CellDraft) : Bool :=
  (namedShared a).any (bitOf b.gOwn) || (namedShared b).any (bitOf a.gOwn) || decide (Nat.land a.gOwn b.gOwn ≠ 0)

/-- Do two ranges of words meet? -/
def rangesMeet (a b : List Nat) : Bool := a.any (fun x => b.contains x)

/-- Do two drafts of one cell conflict over scratch (R49)? -/
def scratchConflict (a b : CellDraft) : Bool :=
  let reads (c : CellDraft) : List Nat := scrRange c.rd0 ++ scrRange c.rd1
  rangesMeet (scrRange a.wr) (scrRange b.wr) || rangesMeet (reads a) (scrRange b.wr) || rangesMeet (reads b) (scrRange a.wr)

/-- The codes of R109 that one draft earns by itself, in a column. -/
def draftCodes (col : Nat) (w : BitVec 192) : List Nat :=
  let c := cellDraftOf w
  if !cellParityOk w then [1]
  else if !c.en then []
  else (if draftReserved w then [2] else []) ++ (if draftBad c then [4] else []) ++
    (if c.rnd && decide (1 ≤ col ∧ col ≤ 7) then [5] else []) ++
    (if decide (c.aluOp ≠ 0) && decide (8 ≤ c.aluDst ∧ c.aluDst < 16) && !bitOf c.gOwn (c.aluDst - 8) then [6] else [])

/-- Every pair of numbers below n, the smaller first. -/
def pairsBelow (n : Nat) : List (Nat × Nat) :=
  (List.range n).flatMap (fun i => ((List.range n).filter (fun j => decide (i < j))).map (fun j => (i, j)))

/-- The codes that the drafts of a cell earn as a whole: each by itself, and each pair (R49). -/
def cellCodes (col : Nat) (ws : List (BitVec 192)) : List Nat :=
  let ds := ws.map cellDraftOf
  let pair (p : Nat × Nat) : List Nat :=
    match ds[p.1]?, ds[p.2]? with
    | some a, some b =>
      if !a.en || !b.en then []
      else (if (decide (14 ≤ p.1) == decide (14 ≤ p.2)) && sharedConflict a b then [6] else []) ++
        (if scratchConflict a b then [7] else [])
    | _, _ => []
  ws.flatMap (draftCodes col) ++ (pairsBelow 16).flatMap pair

/-! ## Reed drafts (R92, R108) -/

/-- Does a reed have an input? -/
def hasInput (h r c : Nat) (code : Nat) : Bool :=
  match code with
  | 0 => true
  | 1 => true
  | 2 => decide (c + 1 < 8)
  | 3 => decide (c + 2 < 8)
  | 4 => decide (c + 4 < 8)
  | 5 => decide (1 ≤ c)
  | 6 => decide (2 ≤ c)
  | 7 => decide (4 ≤ c)
  | 8 => decide (1 ≤ r)
  | 9 => decide (2 ≤ r)
  | 10 => decide (4 ≤ r)
  | 11 => decide (r + 1 < 8)
  | 12 => decide (r + 2 < 8)
  | 13 => decide (r + 4 < 8)
  | 14 => decide (c = 0 ∨ c = 4) || (weftAt h c).isSome
  | 15 => decide (r = 0 ∨ r = 4) || (warpAt h r).isSome
  | 16 => decide (c = 0)
  | _ => false

/-- Does a reed have an output? A long-line port at the edge of the grid is there, its far harness is missing. -/
def hasOutput (h r c : Nat) : ReedOut → Bool
  | .ia => true
  | .ib => true
  | .llh => hasInput h r c 14
  | .llv => hasInput h r c 15
  | .gw => decide (c = 0)
  | o => (segEnd r c o).isSome

/-- Does a reed draft name the weft line, or the warp line? -/
def namesLine (w : BitVec 96) (vertical : Bool) : Bool :=
  let code := if vertical then 15 else 14
  let o := if vertical then ReedOut.llv else ReedOut.llh
  decide (reedSel w o ≠ 0) || reedOuts.any (fun x => decide (reedSel w x = code)) ||
    (if vertical then reedDrvV w else reedDrvH w)

/-- The codes that one reed draft earns by itself. -/
def reedCodes (h r c : Nat) (w : BitVec 96) : List Nat :=
  if !reedParityOk w then [1]
  else if !reedEn w then []
  else
    let sels := reedOuts.map (fun o => (o, reedSel w o))
    (if bitsOf w.toNat 91 88 ≠ 0 ∨ sels.any (fun e => decide (17 ≤ e.2)) then [2] else []) ++
    (if sels.any (fun e => (decide (e.2 < 17) && !hasInput h r c e.2) || (decide (e.2 ≠ 0) && !hasOutput h r c e.1)) ||
        decide (reedSel w .llh = 14) || decide (reedSel w .llv = 15) ||
        (reedDrvH w != decide (reedSel w .llh ≠ 0)) || (reedDrvV w != decide (reedSel w .llv ≠ 0)) then [8] else []) ++
    (if (namesLine w false && (weftAt h c).isNone && hasInput h r c 14) ||
        (namesLine w true && (warpAt h r).isNone && hasInput h r c 15) then [10] else [])

/-- Is a swap of the harness armed? -/
def armed (s : State) (d : Die) (h : Nat) : Bool := (getHar s d h).armTick.isSome

/-- The bank of a harness that will be resident after its next armed swap (R108). -/
def nextBank (s : State) (d : Die) (h : Nat) : Bool :=
  let a := getHar s d h
  if a.armTick.isSome then !a.flip else a.flip

/-- Would both ends of a long line at a reed of a harness drive it for an index, with this end's draft given (R108)? -/
def lineClash (s : State) (d : Die) (h r c k : Nat) (w : BitVec 96) : Bool :=
  [false, true].any (fun v =>
    match lineAt d h r c v with
    | some l =>
      let far := getReedDraft s d l.2.2 (8 * r + c) (nextBank s d l.2.2) k
      if v then reedDrvV w && reedDrvV far else reedDrvH w && reedDrvH far
    | none => false)

/-! ## Packages (R105 to R107) -/

/-- A record of a package (R106): type, row, column, first, base, and its payload units as numbers. -/
structure Rec where
  typ   : Nat
  row   : Nat
  col   : Nat
  first : Nat
  base  : Nat
  units : List Nat
  deriving DecidableEq, Repr

/-- The bytes of a payload unit of a record type, if the type exists. -/
def unitSize (t : Nat) : Option Nat :=
  match t with
  | 1 => some 24
  | 2 => some 12
  | 3 => some 4
  | 4 => some 4
  | 5 => some 4
  | _ => none

/-- Numbers of `size` bytes each. -/
def unitsOf (size : Nat) : Nat → List Byte → List Nat
  | 0, _ => []
  | k + 1, bs => leNat (bs.take size) :: unitsOf size k (bs.drop size)

/-- Read records until the bytes end: those read, and whether every type, length and padding is right. A record of a type
that does not exist, or that reaches past the end, ends the reading. -/
def readRecs : Nat → List Byte → List Rec × Bool
  | 0, bs => ([], decide (bs = []))
  | k + 1, bs =>
    match unitSize (fieldAt bs 0 1) with
    | none => ([], false)
    | some size =>
      let count := fieldAt bs 4 2
      let body := (count * size + 7) / 8 * 8
      if bs.length < 8 + body then ([], false)
      else
        let pay := (bs.drop 8).take body
        let r := readRecs k (bs.drop (8 + body))
        ({ typ := fieldAt bs 0 1, row := fieldAt bs 1 1, col := fieldAt bs 2 1, first := fieldAt bs 3 1,
           base := fieldAt bs 6 2, units := unitsOf size count pay } :: r.1,
         r.2 && (pay.drop (count * size)).all (fun b => decide (b = 0)))

/-- Does a record keep within its slots, words, registers or entries (R106)? -/
def recFits (r : Rec) : Bool :=
  let n := r.units.length
  match r.typ with
  | 1 => decide (r.first + n ≤ 16) && decide (r.base = 0)
  | 2 => decide (r.first + n ≤ 16) && decide (r.base = 0)
  | 3 => decide (r.first = 0) && decide (r.base + n ≤ 512)
  | 4 => decide (r.first ≤ 1) && decide (r.base + n ≤ 8)
  | _ => decide (r.first = 0) && decide (r.base + n ≤ 256) && decide (r.row = 0) && decide (r.col = 0)

/-- A package: the bank it is for (true: the standby bank), its target and its records. -/
structure Package where
  standby : Bool
  die     : Nat
  har     : Nat
  recs    : List Rec
  deriving DecidableEq, Repr

/-- The crc of a package: over the whole, its own field as 0 (R105). -/
def packageCrcOk (bs : List Byte) : Bool :=
  decide (crc32c (bs.take 20 ++ [0, 0, 0, 0] ++ bs.drop 24) = fieldAt bs 20 4)

/-- The codes that a package earns by its form alone. -/
def formCodes (bs : List Byte) : List Nat :=
  let ok := decide (fieldAt bs 0 4 = 0x54465244) && decide (fieldAt bs 4 2 = 1) && decide (fieldAt bs 6 2 < 2) &&
    decide (fieldAt bs 10 2 = 0) && decide (fieldAt bs 16 4 = bs.length) && decide (bs.length % 8 = 0) &&
    decide (32 ≤ bs.length) && decide (fieldAt bs 24 8 = 0)
  (if ok then [] else [2]) ++ (if packageCrcOk bs then [] else [3])

/-- The package that bytes spell as far as its records can be read, and whether their form is right. -/
def readPackage (bs : List Byte) : Package × Bool :=
  let r := readRecs (min (fieldAt bs 12 4) bs.length) (bs.drop 32)
  ({ standby := bitOf (fieldAt bs 6 2) 0, die := fieldAt bs 8 1, har := fieldAt bs 9 1, recs := r.1 }, r.2)

/-- The physical bank that a package writes. -/
def packageBank (s : State) (d : Die) (h : Nat) (p : Package) : Bool :=
  if p.standby then !(getHar s d h).flip else (getHar s d h).flip

/-- Write a record into the master copy (R365). -/
def recToMaster (d : Die) (h : Nat) (bank : Bool) (s : State) (r : Rec) : State :=
  let i := 8 * r.row + r.col
  ((List.range r.units.length).zip r.units).foldl (fun s e =>
    match r.typ with
    | 1 => masterWrite s d h bank (masterCellOff i (r.first + e.1)) (leBytes 24 e.2)
    | 2 => masterWrite s d h bank (masterReedOff i (r.first + e.1)) (leBytes 12 e.2)
    | 3 => masterWrite s d h bank (masterConstOff i (r.base + e.1)) (leBytes 4 e.2)
    | 4 => masterWrite s d h bank (masterConstOff i (512 + 8 * r.first + r.base + e.1)) (leBytes 4 e.2)
    | _ => masterWrite s d h bank (masterTableOff (r.base + e.1)) (leBytes 4 e.2)) s

/-- The codes that a record's units earn by themselves, when it names no place of the bank: parity, reserved fields, and what a cell
draft breaks alone (R49, R108). -/
def unitCodes (h : Nat) (r : Rec) : List Nat :=
  match r.typ with
  | 1 => r.units.flatMap (fun u => draftCodes r.col (BitVec.ofNat 192 u))
  | 2 => (r.units.flatMap (fun u => reedCodes h r.row r.col (BitVec.ofNat 96 u))).filter (fun c => decide (c ≤ 2))
  | 5 => r.units.flatMap (fun e => if bitsOf e 28 20 ≠ 0 then [2] else [])
  | _ => []

/-- Would any long line of the harness be driven from both ends for some index, as the bank will stand (R108)? -/
def bankClash (t : State) (d : Die) (h : Nat) (bank : Bool) : Bool :=
  (List.range 64).any (fun i => (List.range 16).any (fun k => lineClash t d h (i / 8) (i % 8) k (masterReedDraft t d h bank i k)))

/-- The codes that the records earn against the bank as it will stand, `t` being the state after they are applied. -/
def bankCodes (t : State) (d : Die) (h : Nat) (bank : Bool) (r : Rec) : List Nat :=
  let i := 8 * r.row + r.col
  let ds (b : Bool) : List CellDraft := masterCellDrafts t d h b i
  match r.typ with
  | 1 => cellCodes r.col ((List.range 16).map (masterCellDraft t d h bank i))
  | 2 => ((List.range 16).map (masterReedDraft t d h bank i)).flatMap (reedCodes h r.row r.col)
  | 3 =>
    let wr := writtenWords (ds bank)
    if ((List.range r.units.length).map (fun j => r.base + j)).any (fun w => wr.contains w) then [7] else []
  | 4 =>
    if ((List.range r.units.length).map (fun j => r.base + j)).any (ownedShared (ds bank) (decide (r.first = 1)))
    then [6] else []
  | _ => r.units.flatMap (fun e =>
      (if bitsOf e 28 20 ≠ 0 then [2] else []) ++ (if bitOf e 31 ∧ 14 ≤ bitsOf e 19 16 then [8] else []))

/-- Is any word that is not idle, or any pending result, in a cell or reed of a harness (R112 step 2, R120)? -/
def busyCells (s : State) (d : Die) (h : Nat) : Bool :=
  let lo := cellKey d h 0 0
  (s.arr.cells.any (fun (e : Nat × CellSt) => decide (lo ≤ e.1) && decide (e.1 < lo + 72) &&
    (liveWire e.2.ia || liveWire e.2.ib || liveWire e.2.tbl || liveWire e.2.urg || liveWire e.2.out ||
      e.2.pipe.any liveWire || e.2.trackA.any liveWire || e.2.trackB.any liveWire || e.2.trackT.any liveWire ||
      e.2.trackU.any liveWire || e.2.trackO.any liveWire ||
      decide (e.2.pend ≠ [])))) ||
  s.arr.reedIn.any (fun (e : Nat × Option Wire) => decide (e.1 / 2048 = harKey d h) && liveWire e.2)

/-- TSEQ_STAT.parked: the sequencer does not admit and no word or result is in the harness (R120, R215; log entry 209); a live bit
of a harness that is not ON reads 0 (R472). -/
def parked (s : State) (d : Die) (h : Nat) : Bool :=
  let a := getHar s d h
  domOn s d h && !seqRuns s d h && !busyCells s d h && a.gw.isEmpty && a.gwIn.isEmpty && a.wbs.isEmpty

/-- Of the codes that a package earns the lowest is reported; 0 when it earns none (R109). -/
def lowestCode (cs : List Nat) : Nat := cs.foldl (fun m c => if m = 0 ∨ c < m then c else m) 0

/-- The codes that a package earns beside those of its form (R107 to R110), as far as its records can be read. -/
def recordCodes (s : State) (d : Die) (h : Nat) (r : Package × Bool) : List Nat :=
  let p := r.1
  let target := if p.die = d.val ∧ p.har = h then [] else [10]
  let isIn (x : Rec) : Bool := decide (x.row < 8) && decide (x.col < 8)
  let inside := p.recs.filter (fun x => isIn x && recFits x)
  let outside := p.recs.filter (fun x => !(isIn x && recFits x))
  let out := if p.recs.all isIn then [] else [10]
  let fits := if r.2 && p.recs.all recFits then [] else [2]
  let bank := packageBank s d h p
  let t := inside.foldl (recToMaster d h bank) s
  let busy := if p.standby then armed s d h else !parked s d h
  target ++ out ++ fits ++ inside.flatMap (bankCodes t d h bank) ++ outside.flatMap (unitCodes h) ++
    (if bankClash t d h bank then [9] else []) ++ (if busy then [11] else [])

/-- The code that a package earns (R107 to R110): the lowest of all; 0 when it is accepted. -/
def packageCode (s : State) (d : Die) (h : Nat) (bs : List Byte) : Nat :=
  lowestCode (formCodes bs ++ recordCodes s d h (readPackage bs))

/-- Write the units of a record into the array (R107, R110): drafts, reed drafts and table into the bank; constants at
once only for the resident bank. -/
def recToArray (d : Die) (h : Nat) (bank resident : Bool) (s : State) (r : Rec) : State :=
  let i := 8 * r.row + r.col
  let ck := cellKey d h r.row (physCol s d h r.row r.col)
  ((List.range r.units.length).zip r.units).foldl (fun s e =>
    match r.typ with
    | 1 => setCellDraft s ck bank (r.first + e.1) (BitVec.ofNat 192 e.2)
    | 2 => setReedDraft s d h i bank (r.first + e.1) (BitVec.ofNat 96 e.2)
    | 3 => if resident then setScratch s ck (r.base + e.1) (BitVec.ofNat 32 e.2) else s
    | 4 => if resident then setShared s ck (8 * r.first + r.base + e.1) (BitVec.ofNat 32 e.2) else s
    | _ => setTable s d h bank (r.base + e.1) (BitVec.ofNat 32 e.2)) s

/-- Entries of the resident table that a record replaces have not been served (R101). -/
def forgetServed (d : Die) (h : Nat) (s : State) (r : Rec) : State :=
  if r.typ = 5 then
    modHar s d h (fun a => { a with tDone := a.tDone.filter (fun p => !(decide (r.base ≤ p) && decide (p < r.base + r.units.length))) })
  else s

/-- An accepted load of a harness lets its failed long lines work again (R115). -/
def clearLines (s : State) (d : Die) (h : Nat) : State :=
  let one (s : State) (v : Bool) (w : Nat) (k : Nat) : State :=
    match gateFar v w with
    | none => s
    | some far =>
      let key := gateKey d v w k
      let g := getGate s key
      if !g.failed then s
      else
        let s := setGate s key { g with failed := false, forced := false, contended := none }
        let shown (s : State) (x : Nat) : State :=
          if getF s fLL_FAULT_seg d x = segAddr d v w k then setF s fLL_FAULT_failed d x 0 else s
        shown (shown s w) far
  (List.range 8).foldl (fun s k =>
    let s := one (one s false h k) true h k
    let s := if h % 6 = 0 then s else one s false (h - 1) k
    if h < 6 then s else one s true (h - 6) k) s

/-- Load a package (R107): its code in SWAP_CTL.last_status, and everything it carries if it is accepted. -/
def loadPackage (s : State) (d : Die) (h : Nat) (bs : List Byte) : State × Nat :=
  let code := packageCode s d h bs
  let s := setF s fSWAP_CTL_last_status d h code
  if code ≠ 0 then (s, code)
  else
    let p := (readPackage bs).1
    let bank := packageBank s d h p
    let s := p.recs.foldl (recToMaster d h bank) s
    let s := p.recs.foldl (recToArray d h bank (!p.standby)) s
    let s := if p.standby then s else p.recs.foldl (forgetServed d h) s
    (clearLines { s with mem.drafted := harKey d h :: s.mem.drafted.filter (fun k => k ≠ harKey d h) } d h, code)

end Sys2Proof.Machine
end

