-- ==== Sys2Proof/Machine/Swap.lean ====
section
/-! DEFINITION. Standby swaps (R111 to R113), the words that a darning or a replay discards (R117, R182), and darning
(R116 to R119). -/

namespace Sys2Proof.Machine

/-! ## Swaps (R111, R112) -/

/-- Would any index be driven from both ends of a long line if the harness swapped (R111)? -/
def swapClash (s : State) (d : Die) (h : Nat) : Bool :=
  (List.range 64).any (fun i => (List.range 16).any (fun k =>
    lineClash s d h (i / 8) (i % 8) k (getReedDraft s d h i (!(getHar s d h).flip) k)))

/-- Arm a swap (R111): the state, and the code of R109 when it is not accepted now. -/
def armSwap (s : State) (d : Die) (h : Nat) : State × Option Nat :=
  if armed s d h then (s, some 11)
  else if swapClash s d h then (setF s fSWAP_CTL_last_status d h 9, some 9)
  else
    (setF (modHar s d h (fun a => { a with armTick := some s.vigil.ticks })) fSWAP_CTL_arm d h 1, none)

/-- The arm of a harness is over with a status (R109, R112): the sequencer admits again and a waiting command ends.
`ok` says that the banks were exchanged. -/
def endSwap (s : State) (d : Die) (h code : Nat) : State :=
  let s := modHar s d h (fun a => { a with armTick := none, draining := false })
  let s := setF (setF (setF s fSWAP_CTL_arm d h 0) fTSEQ_STAT_swap_busy d h 0) fSWAP_CTL_last_status d h code
  endWait s (.swap d h) (if code = 0 then 0 else 7) code 0

/-- SWAP_ARM (R111): a write of 1 to SWAP_CTL.arm. -/
def execSwapArm (_rq : Requester) (d : Die) (h : Harn) (s : State) : Host.Outcome State Fault Refusal :=
  .next (armSwap s d h.val).1

/-- Cancel an armed swap whose step 1 has not begun (R120); a command that waits for it completes with the status of
log entry 23. -/
def cancelSwap (s : State) (d : Die) (h : Nat) : State :=
  let a := getHar s d h
  if a.armTick.isNone || a.draining then s
  else
    let s := setF (modHar s d h (fun a => { a with armTick := none })) fSWAP_CTL_arm d h 0
    endWait s (.swap d h) 6 0 0

/-- SWAP_CANCEL (R120). -/
def execSwapCancel (_rq : Requester) (d : Die) (h : Harn) (s : State) : Host.Outcome State Fault Refusal :=
  .next (cancelSwap s d h.val)

/-- The harnesses of a die that drain for a swap. -/
def drainingHars (s : State) (d : Die) : List Nat := (List.range 36).filter (fun h => (getHar s d h).draining)

/-- Swaps armed at least 2 µs before a boundary begin at it (R111, R112 step 1). -/
def startSwaps (s : State) (d : Die) : State :=
  (List.range 36).foldl (fun s h =>
    match (getHar s d h).armTick with
    | some t =>
      if t + 50 ≤ s.vigil.ticks ∧ !(getHar s d h).draining then
        setF (modHar s d h (fun a => { a with draining := true })) fTSEQ_STAT_swap_busy d h 1
      else s
    | none => s) s

/-- Is an item that the yarn engine admitted still to pass a harness (R112 step 2)? Event items that have not started
wait at the gateway of a harness that drains (R104); at one that does not, they start and come on to this harness. -/
def stillToPass (s : State) (d : Die) (h : Nat) (f : Flight) : Bool :=
  let y := getYarn s d f.yarn
  let waiting := decide (14 ≤ y.entryIdx.toNat) && (y.stages.any (fun g => (getHar s d g.harness).draining && (getHar s d g.harness).gw.any
    (fun x => decide (x.flight = f.id) && decide (x.sent = 0) && decide (x.stage = 0))))
  decide (f.die = d) && !waiting && (match stageIn y h with
    | some i => !f.retired.contains i
    | none => false)

/-- Is no word in flight on the long lines of a gate column or row, as far as they join two armed harnesses (R112 step 2)? -/
def linesDrained (s : State) (d : Die) (v : Bool) (w : Nat) : Bool :=
  match gateFar v w with
  | none => true
  | some far => !((getHar s d w).draining && (getHar s d far).draining) || (List.range 8).all (fun k =>
    let g := getGate s (gateKey d v w k)
    decide (g.fromA = []) && decide (g.fromB = []))

/-- Is a harness drained (R112 step 2)? Its frames' write-backs are done, so are the lines to other armed harnesses, and the table
has ended every item it began, unless it is off. -/
def drained (s : State) (d : Die) (h : Nat) : Bool :=
  let a := getHar s d h
  !busyCells s d h && (decide (a.tOpen = []) || !flagF s fTSEQ_CTL_tbl_en d h) && !a.tOffered && decide (a.wbs = []) &&
  !s.flow.flights.any (stillToPass s d h) &&
  linesDrained s d false h && linesDrained s d true h && (decide (h % 6 = 0) || linesDrained s d false (h - 1)) &&
  (decide (h < 6) || linesDrained s d true (h - 6))

/-- Exchange the banks of a harness and write the constants of the new resident bank (R112 steps 3 and 4). The table goes on at
the entry that it held back, and what it kept of the old table's entries is over. -/
def exchange (s : State) (d : Die) (h : Nat) : State :=
  let s := modHar s d h (fun a => { a with flip := !a.flip, tOpen := [], tDone := [], tHold := none,
                                           tpos := (a.tHold.map (BitVec.ofNat 8)).getD a.tpos })
  let s := loadHarConstants s d h
  let s := { s with mem.drafted := harKey d h :: s.mem.drafted.filter (fun k => k ≠ harKey d h) }
  endSwap (wrapF s fSWAP_CTL_swap_count d h) d h 0

/-- BANK_EXCHANGE (R112): every harness of the die that swaps is drained. A harness of `bad` has constants that the loader cannot
read from the master copy: its swap ends with BAD_PARITY, and its banks stay (R256). -/
def execBankExchange (d : Die) (bad : List Harn) (s : State) : Host.Outcome State Fault Refusal :=
  .next (
    let hs := drainingHars s d
    if hs.all (drained s d) then
      hs.foldl (fun s h => if bad.any (fun b => b.val = h) then endSwap s d h 1 else exchange s d h) s
    else s)

/-- SWAP_TIMEOUT (R112): one beat period after the boundary not every harness is drained, and none exchanges. -/
def execSwapTimeout (d : Die) (s : State) : Host.Outcome State Fault Refusal :=
  .next (
    let hs := drainingHars s d
    if hs.all (drained s d) then s else hs.foldl (fun s h => endSwap s d h 12) s)

/-! ## Discarding words (R117, R182) -/

/-- A word slot without the words that a test names by flight and index. -/
def dropWire (gone : Nat → BitVec 4 → Bool) : Option Wire → Option Wire
  | some w => if gone w.fl w.idx then none else some w
  | none => none

/-- A slot without the items that a test names: an item that is gone is over. -/
def dropSlot (gone : Nat → BitVec 4 → Bool) (k : Nat) (sl : SlotSt) : SlotSt :=
  let idx := BitVec.ofNat 4 k
  let sl := { sl with next := sl.next.filter (fun l => !gone l.flight idx),
                      older := sl.older.filter (fun o => !gone (o.fl.getD 0) idx) }
  let sl := if gone (sl.actFl.getD 0) idx then { sl with inItem := false, actFl := none, actDone := true } else sl
  if gone (sl.oldFl.getD 0) idx then { sl with oldFl := none, oldDone := true } else sl

/-- Does a pending result belong to an item that is gone? -/
def pendGone (gone : Nat → BitVec 4 → Bool) (c : CellSt) (p : Pend) : Bool :=
  let sl := getSlot c p.slot.toNat
  let fl := if p.item = sl.actItem then sl.actFl.getD 0 else if p.item = sl.oldItem then sl.oldFl.getD 0
    else ((sl.older.find? (fun o => decide (o.item = p.item))).bind (fun o => o.fl)).getD 0
  gone fl p.slot

/-- A cell without the words, results and items that a test names. -/
def dropCell (gone : Nat → BitVec 4 → Bool) (c : CellSt) : CellSt :=
  { c with ia := dropWire gone c.ia, ib := dropWire gone c.ib, tbl := dropWire gone c.tbl, urg := dropWire gone c.urg,
           out := dropWire gone c.out, pipe := c.pipe.map (dropWire gone), pend := c.pend.filter (fun p => !pendGone gone c p),
           trackA := c.trackA.map (dropWire gone), trackB := c.trackB.map (dropWire gone),
           trackT := c.trackT.map (dropWire gone), trackU := c.trackU.map (dropWire gone),
           trackO := c.trackO.map (dropWire gone),
           slots := (c.slots.foldl (fun m e => sparseSet (fun _ => slotInit) m e.1 (dropSlot gone e.1 e.2)) c.slots) }

/-- Discard, in the cells and reeds of a harness, every word and result that a test names. -/
def dropWords (s : State) (d : Die) (h : Nat) (gone : Nat → BitVec 4 → Bool) : State :=
  let lo := cellKey d h 0 0
  let s := (s.arr.cells.filter (fun e => decide (lo ≤ e.1) && decide (e.1 < lo + 72))).foldl (fun s e =>
    setCell s e.1 (dropCell gone e.2)) s
  let s := (s.arr.reedIn.filter (fun e => decide (e.1 / 2048 = harKey d h))).foldl (fun s e =>
    setReedIn s e.1 (dropWire gone e.2)) s
  modHar s d h (fun a =>
    { a with tOffered := if (a.tOffered && (maskCells s d h .TSEQ_SRC_LO .TSEQ_SRC_HI).all (offerFree s false)) then false
                         else a.tOffered })

/-! ## Darning (R116 to R119) -/

/-- The output bobbins whose open item a yarn of a harness writes lose it (R151). -/
def dropOpens (s : State) (d : Die) (h : Nat) : State :=
  (yarnsOfHar s d h).foldl (fun s n =>
    (getYarn s d n).outs.foldl (fun s o => match o with
      | some x => if writesBob s d (getYarn s d n) x.bob then
          modBob s x.bob (fun b => if b.opened.isSome then flushOpen b else b) else s
      | none => s) s) s

/-- The items of a harness's yarns give back their reservations as darning discards them (R129); the replay that follows admits
them again. -/
def dropReserved (s : State) (d : Die) (h : Nat) : State :=
  ((yarnsOfHar s d h).flatMap (fun n => flightsOf s d n)).foldl (fun s f => releaseAll s f.id) s

/-- Record a darning request in DARN_STAT; TSEQ_STAT shows the darning beside it (R120). -/
def darnStat (s : State) (d : Die) (h r c result : Nat) : State :=
  let s := setF s fTSEQ_STAT_darn_busy d h 0
  setF (setF (setF (setF s fDARN_STAT_busy d h 0) fDARN_STAT_result d h result) fDARN_STAT_row d h r) fDARN_STAT_col d h c

/-- Is the spare of a row in use? -/
def spareUsed (s : State) (d : Die) (h r : Nat) : Bool := (darnedCol s d h r).isSome

/-- The drafts, shared registers and constants of a cell go to the row's spare, and the taps are set (R117 steps 3 to
5). -/
def setTaps (s : State) (d : Die) (h r c : Nat) : State :=
  let i := 8 * r + c
  let ck := cellKey d h r 8
  let s := setCell s ck { cellInit with cnt := (getCell s ck).cnt }
  let s := loadConstants (loadCell s d h i ck) d h i ck
  let s := (List.range 16).foldl (fun s g => setShared s ck g (masterConst s d h (getHar s d h).flip i (512 + g))) s
  let s := setCell s (cellKey d h r c) { cellInit with cnt := (getCell s (cellKey d h r c)).cnt }
  let m := (regRaw s .DARN_MAP d h).toNat
  setReg s .DARN_MAP d h (BitVec.ofNat 32 (putBits m (4 * r + 3) (4 * r) (8 + c)))

/-- Darn a cell (R117): the words of the harness are discarded, the spare takes over, and the harness's yarns are
replayed; the firmware records the darning in the NV store (R119). -/
def darnCell (s : State) (d : Die) (h r c : Nat) : State :=
  let s := dropReserved (dropOpens s d h) d h
  let s := dropWords s d h (fun _ _ => true)
  let s := setTaps s d h r c
  let s := { s with mem.darned := s.mem.darned ++ [(harKey d h, r, c)] }
  let s := darnStat s d h r c 0
  let s := raiseEvent s 0x09 d (BitVec.ofNat 32 h) (regRaw s .DARN_STAT d h)
  addFault s d { cls := 2, id := 0, har := some h, bob := none }

/-- May the firmware darn the cell for this reason (R116)? A host request has its command waiting. -/
def darnDue (s : State) (d : Die) (h r c : Nat) : DarnWhy → Bool
  | .secondFault => secondFault s d h r c
  | .march => true
  | .host => flagF s fDARN_STAT_busy d h && decide (getF s fDARN_STAT_row d h = r) && decide (getF s fDARN_STAT_col d h = c)

/-- DARNING (R116, R117), with the answer of the host command that asked for it. It is work of level 2 of the firmware
(R354, R358); a halted harness is not darned (R465). -/
def darning (s : State) (d : Die) (h r c : Nat) (why : DarnWhy) (spareFaulty : Bool) : State :=
  if !fwAt s d 2 || !darnDue s d h r c why || (getHar s d h).halted then s
  else if spareUsed s d h r then
    match why with
    | .host => endWait (darnStat s d h r c 3) (.darn d h) 6 3 0
    | _ => loseHarness (darnStat s d h r c 1) d h
  else if spareFaulty || s.mem.spareBad.contains (harKey d h, r) then endWait (loseHarness (darnStat s d h r c 2) d h) (.darn d h) 6 2 0
  else endWait (darnCell s d h r c) (.darn d h) 0 0 0

/-- DARNING (R117). -/
def execDarning (d : Die) (h : Harn) (r : Row) (c : Fin 8) (why : DarnWhy) (spareFaulty : Bool) (s : State) :
    Host.Outcome State Fault Refusal :=
  .next (darning s d h.val r.val c.val why spareFaulty)

end Sys2Proof.Machine
end

