-- ==== Sys2Proof/Machine/Replay.lean ====
section
/-! DEFINITION. Replay (R180 to R185, R189): the groups of yarns a fault names, what a replay discards and restores, and
how journal entries are re-injected; the checkpoint step with the twin comparison (R172, R188, R191); the loss of a
harness (R189) and of a die (R192). A yarn in a replay is named by its code: 2 × number + die. -/

namespace Sys2Proof.Machine

/-! ## CHECKPOINT_WRITTEN (R172, R191) -/

/-- Compare a twin yarn's cut with the other copy's, once both have it: a difference is a divergence (R188, R191). -/
def compareTwin (s : State) (d : Die) (n : Nat) : State :=
  let y := getYarn s d n
  let z := getYarn s (otherDie d) n
  if y.prot ≠ 2 ∨ apart s ∨ y.updHold ∨ z.updHold then s
  else
    match y.twinLog.getLast? with
    | none => s
    | some e => if z.twinLog.any (fun x => decide (x.1 = e.1) && decide (x.2 ≠ e.2)) then
        divergence s [y.homeDie, otherDie y.homeDie] n n else s

/-- CHECKPOINT_WRITTEN (R172): the oldest checkpoint of a yarn that waits reaches HBM. -/
def execCheckpointWritten (d : Die) (y : YarnNo) (s : State) : Host.Outcome State Fault Refusal :=
  .next (match (getYarn s d y.val).cuts with
    | [] => s
    | c :: _ => if cutReady s d y.val c then compareTwin (writeCkpt s d y.val c) d y.val else s)

/-! ## The yarns of a fault (R180, R189) -/

/-- The yarns a fault names (R189). -/
def faultYarns (s : State) (d : Die) (f : FaultRec) : List Nat :=
  let hs := match f.har with
    | some h => (yarnsOfHar s d h).map (yarnCode d)
    | none => []
  let bs := match f.bob with
    | some b => (bobYarns (getBob s b)).flatMap (codeFrom s (getBob s b).die)
    | none => []
  (hs ++ bs ++ (f.yarn.map (yarnCode d)).toList).dedup

/-- The yarns whose replay groups a fault touches. -/
def faultGroup (s : State) (d : Die) (f : FaultRec) : List Nat := groupsOf (s.flow.yarns.length + 1) s (faultYarns s d f)

/-! ## Relocation (R189) -/

/-- The relocation harness that the image names for a harness (R366). -/
def relocTarget (s : State) (d : Die) (h : Nat) : Option Nat :=
  let t := (memByte s.mem.sys (d.val * 4096 + h)).toNat
  if t < 36 ∧ t ≠ h ∧ domOn s d t ∧ !(getHar s d t).lost then some t else none

/-- The frames that stand in a harness's bank memory: where each begins and how many 64-byte units it takes. -/
def framesIn (s : State) (d : Die) (h : Nat) : List (Nat × Nat) :=
  (yarnsOn s d).flatMap (fun e => (e.2.stages.filter (fun g => g.harness = h)).map (fun g => (g.frame, 1 + g.images)))

/-- The lowest free place for a frame of some units in a harness's bank memory (R136), in no block that a march test has
withdrawn (R272). -/
def frameFit (s : State) (d : Die) (h units : Nat) : Option Nat :=
  let fs := framesIn s d h ++ (s.mem.withdrawn.filter (fun k => decide (k / 256 = harKey d h))).map (fun k => (k % 256 * 32, 32))
  let ok (c : Nat) : Bool := decide (c + units ≤ 8192) &&
    fs.all (fun f => decide (f.1 + f.2 ≤ c) || decide (c + units ≤ f.1))
  ((0 :: fs.map (fun f => f.1 + f.2)).filter ok).foldl (fun (r : Option Nat) c => match r with
    | none => some c
    | some b => some (min b c)) none

/-- Move a yarn's stage from a lost harness to its relocation harness, with its frame as it stands (R189). A frame for which the
bank memory there has no room stays, as if there were no relocation harness for the yarn (DESIGN CHOICE, log entry 248). -/
def relocYarn (s : State) (d : Die) (h t n : Nat) : State :=
  let y := getYarn s d n
  match y.stages.find? (fun g => decide (g.harness = h)) with
  | none => s
  | some g =>
    match frameFit s d t (1 + g.images) with
    | none => s
    | some f =>
      let moved : Stage := { g with harness := t, frame := f }
      let s := writeFrame s d moved (frameBytes s d g)
      setYarn s d n { y with stages := y.stages.map (fun x => if x.harness = h then moved else x) }

/-- A harness is lost: its yarns move to the relocation harness with its drafts from the master copy. Answers the harness they
move to, if there is one. -/
def relocate (s : State) (d : Die) (h : Nat) : State × Option Nat :=
  match relocTarget s d h with
  | some t => ((yarnsOfHar s d h).foldl (fun s n => relocYarn s d h t n) (loadHarConstants (loadHarDrafts s d t) d t), some t)
  | none => (s, none)

/-! ## What a replay discards (R182 steps 1 and 2) -/

/-- Discard one item in flight: its reservations, and what its input bobbin still holds of it when that bobbin is fed
from an entry point or keeps its words (R181, R183). -/
def dropFlight (s : State) (f : Flight) : State :=
  let s := releaseAll s f.id
  let s := match f.inBob with
    | some b => if 0 < f.left ∧ (headItem (getBob s b)).isSome then (takeItem s b).1 else s
    | none => s
  { s with flow.flights := s.flow.flights.filter (fun x => decide (x.id ≠ f.id)) }

/-- The buffers of lanes without the words that a test names by flight and index. -/
def dropLanes (gone : Nat → BitVec 4 → Bool) (m : Sparse (List Wire)) : Sparse (List Wire) :=
  m.foldl (fun m e => setLaneWords m e.1 (e.2.filter (fun w => !gone w.fl w.idx))) m

/-- Discard everything of some yarns in every harness: words, results, items at gateways and write-backs, and the open
items of their output bobbins (R182 step 2). -/
def dropYarns (s : State) (cs : List Nat) : State :=
  let fl := s.flow.flights.filter (fun f => cs.contains (yarnCode f.die f.yarn))
  let ids := fl.map (fun f => f.id)
  let gone (d : Die) (h id : Nat) (k : BitVec 4) : Bool :=
    ids.contains id || (decide (id = 0) && (match ownerOf s d h k with
      | some o => cs.contains (yarnCode d o.1)
      | none => false))
  let s1 := [(0 : Die), 1].foldl (fun t d => (List.range 36).foldl (fun t h =>
      let u := dropWords t d h (gone d h)
      modHar u d h (fun a =>
        { a with gw := a.gw.filter (fun g => !ids.contains g.flight)
                 wbs := a.wbs.filter (fun w => !ids.contains w.flight)
                 gwIn := dropLanes (gone d h) a.gwIn
                 gwOut := dropLanes (gone d h) a.gwOut })) t) s
  let s2 := s1.arr.gates.foldl (fun t e =>
    let d : Die := if 576 ≤ e.1 then 1 else 0
    let h := e.1 / 8 % 36
    let keep (w : Wire) : Bool := !gone d h w.fl w.idx
    setGate t e.1 { e.2 with fromA := e.2.fromA.filter keep, fromB := e.2.fromB.filter keep }) s1
  let s3 := fl.foldl dropFlight s2
  cs.foldl (fun t c => (codeYarn t c).outs.foldl (fun t o => match o with
    | some x => if writesBob t (codeDie c) (codeYarn t c) x.bob then
        modBob t x.bob (fun b => if b.opened.isSome then flushOpen b else b) else t
    | none => t) t) s3

/-- Does an entry point feed a bobbin? -/
def entryFed (b : Bob) : Bool := decide (b.prod ≠ .yarn)

/-- The words of a waiting re-injection that stand for the marks alone: how far the yarn had read the bobbin, and the
last beat whose mark it had taken (R184). -/
def markTail (rp : Word) (ord : Nat) : ReInject := { wp := rp, words := [], ord := ord }

/-- A yarn enters REPLAY: its former state, its target, and for each entry-fed input how far it had read the bobbin
(R182 steps 1 and 5, R184). A yarn that replays already keeps what it had. -/
def enterReplay (s : State) (c : Nat) : State :=
  let d := codeDie c
  let n := c / 2
  let y := getYarn s d n
  let again := decide (y.state = .replay)
  let fed (i : Nat) : Option Nat := (y.ins.getD i none).bind (fun b0 =>
    let b := inputBob s d y b0
    if entryFed (getBob s b) && decide ((getBob s b).state = .active) then some b else none)
  let rpOf (i : Nat) : Option Word := (fed i).map (fun b => (y.rpFault.getD i none).getD (getBob s b).rp)
  let last (i : Nat) : Nat := ((y.reinject.getD i []).map (fun r => r.ord)).foldl max (y.marks.getD i 0)
  setYarn s d n { y with state := .replay, before := if again then y.before else y.state,
                         target := if again && y.target.isSome then y.target else some y.itemsIn,
                         replays := y.replays + 1, rpFault := (List.range 4).map rpOf,
                         reinject := (List.range 4).map (fun i => match rpOf i with
                           | some rp => [markTail rp (last i)]
                           | none => []) }

/-- May a fault replay the yarn: is it in RUN, HOLD or REPLAY (R183)? -/
def replayable (y : Yarn) : Bool := y.state = .run || y.state = .hold || y.state = .replay

/-- The forced idle words of a contended line end when the replay begins (R114). -/
def unforce (s : State) (d : Die) (h : Nat) : State :=
  s.arr.gates.foldl (fun s e =>
    let far := (gateFar (decide (288 ≤ e.1 % 576)) (e.1 / 8 % 36)).getD 36
    let dd : Die := if 576 ≤ e.1 then 1 else 0
    if e.2.forced && decide (dd = d) && decide (e.1 / 8 % 36 = h ∨ far = h) then
      setGate s e.1 { e.2 with forced := false } else s) s

/-- The number that RPL_LAST gives for a fault: of its bobbin, if it names one, or else of a yarn (R196). -/
def faultId (f : FaultRec) (n : Nat) : Nat :=
  match f.bob with
  | some b => b % 65536
  | none => n

/-- REPLAY_START (R182): the oldest fault of a die. Yarns of class NONE stop, and so do those of a lost harness that cannot be
relocated (R189), with the fault in RPL_LAST and result 0 (R196 gives no code for them; DESIGN CHOICE, log entry 249); a yarn
that enters REPLAY for the third time without a commit stops too (R181, R185), and one whose stop waited for an item boundary
stops here, since nothing of it is in flight any more (R115, R128). A halted harness is not relocated (R465), and no harness is
while the die's firmware does not run (R354, R358). -/
def replayStart (s : State) (d : Die) : State :=
  match (getBeat s d).faults with
  | [] => s
  | f :: fs =>
    let held := match f.har with
      | some h => decide (f.cls = 6) && ((getHar s d h).halted || !fwAt s d 2)
      | none => false
    if held then s else
    let s := modBeat s d (fun b => { b with faults := fs })
    let grp := (faultGroup s d f).filter (fun c => replayable (codeYarn s c))
    let r := match f.har with
      | some h => if f.cls = 6 then relocate (unforce s d h) d h else (unforce s d h, some h)
      | none => (s, none)
    let s := r.1
    let lost := f.har
    let stay (c : Nat) : Bool := decide (f.cls = 6) && (r.2.isNone ||
      (decide (codeDie c = d) && (codeYarn s c).stages.any (fun g => decide (some g.harness = lost))))
    let f := if f.cls = 6 then { f with har := r.2 } else f
    let none_ := grp.filter (fun c => stay c || decide ((codeYarn s c).replay = 2))
    let rest := grp.filter (fun c => !none_.contains c)
    let s := none_.foldl (fun s c =>
      stopYarn (rplLast (dropYarns s [c]) (codeDie c) 0 f.cls.toNat (faultId f (c / 2))) (codeDie c) (c / 2) 0xFF) s
    let third := rest.filter (fun c => decide (2 ≤ (codeYarn s c).replays))
    let s := third.foldl (fun s c =>
      stopYarn (rplLast (dropYarns s [c]) (codeDie c) 4 9 (c / 2)) (codeDie c) (c / 2) 4) s
    let go := rest.filter (fun c => decide ((codeYarn s c).replays < 2))
    let s := dropYarns s go
    let s := go.foldl enterReplay s
    let s := go.foldl (fun s c => settleYarn s (codeDie c) (c / 2)) s
    let rid (p : Replay) : Replay := { p with yarns := p.yarns.filter (fun c => !go.contains c) }
    let merge (b : BeatSt) : BeatSt :=
      { b with replays := (b.replays.filter (fun p => p.yarns.all (fun c => !go.contains c) || (rid p).yarns ≠ [])).map rid }
    let s := modBeat (modBeat s 0 merge) 1 merge
    let p : Replay := { fault := f, yarns := go, restored := false, result := 0, silent := decide (go = []) }
    if go = [] ∧ f.bob = none then s else modBeat s d (fun b => { b with replays := b.replays ++ [p] })

/-- REPLAY_START (R182). -/
def execReplayStart (d : Die) (s : State) : Host.Outcome State Fault Refusal := .next (replayStart s d)

/-! ## What a replay restores (R182 step 3, R183, R184) -/

/-- The ordinal of the checkpoint a yarn is restored from: the one asked for, or the first after it. -/
def ckptFrom (y : Yarn) (ord : Nat) : Option Nat :=
  match (y.written.filter (fun o => decide (ord ≤ o))).foldl (fun (r : Option Nat) o => match r with
      | none => some o
      | some b => some (min b o)) none with
  | some o => some o
  | none => y.written.getLast?

/-- A checkpoint record as read from HBM (R171). -/
structure CkptVals where
  ord     : Nat
  itemsIn : Word
  done    : Word
  ovf     : Word
  inNext  : Nat
  rps     : List Word
  mwps    : List Word
  deriving DecidableEq, Repr

/-- Read the record of a checkpoint of a yarn. -/
def readCkpt (s : State) (d : Die) (y : Yarn) (ord : Nat) : CkptVals :=
  let off := ckptOff y (numOfOrd s d ord).toNat
  let bs := readHbm s (ckptStack s d y off 64) off 64
  let w (o : Nat) : Word := BitVec.ofNat 32 (fieldAt bs o 4)
  { ord := ord, itemsIn := w 4, done := w 8, ovf := w 12, inNext := fieldAt bs 16 4 % 4,
    rps := [w 0x14, w 0x18, w 0x1C, w 0x20], mwps := [w 0x24, w 0x28, w 0x2C, w 0x30] }

/-- The places that a restore of a yarn from the checkpoint of an ordinal reads: the record and the frames. -/
def ckptReads (s : State) (d : Die) (y : Yarn) (ord : Nat) : List (Nat × Nat) :=
  (ckptOff y (numOfOrd s d ord).toNat, 64) :: (List.range y.stages.length).filterMap (framePlace y ord)

/-- Can a checkpoint not be read: is a granule of it poisoned in every copy, or does the crc of its record not hold (R185, R190,
R263)? -/
def ckptBad (s : State) (d : Die) (y : Yarn) (ord : Nat) : Bool :=
  let off := ckptOff y (numOfOrd s d ord).toNat
  let bs := readHbm s (ckptStack s d y off 64) off 64
  (ckptReads s d y ord).any (fun p => poisoned s (ckptStack s d y p.1 p.2) p.1 p.2) ||
    decide (crc32c (bs.take 60) ≠ fieldAt bs 60 4)

/-- The uncorrectable errors that the reads of a checkpoint meet in its own stack are recorded (R263). -/
def ckptErrors (s : State) (d : Die) (y : Yarn) (ord : Nat) : State :=
  (ckptReads s d y ord).foldl (fun s p => (stackCheck s d p.1 p.2 .clean 0).1) s

/-- Choose the checkpoint of a yarn to restore from outside a replay: its last committed one, or the fallback where that cannot be
read (R185). -/
def chooseCkpt (s : State) (c : Nat) : State × Option Nat :=
  let d := codeDie c
  let y := codeYarn s c
  match ckptFrom y (ckptOrd s d) with
  | none => (s, none)
  | some o =>
    let s := ckptErrors s d y o
    if ckptBad s d y o then (s, (ckptFrom y (ckptOrd s d - 1)).filter (fun k => !ckptBad s d y k)) else (s, some o)

/-- Load a pinned yarn's frame of a stage into the active buffers of its cells (R132). -/
def loadPinned (s : State) (d : Die) (g : Stage) : State :=
  let k := g.idx.toNat
  let cells := statefulCells s d g.harness k
  ((List.range cells.length).zip cells).foldl (fun s e =>
    let c := getCell s e.2
    let sl := getSlot c k
    setCell s e.2 (setSlot c k { sl with act := frameImage s d g e.1, actFl := none, actDone := true, inItem := false })) s

/-- Does the treadling table of a harness feed a pinned yarn there: has one of its entries the index of the yarn's stage (R102,
R133)? -/
def tableFeeds (s : State) (d : Die) (y : Yarn) (g : Stage) : Bool :=
  y.pinned && (List.range (getF s fTSEQ_CTL_tbl_len d g.harness + 1)).any (fun p =>
    let e := getTable s d g.harness (getHar s d g.harness).flip p
    bitOf e.toNat 31 && decide ((tableWire e).idx = g.idx))

/-- The table of a stage's harness goes back to the position that the stage's frame holds (R133, R182 step 3). -/
def restoreTable (s : State) (d : Die) (y : Yarn) (g : Stage) : State :=
  if tableFeeds s d y g then
    modHar s d g.harness (fun a => { a with tpos := memByte s.arr.bank (bankAddr d g.harness (g.frame * 64 + 8)),
                                            tOffered := false, tOpen := [], tHold := none, tDone := [] }) else s

/-- Restore the frames, counters and table position of a yarn (R182 step 3). -/
def restoreYarn (s : State) (c : Nat) (v : CkptVals) : State :=
  let d := codeDie c
  let n := c / 2
  let y := getYarn s d n
  let s := ((List.range y.stages.length).zip y.stages).foldl (fun s e =>
    let bs := ckptFrame s d y v.ord e.1
    let s := if bs = [] then s else writeFrame s d e.2 bs
    if y.pinned then loadPinned s d e.2 else s) s
  let s := y.stages.foldl (fun s g => restoreTable s d y g) s
  let kept (r : Die × Nat × Word) : Bool := !(decide (r.1 = d) && decide (r.2.1 = n)) ||
    decide ((v.itemsIn - r.2.2).toNat < 2 ^ 31)
  setYarn { s with flow.reports := s.flow.reports.filter kept } d n
    { y with itemsIn := v.itemsIn, itemsDone := v.done, ovfCount := v.ovf, inNext := v.inNext, cut := v.ord, cuts := [],
             lastAt := some v.itemsIn, written := y.written.filter (fun o => decide (o ≤ v.ord)),
             copies := y.copies.filter (fun e => decide (e.1 ≤ v.ord)),
             snaps := y.snaps.filter (fun e => decide (e.1 ≤ v.ord)), twinHash := 0,
             twinLog := y.twinLog.filter (fun e => decide (e.1 = (numOfOrd s d v.ord).toNat)) }

/-- Put the words before a position back into a bobbin whose words after it are discarded (R183): the kept words stand
in the order and at the positions they had, and wp is the position. -/
def cutBack (s : State) (n : Nat) (mwp : Word) : State :=
  let b := getBob s n
  let before (p : Word) : Bool := decide (0 < (mwp - p).toNat) && decide ((mwp - p).toNat < 2 ^ 31)
  let all := b.head ++ spoolWords b.spoolPos.length s b b.rpos b.spoolPos ++ b.tail
  let kept := all.filter (fun p => before p.pos && !b.dead.any (fun r => inRange r.1 r.2 p.pos))
  let items := b.items.filter (fun i => before i.start)
  let c := { emptyBob b with state := .active, items := items, deliver := b.deliver, lost := [] }
  let s := kept.foldl (fun s p =>
    let s := modBob s n (fun b => { b with wp := p.pos })
    storeWord s n p.w) (setBob s n c)
  let held := BitVec.ofNat 32 (kept.length + (items.filter (fun i => i.side.isSome)).length)
  modBob s n (fun b => { b with wp := mwp, wp2 := mwp, rp := mwp - held, rp2 := mwp - held })

/-- The restored consumer's or producer's values, if a yarn is among those restored. -/
def valsOf (vs : List (Nat × CkptVals)) (cs : List Nat) : Option (Nat × CkptVals) :=
  vs.find? (fun e => cs.contains e.1)

/-- The code of the copy of a bobbin's producing yarn that writes it (R191). -/
def producerCodes (s : State) (b : Bob) : List Nat :=
  if b.prod = .yarn then codeFrom s b.die b.prodId.toNat else []

/-- The code of the copy of a bobbin's consuming yarn that reads it. -/
def consumerCodes (s : State) (b : Bob) : List Nat :=
  if b.cons = .yarn then codeFrom s b.die b.consId.toNat else []

/-- The producer's mark position for a bobbin in a checkpoint. -/
def mwpOf (y : Yarn) (v : CkptVals) (n : Nat) : Word :=
  match (List.range 4).find? (fun j => match y.outs.getD j none with
      | some o => decide (o.bob = n)
      | none => false) with
  | some j => v.mwps.getD j 0
  | none => 0

/-- The consumer's read position for a bobbin in a checkpoint. -/
def rpOf (y : Yarn) (v : CkptVals) (n : Nat) : Word :=
  match (List.range 4).find? (fun i => decide (y.ins.getD i none = some (n % 65536))) with
  | some i => v.rps.getD i 0
  | none => 0

/-- The difference of two positions, 0 if the first does not lie beyond the second. -/
def beyond (a b : Word) : Nat := if (a - b).toNat < 2 ^ 31 then (a - b).toNat else 0

/-- An emptied bobbin that begins again at a position, with words to be discarded as they are regenerated. -/
def restartBob (b : Bob) (p : Word) (skip : Nat) : Bob :=
  { emptyBob b with state := .active, wp := p, wp2 := p, rp := p, rp2 := p, skip := skip, skipEnd := true, dropping := false,
                    lost := [] }

/-- Suppression starts for a bobbin restored to the mark of an ordinal (R187). -/
def startSuppress (b : Bob) (ord : Nat) : Bob :=
  match workOf b.works ord with
  | some w => { b with suppress := (b.egress.sent - w.markSent).toNat, supGoal := w.hash, supHash := 0 }
  | none => { b with suppress := 0 }

/-- The items of a faulted egress bobbin that stood before the mark are lost: egress counts them as sent and in drops,
and the mark is where egress stands (R183). Answers the bobbin and whether any was lost. -/
def loseItems (b : Bob) (mwp : Word) (ord : Nat) : Bob × Bool :=
  let gone := b.lost.filter (fun i => decide (i.kind ≠ 3) && decide (0 < (mwp - i.start).toNat) &&
    decide ((mwp - i.start).toNat < 2 ^ 31))
  let c := gone.foldl (fun b _ => countDrop b) b
  let c := { c with egress := { c.egress with sent := c.egress.sent + BitVec.ofNat 32 gone.length } }
  match workOf c.works ord with
  | some _ => (c, decide (gone ≠ []))
  | none =>
    ({ c with works := c.works ++ [{ ord := ord, markSent := c.egress.sent, markBeat := 0, hash := 0 }] },
     decide (gone ≠ []))

/-- Where block k of an entry is read, its header being block 0: in the ring that holds the entry, or in the copy of it in the other
die's ring where its own block cannot be read and that one can (R190). -/
def entryAt (s : State) (d : Die) (e : JEntry) (k : Nat) : Die × Nat :=
  let place (d : Die) (e : JEntry) : Nat := jrnAddr s d ((e.block :: e.blocks).getD k 0)
  let o := otherDie d
  let own := (d, place d e)
  if apart s || !poisoned s d own.2 64 then own
  else
    match (getBeat s o).jents.find? (fun x => decide (x.bob = e.bob) && decide (x.wp = e.wp) && decide (x.n = e.n) &&
        decide (x.mirrored ≠ e.mirrored)) with
    | some x => if poisoned s o (place o x) 64 then own else (o, place o x)
    | none => own

/-- The words of a journal entry, read from its data blocks. -/
def entryWords (s : State) (d : Die) (e : JEntry) : List TWord :=
  ((List.range e.blocks.length).flatMap (fun i =>
    let p := entryAt s d e (i + 1)
    blockWords (readHbm s p.1 p.2 64))).take e.n

/-- The entries of a bobbin in the ring of its die, dropped ones too: a twin's copy has the mirror entries there (R191). -/
def bobEntriesIn (s : State) (b : Bob) (n : Nat) : List JEntry :=
  (getBeat s b.die).jents.filter (fun e => decide (e.bob = n % 65536) && (decide (n < 65536) || e.mirrored))

/-- The entries of a bobbin that are not dropped, at or above a position, in ring order; of an item that was journalled
again only the last (R164, R168, R184). -/
def entriesFrom (s : State) (b : Bob) (n : Nat) (rp : Word) : List JEntry :=
  let es := (bobEntriesIn s b n).filter (fun e => !e.dropped && decide ((e.wp - rp).toNat < 2 ^ 31))
  (List.range es.length).filterMap (fun i =>
    match es[i]? with
    | some e => if (es.drop (i + 1)).any (fun x => decide (x.wp = e.wp)) then none else some e
    | none => none)

/-- Move the write position of an emptied bobbin up to a position: the words between count as accepted and discarded;
the last of them is the mark of the beat if one is due (R183, R184). -/
def fillTo (s : State) (n : Nat) (p : Word) (ord last : Nat) : State :=
  let b := getBob s n
  let gap := beyond p b.wp
  let skipTo (b : Bob) (k : Nat) : Bob :=
    let w := BitVec.ofNat 32 k
    { b with wp := b.wp + w, wp2 := b.wp2 + w, rp := b.rp + w, rp2 := b.rp2 + w }
  if gap = 0 then s
  else if last < ord then writeMark (setBob s n (skipTo b (gap - 1))) n (numOfOrd s b.die ord) ord
  else setBob s n (skipTo b gap)

/-- How far the entries of a bobbin from a position on reach, dropped ones included. -/
def entriesEnd (s : State) (b : Bob) (n : Nat) (rp : Word) : Word :=
  (bobEntriesIn s b n).foldl (fun p e =>
    let q := e.wp + BitVec.ofNat 32 e.n
    if 0 < beyond q p then q else p) rp

/-- Refill a faulted entry-fed bobbin from the journal, the words of dropped entries counted as accepted and discarded (R183),
and write the mark of the current beat if it is not in it yet. -/
def refillEntries (s : State) (n : Nat) (rp : Word) (ord : Nat) : State :=
  let b := getBob s n
  let es := entriesFrom s b n rp
  let s := setBob s n (restartBob b rp 0)
  let r := es.foldl (fun (r : State × Nat) e =>
    let s := fillTo r.1 n e.wp e.ord r.2
    let s := appendItem s n (entryWords s b.die e) true
    let o := e.ord
    (modBob s n (fun b => { b with items := b.items.dropLast ++ (b.items.getLast?.map (fun i => { i with ord := o })).toList }),
     max r.2 e.ord)) (s, ord)
  let cur := (getBeat s b.die).ord
  let t := fillTo r.1 n (entriesEnd s b n rp) 0 0
  if r.2 < cur then writeMark t n (numOfOrd s b.die cur) cur else t

/-- The last committed checkpoint of the first yarn of a list that has one. -/
def lastVals (s : State) (cs : List Nat) : Option (Nat × CkptVals) :=
  cs.findSome? (fun c => (ckptFrom (codeYarn s c) (ckptOrd s (codeDie c))).map (fun o => (c, readCkpt s (codeDie c) (codeYarn s c) o)))

/-- A faulted entry-fed bobbin that no yarn consumes begins again at the first entry since the last committed boundary, with the
entries from there on; egress suppresses what it has sent of them, and what stood before is lost (R149, R183, R187; DEDUCED, log
entry 205). Answers also whether unsent items are lost. -/
def refillAlone (s : State) (n : Nat) : State × Bool :=
  let b := getBob s n
  let ord := ckptOrd s b.die
  let mwp := (((bobEntriesIn s b n).find? (fun e => !e.dropped && decide (ord ≤ e.ord))).map (fun e => e.wp)).getD b.wp
  let r := loseItems b mwp ord
  (modBob (refillEntries (setBob s n r.1) n mwp ord) n (fun b => startSuppress b ord), r.2)

/-- A faulted bobbin that a yarn feeds, none of whose yarns is restored, begins again at its producer's last committed mark; what
an egress bobbin held before that mark is lost (R149, R183). Answers also whether unsent items are lost. -/
def restartIdle (s : State) (n : Nat) : State × Bool :=
  let b := getBob s n
  match lastVals s (producerCodes s b) with
  | none => (setBob s n (restartBob b b.wp 0), false)
  | some p =>
    let mwp := mwpOf (codeYarn s p.1) p.2 (n % 65536)
    if b.cons = .yarn then (setBob s n (restartBob b mwp 0), false)
    else
      let r := loseItems b mwp p.2.ord
      (setBob s n (restartBob r.1 mwp 0), r.2)

/-- A faulted entry-fed bobbin gets the entries from its consumer's last committed position on (R183), also where the consumer is
not restored. -/
def refillBob (s : State) (cons : Option (Nat × CkptVals)) (n : Nat) : State × Bool :=
  match cons.or (lastVals s (consumerCodes s (getBob s n))) with
  | some c =>
    (refillEntries s n (rpOf (codeYarn s c.1) c.2 n) (ordFrom s (codeDie c.1) (getBob s n).die c.2.ord), false)
  | none => refillAlone s n

/-- Restore one bobbin of a replayed group (R183). Answers the state, whether unsent egress items are lost, and whether
its consumer has a journal gap. -/
def restoreBob (s : State) (vs : List (Nat × CkptVals)) (n : Nat) : State × Bool × Bool :=
  let b := getBob s n
  let faulted := decide (b.state = .resetting)
  let prod := valsOf vs (producerCodes s b)
  let cons := valsOf vs (consumerCodes s b)
  if b.state = .free then (s, false, false)
  else if b.prod = .yarn then
    match prod, cons with
    | some p, some c =>
      let mwp := mwpOf (codeYarn s p.1) p.2 (n % 65536)
      (setBob s n (restartBob b mwp (beyond (rpOf (codeYarn s c.1) c.2 n) mwp)), false, false)
    | some p, none =>
      let mwp := mwpOf (codeYarn s p.1) p.2 (n % 65536)
      if b.cons = .yarn then
        if 0 < beyond b.rp mwp then
          (setBob s n { restartBob b mwp (beyond b.rp mwp) with rp := b.rp, rp2 := b.rp, skipEnd := decide (b.deliver = 0) },
           false, false)
        else (cutBack s n mwp, false, false)
      else if faulted then
        let r := loseItems b mwp p.2.ord
        (setBob s n (startSuppress (restartBob r.1 mwp 0) p.2.ord), r.2, false)
      else if 0 < beyond b.rp mwp then
        (setBob s n (startSuppress (restartBob b mwp 0) p.2.ord), false, false)
      else (modBob (cutBack s n mwp) n (fun b => startSuppress b p.2.ord), false, false)
    | none, some _ => if faulted then ((restartIdle s n).1, (restartIdle s n).2, true) else (s, false, true)
    | none, none => if faulted then ((restartIdle s n).1, (restartIdle s n).2, false) else (s, false, false)
  else if faulted then ((refillBob s cons n).1, (refillBob s cons n).2, false)
  else (s, false, false)

/-- The entries re-injected to a yarn for input i (R184): those at or above the checkpoint's rp and below the bobbin's
rp at the fault, then the marks taken after them. -/
def reinjectFor (s : State) (d : Die) (y : Yarn) (v : CkptVals) (i : Nat) : List ReInject :=
  match y.ins.getD i none, y.rpFault.getD i none with
  | some b0, some rp =>
    let n := inputBob s d y b0
    let b := getBob s n
    let es := (entriesFrom s b n (v.rps.getD i 0)).filter (fun e => decide (0 < (rp - e.wp).toNat) && decide ((rp - e.wp).toNat < 2 ^ 31))
    es.map (fun e => { wp := e.wp, words := entryWords s b.die e, ord := ordFrom s b.die d e.ord }) ++
      ((y.reinject.getD i []).getLast?).toList
  | _, _ => []

/-- A restored yarn of class REPLAY gets its entries; one that has nothing to catch up returns at once. -/
def beginReplay (s : State) (e : Nat × CkptVals) : State :=
  let d := codeDie e.1
  let n := e.1 / 2
  let y := getYarn s d n
  let y := { y with reinject := (List.range 4).map (reinjectFor s d y e.2), marks := [e.2.ord, e.2.ord, e.2.ord, e.2.ord] }
  let y := if y.target = some y.itemsIn then { y with state := y.before, target := none, rpFault := [] } else y
  settleYarn (setYarn s d n y) d n

/-- A yarn of class RESTART is restored and goes on (R181): the items since the cut are lost, and it takes its next
item from where its bobbins stand. -/
def restartYarn (s : State) (c : Nat) (v : CkptVals) : State :=
  let d := codeDie c
  let n := c / 2
  let at_ := ((codeYarn s c).target.getD 0)
  let next := (codeYarn s c).inNext
  let s := restoreYarn s c v
  let lost := min 255 (getF s fRPL_STAT_lost d 0 + (at_ - v.itemsIn).toNat)
  let s := setF s fRPL_STAT_lost d 0 lost
  let s := modYarn s d n (fun y =>
    { y with state := y.before, inNext := next, target := none, rpFault := [], reinject := [] })
  if cutsAtMarks (getYarn s d n) then takeCuts s d n (marksAll (getYarn s d n)) else s

/-- A replay that cannot run: its yarns stop with an uncorrectable event (R185), recorded with a result and a class (R196). -/
def failReplay (s : State) (d : Die) (r : Replay) (result cls : Nat) : State :=
  let s := rplLast s d result cls (faultId r.fault ((r.yarns.headD 0) / 2))
  let s := r.yarns.foldl (fun s c => stopYarn s (codeDie c) (c / 2) result) s
  modBeat s d (fun b => { b with replays := b.replays.filter (fun x => decide (x ≠ r)) })

/-- The checkpoints that the yarns of a replay are restored from, `back` generations before the last committed one; a yarn that
has stopped since is not restored. -/
def replayVals (s : State) (r : Replay) (back : Nat) : List (Nat × CkptVals) :=
  (r.yarns.filter (fun c => decide ((codeYarn s c).state = .replay))).filterMap (fun c =>
    (ckptFrom (codeYarn s c) (ckptOrd s (codeDie c) - back)).map (fun o => (c, readCkpt s (codeDie c) (codeYarn s c) o)))

/-- Has an entry that a yarn needs been released (R169), or does it lie out of reach on the other die while the dies are apart
(R185)? -/
def entryGone (s : State) (e : Nat × CkptVals) : Bool :=
  let d := codeDie e.1
  let y := codeYarn s e.1
  (List.range 4).any (fun i =>
    match y.ins.getD i none with
    | none => false
    | some b0 =>
      let b := getBob s (inputBob s d y b0)
      let rp := e.2.rps.getD i 0
      let read := match y.rpFault.getD i none with
        | some p => decide (0 < beyond p rp)
        | none => true
      entryFed b && read && (decide (0 < beyond b.jrnGone rp) || (apart s && decide (b.die ≠ d))))

/-- Restore everything of a replay whose checkpoints and entries can be read (R182 steps 3 to 6). After a restore from the fallback
RPL_LAST keeps the class of the fault that the replay answers, with result 1 (DESIGN CHOICE, log entry 250). -/
def restoreAll (s : State) (d : Die) (r : Replay) (back : Nat) : State :=
  let vs := replayVals s r back
  let full := vs.filter (fun e => decide ((codeYarn s e.1).replay = 0))
  let part := vs.filter (fun e => decide ((codeYarn s e.1).replay ≠ 0))
  let s := part.foldl (fun s e => restartYarn s e.1 e.2) s
  let s := full.foldl (fun s e => restoreYarn s e.1 e.2) s
  let bobs := ((full.flatMap (fun e =>
    let y := codeYarn s e.1
    (y.ins.filterMap id).map (inputBob s (codeDie e.1) y) ++
      ((y.outs.filterMap id).filter (fun o => writesBob s (codeDie e.1) y o.bob)).map (fun o => o.bob))) ++ r.fault.bob.toList).dedup
  let t := bobs.foldl (fun (t : State × Bool × List Nat) n =>
    let x := restoreBob t.1 full n
    (x.1, t.2.1 || x.2.1, if x.2.2 then t.2.2 ++ consumerCodes t.1 (getBob t.1 n) else t.2.2)) (s, false, [])
  let s := full.foldl beginReplay t.1
  let s := t.2.2.dedup.foldl (fun s c => stopYarn (rplLast s (codeDie c) 3 9 (c / 2)) (codeDie c) (c / 2) 3) s
  let result : BitVec 3 := if t.2.1 then 5 else if back = 0 then r.result else 1
  let f (x : Replay) : Replay := if x = r then { x with restored := true, result := result } else x
  endReplays (modBeat s d (fun b => { b with replays := b.replays.map f })) d

/-- Restore a replay from a generation, unless an entry that it needs is gone: then its yarns stop, a journal gap (R185). -/
def restoreFrom (s : State) (d : Die) (r : Replay) (back : Nat) : State :=
  if ((replayVals s r back).filter (fun e => decide ((codeYarn s e.1).replay = 0))).any (entryGone s) then failReplay s d r 3 9
  else restoreAll s d r back

/-- Is an egress bobbin of the replayed yarns still sending an item (R182)? -/
def egressBusy (s : State) (r : Replay) : Bool :=
  r.yarns.any (fun c => (codeYarn s c).outs.any (fun o => match o with
    | some x => let b := getBob s x.bob
                decide (b.cons ≠ .yarn) && decide (b.state = .active) && decide (b.deliver ≠ 0)
    | none => false))

/-- Is a harness that a replay needs halted (R463, R465)? -/
def haltedHars (s : State) (r : Replay) : Bool :=
  r.yarns.any (fun c => (codeYarn s c).stages.any (fun g => (getHar s (codeDie c) g.harness).halted))

/-- Where the record of a yarn's checkpoint stands, `back` generations before the last committed one: its die and offset. -/
def ckptPlace (s : State) (back : Nat) (c : Nat) : Option (Die × Nat) :=
  (ckptFrom (codeYarn s c) (ckptOrd s (codeDie c) - back)).map (fun o =>
    (codeDie c, ckptOff (codeYarn s c) (numOfOrd s (codeDie c) o).toNat))

/-- Does a checkpoint of a yarn, `back` generations before the last committed one, fail to read as HBM holds it (R185)? -/
def ckptUnread (s : State) (back c : Nat) : Bool :=
  match ckptFrom (codeYarn s c) (ckptOrd s (codeDie c) - back) with
  | none => false
  | some o => ckptBad s (codeDie c) (codeYarn s c) o

/-- Is a checkpoint of a yarn served from the other stack when a read of its own fails (R190)? -/
def mirrorServes (s : State) (c : Nat) : Bool := decide ((codeYarn s c).prot ≠ 0) && !apart s

/-- A read of a checkpoint found an uncorrectable error (R263). -/
def ckptUe (s : State) (back : Nat) (cs : List Nat) : State :=
  match cs.findSome? (ckptPlace s back) with
  | some (d, off) => demandUe s d off
  | none => s

/-- The entries that a replay re-injects to a yarn, each with the die whose ring holds it. -/
def entriesOf (s : State) (e : Nat × CkptVals) : List (Die × JEntry) :=
  let d := codeDie e.1
  let y := codeYarn s e.1
  (List.range 4).flatMap (fun i =>
    match y.ins.getD i none with
    | none => []
    | some b0 =>
      let n := inputBob s d y b0
      let b := getBob s n
      if entryFed b then (entriesFrom s b n (e.2.rps.getD i 0)).map (fun x => (b.die, x)) else [])

/-- Is a block of an entry that a replay re-injects poisoned in every copy (R190, R263)? -/
def entryUnread (s : State) (e : Nat × CkptVals) : Bool :=
  (entriesOf s e).any (fun x => (List.range (1 + x.2.blocks.length)).any (fun k =>
    let p := entryAt s x.1 x.2 k
    poisoned s p.1 p.2 64))

/-- What the restore of a replay finds: the reads that the step reports, which for a mirrored yarn are served from the other stack,
and the state of HBM, where a mirrored yarn's is bad only if both copies are (R185, R190). -/
def restoreFinds (s : State) (r : Replay) (rd : RestoreRead) : RestoreRead :=
  let bad (back : Nat) : Bool := r.yarns.any (ckptUnread s back)
  let rd := if r.yarns.all (mirrorServes s) && decide (rd ≠ .corrected) then .good else rd
  if rd = .bothBad ∨ ((rd = .lastBad ∨ bad 0 = true) ∧ bad 1 = true) then .bothBad
  else if rd = .entryBad ∨ (replayVals s r 0).any (entryUnread s) = true then .entryBad
  else if rd = .lastBad ∨ bad 0 = true then .lastBad
  else rd

/-- The uncorrectable errors that the reads of a replay meet in HBM as it stands are recorded, also where another copy serves
the read (R263). -/
def restoreErrors (s : State) (r : Replay) : State :=
  let vs := replayVals s r 0
  let s := vs.foldl (fun s e => ckptErrors s (codeDie e.1) (codeYarn s e.1) e.2.ord) s
  (vs.flatMap (entriesOf s)).foldl (fun s x => (x.2.block :: x.2.blocks).foldl (fun s j =>
    (stackCheck s x.1 (jrnAddr s x.1 j) 64 .clean 0).1) s) s

/-- The errors of a restore are recorded where they were found (R262, R263). -/
def restoreUe (s : State) (r : Replay) (rd : RestoreRead) : State :=
  match rd with
  | .good => s
  | .corrected =>
    match r.yarns.findSome? (ckptPlace s 0) with
    | some (d, off) => correctedAt s d off
    | none => s
  | .lastBad => ckptUe s 0 r.yarns
  | .bothBad => ckptUe (ckptUe s 0 r.yarns) 1 r.yarns
  | .entryBad =>
    match (replayVals s r 0).findSome? (fun e => ((codeYarn s e.1).ins.filterMap id).findSome? (fun n =>
        (entriesFrom s (getBob s n) n 0).head?.map (fun x => ((getBob s n).die, jrnAddr s (getBob s n).die x.block)))) with
    | some (d, off) => demandUe s d off
    | none => s

/-- REPLAY_RESTORE_DONE (R183 to R185): the oldest replay of a die that is still to be restored. It waits for an egress
item in delivery (R182) and for harnesses that are halted (R465). -/
def restoreDone (s : State) (d : Die) (rd : RestoreRead) : State :=
  match (getBeat s d).replays.find? (fun r => !r.restored) with
  | none => s
  | some r =>
    if egressBusy s r || haltedHars s r then s
    else
      let found := restoreFinds s r rd
      let s := restoreErrors (restoreUe s r rd) r
      match found with
      | .good | .corrected => restoreFrom s d r 0
      | .lastBad => restoreFrom s d r 1
      | .bothBad => failReplay s d r 6 r.fault.cls.toNat
      | .entryBad => failReplay s d r 3 9

/-- REPLAY_RESTORE_DONE (R183). -/
def execReplayRestoreDone (d : Die) (rd : RestoreRead) (s : State) : Host.Outcome State Fault Refusal :=
  .next (restoreDone s d rd)

/-! ## Twins brought together again (R193) -/

/-- An input bobbin of the copy that is not primary becomes what the primary's holds from the position of its cut on: the entries
in the journal of the primary's. -/
def refillTwin (s : State) (src dst : Nat) (rp : Word) : State :=
  if src = dst then s
  else
    let p := getBob s src
    let es := entriesFrom s p src rp
    let s := setBob s dst (restartBob (getBob s dst) rp 0)
    let s := es.foldl (fun s e => appendItem (fillTo s dst e.wp 0 0) dst (entryWords s p.die e) true) s
    fillTo s dst p.wp 0 0

/-- The copy of a twin yarn on the other die is restored from the last committed checkpoint of the copy on die `home`, and gets the
items since that cut again; its own outputs go back to its own last committed marks, as in a replay. -/
def resyncFrom (s : State) (home : Die) (n : Nat) : State :=
  let o := otherDie home
  let y := getYarn s home n
  let z := getYarn s o n
  let own := ckptFrom z (ckptOrd s o)
  match ckptFrom y (ckptOrd s home) with
  | none => s
  | some c =>
    if y.prot ≠ 2 ∨ y.state = .free ∨ !replayable z then s
    else
      let p := readCkpt s home y c
      let frames := (List.range y.stages.length).map (ckptFrame s home y c)
      let mine := (own.map (readCkpt s o z)).getD p
      let v : CkptVals := { p with ord := own.getD z.cut, mwps := mine.mwps }
      let s := dropYarns s [yarnCode o n]
      let outs := ((z.outs.filterMap id).filter (fun x => writesBob s o z x.bob)).map (fun x => x.bob)
      let s := outs.foldl (fun s b => (restoreBob s [(yarnCode o n, v)] b).1) s
      let s := ((List.range 4).foldl (fun s i => match y.ins.getD i none with
        | some b => refillTwin s (inputBob s home y b) (inputBob s o z b) (p.rps.getD i 0)
        | none => s) s)
      let s := (z.stages.zip frames).foldl (fun s e =>
        let s := if e.2 = [] then s else writeFrame s o e.1 e.2
        if z.pinned then loadPinned s o e.1 else s) s
      setYarn s o n { z with itemsIn := v.itemsIn, itemsDone := v.done, ovfCount := v.ovf, inNext := v.inNext, cut := v.ord,
                             cuts := [], lastAt := none, written := z.written.filter (fun k => decide (k ≤ v.ord)),
                             copies := z.copies.filter (fun e => decide (e.1 ≤ v.ord)),
                             snaps := z.snaps.filter (fun e => decide (e.1 ≤ v.ord)), twinHash := 0, twinLog := [],
                             target := none, rpFault := [], reinject := [], marks := [v.ord, v.ord, v.ord, v.ord] }

/-! ## The loss of a die (R192) -/

/-- The yarns of a lost die as the surviving die's map shows them: twins go on alone, the others stop. -/
def loseYarn (s : State) (d : Die) (e : Nat × Yarn) : State :=
  let lost := otherDie d
  if e.2.prot = 2 ∧ (getYarn s d e.1).state ≠ .free then s
  else setYarn s lost e.1 { e.2 with state := .stopped }

/-- DIE_LOST_DECLARE (R192): die d declares the other die lost while the link is down, and not because the device sleeps. RPL_LAST
records it with the first yarn of the lost die and result 0 (R196; DESIGN CHOICE, log entry 204). -/
def dieLostDeclare (s : State) (d : Die) : State :=
  if (domOn s (otherDie d) 59 = true ∧ dieHeld s (otherDie d) = false) ∨ getF s fBRD_STAT_lstate d 0 ≠ 0 ∨
      flagF s fBEAT_STAT_peer_lost d 0 ∨ s.rst.dozing ∨ getF s fVGL_PWR_state 0 0 ≠ 0 then s
  else
    let s := setF s fBEAT_STAT_peer_lost d 0 1
    let s := rplLast s d 0 7 (((yarnsOn s (otherDie d)).head?.map (fun e => e.1)).getD 0)
    let s := (yarnsOn s (otherDie d)).foldl (fun s e => loseYarn s d e) s
    s.flow.bobs.foldl (fun s e => if e.2.die = otherDie d ∧ e.1 < 65536 ∧ e.2.state ≠ .free then
      modBob s e.1 (fun b => { b with prodCut := true, consCut := true }) else s) s

/-- DIE_LOST_DECLARE (R192). -/
def execDieLostDeclare (d : Die) (s : State) : Host.Outcome State Fault Refusal := .next (dieLostDeclare s d)

end Sys2Proof.Machine
end

