-- ==== Sys2Proof/Machine/HdmWindow.lean ====
section
/-! DEFINITION. The host-managed window (R320): the map from offsets of the HDM range to the stacks, and the header of
the beat window that lies in it (R338, R339). -/

namespace Sys2Proof.Machine

/-! ## The map of R320 -/

/-- The stack and the offset in it of an offset of the HDM range. -/
def hdmStack (o : Nat) : Die := if o < 0x580000000 then 0 else 1
def hdmOff (o : Nat) : Nat := if o < 0x580000000 then o else o - 0x580000000

/-- Does WINDOW_SET hold the granule of an HDM offset? -/
def windowGranule (s : State) (g : Nat) : Bool :=
  let d : Die := hdmStack (g * 4096)
  let l := hdmOff (g * 4096) / 4096
  s.mem.allocs.any (fun a => decide (a.stack = d) && decide (a.kind = .window) && decide (a.base ≤ l) && decide (l < a.base + a.len))

/-- Does a range of granules of HDM offset lie in the host-managed window of one stack? -/
def windowRange (s : State) (g n : Nat) : Bool :=
  let d : Die := hdmStack (g * 4096)
  let l := hdmOff (g * 4096) / 4096
  s.mem.allocs.any (fun a => decide (a.stack = d) && decide (a.kind = .window) && decide (a.base ≤ l) &&
    decide (l + n ≤ a.base + a.len))

/-- The device writes into the window (R321), or reads it. -/
def writeHdm (s : State) (o : Nat) (bs : List Byte) : State := writeHbm s (hdmStack o) (hdmOff o) bs
def readHdm (s : State) (o n : Nat) : List Byte := readHbm s (hdmStack o) (hdmOff o) n

/-! ## The header of the beat window (R338, R339) -/

/-- Is the beat window in use? -/
def winOn (s : State) : Bool := decide (s.host.win.area ≠ 0)

/-- The bytes of an area. -/
def winArea (s : State) : Nat := s.host.win.area * 4096

/-- The last committed beat whose area is complete is shown, if it is later than the one shown (R339). -/
def winShow (s : State) : State :=
  let w := s.host.win
  let c := (getBeat s 0).cmt
  if winOn s && decide (0 < c) && w.done.contains (c + 1) && decide (w.shown.getD 0 < c) then
    let s := writeHdm s (w.base * 4096 + 8) (leBytes 8 (numOfOrd s 0 c).toNat)
    { s with host.win.shown := some c }
  else s

end Sys2Proof.Machine
end

