-- ==== Sys2Proof/Machine/Commit.lean ====
section
/-! DEFINITION. Commits (R174 to R179), the release of journal entries (R169), what a commit rewrites for mirrored yarns
(R190), the resize of the journal ring (R166), and the moves of a live update (R194). -/

namespace Sys2Proof.Machine

/-! ## Journal release and resize (R166, R169) -/

/-- Move the reader of a ring past some blocks; answers also whether it wrapped. -/
def popBlocks : Nat → RingPos × Bool → RingPos × Bool
  | 0, r => r
  | k + 1, (p, w) => let q := ringPop p; popBlocks k (q.1, w || q.2)

/-- A bobbin notes where the latest entry of it that has been released ends, unless the item was dropped or its entry was written
again (R164, R168, R185). -/
def noteReleased (s : State) (d : Die) (e : JEntry) : State :=
  let n := if e.mirrored then e.bob + 65536 else e.bob
  let b := getBob s n
  let stands := (getBeat s d).jents.any (fun x => decide (x.bob = e.bob) && decide (x.wp = e.wp) && decide (x ≠ e))
  if e.dropped || stands || decide (b.state = .free) || decide (b.die ≠ d) then s
  else setBob s n { b with jrnGone := e.wp + BitVec.ofNat 32 e.n }

/-- Release the oldest entry of a journal ring; a pending shrink may take effect (R153). -/
def releaseEntry (s : State) (d : Die) (e : JEntry) : State :=
  let s := noteReleased s d e
  let p := jrnRing s d
  let r := popBlocks (1 + e.blocks.length) (p, false)
  let s := setJrnRing s d r.1
  let s := modBeat s d (fun b => { b with jents := b.jents.drop 1, jgrown := if r.2 then 0 else b.jgrown })
  if r.1.size < p.size then trimAlloc s d .journal (r.1.size / 64) else s

/-- Release every entry of a beat up to an ordinal (R169). -/
def releaseUpTo (s : State) (d : Die) (ord : Nat) : State :=
  ((getBeat s d).jents.takeWhile (fun e => decide (e.ord ≤ ord))).foldl (fun s e => releaseEntry s d e) s

/-- Set the ring of a die that holds no entry. -/
def freshRing (s : State) (d : Die) (base size : Nat) : State :=
  let s := setF (setF s fJRN_BASE_granules d 0 base) fJRN_SIZE_granules d 0 size
  let s := modBeat s d (fun b => { b with jw := 0, jr := 0, jlen := 0, jmark := size * 64, jshrink := none, jgrown := 0 })
  let others := s.mem.allocs.filter (fun a => !(decide (a.stack = d) && decide (a.kind = .journal)))
  { s with mem.allocs := if size = 0 then others else others ++ [{ stack := d, base := base, len := size, kind := .journal }] }

/-- May the empty ring of a die take a place: its granules are free but for those it holds (R261)? -/
def ringMayLie (s : State) (d : Die) (base size : Nat) : Bool :=
  let others := s.mem.allocs.filter (fun a => !(decide (a.stack = d) && decide (a.kind = .journal)))
  decide (size = 0) || (allocFree { s with mem.allocs := others } d base size && decide (base + size ≤ allocLimit))

/-- A write of JRN_BASE (R166): refused while the ring holds entries, and where the granules are not free (R261). -/
def jrnBaseWrite (s : State) (d : Die) (v : Word) : State :=
  let base := bitsOf v.toNat 22 0
  let size := getF s fJRN_SIZE_granules d 0
  if 0 < (getBeat s d).jlen || !ringMayLie s d base size then setF s fJRN_STAT_rsz_refused d 0 1
  else freshRing s d base size

/-- A write of JRN_SIZE (R166): a resize request by R152 and R153 while the ring holds entries. -/
def jrnSizeWrite (s : State) (d : Die) (v : Word) : State :=
  let q := bitsOf v.toNat 19 0
  let b := getBeat s d
  let cur := getF s fJRN_SIZE_granules d 0
  let base := getF s fJRN_BASE_granules d 0
  let refuse : State := setF s fJRN_STAT_rsz_refused d 0 1
  if b.jlen = 0 then (if ringMayLie s d base q then freshRing s d base q else refuse)
  else if b.jshrink.isSome then refuse
  else if q = cur then s
  else if cur < q then
    if allocFree s d (base + cur) (q - cur) && decide (base + q ≤ allocLimit) then
      let grown := if ringWrapped (jrnRing s d) then b.jgrown + 64 * (q - cur) else b.jgrown
      modBeat (trimAlloc (setF s fJRN_SIZE_granules d 0 q) d .journal q) d (fun b => { b with jgrown := grown })
    else refuse
  else if q * 64 < b.jlen then refuse
  else modBeat s d (fun b => { b with jshrink := some q })

/-- JRN_BASE_WRITE (R166). -/
def execJrnBaseWrite (_rq : Requester) (d : Die) (v : Word) (s : State) : Host.Outcome State Fault Refusal :=
  .next (jrnBaseWrite s d v)

/-- JRN_SIZE_WRITE (R166). -/
def execJrnSizeWrite (_rq : Requester) (d : Die) (v : Word) (s : State) : Host.Outcome State Fault Refusal :=
  .next (jrnSizeWrite s d v)

/-! ## Readiness (R175, R178) -/

/-- Is the yarn one that the commit waits for? -/
def commitWaits (y : Yarn) : Bool := y.state = .run || y.state = .replay || y.state = .migrate

/-- Has a twin's cut for a beat number been compared and matched (R175 condition 4)? A copy that a live update holds is compared
again once it is resynchronised (R193, R194). -/
def twinMatched (s : State) (d : Die) (n num : Nat) : Bool :=
  let y := getYarn s d n
  let z := getYarn s (otherDie d) n
  decide (y.prot ≠ 2) || apart s || decide (z.state = .free) || z.updHold ||
    y.twinLog.any (fun e => decide (e.1 = num) && z.twinLog.contains e)

/-- Is a die ready for the beat of an ordinal (R175)? -/
def dieReady (s : State) (d : Die) (c : Nat) : Bool :=
  decide (c < (getBeat s d).ord) && (yarnsOn s d).all (fun e =>
    !commitWaits e.2 || (decide (c + 1 ≤ e.2.cut) && e.2.written.any (fun o => decide (c + 1 ≤ o)) &&
      e.2.cuts.all (fun x => decide (c + 1 < x.ord)) && twinMatched s d e.1 (numOfOrd s d (c + 1)).toNat))

/-- Does a die commit the beat of an ordinal alone: the dies are apart, the other's beat engine does not run, or the
beat comes before the first joint one (R178, R179, R427)? -/
def commitsAlone (s : State) (d : Die) (c : Nat) : Bool :=
  apart s || !(getBeat s (otherDie d)).started || (getBeat s 1).rejoinMod.isSome || decide (c < (getBeat s d).joint)

/-! ## The effect of a commit (R165 step 7, R169, R176, R186, R190) -/

/-- The yarns that are not running have their checkpoints in HBM by the commit (R164, R172). -/
def flushCuts (s : State) (d : Die) (c : Nat) : State :=
  (yarnsOn s d).foldl (fun s e =>
    if commitWaits e.2 then s
    else (e.2.cuts.filter (fun x => decide (x.ord ≤ c + 1))).foldl (fun s x => writeCkpt s d e.1 x) s) s

/-- What a yarn keeps after a commit: its last committed checkpoint, its fallback and later ones (R174). -/
def commitYarn (num : BitVec 48) (c : Nat) (y : Yarn) : Yarn :=
  let base (i : Nat) : Option (Nat × Nat × Nat) :=
    (y.copies.filter (fun e => decide (e.1 ≤ c) && decide (e.2.1 = i))).getLast?
  { y with ckptBeat := BitVec.ofNat 32 num.toNat, replays := 0,
           written := y.written.filter (fun o => decide (c ≤ o)),
           copies := ((List.range 4).filterMap base) ++ y.copies.filter (fun e => decide (c < e.1)),
           snaps := y.snaps.filter (fun e => decide (c ≤ e.1)),
           twinLog := y.twinLog.drop (y.twinLog.length - 4) }

/-- The egress records after a commit (R186). -/
def commitEgress (s : State) (d : Die) (c : Nat) : State :=
  s.flow.bobs.foldl (fun s e =>
    if e.2.cons = .yarn ∨ e.2.state = .free ∨ markDie s e.2 ≠ d then s
    else
      let old := (e.2.works.filter (fun w => decide (w.ord < c))).getLast?
      let keep := e.2.works.filter (fun w => decide (c ≤ w.ord))
      setBob s e.1 (showRecord s { e.2 with works := if keep = [] then old.toList else keep })) s

/-- The ordinal on a die of the beat with a number, or of the beat that is next to be committed. -/
def ordOfNum (s : State) (d : Die) (num : Word) : Nat :=
  (((getBeat s d).nums.find? (fun e => decide (BitVec.ofNat 32 e.2.toNat = num))).map (fun e => e.1)).getD ((getBeat s d).cmt + 1)

/-- Write an entry's blocks as they stand into the other die's ring, with mirror = 1 (R167, R190); one that does not fit there has
no copy. -/
def copyEntry (s : State) (d : Die) (x : JEntry) : State :=
  let o := otherDie d
  let p := jrnRing s o
  let need := 1 + x.blocks.length
  if jrnFree p (getBeat s o).jgrown < need then s
  else
    let h := readHbm s d (jrnAddr s d x.block) 60
    let body := h.take 4 ++ leBytes 4 (putBits (fieldAt h 4 4) 17 17 1) ++ h.drop 8
    let e : JEntry := { x with ord := ordOfNum s o x.beat, block := p.w, blocks := (nextBlocks need p).drop 1, mirrored := true }
    let s := jrnBlocks s o ((body ++ leBytes 4 (crc32c body)) :: x.blocks.map (fun j => readHbm s d (jrnAddr s d j) 64))
    modBeat s o (fun b => { b with jents := b.jents ++ [e] })

/-- Write the copies that a mirrored yarn lacks after a split (R190): its checkpoint area and its entries. -/
def remirror (s : State) (d : Die) : State :=
  (yarnsOn s d).foldl (fun s e =>
    if e.2.prot = 0 then s
    else
      let off := e.2.ckpt.toNat % 2 ^ 40
      let s := writeHbm s (otherDie d) off (readHbm s d off (3 * 0x2040))
      (e.2.ins.filterMap id).foldl (fun s n =>
        let b := getBob s n
        if b.die ≠ d ∨ b.prod = .yarn then s
        else
          let es := (getBeat s d).jents.filter (fun x => decide (x.bob = n) && !x.mirrored)
          let has (x : JEntry) : Bool := (getBeat s (otherDie d)).jents.any (fun z =>
            decide (z.bob = n) && z.mirrored && decide (z.wp = x.wp))
          es.foldl (fun s x => if has x then s else copyEntry s d x) s) s) s

/-- The yarns a live update has held or moved: the update may reload the die once none is left (R194 steps 2 to 5). -/
def updateMoved (s : State) (d : Die) : Bool :=
  match (getBeat s d).update with
  | none => false
  | some u => decide (u.phase = .moving) && (yarnsOn s d).all (fun e =>
      !commitWaits e.2 && decide (e.2.cut ≤ (getBeat s d).cmt + 1))

/-- Apply a commit (R176). -/
def applyCommit (s : State) (d : Die) (c : Nat) : State :=
  let s := flushCuts s d c
  let s := modBeat s d (fun b => { b with cmt := c, commitMsg := b.commitMsg.erase (numOfOrd s d c).toNat,
                                          nums := b.nums.filter (fun e => decide (c ≤ e.1 + 4)) })
  let num := numOfOrd s d (c + 1)
  let s := (yarnsOn s d).foldl (fun s e => modYarn s d e.1 (commitYarn num c)) s
  let s := { s with flow.gone := s.flow.gone.filter (fun g => decide (g.die ≠ d) || decide (ckptOrd s d ≤ g.cut)) }
  let s := releaseUpTo s d (c - 2)
  let s := commitEgress s d c
  let s := if (getBeat s d).joint = c ∧ 1 < c then remirror s d else s
  let s := if d = 0 then winShow s else s
  settleWaits s

/-- READY (R176): die 1 is ready for its next beat and says so. -/
def readyStep (s : State) : State :=
  let b := getBeat s 1
  let c := b.cmt + 1
  let num := (numOfOrd s 1 c).toNat
  if b.started && domWorks s 1 56 && !commitsAlone s 1 c && dieReady s 1 c && !(getBeat s 0).readyMsg.contains num then
    modBeat s 0 (fun b => { b with readyMsg := b.readyMsg ++ [num] })
  else s

/-- READY (R176). -/
def execReady (s : State) : Host.Outcome State Fault Refusal := .next (readyStep s)

/-- COMMIT (R176): a die commits its next beat, alone or with the other die. -/
def commitStep (s : State) (d : Die) : State :=
  let b := getBeat s d
  let c := b.cmt + 1
  let num := (numOfOrd s d c).toNat
  if !b.started || !domWorks s d 56 then s
  else if commitsAlone s d c then (if dieReady s d c then applyCommit s d c else s)
  else if d = 0 then
    if dieReady s 0 c && b.readyMsg.contains num then
      let s := modBeat s 0 (fun b => { b with readyMsg := b.readyMsg.erase num })
      applyCommit (modBeat s 1 (fun b => { b with commitMsg := b.commitMsg ++ [num] })) 0 c
    else s
  else if b.commitMsg.contains num && decide (c < b.ord) then applyCommit s 1 c
  else s

/-- COMMIT (R176). -/
def execCommit (d : Die) (s : State) : Host.Outcome State Fault Refusal := .next (commitStep s d)

/-! ## Live die update (R194) -/

/-- May a yarn be placed on the other die: the harness, index and frame space of every stage are free there (log entry
24)? -/
def placement (s : State) (d : Die) (y : Yarn) : Bool :=
  let o := otherDie d
  y.stages.all (fun g => domOn s o g.harness && (frameFit s o g.harness (1 + g.images)).isSome &&
    (ownerOf s o g.harness g.idx).isNone)

/-- The bobbins that move with a yarn: those bound to no port or gate (R194) that the yarn itself consumes, or that it feeds and the
host consumes, since any other bobbin lives on the home die of its consumer (R21). -/
def movingBobs (s : State) (d : Die) (n : Nat) (y : Yarn) : List Nat :=
  (yarnBobs y).filter (fun k =>
    let b := getBob s k
    decide (b.die = d) && decide (b.prod = .yarn ∨ b.prod = .host) &&
      (decide (b.cons = .host) || (decide (b.cons = .yarn) && decide (b.consId.toNat = n))))

/-- The entries of a die's bobbin table that are free, lowest first (R125). -/
def freeEntry (used : List Nat) (limit : Nat) : Option Nat :=
  let cs := 0 :: used.map (fun e => e + 1)
  (cs.filter (fun c => decide (c < limit) && !used.contains c)).foldl (fun (r : Option Nat) c => match r with
    | none => some c
    | some b => some (min b c)) none

/-- The table entries of a die that yarns hold. -/
def yarnEntries (s : State) (d : Die) : List Nat := (yarnsOn s d).map (fun e => e.2.entry)

/-- The table entries of a die that bobbins hold, and those withdrawn (R272). -/
def bobEntries (s : State) (d : Die) : List Nat :=
  (s.flow.bobs.filter (fun e => decide (e.2.state ≠ .free) && decide (e.2.die = d))).map (fun e => e.2.entry) ++
    (s.flow.badEntries.filter (fun e => decide (e.1 = d.val))).map (fun e => e.2)

/-- Move a bobbin with its contents to the other die: its words are stored again there (R194). -/
def moveBob (s : State) (n : Nat) : State :=
  let b := getBob s n
  let o := otherDie b.die
  let all := b.head ++ spoolWords b.spoolPos.length s b b.rpos b.spoolPos ++ b.tail
  match allocFit s o 0 (spoolRegion s o) b.quota, freeEntry (bobEntries s o) 32768 with
  | some base, some e =>
    let items := b.items.map (fun i => { i with ord := ordFrom s (if i.kind = 3 then markDie s b else b.die) o i.ord })
    let c := { emptyBob b with items := items, opened := b.opened, resv := b.resv, die := o, base := base, entry := e,
                               wpos := 0, rpos := 0, wmark := 64 * b.quota }
    let s := { s with mem.allocs := s.mem.allocs.filter (fun a => decide (a.kind ≠ .spool n)) }
    let s := allocTake s { stack := o, base := base, len := b.quota, kind := .spool n }
    let s := all.foldl (fun s p => storeWord (modBob s n (fun b => { b with wp := p.pos })) n p.w) (setBob s n c)
    modBob s n (fun x => { x with wp := b.wp, wp2 := b.wp, rp := b.rp, rp2 := b.rp })
  | _, _ => s

/-- The lowest free place for a checkpoint area of a die, in both stacks for a mirrored or twin yarn, whose copies stand at the
same offset (R190). -/
def ckptFit (s : State) (d : Die) (both : Bool) : Option Nat :=
  if !both then allocFit s d (spoolRegion s d) allocLimit 7
  else
    let lo := max (spoolRegion s 0) (spoolRegion s 1)
    let cs := lo :: s.mem.allocs.map (fun a => a.base + a.len)
    (cs.filter (fun c => decide (lo ≤ c) && decide (c + 7 ≤ allocLimit) && allocFree s 0 c 7 && allocFree s 1 c 7)).foldl
      (fun r c => match r with
        | none => some c
        | some b => some (min b c)) none

/-- Take the checkpoint area of a yarn. -/
def takeCkpt (s : State) (d : Die) (n base : Nat) (both : Bool) : State :=
  let s := allocTake s { stack := d, base := base, len := 7, kind := .checkpoint n }
  if both then allocTake s { stack := otherDie d, base := base, len := 7, kind := .checkpoint n } else s

/-- Move a yarn in MIGRATE to the other die: its checkpoint and the bobbins that only yarns feed cross the link, and it
resumes there in its former state (R128, R194). -/
def migrateYarn (s : State) (d : Die) (n : Nat) : State :=
  let y := getYarn s d n
  let o := otherDie d
  let bytes := y.stages.map (frameBytes s d)
  let shown := ((y.snaps.filter (fun x => decide (x.1 ≤ ckptOrd s d))).getLast?).map (fun x => (ckptOrd s o, x.2))
  match freeEntry (yarnEntries s o) 16384, ckptFit s o (decide (y.prot ≠ 0)) with
  | some e, some base =>
    let s := (movingBobs s d n y).foldl moveBob s
    let place (t : State × List Stage) (g : Stage) : State × List Stage :=
      let f := (frameFit t.1 o g.harness (1 + g.images)).getD 0
      let g' := { g with frame := f }
      (setYarn t.1 o n { y with stages := t.2 ++ [g'] }, t.2 ++ [g'])
    let st := (y.stages.foldl place (s, [])).2
    let s := freeYarn s d n
    let s := (st.zip bytes).foldl (fun s p => writeFrame s o p.1 p.2) s
    let s := if y.pinned then st.foldl (fun s g => loadPinned s o g) s else s
    let s := takeCkpt s o n base (decide (y.prot ≠ 0))
    let cur := (getBeat s o).ord
    let s := setYarn s o n { y with state := y.before, stages := st, entry := e, homeDie := o, cuts := [], written := [],
                                    copies := [], snaps := shown.toList, lastAt := none, cut := cur - 1, marks := [],
                                    ckpt := BitVec.ofNat 64 (base * 4096 + o.val * 2 ^ 40) }
    let s := takeCut s o n cur
    let s := (getYarn s o n).cuts.foldl (fun s c => writeCkpt s o n c) s
    if y.before = .run then enterRun s o n else s
  | _, _ => s

/-- YARN_MIGRATE_DONE (R194): the transfer of a yarn in MIGRATE, whose cut's checkpoint is in HBM, is complete. -/
def migrateDone (s : State) (n : Nat) : State :=
  [(0 : Die), 1].foldl (fun s d =>
    let y := getYarn s d n
    if y.state = .migrate ∧ y.cuts = [] ∧ atBoundary s d n then migrateYarn s d n else s) s

/-- YARN_MIGRATE_DONE (R194). -/
def execYarnMigrateDone (y : YarnNo) (s : State) : Host.Outcome State Fault Refusal := .next (migrateDone s y.val)

end Sys2Proof.Machine
end

