-- ==== Sys2Proof/Machine/RegBank.lean ====
section
/-! DEFINITION. Writes to registers by their access codes (R8, R10, R11), the select copies of each requester (R474), and
what a reset restores in the register bank (R9, R415, R416). -/

namespace Sys2Proof.Machine

/-! ## Writes by access code -/

/-- Is the value of a field no reserved encoding (R11)? -/
def fieldOk (f : FieldSpec) (v : Nat) : Bool := f.ok.isEmpty || f.ok.any (fun r => decide (r.1 ≤ v) && decide (v ≤ r.2))

/-- The value of a field after a write of `v` over `old`; `locked` is the register's lock bit (R8). -/
def fieldWrite (f : FieldSpec) (locked : Bool) (old v : Nat) : Nat :=
  match f.acc with
  | .rw => if fieldOk f v then v else old
  | .rwl => if locked || !fieldOk f v then old else v
  | .w1c => Nat.xor old (Nat.land old v)
  | .w1cc => if v = 2 ^ (f.hi + 1 - f.lo) - 1 then 0 else old
  | .ro | .rc | .w1s | .wo => old

/-- A register's value after a write by its access codes; reserved bits stay 0 (R10). A W1S field keeps its value: what
its 1 asks for is the request's own effect. -/
def regWritten (r : Reg) (old v : Word) : Word :=
  BitVec.ofNat 32 ((regSpec r).fields.foldl (fun n f =>
    n + fieldWrite f (bitOf old.toNat 31) (bitsOf old.toNat f.hi f.lo) (bitsOf v.toNat f.hi f.lo) * 2 ^ f.lo) 0)

/-- Write a register by its access codes. -/
def regWrite (s : State) (r : Reg) (d : Die) (i : Nat) (v : Word) : State := setReg s r d i (regWritten r (regRaw s r d i) v)

/-- The registers whose select fields each requester holds for itself (R474). -/
def isSelect (r : Reg) : Bool := [Reg.YARN_SEL, .BOB_SEL, .BOB_PUSH_TAG, .NOC_RT_SEL, .CELL_CSEL].contains r

/-- Write a register for a requester: a select register in the requester's own copy, and CELL_CSEL.frz for all (R474). -/
def regWriteBy (s : State) (rq : Requester) (r : Reg) (d : Die) (i : Nat) (v : Word) : State :=
  if isSelect r then
    let s := regWrite s r d (selInst rq i) v
    if r = .CELL_CSEL then setF s fCELL_CSEL_frz d i (bitsOf v.toNat 31 31) else s
  else regWrite s r d i v

/-! ## What a reset reaches (R9, R415, R416) -/

/-- A reset: its level, its die (die 0 for a level of the device) and its harness. -/
structure ResetAt where
  level : Level
  die   : Die
  har   : Nat
  deriving DecidableEq, Repr

/-- Does a reset restore a field of a level that belongs to a die, and for the HARNESS level to a harness (R9, R416)? -/
def resetHits (x : ResetAt) (lvl : Level) (d : Die) (h : Nat) : Bool :=
  match x.level with
  | .power => true
  | .device => decide (lvl ≠ .power)
  | .die =>
    (decide (lvl = .die ∨ lvl = .control ∨ lvl = .harness) && decide (d = x.die)) ||
      (decide (lvl = .host) && decide (x.die = 0))
  | .host => decide (lvl = .host)
  | .control => decide (lvl = .control) && decide (d = x.die)
  | .harness => decide (lvl = .harness) && decide (d = x.die) && decide (h = x.har)

/-- The register, die and instance of a key of the bank. -/
def keyReg (k : Nat) : Reg := allRegs.getD (k / 131072) .RST_CAUSE
def keyDie (k : Nat) : Die := if k / 65536 % 2 = 1 then 1 else 0
def keyInst (k : Nat) : Nat := k % 65536

/-- The die a register's fields belong to: that of its register space, and for FW_VER and IMG_ID the die that the
instance names (R323). -/
def regDie (r : Reg) (d : Die) (i : Nat) : Die :=
  if r = .FW_VER ∨ r = .IMG_ID then (if i = 1 then 1 else 0) else d

/-- The harness of an instance of a register of the harness block. -/
def regHar (r : Reg) (i : Nat) : Nat := if i < 8192 then i / (regSpec r).count else i % 8192

/-- The value of a register after a reset. -/
def regAfter (x : ResetAt) (k : Nat) (v : Word) : Word :=
  let r := keyReg k
  let d := regDie r (keyDie k) (keyInst k)
  let h := regHar r (keyInst k)
  BitVec.ofNat 32 ((regSpec r).fields.foldl (fun n f =>
    n + (if resetHits x f.lvl d h then f.reset else bitsOf v.toNat f.hi f.lo) * 2 ^ f.lo) 0)

/-- Restore every field that a reset reaches. -/
def resetRegs (s : State) (x : ResetAt) : State :=
  { s with regs := s.regs.filterMap (fun e =>
      let v := regAfter x e.1 e.2
      if v = regDefault e.1 then none else some (e.1, v)) }

/-- A reset level by its code (R415). -/
def levelOf (code : Nat) : Option Level :=
  match code with
  | 0 => some .power
  | 1 => some .device
  | 2 => some .die
  | 3 => some .host
  | 4 => some .control
  | 5 => some .harness
  | _ => none

/-- The code of a reset level (R415). -/
def levelCode : Level → Nat
  | .power => 0
  | .device => 1
  | .die => 2
  | .host => 3
  | .control => 4
  | .harness => 5

end Sys2Proof.Machine
end

