-- ==== Sys2Proof/Machine/Reset.lean ====
section
/-! DEFINITION. What a reset of each level does to the device (R198, R343, R358, R415 to R418), the sources that assert
and release resets (R419 to R424), and the release stages (R422). -/

namespace Sys2Proof.Machine

/-! ## Parts of the array -/

/-- Forget the keys of a range of `n` from `lo`. -/
def dropRangeOf {α : Type} (m : Sparse α) (lo n : Nat) : Sparse α := sparseDrop m (fun k => decide (lo ≤ k) && decide (k < lo + n))

/-- The gates of a harness: those at its own west or north ends and those whose far side it is (R89). -/
def gatesOf (d : Die) (h : Nat) : List Nat :=
  let own := (List.range 8).flatMap (fun k => [gateKey d false h k, gateKey d true h k])
  let west := if 1 ≤ h % 6 then (List.range 8).map (fun k => gateKey d false (h - 1) k) else []
  let north := if 6 ≤ h then (List.range 8).map (fun k => gateKey d true (h - 6) k) else []
  own ++ west ++ north

/-- Both buffers of every gate of a harness are emptied, and the north or west end goes first again (R90, R204). -/
def emptyGates (s : State) (d : Die) (h : Nat) : State :=
  (gatesOf d h).foldl (fun s k =>
    let g := getGate s k
    setGate s k { g with fromA := [], fromB := [], turnB := false, contended := none, forced := false }) s

/-- Clear the shared registers that a draft of the resident bank owns (R39, R198). -/
def clearOwned (s : State) (d : Die) (h : Nat) : State :=
  (List.range 64).foldl (fun s i =>
    let ck := cellKey d h (i / 8) (physCol s d h (i / 8) (i % 8))
    let ds := (List.range 16).map (residentDraft s d h ck)
    (List.range 16).foldl (fun s g => if ownedShared ds (decide (8 ≤ g)) (g % 8) then setShared s ck g 0 else s) s) s

/-- Slot contexts, context buffers, pipelines, words on segments, gate buffers, the table position and the cell
counters are cleared (R198): what a HARNESS reset, RET, OFF and a wider reset have in common. -/
def clearFlow (s : State) (d : Die) (h : Nat) : State :=
  let s := { s with arr.cells := dropRangeOf s.arr.cells (cellKey d h 0 0) 72
                    arr.reedIn := dropRangeOf s.arr.reedIn (reedKey d h 0 0) 2048 }
  let a := getHar s d h
  setHar (emptyGates s d h) d h
    { harInit with flip := a.flip, headroom := a.headroom, inReset := a.inReset, lost := a.lost, deadBeat := a.deadBeat, collBeat := a.collBeat,
                   relocks := a.relocks, faultAt := a.faultAt, bpCount := a.bpCount }

/-- A HARNESS reset (R198): drafts, tables, constants, scratch and bank memories are kept. A swap that was armed is no
longer (log entry 23), and a linked comparator is disarmed (R462). -/
def resetHarness (s : State) (d : Die) (h : Nat) : State :=
  let armedHere := (getHar s d h).armTick.isSome
  let s := clearFlow (clearOwned s d h) d h
  let s := resetRegs s { level := .harness, die := d, har := h }
  let s := { s with dbg.armed := s.dbg.armed.filter (fun k => decide (k / 16 ≠ d.val * 36 + h)) }
  let s := modHar s d h (fun a => { a with inReset := true })
  if armedHere then endWait s (.swap d h) 6 0 0 else s

/-- What a stay in RET loses (R198): every scratch word, and what `clearFlow` clears; the power-up rewrites constants. -/
def loseRet (s : State) (d : Die) (h : Nat) : State :=
  clearFlow { s with arr.scratch := dropRangeOf s.arr.scratch (cellKey d h 0 0 * 512) (72 * 512)
                     arr.shared := dropRangeOf s.arr.shared (cellKey d h 0 0 * 16) (72 * 16) } d h

/-- What a stay in OFF loses beside: drafts, treadling table and bank memories (R198). -/
def loseOff (s : State) (d : Die) (h : Nat) : State :=
  let s := loseRet s d h
  { s with arr.cellDraft := dropRangeOf s.arr.cellDraft (cellDraftKey (cellKey d h 0 0) false 0) (72 * 32)
           arr.reedDraft := dropRangeOf s.arr.reedDraft (reedDraftKey d h 0 false 0) (64 * 32)
           arr.table := dropRangeOf s.arr.table (tableKey d h false 0) 512
           arr.bank := memClear s.arr.bank (bankAddr d h 0) 0x80000 }

/-! ## CONTROL and HOST reach -/

/-- A CONTROL reset of a complex (R358): the cores stop, its semaphores are released and the DTCM reads 0. The ITCM is kept, and
so is the time of the last watchdog expiry (R356). Commands wait in the queue engine. A halt ends (R466), and a HALT that was
deferred ends with BUSY, since its target resets (R454). -/
def resetControl (s : State) (d : Die) : State :=
  let r := getRt s d
  let s := setRt s d { rtInit with mailbox := r.mailbox, fwOk := r.fwOk, lastExp := r.lastExp, wdtAt := s.vigil.ticks,
                                   windows := r.windows, booted := r.booted, digest := r.digest }
  let s := if r.halt = .none then s else raiseEvent s 0x17 d (BitVec.ofNat 32 d.val) 0
  let s := if s.dbg.haltFor = some d then svSend { s with dbg.haltFor := none, dbg.status := 6, dbg.resp := [] } 6 [] else s
  let s := (List.range 64).foldl (fun s i => [(0 : Die), 1].foldl (fun s x =>
    if flagF s fSEM_held x i && decide (getF s fSEM_owner_die x i = d.val) then setF s fSEM_held x i 0 else s) s) s
  let s := resetRegs s { level := .control, die := d, har := 0 }
  { s with mem.dtcm := memClear s.mem.dtcm (d.val * 0x100000) 0x100000 }

/-- Unmap a host region at once: the open item of an input region's bobbin is discarded (R343, R150 steps 2 and 3). -/
def dropRegion (s : State) (j : Nat) : State :=
  let g := getRegion s j
  let s := if g.mapped && !g.out && (getBob s g.bob).opened.isSome then modBob s g.bob flushOpen else s
  setRegion s j regionInit

/-- A HOST-level reset (R343): commands in progress run to their end without completion, those not yet applied never
are, and the host regions are unmapped. -/
def resetHost (s : State) : State :=
  let s := (List.range 64).foldl dropRegion s
  let s := resetRegs s { level := .host, die := 0, har := 0 }
  let s := [(0 : Die), 1].foldl (fun s d =>
    let r := getRt s d
    setRt s d { r with mailbox := r.mailbox.map (fun m => { m with mute := true }) }) s
  { s with host := { s.host with qps := [], staged := [], bell := false, d3hot := false,
                                 waits := s.host.waits.map (fun w => { w with mute := true }) } }

/-! ## DIE reach and wider -/

/-- The ports of a die after a reset of DIE reach (R310, R311, R313): an Ethernet port is silent until the firmware reconfigures
it and cuts short what it sends; a ring ends the frame it sends and keeps its grid, and its run bit is a register field. -/
def resetPorts (s : State) (d : Die) : State :=
  let s := (List.range 48).foldl (fun s m => cutFrame s (d.val * 48 + m)) (stompRings s d)
  let s := { s with ports.tables := dropRangeOf s.ports.tables (d.val * 48 * 1024) (48 * 1024)
                    ports.lastCmd := dropRangeOf s.ports.lastCmd (d.val * 24 * 256) (24 * 256)
                    ports.macs := dropRangeOf s.ports.macs (d.val * 48) 48 }
  let s := (List.range 48).foldl (fun s m =>
    let p := d.val * 48 + m
    let ring := flagF s fPCFG_en d m && decide (4 ≤ getF s fPCFG_mode d m)
    if flagF s fPCFG_en d m && !ring then setPort s p { portInit with cut := true } else setPort s p portInit) s
  (List.range 24).foldl (fun s m =>
    let k := d.val * 24 + m
    let r := getRing s k
    setRing s k { ringInit with running := r.running, period := r.period, base := r.base, lead := r.lead, start := r.start,
                                cycle := r.cycle, prevPick := r.prevPick, silent := r.silent }) s

/-- The yarns, bobbins, flights and engines of a die lose what its near-store and tables held; the firmware's copies in
HBM stay (R418). -/
def resetFlow (s : State) (d : Die) : State :=
  let s := { s with flow := { s.flow with
    yarns := s.flow.yarns.filter (fun e => decide (e.1 % 2 ≠ d.val))
    bobs := s.flow.bobs.filter (fun e => decide (e.2.die ≠ d))
    flights := s.flow.flights.filter (fun f => decide (f.die ≠ d))
    reports := s.flow.reports.filter (fun r => decide (r.1 ≠ d))
    gone := s.flow.gone.filter (fun g => decide (g.die ≠ d))
    lastYarn := dropRangeOf s.flow.lastYarn (harKey d 0 * 16) (36 * 16) } }
  modBeat s d (fun b => { b with started := false, readyMsg := [], commitMsg := [], jshrink := none,
                                 jgrown := 0, refusedAt := none, faults := [], replays := [], joint := 0,
                                 rejoinMod := none, update := none })

/-- The array of a die is cleared; its load rewrites it (R198), and failed long lines work again (R115). -/
def resetArray (s : State) (d : Die) : State :=
  let s := { s with arr.gates := dropRangeOf s.arr.gates (gateKey d false 0 0) 576 }
  (List.range 36).foldl (fun s h =>
    let s := loseOff s d h
    let s := endWait s (.swap d h) 6 0 0
    setHar s d h { harInit with inReset := true }) s

/-- The network, link half, memories, fringe and configuration engine of a die. -/
def resetBlocks (s : State) (d : Die) : State :=
  let s := { s with
    net := { s.net with
      routes := dropRangeOf s.net.routes (d.val * 2 * 42 * 64) (2 * 42 * 64)
      switched := s.net.switched.filter (fun e => decide (e.1 ≠ d.val))
      held := dropRangeOf (dropRangeOf (dropRangeOf s.net.held (domKey d 0) 65) (130 + d.val) 1) (132 + d.val) 1
      heldEv := dropRangeOf s.net.heldEv (domKey d 0) 65
      heldAcc := dropRangeOf s.net.heldAcc (domKey d 0) 65
      heldHdm := dropRangeOf s.net.heldHdm (domKey d 0) 65
      stray := s.net.stray.filter (fun e => decide (e.1 ≠ d))
      awaits := s.net.awaits.filter (fun a => decide (a.die ≠ d))
      slots := dropRangeOf s.net.slots (d.val * 0x2000000) 0x2000000 }
    mem := { s.mem with
      master := memClear s.mem.master (masterAddr d 0 false 0) (72 * 173056)
      drafted := s.mem.drafted.filter (fun k => decide (k / 36 ≠ d.val))
      imageBank := s.mem.imageBank.filter (fun k => decide (k / 9216 ≠ d.val))
      yarnImg := memClear s.mem.yarnImg (d.val * 0x200000) 0x200000
      bobImg := memClear s.mem.bobImg (d.val * 0x200000) 0x200000
      itcm := memClear s.mem.itcm (d.val * 0x100000) 0x100000
      sys := memClear s.mem.sys (d.val * 4096) 4096 }
    fringe := { s.fringe with
      frames := memClear s.fringe.frames (fringeAddr d 0 0) (24832 * 128)
      golden := dropRangeOf s.fringe.golden (d.val * 24832) 24832
      ffs := dropRangeOf s.fringe.ffs (ffKey d 0 0 false) 98304
      gates := dropRangeOf s.fringe.gates (d.val * 64) 64
      sers := dropRangeOf s.fringe.sers (d.val * 8) 8 } }
  let m := getHbm s d
  let s := setHbm s d { hbmInit with pages := m.pages, pc := m.pc, pageAt := m.pageAt, poison := m.poison, bad := m.bad }
  setImg (setMarch (setBrd s d brdInit) d marchInit) d imgInit

/-- Does a quad of a die carry an enabled ring (R311)? -/
def quadCarriesRing (s : State) (d : Die) (q : Nat) : Bool :=
  ringPaired s (d.val * 24 + 2 * q) || ringPaired s (d.val * 24 + 2 * q + 1)

/-- The domains of a die are OFF until its release powers them up; Vigil and debug are not in this reach (R415, R447), and a quad
that carries an enabled ring stays powered (R311). -/
def resetDoms (s : State) (d : Die) : State :=
  let stays (i : Nat) : Bool := decide (36 ≤ i) && decide (i < 48) && quadCarriesRing s d (i - 36)
  { s with doms := s.doms.filter (fun e =>
    !(decide (domKey d 0 ≤ e.1) && decide (e.1 < domKey d 63)) || stays (e.1 - domKey d 0)) }

/-- A DIE reset (R415, R416, R418). The queue engine of die 0 keeps the commands for die 1 (R355). -/
def resetDie (s : State) (d : Die) : State :=
  let s := resetArray s d
  let s := resetControl s d
  let s := if d = 0 then resetHost s else s
  let s := resetPorts s d
  let s := resetBlocks (resetFlow s d) d
  let s := resetRegs (resetDoms s d) { level := .die, die := d, har := 0 }
  let s := setRt s d { rtInit with mailbox := if d = 0 then [] else (getRt s d).mailbox }
  let s := if d = 0 then setF s fDEV_STATE_die0 0 0 0 else setF s fDEV_STATE_die1 0 0 0
  let c := (getBeat s d).cmt
  let s := { s with mem.descs := s.mem.descs.filter (fun x => decide (x.die ≠ d) || decide (x.ord ≤ c + 1))
                    rst.restore := if s.rst.restore.contains d.val then s.rst.restore else s.rst.restore ++ [d.val] }
  setStage s d 2

/-- What belongs to the device and not to one die starts anew; the stacks are reinitialised, and what they held reads as
memory that nothing has written (R417, log entry 3). -/
def emptyDevice (s : State) : State :=
  let keep (d : Die) : Nat × HbmSt := (d.val, { hbmInit with pages := (getHbm s d).pages, pc := (getHbm s d).pc, bad := (getHbm s d).bad })
  { s with
    flow := { s.flow with yarns := [], bobs := [], flights := [], nextFlight := 1, reports := [], gone := [] }
    beats := []
    mem := { s.mem with hbm := [], allocs := [], descs := [], imageBank := [], stack := ([keep 0, keep 1]).filter (fun e => decide (e.2 ≠ hbmInit)) }
    host := { s.host with waits := [], regions := [], win := { base := 0, area := 0, pubs := [], old := [], next := 0, done := [], shown := none } }
    dbg := { s.dbg with nonce := none }
    vigil.latches := s.vigil.latches.filter (fun e => decide (5 ≤ e.1 % 16))
    cap := { samples := [], asked := [], since := 0, eventAt := none }
    rst := { s.rst with stage := [(0, 2), (1, 2)], opened := false, dozing := false, request := none, cfgDone := false,
                        restore := [] } }

/-- A DEVICE reset: the DIE reach of each die, and what belongs to the device (R417). -/
def resetDevice (s : State) : State :=
  let s := resetDie (resetDie s 0) 1
  let s := resetRegs s { level := .device, die := 0, har := 0 }
  emptyDevice (if s.rst.dozing then setF s fVGL_PWR_state 0 0 3 else s)

/-- A POWER reset: every block starts from its reset state; what is not volatile stays: the NV stores with the firmware's
records, and the fuses (R119, R267, R376). -/
def resetPower (s : State) : State :=
  let keep (d : Die) : Nat × HbmSt := (d.val, { hbmInit with pages := (getHbm s d).pages, pc := (getHbm s d).pc, bad := (getHbm s d).bad })
  { State.reset with
    mem := { State.reset.mem with nv := s.mem.nv, darned := s.mem.darned, aged := s.mem.aged,
                                  withdrawn := s.mem.withdrawn, spareBad := s.mem.spareBad, marchLost := s.mem.marchLost
                                  stack := ([keep 0, keep 1]).filter (fun e => decide (e.2 ≠ hbmInit)) }
    flow := { State.reset.flow with badEntries := s.flow.badEntries }
    fuses := s.fuses
    pending := s.pending
    outbox := s.outbox
    free := s.free }

/-- The effects of a reset on the blocks in its reach. -/
def applyReset (s : State) (x : ResetAt) : State :=
  match x.level with
  | .power => resetPower s
  | .device => resetDevice s
  | .die => resetDie s x.die
  | .host => resetHost s
  | .control => resetControl s x.die
  | .harness => resetHarness s x.die x.har

/-! ## Sources (R419 to R424) -/

/-- The dies that a reset reaches (R415, R424). -/
def reachDies (x : ResetAt) : List Die :=
  match x.level with
  | .power | .device => [0, 1]
  | .host => [0]
  | .die | .control | .harness => [x.die]

/-- Set the bit of a source in RST_CAUSE of a die. -/
def setCause (s : State) (d : Die) (src : Nat) : State :=
  setReg s .RST_CAUSE d 0 (BitVec.ofNat 32 (Nat.lor (regRaw s .RST_CAUSE d 0).toNat (2 ^ src)))

/-- A source asserts a reset: its reach is reset at once, and its bit is set on each die that it reaches. A POWER reset
clears every other bit of RST_CAUSE first (R422 to R424). A HARNESS reset is covered by replay (R204); after a clock failure that
is the fault of R202. -/
def assertReset (s : State) (src : Nat) (x : ResetAt) : State :=
  let held := s.rst.asserted
  let s := applyReset s x
  let a : Asserted := { src := src, level := x.level, die := x.die, har := x.har }
  let s := { s with rst.asserted := if held.contains a then held else held ++ [a] }
  let s := if x.level = .power then setReg (setReg s .RST_CAUSE 0 0 0) .RST_CAUSE 1 0 0 else s
  let s := if x.level = .harness ∧ src ≠ 8 then addFault s x.die { cls := 0, id := 0, har := some x.har, bob := none } else s
  (reachDies x).foldl (fun s d => setCause s d src) s

/-- Does an asserted source hold the Rentur complex of a die, the command interface, or a harness in reset (R423)? -/
def controlHeld (s : State) (d : Die) : Bool :=
  dieHeld s d || s.rst.asserted.any (fun a => decide (a.level = .control) && decide (a.die = d))
def hostHeld (s : State) : Bool := dieHeld s 0 || s.rst.asserted.any (fun a => decide (a.level = .host))
def harHeld (s : State) (d : Die) (h : Nat) : Bool :=
  dieHeld s d || s.rst.asserted.any (fun a => decide (a.level = .harness) && decide (a.die = d) && decide (a.har = h))

/-- The code of the reach of a source: what the option loader has stored, and the fused reach before (R421); i = 13 is
the second watchdog expiry. -/
def reachCode (s : State) (d : Die) (i : Nat) : Nat :=
  let v := getF s fRST_REACH_level d i
  if v = 7 then ((s.fuses.reach.getD i 7)).toNat else v

/-- The reach in force of a source. -/
def reachOf (s : State) (d : Die) (i : Nat) : Level := (levelOf (reachCode s d i)).getD .device

/-- The clock generator of a harness is locked at freq, so that no slew is in progress (R200, R202, R214). -/
def lockClock (s : State) (d : Die) (h : Nat) : State :=
  setF (setF (setF s fCLK_STAT_locked d h 1) fCLK_STAT_slewing d h 0) fCLK_STAT_freq_now d h (getF s fCLK_CTL_freq d h)

/-- A harness leaves reset. -/
def openHarness (s : State) (d : Die) (h : Nat) : State :=
  if harHeld s d h || decide (getStage s d < 7) || !(getHar s d h).inReset then s
  else
    let s := modHar s d h (fun a => { a with inReset := false })
    if domOn s d h then lockClock s d h else s

/-- A HARNESS reset is released, and reported (R341). -/
def releaseHarness (s : State) (d : Die) (h : Nat) : State :=
  if harHeld s d h || decide (getStage s d < 7) then s
  else
    let s := raiseEvent (openHarness s d h) 0x1A d 5 (BitVec.ofNat 32 (d.val * 65536 + h))
    endWait s (.release d .harness h) 0 0 0

/-- DEV_STATE.host_ready is set once the device is up and die 0 is loaded and runs (R343, R426). -/
def showReady (s : State) : State :=
  if s.rst.opened && fwRuns s 0 && decide (2 ≤ getF s fDEV_STATE_die0 0 0) && !hostHeld s && decide (8 ≤ getStage s 0) then
    setF s fDEV_STATE_host_ready 0 0 1
  else s

/-- The command interface leaves reset (R343): it is ready again once the device is up and die 0's
firmware runs (R426). -/
def releaseHost (s : State) : State :=
  if hostHeld s || decide (getStage s 0 < 8) then s
  else
    endWait (showReady s) (.release 0 .host 0) 0 0 0

/-- A source ends; what no other source holds begins its release (R423). -/
def releaseReset (s : State) (a : Asserted) : State :=
  let s := { s with rst.asserted := s.rst.asserted.filter (fun x => decide (x ≠ a)) }
  match a.level with
  | .harness => releaseHarness s a.die a.har
  | .host => releaseHost s
  | .control | .die | .device | .power => s

end Sys2Proof.Machine
end

