-- ==== Sys2Proof/Machine/Clocks.lean ====
section
/-! DEFINITION. Harness clocks (R199 to R202), adaptive voltage (R206 to R209), aging (R210), and the power domains'
sequencers (R211 to R218). -/

namespace Sys2Proof.Machine

/-! ## Clocks -/

/-- A register access by the host reaches no register that only the firmware writes (R478). -/
def hostBarred (rq : Requester) : Bool := decide (rq = .host)

/-- Set a harness's frequency; its generator slews while it is locked (R200). -/
def setFreq (s : State) (d : Die) (h f : Nat) : State :=
  let s := setF s fCLK_CTL_freq d h f
  let slews := flagF s fCLK_STAT_locked d h && decide (getF s fCLK_STAT_freq_now d h ≠ f)
  setF s fCLK_STAT_slewing d h (bitN slews)

/-- A write of CLK_CTL (R199, R200): a frequency outside 16 to 120 is reserved. The voltage loop's limit no longer
holds it down (R209). -/
def clkCtlWrite (s : State) (d : Die) (h : Nat) (v : Word) : State :=
  setFreq s d h (bitsOf (regWritten .CLK_CTL (regRaw s .CLK_CTL d h) v).toNat 6 0)

/-- CLK_FREQ_WRITE (R200). -/
def execClkFreqWrite (_rq : Requester) (d : Die) (h : Harn) (v : Word) (s : State) : Host.Outcome State Fault Refusal :=
  .next (clkCtlWrite s d h v)

/-- The worst margin of the last loop period, signed, and the fused target (R207). -/
def marginOf (s : State) (d : Die) (h : Nat) : Int := signed 8 (getF s fAVS_STAT_margin d h)
def marginTarget (s : State) : Int := signed 8 s.fuses.margin.toNat

/-- CLK_SLEW_DONE (R200): the new frequency is reached. A rise waits while the worst margin lies below its target. -/
def slewDone (s : State) (d : Die) (h : Nat) : State :=
  let f := getF s fCLK_CTL_freq d h
  if !flagF s fCLK_STAT_slewing d h then s
  else if getF s fCLK_STAT_freq_now d h < f ∧ marginOf s d h < marginTarget s then s
  else setF (setF s fCLK_STAT_freq_now d h f) fCLK_STAT_slewing d h 0

/-- CLK_SLEW_DONE (R200). -/
def execClkSlewDone (d : Die) (h : Harn) (s : State) : Host.Outcome State Fault Refusal := .next (slewDone s d h)

/-- The assertion of the harness clock failure source for a harness (R202, R419, R421). -/
def clockReset (s : State) (d : Die) (h : Nat) : ResetAt := { level := reachOf s d 8, die := d, har := h }

/-- A harness clock failure (R202 steps 1 to 3), while the harness is ON and not halted (R201). -/
def clockFail (s : State) (d : Die) (h : Nat) : State :=
  let a := getHar s d h
  if !domWorks s d h || a.inReset || a.halted then s
  else
    let s := countF (setF s fCLK_STAT_fail d h 1) fCLK_STAT_fail_cnt d h
    let s := assertReset s 8 (clockReset s d h)
    let s := modHar s d h (fun a => { a with relocks := 0 })
    let s := raiseEvent s 0x0B d (BitVec.ofNat 32 h) (regRaw s .CLK_STAT d h)
    addFault s d { cls := 3, id := 0, har := some h, bob := none }

/-- HARNESS_CLOCK_FAIL (R202). -/
def execHarnessClockFail (d : Die) (h : Harn) (s : State) : Host.Outcome State Fault Refusal := .next (clockFail s d h)

/-- The failure source asserted for a harness. -/
def clockHeld (s : State) (d : Die) (h : Nat) : Option Asserted :=
  s.rst.asserted.find? (fun a => a.src = 8 ∧ a.die = d ∧ a.har = h)

/-- The generator locks, or an attempt fails (R202 steps 4 and 5): after the second the harness is lost. -/
def relock (s : State) (d : Die) (h : Nat) (ok : Bool) : State :=
  match clockHeld s d h with
  | none => s
  | some a =>
    if ok then releaseReset s a
    else if (getHar s d h).relocks = 0 then modHar s d h (fun a => { a with relocks := 1 })
    else loseHarness s d h

/-- HARNESS_CLOCK_RELOCK (R202). -/
def execHarnessClockRelock (d : Die) (h : Harn) (ok : Bool) (s : State) : Host.Outcome State Fault Refusal :=
  .next (relock s d h ok)

/-! ## Adaptive voltage -/

/-- The code kept between vmin and vmax and below the headroom limit (R206, R207). -/
def clampV (s : State) (d : Die) (h v headroom : Nat) : Nat :=
  min headroom (min (getF s fAVS_CTL_vmax d h) (max (getF s fAVS_CTL_vmin d h) v))

/-- The loop needs a higher code than it may set (R209). -/
def avsLimit (s : State) (d : Die) (h : Nat) : State :=
  let s := setF s fAVS_STAT_limit d h 1
  let s := setFreq s d h (max 16 (getF s fCLK_CTL_freq d h - 1))
  raiseEvent s 0x0C d (BitVec.ofNat 32 h) (BitVec.ofNat 32 (getF s fCLK_CTL_freq d h))

/-- One period of the voltage loop (R207, R209): the worst margin seen, and the highest code the headroom allows. -/
def avsTick (s : State) (d : Die) (h : Nat) (margin : BitVec 8) (headroom : Nat) : State :=
  if !domWorks s d h then s
  else
    let s := setF s fAVS_STAT_margin d h margin.toNat
    let v := getF s fAVS_STAT_vnow d h
    let m := signed 8 margin.toNat
    let t := marginTarget s
    let s := modHar s d h (fun a => { a with headroom := headroom })
    let setV (s : State) (v : Nat) : State := setF s fAVS_STAT_vnow d h (clampV s d h v headroom)
    let above (s : State) (n : Nat) : State := modHar s d h (fun a => { a with aboveFor := n })
    if !flagF s fAVS_CTL_en d h then above (setF s fAVS_STAT_vnow d h (min headroom (getF s fAVS_CTL_vman d h))) 0
    else if m < t then
      (if v < min headroom (getF s fAVS_CTL_vmax d h) then above (setV s (v + 1)) 0
       else avsLimit (above (setV s v) 0) d h)
    else if t + 4 < m then
      (if 7 ≤ (getHar s d h).aboveFor then above (setV s (v - 1)) 0
       else above (setV s v) ((getHar s d h).aboveFor + 1))
    else above (setV s v) 0

/-- AVS_LOOP_TICK (R207). -/
def execAvsLoopTick (d : Die) (h : Harn) (margin : BitVec 8) (headroom : BitVec 6) (s : State) :
    Host.Outcome State Fault Refusal :=
  .next (avsTick s d h margin headroom.toNat)

/-- A write of AVS_CTL: the code stays between vmin and vmax, while en is 0 it is vman, and it never exceeds what the rail as last
sensed allows (R206, R207). -/
def avsCtlWrite (s : State) (d : Die) (h : Nat) (v : Word) : State :=
  let s := regWrite s .AVS_CTL d h v
  let a := getHar s d h
  if flagF s fAVS_CTL_en d h then setF s fAVS_STAT_vnow d h (clampV s d h (getF s fAVS_STAT_vnow d h) a.headroom)
  else setHar (setF s fAVS_STAT_vnow d h (min a.headroom (getF s fAVS_CTL_vman d h))) d h { a with aboveFor := 0 }

/-- CLOCK_STRETCH (R208): cycles lengthened are counted. -/
def execClockStretch (d : Die) (h : Harn) (cycles : BitVec 8) (s : State) : Host.Outcome State Fault Refusal :=
  .next (if domWorks s d h then
      setF s fAVS_STAT_stretch d h (min 255 (getF s fAVS_STAT_stretch d h + cycles.toNat))
    else s)

/-! ## Aging -/

/-- The shift of the stressed oscillator in units of 10 ppm, rounded down to a whole unit (R210; DESIGN CHOICE, log entry 207). -/
def agingShift (fRef fStressed : Nat) : Int := (((fRef : Int) - fStressed) * 100000) / fRef

/-- The firmware's hourly measurement (R210): the shift, and the step down once the loop's settled code has come within
2 of vmax, where the code counts as settled while the loop is enabled and no slew is in progress (DESIGN CHOICE, log entry 207).
Both are recorded in the NV store. -/
def agingMeasure (s : State) (d : Die) (h fRef fStressed : Nat) : State :=
  if !domWorks s d h || !fwAt s d 5 then s
  else
    let sh := unsigned 16 (agingShift fRef fStressed)
    let s := wrapF (setF s fAGE_STAT_shift d h sh) fAGE_STAT_meas d h
    let limit (s : State) : Nat := (sparseGet (fun _ => (0, 0)) s.mem.aged (harKey d h)).2
    let rec' (s : State) (l : Nat) : State :=
      { s with mem.aged := sparseSet (fun _ => (0, 0)) s.mem.aged (harKey d h) (sh, l) }
    let settled := flagF s fAVS_CTL_en d h && !flagF s fCLK_STAT_slewing d h
    if settled && decide (getF s fAVS_CTL_vmax d h ≤ getF s fAVS_STAT_vnow d h + 2) then
      let s := raiseEvent s 0x0D d (BitVec.ofNat 32 h) (regRaw s .AGE_STAT d h)
      let f := max 16 (getF s fCLK_CTL_freq d h - 1)
      rec' (setFreq s d h f) f
    else rec' s (limit s)

/-- AGING_MEASURE (R210). -/
def execAgingMeasure (d : Die) (h : Harn) (fRef fStressed : Nat) (s : State) : Host.Outcome State Fault Refusal :=
  .next (agingMeasure s d h fRef fStressed)

/-! ## Power domains -/

/-- Does a domain exist on a die, and may its target be written (R211, R219)? -/
def domExists (d : Die) (i : Nat) : Bool := decide (i < 62) || (decide (d = 0) && decide (i < 65))
def domWritable (d : Die) (i : Nat) : Bool := decide (i < 62) || (decide (d = 0) && decide (i = 62))

/-- The states that a domain supports as targets (R211, R212). -/
def domSupports (i : Nat) (t : DState) : Bool :=
  match t with
  | .on => true
  | .ret => decide (i < 36) || (decide (48 ≤ i) && decide (i < 56)) || decide (i = 56) || decide (i = 59)
  | .off => decide (i < 56) || decide (i = 58) || decide (i = 60) || decide (i = 61) || decide (i = 62)

/-- A target by its code (R219). -/
def targetOf (code : Nat) : Option DState :=
  match code with
  | 0 => some .off
  | 1 => some .ret
  | 2 => some .on
  | _ => none

/-- The code of a state. -/
def dStateNo : DState → Nat
  | .off => 0
  | .ret => 1
  | .on => 2

/-- The code of a step (R214, R215). -/
def dStepNo : DStep → Nat
  | .none => 0
  | .u1 => 1
  | .u2 => 2
  | .u3 => 3
  | .u4 => 4
  | .u5 => 5
  | .u6 => 6
  | .d1 => 8
  | .d2 => 9
  | .d3 => 10
  | .d4 => 11
  | .d5 => 12

/-- Does a power-up wait for a shutdown past isolation (R216)? -/
def pendUp (m : DomSt) : Bool := decide (m.goal = .on) && decide (m.step = .d3 ∨ m.step = .d4 ∨ m.step = .d5)

/-- DOM_STAT of a domain as it stands (R219). -/
def domStat (s : State) (d : Die) (i : Nat) : Word :=
  let m := getDom s d i
  let busy := decide (m.step ≠ .none)
  BitVec.ofNat 32 (bitN busy * 2 ^ 31 + bitN (pendUp m) * 2 ^ 30 + dStepNo m.step * 2 ^ 24 +
    getF s fDOM_STAT_err d i * 65536 + (if busy then 3 else dStateNo m.state))

/-- The domains of a die in the precharge step. -/
def precharging (s : State) (d : Die) : Nat :=
  ((List.range 65).filter (fun i => decide ((getDom s d i).step = .u1))).length

/-- Start the power-ups that wait, in order of rising local index, at most four in precharge (R213); they wait for the
network domain (R212). -/
def startUps (s : State) (d : Die) : State :=
  (List.range 65).foldl (fun s i =>
    let m := getDom s d i
    if m.waiting && decide (m.step = .none) && decide (precharging s d < 4) && (domOn s d 57 || decide (i = 57)) then
      setDom s d i { m with waiting := false, step := .u1, locks := 0, fast := false }
    else s) s

/-- Act on the target of a domain that is in no step: a shutdown of one that is ON, a power-up of one that is not
(R214 to R216). A power-up that still waits for its turn in the precharge has not begun: a request for RET or OFF takes it back
(DESIGN CHOICE, log entry 208). -/
def pursue (s : State) (d : Die) (i : Nat) : State :=
  let m := getDom s d i
  if m.step ≠ .none then s
  else if m.state = .on then
    (if m.goal = .on then s else setDom s d i { m with step := .d1, fall := m.goal })
  else if m.goal = .on then startUps (setDom s d i { m with waiting := true }) d
  else setDom s d i { m with waiting := false }

/-- Set the target of a domain (R216): a change between RET and OFF takes effect in a shutdown until D4 begins. -/
def setTarget (s : State) (d : Die) (i : Nat) (t : DState) : State :=
  let s := setF s fDOM_CTL_target d i (dStateNo t)
  let m := getDom s d i
  let early := decide (m.step = .d1 ∨ m.step = .d2 ∨ m.step = .d3)
  let m := { m with goal := t, fall := if early && decide (t ≠ .on) then t else m.fall }
  pursue (setDom s d i m) d i

/-- A write of DOM_CTL (R212, R219). -/
def domCtlWrite (s : State) (rq : Requester) (d : Die) (i : Nat) (v : Word) : State :=
  if hostBarred rq || !domWritable d i then s
  else
    let s := setF s fDOM_CTL_woa d i (bitsOf v.toNat 8 8)
    match targetOf (bitsOf v.toNat 1 0) with
    | none => s
    | some t => if domSupports i t then setTarget s d i t else s

/-- DOM_TARGET_WRITE (R216). -/
def execDomTargetWrite (rq : Requester) (d : Die) (i : DomIx) (v : Word) (s : State) :
    Host.Outcome State Fault Refusal :=
  .next (domCtlWrite s rq d i v)

/-- Has every request that a domain sent received its response (R240)? -/
def allAnswered (s : State) (d : Die) (i : Nat) : Bool :=
  !s.net.awaits.any (fun a => decide (a.die = d) && decide (epDomain (endpointOf d a.ep) = some i))

/-- May a domain leave D1 (R215, R240)? What it sent is answered, and a harness is parked. -/
def quiesced (s : State) (d : Die) (i : Nat) : Bool := allAnswered s d i && (decide (36 ≤ i) || parked s d i)

/-- The words of an HBM channel group that is switched off are lost: those of its four pseudo-channels (R211, R212, R260). -/
def loseGroup (s : State) (d : Die) (k : Nat) : State :=
  let lo := hbmAddr d 0
  let there (a : Nat) : Bool := decide (lo ≤ a) && decide (a < hbmAddr d 0 + 0x5C0000000) && decide (pcOf (a - lo) / 4 = k)
  { s with mem.hbm := s.mem.hbm.filter (fun c => !there c.1) }

/-- The host reset source asserts (R343, R419), with its reach in force. -/
def hostReset (s : State) : State := assertReset s 11 { level := reachOf s 0 11, die := 0, har := 0 }

/-- The CXL link goes down (R480), which asserts the host reset source. -/
def cxlDown (s : State) : State := hostReset (countF (setF s fCXL_LINK_STAT_up 0 0 0) fCXL_LINK_STAT_down_cnt 0 0)

/-- What a domain loses when its switches open (R198, R212, R411). A harness's regulator and generator stop. An HBM channel group
loses its words when OFF, the fringe its frames, flip-flops and gates, the configuration engine its master copy, a link half its
link, the CXL interface its link, and a port its assembly. The yarn engine and the complex lose their memories only when a power-up
from RET fails (R217). -/
def domLoses (s : State) (d : Die) (i : Nat) (t : DState) : State :=
  if i < 36 then
    let s := if t = .ret then loseRet s d i else loseOff s d i
    setF (setF (setF s fCLK_STAT_locked d i 0) fCLK_STAT_slewing d i 0) fCLK_STAT_freq_now d i 0
  else if i < 48 then
    (List.range 4).foldl (fun s k =>
      let p := d.val * 48 + (i - 36) * 4 + k
      setPort (dropLink (cutFrame s p) p) p { portInit with cut := true }) s
  else if 48 ≤ i ∧ i < 56 ∧ t = .off then loseGroup s d (i - 48)
  else if i = 56 ∧ t = .off then resetFlow s d
  else if i = 59 ∧ t = .off then
    let s := setRt s d { rtInit with mailbox := (getRt s d).mailbox }
    { s with mem.itcm := memClear s.mem.itcm (d.val * 0x100000) 0x100000
             mem.dtcm := memClear s.mem.dtcm (d.val * 0x100000) 0x100000 }
  else if i = 58 then
    { s with fringe := { s.fringe with
        frames := memClear s.fringe.frames (fringeAddr d 0 0) (24832 * 128)
        ffs := dropRangeOf s.fringe.ffs (ffKey d 0 0 false) 98304
        gates := dropRangeOf s.fringe.gates (d.val * 64) 64
        sers := dropRangeOf s.fringe.sers (d.val * 8) 8
        fuseMap := listSet s.fringe.fuseMap d.val true } }
  else if i = 60 then
    { (setImg (setMarch s d marchInit) d { getImg s d with buffers := [] }) with mem.master := memClear s.mem.master (masterAddr d 0 false 0) (72 * 173056) }
  else if i = 61 then setF s fBRD_STAT_lstate d 0 0
  else if i = 62 then cxlDown s
  else s

/-- What a power-up restores in step U5 (R198, R214). -/
def domRestores (s : State) (d : Die) (i : Nat) (was : DState) : State :=
  if i < 36 then loadHarConstants (if was = .ret then s else loadHarDrafts s d i) d i else s

/-- A domain is ON: its request is acknowledged and an event is raised (R216); a target that is no longer ON starts its
shutdown. A watchdog counts again with its cores (R356). A harness whose shutdown was cancelled in D1 never stopped its clock,
which goes on as it was (R200). -/
def domIsOn (s : State) (d : Die) (i : Nat) : State :=
  let m := getDom s d i
  let s := setDom s d i { m with state := .on, step := .none, fast := false, locks := 0 }
  let s := raiseEvent s 0x0E d (BitVec.ofNat 32 i) (domStat s d i)
  let s := if i = 59 then setRt s d { getRt s d with wdtAt := s.vigil.ticks } else s
  let s := if m.goal = .on then endWait s (.domain d i) 0 0 0 else s
  pursue s d i

/-- A power-up has failed (R217): the domain is OFF, with what it still held lost, and a harness is lost. -/
def domFails (s : State) (d : Die) (i err : Nat) : State :=
  let m := getDom s d i
  let s := if m.state = .off then s else domLoses s d i .off
  let s := setDom s d i { m with state := .off, step := .none, fast := false, locks := 0, waiting := false }
  let s := setF s fDOM_STAT_err d i err
  let s := if i < 36 then loseHarness s d i else s
  startUps (endWait s (.domain d i) 6 err 0) d

/-- A domain has reached RET or OFF; a power-up that waits starts at once (R216). -/
def domIsDown (s : State) (d : Die) (i : Nat) : State :=
  let m := getDom s d i
  let s := setDom (domLoses s d i m.fall) d i { m with state := m.fall, step := .none }
  let s := if m.goal = m.fall then endWait s (.domain d i) 0 0 0 else s
  pursue s d i

/-- A step of a domain ends (R214 to R216); `ok` is the outcome of a clock lock. A domain leaves D1 only once drained. -/
def domStep (s : State) (d : Die) (i : Nat) (ok : Bool) : State :=
  let m := getDom s d i
  let go (t : DStep) : State := setDom s d i { m with step := t }
  match m.step with
  | .none => s
  | .u1 => startUps (go .u2) d
  | .u2 => go .u3
  | .u3 => go .u4
  | .u4 =>
    if ok then
      let s := setDom s d i { m with step := if m.fast then .u6 else .u5 }
      if i < 36 then lockClock s d i else s
    else if m.locks = 0 then setDom s d i { m with locks := 1 }
    else domFails s d i 2
  | .u5 => setDom (domRestores s d i m.state) d i { m with step := .u6 }
  | .u6 => domIsOn s d i
  | .d1 =>
    if !quiesced s d i then s
    else if m.goal = .on then domIsOn s d i
    else go .d2
  | .d2 => if m.goal = .on then setDom s d i { m with step := .u4, fast := true, locks := 0 } else go .d3
  | .d3 => if m.fall = .ret then go .d4 else go .d5
  | .d4 => go .d5
  | .d5 => domIsDown s d i

end Sys2Proof.Machine
end

