-- ==== Sys2Proof/Machine/Network.lean ====
section
/-! DEFINITION. The on-chip network: responses and tokens (R227, R228, R231), endpoint proxies (R238, R239), event slots (R232),
route tables (R233), lock-up (R234) and generation switches (R236, R237). What a packet does at its endpoint stands in
`Sys2Proof/Machine/Packets.lean`, and the network's shape in `Sys2Proof/Machine/Endpoints.lean`. -/

namespace Sys2Proof.Machine

/-! ## Senders -/

/-- Who sends a register access, by its source endpoint (R222, R474): the firmware of either die, the debug domain, or
the host interface. -/
def epRequester (src : BitVec 9) (d : Die) : Requester :=
  match epDomain src with
  | some 64 => .selvedge
  | some 62 => .host
  | _ => if epDie src = d then .fwOwn else .fwOther

/-! ## Responses and tokens -/

/-- The packets that a proxy or a switch holds: for the domain with key `k`, for a die (130 + die) those on their way when a
switch runs, and (132 + die) those stamped with the next generation at their senders. -/
def heldPackets (s : State) (k : Nat) : List Packet := sparseGet (fun _ => []) s.net.held k
def setHeld (s : State) (k : Nat) (ps : List Packet) : State :=
  { s with net.held := sparseSet (fun _ => []) s.net.held k ps }
def holdPacket (s : State) (k : Nat) (p : Packet) : State := setHeld s k (heldPackets s k ++ [p])

/-- An endpoint of a die sends a packet, stamped with the generation in force. During a switch it is stamped with the next one and
waits at its first router (R236). -/
def inject (s : State) (d : Die) (p : Packet) : State :=
  let g := flagF s fNOC_STAT_gen d 0
  if flagF s fNOC_STAT_switching d 0 then holdPacket s (132 + d.val) { p with gen := !g }
  else emit s (.packet { p with gen := g })

/-- The response to a packet from a die, with data of as many flits as it takes (R225 to R227). -/
def respondAt (s : State) (d : Die) (p : Packet) (status : Nat) (data : List Byte) : State :=
  inject s d { p with cls := .response, dst := p.src, src := p.dst, addr := 0, status := BitVec.ofNat 5 status,
                      len := BitVec.ofNat 4 ((data.length + 63) / 64 - 1), data := data, poison := false }

/-- The response of a packet's destination. -/
def respond (s : State) (p : Packet) (status : Nat) (data : List Byte) : State := respondAt s (epDie p.dst) p status data

/-- Is a packet answered (R226)? -/
def isAsked (p : Packet) : Bool := decide (p.cls = .request ∨ p.cls = .spill)

/-- The request a packet makes, as its sender keeps it (R231). -/
def awaitOf (p : Packet) : Await :=
  { die := epDie p.src, ep := BitVec.ofNat 8 p.src.toNat, token := p.token, cross := decide (epDie p.src ≠ epDie p.dst) }

/-- Is a token of an endpoint in use (R231)? -/
def tokenUsed (s : State) (d : Die) (ep tok : BitVec 8) : Bool :=
  s.net.awaits.any (fun a => decide (a.die = d) && decide (a.ep = ep) && decide (a.token = tok))

/-- May an endpoint send a packet (R231)? A request or spill-write needs a free token. -/
def maySend (s : State) (p : Packet) : Bool :=
  !isAsked p || !tokenUsed s (epDie p.src) (BitVec.ofNat 8 p.src.toNat) p.token

/-- The sender holds a token until the response has come (R231). -/
def addAwait (s : State) (p : Packet) : State :=
  if isAsked p then { s with net.awaits := s.net.awaits ++ [awaitOf p] } else s

/-- The token returns. -/
def dropAwait (s : State) (d : Die) (ep tok : BitVec 8) : State :=
  { s with net.awaits := s.net.awaits.filter (fun a => !(decide (a.die = d) && decide (a.ep = ep) && decide (a.token = tok))) }

/-- The completion of a request that has no response: a response with a status and no data at its own endpoint (R228, R247). -/
def completion (a : Await) (gen : Bool) (status : Nat) : Packet :=
  { cls := .response, gen := gen, dst := endpointOf a.die a.ep, src := endpointOf a.die a.ep, op := 0, len := 0, token := a.token,
    addr := 0, status := BitVec.ofNat 5 status, write := false, inspect := false, data := [] }

/-! ## Event slots (R232) -/

/-- The slot of a source endpoint and event code at a sink of a die. -/
def slotKey (d : Die) (e : NetEvent) : Nat := ((d.val * 256 + e.sink.toNat) * 512 + e.src.toNat) * 256 + e.code.toNat

/-- What a slot that no event has filled holds. -/
def slotEmpty : Nat → EvSlot := fun _ => { data := 0, full := false, merges := 0 }

/-- An event arrives: it fills its slot, or replaces the data of a full slot and counts the merge. `taken` says that the sink has
taken the slot's earlier event: when it does is a matter of timing (log entry 211). -/
def takeEvent (s : State) (d : Die) (e : NetEvent) (taken : Bool) : State :=
  let k := slotKey d e
  let x := sparseGet slotEmpty s.net.slots k
  let x : EvSlot := { data := e.data, full := true, merges := if x.full && !taken then x.merges + 1 else x.merges }
  { s with net.slots := sparseSet slotEmpty s.net.slots k x }

/-- EVENT_RECEIVE (R232). -/
def execEventReceive (d : Die) (e : NetEvent) (taken : Bool) (s : State) : Host.Outcome State Fault Refusal :=
  .next (takeEvent s d e taken)

/-! ## Endpoint proxies (R238, R239) -/

/-- Does the proxy answer for a domain: from the start of D1 until the end of U6? -/
def proxied (s : State) (d : Die) (i : Nat) : Bool :=
  let m := getDom s d i
  decide (i ≠ 57) && decide (i ≠ 63) && !(decide (m.state = .on) && decide (m.step = .none))

/-- The events a proxy holds. -/
def heldEvents (s : State) (k : Nat) : List NetEvent := sparseGet (fun _ => []) s.net.heldEv k
def setHeldEvents (s : State) (k : Nat) (es : List NetEvent) : State :=
  { s with net.heldEv := sparseSet (fun _ => []) s.net.heldEv k es }

/-- The event that a packet of class event carries: its code and its 60 bytes of data (R226), in this order (log entry 211). -/
def eventOf (p : Packet) : NetEvent :=
  { src := p.src, sink := BitVec.ofNat 8 p.dst.toNat, code := BitVec.ofNat 8 (fieldAt p.data 0 1),
    data := BitVec.ofNat 480 (fieldAt p.data 1 60) }

/-- Do two events share a slot (R232)? -/
def sameSlot (x e : NetEvent) : Bool := decide (x.src = e.src) && decide (x.sink = e.sink) && decide (x.code = e.code)

/-- An event held in its slot (R232, R239): a later one of its slot replaces it and counts the merge. -/
def holdEvent (s : State) (d : Die) (k : Nat) (e : NetEvent) : State :=
  let merged := (heldEvents s k).any (fun x => sameSlot x e)
  let s := setHeldEvents s k ((heldEvents s k).filter (fun x => !sameSlot x e) ++ [e])
  if merged then
    let x := sparseGet slotEmpty s.net.slots (slotKey d e)
    let x := { x with merges := x.merges + 1 }
    { s with net.slots := sparseSet slotEmpty s.net.slots (slotKey d e) x }
  else s

/-- The host accesses to lines of the host-managed window that a proxy holds. -/
def heldLines (s : State) (k : Nat) : List HeldLine := sparseGet (fun _ => []) s.net.heldHdm k
def setHeldLines (s : State) (k : Nat) (ls : List HeldLine) : State :=
  { s with net.heldHdm := sparseSet (fun _ => []) s.net.heldHdm k ls }

/-- What a proxy does with a packet that reaches it (R239), where a response's token has been returned in D1: at most 64 packets
are held, and further ones wait in the network behind them. -/
def proxyAnswer (s : State) (d : Die) (i : Nat) (p : Packet) : State :=
  let woa := flagF s fDOM_CTL_woa d i
  let k := domKey d i
  match p.cls with
  | .response => s
  | .event =>
    if woa then setTarget (holdEvent s d k (eventOf p)) d i .on else countF s fPROXY_STAT_ev_drop d i
  | .request | .spill =>
    if woa then setTarget (holdPacket s k p) d i .on
    else countF (respond s p 1 []) fPROXY_STAT_asleep d i

/-- The accesses of the Diagnostic Window and the debug port that a proxy holds. -/
def heldAccs (s : State) (k : Nat) : List HeldAcc := sparseGet (fun _ => []) s.net.heldAcc k
def setHeldAccs (s : State) (k : Nat) (as : List HeldAcc) : State :=
  { s with net.heldAcc := sparseSet (fun _ => []) s.net.heldAcc k as }

/-- The answer to an access that the model holds back until the domain is ON: no status of R227. -/
def heldStatus : Nat := 32

/-- What a proxy answers to an access for a domain that is not ON (R239): ASLEEP, counted, or the access is held and the domain
woken. -/
def proxyAccess (s : State) (d : Die) (i : Nat) (a : HeldAcc) : State × Nat × Word :=
  let k := domKey d i
  if flagF s fDOM_CTL_woa d i then (setTarget (setHeldAccs s k (heldAccs s k ++ [a])) d i .on, heldStatus, 0)
  else (countF s fPROXY_STAT_asleep d i, 1, 0)

/-! ## Lock-up, routes and generations -/

/-- NETWORK_LOCKUP (R234): the network lock-up source asserts. -/
def execNetworkLockup (d : Die) (s : State) : Host.Outcome State Fault Refusal :=
  .next (assertReset s 10 { level := reachOf s d 10, die := d, har := 0 })

/-- The key of a route table entry: generation, router and entry. -/
def routeKey (d : Die) (gen router entry : Nat) : Nat := ((d.val * 2 + gen) * 42 + router) * 64 + entry

/-- The entry that a requester has selected (R249, R474). -/
def routeSel (s : State) (rq : Requester) (d : Die) : Nat :=
  routeKey d (getF s fNOC_RT_SEL_gen d (selInst rq 0)) (getF s fNOC_RT_SEL_router d (selInst rq 0))
    (getF s fNOC_RT_SEL_entry d (selInst rq 0))

/-- A write of NOC_RT_DATA: link 6 is reserved (R11, R249). -/
def routeWrite (s : State) (rq : Requester) (d : Die) (v : Word) : State :=
  let l := bitsOf v.toNat 2 0
  if hostBarred rq || decide (l = 6) then s
  else { s with net.routes := sparseSet (fun _ => 0) s.net.routes (routeSel s rq d) (BitVec.ofNat 3 l) }

/-- The selected entry's link. -/
def routeRead (s : State) (rq : Requester) (d : Die) : Word :=
  BitVec.ofNat 32 (sparseGet (fun _ => (0 : BitVec 3)) s.net.routes (routeSel s rq d)).toNat

/-- A write of NOC_CTL.sw_start, ignored while a switch runs (R236). -/
def genSwitchStart (s : State) (rq : Requester) (d : Die) : State :=
  if hostBarred rq || flagF s fNOC_STAT_switching d 0 then s
  else setF { s with net.switched := s.net.switched.filter (fun e => decide (e.1 ≠ d.val)) } fNOC_STAT_switching d 0 1

/-- GEN_SWITCH_START (R236). -/
def execGenSwitchStart (rq : Requester) (d : Die) (s : State) : Host.Outcome State Fault Refusal :=
  .next (genSwitchStart s rq d)

/-- The tables of a generation of a die: the output link of a router for an entry (R233). -/
def routeTab (s : State) (d : Die) (gen : Bool) (r e : Nat) : Nat :=
  (sparseGet (fun _ => (0 : BitVec 3)) s.net.routes (routeKey d (bitN gen) r e)).toNat

/-- Does a packet name a router of the die that it does not have (R220, R222)? -/
def noRouter (d : Die) (p : Packet) : Bool := decide (epDie p.dst = d) && decide (42 ≤ epRouter p.dst)

/-- The table entry of a packet in the network of a die (R233). -/
def entryFor (d : Die) (p : Packet) : Nat := if epDie p.dst = d then epRouter p.dst else 42

/-- The router at which a packet enters the network of a die: its sender's, or the link half's. -/
def entersAt (d : Die) (p : Packet) : Nat := if epDie p.src = d then epRouter p.src else 18

/-- Do the tables of a packet's generation bring it through the network of a die (R233)? -/
def routed (s : State) (d : Die) (p : Packet) : Bool :=
  (walkRoute (routeTab s d p.gen) (entryFor d p) 42 (entersAt d p)).isSome

/-- Does a router hold a packet of a generation that the tables bring nowhere? -/
def strayAt (s : State) (d : Die) (r : Nat) (gen : Bool) : Bool :=
  s.net.stray.any (fun e => decide (e.1 = d) && decide (e.2.gen = gen) &&
    (visited (routeTab s d gen) (entryFor d e.2) 42 (entersAt d e.2)).contains r)

/-- GEN_SWITCH_ROUTER (R236): a router holds no flit of the old generation and switches. -/
def execGenSwitchRouter (d : Die) (r : Fin 42) (s : State) : Host.Outcome State Fault Refusal :=
  .next (if flagF s fNOC_STAT_switching d 0 && !s.net.switched.contains (d.val, r.val) &&
      !strayAt s d r.val (flagF s fNOC_STAT_gen d 0) then
      { s with net.switched := s.net.switched ++ [(d.val, r.val)] }
    else s)

/-- Have all the routers of a die switched? -/
def allSwitched (s : State) (d : Die) : Bool := (List.range 42).all (fun r => s.net.switched.contains (d.val, r))

/-- GEN_SWITCH_LATE (R237): a switch that takes longer than 5 µs goes on; the event names the first router that has not
switched. -/
def execGenSwitchLate (d : Die) (s : State) : Host.Outcome State Fault Refusal :=
  .next (if flagF s fNOC_STAT_switching d 0 then
      let s := setF s fNOC_STAT_gen_late d 0 1
      let r := ((List.range 42).find? (fun r => !s.net.switched.contains (d.val, r))).getD 0
      raiseEvent s 0x0F d (BitVec.ofNat 32 r) (regRaw s .NOC_STAT d 0)
    else s)

end Sys2Proof.Machine
end

