-- ==== Sys2Proof/Machine/Bredan.lean ====
section
/-! DEFINITION. The Bredan link (R241 to R249): frames, their lanes and their trailer, the flits sent, retry, training and width,
the link DOWN and split operation (R22, R247), and the rejoin event (R248, R179). What arrives over the link stands in
`Sys2Proof/Machine/Packets.lean`. -/

namespace Sys2Proof.Machine

/-! ## Link states (R249) -/

def linkState (s : State) (d : Die) : Nat := getF s fBRD_STAT_lstate d 0
def linkUp (s : State) (d : Die) : Bool := decide (linkState s d = 2 ∨ linkState s d = 3)

/-- Raise the link event of a half (R341). -/
def linkEvent (s : State) (d : Die) : State := raiseEvent s 0x10 d 0 (regRaw s .BRD_STAT d 0)

/-! ## Split operation (R22, R247) -/

/-- The die at which a producer or consumer of a bobbin stands (R21). -/
def endDie (s : State) (b : Bob) (t : EndType) (id : Nat) : Die :=
  match t with
  | .yarn => if (getYarn s b.die id).state = .free then otherDie b.die else b.die
  | .port => if id < 48 then 0 else 1
  | .gate => if id < 64 then 0 else 1
  | .host => 0

/-- Is a yarn of a die a crossing yarn (R21)? -/
def crossing (s : State) (d : Die) (y : Yarn) : Bool :=
  decide (y.prot ≠ 2) && ((y.ins.filterMap id) ++ (y.outs.filterMap (fun o => o.map (fun x => x.bob)))).any
    (fun b => decide ((getBob s b).state ≠ .free) && decide ((getBob s b).die ≠ d))

/-- Mark the bobbins whose producer or consumer lies on the other die. -/
def cutBobs (s : State) (on : Bool) : State :=
  s.flow.bobs.foldl (fun s e =>
    if e.1 < 65536 ∧ e.2.state ≠ .free then
      modBob s e.1 (fun b =>
        { b with prodCut := on && decide (endDie s b b.prod b.prodId.toNat ≠ b.die)
                 consCut := on && decide (endDie s b b.cons b.consId.toNat ≠ b.die) })
    else s) s

/-- Does a yarn in REPLAY wait for items that a yarn of the other die would have to regenerate? -/
def cutOff (s : State) (y : Yarn) : Bool :=
  decide (y.state = .replay) && (y.ins.filterMap id).any (fun b => decide ((getBob s b).prod = .yarn) && (getBob s b).prodCut)

/-- The dies run split (R22): each crossing yarn stops at its next item boundary; one in REPLAY first catches up. One whose replay
needs items of the other die cannot: it stops like one with a journal gap (R185; DEDUCED, log entry 203). -/
def splitApart (s : State) : State :=
  let s := cutBobs s true
  [(0 : Die), 1].foldl (fun s d => (yarnsOn s d).foldl (fun s e =>
    let st := e.2.state
    if cutOff s e.2 then stopYarn (rplLast s d 3 9 e.1) d e.1 3
    else if crossing s d e.2 && (decide (st = .run) || decide (st = .hold) || decide (st = .replay)) then
      settleYarn (modYarn s d e.1 (fun y => { y with splitReq := true })) d e.1
    else s) s) s

/-- RPL_LAST records the failure of the link with the first crossing yarn of each die and result 0 (R189, R196; DESIGN CHOICE, log
entry 204). -/
def linkLast (s : State) : State :=
  [(0 : Die), 1].foldl (fun s d =>
    rplLast s d 0 8 (((yarnsOn s d).find? (fun e => crossing s d e.2)).map (fun e => e.1) |>.getD 0)) s

/-- The dies run together again: bobbins are reached, and yarns that stopped for the split return to RUN (R128, R248). -/
def joinAgain (s : State) : State :=
  let s := cutBobs s false
  [(0 : Die), 1].foldl (fun s d => (yarnsOn s d).foldl (fun s e =>
    if e.2.state = .split then enterRun s d e.1
    else modYarn s d e.1 (fun y => { y with splitReq := false })) s) s

/-- Has the request not reached the link half yet: is it held at a router for a switch, at the proxy of the half, or strayed (R236,
R239)? It is answered when it reaches the half. -/
def heldBack (s : State) (a : Await) : Bool :=
  let mine (p : Packet) : Bool := isAsked p && decide (awaitOf p = a)
  ((heldPackets s (130 + a.die.val) ++ heldPackets s (132 + a.die.val) ++ heldPackets s (domKey a.die 61)).any mine) ||
    s.net.stray.any (fun e => decide (e.1 = a.die) && mine e.2)

/-- Answer every request that was forwarded and has no response with UNREACHABLE (R247 step 1). -/
def answerCross (s : State) : State :=
  let gone := s.net.awaits.filter (fun a => a.cross && !heldBack s a)
  let s := { s with net.awaits := s.net.awaits.filter (fun a => !gone.contains a) }
  gone.foldl (fun s a => inject s a.die (completion a false 2)) s

/-- The responses and events that wait in a half to be sent: the headers of their flits, each packet once. -/
def unsent (b : BrdSt) : List (BitVec 64) :=
  ((b.txq.filter (fun f => decide (flitClass f = 1 ∨ flitClass f = 3))).map flitHeader).dedup

/-- A half that goes DOWN discards the packets it has not sent, counting the responses and events, and the flits of packets that
it has not received whole (R247 steps 2 and 3). -/
def dropUnsent (s : State) (d : Die) : State :=
  let b := getBrd s d
  let s := (unsent b).foldl (fun s _ => countF s fBRD_ERR_down_cnt d 0) s
  setBrd s d { getBrd s d with txq := [], waitq := [], rxq := [] }

/-- One half goes DOWN. -/
def halfDown (s : State) (d : Die) : State :=
  if linkState s d = 0 then setF s fBRD_STAT_split d 0 1
  else
    let s := setF (setF (setF s fBRD_STAT_lstate d 0 0) fBRD_STAT_split d 0 1) fBRD_STAT_rejoin_pend d 0 0
    linkEvent (dropUnsent (countF s fBRD_ERR_down_cnt d 0) d) d

/-- The link goes DOWN (R247); a rejoin that has not come to its boundary begins again with a new event (R248). -/
def linkDown (s : State) : State :=
  if linkState s 0 = 0 ∧ linkState s 1 = 0 then s
  else
    let s := splitApart (linkLast (answerCross (halfDown (halfDown s 0) 1)))
    modBeat (setBrd s 0 { getBrd s 0 with rejoinEv := none }) 1 (fun b => { b with rejoinMod := none })

/-! ## Frames (R241, R242) -/

/-- A field of a frame's trailer. -/
def trailer (f : BitVec 4320) (hi lo : Nat) : Nat := bitsOf f.toNat (4032 + hi) (4032 + lo)

/-- The check sum of a frame: over its bits 4,287 to 0 as bytes from bit 0 up. -/
def frameCrc (n : Nat) : Nat := crc32c (leBytes 536 (n % 2 ^ 4288))

/-- Does a frame's crc hold? -/
def frameOk (f : BitVec 4320) : Bool := decide (frameCrc f.toNat = trailer f 287 256)

/-- The flits of a frame, in the order of the slots. -/
def frameFlits (f : BitVec 4320) : List (BitVec 576) :=
  ((List.range 7).filter (fun i => bitOf (trailer f 32 26) i)).map (fun i => BitVec.ofNat 576 (bitsOf f.toNat (576 * i + 575) (576 * i)))

/-- A frame's trailer without its crc (R242): its sequence number, acknowledgement, the slots that hold flits, the credits returned
for each class, and a beat boundary with its unit interval and number. -/
def trailerOf (seq ack ackType slots : Nat) (cr : List Nat) (bnd : Option (Nat × Nat)) : Nat :=
  seq % 4096 + ack % 4096 * 2 ^ 12 + ackType % 4 * 2 ^ 24 + (2 ^ slots - 1) % 128 * 2 ^ 26 + cr.getD 0 0 % 32 * 2 ^ 33 +
    cr.getD 1 0 % 32 * 2 ^ 38 + cr.getD 2 0 % 32 * 2 ^ 43 + cr.getD 3 0 % 32 * 2 ^ 48 +
    (match bnd with
      | some (ui, n) => 2 ^ 53 + ui % 512 * 2 ^ 54 + n % 65536 * 2 ^ 63
      | none => 0)

/-- A frame: the flits from slot 0 on, the trailer, and the crc over the bits below it (R241, R242). -/
def makeFrame (flits : List (BitVec 576)) (tr : Nat) : BitVec 4320 :=
  let n := flits.foldr (fun f v => f.toNat + 2 ^ 576 * v) 0 + tr * 2 ^ 4032
  BitVec.ofNat 4320 (n + frameCrc n * 2 ^ 4288)

/-! ## Lanes (R241, R245) -/

/-- One step of a lane's scrambler, x³¹ + x²⁸ + 1: the bit it adds and its next state. -/
def prbsStep (x : BitVec 31) : Bool × BitVec 31 :=
  let b := x.getLsbD 30 != x.getLsbD 27
  (b, BitVec.ofNat 31 (x.toNat * 2 + bitN b))

/-- The bits of a lane with its scrambler's sequence added, the first in bit 0, and the scrambler's state after them. -/
def scramble (bits : Nat → Bool) : Nat → BitVec 31 → Nat × BitVec 31
  | 0, x => (0, x)
  | n + 1, x =>
    let r := prbsStep x
    let q := scramble (fun i => bits (i + 1)) n r.2
    (bitN (bits 0 != r.1) + 2 * q.1, q.2)

/-- The lanes in use: 24, or the 12 of the set in use from its first (R245). -/
def lanesInUse (s : State) (d : Die) : List Nat :=
  if linkState s d = 3 then (List.range 12).map (fun k => k + 12 * getF s fBRD_STAT_half_sel d 0) else List.range 24

/-- Send a frame over the lanes: frame bit j goes on lane j mod n of the n in use, at unit interval j / n (R241, R245). -/
def sendLine (s : State) (d : Die) (f : BitVec 4320) : State :=
  let b := getBrd s d
  let ls := lanesInUse s d
  let n := ls.length
  let rs := (List.range n).map (fun k => scramble (fun u => f.getLsbD (u * n + k)) (4320 / n) (b.prbs.getD (ls.getD k 0) 0))
  let prbs := (List.range 24).map (fun l => match ls.findIdx? (· = l) with
    | some k => (rs.getD k (0, 0)).2
    | none => b.prbs.getD l 0)
  emit (setBrd s d { b with prbs := prbs }) (.link d f (rs.map (fun r => r.1)))

/-! ## Sending (R242 to R244) -/

/-- Take up to `n` flits from the queue, each while a credit for its class is held (R242): those taken, those left, and the credits
left. Flits of one class keep their order, and none waits for another class's credit (R229). -/
def pickFlits : Nat → List Nat → List (BitVec 576) → List (BitVec 576) × List (BitVec 576) × List Nat
  | _, cr, [] => ([], [], cr)
  | n, cr, f :: q =>
    let c := flitClass f
    if n = 0 ∨ cr.getD c 0 = 0 then
      let r := pickFlits n cr q
      (r.1, f :: r.2.1, r.2.2)
    else
      let r := pickFlits (n - 1) (listSet cr c (cr.getD c 0 - 1)) q
      (f :: r.1, r.2.1, r.2.2)

/-- The unit interval of a beat boundary within its frame, which is a matter of timing: a free value below the frame's 180 unit
intervals, or 360 at half width (R242, log entry 4). -/
def boundaryUi (s : State) (d : Die) : Nat := (Config.freeWord s.free).toNat % (4320 / (lanesInUse s d).length)

/-- A half sends its next frame, unless 64 frames are unacknowledged (R244); a NAK or an acknowledgement then goes with the next
frame it sends. -/
def sendFrame (s : State) (d : Die) (ackType : Nat) : State :=
  let b := getBrd s d
  let typ := if b.nakDue then 2 else if b.ackDue && decide (ackType = 0) then 1 else ackType
  if 64 ≤ b.unacked.length then setBrd s d { b with nakDue := decide (typ = 2), ackDue := b.ackDue || decide (typ = 1) }
  else
    let r := pickFlits 7 b.credits b.txq
    let cr := b.crDue.map (fun c => min 31 c)
    let f := makeFrame r.1 (trailerOf b.sendSeq.toNat (b.nextSeq - 1).toNat typ r.1.length cr
      (b.bnd.map (fun n => (boundaryUi s d, n.toNat))))
    let b := { b with sendSeq := b.sendSeq + 1, unacked := b.unacked ++ [f], nakDue := false, ackDue := false, credits := r.2.2, txq := r.2.1,
                      crDue := b.crDue.map (fun c => c - min 31 c), bnd := none }
    sendLine (setBrd { s with free := s.free + 1 } d b) d f

/-- May a half send flits now: it is up, holds fewer than 63 frames, and has a flit whose class has a credit? The last of the 64
places is left to an acknowledgement, so that two halves that are both full go on (R235, R244; DESIGN CHOICE, log entry 252). -/
def flitsReady (s : State) (d : Die) : Bool :=
  let b := getBrd s d
  linkUp s d && decide (b.unacked.length < 63) && decide ((pickFlits 7 b.credits b.txq).1 ≠ [])

/-- Send frames while there are flits to send; `n` bounds them. -/
def sendFlitsN : Nat → State → Die → State
  | 0, s, _ => s
  | n + 1, s, d => if flitsReady s d then sendFlitsN n (sendFrame s d 0) d else s

/-- Send the flits that wait, as far as credits and the retry buffer allow. -/
def sendFlits (s : State) (d : Die) : State := sendFlitsN (getBrd s d).txq.length s d

/-- The requests that a half has forwarded and whose responses it awaits (R247). -/
def tracked (s : State) (d : Die) : Nat :=
  (s.net.awaits.filter (fun a => decide (a.die = d) && a.cross)).length - (getBrd s d).waitq.length

/-- The flits of a packet go to the half's queue; that a router has marked it poisoned is known to the other half (R228; DESIGN
CHOICE, log entry 255). -/
def queueFlits (b : BrdSt) (p : Packet) : BrdSt :=
  { b with txq := b.txq ++ flitsOf p, marked := if p.poison then b.marked ++ [headerOf p] else b.marked }

/-- A half forwards a packet (R247): it tracks up to 1,024 requests, and further ones wait, in their order (R230). -/
def forwardPacket (s : State) (d : Die) (p : Packet) : State :=
  let b := getBrd s d
  if isAsked p && (decide (1024 < tracked s d) || decide (b.waitq ≠ [])) then setBrd s d { b with waitq := b.waitq ++ [p] }
  else sendFlits (setBrd s d (queueFlits b p)) d

/-- A token of a request to the other die has returned: the first request that waits is forwarded. -/
def forwardNext (s : State) (d : Die) : State :=
  let b := getBrd s d
  match b.waitq with
  | [] => s
  | p :: ps =>
    if tracked s d < 1024 then sendFlits (setBrd s d (queueFlits { b with waitq := ps } p)) d else s

/-- REQUEST_TIMEOUT (R228): the request completes with ERROR, and its token is free. -/
def execRequestTimeout (d : Die) (ep : BitVec 8) (token : BitVec 8) (s : State) : Host.Outcome State Fault Refusal :=
  .next (match s.net.awaits.find? (fun a => a.die = d ∧ a.ep = ep ∧ a.token = token) with
    | none => s
    | some a => forwardNext (emit (dropAwait s d ep token) (.packet (completion a (flagF s fNOC_STAT_gen d 0) 3))) d)

/-- What a proxy does with a packet, with the token of a discarded response returned and the next request forwarded (R239, R247). -/
def proxyTake (s : State) (d : Die) (i : Nat) (p : Packet) : State :=
  let s := proxyAnswer s d i p
  if p.cls = .response then forwardNext (dropAwait s (epDie p.dst) (BitVec.ofNat 8 p.dst.toNat) p.token) (epDie p.dst) else s

/-- PROXY_PACKET (R239). -/
def execProxyPacket (d : Die) (i : DomIx) (p : Packet) (s : State) : Host.Outcome State Fault Refusal :=
  .next (if domExists d i && proxied s d i && maySend s p then proxyTake (addAwait s p) d i p else s)

/-- Send every unacknowledged frame again (R244, R246), as it was, with the trailer that it had (DESIGN CHOICE, log entry 254). -/
def resend (s : State) (d : Die) : State := (getBrd s d).unacked.foldl (fun s f => sendLine s d f) s

/-- The frames after the acknowledged one stay in the retry buffer. -/
def dropAcked (ack : Nat) (fs : List (BitVec 4320)) : List (BitVec 4320) :=
  if fs.any (fun f => decide (trailer f 11 0 = ack)) then (fs.dropWhile (fun f => decide (trailer f 11 0 ≠ ack))).drop 1
  else fs

/-- Take the acknowledgement, the credits and the beat boundary of a frame received in order (R242, R244). -/
def takeTrailer (s : State) (d : Die) (f : BitVec 4320) : State :=
  let b := getBrd s d
  let ack := trailer f 23 12
  let typ := trailer f 25 24
  let cr := [trailer f 37 33, trailer f 42 38, trailer f 47 43, trailer f 52 48]
  let back := (List.range 4).map (fun i => min 32 (b.credits.getD i 0 + cr.getD i 0))
  let seen := if trailer f 53 53 = 1 then some (BitVec.ofNat 16 (trailer f 78 63), BitVec.ofNat 9 (trailer f 62 54)) else b.bndSeen
  let s := setBrd s d { b with unacked := if typ = 1 ∨ typ = 2 then dropAcked ack b.unacked else b.unacked, credits := back,
                               bndSeen := seen }
  if typ = 2 then resend (countF s fBRD_ERR_nak_cnt d 0) d else s

/-- The credits to return, with those for flits taken (R242). -/
def creditsFor (due : List Nat) (fs : List (BitVec 576)) : List Nat :=
  (List.range 4).map (fun c => due.getD c 0 + (fs.filter (fun f => decide (flitClass f = c))).length)

/-! ## Retrain and training (R245, R246) -/

/-- Start a retrain of the link (R246): both halves take part. -/
def startRetrain (s : State) : State :=
  [(0 : Die), 1].foldl (fun s d =>
    if linkUp s d then countF (setF s fBRD_STAT_lstate d 0 4) fBRD_ERR_retrain_cnt d 0 else s) s

/-- The width that a set of good lanes gives: all 24, or half of them and which half (R245); `half` says that full width
may not be taken. -/
def widthFor (lanes : BitVec 24) (half : Bool) : Option (Bool × Bool) :=
  let n := lanes.toNat
  if n = 2 ^ 24 - 1 ∧ !half then some (false, false)
  else if bitsOf n 11 0 = 4095 then some (true, false)
  else if bitsOf n 23 12 = 4095 then some (true, true)
  else none

/-- What each receiving half found in the last training (R245, R249): `near` on die `d`, and `far` on the other. -/
def showLanes (s : State) (d : Die) (near far : BitVec 24) : State :=
  setF (setF s fBRD_STAT_lane_ok d 0 near.toNat) fBRD_STAT_lane_ok (otherDie d) 0 far.toNat

/-- A half enters UP or UP_HALF; each lane's scrambler starts from the lane's number (R241). -/
def halfUp (s : State) (d : Die) (w : Bool × Bool) : State :=
  let s := setF (setF s fBRD_STAT_lstate d 0 (if w.1 then 3 else 2)) fBRD_STAT_half_sel d 0 (bitN w.2)
  setBrd s d { getBrd s d with width12 := w.1, naks := 0, waitSeq := false, prbs := brdInit.prbs }

/-- A retrain ends (R245, R246): the link is up at the width that the lanes good in both directions allow, and each half sends on
from what was acknowledged. After three that fail within 1 ms the link goes DOWN (R247). -/
def retrainDone (s : State) (d : Die) (near far : BitVec 24) : State :=
  if linkState s d ≠ 4 then s
  else
    let s := showLanes s d near far
    let b := getBrd s d
    match widthFor (near &&& far) b.width12 with
    | some w =>
      let s := [(0 : Die), 1].foldl (fun s x => if linkState s x = 4 then sendFlits (resend (halfUp s x w) x) x else s) s
      linkEvent s d
    | none =>
      let fails := (b.retrains.filter (fun t => decide (s.vigil.ticks < t + 25000))) ++ [s.vigil.ticks]
      let s := [(0 : Die), 1].foldl (fun s x => setBrd s x { getBrd s x with retrains := fails }) s
      if 3 ≤ fails.length then linkDown s
      else [(0 : Die), 1].foldl (fun s x => if linkState s x = 4 then countF s fBRD_ERR_retrain_cnt x 0 else s) s

/-- BREDAN_RETRAIN_DONE (R246): `near` are the lanes that the receiving half of the die found good, and `far` those of the other. -/
def execBredanRetrainDone (d : Die) (near far : BitVec 24) (s : State) : Host.Outcome State Fault Refusal :=
  .next (retrainDone s d near far)

/-- Does a half train: it is not held down, and its domain is ON? -/
def mayTrain (s : State) (d : Die) : Bool := !flagF s fBRD_CTL_hold_down d 0 && domTakes s d 61

/-- A half starts anew after training (R245): what waits to be sent, and the failed retrains, stay. -/
def freshHalf (b : BrdSt) : BrdSt := { brdInit with retrains := b.retrains, marked := b.marked, txq := b.txq, waitq := b.waitq, bnd := b.bnd }

/-- Die 0 sends the rejoin event with its beat number (R179, R248). -/
def sendRejoin (s : State) : State :=
  let n := beatNum s 0
  emit (setBrd s 0 { getBrd s 0 with rejoinEv := some n }) (.rejoin n)

/-- A training attempt (R245, R248): from TRAIN, or from DOWN once every 1 ms. A success resets the sequence numbers; after
a split only events cross until the rejoin boundary. A failure leaves the link DOWN. A link that had trained to UP_HALF stays at
half width unless a half has been reset since (R246). -/
def trainAttempt (s : State) (d : Die) (near far : BitVec 24) : State :=
  let st (x : Die) : Bool := decide (linkState s x = 0 ∨ linkState s x = 1)
  if !st 0 || !st 1 || !mayTrain s 0 || !mayTrain s 1 then s
  else
    let s := showLanes s d near far
    match widthFor (near &&& far) ((getBrd s 0).width12 && (getBrd s 1).width12) with
    | none => linkDown s
    | some w =>
      let wasSplit := apart s || flagF s fBRD_STAT_split 0 0 || flagF s fBRD_STAT_split 1 0
      let s := [(0 : Die), 1].foldl (fun s x =>
        let s := halfUp (setBrd s x (freshHalf (getBrd s x))) x w
        sendFlits (if wasSplit then setF s fBRD_STAT_rejoin_pend x 0 1 else s) x) s
      linkEvent (if wasSplit then sendRejoin s else s) d

/-- BREDAN_TRAIN_ATTEMPT (R248): the lanes as for BREDAN_RETRAIN_DONE. -/
def execBredanTrainAttempt (d : Die) (near far : BitVec 24) (s : State) : Host.Outcome State Fault Refusal :=
  .next (trainAttempt s d near far)

/-- BREDAN_NO_FRAME (R246): no valid frame for 1 µs. -/
def execBredanNoFrame (d : Die) (s : State) : Host.Outcome State Fault Refusal :=
  .next (if linkUp s d then startRetrain s else s)

/-- The lanes in use (R245). -/
def laneUsed (s : State) (d : Die) (lane : Nat) : Bool :=
  linkState s d = 2 || decide ((12 ≤ lane) ↔ flagF s fBRD_STAT_half_sel d 0 = true)

/-- BREDAN_LANE_ALIGNMENT_LOSS (R246): block alignment is lost on a lane in use. -/
def execBredanLaneAlignmentLoss (d : Die) (lane : Fin 24) (s : State) : Host.Outcome State Fault Refusal :=
  .next (if linkUp s d && laneUsed s d lane.val then startRetrain s else s)

/-- BRD_RETRAIN (R246): a requested retrain may return to full width. -/
def brdRetrain (s : State) : State :=
  startRetrain ([(0 : Die), 1].foldl (fun s x => setBrd s x { getBrd s x with width12 := false }) s)

/-- BRD_RETRAIN (R246): a write of BRD_CTL.retrain. -/
def execBrdRetrain (_rq : Requester) (d : Die) (s : State) : Host.Outcome State Fault Refusal :=
  .next (if linkUp s d then brdRetrain s else s)

/-- Write BRD_CTL.hold_down (R247). -/
def holdDownWrite (s : State) (d : Die) (v : Bool) : State :=
  let s := setF s fBRD_CTL_hold_down d 0 (bitN v)
  if v then linkDown s else s

/-- BRD_HOLD_DOWN (R247). -/
def execBrdHoldDown (_rq : Requester) (d : Die) (v : Bool) (s : State) : Host.Outcome State Fault Refusal :=
  .next (holdDownWrite s d v)

/-! ## Receiving (R244) -/

/-- A frame fails its crc or is out of sequence: it is discarded, and the half asks once for what it misses; the eighth
NAK in a row starts a retrain (R246). -/
def refuseFrame (s : State) (d : Die) (again : Bool) : State :=
  let b := getBrd s d
  if b.waitSeq && !again then s
  else
    let s := sendFrame (setBrd s d { b with waitSeq := true, naks := b.naks + 1 }) d 2
    if 8 ≤ b.naks + 1 then startRetrain s else s

/-! ## Rejoin (R179, R248) -/

/-- REJOIN_EVENT (R179): die 1 takes the event that die 0 has sent. It learns which boundaries of die 0 may be its rejoin boundary,
by their number modulo 3; a die 1 whose beat engine does not run takes the next one (3). -/
def execRejoinEvent (s : State) : Host.Outcome State Fault Refusal :=
  .next (if flagF s fBRD_STAT_rejoin_pend 0 0 && flagF s fBRD_STAT_rejoin_pend 1 0 && linkUp s 1 && (getBrd s 0).rejoinEv.isSome then
      modBeat (setBrd s 0 { getBrd s 0 with rejoinEv := none }) 1
        (fun b => { b with rejoinMod := some (if b.started then ((beatNum s 1).toNat + 1) % 3 else 3) })
    else s)

end Sys2Proof.Machine
end

