-- ==== Sys2Proof/Machine/Memories.lean ====
section
/-! DEFINITION. Bank collisions (R253), HBM temperature and rates (R264), patrol scrub (R262) and retirement copies
(R266), and the march test engine with what the firmware does on its failures (R268 to R272). -/

namespace Sys2Proof.Machine

/-! ## Bank memories -/

/-- BANK_COLL_CLEAR (R273): a write of BANK_CTL.clr. -/
def execBankCollClear (_rq : Requester) (d : Die) (h : Harn) (s : State) : Host.Outcome State Fault Refusal :=
  .next (setReg s .BANK_COLL d h 0)

/-- Both ports write a word: port B's write is lost, the bank's count rises, and one collision event is raised in each
beat if it is asked for (R253). -/
def collide (s : State) (d : Die) (h off : Nat) : State :=
  let b := off / 256 % 8
  let v := (regRaw s .BANK_COLL d h).toNat
  let c := bitsOf v (4 * b + 3) (4 * b)
  if 15 ≤ c then s
  else
    let s := setReg s .BANK_COLL d h (BitVec.ofNat 32 (putBits v (4 * b + 3) (4 * b) (c + 1)))
    let ord := (getBeat s d).ord
    if flagF s fBANK_CTL_coll_ev d h && decide ((getHar s d h).collBeat ≠ some ord) then
      raiseEvent (modHar s d h (fun a => { a with collBeat := some ord })) 0x13 d (BitVec.ofNat 32 h)
        (regRaw s .BANK_COLL d h)
    else s

/-! ## HBM temperature and rates (R264) -/

/-- The band of a temperature. -/
def bandOf (t : Int) : Nat := if t ≤ 85 then 0 else if t ≤ 95 then 1 else if t ≤ 105 then 2 else if t ≤ 110 then 3 else 4

/-- The lower edge of the band above an index. -/
def bandEdge (i : Nat) : Int := [85, 95, 105, 110].getD i 0

/-- The data rate and refresh codes of a band. -/
def bandRate (b : Nat) : Nat := [0, 0, 1, 1, 2].getD b 0
def bandRefresh (b : Nat) : Nat := [0, 1, 1, 2, 2].getD b 0

/-- Since when every reading has lain 3 °C below each edge. -/
def coolSince (now : Nat) (t : Int) (old : List (Option Nat)) : List (Option Nat) :=
  (List.range 4).map (fun i => if t ≤ bandEdge i - 3 then some ((old.getD i none).getD now) else none)

/-- How far the band may fall: every edge between has been clear for 100 ms. -/
def coolTo (now : Nat) (since : List (Option Nat)) (low : Nat) : Nat → Nat
  | 0 => 0
  | b + 1 =>
    if b + 1 ≤ low then b + 1
    else match since.getD b none with
      | some t => if t + 2500000 ≤ now then coolTo now since low b else b + 1
      | none => b + 1

/-- Begin a change of the data rate when the band asks for one and none runs (R264). -/
def startRate (s : State) (d : Die) : State :=
  if flagF s fHBM_STAT_changing d 0 || decide (bandRate (getHbm s d).band = getF s fHBM_STAT_rate d 0) then s
  else setHbm (setF s fHBM_STAT_changing d 0 1) d { getHbm s d with groups := 0 }

/-- A reading that the register's eight signed bits do not hold is shown as a free value (log entry 4). -/
def showTemp (s : State) (d : Die) (t : Int) : State :=
  if -128 ≤ t ∧ t ≤ 127 then setF s fHBM_STAT_temp d 0 (unsigned 8 t)
  else let r := freeValue s; setF r.2 fHBM_STAT_temp d 0 (r.1.toNat % 256)

/-- A reading of the hottest sensor of a stack (R264). -/
def tempRead (s : State) (d : Die) (t : Int) : State :=
  let s := showTemp s d t
  if 135 < t then assertReset s 12 { level := reachOf s 0 12, die := d, har := 0 }
  else
    let m := getHbm s d
    let since := coolSince s.vigil.ticks t m.coolAt
    let b := bandOf t
    let b := if m.band ≤ b then b else coolTo s.vigil.ticks since b m.band
    let s := setHbm s d { m with band := b, coolAt := since }
    startRate (setF s fHBM_STAT_refresh d 0 (bandRefresh b)) d

/-- HBM_TEMP_READ (R264). -/
def execHbmTempRead (d : Die) (temp : BitVec 9) (s : State) : Host.Outcome State Fault Refusal :=
  .next (tempRead s d (signed 9 temp.toNat))

/-- A channel group has changed its data rate (R264); a pseudo-channel that fails its lane training for the second time is
retired (R266). -/
def rateGroup (s : State) (d : Die) (bad : Option (Fin 4)) : State :=
  if !flagF s fHBM_STAT_changing d 0 then s
  else
    let m := getHbm s d
    let s := match bad with
      | none => s
      | some k =>
        let pc := 4 * m.groups + k.val
        let s := setHbm s d { m with pcFails := m.pcFails ++ [pc] }
        if m.pcFails.contains pc then retirePc s d pc 0 else s
    let m := getHbm s d
    if m.groups < 7 then setHbm s d { m with groups := m.groups + 1 }
    else
      let s := setF (setF s fHBM_STAT_changing d 0 0) fHBM_STAT_rate d 0 (bandRate m.band)
      let s := setHbm s d { m with groups := 0 }
      raiseEvent s 0x11 d (BitVec.ofNat 32 d.val) (regRaw s .HBM_STAT d 0)

/-- HBM_RATE_GROUP_DONE (R264). -/
def execHbmRateGroupDone (d : Die) (bad : Option (Fin 4)) (s : State) : Host.Outcome State Fault Refusal :=
  .next (rateGroup s d bad)

/-- The patrol scrubber reads a granule of 32 bytes (R262, R263). -/
def patrol (s : State) (d : Die) (granule : Nat) (out : ReadOutcome) : State :=
  match out with
  | .clean => if (getHbm s d).poison.contains granule then demandUe s d (granule * 32) else s
  | .corrected => correctedAt s d (granule * 32)
  | .uncorrectable => demandUe s d (granule * 32)
  | .onDie => countF s fHBM_ECC_ode d 0

/-- HBM_PATROL_SCRUB (R262). -/
def execHbmPatrolScrub (d : Die) (granule : Fin 771751936) (out : ReadOutcome) (s : State) :
    Host.Outcome State Fault Refusal :=
  .next (patrol s d granule.val out)

/-- HBM_RETIRE_COPY_DONE (R266). -/
def execHbmRetireCopyDone (d : Die) (s : State) : Host.Outcome State Fault Refusal :=
  .next (setF s fHBM_RET_copying d 0 0)

/-! ## The march test engine (R268 to R273) -/

/-- Is a harness selected for a pass? -/
def marchSel (s : State) (d : Die) (h : Nat) : Bool :=
  if h < 32 then bitOf (regRaw s .MT_HSEL_LO d 0).toNat h else bitOf (regRaw s .MT_HSEL_HI d 0).toNat (h - 32)

/-- The harnesses selected. -/
def marchHars (s : State) (d : Die) : List Nat := (List.range 36).filter (marchSel s d)

/-- Does a harness hold a frame: a yarn of the die has a stage in it? -/
def holdsFrame (s : State) (d : Die) (h : Nat) : Bool := !(yarnsOfHar s d h).isEmpty

/-- Is a target of a destructive pass in use (R268)? -/
def marchInUse (s : State) (d : Die) (tgt : Nat) : Bool :=
  (bitOf tgt 0 && (marchHars s d).any (fun h => !parked s d h)) ||
  (bitOf tgt 1 && (marchHars s d).any (fun h => !parked s d h || holdsFrame s d h)) ||
  (bitOf tgt 2 && (getBeat s d).started)

/-- The chunks of 256 test words of one memory. -/
def chunksOf (mem har unit row words : Nat) : List Chunk :=
  (List.range (words / 256)).map (fun i =>
    { mem := BitVec.ofNat 2 mem, har := har, unit := unit, row := row, first := 256 * i, tries := 0 })

/-- The chunks of a preserving pass (R271). -/
def marchChunks (s : State) (d : Die) (tgt : Nat) : List Chunk :=
  (if bitOf tgt 0 then (marchHars s d).flatMap (fun h => (List.range 72).flatMap (fun i => chunksOf 0 h (i % 9) (i / 9) 512)) else []) ++
  (if bitOf tgt 1 then (marchHars s d).flatMap (fun h => (List.range 8).flatMap (fun b => chunksOf 1 h b 0 8192)) else []) ++
  (if bitOf tgt 2 then (List.range 16).flatMap (fun b => chunksOf 2 0 b 0 65536) else [])

/-- Start a pass as MT_CTL says (R268). -/
def startPass (s : State) (d : Die) : State :=
  let tgt := getF s fMT_CTL_tgt d 0
  let keep := flagF s fMT_CTL_mode d 0
  if !keep && marchInUse s d tgt then setF s fMT_STAT_refused d 0 1
  else
    let s := setReg s .MT_STAT d 0 (BitVec.ofNat 32 (2 ^ 31))
    let s := setF s fMT_FAIL_valid d 0 0
    let cs := if keep then marchChunks s d tgt else []
    setMarch s d { getMarch s d with total := cs.length, chunks := cs }

/-- A write of MT_CTL with start = 1 (R273): ignored while busy. -/
def mtStart (s : State) (d : Die) (v : Word) : State :=
  let busy := flagF s fMT_STAT_busy d 0
  let s := regWrite s .MT_CTL d 0 v
  if busy || !bitOf v.toNat 31 || !domTakes s d 60 then s else startPass s d

/-- MT_START (R268). -/
def execMtStart (_rq : Requester) (d : Die) (v : Word) (s : State) : Host.Outcome State Fault Refusal :=
  .next (mtStart s d v)

/-- A bobbin whose near-store words are all 0 (R139, R268). -/
def wipeNear (b : Bob) : Bob :=
  let zero (x : PosWord) : PosWord := { x with w := { data := 0, tag := 0 } }
  { b with head := b.head.map zero, tail := b.tail.map zero }

/-- The near-store of a die holds 0 in every entry (R255, R268). -/
def wipeNearStore (s : State) (d : Die) : State :=
  s.flow.bobs.foldl (fun s e => if e.2.die = d then modBob s e.1 wipeNear else s) s

/-- A destructive pass leaves 0 in every tested word (R268). -/
def marchWipe (s : State) (d : Die) (tgt : Nat) : State :=
  let s := if bitOf tgt 2 then wipeNearStore s d else s
  (marchHars s d).foldl (fun s h =>
    let s := if bitOf tgt 0 then
        { s with arr.scratch := dropRangeOf s.arr.scratch (cellKey d h 0 0 * 512) (72 * 512) } else s
    if bitOf tgt 1 then { s with arr.bank := memClear s.arr.bank (bankAddr d h 0) 0x80000 } else s) s

/-- A pass ends: the command that asked for it completes with MT_STAT and MT_FAIL (R335). -/
def endPass (s : State) (d : Die) : State :=
  let s := setF s fMT_STAT_busy d 0 0
  let s := setMarch s d { getMarch s d with chunks := [], total := 0, startup := false }
  endWait s (.march d) 0 (regRaw s .MT_STAT d 0).toNat (regRaw s .MT_FAIL d 0).toNat

/-- End the pass at a write of abort (R273): borrowed chunks are returned with their contents; what a destructive pass
had overwritten reads 0 (log entry 31). -/
def mtAbort (s : State) (d : Die) : State :=
  if !flagF s fMT_STAT_busy d 0 then s
  else
    let s := if flagF s fMT_CTL_mode d 0 then s else marchWipe s d (getF s fMT_CTL_tgt d 0)
    endPass s d

/-- MT_ABORT (R273). -/
def execMtAbort (_rq : Requester) (d : Die) (s : State) : Host.Outcome State Fault Refusal := .next (mtAbort s d)

/-- The bank block of a bank memory test word (R252, R272): its number among the 256 blocks of 2,048 bytes. -/
def bankBlock (unit addr : Nat) : Nat := (addr * 8 / 256 * 2048 + unit * 256 + addr * 8 % 256) / 2048

/-! ## The algorithms (R269) -/

/-- An operation on a test word: a read or a write, of the value of 1 or of 0. -/
structure MarchOp where
  read : Bool
  one  : Bool
  deriving DecidableEq, Repr

/-- An element: its address order, and its operations on each word. An element in either order runs in rising order (log entry
215). -/
structure MarchElem where
  down : Bool
  ops  : List MarchOp
  deriving DecidableEq, Repr

def marchR0 : MarchOp := { read := true, one := false }
def marchR1 : MarchOp := { read := true, one := true }
def marchW0 : MarchOp := { read := false, one := false }
def marchW1 : MarchOp := { read := false, one := true }

/-- The elements of an algorithm by MT_CTL.alg: MATS+, March C− and March SS. -/
def marchElems (alg : Nat) : List MarchElem :=
  let up (ops : List MarchOp) : MarchElem := { down := false, ops := ops }
  let dn (ops : List MarchOp) : MarchElem := { down := true, ops := ops }
  if alg = 0 then [up [marchW0], up [marchR0, marchW1], dn [marchR1, marchW0]]
  else if alg = 1 then
    [up [marchW0], up [marchR0, marchW1], up [marchR1, marchW0], dn [marchR0, marchW1], dn [marchR1, marchW0], up [marchR0]]
  else
    [up [marchW0], up [marchR0, marchR0, marchW0, marchR0, marchW1], up [marchR1, marchR1, marchW1, marchR1, marchW0],
     dn [marchR0, marchR0, marchW0, marchR0, marchW1], dn [marchR1, marchR1, marchW1, marchR1, marchW0], up [marchR0]]

/-- The reads of an element over `n` test words, as the words they read, in order: each element runs over every word before the
next starts. -/
def elemReads (n : Nat) (e : MarchElem) : List Nat :=
  let ws := if e.down then (List.range n).reverse else List.range n
  ws.flatMap (fun w => List.replicate (e.ops.filter (fun o => o.read)).length w)

/-- The backgrounds that MT_CTL.bg selects, in the order in which a pass runs them: 0 solid, 1 checkerboard, 2 row stripe, 3 column
stripe (R269). -/
def marchGrounds (bg : Nat) : List Nat := (List.range 4).filter (fun i => bitOf bg i)

/-- The reads of a run over `n` test words, each with its background: the algorithm runs once for each selected background. -/
def runReads (alg bg n : Nat) : List (Nat × Nat) :=
  (marchGrounds bg).flatMap (fun g => ((marchElems alg).flatMap (elemReads n)).map (fun w => (g, w)))

/-- The word of the k-th read of a run over `n` test words, if the run has as many reads. -/
def readWord (alg bg n k : Nat) : Option Nat := ((runReads alg bg n)[k]?).map (fun e => e.2)

/-- A failure of a cell's scratch is met by darning, and the firmware records it in the NV store (R272): a harness that is lost
by it is lost again after every reset, and in a halted harness, which is not darned now, the cell is darned after the next one.
-/
def scratchFail (s : State) (d : Die) (har row col : Nat) : State :=
  let k := harKey d har
  let t := darning s d har row col .march false
  if (getHar t d har).lost then
    { t with mem.marchLost := if t.mem.marchLost.contains k then t.mem.marchLost else t.mem.marchLost ++ [k] }
  else if (getHar s d har).halted && !s.mem.darned.contains (k, row, col) then
    { t with mem.darned := t.mem.darned ++ [(k, row, col)] }
  else t

/-- What the firmware does on a failure (R272). A spare that fails before it is used is recorded, so that no cell of its row is
moved onto it. -/
def marchAct (s : State) (d : Die) (mem har unit row addr : Nat) : State :=
  match mem with
  | 0 =>
    if 8 ≤ unit then
      (if spareUsed s d har row then
        loseHarness { s with mem.marchLost := s.mem.marchLost ++ [harKey d har] } d har
       else if s.mem.spareBad.contains (harKey d har, row) then s
       else { s with mem.spareBad := s.mem.spareBad ++ [(harKey d har, row)] })
    else scratchFail s d har row unit
  | 1 =>
    let blk := harKey d har * 256 + bankBlock unit addr
    let s := { s with mem.withdrawn := if s.mem.withdrawn.contains blk then s.mem.withdrawn else s.mem.withdrawn ++ [blk] }
    if s.mem.imageBank.contains blk then
      loseHarness { s with mem.marchLost := s.mem.marchLost ++ [harKey d har] } d har
    else s
  | _ =>
    let e := (addr * 16 + unit) / 32
    { s with flow.badEntries := if s.flow.badEntries.contains (d.val, e) then s.flow.badEntries
                                else s.flow.badEntries ++ [(d.val, e)] }

/-- A failure is found (R271, R273): the first of the pass is recorded. -/
def marchFail (s : State) (d : Die) (mem har unit row addr : Nat) : State :=
  let s := setF s fMT_STAT_fail d 0 1
  let s := if flagF s fMT_FAIL_valid d 0 then s
    else
      let s := setF (setF (setF s fMT_FAIL_valid d 0 1) fMT_FAIL_mem d 0 mem) fMT_FAIL_harness d 0 (if mem = 2 then 0 else har)
      setReg (setF (setF s fMT_FAIL_unit d 0 unit) fMT_FAIL_row d 0 (if mem = 0 then row else 0)) .MT_FAIL_ADDR d 0
        (BitVec.ofNat 32 (addr % 65536))
  marchAct s d mem har unit row addr

/-- Show the progress of a preserving pass. -/
def marchPct (s : State) (d : Die) : State :=
  let m := getMarch s d
  if m.total = 0 then s else setF s fMT_STAT_pct d 0 ((m.total - m.chunks.length) * 100 / m.total)

/-- A chunk of a preserving pass ends (R271): abandoned when a user touched it while it was tested, skipped at the fourth time, and
its contents are as its users last gave them in every case. `bad` is the first of the test's reads that did not return the value
written (R269). -/
def chunkDone (s : State) (d : Die) (touched : Bool) (bad : Option Nat) : State :=
  let m := getMarch s d
  match m.chunks with
  | [] => s
  | c :: cs =>
    if touched then
      if 3 ≤ c.tries then marchPct (countF (setMarch s d { m with chunks := cs }) fMT_STAT_skipped d 0) d
      else setMarch s d { m with chunks := cs ++ [{ c with tries := c.tries + 1 }] }
    else
      let s := marchPct (setMarch s d { m with chunks := cs }) d
      match bad with
      | none => s
      | some k =>
        match readWord (getF s fMT_CTL_alg d 0) (getF s fMT_CTL_bg d 0) 256 k with
        | some w => marchFail s d c.mem.toNat c.har c.unit c.row (c.first + w)
        | none => s

/-- MARCH_CHUNK_DONE (R271). -/
def execMarchChunkDone (d : Die) (touched : Bool) (bad : Option Nat) (s : State) :
    Host.Outcome State Fault Refusal :=
  .next (chunkDone s d touched bad)

/-- A pass has run to its end (R272): a destructive one with the places of its failures, in the order in which it found them.
The start-up march runs on memories that the reset left at 0, and what the load writes beside it stays (log entry 90). -/
def passDone (s : State) (d : Die) (bad : List MarchPlace) : State :=
  if !flagF s fMT_STAT_busy d 0 || !(getMarch s d).chunks.isEmpty then s
  else
    let s := setF s fMT_STAT_pct d 0 100
    let s := if flagF s fMT_CTL_mode d 0 then s
      else
        let s := if (getMarch s d).startup then s else marchWipe s d (getF s fMT_CTL_tgt d 0)
        bad.foldl (fun s p => marchFail s d p.mem.val p.har.val p.unit.toNat p.row.val p.addr.toNat) s
    endPass s d

/-- MT_PASS_DONE (R272). -/
def execMtPassDone (d : Die) (bad : List MarchPlace) (s : State) : Host.Outcome State Fault Refusal :=
  .next (passDone s d bad)

end Sys2Proof.Machine
end

