-- ==== Sys2Proof/Machine/Ethernet.lean ====
section
/-! DEFINITION. The field ports (R274 to R288, R313, R315): their configuration and links, frames received into bobbins,
items sent as frames, the gate control list, and the discards of a port that cannot transmit (R145). -/

namespace Sys2Proof.Machine

/-! ## Ports -/

/-- A word of the tables of a port, by its offset in the port's block (R280, R283, R286). -/
def portWord (s : State) (p off : Nat) : Nat := (sparseGet (fun _ => (0 : Word)) s.ports.tables (p * 1024 + off / 4)).toNat

/-- Store a word of the tables of a port. -/
def setPortWord (s : State) (p off : Nat) (v : Word) : State :=
  { s with ports.tables := sparseSet (fun _ => (0 : Word)) s.ports.tables (p * 1024 + off / 4) v }

/-- The two 64-bit words of a table entry. -/
def portPair (s : State) (p off : Nat) : Nat × Nat :=
  (portWord s p off + portWord s p (off + 4) * 2 ^ 32, portWord s p (off + 8) + portWord s p (off + 12) * 2 ^ 32)

/-- The other port of a pair (R276). -/
def partner (p : Nat) : Nat := if p % 2 = 0 then p + 1 else p - 1

/-- Does a port have its supplies, its reference and its quad's domain, which is not shutting down (R215, R274, R311, R313)? -/
def portPowered (s : State) (p : Nat) : Bool :=
  s.ports.supply && !s.ports.quadLost.contains (p / 4) && domTakes s (portDie p) (36 + portIx p / 4)

/-- Is an Ethernet port configured and not silent (R276, R313)? -/
def ethLive (s : State) (p : Nat) : Bool :=
  let m := portMode s p
  flagF s fPCFG_en (portDie p) (portIx p) && decide (1 ≤ m ∧ m ≤ 3) && !isPickline (portMode s (partner p)) &&
    portPowered s p && !(getPort s p).cut && !(getImg s (portDie p)).loading && !(getImg s (portDie p)).starting

/-- Is a port's link up (R292, R315)? -/
def portUp (s : State) (p : Nat) : Bool := flagF s fPCS_STAT_link (portDie p) (portIx p)

/-- Is a ring not silent: a pair, powered, and not waiting for run = 1 (R276, R311, R313)? -/
def ringLive (s : State) (k : Nat) : Bool :=
  ringPaired s k && portPowered s (2 * k) && portPowered s (2 * k + 1) && !(getRing s k).silent

/-- The timestamps of a frame that is received, or sent, now: the Vigil time, corrected by the latency of the mode (R288). -/
def ingressTime (s : State) (p : Nat) : Nat := vigilNow s - Config.portLatency (portMode s p) false
def egressTime (s : State) (p : Nat) : Nat := vigilNow s + Config.portLatency (portMode s p) true

/-! ## Receiving (R279 to R282) -/

/-- A frame's fields: destination address, tag, EtherType and payload (R280, R281). -/
structure EthFrame where
  dmac    : Nat
  tag     : Option Nat
  etype   : Nat
  payload : List Byte
  deriving DecidableEq, Repr

/-- The fields of a frame, its FCS taken off. -/
def ethParse (bs : List Byte) : EthFrame :=
  let body := bs.take (bs.length - 4)
  let ty := beNat ((body.drop 12).take 2)
  let dmac := beNat (body.take 6)
  if ty = 0x8100 then
    { dmac := dmac, tag := some (beNat ((body.drop 14).take 2)), etype := beNat ((body.drop 16).take 2),
      payload := body.drop 18 }
  else { dmac := dmac, tag := none, etype := ty, payload := body.drop 14 }

/-- Is a frame a PTP frame (R279): EtherType 0x88F7, or UDP to port 319 or 320 over IPv4 or IPv6? -/
def isPtp (f : EthFrame) : Bool :=
  let port (o : Nat) : Bool :=
    let x := beNat ((f.payload.drop (o + 2)).take 2)
    decide (x = 319 ∨ x = 320)
  if f.etype = 0x88F7 then true
  else if f.etype = 0x0800 then decide (fieldAt f.payload 9 1 = 17) && port (4 * (fieldAt f.payload 0 1 % 16))
  else if f.etype = 0x86DD then decide (fieldAt f.payload 6 1 = 17) && port 40
  else false

/-- Does rule r of a port take a frame (R280)? -/
def ruleTakes (s : State) (p : Nat) (f : EthFrame) (r : Nat) : Bool :=
  let w := portPair s p (0xC00 + 16 * r)
  bitOf w.2 15 && (!bitOf w.2 14 || decide (bitsOf w.1 63 48 = f.etype)) &&
    (!bitOf w.2 13 || (match f.tag with
      | some t => decide (bitsOf w.2 11 0 = t % 4096)
      | none => false)) &&
    (!bitOf w.2 12 || decide (bitsOf w.1 47 0 = f.dmac))

/-- The words that bytes fill, the last one padded with zeros (R281). -/
def payloadWords (bs : List Byte) : List Word := wordsOf (padTo ((bs.length + 3) / 4 * 4) bs)

/-- The info word of a frame (R281). -/
def infoWord (f : EthFrame) : Word :=
  let t := f.tag.getD 0
  BitVec.ofNat 32 (bitsOf t 15 13 * 2 ^ 29 + bitN f.tag.isSome * 2 ^ 28 + t % 4096 * 65536 + f.payload.length % 16384)

/-- An entry-point producer that is a port writes words into a bobbin it produces; a frame for a bobbin that does not
exist is counted as one that no rule took (R147). -/
def portWrite (s : State) (p n : Nat) (ws : List TWord) : State :=
  let b := getBob s n
  if b.state = .free then countF s fRX_DROP_no_match (portDie p) (portIx p)
  else if b.prod ≠ .port ∨ b.prodId.toNat ≠ p then s
  else dropStalled (writeItem (pointerCheck s n 0).1 n ws) n

/-- A frame taken by a rule in FRAME mode (R281). -/
def frameItem (s : State) (p : Nat) (f : EthFrame) (rule : Nat × Nat) : State :=
  let t := ingressTime s p
  let ts := if bitOf rule.2 17 then [BitVec.ofNat 32 (t % 1000000000), BitVec.ofNat 32 (t / 1000000000)] else []
  portWrite s p (bitsOf rule.2 47 32)
    (itemWords ([infoWord f] ++ ts ++ payloadWords f.payload) 0 (bitsOf rule.2 22 18) false)

/-- A STREAM segment: `n` words of an item of `len` words from word `off` on, with the rule's exponent. -/
def streamWords (ds : List Word) (off len exp : Nat) : List TWord :=
  (List.range ds.length).map (fun i =>
    { data := ds.getD i 0
      tag := mkTag (decide (off + i = 0)) (decide (off + i + 1 = len)) false false false 0 exp })

/-- The assembly of a rule, if it has one. -/
def segOf (t : PortSt) (r : Nat) : Option Seg := t.segs.find? (fun g => g.rule = r)

/-- Replace the assembly of a rule. -/
def setSeg (t : PortSt) (g : Seg) : PortSt := { t with segs := t.segs.filter (fun x => x.rule ≠ g.rule) ++ [g] }

/-- A frame taken by a rule in STREAM mode (R282). -/
def streamItem (s : State) (p : Nat) (f : EthFrame) (r : Nat) (rule : Nat × Nat) : State :=
  let off := fieldAt f.payload 0 2
  let len := fieldAt f.payload 2 2
  let m := min ((f.payload.length - 4) / 4) (len - off)
  let ds := (wordsOf (f.payload.drop 4)).take m
  let t := getPort s p
  let put (got : Nat) : State :=
    portWrite (setPort s p (setSeg t { rule := r, len := len, got := got, drop := false })) p (bitsOf rule.2 47 32)
      (streamWords ds off len (bitsOf rule.2 22 18))
  let ok := decide (1 ≤ len ∧ len ≤ 4096) && decide (4 ≤ f.payload.length)
  match segOf t r with
  | some g =>
    if off = 0 ∧ ok then put m
    else if !g.drop ∧ ok ∧ off = g.got ∧ len = g.len ∧ g.got < g.len then put (g.got + m)
    else setPort s p (setSeg t { g with drop := true })
  | none => if off = 0 ∧ ok then put m else s

/-- A frame that receive rule `r` takes becomes an item of its bobbin (R281, R282). -/
def ruleItem (s : State) (p : Nat) (f : EthFrame) (r : Nat) : State :=
  let w := portPair s p (0xC00 + 16 * r)
  if bitOf w.2 16 then streamItem s p f r w else frameItem s p f w

/-- A frame that has arrived (R278 to R280). -/
def frameArrives (s : State) (p : Nat) (bs : List Byte) (fcsOk : Bool) : State :=
  let d := portDie p
  let m := portIx p
  if !fcsOk || decide (bs.length < 64) || decide (9216 < bs.length) then countF s fRX_DROP_bad d m
  else
    let f := ethParse bs
    if f.etype = 0x8808 then countF s fRX_DROP_no_match d m
    else if flagF s fPCFG_ptp_en d m && isPtp f then emit s (.ptp p bs (ingressTime s p))
    else
      ((List.range 64).find? (ruleTakes s p f)).elim (countF s fRX_DROP_no_match d m) (ruleItem s p f)

/-- ETH_FRAME_RECEIVE (R280). -/
def execEthFrameReceive (p : Port) (bytes : List Byte) (fcsOk : Bool) (s : State) : Host.Outcome State Fault Refusal :=
  .next (if ethLive s p.val && (portUp s p.val || flagF s fPCFG_lpbk (portDie p.val) (portIx p.val)) then
      frameArrives s p.val bytes fcsOk
    else s)

/-! ## The gate control list (R286) -/

/-- The intervals and gates of the list in force. -/
def gclEntry (s : State) (p e : Nat) : Nat := portWord s p (0x400 + 4 * e)

/-- The gates in force: all are open while gates do not apply or no list has started (R286, R315). -/
def gatesOpen (s : State) (p : Nat) : Nat :=
  let t := getPort s p
  if flagF s fQBV_CTL_en (portDie p) (portIx p) && t.started then bitsOf (gclEntry s p t.entry) 31 24 else 255

/-- Is the gate of a class open? -/
def gateOpen (s : State) (p tc : Nat) : Bool := bitOf (gatesOpen s p) tc

/-- The ends of the entries from e on, as times in the cycle: an entry ends at the cycle's end at the latest, and the
last one lasts until then. -/
def entryEnds (s : State) (p olen cycle : Nat) : Nat → Nat → Nat → List (Nat × Nat)
  | 0, _, _ => []
  | k + 1, e, at_ =>
    let w := gclEntry s p e
    let stop := if olen ≤ e + 1 then cycle else min cycle (at_ + bitsOf w 23 0)
    (bitsOf w 31 24, stop) :: entryEnds s p olen cycle k (e + 1) stop

/-- The first of these entries in which the gate of a class is shut begins when the one before it ends. -/
def firstShut (tc : Nat) : Nat → List (Nat × Nat) → Option Nat
  | _, [] => none
  | at_, (g, stop) :: es => if bitOf g tc then firstShut tc stop es else some at_

/-- When the gate of a class closes, if it ever does. -/
def gateCloses (s : State) (p tc : Nat) : Option Nat :=
  let t := getPort s p
  if !flagF s fQBV_CTL_en (portDie p) (portIx p) || !t.started then none
  else
    let rest := entryEnds s p t.olen t.ocycle (t.olen - t.entry) t.entry (t.entryAt - t.cycleAt)
    match firstShut tc (t.entryAt - t.cycleAt) rest with
    | some x => some (t.cycleAt + x)
    | none => (firstShut tc 0 (entryEnds s p t.olen t.ocycle t.olen 0 0)).map (fun x => t.cycleAt + t.ocycle + x)

/-- QBV_CHANGE (R286). -/
def qbvChange (s : State) (p : Nat) : State := setF s fQBV_CTL_pend (portDie p) (portIx p) 1

def execQbvChange (_rq : Requester) (p : Port) (s : State) : Host.Outcome State Fault Refusal := .next (qbvChange s p.val)

/-- The bindings of a port that are in use, by number. -/
def bindings (s : State) (p : Nat) : List (Nat × Nat × Nat) :=
  ((List.range 32).map (fun j => (j, portPair s p (0x200 + 16 * j)))).filter (fun e =>
    bitOf e.2.2 20 && (let b := getBob s (bitsOf e.2.2 47 32)
                       decide (b.cons = .port) && decide (b.consId.toNat = p) && decide (b.state = .active)))

/-- Can the port of a bobbin not transmit now: its link is down or its gate stays shut (R145)? A host output region is
without room when every block is outstanding; one that is unmapped takes nothing (R235, R337, R343). -/
def egressShut (s : State) (n : Nat) : Bool :=
  let b := getBob s n
  match b.cons with
  | .port =>
    let p := b.consId.toNat
    let tcs := ((bindings s p).filter (fun e => decide (bitsOf e.2.2 47 32 = n))).map (fun e => bitsOf e.2.2 18 16)
    !ethLive s p || !portUp s p || !tcs.any (gateOpen s p)
  | .host =>
    match s.host.regions.find? (fun e => e.2.mapped && e.2.out && decide (e.2.bob = n)) with
    | none => true
    | some e =>
      let k := ((egressItems b).head?.map (fun i => (i.n + 7) / 8)).getD 0
      decide (2 ^ e.2.log2 ≤ (e.2.dev - e.2.host).toNat + k)
  | _ => false

/-- The bobbins that a port can transmit again are no longer discarded: its link is up and their gate is open (R145). -/
def unstall (s : State) (p : Nat) : State :=
  let ns := (s.flow.bobs.filter (fun e => decide (e.2.cons = .port) && decide (e.2.consId.toNat = p) && e.2.stalled &&
    !egressShut s e.1)).map (fun e => e.1)
  ns.foldl (fun s n => modBob s n (fun b => { b with stalled := false })) s

/-- The administrative base time (R286). -/
def adminBase (s : State) (p : Nat) : Nat :=
  getF s fQBV_BASE_S_value (portDie p) (portIx p) * 1000000000 + getF s fQBV_BASE_NS_value (portDie p) (portIx p)

/-- The administrative list becomes operative. -/
def adoptList (s : State) (p : Nat) : State :=
  let s := (List.range 256).foldl (fun s e => setPortWord s p (0x400 + 4 * e) (BitVec.ofNat 32 (portWord s p (0x800 + 4 * e)))) s
  let d := portDie p
  let m := portIx p
  let t := getPort s p
  setF (setPort s p { t with started := true, olen := getF s fQBV_CTL_alen d m + 1,
                             ocycle := getF s fQBV_CYCLE_value d m }) fQBV_CTL_pend d m 0

/-- A cycle of the list begins (R286): a change that waits takes effect at the first one at or after its base time. -/
def qbvCycle (s : State) (p : Nat) : State :=
  let s := if flagF s fQBV_CTL_pend (portDie p) (portIx p) && decide (adminBase s p ≤ vigilNow s) then adoptList s p else s
  let t := getPort s p
  if t.started then unstall (setPort s p { t with entry := 0, cycleAt := vigilNow s, entryAt := vigilNow s }) p else s

/-- QBV_CYCLE_START (R286). -/
def execQbvCycleStart (p : Port) (s : State) : Host.Outcome State Fault Refusal :=
  .next (if ethLive s p.val then qbvCycle s p.val else s)

/-- GATE_CONTROL_LIST_ENTRY_END (R286): the last entry's gates hold until the cycle ends. -/
def execGateControlListEntryEnd (p : Port) (s : State) : Host.Outcome State Fault Refusal :=
  .next (
    let t := getPort s p.val
    if ethLive s p.val && t.started && decide (t.entry + 1 < t.olen) then
      unstall (setPort s p.val { t with entry := t.entry + 1, entryAt := vigilNow s }) p.val
    else s)

/-! ## Sending (R283 to R285) -/

/-- One bit and one byte of the FCS of IEEE 802.3 (R277; reflected polynomial 0xEDB88320, log entry 7). -/
def fcsBit (c : Nat) : Nat := if c % 2 = 1 then Nat.xor (c / 2) 0xEDB88320 else c / 2
def fcsByte (c : Nat) (b : Byte) : Nat :=
  fcsBit (fcsBit (fcsBit (fcsBit (fcsBit (fcsBit (fcsBit (fcsBit (Nat.xor c b.toNat))))))))

/-- The FCS of a frame. -/
def fcsOf (bs : List Byte) : List Byte := leBytes 4 (Nat.xor (bs.foldl fcsByte 0xFFFFFFFF) 0xFFFFFFFF)

/-- The MAC address of a port: the one PORT_CFG gave, or the one of the NV store (R279, R335). -/
def macOf (s : State) (p : Nat) : BitVec 48 := (sparseGet (fun _ => none) s.ports.macs p).getD (Config.portMac p)

/-- The frame of a binding with a payload: addresses, tag, EtherType, padding and FCS (R283, R284). -/
def buildFrame (mac : BitVec 48) (w : Nat × Nat) (payload : List Byte) : List Byte :=
  let tag := if bitOf w.2 12 then beBytes 2 0x8100 ++ beBytes 2 (bitsOf w.2 15 13 * 8192 + bitsOf w.2 11 0) else []
  let body := beBytes 6 (bitsOf w.1 47 0) ++ beBytes 6 mac.toNat ++ tag ++ beBytes 2 (bitsOf w.1 63 48) ++
    padTo 46 payload
  body ++ fcsOf body

/-- The bytes of a frame of a payload, FCS included. -/
def frameLen (w : Nat × Nat) (n : Nat) : Nat := 18 + (if bitOf w.2 12 then 4 else 0) + max 46 n

/-- The payload length that a FRAME item names, if it fits the item and the frame (R284). -/
def frameFits (w : Nat × Nat) (ds : List Word) : Option Nat :=
  let n := bitsOf (ds.headD 0).toNat 13 0
  if 4 * ds.length < n + 8 ∧ n + 4 ≤ 4 * ds.length ∧ frameLen w n ≤ 9216 then some n else none

/-- The words of an item in groups of k. -/
def segments (k : Nat) : Nat → List Word → List (List Word)
  | 0, _ => []
  | n + 1, ds => if ds = [] then [] else ds.take k :: segments k n (ds.drop k)

/-- The payloads of the frames of a STREAM item (R282, R284). -/
def streamPayloads (k : Nat) (ds : List Word) : List (List Byte) :=
  let gs := segments k ds.length ds
  (List.range gs.length).map (fun i => leBytes 2 (i * k) ++ leBytes 2 ds.length ++ bytesOf (gs.getD i []))

/-- A frame or fragment of n bytes begins to leave the port. -/
def noteTx (s : State) (p n : Nat) : State := setPort s p { getPort s p with sending := some (vigilNow s, n) }

/-- A frame leaves the port at a time; near-end loopback brings it back (R315). -/
def sendEth (s : State) (p : Nat) (bs : List Byte) (t : Nat) : State :=
  if looped s p then frameArrives s p bs true else emit (noteTx s p bs.length) (.frame p bs t)

/-- Where the PTP event message of a frame begins, whether UDP carries it, and whether IPv6 does (R288). -/
def ptpAt (bs : List Byte) : Option (Nat × Bool × Bool) :=
  let f := ethParse bs
  let o := if f.tag.isSome then 18 else 14
  let ip := 4 * (fieldAt f.payload 0 1 % 16)
  if f.etype = 0x88F7 then some (o, false, false)
  else if f.etype = 0x0800 ∧ fieldAt f.payload 9 1 = 17 ∧ beNat ((f.payload.drop (ip + 2)).take 2) = 319 then
    some (o + ip + 8, true, false)
  else if f.etype = 0x86DD ∧ fieldAt f.payload 6 1 = 17 ∧ beNat ((f.payload.drop 42).take 2) = 319 then
    some (o + 48, true, true)
  else none

/-- Bytes with some of them replaced from a position on. -/
def splice (bs : List Byte) (o : Nat) (x : List Byte) : List Byte := bs.take o ++ x ++ bs.drop (o + x.length)

/-- A frame with its egress timestamp (R288): a one-step Sync message has its originTimestamp written and its correctionField
updated, to a value that the manual does not state (log entry 216); the timestamp of any other event message is returned to the
firmware. -/
def stampFrame (s : State) (p : Nat) (bs : List Byte) (t : Nat) : State × List Byte :=
  match ptpAt bs with
  | none => (s, bs)
  | some (o, udp, v6) =>
    let kind := fieldAt bs o 1 % 16
    if kind = 0 ∧ !bitOf (fieldAt bs (o + 6) 1) 1 ∧ !v6 then
      let x := freeValue s
      let b := splice (bs.take (bs.length - 4)) (o + 34) (beBytes 6 (t / 1000000000) ++ beBytes 4 (t % 1000000000))
      let b := splice b (o + 8) (beBytes 8 x.1.toNat)
      let b := if udp then splice b (o - 2) [0, 0] else b
      (x.2, b ++ fcsOf b)
    else (if kind < 4 then emit s (.egress p bs t) else s, bs)

/-- The payloads of the frames of an item, none if it is not sent (R284). -/
def itemPayloads (w : Nat × Nat) (ws : List TWord) : List (List Byte) :=
  let ds := ws.map (fun x => x.data)
  if (ws.map (fun (x : TWord) => tagKind x.tag)).headD 0 ≠ 0 then []
  else if bitOf w.2 19 then streamPayloads (max 1 (bitsOf w.2 59 48)) ds
  else
    match frameFits w ds with
    | some n => [(bytesOf (ds.drop 1)).take n]
    | none => []

/-- Is an item of kind data in FRAME mode one whose length does not fit, so that it counts in the bobbin's drops (R284)? -/
def itemMisfits (w : Nat × Nat) (ws : List TWord) : Bool :=
  decide ((ws.map (fun (x : TWord) => tagKind x.tag)).headD 0 = 0) && !bitOf w.2 19 &&
    (frameFits w (ws.map (fun x => x.data))).isNone

/-- Take what stands at the head of a bobbin and is never sent: beat marks and suppressed items (R186, R187). -/
def skipQuiet : Nat → State → Nat → State
  | 0, s, _ => s
  | k + 1, s, n =>
    let b := getBob s n
    match headItem b with
    | none => s
    | some i => if i.kind = 3 ∨ 0 < b.suppress then skipQuiet k (egressTake s n).1 n else s

/-- Take everything at the head of a bobbin that is never sent. -/
def skipHead (s : State) (n : Nat) : State := skipQuiet (bobWords (getBob s n) + 1) s n

/-- The bytes of the first frame of an item, if it gives one (R284). -/
def firstFrame (w : Nat × Nat) (ws : List TWord) : Option Nat :=
  let ds := ws.map (fun x => x.data)
  if (ws.map (fun (x : TWord) => tagKind x.tag)).headD 0 ≠ 0 then none
  else if bitOf w.2 19 then some (frameLen w (4 + 4 * min ds.length (bitsOf w.2 59 48)))
  else (frameFits w ds).map (frameLen w)

/-- May a frame of some bytes of a class start now: its gate is open, and an express frame ends before the gate closes
(R285)? -/
def frameMay (s : State) (p tc : Nat) (n : Option Nat) : Bool :=
  gateOpen s p tc &&
    (match n, gateCloses s p tc with
      | some n, some x => !Config.express p tc || decide (vigilNow s + lineTime (portMode s p) n ≤ x)
      | _, _ => true)

/-- May the next item of a binding be taken now? -/
def mayStart (s : State) (p : Nat) (e : Nat × Nat × Nat) : Bool :=
  let ws := peekItem s (bitsOf e.2.2 47 32)
  !ws.isEmpty && frameMay s p (bitsOf e.2.2 18 16) (firstFrame e.2 ws)

/-- The binding that follows the last one served, in turn (R285). -/
def nextInTurn (last : Nat) (es : List (Nat × Nat × Nat)) : Option (Nat × Nat × Nat) :=
  (es.find? (fun e => decide (last < e.1))).orElse (fun _ => es.head?)

/-- The item of a class whose frames are being sent. -/
def openItem (s : State) (p tc : Nat) : Option TxItem := (getPort s p).txq.find? (fun x => x.tc = tc)

/-- What a class sends next: the next frame of the item it is sending, or the item of a binding (R285). -/
def nextOf (s : State) (p : Nat) (es : List (Nat × Nat × Nat)) (tc : Nat) : Option (TxItem ⊕ (Nat × Nat × Nat)) :=
  match openItem s p tc with
  | some x => if frameMay s p tc (x.frames.head?.map (fun b => b.length + 4)) then some (.inl x) else none
  | none =>
    let last := sparseGet (fun _ => 32) (getPort s p).lastIn tc
    (nextInTurn last (es.filter (fun e => decide (bitsOf e.2.2 18 16 = tc) && mayStart s p e))).map .inr

/-- What the port sends next: of the highest class that has something which may start; while a frame is preempted, only express
classes start one. -/
def choose (s : State) (p : Nat) (es : List (Nat × Nat × Nat)) : Option (TxItem ⊕ (Nat × Nat × Nat)) :=
  ([7, 6, 5, 4, 3, 2, 1, 0].filter (fun tc => (getPort s p).frag.isNone || Config.express p tc)).findSome? (nextOf s p es)

/-- The bytes of the rest of a frame after which it is preempted, if it is (R285): the class is preemptable and preemption is
verified, an express frame is due (`due`) or the gate closes while it is sent, and each fragment has 64 bytes. -/
def preemptAt (s : State) (p tc left : Nat) (due : Option Nat) : Option Nat :=
  if Config.express p tc || !(getPort s p).verified then none
  else
    let gate := ((gateCloses s p tc).filter (fun x => decide (x < vigilNow s + lineTime (portMode s p) left))).map (fun x =>
      bytesIn (portMode s p) (x - vigilNow s) - 4)
    let m := match due, gate with
      | some a, some b => some (min a b)
      | some a, none => some a
      | none, g => g
    (m.map (fun m => max 60 m)).filter (fun m => decide (m + 64 ≤ left))

/-- The check sequence of a fragment that is not the last (802.3br; log entry 217): that of the frame so far, with its upper half
inverted. -/
def fragmentCheck (bs : List Byte) : List Byte :=
  let c := fcsOf bs
  c.take 2 ++ (c.drop 2).map (fun b => b ^^^ 0xFF)

/-- A frame, or what a preemption has left of one, is sent up to its end or up to the next preemption (R285). -/
def sendPart (s : State) (p : Nat) (x : TxFrame) (due : Option Nat) : State :=
  let t := getPort s p
  let back := looped s p
  match preemptAt s p x.tc (x.bytes.length - x.sent) due with
  | some k =>
    let s := setPort s p { t with frag := some { x with sent := x.sent + k, count := x.count + 1 } }
    if back then s
    else emit (noteTx s p (k + 4)) (.fragment p x.count false ((x.bytes.drop x.sent).take k ++ fragmentCheck (x.bytes.take (x.sent + k))))
  | none =>
    if x.sent = 0 then sendEth s p x.bytes (egressTime s p)
    else
      let s := setPort s p { t with frag := none }
      if back then frameArrives s p x.bytes true else emit (noteTx s p (x.bytes.length - x.sent)) (.fragment p x.count true (x.bytes.drop x.sent))

/-- A frame starts: it is timestamped as it leaves (R288). -/
def startFrame (s : State) (p tc : Nat) (bs : List Byte) (due : Option Nat) : State :=
  let r := stampFrame s p bs (egressTime s p)
  sendPart r.1 p { tc := tc, bytes := r.2, sent := 0, count := 0 } due

/-- The frames of an item: the first starts, and the others wait. -/
def startItemFrames (s : State) (p tc : Nat) (frames : List (List Byte)) (due : Option Nat) : State :=
  match frames with
  | [] => s
  | b :: rest =>
    let t := getPort s p
    let q := t.txq.filter (fun x => x.tc ≠ tc)
    let s := setPort s p { t with txq := if rest = [] then q else q ++ [{ tc := tc, frames := rest }] }
    startFrame s p tc b due

/-- Send an item that has been taken from its bobbin (R284). -/
def sendItem (s : State) (p : Nat) (w : Nat × Nat) (ws : List TWord) (due : Option Nat) : State :=
  if itemMisfits w ws then modBob s (bitsOf w.2 47 32) countDrop
  else startItemFrames s p (bitsOf w.2 18 16) ((itemPayloads w ws).map (buildFrame (macOf s p) w)) due

/-- Send the item at the head of a binding and note the binding as the last of its class. -/
def sendBinding (s : State) (p : Nat) (e : Nat × Nat × Nat) (due : Option Nat) : State :=
  let t := getPort s p
  let s := setPort s p { t with lastIn := sparseSet (fun _ => 32) t.lastIn (bitsOf e.2.2 18 16) e.1 }
  let r := egressItem (pointerCheck s (bitsOf e.2.2 47 32) 0).1 (bitsOf e.2.2 47 32)
  sendItem r.1 p e.2 r.2 due

/-- Take what is never sent from the head of every binding's bobbin. -/
def skipBindings (s : State) (p : Nat) : State :=
  (bindings s p).foldl (fun s e => skipHead s (bitsOf e.2.2 47 32)) s

/-- What has been chosen is sent. -/
def sendChosen (s : State) (p : Nat) (due : Option Nat) (x : TxItem ⊕ (Nat × Nat × Nat)) : State :=
  match x with
  | .inl x => startItemFrames s p x.tc x.frames due
  | .inr e => sendBinding s p e due

/-- A preempted frame goes on when no express frame may start and its gate is open. -/
def resumeFrame (s : State) (p : Nat) (due : Option Nat) : State :=
  match (getPort s p).frag with
  | some x => if gateOpen s p x.tc then sendPart s p x due else s
  | none => s

/-- One turn of the transmitter; `due` is the byte of the frame at which an express frame becomes due, if one does. -/
def transmit (s : State) (p : Nat) (due : Option Nat) : State :=
  let t := skipBindings s p
  (choose t p (bindings s p)).elim (resumeFrame t p due) (sendChosen t p due)

/-- ETH_FRAME_TRANSMIT (R285). -/
def execEthFrameTransmit (p : Port) (due : Option Nat) (s : State) : Host.Outcome State Fault Refusal :=
  .next (if ethLive s p.val && (portUp s p.val || flagF s fPCFG_lpbk (portDie p.val) (portIx p.val)) then
      transmit s p.val due
    else s)

/-! ## Stalls, links and configuration -/

/-- EGRESS_STALL_TIMEOUT (R145): the first word of the item at the head has waited longer than the stall timeout. -/
def execEgressStallTimeout (b : BobNo) (s : State) : Host.Outcome State Fault Refusal :=
  .next (
    let x := getBob s b.val
    if decide (x.stall ≠ 0) && decide (x.state = .active) && egressShut s b.val then
      dropStalled (modBob s b.val (fun x => { x with stalled := true })) b.val
    else s)

/-- The bits of PCS_STAT that show the line. -/
structure LineShown where
  link     : Bool
  blkLock  : Bool
  hiBer    : Bool
  remFault : Bool
  fecLock  : Bool
  deriving DecidableEq, Repr

/-- The state of a line in PCS_STAT; a change of the link raises an event, and what was being sent on a link that is lost is cut
short (R315, R341). -/
def showLine (s : State) (p : Nat) (l : LineShown) : State :=
  let d := portDie p
  let m := portIx p
  let was := flagF s fPCS_STAT_link d m
  let s := setF (setF (setF (setF (setF s fPCS_STAT_link d m (bitN l.link)) fPCS_STAT_blk_lock d m (bitN l.blkLock))
    fPCS_STAT_hi_ber d m (bitN l.hiBer)) fPCS_STAT_rem_fault d m (bitN l.remFault)) fPCS_STAT_fec_lock d m (bitN l.fecLock)
  if was = l.link then s
  else
    let s := if was then setPort (countF s fPCS_STAT_los_cnt d m) p { getPort s p with txq := [], frag := none } else unstall s p
    raiseEvent s 0x16 d (BitVec.ofNat 32 p) (regRaw s .PCS_STAT d m)

/-- The line of a port that has lost it: no lock, and no IDLE block seen since. -/
def lineDead : LineShown := { link := false, blkLock := false, hiBer := false, remFault := false, fecLock := false }

/-- A port loses its line. -/
def loseLine (s : State) (p : Nat) : State :=
  showLine (setPort s p { getPort s p with lockCnt := 0, lockBad := 0, idles := [], dlyReq := none, verified := false }) p lineDead

/-- A port that falls silent until it is configured (R313). -/
def cutPort (s : State) (p : Nat) : State :=
  let s := loseLine (cutFrame s p) p
  setPort s p { getPort s p with cut := true, segs := [], txq := [], frag := none }

/-- What a Pickline port sees of its link (R290, R292): the lock that the sync headers give, and whether the last four IDLE blocks
all carried rx_ok = 0. -/
def setPlLine (s : State) (p : Nat) (l : LineState) : State :=
  let t := getPort s p
  let x := l.headers.foldl lockStep (flagF s fPCS_STAT_blk_lock (portDie p) (portIx p), t.lockCnt, t.lockBad)
  let all := t.idles ++ l.rxOk
  let seen := if x.1 then all.drop (all.length - 4) else []
  let up := x.1 && !(decide (seen.length = 4) && seen.all (fun ok => !ok))
  let was := portIdle s p
  let s := showLine (setPort s p { t with lockCnt := x.2.1, lockBad := x.2.2, idles := seen }) p
    { link := up, blkLock := x.1, hiBer := l.hiBer, remFault := decide (seen.getLast? = some false), fecLock := false }
  if ringLive s (p / 2) ∧ portIdle s p ≠ was then ringLine s (p / 2) (decide (p % 2 = 1)) [portIdle s p] else s

/-- Is the FEC of a port on: CFG.fec selects one at 25GBASE-R (R277, R315)? -/
def fecOn (s : State) (p : Nat) : Bool :=
  decide (portMode s p = 3) && decide (getF s fPCFG_fec (portDie p) (portIx p) = 1 ∨ getF s fPCFG_fec (portDie p) (portIx p) = 2)

/-- What an Ethernet port sees of its link (R277): at 1000BASE-X the link comes up when auto-negotiation is done or is off. -/
def setEthLine (s : State) (p : Nat) (l : LineState) : State :=
  let d := portDie p
  let m := portIx p
  let up := l.link && l.blkLock && (decide (portMode s p ≠ 1) || !flagF s fPCFG_an_en d m || l.anDone)
  let s := showLine s p { link := up, blkLock := l.blkLock, hiBer := l.hiBer, remFault := l.remFault,
                           fecLock := l.fecLock && fecOn s p }
  setPort s p { getPort s p with verified := l.verified && up }

/-- The line of a port as its PCS reports it, and the codewords that its FEC has corrected (R315). -/
def setLine (s : State) (p : Nat) (l : LineState) : State :=
  let s := if fecOn s p then addF s fPCS_STAT_fec_ce (portDie p) (portIx p) l.fecCe.toNat else s
  if isPickline (portMode s p) then setPlLine s p l else setEthLine s p l

/-- PORT_LINK_CHANGE (R292): what the PCS of an enabled port reports. -/
def execPortLinkChange (p : Port) (l : LineState) (s : State) : Host.Outcome State Fault Refusal :=
  .next (
    if flagF s fPCFG_en (portDie p.val) (portIx p.val) && decide (portMode s p.val ≠ 0) && portPowered s p.val then
      setLine s p.val l
    else s)

/-- A write of PORT.CFG (R276, R315): mode and fec stay while en was 1. Configuring a silent port ends its silence. A port that
is not enabled has no line, and a ring whose ports are no pair is OFF at once. -/
def portCfgWrite (s : State) (rq : Requester) (p : Nat) (v : Word) : State :=
  let d := portDie p
  let m := portIx p
  if hostBarred rq then s
  else
    let old := regRaw s .PCFG d m
    let s := regWrite s .PCFG d m v
    let s := if bitOf old.toNat 31 then
        setF (setF s fPCFG_mode d m (bitsOf old.toNat 26 24)) fPCFG_fec d m (bitsOf old.toNat 23 22)
      else s
    let s := if flagF s fPCFG_en d m && decide (portMode s p ≠ 0) then s else loseLine s p
    let s := if ringPaired s (p / 2) then s else ringOff s (p / 2)
    setPort s p { getPort s p with cut := false }

/-- PORT_CFG_WRITE (R276). -/
def execPortCfgWrite (rq : Requester) (p : Port) (v : Word) (s : State) : Host.Outcome State Fault Refusal :=
  .next (portCfgWrite s rq p.val v)

/-- The reference of a quad is lost: every mode of the quad fails, its ports are silent until they are configured, and its rings
until run = 1 (R274, R313). -/
def quadFails (s : State) (quad : Nat) : State :=
  let s := { s with ports.quadLost := if s.ports.quadLost.contains quad then s.ports.quadLost else s.ports.quadLost ++ [quad] }
  let s := (List.range 4).foldl (fun s i => cutPort s (4 * quad + i)) s
  muteRing (muteRing s (2 * quad)) (2 * quad + 1)

/-- QUAD_REFERENCE_LOSS (R274, R313): the reference of a quad fails or returns. -/
def execQuadReferenceLoss (quad : Fin 24) (lost : Bool) (s : State) : Host.Outcome State Fault Refusal :=
  .next (if lost then quadFails s quad.val
    else { s with ports.quadLost := s.ports.quadLost.filter (fun q => q ≠ quad.val) })

/-- SERDES_RECALIBRATION (R500): the recalibration interrupts no traffic. -/
def execSerdesRecalibration (_p : Port) (s : State) : Host.Outcome State Fault Refusal := .next s

end Sys2Proof.Machine
end

