-- ==== Sys2Proof/Machine/Pickline.lean ====
section
/-! DEFINITION. Pickline (R289 to R311, R315): frames, the cycle of a ring, the command frame, returned frames, healing,
fault location, discovery and hold frames. -/

namespace Sys2Proof.Machine

/-! ## Rings and node table entries -/

/-- A word of a node table entry (R300). -/
def nodeWord (s : State) (d : Die) (e w : Nat) : Nat :=
  (sparseGet (fun _ => (0 : Word)) s.ports.nodes (d.val * 24576 + 8 * e + w)).toNat

/-- Store a word of a node table entry. -/
def setNodeWord (s : State) (d : Die) (e w v : Nat) : State :=
  { s with ports.nodes := sparseSet (fun _ => (0 : Word)) s.ports.nodes (d.val * 24576 + 8 * e + w) (BitVec.ofNat 32 v) }

/-- Change a field of the status word of an entry (R300, offset 0x14). -/
def setNodeF (s : State) (d : Die) (e hi lo v : Nat) : State :=
  setNodeWord s d e 5 (putBits (nodeWord s d e 5) hi lo v)

/-- The state of a node: nstate (R300). -/
def nstate (s : State) (d : Die) (e : Nat) : Nat := bitsOf (nodeWord s d e 5) 3 0

/-- Is a node marked absent or an identity mismatch (R299)? -/
def nodeMarked (s : State) (d : Die) (e : Nat) : Bool := decide (nstate s d e = 5 ∨ nstate s d e = 6)

/-- The nodes of a ring: count, and the entry of an address (R300). -/
def ringCount (s : State) (k : Nat) : Nat := getF s fPL_NODES_count (ringDie k) (ringIx k)
def ringEntry (s : State) (k addr : Nat) : Nat := getF s fPL_NODES_base (ringDie k) (ringIx k) + addr - 1

/-- The addresses of a ring whose entries are valid, in rising order. -/
def ringAddrs (s : State) (k : Nat) : List Nat :=
  ((List.range (ringCount s k)).map (fun i => i + 1)).filter (fun a =>
    decide (ringEntry s k a < 3072) && bitOf (nodeWord s (ringDie k) (ringEntry s k a) 0) 31)

/-- Command and status words of an entry (R300). -/
def cmdWords (s : State) (k a : Nat) : Nat := min 256 (bitsOf (nodeWord s (ringDie k) (ringEntry s k a) 4) 8 0)
def statWords (s : State) (k a : Nat) : Nat := min 256 (bitsOf (nodeWord s (ringDie k) (ringEntry s k a) 4) 24 16)

/-- The bobbins of an entry (R300). -/
def cmdBobbin (s : State) (k a : Nat) : Nat := bitsOf (nodeWord s (ringDie k) (ringEntry s k a) 3) 31 16
def statBobbin (s : State) (k a : Nat) : Nat := bitsOf (nodeWord s (ringDie k) (ringEntry s k a) 3) 15 0

/-- The data blocks of the ring's COMMAND and COLLECT frames: C and S of R301. -/
def cmdBlocks (s : State) (k : Nat) : Nat := 3 + ((ringAddrs s k).map (fun a => 1 + (cmdWords s k a + 1) / 2)).sum
def statBlocks (s : State) (k : Nat) : Nat := 3 + ((ringAddrs s k).map (fun a => 1 + (statWords s k a + 1) / 2)).sum

/-- Do the frames of a ring fit its cycle (R301)? -/
def ringFits (s : State) (k : Nat) : Bool :=
  let c := cmdBlocks s k
  let t := statBlocks s k
  let per := getF s fPL_PERIOD_value (ringDie k) (ringIx k)
  let lead := min (getF s fPL_LEAD_value (ringDie k) (ringIx k)) (per - 2000)
  decide (c ≤ 8191) && decide (t ≤ 8191) && decide ((c + 2) * blockTime s k + 30000 ≤ 10 * lead) &&
    decide ((t + 2) * blockTime s k + 30000 ≤ 10 * per)

/-- The state of a die that DEV_STATE shows (R323). -/
def dieState (s : State) (d : Die) : Nat := if d = 0 then getF s fDEV_STATE_die0 0 0 else getF s fDEV_STATE_die1 0 0

/-- The reason for which a ring sends hold frames, 0 for none (R294, R310): an image load from a reset until the start-up sequence
has ended, and from DIE_RELOAD in a live update. -/
def holdReason (s : State) (k : Nat) : Nat :=
  let d := ringDie k
  if dieHeld s d then 1
  else if !flagF s fCFG_STAT_done d 0 || (getImg s d).loading || (getImg s d).starting then 2
  else if dieHalted s d then 3
  else if flagF s fPL_CTL_run d (ringIx k) then 0
  else 4

/-- An event of a ring (R341). -/
def ringEvent (s : State) (k : Nat) : State :=
  raiseEvent s 0x14 (ringDie k) (BitVec.ofNat 32 k) (regRaw s .PL_STAT (ringDie k) (ringIx k))

/-! ## Building the command frame (R304) -/

/-- Count an item of a bobbin that the port discards. -/
def ringDrop (s : State) (n : Nat) : State := modBob s n countDrop

/-- Take the newest item of a bobbin, discarding older ones; or with `latest` false the oldest. -/
def takeNewest (latest : Bool) : Nat → State → Nat → State × List TWord
  | 0, s, n => egressItem s n
  | k + 1, s, n =>
    if latest && decide (1 < (egressItems (getBob s n)).length) then
      takeNewest latest k (ringDrop (egressItem s n).1 n) n
    else egressItem s n

/-- Is the producer of a bobbin a yarn that is STOPPED? A crossing yarn lives on the other die (R21), and of the copies of a twin
one that is not stopped goes on. -/
def producerStopped (s : State) (n : Nat) : Bool :=
  let b := getBob s n
  let has (x : YState) : Bool := [(0 : Die), 1].any (fun d => decide ((getYarn s d b.prodId.toNat).state = x))
  decide (b.prod = .yarn) && has .stopped && !(has .run || has .hold || has .replay)

/-- May the ring take items from a bobbin: is its consumer one of the ring's ports? -/
def ringTakes (s : State) (k n : Nat) : Bool :=
  let b := getBob s n
  decide (b.cons = .port) && decide (b.consId.toNat / 2 = k) && decide (b.state = .active)

/-- The last command sent to a node. -/
def lastCmd (s : State) (k a : Nat) : List Word := sparseGet (fun _ => []) s.ports.lastCmd (k * 256 + a)

/-- Fill the slot of one node (R304 steps 1 to 3). -/
def fillSlot (s : State) (k a : Nat) : State × CmdSlot :=
  let d := ringDie k
  let e := ringEntry s k a
  let n := cmdBobbin s k a
  let cw := cmdWords s k a
  let seq := bitsOf (nodeWord s d e 5) 31 24
  let last := (lastCmd s k a ++ List.replicate cw 0).take cw
  let idle : CmdSlot := { addr := a, seq := BitVec.ofNat 8 seq, valid := false, safe := false, data := last }
  if bitOf (nodeWord s d e 0) 29 || nodeMarked s d e || producerStopped s n then (s, { idle with safe := true })
  else if cw = 0 ∨ !ringTakes s k n then (s, idle)
  else
    let s := skipHead (pointerCheck s n 0).1 n
    if (egressItems (getBob s n)).isEmpty then (s, idle)
    else
      let r := takeNewest (bitOf (nodeWord s d e 0) 28) (getBob s n).items.length s n
      if decide (r.2.length = cw) && decide ((r.2.map (fun (x : TWord) => tagKind x.tag)).headD 0 = 0) then
        (r.1, { idle with valid := true, seq := BitVec.ofNat 8 (seq + 1), data := r.2.map (fun x => x.data) })
      else (ringDrop r.1 n, idle)

/-- Step 1 of R303: the slots of every valid node. -/
def buildCommand (s : State) (k : Nat) : State :=
  let r := (ringAddrs s k).foldl (fun (r : State × List CmdSlot) a =>
    let x := fillSlot r.1 k a
    (x.1, r.2 ++ [x.2])) (s, [])
  setRing r.1 k { getRing r.1 k with slots := r.2, built := true }

/-- PL_FRAME_BUILD (R304). -/
def execPlFrameBuild (k : Ring) (s : State) : Host.Outcome State Fault Refusal :=
  .next (if ringLive s k.val && !(getRing s k.val).built then buildCommand s k.val else s)

/-- The slots of a COMMAND frame for the addresses of a range (R295). -/
def commandSlots (r : RingSt) (lo hi : Nat) : List PlSlot :=
  (r.slots.filter (fun c => decide (lo ≤ c.addr) && decide (c.addr ≤ hi))).map (fun c =>
    let bs := blocksOf c.data
    { head := c.seq.toNat * 2 ^ 24 + bitN c.safe * 2 ^ 17 + bitN c.valid * 65536 + bs.length * 256 + c.addr, data := bs })

/-- The slots of a COLLECT frame for the addresses of a range, none of them valid (R303). -/
def collectSlots (s : State) (k lo hi : Nat) : List PlSlot :=
  ((ringAddrs s k).filter (fun a => decide (lo ≤ a) && decide (a ≤ hi))).map (fun a =>
    let n := (statWords s k a + 1) / 2
    { head := n * 256 + a, data := List.replicate n 0 })

/-! ## Returned frames (R303, R305, R306) -/

/-- The pick instant of the cycle under way. -/
def pickAt (r : RingSt) : Nat := r.start + r.lead

/-- A status slot (R305). An entry with stat_words = 0 takes no item, and its echo_seq, miss and nstate follow the slot all the same
(DESIGN CHOICE, log entry 260). -/
def takeStatus (s : State) (k : Nat) (t : PlSlot) : State :=
  let a := bitsOf t.head 7 0
  let r := getRing s k
  if !bitOf t.head 16 || r.taken.contains a || !(ringAddrs s k).contains a then s
  else
    let d := ringDie k
    let e := ringEntry s k a
    let s := setRing s k { r with taken := r.taken ++ [a] }
    let sw := statWords s k a
    let ws := (wordsOfBlocks t.data ++ List.replicate sw 0).take sw
    let exp := bitsOf (nodeWord s d e 4) 30 26
    let n := statBobbin s k a
    let b := getBob s n
    let s := if sw = 0 ∨ b.state = .free ∨ b.prod ≠ .port ∨ b.prodId.toNat / 2 ≠ k then s
      else dropStalled (writeItem (pointerCheck s n 0).1 n (itemWords ws 0 exp false)) n
    let s := setNodeF (setNodeF s d e 23 16 (bitsOf t.head 31 24)) d e 15 8 0
    if nodeMarked s d e then s
    else setNodeF s d e 3 0 (if bitOf t.head 18 then 3 else if bitOf t.head 17 then 2 else 1)

/-- Reach and identities that a used frame gives (R299, R307). -/
def noteReach (r : RingSt) (n : Nat) (f : PlFrame) (odd : Bool) : RingSt :=
  let r := if f.origin then { r with oddReach := r.oddReach ++ [if f.turned then f.turnAddr else 1] }
    else { r with evenReach := r.evenReach ++ [if f.turned then f.turnAddr else n] }
  let r := if !f.origin && odd && !f.turned then { r with whole := true } else r
  if f.ftype = 4 then
    { r with found := r.found ++ f.slots.map (fun t => (bitsOf t.head 7 0, t.data.headD 0)) }
  else r

/-- A frame that has come back is no longer awaited. -/
def noteBack (r : RingSt) (f : PlFrame) : RingSt :=
  if f.ftype = 1 ∨ (f.ftype = 4 ∧ !f.origin) then { r with cmdOut := r.cmdOut.erase f.origin }
  else { r with colOut := r.colOut.erase f.origin }

/-- Does a frame count as a late COMMAND frame (R303)? -/
def leadLate (s : State) (r : RingSt) (f : PlFrame) : Bool :=
  (decide (f.ftype = 1) || (decide (f.ftype = 4) && !f.origin)) && r.cmdOut.contains f.origin && !r.picked &&
    decide (pickAt r < vigilNow s + 1000) && decide (vigilNow s ≤ pickAt r)

/-- A returned frame that is used (R303, R305 to R307). -/
def useFrame (s : State) (k : Nat) (odd : Bool) (f : PlFrame) : State :=
  let r := getRing s k
  let d := ringDie k
  let late := leadLate s r f
  let s := setRing s k (noteReach (noteBack r f) (ringCount s k) f odd)
  let s := if late then
      let s := countF s fPL_ERR_lead d (ringIx k)
      raiseEvent s 0x15 d (BitVec.ofNat 32 k) (regRaw s .PL_ERR d (ringIx k))
    else s
  if f.ftype = 2 then f.slots.foldl (fun s t => takeStatus s k t) s else s

/-- A returned frame that is not used is counted (R306). -/
def rejectFrame (s : State) (k : Nat) : State := countF s fPL_ERR_crc (ringDie k) (ringIx k)

/-- What a returned frame does before any healing: the frame, if it is used (R306). -/
def takeBack (s : State) (k : Nat) (odd : Bool) (blocks : List PlBlock) : State × Option PlFrame :=
  let r := getRing s k
  match plParse blocks with
  | none => (rejectFrame s k, none)
  | some f =>
    if f.ring ≠ k ∨ f.cycle ≠ r.cycle.toNat then (rejectFrame s k, none)
    else if !f.good then (rejectFrame (setRing s k (noteBack r f)) k, none)
    else (useFrame s k odd f, some f)

/-- A frame leaves a port of a ring at a time, and two IDLE blocks after it (R291); near-end loopback brings it back to the same
port (R315). -/
def leaveRing (s : State) (k : Nat) (odd : Bool) (blocks : List PlBlock) : State :=
  let p := ringPort k odd
  if looped s p then (takeBack s k odd blocks).1
  else emit s (.ring k odd (blocks ++ [portIdle s p, portIdle s p]))

/-- Send a frame out of a port of a ring at a time; a COMMAND, COLLECT or DISCOVER frame is then awaited, and a condition of R310
may cut a COMMAND or COLLECT frame short. -/
def sendRing (s : State) (k ftype : Nat) (odd : Bool) (time tTx h2 : Nat) (slots : List PlSlot) : State :=
  let r := getRing s k
  let blocks := plFrame s k ftype odd tTx h2 slots
  let first := decide (ftype = 1) || (decide (ftype = 4) && !odd)
  let out := if ftype = 1 ∨ ftype = 2 then r.sending ++ [(odd, time, blocks)] else r.sending
  if ftype = 3 then leaveRing s k odd blocks
  else if first then leaveRing (setRing s k { r with cmdOut := r.cmdOut ++ [odd], sending := out }) k odd blocks
  else leaveRing (setRing s k { r with colOut := r.colOut ++ [odd], sending := out }) k odd blocks

/-! ## The cycle (R302, R303, R309, R310) -/

/-- The first start of a grid at or after a time (R302). -/
def gridStart (period base t : Nat) : Int :=
  -((-((t : Int) - base)) / (period : Int))

/-- The start of the next cycle, and the grid it belongs to. -/
def nextGrid (s : State) (k : Nat) : RingSt :=
  let r := getRing s k
  let d := ringDie k
  let i := ringIx k
  let held := decide (holdReason s k = 1 ∨ holdReason s k = 2)
  let keep := held && r.running
  let period := if keep then r.period else getF s fPL_PERIOD_value d i
  let base := if keep then r.base
    else getF s fPL_BASE_S_value d i * 1000000000 + getF s fPL_BASE_NS_value d i
  let lead := min (if keep then r.lead else getF s fPL_LEAD_value d i) (period - 2000)
  let after := r.start + r.period
  let t := if r.running && decide (vigilNow s < after + r.period) then after else vigilNow s
  let n := gridStart period base t
  { r with running := true, period := period, base := base, lead := lead
           start := ((base : Int) + n * period).toNat
           cycle := BitVec.ofInt 16 n }

/-- Frames of a cycle in ring or linear mode (R303, R309). -/
def sendCycle (s : State) (k : Nat) (linear : Bool) : State :=
  let r := getRing s k
  let n := ringCount s k
  let pick := plTime (pickAt r)
  let prev := plTime r.prevPick
  let now := plTime r.start
  if !linear then
    sendRing (sendRing s k ftCommand false r.start now pick (commandSlots r 1 n)) k ftCollect true r.start now prev
      (collectSlots s k 1 n)
  else
    let ab : Nat × Nat := match r.prev with
      | some (_, a, b) => (a, b)
      | none => (0, n + 1)
    let side (s : State) (odd : Bool) (lo hi : Nat) : State :=
      let cs := commandSlots r lo hi
      let len := 5 + (cs.map (fun c => 1 + c.data.length)).sum
      let t2 := r.start + (len + 2) * blockTime s k / 10
      sendRing (sendRing s k ftCommand odd r.start now pick cs) k ftCollect odd t2 (plTime t2) prev
        (collectSlots s k lo hi)
    let s := if portUp s (2 * k) then side s false 1 (max ab.1 (ab.2 - 1)) else s
    if portUp s (2 * k + 1) then side s true (min (ab.1 + 1) ab.2) n else s

/-- What was taken for a frame that is not sent is discarded (R304). -/
def dropSlots (s : State) (k : Nat) : State :=
  ((getRing s k).slots.filter (fun c => c.valid)).foldl (fun s c => ringDrop s (cmdBobbin s k c.addr)) s

/-- What a COMMAND frame carries is the last command sent (R300, R304). -/
def noteSent (s : State) (k : Nat) : State :=
  ((getRing s k).slots.filter (fun c => c.valid)).foldl (fun s c =>
    let s := setNodeF s (ringDie k) (ringEntry s k c.addr) 31 24 c.seq.toNat
    { s with ports.lastCmd := sparseSet (fun _ => []) s.ports.lastCmd (k * 256 + c.addr) c.data }) s

/-- Neither row of R301 allows a frame of more than 8,191 data blocks. -/
def ringTooLong (s : State) (k : Nat) : Bool := decide (8191 < cmdBlocks s k) || decide (8191 < statBlocks s k)

/-- PL_STAT's state and cycle at a cycle start (R315). -/
def showCycle (s : State) (k mode : Nat) : State :=
  let r := getRing s k
  let s := setRing s k { r with mode := mode }
  setF (setF s fPL_STAT_rstate (ringDie k) (ringIx k) mode) fPL_STAT_cycle (ringDie k) (ringIx k) (r.cycle.toNat % 256)

/-- A cycle begins (R299, R303, R309, R310). With both port links down no frame can leave: what was taken for one is discarded, as
in a hold, and cmd_seq stays (DESIGN CHOICE, log entry 259). -/
def cycleStart (s : State) (k : Nat) : State :=
  let s := if (getRing s k).built then s else buildCommand s k
  let old := getRing s k
  let r := nextGrid s k
  let prevPick := if old.running then pickAt old else r.start + r.lead - r.period
  let s := setRing s k { r with ended := false, built := false, picked := false, cmdOut := [], colOut := [], sending := [],
                                evenReach := [], oddReach := [], whole := false, taken := [], found := []
                                prevPick := prevPick }
  let reason := holdReason s k
  let long := decide (reason = 0) && ringTooLong s k
  let tTx := if reason = 1 ∨ reason = 2 then 0 else plTime r.start
  if reason ≠ 0 ∨ long then
    let s := showCycle (dropSlots s k) k 3
    let s := if long then ringEvent (countF s fPL_ERR_lost (ringDie k) (ringIx k)) k else s
    let h2 := if long then 4 else reason
    sendRing (sendRing s k ftHold false r.start tTx h2 []) k ftHold true r.start tTx h2 []
  else if r.discPend then
    let s := showCycle (dropSlots s k) k 4
    let s := setRing s k { getRing s k with discPend := false }
    let n := ringCount s k
    sendRing (sendRing s k ftDiscover false r.start tTx n []) k ftDiscover true r.start tTx n []
  else
    let upE := portUp s (2 * k)
    let upO := portUp s (2 * k + 1)
    let intact := (match r.prev with
      | some (f, _, _) => decide (f = 1)
      | none => false) && upE && upO
    if !upE && !upO then showCycle (dropSlots s k) k 5
    else sendCycle (noteSent (showCycle s k (if intact then 1 else 2)) k) k (!intact)

/-! ## The end of a cycle (R299, R303, R305, R307) -/

/-- Count lost frames. -/
def countLost (s : State) (k n : Nat) : State :=
  (List.range n).foldl (fun s _ => countF s fPL_ERR_lost (ringDie k) (ringIx k)) s

/-- a and b of R307. -/
def reachA (s : State) (k : Nat) (r : RingSt) : Nat := if portUp s (2 * k) then r.evenReach.foldl max 0 else 0
def reachB (s : State) (k : Nat) (r : RingSt) : Nat :=
  if portUp s (2 * k + 1) then r.oddReach.foldl min (ringCount s k + 1) else ringCount s k + 1

/-- The row of R307 that applies: 1 intact, 2 down, 3 a broken link, 4 unreachable nodes, 5 a one-way fault. -/
def finding (s : State) (k : Nat) (r : RingSt) : Nat × Nat × Nat :=
  let a := reachA s k r
  let b := reachB s k r
  (if r.whole then 1
   else if !portUp s (2 * k) && !portUp s (2 * k + 1) then 2
   else if b = a + 1 then 3
   else if a + 1 < b then 4
   else 5, a, b)

/-- Two findings are one ring state when they name the same fault. -/
def sameFinding (x y : Nat × Nat × Nat) : Bool :=
  decide (x.1 = y.1) && (decide (x.1 ≤ 2) || decide (x.2 = y.2))

/-- The nodes that a break has cut off (R307). -/
def markUnreachable (s : State) (k : Nat) (f : Nat × Nat × Nat) : State :=
  if f.1 ≠ 4 then s
  else ((ringAddrs s k).filter (fun a => decide (f.2.1 < a) && decide (a < f.2.2) && !(getRing s k).taken.contains a)).foldl
    (fun s a =>
      let e := ringEntry s k a
      if nodeMarked s (ringDie k) e then s else setNodeF s (ringDie k) e 3 0 4) s

/-- The identity that an entry expects, as a DISCOVER slot gives it (R295, R300). -/
def nodeIdentity (s : State) (d : Die) (e : Nat) : Nat := nodeWord s d e 1 + nodeWord s d e 2 * 2 ^ 32

/-- What a discovery finds of a node (R299): 6 absent, 5 an identity mismatch, 1 present. -/
def discovered (s : State) (k a : Nat) : Nat :=
  let e := ringEntry s k a
  let ids := ((getRing s k).found.filter (fun x => decide (x.1 = a))).map (fun x => x.2)
  if ids = [] then 6
  else if bitOf (nodeWord s (ringDie k) e 0) 30 && ids.any (fun i => decide (i ≠ nodeIdentity s (ringDie k) e)) then 5
  else 1

/-- The device compares what a discovery returned with the node table (R299). A node that is found and matches becomes present,
whatever its state was: the rule names only absent and identity mismatch (DESIGN CHOICE, log entry 258). -/
def compareNodes (s : State) (k : Nat) : State :=
  let as := ringAddrs s k
  let bad := as.any (fun a => decide (discovered s k a ≠ 1))
  let s := as.foldl (fun s a => setNodeF s (ringDie k) (ringEntry s k a) 3 0 (discovered s k a)) s
  if bad then ringEvent s k else s

/-- Nodes with no valid slot in any frame that returned in the cycle, whatever the cycle sent (R305). -/
def countMisses (s : State) (k : Nat) : State :=
  ((ringAddrs s k).filter (fun a => !(getRing s k).taken.contains a)).foldl (fun s a =>
    let e := ringEntry s k a
    setNodeF s (ringDie k) e 15 8 (stopAt 255 (bitsOf (nodeWord s (ringDie k) e 5) 15 8))) s

/-- The end of a cycle. -/
def cycleEnd (s : State) (k : Nat) : State :=
  let r := getRing s k
  if !r.running || r.ended then s
  else
    let d := ringDie k
    let i := ringIx k
    let s := countLost s k (r.colOut.length + (if r.picked then 0 else r.cmdOut.length))
    let f := finding s k r
    let s := markUnreachable s k f
    let s := setRing s k { r with ended := true, colOut := [], cmdOut := [], prev := some f }
    let s := setF (setF s fPL_STAT_even_reach d i f.2.1) fPL_STAT_odd_first d i f.2.2
    let s := match r.prev with
      | some p => if sameFinding p f then s else ringEvent s k
      | none => s
    let s := countMisses s k
    if r.mode = 4 then compareNodes s k else s

/-- PL_CYCLE_END (R307). -/
def execPlCycleEnd (k : Ring) (s : State) : Host.Outcome State Fault Refusal :=
  .next (if ringLive s k.val then cycleEnd s k.val else s)

/-- PL_CYCLE_START (R303). -/
def execPlCycleStart (k : Ring) (s : State) : Host.Outcome State Fault Refusal :=
  .next (if ringLive s k.val then cycleStart (cycleEnd s k.val) k.val
    else if (getRing s k.val).running then ringOff s k.val else s)

/-- PL_PICK_INSTANT (R303): COMMAND frames that have not returned are lost. -/
def execPlPickInstant (k : Ring) (s : State) : Host.Outcome State Fault Refusal :=
  .next (
    let r := getRing s k.val
    if ringLive s k.val && r.running && !r.ended && !r.picked then
      setRing (countLost s k.val r.cmdOut.length) k.val { r with cmdOut := [], picked := true }
    else s)

/-! ## Healing (R308) -/

/-- Healing within the cycle (R308), 0.1 µs after the EOF of the turned frame. -/
def heal (s : State) (k : Nat) (f : PlFrame) (odd : Bool) : State :=
  let r := getRing s k
  let now := vigilNow s + 100
  let count (s : State) : State := countF s fPL_ERR_heal (ringDie k) (ringIx k)
  if r.mode ≠ 1 ∨ !flagF s fPL_CTL_heal (ringDie k) (ringIx k) ∨ !f.turned then s
  else if f.ftype = 1 ∧ !f.origin ∧ !odd ∧ !r.picked ∧ vigilNow s < pickAt r then
    count (sendRing s k ftCommand true now (plTime now) (plTime (pickAt r)) (commandSlots r (f.turnAddr + 1) (ringCount s k)))
  else if f.ftype = 2 ∧ f.origin ∧ odd ∧ vigilNow s < r.start + r.period then
    count (sendRing s k ftCollect false now (plTime now) (plTime r.prevPick) (collectSlots s k 1 (f.turnAddr - 1)))
  else s

/-- A frame returns at a port of a ring (R306, R308). -/
def frameBack (s : State) (k : Nat) (odd : Bool) (blocks : List PlBlock) : State :=
  let r := takeBack s k odd blocks
  match r.2 with
  | some f => heal r.1 k f odd
  | none => r.1

/-- PL_FRAME_RETURN (R306): outside a cycle no frame is one of the current cycle. -/
def execPlFrameReturn (k : Ring) (odd : Bool) (blocks : List PlBlock) (s : State) : Host.Outcome State Fault Refusal :=
  .next (
    let r := getRing s k.val
    if !ringLive s k.val then s
    else if r.running && !r.ended then frameBack s k.val odd blocks
    else rejectFrame s k.val)

/-! ## Delays, discovery, run and grid (R297, R299, R302, R310) -/

/-- The device asks the far station of a trunk link for its delay, at a time in units of 2⁻⁸ ns (R297). In loopback the request
and its answer reach no line: the port receives its own (R315). -/
def askDly (s : State) (k : Nat) (odd : Bool) (now : Nat) : State :=
  let t := getPort s (ringPort k odd)
  ringLine (setPort s (ringPort k odd) { t with dlySeq := t.dlySeq + 1, dlyReq := some (t.dlySeq, now) }) k odd
    [dlyBlock false t.dlySeq 0]

/-- The link delay that an exchange gives, in units of 0.25 ns (R297, R315). -/
def dlyOf (sent now turn : Nat) : Nat := min 65535 ((now - sent - turn) / 2 / 64)

/-- A DLY block arrives: a request is answered, and the response to the device's own request gives the delay of the link. `x` is
the time of its arrival for a response, and the time until its answer leaves for a request (R297). -/
def takeDly (s : State) (k : Nat) (odd : Bool) (b : Nat) (x : Nat) : State :=
  let p := ringPort k odd
  let seq := BitVec.ofNat 16 (bitsOf b 31 16)
  if !bitOf b 8 then ringLine s k odd [dlyBlock true seq (BitVec.ofNat 32 x)]
  else
    match (getPort s p).dlyReq with
    | none => s
    | some (q, sent) =>
      if q = seq then
        setF (setPort s p { getPort s p with dlyReq := none }) (if odd then fPL_DLY_dly_odd else fPL_DLY_dly_even) (ringDie k) (ringIx k)
          (dlyOf sent x (bitsOf b 63 32))
      else s

/-- DLY (R297): with no block the device sends a request; other blocks than DLY are none of the exchange. -/
def execDly (k : Ring) (odd : Bool) (got : Option PlBlock) (x : BitVec 64) (s : State) : Host.Outcome State Fault Refusal :=
  .next (
    if !ringLive s k.val then s
    else
      match got with
      | none => askDly s k.val odd x.toNat
      | some b => if isDly b then takeDly s k.val odd b.data.toNat x.toNat else s)

/-- A write of PL_CTL.run: from 0 to 1 it asks for a discovery and ends the ring's silence (R299, R313); from 1 to 0 it ends the
frames that the ring is sending (R310). -/
def setRun (s : State) (k : Nat) (v : Bool) : State :=
  let d := ringDie k
  let i := ringIx k
  let was := flagF s fPL_CTL_run d i
  let s := setF s fPL_CTL_run d i (bitN v)
  if v && !was then setRing s k { getRing s k with discPend := true, silent := false }
  else if v then setRing s k { getRing s k with silent := false }
  else if was then stompRing s k
  else s

/-- PL_RUN_WRITE (R310). -/
def execPlRunWrite (rq : Requester) (k : Ring) (v : Bool) (s : State) : Host.Outcome State Fault Refusal :=
  .next (if hostBarred rq then s else setRun s k.val v)

/-- PL_DISCOVER (R299). -/
def execPlDiscover (rq : Requester) (k : Ring) (s : State) : Host.Outcome State Fault Refusal :=
  .next (if hostBarred rq then s else setRing s k.val { getRing s k.val with discPend := true })

/-- A write of PL_CTL (R315). -/
def plCtlWrite (s : State) (rq : Requester) (k : Nat) (v : Word) : State :=
  if hostBarred rq then s
  else
    let s := setF s fPL_CTL_heal (ringDie k) (ringIx k) (bitsOf v.toNat 29 29)
    let s := setRun s k (bitOf v.toNat 31)
    if bitOf v.toNat 30 then setRing s k { getRing s k with discPend := true } else s

/-- The registers of the grid (R302, R315). -/
def gridReg (i : Nat) : Reg :=
  match i with
  | 0 => .PL_PERIOD
  | 1 => .PL_BASE_NS
  | 2 => .PL_BASE_S
  | _ => .PL_LEAD

/-- A write of a grid register: a lead outside 2,000 ns to the period less 2,000 ns is reserved (R302). -/
def gridWrite (s : State) (rq : Requester) (k i : Nat) (v : Word) : State :=
  let d := ringDie k
  let x := bitsOf v.toNat 20 0
  if hostBarred rq then s
  else if 3 ≤ i then
    (if 2000 ≤ x ∧ x + 2000 ≤ getF s fPL_PERIOD_value d (ringIx k) then setF s fPL_LEAD_value d (ringIx k) x else s)
  else regWrite s (gridReg i) d (ringIx k) v

/-- PL_GRID_WRITE (R302). -/
def execPlGridWrite (rq : Requester) (k : Ring) (reg : Fin 4) (v : Word) (s : State) : Host.Outcome State Fault Refusal :=
  .next (gridWrite s rq k.val reg.val v)

end Sys2Proof.Machine
end

