-- ==== Sys2Proof/Machine/Queues.lean ====
section
/-! DEFINITION. The queue pairs (R326 to R329): doorbells, enabling and disabling, completions written to the host
(R331), their messages (R327, R342); and the states of the host link that reach them (R316, R343, R480). -/

namespace Sys2Proof.Machine

/-! ## Doorbells (R327, R328) -/

/-- Does a write by the host reach the Host Window? D3hot disables it (R316). -/
def windowOpen (s : State) : Bool := !s.host.d3hot

/-- Is a queue pair enabled? -/
def qpEnabled (s : State) (q : Nat) : Bool := flagF s fQP_CTL_en 0 q

/-- Count a refused doorbell. -/
def doorbellError (s : State) : State := countF s fHOST_ERR_db_err 0 0

/-- A queue pair stops on an error (R326, R327). -/
def stopQp (s : State) (q cause : Nat) : State :=
  setF (setF (setQp s q { getQp s q with stopped := true }) fQP_STAT_err 0 q 1) fQP_STAT_cause 0 q cause

/-- A doorbell write in DOZE wakes the device (R437). -/
def ringBell (s : State) : State := if s.rst.dozing then { s with host.bell := true } else s

/-- A write of a submission tail: one above sq_size stops the queue pair (R327). -/
def sqTailWrite (s : State) (q v : Nat) : State :=
  if !qpEnabled s q then doorbellError s
  else if sqDepth s q ≤ v then doorbellError (stopQp s q 1)
  else setQp s q { getQp s q with sqTail := v }

/-- SQ_TAIL_DOORBELL (R327). -/
def execSqTailDoorbell (q : Qp) (v : BitVec 16) (s : State) : Host.Outcome State Fault Refusal :=
  .next (if windowOpen s then ringBell (sqTailWrite s q.val v.toNat) else s)

/-- A write of a completion head (R327, R328); one outside the queue names no entry and is ignored. -/
def cqHeadWrite (s : State) (q v : Nat) : State :=
  if !qpEnabled s q then doorbellError s
  else if cqDepth s q ≤ v then s
  else setQp s q { getQp s q with cqHead := v }

/-- CQ_HEAD_DOORBELL (R327). -/
def execCqHeadDoorbell (q : Qp) (v : BitVec 16) (s : State) : Host.Outcome State Fault Refusal :=
  .next (if windowOpen s then ringBell (cqHeadWrite s q.val v.toNat) else s)

/-! ## Enabling and disabling (R327, R329) -/

/-- en goes to 1 (R327 step 1). QP_STAT.err and cause stay until they are cleared by their own rules (R326). -/
def enableQp (s : State) (q : Nat) (v : Word) : State :=
  let s := setF (regWrite s .QP_CTL 0 q v) fQP_STAT_sq_head 0 q 0
  setF (setQp s q qpInit) fQP_STAT_ready 0 q 1

/-- en goes to 0 (R329): staged commands are discarded, and those in progress end without a completion. -/
def disableQp (s : State) (q : Nat) (v : Word) : State :=
  let s := regWrite s .QP_CTL 0 q v
  let mine (c : HostCmd) : Bool := decide (c.qp.val = q)
  let s := { s with host := { s.host with
    staged := s.host.staged.filter (fun c => !mine c.cmd)
    waits := s.host.waits.map (fun w => if w.qp.val = q then { w with mute := true } else w) } }
  let s := [(0 : Die), 1].foldl (fun s d =>
    let r := getRt s d
    setRt s d { r with mailbox := r.mailbox.map (fun m => if mine m.cmd then { m with mute := true } else m) }) s
  drainQp (setQp s q { getQp s q with draining := true }) q

/-- A write of QP_CTL: while en = 1 it changes coal and not the vector (R326). -/
def qpCtlWrite (s : State) (q : Nat) (v : Word) : State :=
  let t := setF s fQP_CTL_coal 0 q (bitsOf v.toNat 7 0)
  match qpEnabled s q, bitOf v.toNat 31 with
  | false, false => regWrite s .QP_CTL 0 q v
  | false, true => enableQp s q v
  | true, true => t
  | true, false => disableQp t q (BitVec.ofNat 32 ((regRaw t .QP_CTL 0 q).toNat % 2 ^ 31))

/-- QP_ENABLE (R327): a write of QP_CTL with en = 1. -/
def execQpEnable (q : Qp) (v : Word) (s : State) : Host.Outcome State Fault Refusal :=
  .next (if windowOpen s then qpCtlWrite s q.val (v ||| 0x80000000#32) else s)

/-- QP_DISABLE (R329): a write of QP_CTL with en = 0. -/
def execQpDisable (q : Qp) (v : Word) (s : State) : Host.Outcome State Fault Refusal :=
  .next (if windowOpen s then qpCtlWrite s q.val (v &&& 0x7FFFFFFF#32) else s)

/-- QP_DISABLE_TIMEOUT (R329): 100 µs after the write ready clears, whatever still runs. -/
def execQpDisableTimeout (q : Qp) (s : State) : Host.Outcome State Fault Refusal :=
  .next (if (getQp s q.val).draining then endQp s q.val else s)

/-! ## Completions (R327, R328, R331) -/

/-- The 32 bytes of a completion (R331). -/
def completionBytes (s : State) (q : Nat) (c : Completion) : List Byte :=
  leBytes 4 c.result0.toNat ++ leBytes 4 c.result1.toNat ++ leBytes 4 c.result2.toNat ++ leBytes 4 0 ++
    leBytes 8 c.beat.toNat ++ leBytes 4 (q * 65536 + getF s fQP_STAT_sq_head 0 q) ++
    leBytes 4 (c.status.toNat * 2 ^ 24 + bitN (getQp s q).phase * 65536 + c.cid.toNat)

/-- The message of a queue pair, at most one in its interval (R326, R327). -/
def queueMessage (s : State) (q : Nat) : State :=
  let p := getQp s q
  let v := getF s fQP_CTL_vector 0 q
  if getF s fQP_CTL_coal 0 q = 0 then sendMsi s v
  else if p.coalBusy then setQp s q { p with msgDue := true }
  else sendMsi (setQp s q { p with coalBusy := true }) v

/-- Do the beats of a die advance: its engine has started and works, and the device is awake? -/
def beatsAdvance (s : State) (d : Die) : Bool :=
  (getBeat s d).started && domWorks s d 56 && !s.rst.dozing && !s.rst.vigil && decide (getF s fVGL_PWR_state 0 0 = 0)

/-- Is a completion that of an event of a beat that has not ended? Further events of the beat may merge into it, so that it is
written after the beat (R340; log entry 267). -/
def heldEvent (s : State) (c : Completion) : Bool :=
  match c.event with
  | some (_, d, _, ord) => beatsAdvance s d && decide (ord = (getBeat s d).ord)
  | none => false

/-- The first completion that may be written, and the others in their order. -/
def nextCompletion (s : State) : List Completion → Option (Completion × List Completion)
  | [] => none
  | c :: cs => if heldEvent s c then (nextCompletion s cs).map (fun r => (r.1, c :: r.2)) else some (c, cs)

/-- Has a queue pair stopped on a completion write that failed (R326)? -/
def writeStopped (s : State) (q : Nat) : Bool := (getQp s q).stopped && decide (getF s fQP_STAT_cause 0 q = 3)

/-- Write the first completion that may be written, if there is a free entry (R328); a data buffer is written before it. -/
def writeCompletion (s : State) (q : Nat) (ok : Bool) : State :=
  let p := getQp s q
  match nextCompletion s p.waiting with
  | none => s
  | some (c, cs) =>
    if !flagF s fQP_STAT_ready 0 q || cqFree s q = 0 || writeStopped s q then s
    else if !ok then stopQp s q 3
    else
      let s := if c.buf = [] then s else emit s (.buffer q c.cid c.buf)
      let s := emit s (.completion q p.cqTail (completionBytes s q c))
      let last := decide (p.cqTail + 1 = cqDepth s q)
      let p := { p with waiting := cs, cqTail := if last then 0 else p.cqTail + 1, phase := if last then !p.phase else p.phase }
      queueMessage (setQp s q p) q

/-- COMPLETION_WRITE (R328): `ok` is false when the write to host memory fails. -/
def execCompletionWrite (q : Qp) (ok : Bool) (s : State) : Host.Outcome State Fault Refusal :=
  .next (if windowOpen s then writeCompletion s q.val ok else s)

/-- COALESCE_INTERVAL_EXPIRE (R326): the message that waited is sent, and the next interval runs. -/
def execCoalesceIntervalExpire (q : Qp) (s : State) : Host.Outcome State Fault Refusal :=
  .next (
    let p := getQp s q.val
    if !p.coalBusy then s
    else if p.msgDue then sendMsi (setQp s q.val { p with msgDue := false }) (getF s fQP_CTL_vector 0 q.val)
    else setQp s q.val { p with coalBusy := false })

/-- A vector is unmasked: its pending message is sent (R342). -/
def unmaskVector (s : State) (v : Nat) : State :=
  let s := setF s fMSIX_CTL_mask 0 v 0
  let pba := (regRaw s .MSIX_PBA 0 (v / 32)).toNat
  if bitOf pba (v % 32) then
    sendMsi (setReg s .MSIX_PBA 0 (v / 32) (BitVec.ofNat 32 (putBits pba (v % 32) (v % 32) 0))) v
  else s

/-- MSIX_VECTOR_UNMASK (R342). -/
def execMsixVectorUnmask (v : Fin 64) (s : State) : Host.Outcome State Fault Refusal :=
  .next (if windowOpen s then unmaskVector s v.val else s)

/-! ## The state of the host link (R316, R343) -/

/-- HOST_RESET (R343): hot reset, link down, FLR, CXL Reset, or the RESET command with level HOST. -/
def execHostReset (kind : HostResetKind) (s : State) : Host.Outcome State Fault Refusal :=
  .next (match kind with
    | .linkDown => cxlDown s
    | .hot | .flr | .cxlReset | .command => hostReset s)

/-- The host reset source as it is asserted. -/
def hostAsserted (s : State) : Option Asserted := s.rst.asserted.find? (fun a => a.src = 11)

/-- CXL_LINK_RETRAIN (R480): a retrain ends, or the link goes down; `status` is what the link has negotiated. A link that
is up again ends the host reset source's assertion (R419). -/
def execCxlLinkRetrain (up : Bool) (status : Word) (s : State) : Host.Outcome State Fault Refusal :=
  .next (
    if up && s.ports.supply then
      let down := !flagF s fCXL_LINK_STAT_up 0 0
      let old := (regRaw s .CXL_LINK_STAT 0 0).toNat
      let s := setReg s .CXL_LINK_STAT 0 0 (BitVec.ofNat 32 (2 ^ 31 + bitsOf status.toNat 30 19 * 2 ^ 19 + old % 65536))
      let s := if down then s else countF s fCXL_LINK_STAT_retrain_cnt 0 0
      match down, hostAsserted s with
      | true, some a => releaseReset s a
      | _, _ => s
    else if up then s
    else cxlDown s)

/-- SERDES_SUPPLY_LOSS (R311, R419): VDD_SD or VDD_SDH is lost, and the ports stop and the CXL link goes down; or it returns, and
what needs it may run again. -/
def execSerdesSupplyLoss (lost : Bool) (s : State) : Host.Outcome State Fault Refusal :=
  .next (
    if lost then cxlDown ((List.range 48).foldl muteRing ((List.range 96).foldl cutPort { s with ports.supply := false }))
    else { s with ports.supply := true })

/-- The function enters D3hot: the windows and every queue pair are disabled, and nothing else changes (R316). -/
def enterD3hot (s : State) : State :=
  let s := (List.range 16).foldl (fun s q =>
    if qpEnabled s q then disableQp s q (BitVec.ofNat 32 ((regRaw s .QP_CTL 0 q).toNat % 2 ^ 31)) else s) s
  { s with host.d3hot := true }

/-- D3HOT_ENTRY (R316): the function enters D3hot, or is back in D0 with both windows; its queue pairs stay disabled. -/
def execD3hotEntry (d0 : Bool) (s : State) : Host.Outcome State Fault Refusal :=
  .next (if d0 then { s with host.d3hot := false } else enterD3hot s)

end Sys2Proof.Machine
end

