-- ==== Sys2Proof/Machine/YarnCommands.lean ====
section
/-! DEFINITION. The yarn commands (R335): creation (R126, R132, R136, R181), the transitions of R128 that a command
names, modification and query. A staged command's meaning is its application at a boundary (R332): it fails at once or
waits for its beat to commit. -/

namespace Sys2Proof.Machine

/-! ## Descriptors from the host (R126) -/

/-- Yarn states and overflow policies apart, the fields of a stage word. -/
def stageOfWord (w : Nat) : Stage :=
  { harness := bitsOf w 30 25, idx := BitVec.ofNat 4 (bitsOf w 24 21), images := bitsOf w 20 16, frame := 0 }

/-- An input word of a descriptor. -/
def inOfWord (w : Nat) : Option Nat := if bitOf w 31 then some (bitsOf w 15 0) else none

/-- A lane of three bits. -/
def laneFin (v : Nat) : Fin 8 := ⟨v % 8, Nat.mod_lt v (by decide)⟩

/-- An output word of a descriptor. -/
def outOfWord (w : Nat) : Option OutBind :=
  if bitOf w 31 then
    some { lane := laneFin (bitsOf w 26 24), idx := BitVec.ofNat 4 (bitsOf w 23 20), bob := bitsOf w 15 0 }
  else none

/-- The word of a descriptor at a byte offset. -/
def descWord (bs : List Byte) (o : Nat) : Nat := fieldAt bs o 4

/-- The yarn that a descriptor describes; state, frame offsets, counters and checkpoint pointer are the device's. -/
def yarnOfDesc (bs : List Byte) : Yarn :=
  let w := descWord bs 0
  let stages := ((List.range 4).map (fun i => descWord bs (8 + 4 * i))).filter (fun x => bitOf x 31)
  { yarnFree with
    state := .idle
    before := .idle
    pinned := bitOf w 28
    migratable := bitOf w 27
    prot := BitVec.ofNat 2 (bitsOf w 26 25)
    replay := BitVec.ofNat 2 (bitsOf w 24 23)
    ovfPolicy := BitVec.ofNat 2 (bitsOf w 22 21)
    homeDie := if bitOf w 20 then 1 else 0
    entryIdx := BitVec.ofNat 4 (bitsOf w 19 16)
    prio := BitVec.ofNat 3 (bitsOf w 10 8)
    stages := stages.map stageOfWord
    ins := (List.range 4).map (fun i => inOfWord (descWord bs (0x18 + 4 * i)))
    outs := (List.range 4).map (fun i => outOfWord (descWord bs (0x28 + 4 * i)))
    inNext := bitsOf (descWord bs 0x38) 13 12
    outMax := BitVec.ofNat 12 (bitsOf (descWord bs 0x38) 11 0) }

/-- Are the reserved fields of a descriptor 0 and its values in range (R126, R132, R181)? -/
def descOk (bs : List Byte) : Bool :=
  let w := descWord bs 0
  let st := (List.range 4).map (fun i => descWord bs (8 + 4 * i))
  let y := yarnOfDesc bs
  zeroBits w 31 29 && zeroBits w 15 11 && zeroBits w 7 4 && decide (bitsOf w 26 25 ≠ 3) && decide (bitsOf w 24 23 ≠ 3) &&
    zeroBits (descWord bs 4) 31 15 &&
    st.all (fun x => zeroBits x 15 13 && decide (bitsOf x 30 25 < 36)) &&
    (st.map (fun x => bitOf x 31)).Pairwise (fun a b => a || !b) && bitOf (st.getD 0 0) 31 &&
    decide ((y.stages.map (fun g => g.idx)).head? = some y.entryIdx) &&
    (List.range 4).all (fun i => zeroBits (descWord bs (0x18 + 4 * i)) 30 16) &&
    (List.range 4).all (fun i => zeroBits (descWord bs (0x28 + 4 * i)) 30 27 && zeroBits (descWord bs (0x28 + 4 * i)) 19 16) &&
    zeroBits (descWord bs 0x38) 31 14 && decide (fieldAt bs 0x54 44 = 0) &&
    (y.pinned || decide (y.entryIdx.toNat < 14)) &&
    (y.ins.all (fun i => i.isNone) || (y.ins.getD y.inNext none).isSome)

/-! ## Creation -/

/-- The dies on which a yarn has a descriptor. -/
def yarnDies (s : State) (n : Nat) : List Die := [(0 : Die), 1].filter (fun d => decide ((getYarn s d n).state ≠ .free))

/-- The home die of a yarn, if it exists (R21, R191). -/
def yarnHome (s : State) (n : Nat) : Option Die :=
  match yarnDies s n with
  | [] => none
  | d :: _ => some (if (getYarn s (getYarn s d n).homeDie n).state = .free then d else (getYarn s d n).homeDie)

/-- Would a bobbin join the yarn to one of another replay class (R181)? -/
def classClash (s : State) (y : Yarn) : Bool :=
  s.flow.yarns.any (fun e => decide (e.2.state ≠ .free) && decide (e.2.replay ≠ y.replay) &&
    ((y.ins.filterMap id).any (fun b => (e.2.outs.filterMap id).any (fun o => decide (o.bob = b))) ||
      (y.outs.filterMap id).any (fun o => (e.2.ins.filterMap id).contains o.bob)))

/-- Is an index of a stage held alone by another yarn, or would this yarn hold it alone beside another (R132)? -/
def indexClash (s : State) (d : Die) (y : Yarn) : Bool :=
  y.stages.any (fun g => (yarnsOn s d).any (fun e => (stageAt e.2 g.harness g.idx).isSome && (y.pinned || e.2.pinned)))

/-- The images that a stage's frame needs: what the descriptor says, and one for every stateful cell (R133). -/
def imagesFor (s : State) (d : Die) (g : Stage) : Nat :=
  max g.images (statefulCells s d g.harness g.idx.toNat).length

/-- Place the frames of a yarn's stages; none when one does not fit (R136). -/
def placeFrames (s : State) (d : Die) (n : Nat) (y : Yarn) : Option (List Stage) :=
  (y.stages.foldl (fun (t : Option (State × List Stage)) g =>
    match t with
    | none => none
    | some (s, gs) =>
      let g := { g with images := imagesFor s d g }
      if 31 < g.images then none
      else
        match frameFit s d g.harness (1 + g.images) with
        | none => none
        | some f =>
          let gs := gs ++ [{ g with frame := f }]
          some (setYarn s d n { y with stages := gs }, gs)) (some (s, []))).map (fun t => t.2)

/-- The first contents of a stage's frame: its header and the images of a yarn that has run no item (R36, R133). -/
def firstFrame0 (s : State) (d : Die) (n : Nat) (g : Stage) : List Byte :=
  frameHeader n 0 0 ++
    ((statefulCells s d g.harness g.idx.toNat).map (fun ck =>
      slotBytes (slotFresh (residentDraft s d g.harness ck g.idx.toNat)))).flatten

/-- Create the descriptor, frames and checkpoint area of a yarn on a die (R125, R136, R261). -/
def placeYarn (s : State) (d : Die) (n : Nat) (y : Yarn) : Option State :=
  match freeEntry (yarnEntries s d) 16384, ckptFit s d (decide (y.prot ≠ 0)), placeFrames s d n y with
  | some e, some base, some gs =>
    let s := takeCkpt s d n base (decide (y.prot ≠ 0))
    let s := setYarn s d n { y with stages := gs, entry := e, cut := (getBeat s d).ord - 1,
                                    ckpt := BitVec.ofNat 64 (base * 4096 + d.val * 2 ^ 40) }
    let s := gs.foldl (fun s g => writeFrame s d g (firstFrame0 s d n g)) s
    some (if y.pinned then gs.foldl (fun s g => loadPinned s d g) s else s)
  | _, _, _ => none

/-- The copy, on the other die, of an entry-fed input bobbin of a twin yarn (R191); none when there is no room for it. -/
def makeTwinBob (s : State) (n : Nat) : Option State :=
  let b := getBob s n
  let o := otherDie b.die
  let twin := decide (b.cons = .yarn) && decide (b.prod ≠ .yarn) && decide ((getYarn s b.die b.consId.toNat).prot = 2)
  if b.state ≠ .active ∨ !twin ∨ (getBob s (n + 65536)).state ≠ .free then some s
  else
    match allocFit s o 0 (spoolRegion s o) b.quota, freeEntry (bobEntries s o) 32768 with
    | some base, some e =>
      let s := allocTake s { stack := o, base := base, len := b.quota, kind := .spool (n + 65536) }
      some (setBob s (n + 65536) { bobFree with state := .active, prod := b.prod, cons := b.cons, dropOld := b.dropOld,
                                                consId := b.consId, prodId := b.prodId, die := o, entry := e,
                                                base := base, quota := b.quota, wmark := 64 * b.quota })
    | _, _ => none

/-- The copies of a list of bobbins. -/
def makeTwinBobs (s : State) : List Nat → Option State
  | [] => some s
  | n :: ns =>
    match makeTwinBob s n with
    | some s => makeTwinBobs s ns
    | none => none

/-- Create a yarn from its descriptor: the state, or the status of the completion (R132, R136, R181, R335). -/
def createYarn (s : State) (bs : List Byte) : State ⊕ Nat :=
  let n := bitsOf (descWord bs 4) 14 0
  let y := yarnOfDesc bs
  let dies : List Die := if y.prot = 2 then [y.homeDie, otherDie y.homeDie] else [y.homeDie]
  if !descOk bs then .inr 2
  else if yarnDies s n ≠ [] then .inr 3
  else if classClash s y || dies.any (fun d => indexClash s d y) then .inr 6
  else
    match dies.foldl (fun (t : Option State) d => t.bind (fun s => placeYarn s d n y)) (some s) with
    | none => .inr 5
    | some s =>
      match makeTwinBobs s (y.ins.filterMap id) with
      | none => .inr 5
      | some s => .inl s

/-- YARN_CREATE (R335). -/
def yarnCreate (s : State) (c : HostCmd) : State :=
  match createYarn s c.buf with
  | .inr code => failStaged s c code 0
  | .inl s => stagedOk s c (bitsOf (descWord c.buf 4) 14 0) .none

/-- YARN_CREATE (R335). -/
def execYarnCreate (c : HostCmd) (s : State) : Host.Outcome State Fault Refusal := .next (yarnCreate s c)

/-! ## Transitions (R128) -/

/-- The yarn a command names. -/
def opYarn (c : HostCmd) : Nat := bitsOf (opOf c 0) 15 0

/-- Apply a transition to a yarn in one of some states, on each die it has a copy on; another state is INVALID_STATE, and
no yarn is NOT_FOUND (R334). -/
def onYarn (s : State) (c : HostCmd) (from_ : List YState) (op : WaitOp) (f : State → Die → State) : State :=
  let n := opYarn c
  let ds := yarnDies s n
  if 32768 ≤ n ∨ ds = [] then failStaged s c 4 0
  else if ds.any (fun d => !from_.contains (getYarn s d n).state) then failStaged s c 3 0
  else
    let s := stagedOk s c 0 op
    ds.foldl f s

/-- YARN_START (R335): IDLE to RUN. -/
def yarnStart (s : State) (c : HostCmd) : State := onYarn s c [.idle] .none (fun s d => enterRun s d (opYarn c))

def execYarnStart (c : HostCmd) (s : State) : Host.Outcome State Fault Refusal := .next (yarnStart s c)

/-- YARN_HOLD (R128): RUN to HOLD at the next item boundary. -/
def yarnHold (s : State) (c : HostCmd) : State :=
  onYarn s c [.run] (.hold (opYarn c)) (fun s d =>
    settleYarn (modYarn s d (opYarn c) (fun y => { y with holdReq := true })) d (opYarn c))

def execYarnHold (c : HostCmd) (s : State) : Host.Outcome State Fault Refusal := .next (yarnHold s c)

/-- YARN_RESUME (R335): HOLD to RUN. -/
def yarnResume (s : State) (c : HostCmd) : State := onYarn s c [.hold] .none (fun s d => enterRun s d (opYarn c))

def execYarnResume (c : HostCmd) (s : State) : Host.Outcome State Fault Refusal := .next (yarnResume s c)

/-- A stopped yarn returns to HOLD with the state of the last committed checkpoint (R128); what it still had in flight is
discarded, and its egress is no longer blocked (R188). Where neither the checkpoint nor its fallback can be read it stays STOPPED,
with an uncorrectable event (R185). -/
def restartStopped (s : State) (d : Die) (n : Nat) : State :=
  let s := dropYarns s [yarnCode d n]
  let r := chooseCkpt s (yarnCode d n)
  if r.2.isNone && (ckptFrom (getYarn s d n) (ckptOrd s d)).isSome then
    raiseEvent (rplLast r.1 d 6 5 n) 0x05 d (BitVec.ofNat 32 n) 6
  else
  let s := match r.2 with
    | some o => restoreYarn r.1 (yarnCode d n) (readCkpt r.1 d (getYarn r.1 d n) o)
    | none => r.1
  let s := blockEgress s (getYarn s d n) false
  settleYarn (modYarn s d n (fun y => { y with state := .hold, before := .hold, replays := 0, reinject := [], target := none })) d n

/-- YARN_RESTART (R335): STOPPED to HOLD. -/
def yarnRestart (s : State) (c : HostCmd) : State := onYarn s c [.stopped] .none (fun s d => restartStopped s d (opYarn c))

def execYarnRestart (c : HostCmd) (s : State) : Host.Outcome State Fault Refusal := .next (yarnRestart s c)

/-- YARN_DELETE (R335): FREE once no item of the yarn remains in any harness. -/
def yarnDelete (s : State) (c : HostCmd) : State :=
  onYarn s c [.idle, .hold, .stopped, .split] (.delete (opYarn c)) (fun s d =>
    settleYarn (modYarn s d (opYarn c) (fun y => { y with delReq := true })) d (opYarn c))

def execYarnDelete (c : HostCmd) (s : State) : Host.Outcome State Fault Refusal := .next (yarnDelete s c)

/-- A yarn with the changes of YARN_MODIFY. -/
def modified (v : Nat) (y : Yarn) : Yarn :=
  { y with prio := if bitOf v 31 then BitVec.ofNat 3 (bitsOf v 10 8) else y.prio
           ovfPolicy := if bitOf v 30 then BitVec.ofNat 2 (bitsOf v 22 21) else y.ovfPolicy
           ovfCount := if bitOf v 29 then 0 else y.ovfCount }

/-- YARN_MODIFY (R335): in any state. -/
def yarnModify (s : State) (c : HostCmd) : State :=
  onYarn s c [.idle, .run, .hold, .replay, .migrate, .stopped, .split] .none (fun s d =>
    modYarn s d (opYarn c) (modified (opOf c 1)))

def execYarnModify (c : HostCmd) (s : State) : Host.Outcome State Fault Refusal := .next (yarnModify s c)

/-- The descriptor of a yarn as of the last committed beat (R28, R195); none before a beat that holds the yarn has committed. -/
def committedDesc (s : State) (d : Die) (n : Nat) : Option (List Byte) :=
  (((getYarn s d n).snaps.filter (fun e => decide (e.1 ≤ ckptOrd s d))).getLast?).map (fun e => e.2)

/-- The descriptor of a deleted yarn that the last committed checkpoint still holds. -/
def goneDesc (s : State) (n : Nat) : Option (List Byte) :=
  s.flow.gone.findSome? (fun g =>
    if g.yarn = n ∧ ckptOrd s g.die ≤ g.cut then
      ((g.snaps.filter (fun e => decide (e.1 ≤ ckptOrd s g.die))).getLast?).map (fun e => e.2)
    else none)

/-- YARN_QUERY (R335): a yarn that no committed beat holds is not found, and one deleted in a beat that has not committed is. -/
def yarnQuery (s : State) (c : HostCmd) : State :=
  let n := opYarn c
  match ((yarnHome s n).bind (fun d => committedDesc s d n)).or (goneDesc s n) with
  | none => finish s c 4 0
  | some bs => postCompletion s c.qp (completionOf s c 0 (fieldAt bs 0 1 % 16) 0 0 bs) false

def execYarnQuery (c : HostCmd) (s : State) : Host.Outcome State Fault Refusal := .next (yarnQuery s c)

end Sys2Proof.Machine
end

