-- ==== Sys2Proof/Machine/BobCommands.lean ====
section
/-! DEFINITION. The bobbin commands of the host (R335): creation on the die of R21, deletion, flush, resize, query of
the descriptor of R138, and ITEM_PUSH (R336). -/

namespace Sys2Proof.Machine

/-! ## Descriptors (R138) -/

/-- The code of a bobbin state (R138). -/
def bStateNo : BState → Nat
  | .free => 0
  | .active => 1
  | .resetting => 2

/-- The producer or consumer type of a code (R138). -/
def endTypeOf (v : Nat) : EndType :=
  match v with
  | 0 => .yarn
  | 1 => .port
  | 2 => .gate
  | _ => .host

/-- The 64 bytes of a bobbin descriptor (R138, R186). -/
def bobBytes (n : Nat) (b : Bob) : List Byte :=
  leBytes 4 (bStateNo b.state * 2 ^ 28 + bitN b.rszPend * 2 ^ 27 + bitN b.opened.isSome * 2 ^ 26 +
    srcCode b.prod * 2 ^ 24 + srcCode b.cons * 2 ^ 22 + bitN b.dropOld * 2 ^ 20 + b.wstat.toNat * 65536 + n % 65536) ++
  leBytes 4 (b.consId.toNat * 65536 + b.prodId.toNat) ++ leBytes 4 b.base ++ leBytes 4 b.quota ++ leBytes 4 b.wp.toNat ++
  leBytes 4 b.rp.toNat ++ leBytes 4 b.wseq.toNat ++ leBytes 4 b.rseq.toNat ++ leBytes 4 b.wmark ++
  leBytes 4 (if b.rszPend then b.newQuota else 0) ++ leBytes 4 (b.drops.toNat * 65536 + b.stall.toNat) ++
  leBytes 4 b.resv.toNat ++ leBytes 4 b.egress.sent.toNat ++ leBytes 4 b.egress.markSent.toNat ++
  leBytes 4 b.egress.markBeat.toNat ++ leBytes 4 b.egress.hash.toNat

/-! ## Creation (R21, R335) -/

/-- The die of a port or a fringe gate (R20, R274). -/
def fixedDie (t : EndType) (id : Nat) : Option Die :=
  match t with
  | .port => some (portDie id)
  | .gate => some (if id < 64 then 0 else 1)
  | .yarn | .host => none

/-- Is the number of a producer or consumer in its range (R138)? -/
def endOk (t : EndType) (id : Nat) : Bool :=
  match t with
  | .yarn => decide (id < 32768)
  | .port => decide (id < 96)
  | .gate => decide (id < 128)
  | .host => decide (id < 16)

/-- The die of a bobbin by R21, or the status of the completion: a port or gate on each die agree on none, and a yarn
that gives the die must exist. R21 names no die for a bobbin from the host to the host: it stands on die 0 (DESIGN CHOICE, log
entry 80). -/
def dieFor (s : State) (prod cons : EndType) (prodId consId : Nat) : Die ⊕ Nat :=
  match fixedDie cons consId, fixedDie prod prodId with
  | some d, some e => if d = e then .inl d else .inr 6
  | some d, none => .inl d
  | none, some d => .inl d
  | none, none =>
    let y := if cons = .yarn then some consId else if prod = .yarn then some prodId else none
    match y with
    | none => .inl 0
    | some n => match yarnHome s n with
      | some d => .inl d
      | none => .inr 4

/-- The replay class of a yarn that exists. -/
def yarnClass (s : State) (n : Nat) : Option (BitVec 2) := (yarnHome s n).map (fun d => (getYarn s d n).replay)

/-- Would a bobbin join two yarns of different replay classes (R181)? -/
def joinClash (s : State) (prod cons : EndType) (prodId consId : Nat) : Bool :=
  decide (prod = .yarn) && decide (cons = .yarn) &&
    match yarnClass s prodId, yarnClass s consId with
    | some a, some b => decide (a ≠ b)
    | _, _ => false

/-- The firmware binds the gates of a bobbin it creates (R406). -/
def bindGates (s : State) (n : Nat) : State :=
  let b := getBob s n
  let bind (s : State) (bound bob : Fld) (g : Nat) : State :=
    let d : Die := if g < 64 then 0 else 1
    setF (setF s bound d (g % 64) 1) bob d (g % 64) (n % 65536)
  let s := if b.prod = .gate then bind s fGATE_IN_bound fGATE_IN_bobbin b.prodId.toNat else s
  if b.cons = .gate then bind s fGATE_OUT_bound fGATE_OUT_bobbin b.consId.toNat else s

/-- BOB_CREATE (R335). -/
def bobCreate (s : State) (c : HostCmd) : State :=
  let n := bitsOf (opOf c 0) 31 16
  let prod := endTypeOf (bitsOf (opOf c 0) 7 6)
  let cons := endTypeOf (bitsOf (opOf c 0) 5 4)
  let consId := bitsOf (opOf c 1) 31 16
  let prodId := bitsOf (opOf c 1) 15 0
  let quota := bitsOf (opOf c 2) 16 0
  if !endOk prod prodId || !endOk cons consId || decide (quota = 0) || decide (65536 < quota) ||
      decide (2 ≤ bitsOf (opOf c 0) 1 0) then failStaged s c 2 0
  else if (getBob s n).state ≠ .free then failStaged s c 3 0
  else if joinClash s prod cons prodId consId then failStaged s c 6 0
  else
    match dieFor s prod cons prodId consId with
    | .inr code => failStaged s c code 0
    | .inl d =>
      match freeEntry (bobEntries s d) 32768, allocFit s d 0 (spoolRegion s d) quota with
      | some e, some base =>
        let t := allocTake s { stack := d, base := base, len := quota, kind := .spool n }
        let t := setBob t n
          { bobFree with state := .active, prod := prod, cons := cons, dropOld := decide (bitsOf (opOf c 0) 1 0 = 1),
                         consId := BitVec.ofNat 16 consId, prodId := BitVec.ofNat 16 prodId, die := d, entry := e,
                         base := base, quota := quota, wmark := 64 * quota,
                         stall := BitVec.ofNat 16 (bitsOf (opOf c 3) 15 0) }
        match makeTwinBob t n with
        | some t => stagedOk (bindGates t n) c 0 .none
        | none => failStaged s c 5 0
      | _, _ => failStaged s c 5 0

/-- BOB_CREATE (R335). -/
def execBobCreate (c : HostCmd) (s : State) : Host.Outcome State Fault Refusal := .next (bobCreate s c)

/-! ## Deletion, flush, resize and query -/

/-- Does a receive rule or transmit binding of a port name a bobbin (R280, R283)? -/
def portNames (s : State) (n : Nat) : Bool :=
  (List.range 96).any (fun p =>
    (List.range 64).any (fun r => let w := portPair s p (0xC00 + 16 * r); bitOf w.2 15 && decide (bitsOf w.2 47 32 = n)) ||
      (List.range 32).any (fun j => let w := portPair s p (0x200 + 16 * j); bitOf w.2 20 && decide (bitsOf w.2 47 32 = n)))

/-- Does a valid node entry name a bobbin it uses (R300)? -/
def nodeNames (s : State) (n : Nat) : Bool :=
  [(0 : Die), 1].any (fun d => (List.range 3072).any (fun e =>
    bitOf (nodeWord s d e 0) 31 &&
      ((decide (bitsOf (nodeWord s d e 4) 8 0 ≠ 0) && decide (bitsOf (nodeWord s d e 3) 31 16 = n)) ||
        (decide (bitsOf (nodeWord s d e 4) 24 16 ≠ 0) && decide (bitsOf (nodeWord s d e 3) 15 0 = n)))))

/-- Does a bound fringe gate name a bobbin (R406, R407)? -/
def gateNames (s : State) (n : Nat) : Bool :=
  [(0 : Die), 1].any (fun d => (List.range 64).any (fun g =>
    (flagF s fGATE_IN_bound d g && decide (getF s fGATE_IN_bobbin d g = n)) ||
      (flagF s fGATE_OUT_bound d g && decide (getF s fGATE_OUT_bobbin d g = n))))

/-- Does a yarn, port, ring, node, fringe gate or host region name a bobbin (R335)? -/
def bobNamed (s : State) (n : Nat) : Bool :=
  s.flow.yarns.any (fun e => decide (e.2.state ≠ .free) && (yarnBobs e.2).contains n) || portNames s n || nodeNames s n ||
    gateNames s n || s.host.regions.any (fun e => e.2.mapped && decide (e.2.bob = n))

/-- Free a bobbin with its quota. -/
def freeBob (s : State) (n : Nat) : State :=
  let s := { s with mem.allocs := s.mem.allocs.filter (fun a => decide (a.kind ≠ .spool n)) }
  setBob s n bobFree

/-- The bobbin a command names. -/
def opBob (c : HostCmd) : Nat := bitsOf (opOf c 0) 15 0

/-- BOB_DELETE (R335), the twin copy with it (R191). -/
def bobDelete (s : State) (c : HostCmd) : State :=
  if (getBob s (opBob c)).state = .free then failStaged s c 4 0
  else if bobNamed s (opBob c) then failStaged s c 6 0
  else stagedOk (freeBob (freeBob s (opBob c)) (opBob c + 65536)) c 0 .none

/-- BOB_DELETE (R335). -/
def execBobDelete (c : HostCmd) (s : State) : Host.Outcome State Fault Refusal := .next (bobDelete s c)

/-- BOB_FLUSH (R150). -/
def bobFlush (s : State) (c : HostCmd) : State :=
  if (getBob s (opBob c)).state = .free then finish s c 4 0 else finish (flushBoth s (opBob c)) c 0 0

/-- BOB_FLUSH (R150). -/
def execBobFlush (c : HostCmd) (s : State) : Host.Outcome State Fault Refusal := .next (bobFlush s c)

/-- BOB_RESIZE (R152, R153, R335): the firmware asks for the new quota, and BOB_QUOTA shows the refusal. -/
def bobResize (s : State) (c : HostCmd) : State :=
  let b := getBob s (opBob c)
  let q := bitsOf (opOf c 1) 16 0
  if b.state = .free then finish s c 4 0
  else if q = 0 ∨ 65536 < q then finish s c 2 0
  else
    let r := resizeBob s (opBob c) q
    let s := setF r.1 fBOB_QUOTA_refused b.die 0 (bitN r.2.1)
    if r.2.1 then finish s c 6 0 else finish s c 0 (bitN r.2.2)

/-- BOB_RESIZE (R335). -/
def execBobResize (c : HostCmd) (s : State) : Host.Outcome State Fault Refusal := .next (bobResize s c)

/-- BOB_QUERY (R335): the current descriptor. -/
def bobQuery (s : State) (c : HostCmd) : State :=
  let b := getBob s (opBob c)
  if b.state = .free then finish s c 4 0
  else postCompletion s c.qp (completionOf s c 0 (b.wstat.toNat * 65536) 0 0 (bobBytes (opBob c) b)) false

/-- BOB_QUERY (R335). -/
def execBobQuery (c : HostCmd) (s : State) : Host.Outcome State Fault Refusal := .next (bobQuery s c)

/-! ## ITEM_PUSH (R336) -/

/-- May a queue pair push into a bobbin, and does its item keep the forms of R336? -/
def pushStatus (s : State) (c : HostCmd) : Option Nat :=
  let b := getBob s (bitsOf (opOf c 0) 31 16)
  let kind := bitsOf (opOf c 0) 6 5
  if b.state = .free then some 4
  else if kind = 3 ∨ c.bufLen.toNat % 4 ≠ 0 ∨ c.bufLen.toNat < 4 ∨ 16384 < c.bufLen.toNat ∨ (kind ≠ 0 ∧ c.bufLen.toNat ≠ 4)
  then some 2
  else if b.prod ≠ .host ∨ b.prodId.toNat ≠ c.qp.val then some 6
  else none

/-- ITEM_PUSH (R336). -/
def itemPush (s : State) (c : HostCmd) : State :=
  match pushStatus s c with
  | some code => finish s c code 0
  | none =>
    let n := bitsOf (opOf c 0) 31 16
    let ws := itemWords ((wordsOf c.buf).take (c.bufLen.toNat / 4)) (bitsOf (opOf c 0) 6 5) (bitsOf (opOf c 0) 4 0) false
    let s := writeItem (pointerCheck s n 0).1 n ws
    finish s c 0 (getBob s n).wstat.toNat

/-- ITEM_PUSH (R336). -/
def execItemPush (c : HostCmd) (s : State) : Host.Outcome State Fault Refusal := .next (itemPush s c)

end Sys2Proof.Machine
end

