-- ==== Sys2Proof/Machine/Regions.lean ====
section
/-! DEFINITION. The host-managed window and what lies in it: accesses through CXL.mem (R320, R321), host regions (R337),
the beat window (R338, R339), and WINDOW_SET (R261, R335). -/

namespace Sys2Proof.Machine

/-! ## Accesses through CXL.mem (R320, R321) -/

/-- Does the host reach the host-managed window (R319)? -/
def hdmReachable (s : State) : Bool := flagF s fCXL_LINK_STAT_mem_en 0 0

/-- Mark the granules of a line poisoned (R321). -/
def poisonLine (s : State) (d : Die) (off : Nat) : State :=
  let m := getHbm s d
  setHbm s d { m with poison := [off / 32, off / 32 + 1] ++ m.poison.filter (fun g => decide (g ≠ off / 32 ∧ g ≠ off / 32 + 1)) }

/-- An access to a 64-byte line as its stack serves it: a read, with what HBM's check finds in it (R262), or a write of data that
are poison or not. -/
def hdmServe (s : State) (x : HeldLine) (out : ReadOutcome) : State :=
  let d : Die := hdmStack (x.line * 64)
  let off := hdmOff (x.line * 64)
  match x.wr with
  | some bs =>
    let s := writeHbm s d off (padTo 64 (bs.take 64))
    if x.poison then poisonLine s d off else s
  | none =>
    let r := stackCheck s d off 64 out 0
    emit r.1 (.window (readHbm r.1 d off 64) r.2)

/-- What the proxy of a channel group that is not ON does with an access to a line (R239): it holds it and wakes the group, or
answers with ASLEEP, for which a read returns poison and a write has no effect (DESIGN CHOICE, log entry 256). -/
def hdmProxy (s : State) (d : Die) (i : Nat) (x : HeldLine) : State :=
  let k := domKey d i
  if flagF s fDOM_CTL_woa d i then setTarget (setHeldLines s k (heldLines s k ++ [x])) d i .on
  else
    let s := countF s fPROXY_STAT_asleep d i
    if x.wr.isSome then s else emit s (.window (List.replicate 64 0) true)

/-- An access of the host to a 64-byte line (R320). -/
def hdmAccess (s : State) (line : Nat) (wr : Option (List Byte)) (poison : Bool) (out : ReadOutcome) : State :=
  let o := line * 64
  let d : Die := hdmStack o
  let i := 48 + pcOf (hdmOff o) / 4
  let x : HeldLine := { line := line, wr := wr, poison := poison }
  if !hdmReachable s then s
  else if !windowGranule s (o / 4096) then
    let s := countF s fHOST_ERR_hdm_denied 0 0
    if wr.isSome then s else emit s (.window (List.replicate 64 0) true)
  else if proxied s d i then hdmProxy s d i x
  else hdmServe s x out

/-- HDM_ACCESS (R320). -/
def execHdmAccess (line : Fin 738197504) (wr : Option (List Byte)) (poison : Bool) (out : ReadOutcome) (s : State) :
    Host.Outcome State Fault Refusal :=
  .next (hdmAccess s line.val wr poison out)

/-! ## WINDOW_SET (R261, R335) -/

/-- Set the size of the host-managed window of a stack: a new region, or one that grows or shrinks where it lies. A
shrink must still hold every mapped host region and the beat window; none when the size does not fit. -/
def windowSize (s : State) (d : Die) (n : Nat) : Option (State × Nat) :=
  match s.mem.allocs.find? (fun a => decide (a.stack = d) && decide (a.kind = .window)) with
  | none =>
    if n = 0 then some (s, 0)
    else (allocFit s d (spoolRegion s d) allocLimit n).map (fun b =>
      (allocTake s { stack := d, base := b, len := n, kind := .window }, b))
  | some a =>
    if n = a.len then some (s, a.base)
    else if a.len < n then
      if allocFree s d (a.base + a.len) (n - a.len) && decide (a.base + n ≤ allocLimit) then
        some (trimAlloc s d .window n, a.base)
      else none
    else
      let end_ := a.base + n + (if d = 1 then 0x580000 else 0)
      let inside (base len : Nat) : Bool := decide (hdmStack (base * 4096) ≠ d) || decide (base + len ≤ end_)
      let w := s.host.win
      if s.host.regions.all (fun e => !e.2.mapped || inside e.2.base (1 + 2 ^ e.2.log2 / 64)) &&
          (!winOn s || inside w.base (1 + 3 * w.area)) then
        some ((if n = 0 then { s with mem.allocs := s.mem.allocs.filter (fun x => x ≠ a) } else trimAlloc s d .window n), a.base)
      else none

/-- The status of a size that a window cannot take: a region that may not grow or shrink so is REFUSED, and one for which the stack
has no room is NO_RESOURCE (R261, R334; log entry 266). -/
def windowRefusal (s : State) (d : Die) : Nat :=
  if s.mem.allocs.any (fun a => decide (a.stack = d) && decide (a.kind = .window)) then 6 else 5

/-- WINDOW_SET (R335). -/
def windowSet (s : State) (c : HostCmd) : State :=
  let d : Die := if bitOf (opOf c 0) 0 then 1 else 0
  if !hdmReachable s then finish s c 6 0
  else
    match windowSize s d (bitsOf (opOf c 1) 22 0) with
    | none => finish s c (windowRefusal s d) 0
    | some (s, b) => finish s c 0 (b + (if d = 1 then 0x580000 else 0))

/-- WINDOW_SET (R335). -/
def execWindowSet (c : HostCmd) (s : State) : Host.Outcome State Fault Refusal := .next (windowSet s c)

/-! ## Host regions (R337) -/

/-- The region a command names. -/
def opRegion (c : HostCmd) : Nat := bitsOf (opOf c 0) 5 0

/-- The granules of a region: its header block and its ring. -/
def regionLen (log2 : Nat) : Nat := 1 + 2 ^ log2 / 64

/-- Write the header block of a region: dev_index and a write status. -/
def regionHeader (s : State) (g : HostReg) (status : Nat) : State :=
  writeHdm s (g.base * 4096) (leBytes 4 g.dev.toNat ++ leBytes 4 (status % 16))

/-- The write status that the header of a region holds. -/
def regionStatus (s : State) (g : HostReg) : Nat := fieldAt (readHdm s (g.base * 4096) 64) 4 1 % 16

/-- Is a region at an item boundary? Output items are written whole. -/
def regionIdle (s : State) (g : HostReg) : Bool := g.out || (getBob s g.bob).opened.isNone

/-- Unmap a region that is to stop, once it is at an item boundary (R337). -/
def stopRegion (s : State) (j : Nat) : State :=
  let g := getRegion s j
  if g.mapped && g.stop && regionIdle s g then endWait (setRegion s j regionInit) (.region j) 0 0 0 else s

/-- May a region be mapped: the status of the completion if not? -/
def mapStatus (s : State) (c : HostCmd) : Option Nat :=
  let b := getBob s (bitsOf (opOf c 1) 15 0)
  let log2 := bitsOf (opOf c 3) 4 0
  if log2 < 6 ∨ 16 < log2 then some 2
  else if (getRegion s (opRegion c)).mapped then some 3
  else if !windowRange s (bitsOf (opOf c 2) 23 0) (regionLen log2) then some 2
  else if b.state = .free then some 4
  else if (if bitOf (opOf c 0) 8 then b.cons ≠ .host else b.prod ≠ .host) then some 6
  else none

/-- REGION_MAP (R337). -/
def regionMap (s : State) (c : HostCmd) : State :=
  let j := opRegion c
  if !hdmReachable s then finish s c 6 0
  else if bitOf (opOf c 0) 31 then
    if (getRegion s j).mapped then
      let s := waitFor s c (.region j)
      stopRegion (setRegion s j { getRegion s j with stop := true }) j
    else finish s c 3 0
  else
    match mapStatus s c with
    | some code => finish s c code 0
    | none =>
      let n := bitsOf (opOf c 1) 15 0
      let g : HostReg := { mapped := true, out := bitOf (opOf c 0) 8, bob := n, base := bitsOf (opOf c 2) 23 0,
                           log2 := bitsOf (opOf c 3) 4 0, dev := 0, host := 0, stop := false }
      let s := writeHdm (setRegion s j g) (g.base * 4096) (List.replicate 64 0)
      finish (if g.out then modBob s n (fun b => { b with stalled := false }) else s) c 0 0

/-- REGION_MAP (R337). -/
def execRegionMap (c : HostCmd) (s : State) : Host.Outcome State Fault Refusal := .next (regionMap s c)

/-- Blocks from one index to another, modulo 65,536. -/
def blocksFrom (a b : BitVec 16) : Nat := (b - a).toNat

/-- Would an index keep the limit of R337: at most 2^n − 1 blocks outstanding? -/
def doorbellOk (g : HostReg) (v : BitVec 16) : Bool :=
  g.mapped && decide ((if g.out then blocksFrom v g.dev else blocksFrom g.dev v) ≤ 2 ^ g.log2 - 1)

/-- A write of REGION_DB (R337). An output ring with room again ends a discard by the stall timeout (R145). -/
def regionDoorbell (s : State) (j : Nat) (v : BitVec 16) : State :=
  let g := getRegion s j
  if !doorbellOk g v then doorbellError s
  else
    let s := setRegion s j { g with host := v }
    if g.out then modBob s g.bob (fun b => { b with stalled := false }) else s

/-- REGION_DOORBELL (R337). -/
def execRegionDoorbell (j : Fin 64) (v : BitVec 16) (s : State) : Host.Outcome State Fault Refusal :=
  .next (if windowOpen s then ringBell (regionDoorbell s j.val v) else s)

/-- Where a block of a region lies, as an offset of the HDM range. -/
def regionBlock (g : HostReg) (i : BitVec 16) : Nat := g.base * 4096 + 64 + 64 * (i.toNat % 2 ^ g.log2)

/-- Write the words of a block into the bobbin of an input region, the idle ones left out; a region that is to stop ends
at the first item boundary. Answers the status of the last item that closed. -/
def inputWords (n : Nat) (stop : Bool) : List TWord → State × Option Nat → State × Option Nat
  | [], r => r
  | w :: ws, (s, st) =>
    if tagIdle w.tag then inputWords n stop ws (s, st)
    else
      let s := writeWord s n w true
      let st := if tagLast w.tag then some (getBob s n).wstat.toNat else st
      if stop && (getBob s n).opened.isNone then (s, st) else inputWords n stop ws (s, st)

/-- The device reads the next block of an input region (R337), with what HBM's check finds in it (R262, R263). -/
def regionInputRead (s : State) (j : Nat) (out : ReadOutcome) : State :=
  let g := getRegion s j
  if !g.mapped || g.out || decide (g.dev = g.host) then s
  else
    let a := regionBlock g g.dev
    let r := stackCheck s (hdmStack a) (hdmOff a) 64 out 0
    let s := r.1
    let bad := r.2
    let mark (w : TWord) : TWord := if bad then { w with tag := w.tag ||| 0x080 } else w
    let ws := (blockWords (readHdm s a 64)).map mark
    let r := inputWords g.bob g.stop ws ((pointerCheck s g.bob 0).1, none)
    let g := { g with dev := g.dev + 1 }
    let s := regionHeader (setRegion r.1 j g) g (r.2.getD (regionStatus r.1 g))
    stopRegion s j

/-- REGION_INPUT_READ (R337). -/
def execRegionInputRead (j : Fin 64) (out : ReadOutcome) (s : State) : Host.Outcome State Fault Refusal :=
  .next (regionInputRead s j.val out)

/-- Write the blocks of an item into an output ring from its device index on. -/
def outputBlocks (g : HostReg) (n : Nat) : Nat → List (List TWord) → State → State
  | _, [], s => s
  | k, ws :: rest, s =>
    let i : BitVec 16 := g.dev + BitVec.ofNat 16 k
    let full := ws ++ List.replicate (8 - ws.length) idleWord
    outputBlocks g n (k + 1) rest (writeHdm s (regionBlock g i) (spoolBlock full i.toNat n))

/-- The device writes the next item of an output region, when the ring has room for it; marks are taken (R337). -/
def regionOutputWrite (s : State) (j : Nat) : State :=
  let g := getRegion s j
  if !g.mapped || !g.out then s
  else
    let ws := peekItem s g.bob
    let k := (ws.length + 7) / 8
    if 2 ^ g.log2 ≤ blocksFrom g.host g.dev + k then s
    else
      let r := egressItem (pointerCheck s g.bob 0).1 g.bob
      let blocks := groups8 r.2.length r.2
      let s := outputBlocks g g.bob 0 blocks r.1
      let g := { g with dev := g.dev + BitVec.ofNat 16 blocks.length }
      if r.2 = [] then s else regionHeader (setRegion s j g) g 0

/-- REGION_OUTPUT_WRITE (R337). -/
def execRegionOutputWrite (j : Fin 64) (s : State) : Host.Outcome State Fault Refusal := .next (regionOutputWrite s j.val)

/-! ## The beat window (R338, R339) -/

/-- What is published in the area of a checkpoint. -/
def pubsAt (w : BeatWin) (ord : Nat) : Sparse (BitVec 4) :=
  match w.old.find? (fun e => decide (ord < e.1)) with
  | some e => e.2
  | none => w.pubs

/-- The bytes of an entry of a published yarn: its record and the frames chosen, as of a checkpoint. -/
def winEntry (s : State) (d : Die) (n : Nat) (ord : Nat) (mask : BitVec 4) : List Byte :=
  let y := getYarn s d n
  let o := (ckptFrom y ord).getD ord
  let v := readCkpt s d y o
  let st := match y.snaps.find? (fun e => e.1 = o) with
    | some e => fieldAt e.2 0 1 % 16
    | none => yStateNo y.state
  let frames := (List.range 4).flatMap (fun i => if bitOf mask.toNat i then ckptFrame s d y o i else [])
  padTo 64 (leBytes 4 (st * 65536 + n) ++ leBytes 4 v.itemsIn.toNat ++ leBytes 4 v.done.toNat ++ leBytes 4 v.ovf.toNat ++
    leBytes 4 mask.toNat ++ leBytes 4 (64 + frames.length)) ++ frames

/-- The length of an entry: the record, and the frames of the stages chosen. -/
def entryLen (s : State) (n : Nat) (mask : BitVec 4) : Nat :=
  match yarnHome s n with
  | none => 0
  | some d => 64 + (((List.range 4).zip (getYarn s d n).stages).map (fun (e : Nat × Stage) =>
      if bitOf mask.toNat e.1 then 64 * (1 + e.2.images) else 0)).sum

/-- The ordinal on a die of the checkpoint that die 0 has at one of its ordinals. -/
def ordOn (s : State) (d : Die) (ord : Nat) : Option Nat :=
  if d = 0 then some ord
  else ((getBeat s d).nums.find? (fun e => e.2 = numOfOrd s 0 ord)).map (fun e => e.1)

/-- Has the checkpoint of a published yarn reached HBM? A yarn that no longer exists holds up nothing. -/
def entryReady (s : State) (n : Nat) (ord : Nat) : Bool :=
  match yarnHome s n with
  | none => true
  | some d =>
    match ordOn s d ord with
    | none => decide (d ≠ 0) && !(getBeat s d).started
    | some o => decide (o ≤ (getYarn s d n).cut) && (getYarn s d n).cuts.all (fun c => decide (o < c.ord))

/-- The bytes of the area of a checkpoint. -/
def areaBytes (s : State) (ord : Nat) : List Byte :=
  let es := (pubsAt s.host.win ord).filterMap (fun (e : Nat × BitVec 4) =>
    match yarnHome s e.1 with
    | none => none
    | some d => some (winEntry s d e.1 ((ordOn s d ord).getD ord) e.2))
  padTo 64 (leBytes 4 (numOfOrd s 0 ord).toNat ++ leBytes 4 es.length) ++ es.flatten

/-- The checkpoint that the next area is for: the areas before the last committed checkpoint are not shown again. -/
def nextArea (s : State) : Nat := max s.host.win.next (ckptOrd s 0)

/-- The device copies a checkpoint into its area, once it is in HBM and the beat three before it has committed (R339). -/
def beatwinArea (s : State) : State :=
  let x := nextArea s
  let w := s.host.win
  if !winOn s || decide (x = 0) || decide ((getBeat s 0).ord < x) || decide ((getBeat s 0).cmt + 3 < x) ||
      !(pubsAt w x).all (fun (e : Nat × BitVec 4) => entryReady s e.1 x) then s
  else
    let num := (numOfOrd s 0 x).toNat
    let a := w.base * 4096 + 0x1000 + num % 3 * winArea s
    let s := writeHdm s a ((areaBytes s x).take (winArea s))
    winShow { s with host.win := { w with next := x + 1, old := w.old.filter (fun e => decide (x < e.1)),
                                          done := w.done.filter (fun o => (numOfOrd s 0 o).toNat % 3 ≠ num % 3) ++ [x] } }

/-- BEATWIN_AREA_WRITE (R339). -/
def execBeatwinAreaWrite (s : State) : Host.Outcome State Fault Refusal := .next (beatwinArea s)

/-- BEATWIN_SET (R338): the place and area size; the publications stay. -/
def beatwinSet (s : State) (c : HostCmd) : State :=
  let base := bitsOf (opOf c 0) 23 0
  let area := bitsOf (opOf c 1) 15 0
  if !hdmReachable s then failStaged s c 6 0
  else if area ≠ 0 ∧ !windowRange s base (1 + 3 * area) then failStaged s c 2 0
  else
    let s := { s with host.win := { s.host.win with base := base, area := area, next := (getBeat s 0).ord, done := [],
                                                    shown := none } }
    let s := if area = 0 then s
      else writeHdm s (base * 4096) (padTo 64 (leBytes 4 0x4E575442 ++ leBytes 12 0 ++ leBytes 8 (area * 4096)))
    stagedOk s c 0 .none

/-- BEATWIN_SET (R338). -/
def execBeatwinSet (c : HostCmd) (s : State) : Host.Outcome State Fault Refusal := .next (beatwinSet s c)

/-- The publications after a change at this boundary, which applies from its checkpoint on (R339). -/
def setPubs (s : State) (ps : Sparse (BitVec 4)) : State :=
  let w := s.host.win
  let o := (getBeat s 0).ord
  let old := if w.old.any (fun e => e.1 = o) then w.old else w.old ++ [(o, w.pubs)]
  { s with host.win := { w with pubs := ps, old := old } }

/-- BEATWIN_PUB (R338). While the window is off it is INVALID_STATE (DESIGN CHOICE, log entry 261). -/
def beatwinPub (s : State) (c : HostCmd) : State :=
  let n := bitsOf (opOf c 0) 15 0
  let mask := BitVec.ofNat 4 (bitsOf (opOf c 1) 3 0)
  let ps := s.host.win.pubs
  let others := ps.filter (fun (e : Nat × BitVec 4) => decide (e.1 ≠ n))
  if bitOf (opOf c 0) 31 then
    if others.length < ps.length then stagedOk (setPubs s others) c 0 .none else failStaged s c 4 0
  else if (yarnHome s n).isNone then failStaged s c 4 0
  else if !winOn s then failStaged s c 3 0
  else
    let len := 64 + (others.map (fun (e : Nat × BitVec 4) => entryLen s e.1 e.2)).sum + entryLen s n mask
    if 4096 ≤ others.length ∨ winArea s < len then failStaged s c 5 0
    else
      let below := others.filter (fun (e : Nat × BitVec 4) => decide (e.1 < n))
      let above := others.filter (fun (e : Nat × BitVec 4) => decide (n < e.1))
      stagedOk (setPubs s (below ++ [(n, mask)] ++ above)) c 0 .none

/-- BEATWIN_PUB (R338). -/
def execBeatwinPub (c : HostCmd) (s : State) : Host.Outcome State Fault Refusal := .next (beatwinPub s c)

end Sys2Proof.Machine
end

