-- ==== Sys2Proof/Machine/DeviceCommands.lean ====
section
/-! DEFINITION. The other commands of the host (R335) but those for the NV store and updates: NOP, EVENT_SUB and RESET,
drafts and harnesses (R107, R111, R116, R120), the beat period (R157), domains and power states (R218, R436), memory
tests (R268), and the tables of ports, rings and nodes (R276, R280, R283, R286, R301). -/

namespace Sys2Proof.Machine

/-! ## NOP, EVENT_SUB and RESET -/

/-- NOP (R335). -/
def nop (s : State) (c : HostCmd) : State := finish s c 0 0

/-- NOP (R335). -/
def execNop (c : HostCmd) (s : State) : Host.Outcome State Fault Refusal := .next (nop s c)

/-- EVENT_SUB (R335): the queue pair's mask of event codes; the completion holds the previous one. -/
def eventSub (s : State) (c : HostCmd) : State :=
  let old := (regRaw s .QP_EVT 0 c.qp.val).toNat
  finish (setReg s .QP_EVT 0 c.qp.val (BitVec.ofNat 32 (opOf c 0 / 2 * 2))) c 0 old

/-- EVENT_SUB (R335). -/
def execEventSub (c : HostCmd) (s : State) : Host.Outcome State Fault Refusal := .next (eventSub s c)

/-- RESET (R335, R419): source 5 with the level named, and the host reset source for level HOST. Levels DEVICE and HOST
have no completion; the others complete after release. -/
def resetOp (s : State) (c : HostCmd) : State :=
  let d : Die := opDie c 1
  let h := opHar c 1
  match levelOf (bitsOf (opOf c 0) 2 0) with
  | some .device => assertReset s 5 { level := .device, die := 0, har := 0 }
  | some .host => hostReset s
  | some .die => assertReset (waitFor s c (.release d .die 0)) 5 { level := .die, die := d, har := 0 }
  | some .control => assertReset (waitFor s c (.release d .control 0)) 5 { level := .control, die := d, har := 0 }
  | some .harness =>
    if 36 ≤ h then finish s c 4 0
    else assertReset (waitFor s c (.release d .harness h)) 5 { level := .harness, die := d, har := h }
  | some .power | none => finish s c 2 0

/-- RESET (R335). -/
def execResetCmd (c : HostCmd) (s : State) : Host.Outcome State Fault Refusal := .next (resetOp s c)

/-! ## Drafts and harnesses -/

/-- DRAFT_LOAD (R107): LOAD_STATUS with the code of R109 on rejection. -/
def draftLoad (s : State) (c : HostCmd) : State :=
  if 36 ≤ opHar c 0 then finish s c 4 0
  else
    let r := loadPackage s (opDie c 0) (opHar c 0) c.buf
    finish r.1 c (if r.2 = 0 then 0 else 7) r.2

/-- DRAFT_LOAD (R335). -/
def execDraftLoad (c : HostCmd) (s : State) : Host.Outcome State Fault Refusal := .next (draftLoad s c)

/-- DRAFT_SWAP (R111): arms or cancels. An arm completes when its swap has ended, or at once when it is not accepted. -/
def draftSwap (s : State) (c : HostCmd) : State :=
  let d : Die := opDie c 0
  let h := opHar c 0
  if 36 ≤ h then finish s c 4 0
  else if bitOf (opOf c 1) 0 then
    if (getHar s d h).armTick.isNone || (getHar s d h).draining then finish s c 3 0
    else finish (cancelSwap s d h) c 0 0
  else
    match armSwap s d h with
    | (s, some code) => finish s c 7 code
    | (s, none) => waitFor s c (.swap d h)

/-- DRAFT_SWAP (R335). -/
def execDraftSwap (c : HostCmd) (s : State) : Host.Outcome State Fault Refusal := .next (draftSwap s c)

/-- DARN (R116, R335): a row whose spare is in use is refused; else the darning starts at this boundary. -/
def darn (s : State) (c : HostCmd) : State :=
  let d : Die := opDie c 0
  let h := opHar c 0
  let r := bitsOf (opOf c 0) 10 8
  let col := bitsOf (opOf c 0) 14 12
  if 36 ≤ h then failStaged s c 4 0
  else if flagF s fDARN_STAT_busy d h then failStaged s c 10 0
  else if spareUsed s d h r then failStaged (darnStat s d h r col 3) c 6 3
  else stagedOk (setF (setF (darnStat s d h r col 0) fDARN_STAT_busy d h 1) fTSEQ_STAT_darn_busy d h 1) c 0 (.darn d h)

/-- DARN (R335). -/
def execDarn (c : HostCmd) (s : State) : Host.Outcome State Fault Refusal := .next (darn s c)

/-- HARNESS_CFG (R120, R199, R335). -/
def harnessCfg (s : State) (c : HostCmd) : State :=
  let d : Die := opDie c 0
  let h := opHar c 0
  let f := bitsOf (opOf c 8) 6 0
  let w (i : Nat) : Word := BitVec.ofNat 32 (opOf c i)
  if 36 ≤ h then failStaged s c 4 0
  else
    let s := regWrite (regWrite (regWrite s .TSEQ_CTL d h (w 1)) .TSEQ_SRC_LO d h (w 2)) .TSEQ_SRC_HI d h (w 3)
    let s := regWrite (regWrite s .TSEQ_URG_LO d h (w 4)) .TSEQ_URG_HI d h (w 5)
    let s := regWrite (regWrite s .TSEQ_LANE_LO d h (w 6)) .TSEQ_LANE_HI d h (w 7)
    let ask (s : State) : State := { s with cap.asked := sparseSet (fun _ => 0) s.cap.asked (harKey d h) f }
    stagedOk (if f = 0 then s else ask (setFreq s d h f)) c 0 .none

/-- HARNESS_CFG (R335). -/
def execHarnessCfg (c : HostCmd) (s : State) : Host.Outcome State Fault Refusal := .next (harnessCfg s c)

/-! ## The beat period (R157) -/

/-- A new period, in force from the next boundary; other values are reserved (R196). -/
def setPeriod (s : State) (v : Word) : State := regWrite s .BEAT_CTL 0 0 v

/-- BEAT_SET (R157). -/
def beatSet (s : State) (c : HostCmd) : State :=
  stagedOk (setPeriod s (BitVec.ofNat 32 (bitsOf (opOf c 0) 16 0))) c 0 .none

/-- BEAT_SET (R335). -/
def execBeatSet (c : HostCmd) (s : State) : Host.Outcome State Fault Refusal := .next (beatSet s c)

/-- BEAT_PERIOD_WRITE (R157): a write of BEAT_CTL; on die 1 it is ignored (R196). -/
def execBeatPeriodWrite (_rq : Requester) (d : Die) (v : Word) (s : State) : Host.Outcome State Fault Refusal :=
  .next (if d = 0 then setPeriod s v else s)

/-! ## Domains and power states (R218, R436) -/

/-- Is a yarn at work: in RUN, REPLAY or MIGRATE? -/
def atWork (y : Yarn) : Bool := y.state = .run || y.state = .replay || y.state = .migrate

/-- Does a neighbour's resident or armed draft drive a long line into a harness for an index that a running yarn uses
(R218)? -/
def lineInto (s : State) (d : Die) (h : Nat) : Bool :=
  (List.range 64).any (fun i => [false, true].any (fun v =>
    match lineAt d h (i / 8) (i % 8) v with
    | none => false
    | some l => (List.range 16).any (fun k =>
        let used := (yarnsOn s d).any (fun e => atWork e.2 && (stageAt e.2 l.2.2 (BitVec.ofNat 4 k)).isSome)
        let drv (bank : Bool) : Bool :=
          let w := getReedDraft s d l.2.2 i bank k
          if v then reedDrvV w else reedDrvH w
        let flip := (getHar s d l.2.2).flip
        used && (drv flip || (armed s d l.2.2 && drv (!flip))))))

/-- Does a port carry a pick ring, a link that is up, or a bound bobbin (R218)? -/
def portInUse (s : State) (p : Nat) : Bool :=
  (flagF s fPCFG_en (portDie p) (portIx p) && isPickline (portMode s p)) || portUp s p ||
    (List.range 64).any (fun r => bitOf (portPair s p (0xC00 + 16 * r)).2 15) || !(bindings s p).isEmpty

/-- May the firmware write a target for a domain (R218)? -/
def targetAllowed (s : State) (d : Die) (i : Nat) (t : DState) : Bool :=
  match t with
  | .on => true
  | .ret => decide (i < 36) && !(yarnsOn s d).any (fun e => atWork e.2 && (stageIn e.2 i).isSome) && !lineInto s d i
  | .off =>
    if i < 36 then (yarnsOfHar s d i).isEmpty && !lineInto s d i
    else decide (i < 48) && (List.range 4).all (fun k => !portInUse s (d.val * 48 + (i - 36) * 4 + k))

/-- The operations of commands that R335 calls long. -/
def longOp : WaitOp → Bool
  | .swap _ _ | .domain _ _ | .march _ | .nv _ | .update _ => true
  | .none | .hold _ | .delete _ | .darn _ _ | .release _ _ _ | .region _ => false

/-- What R436 and R466 refuse a request for DOZE or VIGIL for, but for the commit, which is looked at when the entry begins. -/
def sleepRefused (s : State) : Bool :=
  (List.range 48).any (fun k => flagF s fPL_CTL_run (ringDie k) (ringIx k)) ||
    s.flow.yarns.any (fun e => atWork e.2) ||
    s.host.waits.any (fun w => longOp w.op && decide (w.op ≠ .domain 0 63)) ||
    [(0 : Die), 1].any (fun d => decide ((getRt s d).halt ≠ .none) ||
      (List.range 36).any (fun h => (getHar s d h).halted))

/-- DOMAIN_SET for the Vigil domain (R436): a request for DOZE or VIGIL, which is refused or waits for its entry; one that
arrives during a wake is checked at its entry (R439). -/
def powerRequest (s : State) (c : HostCmd) (code : Nat) : State :=
  if code = 2 then stagedOk s c 0 .none
  else if 3 ≤ code then failStaged s c 2 0
  else if getF s fVGL_PWR_state 0 0 = 0 ∧ sleepRefused s then failStaged s c 6 0
  else waitFor (recordLast { s with rst.request := some (decide (code = 0), true) } c) c (.domain 0 63)

/-- DOMAIN_SET (R218, R436); the domain of a halted harness stays as it is (R465). -/
def domainSet (s : State) (c : HostCmd) : State :=
  let d : Die := opDie c 0
  let i := bitsOf (opOf c 0) 6 0
  let code := bitsOf (opOf c 0) 9 8
  if !domExists d i then failStaged s c 4 0
  else if i = 63 then powerRequest s c code
  else
    match targetOf code with
    | none => failStaged s c 2 0
    | some t =>
      if !domSupports i t then failStaged s c 2 0
      else if !domWritable d i || !targetAllowed s d i t || (decide (i < 36) && (getHar s d i).halted) then failStaged s c 6 0
      else
        let s := setF s fDOM_CTL_woa d i (bitsOf (opOf c 0) 12 12)
        let m := getDom s d i
        if m.state = t ∧ m.step = .none ∧ !m.waiting then stagedOk (setTarget s d i t) c 0 .none
        else setTarget (stagedOk s c 0 (.domain d i)) d i t

/-- DOMAIN_SET (R335). -/
def execDomainSet (c : HostCmd) (s : State) : Host.Outcome State Fault Refusal := .next (domainSet s c)

/-! ## Memory tests -/

/-- MEM_TEST (R268, R335): it completes at the end of the pass with MT_STAT and MT_FAIL. -/
def memTest (s : State) (c : HostCmd) : State :=
  let d : Die := opDie c 0
  if flagF s fMT_STAT_busy d 0 then finish s c 10 0
  else if bitsOf (opOf c 0) 12 11 = 3 ∨ bitsOf (opOf c 0) 10 7 = 0 then finish s c 2 0
  else
    let s := regWrite (regWrite s .MT_HSEL_LO d 0 (BitVec.ofNat 32 (opOf c 1))) .MT_HSEL_HI d 0 (BitVec.ofNat 32 (opOf c 2))
    let s := mtStart s d (BitVec.ofNat 32 (2 ^ 31 + bitsOf (opOf c 0) 13 0))
    if flagF s fMT_STAT_busy d 0 then waitFor s c (.march d)
    else finish s c 6 (regRaw s .MT_STAT d 0).toNat

/-- MEM_TEST (R335). -/
def execMemTest (c : HostCmd) (s : State) : Host.Outcome State Fault Refusal := .next (memTest s c)

/-! ## Ports (R276, R280, R283, R286) -/

/-- The port a command names. -/
def opPort (c : HostCmd) : Nat := bitsOf (opOf c 0) 6 0

/-- Does a value keep a register's reserved bits 0 and hold no reserved encoding (R10, R11)? -/
def regValueOk (r : Reg) (v : Nat) : Bool :=
  let fs := (regSpec r).fields
  fs.all (fun f => fieldOk f (bitsOf v f.hi f.lo)) &&
    decide (v = (fs.map (fun f => bitsOf v f.hi f.lo * 2 ^ f.lo)).sum)

/-- PORT_CFG (R276, R335): the firmware disables the port first where mode or fec changes. -/
def portCfg (s : State) (c : HostCmd) : State :=
  let p := opPort c
  let v := opOf c 1
  if 96 ≤ p then failStaged s c 4 0
  else if !regValueOk .PCFG v then failStaged s c 2 0
  else
    let old := (regRaw s .PCFG (portDie p) (portIx p)).toNat
    let changes := decide (bitsOf old 26 22 ≠ bitsOf v 26 22)
    let s := if changes then portCfgWrite s .fwOwn p (BitVec.ofNat 32 (old % 2 ^ 31)) else s
    let s := portCfgWrite s .fwOwn p (BitVec.ofNat 32 v)
    let mac := BitVec.ofNat 48 (opOf c 2 + bitsOf (opOf c 3) 15 0 * 2 ^ 32)
    stagedOk { s with ports.macs := sparseSet (fun _ => none) s.ports.macs p (some mac) } c 0 .none

/-- PORT_CFG (R335). -/
def execPortCfg (c : HostCmd) (s : State) : Host.Outcome State Fault Refusal := .next (portCfg s c)

/-- The tables of a port: where each stands, its entries and the bytes of an entry. -/
def portTableOf (t : Nat) : Option (Nat × Nat × Nat) :=
  match t with
  | 0 => some (0xC00, 64, 16)
  | 1 => some (0x200, 32, 16)
  | 2 => some (0x800, 256, 4)
  | _ => none

/-- Are the reserved fields of an entry 0, and its seg_words in range (R280, R283)? -/
def portEntryOk (t : Nat) (bs : List Byte) : Bool :=
  let hi := fieldAt bs 8 8
  match t with
  | 0 => zeroBits hi 63 48 && zeroBits hi 31 23
  | 1 => zeroBits hi 63 60 && zeroBits hi 31 21 &&
      (!(bitOf hi 20 && bitOf hi 19) || decide (1 ≤ bitsOf hi 59 48 ∧ bitsOf hi 59 48 ≤ 2048))
  | _ => true

/-- PORT_TABLE (R335): entries of a table of a port; for the gate list also its length, base and cycle, and the change
that makes it operative. -/
def portTable (s : State) (c : HostCmd) : State :=
  let p := opPort c
  let t := bitsOf (opOf c 0) 9 8
  let count := bitsOf (opOf c 1) 31 16
  let first := bitsOf (opOf c 1) 15 0
  match portTableOf t with
  | none => failStaged s c 2 0
  | some (base, limit, size) =>
    let entry (i : Nat) : List Byte := (c.buf.drop (i * size)).take size
    if 96 ≤ p then failStaged s c 4 0
    else if limit < first + count ∨ c.bufLen.toNat < count * size then failStaged s c 2 0
    else if !(List.range count).all (fun i => portEntryOk t (entry i)) then failStaged s c 2 0
    else if t = 2 && !(regValueOk .QBV_BASE_NS (opOf c 3) && regValueOk .QBV_CYCLE (opOf c 5)) then failStaged s c 2 0
    else
      let put (s : State) (i : Nat) : State :=
        (List.range (size / 4)).foldl (fun s j =>
          setPortWord s p (base + (first + i) * size + 4 * j) (BitVec.ofNat 32 (fieldAt (entry i) (4 * j) 4))) s
      let s := (List.range count).foldl put s
      let d := portDie p
      let m := portIx p
      let s := if t = 2 then
          let s := setReg (setReg (setReg s .QBV_BASE_NS d m (BitVec.ofNat 32 (opOf c 3))) .QBV_BASE_S d m
            (BitVec.ofNat 32 (opOf c 4))) .QBV_CYCLE d m (BitVec.ofNat 32 (opOf c 5))
          let s := if count = 0 then s else setF s fQBV_CTL_alen d m (first + count - 1)
          if bitOf (opOf c 2) 0 then qbvChange (setF s fQBV_CTL_en d m 1) p else s
        else s
      stagedOk s c 0 .none

/-- PORT_TABLE (R335). -/
def execPortTable (c : HostCmd) (s : State) : Host.Outcome State Fault Refusal := .next (portTable s c)

/-! ## Rings and nodes (R301, R335) -/

/-- Does a valid node of a ring take its commands from a yarn that is not in RUN (R335)? -/
def ringWaits (s : State) (k : Nat) : Bool :=
  (ringAddrs s k).any (fun a =>
    let b := getBob s (cmdBobbin s k a)
    decide (cmdWords s k a ≠ 0) && decide (b.state ≠ .free) && decide (b.prod = .yarn) &&
      match yarnHome s b.prodId.toNat with
      | some d => decide ((getYarn s d b.prodId.toNat).state ≠ .run)
      | none => true)

/-- Are the values of RING_CFG in range (R302, R315)? -/
def ringOpsOk (c : HostCmd) : Bool :=
  regValueOk .PL_PERIOD (opOf c 2) && decide (2000 ≤ opOf c 3 ∧ opOf c 3 + 2000 ≤ opOf c 2) &&
    regValueOk .PL_BASE_NS (opOf c 4) && regValueOk .PL_NODES (opOf c 6) &&
    decide (bitsOf (opOf c 6) 11 0 + bitsOf (opOf c 6) 23 16 ≤ 3072)

/-- RING_CFG (R301, R335). -/
def ringCfg (s : State) (c : HostCmd) : State :=
  let k := bitsOf (opOf c 0) 5 0
  let d := ringDie k
  let i := ringIx k
  let w (j : Nat) : Word := BitVec.ofNat 32 (opOf c j)
  if 48 ≤ k then failStaged s c 4 0
  else if !ringOpsOk c then failStaged s c 2 0
  else
    let t := setReg (setReg (setReg s .PL_PERIOD d i (w 2)) .PL_LEAD d i (w 3)) .PL_BASE_NS d i (w 4)
    let t := setReg (setReg t .PL_BASE_S d i (w 5)) .PL_NODES d i (w 6)
    if !ringFits t k || (bitOf (opOf c 1) 31 && ringWaits t k) then failStaged s c 6 0
    else stagedOk (plCtlWrite t .fwOwn k (w 1)) c 0 .none

/-- RING_CFG (R335). -/
def execRingCfg (c : HostCmd) (s : State) : Host.Outcome State Fault Refusal := .next (ringCfg s c)

/-- Are the reserved fields of a node entry 0 and its word counts in range (R300)? -/
def nodeEntryOk (bs : List Byte) : Bool :=
  let w0 := fieldAt bs 0 4
  let w4 := fieldAt bs 0x10 4
  zeroBits w0 27 22 && zeroBits w0 15 8 && zeroBits w4 31 31 && zeroBits w4 25 25 && zeroBits w4 15 9 &&
    decide (bitsOf w4 24 16 ≤ 256) && decide (bitsOf w4 8 0 ≤ 256) && decide (fieldAt bs 0x18 8 = 0)

/-- NODE_SET (R301, R335): the RO fields of an entry stay as they are. -/
def nodeSet (s : State) (c : HostCmd) : State :=
  let d : Die := opDie c 0
  let first := bitsOf (opOf c 0) 11 0
  let count := bitsOf (opOf c 1) 11 0
  let entry (i : Nat) : List Byte := (c.buf.drop (i * 32)).take 32
  if 3072 < first + count ∨ c.bufLen.toNat < count * 32 then failStaged s c 2 0
  else if !(List.range count).all (fun i => nodeEntryOk (entry i)) then failStaged s c 2 0
  else
    let t := (List.range count).foldl (fun s i =>
      (List.range 5).foldl (fun s w => setNodeWord s d (first + i) w (fieldAt (entry i) (4 * w) 4)) s) s
    let uses (k : Nat) : Bool :=
      let b := getF s fPL_NODES_base d (ringIx k)
      decide (0 < ringCount s k) && decide (b < first + count) && decide (first < b + ringCount s k)
    if ((List.range 24).map (fun k => d.val * 24 + k)).any (fun k => uses k && !ringFits t k) then failStaged s c 6 0
    else stagedOk t c 0 .none

/-- NODE_SET (R335). -/
def execNodeSet (c : HostCmd) (s : State) : Host.Outcome State Fault Refusal := .next (nodeSet s c)

end Sys2Proof.Machine
end

