-- ==== Sys2Proof/Machine/Rentur.lean ====
section
/-! DEFINITION. The Rentur complexes (R345 to R363): the event scheduler, fault entry and double faults, the watchdog, hardware
semaphores, and the halts of a core with their deferral (R466, R467). The firmware's own instructions are not in the
manual; what the firmware does stands with the blocks it acts on. -/

namespace Sys2Proof.Machine

def modRt (s : State) (d : Die) (f : RtSt → RtSt) : State := setRt s d (f (getRt s d))

/-! ## Control lock-up (R345, R347, R352) -/

/-- Do the cores of a complex execute: out of reset, ON, and their clocks not stopped by a hard halt? -/
def coresRun (s : State) (d : Die) : Bool :=
  flagF s fRT_STAT_run d 0 && !flagF s fRT_STAT_in_reset d 0 && domOn s d 59 && decide ((getRt s d).halt ≠ .hard)

/-- Does the boot ROM of a complex run: the complex is out of reset and has not started its firmware (R359, R363)? -/
def bootRuns (s : State) (d : Die) : Bool :=
  flagF s fRT_STAT_in_reset d 0 && decide (6 ≤ getStage s d) && !controlHeld s d && domWorks s d 59

/-- The control lock-up source asserts, with its cause recorded (R347): where the reach of the source clears the record, the reset
that follows clears it (DESIGN CHOICE, log entry 262). After an uncorrectable error of the ITCM the boot ROM loads its firmware anew
(R359 step 4). -/
def lockUp (s : State) (d : Die) (cause : Nat) : State :=
  let s := if cause = 3 then modRt s d (fun r => { r with fwOk := false }) else s
  let s := countF (setF (setF s fRT_ERR_valid d 0 1) fRT_ERR_cause d 0 cause) fRT_ERR_lockups d 0
  assertReset s 9 { level := reachOf s d 9, die := d, har := 0 }

/-- LOCKSTEP_MISMATCH (R345): the two cores differ. -/
def execLockstepMismatch (d : Die) (s : State) : Host.Outcome State Fault Refusal :=
  .next (if coresRun s d || bootRuns s d then lockUp s d 1 else s)

/-! ## The event scheduler (R353) -/

/-- The level of an event line, if the firmware has enabled it: what it has set, or else what it sets as it starts, which the manual
does not give. -/
def lineLevel (d : Die) (r : RtSt) (line : Nat) : Option Nat :=
  match sparseGet (fun _ => none) r.lineSet line with
  | some x => x.1.map (fun q => q.val)
  | none => (Config.lineLevel d.val line).map (fun q => q.val)

/-- Does the firmware map an event line to fault entry (R351)? -/
def lineFaults (d : Die) (r : RtSt) (line : Nat) : Bool :=
  match sparseGet (fun _ => none) r.lineSet line with
  | some x => x.2
  | none => Config.lineFault d.val line

/-- The levels that hold a pending line. -/
def pendLevels (d : Die) (r : RtSt) : List Nat := r.lines.filterMap (lineLevel d r)

/-- The level that the core runs: with nothing else it idles at level 7 (R354). -/
def runLevel (r : RtSt) : Nat := r.level.getD 7

/-- May the scheduler of a halted complex run a level (R466)? -/
def levelOpen (r : RtSt) (q : Nat) : Bool :=
  match r.halt with
  | .none => true
  | .monitor => decide (q < r.haltLvl)
  | .hard => false

/-- The highest level of a list, which is its lowest number. -/
def topLevel (ls : List Nat) : Option Nat := ls.foldl (fun m q => match m with
  | none => some q
  | some b => some (min b q)) none

/-- Run a level: a preempted handler of it goes on, and else its first pending line is served, which the handler
acknowledges. -/
def serveLevel (d : Die) (r : RtSt) (q : Nat) : RtSt :=
  if r.preempt.contains q then { r with level := some q, preempt := r.preempt.erase q }
  else
    match topLevel (r.lines.filter (fun l => decide (lineLevel d r l = some q))) with
    | some l => { r with level := some q, lines := r.lines.erase l }
    | none => { r with level := none }

/-- A pending line of a higher level than the running one preempts it (R353 step 1). -/
def preemptBy (d : Die) (r : RtSt) (q : Nat) : RtSt :=
  let p := runLevel r
  if q < p ∧ levelOpen r q then
    serveLevel d { r with preempt := match r.level with
      | some p => if r.preempt.contains p then r.preempt else r.preempt ++ [p]
      | none => r.preempt } q
  else r

/-- The scheduler looks at its pending lines: the highest may preempt. -/
def schedule (s : State) (d : Die) : State :=
  if !coresRun s d || flagF s fRT_STAT_fault_entry d 0 then s
  else modRt s d (fun r => match topLevel (pendLevels d r) with
    | some q => preemptBy d r q
    | none => r)

/-- The running handler yields (R353 steps 2 and 3): the highest level that holds a preempted handler or a pending line runs
next. -/
def yieldLevel (d : Die) (r : RtSt) : RtSt :=
  match topLevel ((r.preempt ++ pendLevels d r).filter (levelOpen r)) with
  | some q => serveLevel d r q
  | none => { r with level := none }

/-- A fault enters window 7 of bank 0 (R351); a further fault there is a double fault (R352). -/
def enterFault (s : State) (d : Die) : State :=
  if !coresRun s d then s
  else if flagF s fRT_STAT_fault_entry d 0 then lockUp s d 2
  else
    let s := setF s fRT_STAT_fault_entry d 0 1
    modRt s d (fun r => { r with level := some 0, back := r.window.headD 0, window := listSet r.window 0 7,
                                 preempt := match r.level with
                                   | some p => if r.preempt.contains p then r.preempt else r.preempt ++ [p]
                                   | none => r.preempt })

/-- EVENT_LINE_PENDING (R353): the line is pending until the firmware acknowledges it; a line that the firmware maps to fault
entry enters there (R351). -/
def linePending (s : State) (d : Die) (line : Nat) : State :=
  if !domOn s d 59 || flagF s fRT_STAT_in_reset d 0 then s
  else if lineFaults d (getRt s d) line then enterFault s d
  else
    schedule (modRt s d (fun r => { r with lines := if r.lines.contains line then r.lines else r.lines ++ [line] })) d

/-- EVENT_LINE_PENDING (R353). -/
def execEventLinePending (d : Die) (line : Fin 128) (s : State) : Host.Outcome State Fault Refusal :=
  .next (linePending s d line.val)

/-- The handler of fault entry leaves window 7 (R352). -/
def leaveFault (s : State) (d : Die) (w : Fin 8) : State :=
  setF (modRt s d (fun r => { r with window := listSet r.window 0 w })) fRT_STAT_fault_entry d 0 0

/-- The running handler yields (R353); a handler of fault entry leaves window 7 first. -/
def handlerYield (s : State) (d : Die) : State :=
  let s := if flagF s fRT_STAT_fault_entry d 0 then
      leaveFault s d (getRt s d).back
    else s
  modRt s d (yieldLevel d)

/-! ## Windows and spill (R349, R350) -/

/-- The windows of a bank that ordinary code uses: window 7 of bank 0 is reserved for fault entry (R349, R351). -/
def bankWindows (bank : Nat) : Nat := if bank = 0 then 7 else 8

/-- The window of a bank that lies `k` behind its current one. -/
def windowBehind (r : RtSt) (bank k : Nat) : Nat :=
  ((r.window.getD bank 0).val + 2 * bankWindows bank - k) % bankWindows bank

/-- The window after a window of a bank. -/
def windowAfter (bank w : Nat) : Nat := (w + 1) % bankWindows bank

/-- The 128 bytes of a window. -/
def windowBytes (r : RtSt) (bank w : Nat) : List Byte :=
  (List.range 16).flatMap (fun i => leBytes 8 (sparseGet (fun _ => 0) r.windows ((bank * 8 + w) * 16 + i)).toNat)

/-- Put 128 bytes into a window. -/
def putWindow (r : RtSt) (bank w : Nat) (bs : List Byte) : RtSt :=
  { r with windows := (List.range 16).foldl (fun m i =>
      sparseSet (fun _ => 0) m ((bank * 8 + w) * 16 + i) (BitVec.ofNat 64 (fieldAt bs (8 * i) 8))) r.windows }

/-- Where window `k` of a bank's spill region lies in the DTCMs. -/
def spillPlace (r : RtSt) (d : Die) (bank k : Nat) : Nat := d.val * 0x100000 + (r.spillAt.getD bank 0 + 128 * k) % 0x100000

/-- Has a bank fewer than two free windows ahead of its current one (R350)? -/
def needsSpill (r : RtSt) (bank : Nat) : Bool := decide (bankWindows bank < r.filled.getD bank 0 + 3)

/-- The spill engine moves one window of a bank: the oldest resident one to the region, or the newest of the region back (R350). -/
def spillStep (s : State) (d : Die) (bank : Nat) : State :=
  let r := getRt s d
  let n := r.filled.getD bank 0
  let used := getF s fRT_SPILL_used d bank
  if needsSpill r bank && decide (used < getF s fRT_SPILL_limit d bank) then
    let s := { s with mem.dtcm := memWrite s.mem.dtcm (spillPlace r d bank used) (windowBytes r bank (windowBehind r bank n)) }
    setF (setRt s d { r with filled := listSet r.filled bank (n - 1) }) fRT_SPILL_used d bank (used + 1)
  else if n = 0 ∧ 0 < used then
    let r := putWindow r bank (windowBehind r bank 1) (memRead s.mem.dtcm (spillPlace r d bank (used - 1)) 128)
    setF (setRt s d { r with filled := listSet r.filled bank 1 }) fRT_SPILL_used d bank (used - 1)
  else s

/-- The spill engine at work on a bank until it has nothing to move. -/
def spillEngine (s : State) (d : Die) (bank : Nat) : State := (List.range 8).foldl (fun s _ => spillStep s d bank) s

/-- Does a spill of a bank find its region full (R351)? -/
def spillBlocked (s : State) (d : Die) (bank : Nat) : Bool :=
  needsSpill (getRt s d) bank && decide (getF s fRT_SPILL_limit d bank ≤ getF s fRT_SPILL_used d bank)

/-- A call (R349): the next window of the running bank; one without a free window waits for the spill. A call in window 7 leaves
fault entry for the window after the one that the fault interrupted (DESIGN CHOICE, log entry 268). -/
def coreCall (s : State) (d : Die) : State :=
  let r := getRt s d
  let b := runLevel r
  let n := r.filled.getD b 0
  if flagF s fRT_STAT_fault_entry d 0 then leaveFault s d (Fin.ofNat 8 (windowAfter 0 r.back.val))
  else if bankWindows b ≤ n + 1 then s
  else
    spillEngine (setRt s d { r with window := listSet r.window b (Fin.ofNat 8 (windowAfter b (r.window.getD b 0).val)),
                                    filled := listSet r.filled b (n + 1) }) d b

/-- A return (R349): the window before, which the spill engine has filled; a return in window 7 leaves fault entry. -/
def coreReturn (s : State) (d : Die) : State :=
  let r := getRt s d
  let b := runLevel r
  if flagF s fRT_STAT_fault_entry d 0 then leaveFault s d r.back
  else
    spillEngine (setRt s d { r with window := listSet r.window b (Fin.ofNat 8 (windowBehind r b 1)),
                                    filled := listSet r.filled b (r.filled.getD b 0 - 1) }) d b

/-- The task of a bank ends: it is not resumed, and the windows that it holds are free (R352). -/
def endTask (s : State) (d : Die) (bank : Nat) : State :=
  setF (modRt s d (fun r => { r with preempt := r.preempt.erase bank, filled := listSet r.filled bank 0 })) fRT_SPILL_used d bank 0

/-- WINDOW_OVERFLOW_TRAP (R351, R352): a spill of the running bank finds its region full. The firmware extends it by the free
windows of DTCM, or ends the task with an event that names no yarn; for bank 0 it is a double fault. -/
def overflowTrap (s : State) (d : Die) (bank free : Nat) : State :=
  if !coresRun s d || decide (runLevel (getRt s d) ≠ bank) || !spillBlocked s d bank then s
  else if bank = 0 ∨ flagF s fRT_STAT_fault_entry d 0 then lockUp s d 2
  else
    let s := enterFault s d
    if 0 < free then spillEngine (setF s fRT_SPILL_limit d bank (min 65535 (getF s fRT_SPILL_limit d bank + free))) d bank
    else raiseEvent (endTask s d bank) 0x05 d 0xFFFF 0xFF

/-- WINDOW_OVERFLOW_TRAP (R351). -/
def execWindowOverflowTrap (d : Die) (bank : Fin 8) (free : BitVec 16) (s : State) : Host.Outcome State Fault Refusal :=
  .next (overflowTrap s d bank.val free.toNat)

/-! ## Timers (R353) -/

/-- The timers of a complex whose time has come pend their lines. -/
def fireTimers (s : State) (d : Die) : State :=
  let due := (getRt s d).timers.filter (fun e => match e.2 with
    | some t => decide (t ≤ s.vigil.ticks)
    | none => false)
  due.foldl (fun s e => linePending (modRt s d (fun r => { r with timers := sparseSet (fun _ => none) r.timers e.1 none })) d
    (Config.timerLine d.val e.1).val) s

/-- The timers of both complexes after time has passed. -/
def timersAt (s : State) : State := [(0 : Die), 1].foldl fireTimers s

/-! ## The watchdog (R356, R357) -/

/-- The watchdog's timeout in µs. -/
def wdtTimeout (s : State) (d : Die) : Nat := getF s fWDT_CTL_timeout d 0 * 1000

/-- The time left in µs now: it counts down by 25 TCXO ticks a µs while the core's clock runs, which it does not in reset, in hard
halt and in DOZE. -/
def wdtRemain (s : State) (d : Die) : Nat :=
  let r := getRt s d
  if flagF s fRT_STAT_in_reset d 0 ∨ r.halt = .hard ∨ domOn s d 59 = false then r.wdt else r.wdt - (s.vigil.ticks - r.wdtAt) / 25

/-- Reload the watchdog. -/
def wdtReload (s : State) (d : Die) (us : Nat) : State := modRt s d (fun r => { r with wdt := us, wdtAt := s.vigil.ticks })

/-- A write of WDT_KICK: the key refreshes the watchdog, any other value is ignored; host writes are ignored (R363). -/
def wdtKick (s : State) (rq : Requester) (d : Die) (v : Word) : State :=
  if hostBarred rq || decide (v.toNat % 65536 ≠ 0xC1A5) then s else wdtReload s d (wdtTimeout s d)

/-- WDT_KICK (R356). -/
def execWdtKick (rq : Requester) (d : Die) (v : Word) (s : State) : Host.Outcome State Fault Refusal :=
  .next (wdtKick s rq d v)

/-- WDT_PREWARN (R356): a quarter of the timeout remains. -/
def wdtPrewarn (s : State) (d : Die) : State :=
  if !coresRun s d then s
  else enterFault (setF (wdtReload s d (wdtTimeout s d / 4)) fWDT_STAT_warn d 0 1) d

/-- WDT_PREWARN (R356). -/
def execWdtPrewarn (d : Die) (s : State) : Host.Outcome State Fault Refusal := .next (wdtPrewarn s d)

/-- Did the watchdog expire before within 1 s (R356)? -/
def secondExpiry (s : State) (d : Die) : Bool :=
  match (getRt s d).lastExp with
  | some t => decide (s.vigil.ticks ≤ t + 25000000)
  | none => false

/-- A watchdog expires: its source asserts, at the reach of a second expiry if there was one within 1 s. The expiry is counted after
the reset, which may clear the counts. -/
def wdtFire (s : State) (d : Die) : State :=
  let level := reachOf s d (if secondExpiry s d then 13 else 4)
  let now := s.vigil.ticks
  let s := assertReset s 4 { level := level, die := d, har := 0 }
  let s := countF s fWDT_HIST_expiries d 0
  if level = .die then setCause (countF s fWDT_HIST_escal d 0) d 14
  else if level = .control then modRt s d (fun r => { r with lastExp := some now })
  else s

/-- WDT_EXPIRE (R356), while the cores execute. -/
def wdtExpire (s : State) (d : Die) : State := if coresRun s d then wdtFire s d else s

/-- WDT_EXPIRE (R356). -/
def execWdtExpire (d : Die) (s : State) : Host.Outcome State Fault Refusal := .next (wdtExpire s d)

/-! ## Halts of a core (R466, R467) -/

/-- Does a complex hold a hardware semaphore? -/
def holdsSem (s : State) (d : Die) : Bool :=
  [(0 : Die), 1].any (fun x => (List.range 64).any (fun i =>
    flagF s fSEM_held x i && decide (getF s fSEM_owner_die x i = d.val)))

/-- The answer to the last request on the Selvedge wire, which is kept (R453). -/
def svAnswer (s : State) (status : Nat) (data : List Byte) : State :=
  svSend { s with dbg.status := BitVec.ofNat 8 status, dbg.resp := data } (BitVec.ofNat 8 status) data

/-- A halt takes effect: its event, the frozen watchdog, and the answer that waited for it, which is only kept if the probe has
begun another frame. -/
def haltNow (s : State) (d : Die) (hard : Bool) : State :=
  let left := wdtRemain s d
  let s := modRt s d (fun r => { r with halt := if hard then .hard else .monitor, haltLvl := runLevel r, haltWait := none,
                                        wdt := left, wdtAt := s.vigil.ticks })
  let s := setF s fWDT_STAT_frozen d 0 (bitN hard)
  let s := raiseEvent s 0x17 d (BitVec.ofNat 32 d.val) 1
  if s.dbg.haltFor ≠ some d then s
  else if s.dbg.framed then { s with dbg.haltFor := none, dbg.status := 0, dbg.resp := [] }
  else svAnswer { s with dbg.haltFor := none } 0 []

/-- The firmware refuses nothing here: the halt of a core that is between a load-reserve and its store-conditional, or that
holds a semaphore, is deferred (R467). Answers whether it has taken effect. -/
def haltCore (s : State) (d : Die) (hard linked : Bool) : State × Bool :=
  let s := modRt s d (fun r => { r with linked := linked })
  if linked || holdsSem s d then (modRt s d (fun r => { r with haltWait := some hard }), false)
  else (haltNow s d hard, true)

/-- HALT_FORCED (R467): 256 cycles have passed; the reservation is lost and the halt takes effect. -/
def execHaltForced (d : Die) (s : State) : Host.Outcome State Fault Refusal :=
  .next (match (getRt s d).haltWait with
    | none => s
    | some hard => haltNow (setF (modRt s d (fun r => { r with linked := false })) fDBG_STAT_forced 0 0 1) d hard)

/-- A halted complex is released (R357, R466): its watchdog has at least 1 ms, and its pending lines are looked at again. -/
def resumeCore (s : State) (d : Die) : State :=
  let r := getRt s d
  let left := if r.halt = .hard then max 1000 (wdtRemain s d) else wdtRemain s d
  let s := setRt s d { r with halt := .none, wdt := left, wdtAt := s.vigil.ticks }
  let s := setF s fWDT_STAT_frozen d 0 0
  showReady (schedule (raiseEvent s 0x17 d (BitVec.ofNat 32 d.val) 0) d)

/-! ## Hardware semaphores (R363) -/

/-- SEM_ACQUIRE (R363): a complex that runs acquires a semaphore of a die it reaches, unless it is held; the answer is 1 when
it has acquired it. -/
def semAcquire (s : State) (d : Die) (i : Nat) (owner : Die) (level : Nat) : State :=
  let rq : Requester := if owner = d then .fwOwn else .fwOther
  if !coresRun s owner || (decide (owner ≠ d) && apart s) then s
  else if flagF s fSEM_held d i then emit s (.value rq 0)
  else
    let s := setF (setF (setF s fSEM_held d i 1) fSEM_owner_die d i owner.val) fSEM_owner_level d i level
    emit s (.value rq 1)

/-- SEM_ACQUIRE (R363). -/
def execSemAcquire (d : Die) (i : Fin 64) (owner : Die) (level : Fin 8) (s : State) : Host.Outcome State Fault Refusal :=
  .next (semAcquire s d i.val owner level.val)

/-- SEMAPHORE_RELEASE (R363): the holding complex, if it runs, releases a semaphore; a halt that was deferred for it takes
effect (R467). -/
def semRelease (s : State) (d : Die) (i : Nat) : State :=
  let owner : Die := if flagF s fSEM_owner_die d i then 1 else 0
  if !flagF s fSEM_held d i || !coresRun s owner then s
  else
    let s := setF s fSEM_held d i 0
    match (getRt s owner).haltWait with
    | some hard => if (getRt s owner).linked || holdsSem s owner then s else haltNow s owner hard
    | none => s

/-- SEMAPHORE_RELEASE (R363). -/
def execSemaphoreRelease (d : Die) (i : Fin 64) (s : State) : Host.Outcome State Fault Refusal := .next (semRelease s d i.val)

end Sys2Proof.Machine
end

