-- ==== Sys2Proof/Machine/Images.lean ====
section
/-! DEFINITION. Personality images (R364 to R375): the frame classes, the checks of the header and the segment table, frame
packets, and the contents that the loader checks last (R381). A check answers the code of R382, 0 when it passes. -/

namespace Sys2Proof.Machine

/-! ## Frames (R364 to R366) -/

/-- The frames of a class in a personality image, if the class is known and may stand in one. -/
def classFrames (c : Nat) : Option Nat :=
  match c with
  | 0 => some 24832
  | 1 => some 97344
  | 2 => some 147456
  | 3 => some 16384
  | 4 => some 16384
  | 5 => some 32
  | 6 => some 776
  | _ => none

/-- The bank block of a BANK frame, as a harness and block of 2,048 bytes (R272). -/
def bankFrameBlock (d : Die) (i : Nat) : Nat := harKey d (i / 4096) * 256 + i % 4096 / 16

/-- Write a frame. A load at a wake from DOZE writes no DRAFT, BANK, YARN or BOBBIN frame (R437). -/
def putFrame (s : State) (d : Die) (retained : Bool) (cls i : Nat) (bs : List Byte) : State :=
  if retained && decide (1 ≤ cls ∧ cls ≤ 4) then s
  else
    match cls with
    | 0 => { s with fringe.frames := memWrite s.fringe.frames (fringeAddr d i 0) bs }
    | 1 => { s with mem.master := memWrite s.mem.master (masterAddr d 0 false 0 + 128 * i) bs }
    | 2 =>
      let blk := bankFrameBlock d i
      { s with arr.bank := memWrite s.arr.bank (bankAddr d 0 (128 * i)) bs
               mem.imageBank := if s.mem.imageBank.contains blk then s.mem.imageBank else s.mem.imageBank ++ [blk] }
    | 3 => { s with mem.yarnImg := memWrite s.mem.yarnImg (d.val * 0x200000 + 128 * i) bs }
    | 4 => { s with mem.bobImg := memWrite s.mem.bobImg (d.val * 0x200000 + 128 * i) bs }
    | 5 => { s with mem.sys := memWrite s.mem.sys (d.val * 4096 + 128 * i) bs }
    | 6 => { s with fringe.golden := ((List.range 32).zip (wordsOf bs)).foldl (fun m e =>
               sparseSet (fun _ => 0) m (d.val * 24832 + 32 * i + e.1) e.2) s.fringe.golden }
    | _ => s

/-- Optional frames that the image does not cover are zeros (R364). -/
def clearOptional (s : State) (d : Die) (retained : Bool) : State :=
  if retained then s
  else { s with arr.bank := memClear s.arr.bank (bankAddr d 0 0) (36 * 0x80000)
                mem.yarnImg := memClear s.mem.yarnImg (d.val * 0x200000) 0x200000
                mem.bobImg := memClear s.mem.bobImg (d.val * 0x200000) 0x200000
                mem.imageBank := s.mem.imageBank.filter (fun k => decide (k / 9216 ≠ d.val)) }

/-! ## Header and segment table (R367 to R369) -/

/-- A segment entry of the table. -/
def segAt (head : List Byte) (i : Nat) : SegEnt :=
  let o := 0x100 + 24 * i
  { off := fieldAt head o 4, len := fieldAt head (o + 4) 4, cls := fieldAt head (o + 8) 1, first := fieldAt head (o + 12) 4,
    count := fieldAt head (o + 16) 4 }

/-- The segments of an image. -/
def segCount (head : List Byte) : Nat := fieldAt head 0x14 2

/-- The entries of a segment table. -/
def segTable (head : List Byte) : List SegEnt := (List.range (segCount head)).map (segAt head)

/-- The length of an image. -/
def imageLen (head : List Byte) : Nat := fieldAt head 0x10 4

/-- Step 1 of R381 for an image of a kind, firmware or personality, whose die field must name `die` (R368). -/
def headerCodeOf (fw : Bool) (die : Nat) (head : List Byte) : Nat :=
  let flags := fieldAt head 6 2
  if fieldAt head 0 4 ≠ 0x4D495045 ∨ fieldAt head 4 2 ≠ 1 ∨ crc32c (head.take 0xFC) ≠ fieldAt head 0xFC 4 ∨
      flags / 4 ≠ 0 ∨ ((head.drop 0x28).take 212).any (fun b => decide (b ≠ 0)) = true then 0x01
  else if bitOf flags 0 then 0x04
  else if bitOf flags 1 ≠ fw ∨ segCount head = 0 ∨ 255 < segCount head ∨ ¬ (fieldAt head 0x17 1 < 2 ∨ fieldAt head 0x17 1 = 255) then 0x01
  else if fieldAt head 8 2 ≠ 0x4896 ∨ fieldAt head 0xA 1 ≠ 0xB0 then 0x02
  else if fieldAt head 0xB 1 ≠ die then 0x03
  else 0

/-- Step 1 of R381 for a personality image of a die. -/
def headerCode (d : Die) (head : List Byte) : Nat := headerCodeOf false d.val head

/-- The fused key that an image names (R371). -/
def imageKey (s : State) (head : List Byte) : Option Nat :=
  let fused := match fieldAt head 0x16 1 with
    | 0 => some s.fuses.deviceKey
    | 1 => s.fuses.groupKey
    | _ => none
  fused.map (fun k => deriveKey k ((head.drop 0x0C).take 4 ++ (head.drop 0x18).take 16))

/-- Do the segments stand aligned, rising and apart, before the signature block (R367)? -/
def segsPlaced (total : Nat) : Nat → List SegEnt → Bool
  | lo, [] => decide (lo + 256 ≤ total)
  | lo, e :: es => decide (e.off % 64 = 0) && decide (lo ≤ e.off) && decide (48 ≤ e.len) && decide (e.len ≤ 1048576) &&
      segsPlaced total (e.off + e.len) es

/-- Do the ranges of two segments of one class meet? -/
def segsMeet (a b : SegEnt) : Bool :=
  decide (a.cls = b.cls) && decide (a.first < b.first + b.count) && decide (b.first < a.first + a.count)

/-- The frames of a class that the segments cover. -/
def covered (es : List SegEnt) (c : Nat) : Nat := ((es.filter (fun e => e.cls = c)).map (fun e => e.count)).sum

/-- The frames of a class that an image of a kind may hold: CODE in a firmware image alone, and nothing else there (R364). -/
def kindFrames (fw : Bool) (c : Nat) : Option Nat := if fw then (if c = 7 then some 8192 else none) else classFrames c

/-- Step 3 of R381, for an image of a kind whose source holds `size` bytes. -/
def tableCodeOf (fw : Bool) (size : Nat) (head : List Byte) : Nat :=
  let n := segCount head
  let es := segTable head
  let tbl := (head.drop 0x100).take (24 * n)
  let total := imageLen head
  if crc32c tbl ≠ fieldAt head (0x100 + 24 * n) 4 ∨
      (List.range n).any (fun i => decide (fieldAt tbl (24 * i + 9) 3 ≠ 0) || decide (fieldAt tbl (24 * i + 20) 4 ≠ 0)) = true then 0x01
  else if es.any (fun e => decide (8 ≤ e.cls)) then 0x05
  else if es.any (fun e => (kindFrames fw e.cls).isNone || decide (e.count = 0)) then 0x01
  else if es.any (fun e => decide ((kindFrames fw e.cls).getD 0 < e.first + e.count)) then 0x05
  else if !segsPlaced total (0x100 + 24 * n + 4) es ∨ total % 64 ≠ 0 ∨ size < total then 0x01
  else if (pairsBelow n).any (fun p => match es[p.1]?, es[p.2]? with
      | some a, some b => segsMeet a b
      | _, _ => false) then 0x01
  else if !fw && [0, 1, 5, 6].any (fun c => decide (covered es c ≠ (classFrames c).getD 0)) then 0x04
  else 0

/-- Step 3 of R381 for a personality image. -/
def tableCode (head : List Byte) : Nat := tableCodeOf false 14680064 head

/-! ## Frame packets (R373, R374) -/

/-- The cursor, the frames that a REPEAT has written ahead, and the frames written so far, last first. -/
abbrev Unpacked := Nat × List Nat × List (Nat × List Byte)

/-- The cursor passes every frame that a REPEAT has written. -/
def skipAhead : Nat → List Nat → Nat → Nat
  | 0, _, c => c
  | k + 1, ahead, c => if ahead.contains c then skipAhead k ahead (c + 1) else c

/-- Write frames at the cursor. -/
def unpackFrames (lim : Nat) : List (List Byte) → Unpacked → Option Unpacked
  | [], u => some u
  | f :: fs, (c, ahead, out) =>
    if lim ≤ c then none else unpackFrames lim fs (skipAhead ahead.length ahead (c + 1), ahead, (c, f) :: out)

/-- A frame of words. -/
def frameOf (w : Nat → Nat) : List Byte := (List.range 32).flatMap (fun j => leBytes 4 (w j))

/-- The frames of a SPARSE packet, and the bytes after them. -/
def sparseFrames : Nat → List Byte → Option (List (List Byte) × List Byte)
  | 0, bs => some ([], bs)
  | n + 1, bs =>
    let mask := fieldAt bs 0 4
    let before (j : Nat) : Nat := ((List.range j).filter (bitOf mask)).length
    let used := 4 + 4 * before 32
    if bs.length < used then none
    else
      let f := frameOf (fun j => if bitOf mask j then fieldAt bs (4 + 4 * before j) 4 else 0)
      (sparseFrames n (bs.drop used)).map (fun r => (f :: r.1, r.2))

/-- A REPEAT packet: its frame at the cursor and at further indices, each in the range, beyond the cursor and named once. -/
def repeatFrames (lim : Nat) (f : List Byte) (ixs : List Nat) (u : Unpacked) : Option Unpacked :=
  let c := u.1
  if ixs.any (fun i => decide (i ≤ c) || decide (lim ≤ i) || u.2.1.contains i) || decide (ixs.dedup.length ≠ ixs.length) then none
  else unpackFrames lim [f] (c, u.2.1 ++ ixs, ixs.map (fun i => (i, f)) ++ u.2.2)

/-- The packets of a segment's plaintext: the frames it writes, if it is valid (R374). -/
def unpack : Nat → Nat → List Byte → Unpacked → Option (List (Nat × List Byte))
  | 0, _, _, _ => none
  | k + 1, lim, bs, u =>
    let h := fieldAt bs 0 4
    let n := bitsOf h 27 16 + 1
    let kk := bitsOf h 15 0
    let pay := bs.drop 4
    let next (len : Nat) (fs : List (List Byte)) : Option (List (Nat × List Byte)) :=
      if pay.length < len ∨ kk ≠ 0 then none else (unpackFrames lim fs u).bind (unpack k lim (pay.drop len))
    if bs.length < 4 then none
    else
      match bitsOf h 31 28 with
      | 0 => if n = 1 ∧ kk = 0 ∧ u.1 = lim ∧ pay.all (fun b => decide (b = 0)) = true then some u.2.2.reverse else none
      | 1 => next (128 * n) ((List.range n).map (fun i => (pay.drop (128 * i)).take 128))
      | 2 => next 0 (List.replicate n (List.replicate 128 0))
      | 3 => next 4 (List.replicate n (frameOf (fun _ => fieldAt pay 0 4)))
      | 4 => if kk ≠ 0 then none
        else (sparseFrames n pay).bind (fun r => (unpackFrames lim r.1 u).bind (unpack k lim r.2))
      | 5 =>
        if n ≠ 1 ∨ kk = 0 ∨ 4096 < kk ∨ pay.length < 128 + 4 * kk then none
        else (repeatFrames lim (pay.take 128) ((List.range kk).map (fun i => fieldAt pay (128 + 4 * i) 4)) u).bind
          (unpack k lim (pay.drop (128 + 4 * kk)))
      | _ => none

/-! ## Segments (R370, R372) -/

/-- A decoded segment: the frames it writes, whether it says it is the last, and the key of the next. -/
structure SegOut where
  frames : List (Nat × List Byte)
  last   : Bool
  next   : Option Nat
  deriving DecidableEq, Repr

/-- Decode segment i of an image from its bytes (R381 step 4): the code of R382 if it fails. -/
def segDecode (head : List Byte) (i : Nat) (e : SegEnt) (key : Nat) (bs : List Byte) : SegOut ⊕ Nat :=
  let h := bs.take 32
  let ct := fieldAt h 8 4
  if fieldAt h 0 4 ≠ 0x54474553 ∨ fieldAt h 4 2 ≠ i ∨ fieldAt h 6 2 ≠ 0 ∨ ct + 48 ≠ e.len ∨ fieldAt h 0x18 4 ≠ 0 ∨
      crc32c (h.take 0x1C) ≠ fieldAt h 0x1C 4 then .inr 0x07
  else
    match openGcm key (head.take 256 ++ h) ((h.drop 0xC).take 12) ((bs.drop 32).take ct) ((bs.drop (32 + ct)).take 16) with
    | none => .inr 0x08
    | some pt =>
      let last := bitOf (fieldAt pt 4 4) 0
      let wrapped := (pt.drop 8).take 40
      let next := if last then none else unwrapKey key wrapped
      let rollOk := decide (fieldAt pt 0 4 = 0x4C4C524B) && decide (fieldAt pt 4 4 < 2) && decide (fieldAt pt 0x30 16 = 0) &&
        decide (64 ≤ pt.length) && (if last then decide (leNat wrapped = 0) else next.isSome)
      match rollOk, unpack (pt.length + 1) (e.first + e.count) (pt.drop 64) (e.first, [], []) with
      | true, some fs => .inl { frames := fs, last := last, next := next }
      | _, _ => .inr 0x09

/-! ## The signature (R375) -/

/-- Does the signature block, the last 256 bytes of an image, verify over a digest, with a key slot that is fused and not revoked? A
firmware image must use slot 0. -/
def signatureOk (s : State) (fw : Bool) (blk : List Byte) (digest : Nat) : Bool :=
  let slot := fieldAt blk 4 1
  let pub := (blk.drop 8).take 97
  decide (fieldAt blk 0 4 = 0x4E474953) && decide (slot < 4) && !(fw && decide (slot ≠ 0)) && !s.fuses.revoked.getD slot false &&
    decide (fieldAt blk 5 3 = 0) && decide (fieldAt blk 0x69 7 = 0) &&
    decide (fieldAt blk 0xD0 44 = 0) && decide (crc32c (blk.take 0xFC) = fieldAt blk 0xFC 4) &&
    decide ((s.fuses.pubKeys.getD slot none) = some (sha384Nat pub)) &&
    ecdsaVerify pub ((blk.drop 0x70).take 96) digest

/-! ## Content (R381 step 6) -/

/-- The far reed draft of the same bank of the master copy drives the line too (R108). -/
def masterClash (s : State) (d : Die) (h r c k : Nat) (bank : Bool) (w : BitVec 96) : Bool :=
  [false, true].any (fun v =>
    match lineAt d h r c v with
    | some l =>
      let far := masterReedDraft s d l.2.2 bank (8 * r + c) k
      if v then reedDrvV w && reedDrvV far else reedDrvH w && reedDrvH far
    | none => false)

/-- The codes of R109 that a bank of a harness in the master copy earns. -/
def masterCodes (s : State) (d : Die) (h : Nat) (bank : Bool) : List Nat :=
  (List.range 64).flatMap (fun i =>
    cellCodes (i % 8) ((List.range 16).map (masterCellDraft s d h bank i)) ++
    (List.range 16).flatMap (fun k =>
      let w := masterReedDraft s d h bank i k
      reedCodes h (i / 8) (i % 8) w ++ (if masterClash s d h (i / 8) (i % 8) k bank w then [9] else []))) ++
  (List.range 256).flatMap (fun e =>
    let w := leNat (masterRead s d h bank (masterTableOff e) 4)
    (if bitsOf w 28 20 ≠ 0 then [2] else []) ++ (if bitOf w 31 ∧ 14 ≤ bitsOf w 19 16 then [8] else []))

/-- The lowest code that the master copy of a die earns, 0 for none. -/
def draftsCode (s : State) (d : Die) : Nat :=
  ((List.range 36).flatMap (fun h => masterCodes s d h false ++ masterCodes s d h true)).foldl
    (fun m c => if m = 0 ∨ c < m then c else m) 0

/-- The descriptor of entry i of an image's yarn table. -/
def yarnImage (s : State) (d : Die) (i : Nat) : List Byte := memRead s.mem.yarnImg (d.val * 0x200000 + 128 * i) 128

/-- The descriptor of entry i of an image's bobbin table. -/
def bobImage (s : State) (d : Die) (i : Nat) : List Byte := memRead s.mem.bobImg (d.val * 0x200000 + 64 * i) 64

/-- The entries of an image's tables that hold anything: every other one is FREE. -/
def imageEntries (m : Mem) (d : Die) (size : Nat) : List Nat :=
  ((m.filter (fun e => decide (e.1 / 0x200000 = d.val))).map (fun e => e.1 % 0x200000 / size)).dedup

/-- The route tables of an image: the link of router r for entry e (R366). -/
def imageRoute (s : State) (d : Die) (r e : Nat) : Nat := (memByte s.mem.sys (d.val * 4096 + 128 + 43 * r + e)).toNat % 8

/-- Do the tables and routes of an image hold what R381 step 6 allows? -/
def tablesOk (s : State) (d : Die) : Bool :=
  let bs := (imageEntries s.mem.bobImg d 64).map (bobImage s d)
  (imageEntries s.mem.yarnImg d 128).all (fun i => decide (fieldAt (yarnImage s d i) 0 1 % 16 < 2)) &&
    bs.all (fun b => decide (bitsOf (fieldAt b 0 4) 29 28 < 2)) &&
    decide (((bs.filter (fun b => decide (bitsOf (fieldAt b 0 4) 29 28 = 1))).map (fun b => fieldAt b 0xC 4)).sum ≤ spoolRegion s d) &&
    routesOk (imageRoute s d)

end Sys2Proof.Machine
end

