-- ==== Sys2Proof/Machine/DieUp.lean ====
section
/-! DEFINITION. What the firmware of a die does when the die is loaded (R387, R426 steps 8 to 10): it applies its records of
the NV store, builds the tables of the image, enables ports and starts the beat engine; and how it rebuilds the yarns of a die
after a DIE reset (R418) or the reload of a live update (R194). -/

namespace Sys2Proof.Machine

/-! ## Records of the NV store (R119, R210, R267, R272) -/

/-- The records of aging: the shift shown, and the frequency limit (R210). -/
def applyAging (s : State) (d : Die) : State :=
  (List.range 36).foldl (fun s h =>
    let a := sparseGet (fun _ => (0, 0)) s.mem.aged (harKey d h)
    let s := if a.1 = 0 then s else setF s fAGE_STAT_shift d h a.1
    if a.2 ≠ 0 ∧ a.2 < getF s fCLK_CTL_freq d h then setFreq s d h a.2 else s) s

/-- The cells darned before are darned again (R119). -/
def applyDarning (s : State) (d : Die) : State :=
  s.mem.darned.foldl (fun s e =>
    if e.1 / 36 = d.val ∧ (darnedCol s d (e.1 % 36) e.2.1).isNone then setTaps s d (e.1 % 36) e.2.1 e.2.2 else s) s

/-- Harnesses that failures of march tests have lost: directly, or because a withdrawn block holds initial contents from the
image (R272). -/
def applyMarch (s : State) (d : Die) : State :=
  let gone := s.mem.marchLost ++ (s.mem.withdrawn.filter (fun k => s.mem.imageBank.contains k)).map (fun k => k / 256)
  gone.foldl (fun s k => if k / 36 = d.val then loseHarness s d (k % 36) else s) s

/-! ## The tables of an image (R364) -/

/-- Build the bobbin of a descriptor in state ACTIVE at entry i; its spool stands where the descriptor says. -/
def addImageBob (s : State) (d : Die) (i : Nat) : State :=
  let bs := bobImage s d i
  let w := fieldAt bs 0 4
  let n := bitsOf w 15 0
  if bitsOf w 29 28 ≠ 1 ∨ (getBob s n).state ≠ .free then s
  else
    let base := fieldAt bs 8 4
    let quota := fieldAt bs 0xC 4
    let s := allocTake s { stack := d, base := base, len := quota, kind := .spool n }
    bindGates (setBob s n
      { bobFree with state := .active, prod := endTypeOf (bitsOf w 25 24), cons := endTypeOf (bitsOf w 23 22),
                     dropOld := bitOf w 20, consId := BitVec.ofNat 16 (fieldAt bs 6 2),
                     prodId := BitVec.ofNat 16 (fieldAt bs 4 2), die := d, entry := i, base := base, quota := quota,
                     wmark := 64 * quota, stall := BitVec.ofNat 16 (fieldAt bs 0x28 2) }) n

/-- Build the yarn of a descriptor in state IDLE at entry i: its frames stand where the descriptor says, and the firmware
gives it a checkpoint area. -/
def addImageYarn (s : State) (d : Die) (i : Nat) : State :=
  let bs := yarnImage s d i
  let n := bitsOf (descWord bs 4) 14 0
  let y := yarnOfDesc bs
  if bitsOf (descWord bs 0) 3 0 ≠ 1 ∨ (getYarn s d n).state ≠ .free then s
  else
    match ckptFit s d (decide (y.prot ≠ 0)) with
    | none => s
    | some base =>
      let s := takeCkpt s d n base (decide (y.prot ≠ 0))
      let s := setYarn s d n { y with entry := i, cut := (getBeat s d).ord - 1,
                                      ckpt := BitVec.ofNat 64 (base * 4096 + d.val * 2 ^ 40) }
      let s := y.stages.foldl (fun s g => writeFrame s d g (firstFrame0 s d n g)) s
      if y.pinned then y.stages.foldl (fun s g => loadPinned s d g) s else s

/-- The tables of the image become those of the die, and the copies of twin yarns' input bobbins are made (R191). -/
def applyTables (s : State) (d : Die) : State :=
  let s := (imageEntries s.mem.bobImg d 64).foldl (fun s i => addImageBob s d i) s
  let s := (imageEntries s.mem.yarnImg d 128).foldl (fun s i => addImageYarn s d i) s
  s.flow.bobs.foldl (fun s e => if e.2.die = d ∧ e.1 < 65536 then (makeTwinBob s e.1).getD s else s) s

/-- The journal ring of the size that the image gives (R166, R366), unless the die has one. -/
def makeJournal (s : State) (d : Die) : State :=
  if s.mem.allocs.any (fun a => decide (a.stack = d) && decide (a.kind = .journal)) then
    match s.mem.allocs.find? (fun a => decide (a.stack = d) && decide (a.kind = .journal)) with
    | some a => setF (setF s fJRN_BASE_granules d 0 a.base) fJRN_SIZE_granules d 0 a.len
    | none => s
  else
    match allocFit s d (spoolRegion s d) allocLimit (journalRegion s d) with
    | some base => freshRing s d base (journalRegion s d)
    | none => s

/-! ## Ports at start-up (R426 step 10, R429) -/

/-- The mode that the option byte of a port enables, if it enables one: a Pickline mode only when the other port of the
ring names the same. -/
def optionMode (o : Opts) (j : Nat) : Option Nat :=
  let b := o.ports.getD j 0
  let m := b % 8
  let other := o.ports.getD (Nat.xor j 1) 0
  if !bitOf b 7 || (isPickline m && (decide (other % 8 ≠ m))) then none else some m

/-- Enable the ports that the option bytes name; a ring that is configured keeps its configuration (R311). -/
def enablePorts (s : State) (d : Die) : State :=
  let o := getOpts s d
  (List.range 48).foldl (fun s j =>
    match optionMode o j with
    | none => s
    | some m =>
      let old := (regRaw s .PCFG d j).toNat
      if bitOf old 31 && isPickline (bitsOf old 26 24) then s
      else
        let v := putBits (putBits (putBits old 31 31 1) 26 24 m) 23 22 (bitsOf (o.ports.getD j 0) 4 3)
        portCfgWrite s .fwOwn (d.val * 48 + j) (BitVec.ofNat 32 v)) s

/-! ## A die that is loaded and whose firmware runs -/

/-- Is the die loaded, and does its firmware run? -/
def dieReadyUp (s : State) (d : Die) : Bool := flagF s fCFG_STAT_done d 0 && fwRuns s d

def setDieState (s : State) (d : Die) (v : Nat) : State :=
  if d = 0 then setF s fDEV_STATE_die0 0 0 v else setF s fDEV_STATE_die1 0 0 v

/-- The device is in RUN: a wake has ended, and VGL_WAKE_N is released (R437, R438). -/
def inRun (s : State) : State :=
  let s := setF s fVGL_PWR_state 0 0 0
  if s.rst.wakeNLow then emit { s with rst.wakeNLow := false } (.wakeN false) else s

/-- A wake from DOZE ends when both dies are loaded and run. -/
def awake (s : State) : State :=
  if getF s fVGL_PWR_state 0 0 = 3 ∧ !s.rst.dozing ∧ !s.rst.vigil ∧ s.rst.opened ∧ dieState s 0 = 2 ∧ dieState s 1 = 2 then inRun s
  else s

/-- The beat engine starts when both dies are up, or one is and the other has been declared lost (R427). -/
def startEngine (s : State) : State :=
  let up (d : Die) : Bool := dieReadyUp s d && decide (2 ≤ dieState s d)
  let lost (d : Die) : Bool := flagF s fBEAT_STAT_peer_lost (otherDie d) 0
  if s.rst.opened || !((up 0 || lost 0) && (up 1 || lost 1)) then s
  else
    let s := [(0 : Die), 1].foldl (fun s d => if up d then modBeat s d (fun b => { b with started := true }) else s) s
    showReady (inRun { s with rst.opened := true, rst.restore := [] })

/-! ## Yarns after a DIE reset or a reload (R194, R418) -/

/-- The checkpoints that the yarns of a list are restored from, each its last committed one or the fallback (R185). -/
def lastCkpts (s : State) (cs : List Nat) : State × List (Nat × CkptVals) :=
  cs.foldl (fun r c =>
    let p := chooseCkpt r.1 c
    match p.2 with
    | some o => (p.1, r.2 ++ [(c, readCkpt p.1 (codeDie c) (codeYarn p.1 c) o)])
    | none => (p.1, r.2)) (s, [])

/-- The yarns at work that have a checkpoint which no generation of can be read: they stop (R185). -/
def unreadable (s : State) (cs : List Nat) (vs : List (Nat × CkptVals)) : List Nat :=
  cs.filter (fun c => (ckptFrom (codeYarn s c) (ckptOrd s (codeDie c))).isSome && !vs.any (fun e => decide (e.1 = c)))

/-- A restored yarn goes on in the state it had. -/
def goOn (s : State) (c : Nat) : State :=
  let d := codeDie c
  let s := modYarn s d (c / 2) (fun y => { y with target := none, rpFault := [], reinject := [] })
  if cutsAtMarks (codeYarn s c) then takeCuts s d (c / 2) (marksAll (codeYarn s c)) else s

/-- The yarns of a die by their codes. -/
def dieCodes (s : State) (d : Die) : List Nat := (yarnsOn s d).map (fun e => yarnCode d e.1)

/-- The bobbins of a die that hold anything to restore: those in use. -/
def dieBobs (s : State) (d : Die) : List Nat :=
  (s.flow.bobs.filter (fun e => decide (e.2.state ≠ .free) && decide (e.2.die = d))).map (fun e => e.1)

/-- Restore the yarns of a die after a DIE reset, and its bobbins as faulted ones (R418). A yarn of class NONE stops, one of
class RESTART is restored alone, and one whose journal has a gap stops with an uncorrectable event. -/
def restoreFlow (s : State) (d : Die) : State :=
  let cs := dieCodes s d
  let work := cs.filter (fun c => atWork (codeYarn s c))
  let r := lastCkpts s cs
  let vs := r.2
  let bad := unreadable r.1 work vs
  let s := vs.foldl (fun s e => restoreYarn s e.1 e.2) r.1
  let full := vs.filter (fun e => decide ((codeYarn s e.1).replay = 0))
  let bobs := dieBobs s d
  let s := bobs.foldl (fun s n => modBob s n (fun b => { b with state := .resetting, lost := b.items })) s
  let t := bobs.foldl (fun (t : State × List Nat) n =>
    let x := restoreBob t.1 full n
    (modBob x.1 n (fun b => { b with state := .active }),
     if x.2.2 then t.2 ++ consumerCodes t.1 (getBob t.1 n) else t.2)) (s, [])
  let s := cs.foldl (fun s c => goOn s c) t.1
  let s := bad.foldl (fun s c => stopYarn (rplLast s d 6 5 (c / 2)) d (c / 2) 6) s
  let stop (c : Nat) : Bool := work.contains c && (decide ((codeYarn s c).replay = 2) || t.2.contains c)
  (cs.filter stop).foldl (fun s c => stopYarn s d (c / 2) (if t.2.contains c then 3 else 0xFF)) s

/-- After the reload of a live update the yarns on the die are restored from their last committed checkpoints, twin copies are
resynchronised with the other die's (R193), and those that the update held return to RUN (R194 step 7). -/
def restoreHeld (s : State) (d : Die) : State :=
  let cs := (dieCodes s d).filter (fun c => atWork (codeYarn s c) || (codeYarn s c).updHold)
  let r := lastCkpts s (dieCodes s d)
  let bad := unreadable r.1 cs r.2
  let s := r.2.foldl (fun s e => restoreYarn s e.1 e.2) r.1
  let s := bad.foldl (fun s c =>
    modYarn (stopYarn (rplLast s d 6 5 (c / 2)) d (c / 2) 6) d (c / 2) (fun y => { y with updHold := false })) s
  let s := (dieCodes s d).foldl (fun s c => goOn s c) s
  let s := if apart s then s else
    ((yarnsOn s d).filter (fun e => decide (e.2.prot = 2))).foldl (fun s e => resyncFrom s (otherDie d) e.1) s
  (yarnsOn s d).foldl (fun s e =>
    if e.2.updHold then enterRun (modYarn s d e.1 (fun y => { y with updHold := false })) d e.1 else s) s

/-- The HBM channel groups of a die that are ON go into self-refresh, or those in it come back (R194 step 5, R212). -/
def selfRefresh (s : State) (d : Die) (on : Bool) : State :=
  let from_ : DState := if on then .on else .ret
  let to_ : DState := if on then .ret else .on
  (List.range 8).foldl (fun s k =>
    let m := getDom s d (48 + k)
    if m.state = from_ ∧ m.step = .none then setDom s d (48 + k) { m with state := to_, goal := to_ } else s) s

/-- The firmware starts the rings of a die that have a node and whose command bobbins are all fed by yarns in RUN (R335, R387;
DESIGN CHOICE, log entry 271). -/
def startRings (s : State) (d : Die) : State :=
  (List.range 24).foldl (fun s i =>
    let k := d.val * 24 + i
    if ringPaired s k && decide (0 < ringCount s k) && !ringWaits s k then
      plCtlWrite s .fwOwn k (regRaw s .PL_CTL d (ringIx k) ||| 0x80000000)
    else s) s

/-- Is the die in the reload of a live update (R194)? -/
def reloading (s : State) (d : Die) : Bool :=
  match (getBeat s d).update with
  | some u => decide (u.phase = .reloading)
  | none => false

/-- A die becomes up: it is loaded and its firmware runs. `update` and `retained` say that the load was one of a live update or
of a wake from DOZE, which keep the tables of the die. -/
def dieUp (s : State) (d : Die) (update retained : Bool) : State :=
  if !dieReadyUp s d || decide (2 ≤ dieState s d ∧ dieState s d ≠ 3) then s
  else
    let s := setDieState s d 2
    let s := applyDarning (applyAging (showRetired s d) d) d
    if update then
      let s := modBeat (restoreHeld (selfRefresh s d false) d) d (fun b => { b with update := none })
      let s := (List.range 48).foldl (fun s m => setPort s (d.val * 48 + m) { getPort s (d.val * 48 + m) with cut := false }) s
      endWait (startRings s d) (.update d) 0 0 0
    else if retained then awake s
    else
      let s := makeJournal (applyMarch s d) d
      let s := if s.mem.descs.any (fun x => decide (x.die = d)) then s else applyTables s d
      let s := enablePorts s d
      if s.rst.opened then showReady (awake s) else startEngine s

end Sys2Proof.Machine
end

