-- ==== Sys2Proof/Machine/Fringe.lean ====
section
/-! DEFINITION. The fringe (R393 to R414): tiles, cells and routing, I/O cells and pins, fringe gates, serial controllers, and
the checks of R405. -/

namespace Sys2Proof.Machine

/-! ## Frames of the fringe (R395, R398, R403) -/

/-- A byte of a FRINGE frame. -/
def frameByte (s : State) (d : Die) (frame o : Nat) : Nat := (memByte s.fringe.frames (fringeAddr d frame o)).toNat

/-- The cell word of cell i of tile t (R395). -/
def cellWord (s : State) (d : Die) (t i : Nat) : Nat :=
  leNat (memRead s.fringe.frames (fringeAddr d (16 * t + i / 8) (16 * (i % 8))) 16)

/-- The 64 configuration bits of I/O cell p (R404). -/
def ioWord (s : State) (d : Die) (p : Nat) : Nat := leNat (memRead s.fringe.frames (fringeAddr d (24576 + p) 0) 8)

/-- The source of a clock net, and the multiplier and enable of a PLL (R401, R403). -/
def netSource (s : State) (d : Die) (n : Nat) : Nat := frameByte s d 24608 n % 16
def pllM (s : State) (d : Die) (i : Nat) : Nat := frameByte s d 24608 (8 + 2 * i) % 64
def pllEn (s : State) (d : Die) (i : Nat) : Bool := bitOf (frameByte s d 24608 (9 + 2 * i)) 0
def roEn (s : State) (d : Die) (i : Nat) : Bool := bitOf (frameByte s d 24609 i) 7
def gateEn (s : State) (d : Die) (g : Nat) : Bool := bitOf (frameByte s d 24610 g) 7
def gateNet (s : State) (d : Die) (g : Nat) : Nat := frameByte s d 24610 g % 8

/-- The cells of a die whose words are not all 0, as 32 × tile + cell. -/
def usedCells (s : State) (d : Die) : List Nat :=
  ((s.fringe.frames.filterMap (fun e =>
    let a := e.1 - fringeAddr d 0 0
    if fringeAddr d 0 0 ≤ e.1 ∧ a < 24576 * 128 ∧ a / 128 % 16 < 4 then
      some (a / 2048 * 32 + a / 128 % 16 * 8 + a % 128 / 16) else none))).dedup

/-! ## Steps of the start-up and clocks (R384, R385, R401) -/

/-- Has a start-up step of the last load of the die been done: 0 W, 1 O, 2 S, 3 E? -/
def stepDoneOf (s : State) (d : Die) (k : Nat) : Bool := domOn s d 58 && bitOf (getF s fCFG_STAT_steps d 0) k

/-- Does the source of a clock net run (R401)? -/
def sourceOn (s : State) (d : Die) (c : Nat) : Bool :=
  match c with
  | 1 => flagF s fREFCLK_STAT_locked d 0
  | 2 => flagF s fFCLK_STAT_pll0_lock d 0
  | 3 => flagF s fFCLK_STAT_pll1_lock d 0
  | 4 | 5 | 6 | 7 => bitOf (getF s fFCLK_STAT_ro_run d 0) (c - 4)
  | _ => false

/-- Show which nets run. -/
def showNets (s : State) (d : Die) : State :=
  setF s fFCLK_STAT_net_on d 0
    (((List.range 8).map (fun n => if sourceOn s d (netSource s d n) then 2 ^ n else 0)).sum)

/-- Lock or unlock a PLL. -/
def setPll (s : State) (d : Die) (i : Nat) (v : Bool) : State :=
  showNets (setF s (if i = 0 then fFCLK_STAT_pll0_lock else fFCLK_STAT_pll1_lock) d 0 (bitN v)) d

def pllLocked (s : State) (d : Die) (i : Nat) : Bool :=
  flagF s (if i = 0 then fFCLK_STAT_pll0_lock else fFCLK_STAT_pll1_lock) d 0

/-- Is a net's clock running? -/
def netRuns (s : State) (d : Die) (n : Nat) : Bool := domWorks s d 58 && bitOf (getF s fFCLK_STAT_net_on d 0) n

/-- FRINGE_PLL_LOCK_LOSS (R401): the PLL's nets are held low until it relocks, and a loss while the die runs is recorded. -/
def execFringePllLockLoss (d : Die) (i : Fin 2) (s : State) : Host.Outcome State Fault Refusal :=
  .next (if !pllLocked s d i.val then s
    else
      let s := setPll s d i.val false
      if flagF s fCFG_STAT_done d 0 then setF s fFCLK_STAT_lock_lost d 0 1 else s)

/-- FRINGE_PLL_RELOCK (R401): a PLL that the image enables has locked. -/
def execFringePllRelock (d : Die) (i : Fin 2) (s : State) : Host.Outcome State Fault Refusal :=
  .next (if domOn s d 58 && pllEn s d i.val && !(getImg s d).loading then setPll s d i.val true else s)

/-- RO_COUNT_WINDOW (R410): the count of the last 10 µs. -/
def execRoCountWindow (d : Die) (i : Fin 4) (count : BitVec 16) (s : State) : Host.Outcome State Fault Refusal :=
  .next (setF s fRO_CNT_count d i.val (if bitOf (getF s fFCLK_STAT_ro_run d 0) i.val then count.toNat else 0))

/-! ## Pins (R412, R431 to R433) -/

/-- How a FIO pin is held. -/
inductive Pad where
  | unpowered | hiZ | pullUp | pullDown | low | high | keeper | fabric
  deriving DecidableEq, Repr

/-- The fuse-map state of a code (R431). -/
def padOfFuse (c : Nat) : Pad :=
  match c with
  | 1 => .pullUp
  | 2 => .pullDown
  | 3 => .low
  | 4 => .high
  | _ => .hiZ

/-- How pin p of a die is held (R384, R412, R431 to R433): by the fringe design once step O has released it, in its fuse-map
state after a POWER reset or a loss of the rail, and else on its keeper. Before the fuse loader has run it is hi-Z (R432). -/
def padOf (s : State) (d : Die) (p : Nat) : Pad :=
  if !flagF s fFIO_STAT_rail_ok d 0 then .unpowered
  else if s.fringe.fuseMap.getD d.val true || s.rst.dozing || s.rst.vigil then
    if getStage s d < 3 ∧ !(s.rst.dozing || s.rst.vigil) then .hiZ
    else padOfFuse (s.fuses.fuseMap.getD (d.val * 32 + p) 2).toNat
  else if stepDoneOf s d 1 && !(getImg s d).loading then .fabric
  else .keeper

/-- Do the pins of a die read 0 because its rail was lost (R412)? They do so until the die's next load. -/
def pinsDead (s : State) (d : Die) : Bool :=
  !flagF s fFIO_STAT_rail_ok d 0 || (s.fringe.fuseMap.getD d.val true && !(getImg s d).starting)

/-- FIO_RAIL_LOSS (R412): when the die runs, the loss is recorded and the pins take their fuse-map states until its next
load. -/
def execFioRailLoss (d : Die) (s : State) : Host.Outcome State Fault Refusal :=
  .next (if !flagF s fFIO_STAT_rail_ok d 0 then s
    else
      let s := setF s fFIO_STAT_rail_ok d 0 0
      if flagF s fCFG_STAT_done d 0 then
        let s := { s with fringe.fuseMap := listSet s.fringe.fuseMap d.val true
                          fringe.rx := dropRangeOf s.fringe.rx (d.val * 32) 32 }
        let s := setReg (setF s fFIO_STAT_lost d 0 1) .FIO_IN d 0 0
        raiseEvent s 0x05 d 0xFFFF 0xFF
      else s)

/-- FIO_RAIL_RETURN (R412, R426): the rail is within range, at the voltage sensed. -/
def execFioRailReturn (d : Die) (v33 : Bool) (s : State) : Host.Outcome State Fault Refusal :=
  .next (setF (setF s fFIO_STAT_rail_ok d 0 1) fFIO_STAT_rail_v d 0 (bitN v33))

/-! ## Fringe gates (R400, R406, R407) -/

/-- Does a gate work: the die is not held by R384, and the gate is enabled and its clock net runs? -/
def gateWorks (s : State) (d : Die) (g : Nat) : Bool :=
  stepDoneOf s d 1 && !(getImg s d).loading && gateEn s d g && netRuns s d (gateNet s d g) && domTakes s d 58

/-- in_ready of a gate (R406). -/
def gateReady (s : State) (d : Die) (g : Nat) : Bool :=
  gateWorks s d g && flagF s fGATE_IN_bound d g && decide ((getFGate s d g).buf.length < 32)

/-- The words of a gate's buffer are written into its bobbin; the status shown is that of the last. -/
def flushGate (s : State) (d : Die) (g : Nat) : State :=
  let n := getF s fGATE_IN_bobbin d g
  let ws := (getFGate s d g).buf
  let s := setFGate s d g { getFGate s d g with buf := [] }
  ws.foldl (fun s w =>
    let s := if (getBob s n).state = .free then setF s fGATE_IN_wstat d g 6
      else
        let s := dropStalled (writeWord s n w true) n
        setF s fGATE_IN_wstat d g (getBob s n).wstat.toNat
    if tagLast w.tag ∧ getF s fGATE_IN_wstat d g = 0 then wrapF s fGATE_CNT_items_in d g else s) s

/-- GATE_IN_WORD (R406): a rising edge with in_valid at 1; the word is taken when in_ready is 1. -/
def gateInWord (s : State) (d : Die) (g : Nat) (w : TWord) : State :=
  if !gateReady s d g || tagIdle w.tag then s
  else
    let q := getFGate s d g
    let s := setFGate s d g { q with buf := q.buf ++ [w] }
    if tagLast w.tag ∨ 8 ≤ q.buf.length + 1 then flushGate s d g else s

/-- GATE_IN_WORD (R406). -/
def execGateInWord (d : Die) (g : Fin 64) (w : TWord) (s : State) : Host.Outcome State Fault Refusal :=
  .next (gateInWord s d g.val w)

/-- Does a gate offer its outbound bobbin (R407)? -/
def gateOffers (s : State) (d : Die) (g : Nat) : Bool := gateWorks s d g && flagF s fGATE_OUT_bound d g

/-- The word that a gate offers to the fabric. -/
def gateOffer (s : State) (d : Die) (g : Nat) : TWord := (peekWord s (getF s fGATE_OUT_bobbin d g)).getD idleWord

/-- GATE_OUT_WORD (R407): an edge of the gate's clock net; with out_ready at 1 the fabric takes the word offered. -/
def gateOutWord (s : State) (d : Die) (g : Nat) (ready : Bool) : State :=
  if !ready || !gateOffers s d g then s
  else
    let n := getF s fGATE_OUT_bobbin d g
    let r := egressWord (bobWords (getBob s n) + 1) s n
    let s := emit r.1 (.word n (r.2.getD idleWord))
    match r.2 with
    | none => s
    | some w =>
      let s := setFGate s d g { getFGate s d g with inOpen := !tagLast w.tag }
      if tagLast w.tag then wrapF s fGATE_CNT_items_out d g else s

/-- GATE_OUT_WORD (R407). -/
def execGateOutWord (d : Die) (g : Fin 64) (ready : Bool) (s : State) : Host.Outcome State Fault Refusal :=
  .next (gateOutWord s d g.val ready)

/-! ## Routing (R396 to R400) -/

/-- The tile at which the segment that arrives at tile t with index k starts, if it exists (R396). -/
def segStart (t k : Nat) : Option Nat :=
  let x := t % 32
  let y := t / 32
  let len := if k % 20 < 8 then 1 else if k % 20 < 16 then 4 else 16
  match k / 20 with
  | 0 => if len ≤ x then some (t - len) else none
  | 1 => if x + len < 32 then some (t + len) else none
  | 2 => if y + len < 48 then some (t + 32 * len) else none
  | 3 => if len ≤ y then some (t - 32 * len) else none
  | _ => none

/-- Does the segment that starts at tile t with index k end inside the grid (R396)? -/
def segExists (t k : Nat) : Bool :=
  let x := t % 32
  let y := t / 32
  let len := if k % 20 < 8 then 1 else if k % 20 < 16 then 4 else 16
  match k / 20 with
  | 0 => decide (x + len < 32)
  | 1 => decide (len ≤ x)
  | 2 => decide (len ≤ y)
  | 3 => decide (y + len < 48)
  | _ => false

/-- A value that the manual leaves open in the fringe: a loop of combinational paths (R399) and the level of a serial
controller's line within a byte (R409), by place; log entry 4. -/
def openSignal (s : State) (k : Nat) : Bool := (Config.freeWord (s.free + k)).getLsbD 0

/-- Attachment output j of tile t (R400). -/
def attached (s : State) (d : Die) (t j : Nat) : Bool :=
  let x := t % 32
  let y := t / 32
  if x = 0 ∧ y < 8 then
    let p := 4 * y + j / 16
    if j % 16 < 8 then (sparseGet (fun _ => 0) s.fringe.rx (d.val * 32 + p)).getLsbD (j % 16)
    else decide (j % 16 = 8) && bitOf (regRaw s .FIO_IN d 0).toNat p
  else if x = 0 ∧ y < 16 then decide (j < 10) && openSignal s (256 * t + j)
  else if 30 ≤ x ∧ 8 ≤ y ∧ y < 40 then
    let g := 32 * (31 - x) + (y - 8)
    let w := gateOffer s d g
    if j < 32 then gateOffers s d g && w.data.getLsbD j
    else if j < 44 then gateOffers s d g && w.tag.getLsbD (j - 32)
    else if j = 44 then gateOffers s d g
    else if j = 45 then gateReady s d g
    else if j < 50 then bitOf (getF s fGATE_IN_wstat d g) (j - 46)
    else false
  else false

/-- A point of the fabric: the output of a source selector of a tile with its code, a cell's O6 or O5, or its output A or
B. -/
inductive FNode where
  | src (t code : Nat)
  | fn (t i : Nat) (five : Bool)
  | out (t i : Nat) (b : Bool)
  deriving DecidableEq, Repr

/-- The value of a flip-flop. -/
def ffVal (s : State) (d : Die) (t i : Nat) (b : Bool) : Bool := sparseGet (fun _ => false) s.fringe.ffs (ffKey d t i b)

/-- The source code of cluster line n of a tile. -/
def lineCode (s : State) (d : Die) (t n : Nat) : Nat := frameByte s d (16 * t + 5) n

/-- The value at a point of the fabric, through at most `fuel` cells and selectors; a path that is longer runs in a
loop. -/
def fabric (s : State) (d : Die) : Nat → FNode → Bool
  | 0, .src t c => openSignal s (256 * t + c)
  | 0, .fn t i _ => openSignal s (256 * t + i)
  | 0, .out t i _ => openSignal s (256 * t + i)
  | k + 1, .src t c =>
    if c = 0 then false
    else if c ≤ 0x50 then
      match segStart t (c - 1) with
      | some u => fabric s d k (.src u (frameByte s d (16 * u + 4) (c - 1)))
      | none => false
    else if c ≤ 0x90 then fabric s d k (.out t ((c - 0x51) / 2) (decide ((c - 0x51) % 2 = 1)))
    else if c ≤ 0xD0 then attached s d t (c - 0x91)
    else decide (c = 0xD1)
  | k + 1, .fn t i five =>
    let w := cellWord s d t i
    let input (j : Nat) : Nat :=
      bitN (fabric s d k (.src t (lineCode s d t (bitsOf w (64 + 6 * j + 5) (64 + 6 * j))))) * 2 ^ j
    let low := input 0 + input 1 + input 2 + input 3 + input 4
    bitOf w (if five then low else low + input 5)
  | k + 1, .out t i b =>
    let w := cellWord s d t i
    if bitOf w (if b then 114 else 113) then ffVal s d t i b else fabric s d k (.fn t i b)

/-- More cells and selectors than a path without a loop can pass. -/
def fabricFuel : Nat := 1536 * 200

/-- A cluster line of a tile. -/
def lineVal (s : State) (d : Die) (t n : Nat) : Bool := fabric s d fabricFuel (.src t (lineCode s d t n))

/-- Attachment input j of tile t (R400). -/
def attachIn (s : State) (d : Die) (t j : Nat) : Bool := fabric s d fabricFuel (.out t (j / 2) (decide (j % 2 = 1)))

/-! ## Flip-flops (R394) -/

/-- The initial value of a flip-flop. -/
def ffInit (w : Nat) (b : Bool) : Bool := bitOf w (if b then 118 else 117)

/-- Is the set/reset input of a cell at 1? -/
def srVal (s : State) (d : Die) (t w : Nat) : Bool :=
  match bitsOf w 121 120 with
  | 1 => lineVal s d t 62
  | 2 => lineVal s d t 63
  | _ => false

/-- Is the clock enable of a cell at 1? -/
def ceVal (s : State) (d : Die) (t w : Nat) : Bool :=
  match bitsOf w 123 122 with
  | 1 => lineVal s d t 60
  | 2 => lineVal s d t 61
  | _ => true

/-- What a flip-flop holds after a rising edge of its clock net. -/
def ffNext (s : State) (d : Die) (t i : Nat) (b : Bool) : Bool :=
  let w := cellWord s d t i
  if srVal s d t w then ffInit w b
  else if !ceVal s d t w then ffVal s d t i b
  else if bitOf w (if b then 116 else 115) then lineVal s d t (if b then bitsOf w 111 106 else bitsOf w 105 100)
  else fabric s d fabricFuel (.fn t i b)

/-- Set flip-flops. -/
def setFfs (s : State) (vs : List (Nat × Bool)) : State :=
  { s with fringe.ffs := vs.foldl (fun m e => sparseSet (fun _ => false) m e.1 e.2) s.fringe.ffs }

/-- Every flip-flop at the initial value that the image gives it (R384). -/
def initFfs (s : State) (d : Die) : State :=
  let s := { s with fringe.ffs := dropRangeOf s.fringe.ffs (ffKey d 0 0 false) 98304 }
  setFfs s ((usedCells s d).flatMap (fun c => [false, true].map (fun b =>
    (ffKey d (c / 32) (c % 32) b, ffInit (cellWord s d (c / 32) (c % 32)) b))))

/-- The flip-flops of tiles whose FRINGE frames have been written, at the initial values that these give (R384). -/
def initTiles (s : State) (d : Die) (t0 n : Nat) : State :=
  let s := { s with fringe.ffs := dropRangeOf s.fringe.ffs (ffKey d t0 0 false) (64 * n) }
  setFfs s (((usedCells s d).filter (fun c => decide (t0 ≤ c / 32) && decide (c / 32 < t0 + n))).flatMap (fun c => [false, true].map (fun b =>
    (ffKey d (c / 32) (c % 32) b, ffInit (cellWord s d (c / 32) (c % 32)) b))))

/-- The flip-flops whose set/reset acts without a clock are forced (R394). -/
def asyncResets (s : State) (d : Die) : State :=
  setFfs s (((usedCells s d).filter (fun c =>
    let w := cellWord s d (c / 32) (c % 32)
    !bitOf w 119 && srVal s d (c / 32) w)).flatMap (fun c => [false, true].map (fun b =>
      (ffKey d (c / 32) (c % 32) b, ffInit (cellWord s d (c / 32) (c % 32)) b))))

/-- Forcing goes on until it forces nothing more: each pass may free or force others. -/
def settleResets : Nat → State → Die → State
  | 0, s, _ => s
  | k + 1, s, d =>
    let t := asyncResets s d
    if t.fringe.ffs = s.fringe.ffs then s else settleResets k t d

/-! ## I/O cells (R404) -/

/-- The tile and first attachment of I/O cell p (R400). -/
def ioTile (p : Nat) : Nat := 32 * (p / 4)
def ioRatio (w : Nat) : Nat := 2 ^ bitsOf w 31 30

/-- What the serialiser of a pin sends after an edge (R404): the bits of its ratio after inversion in the low byte, and for each
in the high byte whether the pin drives it; in open-drain mode it drives a 0 and is released for a 1. -/
def ioDrive (s : State) (d : Die) (p : Nat) : BitVec 16 :=
  let w := ioWord s d p
  let t := ioTile p
  let bit (k : Nat) : Bool := xor (attachIn s d t (16 * (p % 4) + k)) (bitOf w 24)
  let oe (k : Nat) : Bool :=
    match bitsOf w 26 25 with
    | 0 => false
    | 1 => true
    | 2 => attachIn s d t (16 * (p % 4) + 8)
    | _ => !bit k
  BitVec.ofNat 16 ((List.range (ioRatio w)).map (fun k => bitN (bit k) * 2 ^ k + bitN (oe k) * 2 ^ (8 + k))).sum

/-- What a pin samples: its level and the bits of its ratio, after inversion; 0 while its rail is lost (R412). -/
def ioSample (s : State) (d : Die) (p : Nat) (level : Bool) (rx : Nat) : Bool × BitVec 8 :=
  let w := ioWord s d p
  let r := ioRatio w
  if pinsDead s d then (false, 0)
  else (xor level (bitOf w 24), BitVec.ofNat 8 (if bitOf w 24 then 2 ^ r - 1 - rx % 2 ^ r else rx % 2 ^ r))

/-- The I/O cells of a die on a clock net. -/
def ioOn (s : State) (d : Die) (n : Nat) : List Nat := (List.range 32).filter (fun p => decide (bitsOf (ioWord s d p) 29 27 = n))

/-- FRINGE_CLOCK_EDGE (R394, R401, R404): the flip-flops and I/O cells of the net act on the values before the edge; pins are
driven once step O has released them, flip-flops move once step S has. -/
def clockEdge (s : State) (d : Die) (n : Nat) (level : Nat) (rx : Nat) : State :=
  if !netRuns s d n || (getImg s d).loading then s
  else
    let cells := (usedCells s d).filter (fun c => decide (bitsOf (cellWord s d (c / 32) (c % 32)) 126 124 = n))
    let next := if stepDoneOf s d 2 then cells.flatMap (fun c => [false, true].map (fun b =>
      (ffKey d (c / 32) (c % 32) b, ffNext s d (c / 32) (c % 32) b))) else []
    let ios := ioOn s d n
    let drive := if stepDoneOf s d 1 then ios.map (fun p => (d.val * 32 + p, ioDrive s d p)) else []
    let seen := ios.map (fun p => (p, ioSample s d p (bitOf level p) (bitsOf rx (8 * p + 7) (8 * p))))
    let s := setFfs s next
    let s := { s with fringe.outputs := drive.foldl (fun m e => sparseSet (fun _ => 0) m e.1 e.2) s.fringe.outputs
                      fringe.rx := seen.foldl (fun m e => sparseSet (fun _ => 0) m (d.val * 32 + e.1) e.2.2) s.fringe.rx }
    let fio := seen.foldl (fun v e => putBits v e.1 e.1 (bitN e.2.1)) (regRaw s .FIO_IN d 0).toNat
    let s := setReg s .FIO_IN d 0 (BitVec.ofNat 32 fio)
    let s := if stepDoneOf s d 2 then settleResets 98305 s d else s
    { s with free := s.free + 393216 }

/-- FRINGE_CLOCK_EDGE (R394). -/
def execFringeClockEdge (d : Die) (net : Fin 8) (level : BitVec 32) (rx : BitVec 256) (s : State) :
    Host.Outcome State Fault Refusal :=
  .next (clockEdge s d net.val level.toNat rx.toNat)

/-! ## Serial controllers (R409, R414) -/

/-- The levels of a controller's buffers as its status shows them; an enabled controller transfers while it has a byte to send. -/
def showSer (s : State) (d : Die) (c : Nat) : State :=
  let q := getSer s d c
  setF (setF (setF s fSER_STAT_tx_lvl d c q.tx.length) fSER_STAT_rx_lvl d c q.rx.length) fSER_STAT_busy d c
    (bitN (flagF s fSER_CTL_en d c && !q.tx.isEmpty))

/-- A write of SER[c].TXD; accepted from step E of the start-up on (R414). -/
def serTxdWrite (s : State) (d : Die) (c : Nat) (v : Word) : State :=
  let q := getSer s d c
  if !stepDoneOf s d 3 then s
  else if 64 ≤ q.tx.length then setF s fSER_STAT_tx_ovf d c 1
  else showSer (setSer s d c { q with tx := q.tx ++ [BitVec.ofNat 11 v.toNat] }) d c

/-- SER_TXD_WRITE (R409). -/
def execSerTxdWrite (_rq : Requester) (d : Die) (c : Fin 8) (v : Word) (s : State) : Host.Outcome State Fault Refusal :=
  .next (serTxdWrite s d c.val v)

/-- A read of SER[c].RXD: its value, and the state, in which the byte is removed unless the read is an inspect read. -/
def serRxdRead (s : State) (d : Die) (c : Nat) (inspect : Bool) : State × Word :=
  let q := getSer s d c
  match q.rx with
  | [] => (s, 0x80000000)
  | b :: bs => (if inspect then s else showSer (setSer s d c { q with rx := bs }) d c, BitVec.ofNat 32 b.toNat)

/-- SER_RXD_READ (R414). -/
def execSerRxdRead (rq : Requester) (d : Die) (c : Fin 8) (inspect : Bool) (s : State) : Host.Outcome State Fault Refusal :=
  .next (
    let r := serRxdRead s d c.val inspect
    emit r.1 (.value rq r.2))

/-- A byte arrives at an enabled controller: it is kept, or lost when the buffer is full; `bad` is a framing or parity error of
a UART. An I²C target stretches the clock instead while its buffer is full. -/
def serReceive (s : State) (d : Die) (c : Nat) (b : Byte) (bad : Bool) : State :=
  let q := getSer s d c
  let full := decide (64 ≤ q.rx.length)
  if !stepDoneOf s d 3 || !flagF s fSER_CTL_en d c || (full && decide (getF s fSER_CTL_mode d c = 3)) then s
  else
    let s := if bad && decide (getF s fSER_CTL_mode d c = 0) then setF s fSER_STAT_err d c 1 else s
    if full then setF s fSER_STAT_rx_ovf d c 1 else showSer (setSer s d c { q with rx := q.rx ++ [b] }) d c

/-- SER_BYTE_RECEIVE (R409). -/
def execSerByteReceive (d : Die) (c : Fin 8) (b : Byte) (bad : Bool) (s : State) : Host.Outcome State Fault Refusal :=
  .next (serReceive s d c.val b bad)

/-- SER_BYTE_SENT (R409): the byte at the head of the transmit buffer of an enabled controller has gone out; in an I²C mode
the other side may not have acknowledged it. -/
def serSent (s : State) (d : Die) (c : Nat) (nack : Bool) : State :=
  let q := getSer s d c
  match q.tx with
  | [] => s
  | b :: bs =>
    if !stepDoneOf s d 3 || !flagF s fSER_CTL_en d c then s
    else
      let s := if nack && decide (2 ≤ getF s fSER_CTL_mode d c) then setF s fSER_STAT_err d c 1 else s
      emit (showSer (setSer s d c { q with tx := bs }) d c) (.serial d c b)

/-- SER_BYTE_SENT (R409). -/
def execSerByteSent (d : Die) (c : Fin 8) (nack : Bool) (s : State) : Host.Outcome State Fault Refusal :=
  .next (serSent s d c.val nack)

/-! ## The checks of R405 -/

/-- May a source code stand in a selector (R397)? -/
def codeOk (c : Nat) : Bool := decide (c ≤ 0xD1)

/-- May a byte of a tile frame hold its value: reserved fields and codes are 0, and a segment that does not exist has no
source. -/
def tileByteOk (t k o v : Nat) : Bool :=
  if k < 4 then
    if o % 16 = 15 then !bitOf v 7 && decide (bitsOf v 3 2 ≠ 3) && decide (bitsOf v 1 0 ≠ 3)
    else decide (o % 16 ≠ 14) || !bitOf v 0
  else if k = 4 then decide (o < 80) && codeOk v && segExists t o
  else if k = 5 then decide (o < 64) && codeOk v
  else false

/-- May a byte of a boundary frame hold its value (R403, R404)? -/
def edgeByteOk (f o v : Nat) : Bool :=
  if f < 24608 then decide (2 ≤ o ∧ o < 5) && (decide (o ≠ 4) || !bitOf v 7)
  else if f = 24608 then
    if o < 8 then decide (v < 8) else if o = 8 ∨ o = 10 then decide (v ≤ 32) else decide (o = 9 ∨ o = 11) && decide (v < 2)
  else if f = 24609 then decide (o < 4) && !bitOf v 6
  else if f = 24610 then decide (o < 64) && zeroBits v 6 3
  else if f < 24619 then decide (o < 4) && (decide (o ≠ 3) || decide (bitsOf v 2 1 ≠ 3))
  else false

/-- Will the source of a net run once the enabled sources have locked? A PLL or ring oscillator that is not enabled is off. -/
def netNamed (s : State) (d : Die) (n : Nat) : Bool :=
  match netSource s d n with
  | 0 => false
  | 1 => true
  | 2 => pllEn s d 0
  | 3 => pllEn s d 1
  | c => decide (c < 8) && roEn s d (c - 4)

/-- Does an I/O cell keep the rate rule and name a net that runs, with the bank voltage that the die senses? -/
def ioOk (s : State) (d : Die) (p : Nat) : Bool :=
  let w := ioWord s d p
  let n := bitsOf w 29 27
  let src := netSource s d n
  let m := if src = 2 then pllM s d 0 else pllM s d 1
  decide (bitsOf w 39 38 = getF s fFIO_STAT_rail_v d 0) && (decide (w % 2 ^ 38 = 0) || netNamed s d n) &&
    (decide (ioRatio w = 1) || (decide (src = 2 ∨ src = 3) && decide (ioRatio w * m ≤ 128)))

/-- Do the FRINGE frames pass (R405)? A cell names its clock net when an output shows a flip-flop, a gate when it is enabled,
an I/O cell when it is configured (log entry 91). -/
def fringeOk (s : State) (d : Die) : Bool :=
  (s.fringe.frames.all (fun e =>
    let a := e.1 - fringeAddr d 0 0
    let f := a / 128
    decide (e.1 < fringeAddr d 0 0) || decide (24832 ≤ f) ||
      (if f < 24576 then tileByteOk (f / 16) (f % 16) (a % 128) e.2.toNat else edgeByteOk f (a % 128) e.2.toNat))) &&
  (List.range 2).all (fun i => !pllEn s d i || decide (2 ≤ pllM s d i)) &&
  (List.range 32).all (ioOk s d) &&
  (List.range 64).all (fun g => !gateEn s d g || netNamed s d (gateNet s d g)) &&
  (usedCells s d).all (fun c =>
    let w := cellWord s d (c / 32) (c % 32)
    !(bitOf w 113 || bitOf w 114) || netNamed s d (bitsOf w 126 124))

end Sys2Proof.Machine
end

