-- ==== Sys2Proof/Machine/Loading.lean ====
section
/-! DEFINITION. The configuration engine (R376 to R388): the sources of a load, its checks step by step (R381), failures and
the fallback (R382, R383), the start-up sequence (R385 to R387), and the reload of the draft master copy (R388). -/

namespace Sys2Proof.Machine

/-! ## Sources (R376 to R378) -/

/-- Where an image slot stands in the NV store. -/
def slotBase (b : Bool) : Nat := if b then 0xE00000 else 0

/-- The bytes of an image in a slot before its first segment: header, segment table and the zeros after it. -/
def slotHead (s : State) (d : Die) (b : Bool) : List Byte :=
  let h := memRead s.mem.nv (nvAddr d (slotBase b)) 0x1900
  let n := 0x100 + 24 * segCount h + 4
  memRead s.mem.nv (nvAddr d (slotBase b)) (max n (min (segAt h 0).off 14680064))

/-- The bytes of an image that come before its first segment. -/
def sourceHead (s : State) (d : Die) : ImgSrc → List Byte
  | .slot b => slotHead s d b
  | .pins _ h => h
  | .pushed h => h

/-- The code of CFG_STAT.src. -/
def srcNo : ImgSrc → Nat
  | .slot false => 0
  | .slot true => 1
  | .pins _ _ => 2
  | .pushed _ => 3

/-- The NV slot into which a load from the pins or a push also writes the image (R378, R380). -/
def alsoSlot (src : ImgSrc) (head : List Byte) : Option Bool :=
  match src with
  | .slot _ => none
  | _ => match fieldAt head 0x17 1 with
    | 0 => some false
    | 1 => some true
    | _ => none

/-- Write bytes of an image into its NV slot, for a load that also writes it. -/
def writeAlso (s : State) (d : Die) (m : ImgSt) (off : Nat) (bs : List Byte) : State :=
  match m.src.bind (fun x => alsoSlot x m.header) with
  | some b => { s with mem.nv := memWrite s.mem.nv (nvAddr d (slotBase b + off)) bs }
  | none => s

/-! ## Failures (R382, R383) -/

/-- A failure is shown: the first one is kept, and CFG_ERR_N asserts (R382, R383). -/
def showFail (s : State) (d : Die) (code seg : Nat) : State :=
  let m := getImg s d
  let s := if m.failed then s else setF (setF s fCFG_STAT_code d 0 code) fCFG_STAT_seg d 0 seg
  setImg (setF (setF s fCFG_STAT_err d 0 1) fCFG_STAT_busy d 0 0) d { m with failed := true }

/-- A load of a die fails, and a live update ends. -/
def noteFail (s : State) (d : Die) (code seg : Nat) : State :=
  let m := getImg s d
  let nv := match m.src with
    | some (.slot _) => true
    | _ => m.nvFailed
  let s := modImg (showFail s d code seg) d (fun m => { m with loading := false, starting := false, waiting := false, nvFailed := nv })
  if m.update then
    let s := modBeat s d (fun b => { b with update := none })
    endWait s (.update d) (if code = 0x0A then 0xB else 6) 0 0
  else s

/-- A check that fails: its code and the segment it concerns. -/
abbrev LoadFail := Option (Nat × Nat)

/-- A load begins (R381 steps 1 to 3, R384): the die is held, its rings and treadle sequencers at run = 0, and frames that the
image does not cover are zeros. An image on the pins for the other die is passed over. -/
def beginLoad (s : State) (d : Die) (src : ImgSrc) (fallback update retained : Bool) : State × LoadFail :=
  let head := sourceHead s d src
  let m := getImg s d
  let s := setReg s .CFG_STAT d 0 (BitVec.ofNat 32 (putBits (putBits (regRaw s .CFG_STAT d 0).toNat 31 30 2) 28 22
    (bitN fallback * 64 + srcNo src * 16)))
  let s := setReg s .CFG_PROG d 0 (BitVec.ofNat 32 (segCount head % 256))
  let s := if retained then s else { s with mem.drafted := s.mem.drafted.filter (fun k => decide (k / 36 ≠ d.val)) }
  let s := (List.range 24).foldl (fun s k => setF s fPL_CTL_run d (2 * k) 0) (stompRings s d)
  let s := if retained then s else (List.range 36).foldl (fun s h => setF s fTSEQ_CTL_run d h 0) s
  let s := setDieState s d (if update then 3 else 1)
  let l := { imgInit with loading := true, src := some src, header := head, table := segTable head, failed := m.failed,
                          update := update, retained := retained, nvBusy := m.nvBusy
                          pinsTaken := match src with
                            | .pins _ _ => true
                            | _ => m.pinsTaken
                          nvFailed := match src with
                            | .slot _ => false
                            | _ => m.nvFailed
                          nvSlot := match src with
                            | .slot b => if b then 1 else 0
                            | _ => BitVec.ofNat 8 (fieldAt head 0x17 1) }
  let s := setImg s d l
  let h := headerCode d head
  if h ≠ 0 then (s, some (h, 0))
  else
    match imageKey s head with
    | none => (s, some (0x0B, 0))
    | some key =>
      let t := tableCode head
      if t ≠ 0 then (s, some (t, 0))
      else if head.length ≠ (segAt head 0).off then (s, some (0x06, 0))
      else
        let s := setImg s d { l with key := some key, keys := [key], digest := shaUpdate shaInit head }
        (writeAlso (clearOptional s d retained) d l 0 head, none)

/-- A check fails (R383): a load from a slot falls back to the other slot when the option bytes allow it; a live update does not. -/
def failLoad (s : State) (d : Die) (code seg : Nat) : State :=
  let m := getImg s d
  let again := !m.update && !flagF s fCFG_STAT_fallback d 0 && bitOf (getOpts s d).boot 2
  let s := noteFail s d code seg
  match m.src with
  | some (.slot b) =>
    if again then
      let r := beginLoad s d (.slot (!b)) true false m.retained
      match r.2 with
      | some f => noteFail r.1 d f.1 f.2
      | none => r.1
    else s
  | _ => s

/-- Start a load, and fail it at once when a check of steps 1 to 3 fails. -/
def startLoad (s : State) (d : Die) (src : ImgSrc) (update retained : Bool) : State :=
  let r := beginLoad s d src false update retained
  match r.2 with
  | some f => failLoad r.1 d f.1 f.2
  | none => r.1

/-- Is a die disabled after a load that failed: it waits for a load through the slave port or a push (R383)? -/
def disabledDie (s : State) (d : Die) : Bool :=
  let m := getImg s d
  m.failed && !m.loading && !m.starting && !m.waiting && !flagF s fCFG_STAT_done d 0

/-- The image slot that a load which waits must take: named by the live update, by the load before a DOZE, or by the option
bytes (R377, R437); none when the boot source is the slave port. -/
def waitingSlot (s : State) (d : Die) : Option Bool :=
  let m := getImg s d
  let o := (getOpts s d).boot
  if m.update then (getBeat s d).update.map (fun u => u.imSlot)
  else if m.retained then
    match m.nvSlot.toNat with
    | 0 => some false
    | 1 => some true
    | _ => if bitOf o 0 then none else some (bitOf o 1)
  else if bitOf o 0 then none else some (bitOf o 1)

/-- The bytes that the master of the slave port sends first (R378). -/
def syncBytes : List Byte := [0x5A, 0xA5, 0x5A, 0xA5]

/-- May this source start a load now (R377 to R380, R383)? A live update and a wake take their slot. The pins serve a die whose boot
source is the slave port, and one that a failed load has disabled, with the first image for it since CFG_CS_N was asserted; a push
serves a die whose NV image slots have failed. -/
def sourceDue (s : State) (d : Die) (src : ImgSrc) : Bool :=
  let m := getImg s d
  match src with
  | .slot b => m.waiting && decide (waitingSlot s d = some b)
  | .pins sync h => ((m.waiting && !m.update && (waitingSlot s d).isNone) || disabledDie s d) && !m.pinsTaken &&
      decide (sync = syncBytes) && decide (fieldAt h 0xB 1 = d.val)
  | .pushed _ => disabledDie s d && m.nvFailed && fwRuns s d

/-- IMAGE_LOAD (R381): the engine waits for its rail before it starts (R426 step 7). -/
def imageLoad (s : State) (d : Die) (src : ImgSrc) : State :=
  let m := getImg s d
  if !domTakes s d 60 || !domTakes s d 58 || !flagF s fFIO_STAT_rail_ok d 0 || m.loading || m.starting || !sourceDue s d src ||
      (m.retained && !domOn s d 59) then s
  else startLoad s d src m.update m.retained

/-- IMAGE_LOAD (R381). -/
def execImageLoad (d : Die) (src : ImgSrc) (s : State) : Host.Outcome State Fault Refusal := .next (imageLoad s d src)

/-- IMAGE_PUSH (R380). -/
def execImagePush (d : Die) (head : List Byte) (s : State) : Host.Outcome State Fault Refusal :=
  .next (imageLoad s d (.pushed head))

/-- FIO_RAIL_WAIT_TIMEOUT (R382): CFG_ERR_N asserts, and the engine goes on waiting. -/
def execFioRailWaitTimeout (d : Die) (s : State) : Host.Outcome State Fault Refusal :=
  .next (
    let m := getImg s d
    if !m.waiting || flagF s fFIO_STAT_rail_ok d 0 then s
    else showFail s d 0x10 0)

/-- CFG_CS_DEASSERT (R378): a die that waits for an image on the pins and has received none, or only a part of one, fails. -/
def csDeassert (s : State) (d : Die) : State :=
  let m := getImg s d
  if m.waiting && !m.update && !m.retained && bitOf (getOpts s d).boot 0 then noteFail s d 0x0F 0
  else
    match m.loading, m.src with
    | true, some (.pins _ _) => failLoad s d 0x06 m.done
    | _, _ => s

/-- CFG_CS_DEASSERT (R378). -/
def execCfgCsDeassert (s : State) : Host.Outcome State Fault Refusal :=
  .next ([(0 : Die), 1].foldl (fun s d => modImg s d (fun m => { m with pinsTaken := false })) (csDeassert (csDeassert s 0) 1))

/-! ## Segments (R381 steps 4 to 6) -/

/-- The golden table of a slot is written into the NV store after a load from it (R376). -/
def writeGolden (s : State) (d : Die) : State :=
  match (getImg s d).src with
  | some (.slot b) =>
    let bs := (List.range 24832).flatMap (fun k => leBytes 4 (sparseGet (fun _ => 0) s.fringe.golden (d.val * 24832 + k)).toNat)
    { s with mem.nv := memWrite s.mem.nv (nvAddr d (if b then 0x1F40000 else 0x1F00000)) bs }
  | _ => s

/-- The routes of SYS frames 1 to 15 become generation 0, and the firmware copies them into generation 1 (R366). -/
def loadRoutes (s : State) (d : Die) : State :=
  let at_ (r e : Nat) : BitVec 3 := BitVec.ofNat 3 (imageRoute s d r e)
  let rs := (List.range 42).flatMap (fun r => (List.range 43).flatMap (fun e =>
    [(routeKey d 0 r e, at_ r e), (routeKey d 1 r e, at_ r e)]))
  { s with net.routes := rs.foldl (fun m (e : Nat × BitVec 3) => sparseSet (fun _ => 0) m e.1 e.2) s.net.routes }

/-- What the engine writes once every check has passed (R384): bank 0 is the resident one (R365); drafts and constants of the
harnesses that are ON, routes, the initial values of the fringe and of its serial controllers, and ring oscillators. -/
def loadPassed (s : State) (d : Die) : State :=
  let m := getImg s d
  let s := if m.retained then s else (List.range 36).foldl (fun s h => modHar s d h (fun a => { a with flip := false })) s
  let s := if m.retained then s
    else (List.range 36).foldl (fun s h => if domOn s d h then loadHarConstants (loadHarDrafts s d h) d h else s) s
  let s := if m.retained then s else loadRoutes s d
  let s := initFfs s d
  let s := (List.range 8).foldl (fun s c =>
    showSer (setSer (setReg s .SER_CTL d c (BitVec.ofNat 32 (leNat (memRead s.fringe.frames (fringeAddr d (24611 + c) 0) 4)))) d c
      { tx := [], rx := [] }) d c) s
  let s := setF s fFCLK_STAT_ro_run d 0 (((List.range 4).map (fun i => bitN (roEn s d i) * 2 ^ i)).sum)
  let s := [0, 1].foldl (fun s i => if pllEn s d i then s else setPll s d i false) s
  let s := showNets s d
  setImg s d { m with loading := false, starting := true, stepNo := 0 }

/-- After the last segment: the signature, then the contents (R381 steps 5 and 6). -/
def checkWhole (s : State) (d : Die) (blk : List Byte) : State :=
  let m := getImg s d
  if !signatureOk s false blk (beNat (shaFinal m.digest)) then failLoad s d 0x0A (m.done - 1)
  else
    let c := draftsCode s d
    if c ≠ 0 then failLoad s d 0x0C c
    else if !tablesOk s d || !fringeOk s d then failLoad s d 0x0C 0xFF
    else loadPassed s d

/-- Write the frames of a segment. The flip-flops of the fringe tiles that it writes take their initial values, and are held there
(R384). -/
def putFrames (s : State) (d : Die) (retained : Bool) (e : SegEnt) (fs : List (Nat × List Byte)) : State :=
  let s := fs.foldl (fun s f => putFrame s d retained e.cls f.1 f.2) s
  let t0 := e.first / 16
  let t1 := min 1536 ((e.first + e.count + 15) / 16)
  if e.cls = 0 then initTiles s d t0 (t1 - t0) else s

/-- A segment has arrived with the bytes up to the next one, or to the end of the image after the last (R381 step 4). Bytes of
an NV slot are read from it; `nvBad` is an uncorrectable read or a failed write of the NV store. -/
def segmentLoad (s : State) (d : Die) (bytes : List Byte) (nvBad : Bool) : State :=
  let m := getImg s d
  match m.loading, m.src, m.table[m.done]?, m.key with
  | true, some src, some e, some key =>
    let final := decide (m.done + 1 = m.table.length)
    let stop := match m.table[m.done + 1]? with
      | some f => f.off
      | none => imageLen m.header
    let bs := match src with
      | .slot b => memRead s.mem.nv (nvAddr d (slotBase b + e.off)) (stop - e.off)
      | _ => bytes
    let nv := match src with
      | .slot _ => true
      | _ => (alsoSlot src m.header).isSome
    if nv && nvBad then failLoad s d 0x0E m.done
    else if bs.length ≠ stop - e.off then failLoad s d 0x06 m.done
    else
      match segDecode m.header m.done e key (bs.take e.len) with
      | .inr code => failLoad s d code m.done
      | .inl o =>
        if o.last ≠ final then failLoad s d 0x09 m.done
        else
          let s := putFrames s d m.retained e o.frames
          let s := writeAlso s d m e.off bs
          let s := setF s fCFG_PROG_seg_done d 0 (m.done + 1)
          let signed := if final then bs.take (bs.length - 256) else bs
          let s := setImg s d { m with done := m.done + 1, key := o.next, keys := m.keys ++ o.next.toList,
                                       digest := shaUpdate m.digest signed, buffers := (bs :: m.buffers).take 2 }
          if final then checkWhole s d (bs.drop (bs.length - 256)) else s
  | _, _, _, _ => s

/-- SEGMENT_LOAD (R374). -/
def execSegmentLoad (d : Die) (bytes : List Byte) (nvBad : Bool) (s : State) : Host.Outcome State Fault Refusal :=
  .next (segmentLoad s d bytes nvBad)

/-! ## The start-up sequence (R385 to R387) -/

/-- The clock-lock condition (R385). -/
def clocksLocked (s : State) (d : Die) : Bool :=
  flagF s fREFCLK_STAT_locked d 0 &&
    (List.range 36).all (fun h => !domOn s d h || flagF s fCLK_STAT_locked d h) &&
    (List.range 2).all (fun i => !pllEn s d i || pllLocked s d i) &&
    (List.range 4).all (fun i => !roEn s d i || bitOf (getF s fFCLK_STAT_ro_run d 0) i)

/-- The code of start-up step k, from the option byte (R386). -/
def stepCode (s : State) (d : Die) (k : Nat) : Nat := bitsOf (getOpts s d).order (7 - 2 * k) (6 - 2 * k)

/-- The die is loaded, and its firmware is told so by an event line (R387). -/
def loadDone (s : State) (d : Die) : State :=
  let m := getImg s d
  let s := writeGolden s d
  let s := setF (setF (setF s fCFG_STAT_done d 0 1) fCFG_STAT_err d 0 0) fCFG_STAT_busy d 0 0
  let s := setReg s .IMG_ID 0 d.val (BitVec.ofNat 32 (fieldAt m.header 0x0C 4))
  let s := setImg s d { m with starting := false, failed := false, update := false, retained := false }
  let s := { s with rst.cfgDone := s.rst.cfgDone || (flagF s fCFG_STAT_done 0 0 && flagF s fCFG_STAT_done 1 0) }
  dieUp (linePending s d (Config.loadLine d.val).val) d (reloading s d) m.retained

/-- STARTUP_STEP (R385): the next step ends; every step waits for the clock-lock condition. -/
def startupStep (s : State) (d : Die) : State :=
  let m := getImg s d
  if !m.starting || !clocksLocked s d then s
  else
    let c := stepCode s d m.stepNo
    let s := setF s fCFG_STAT_steps d 0 (Nat.lor (getF s fCFG_STAT_steps d 0) (2 ^ c))
    let s := if c = 1 then { s with fringe.fuseMap := listSet s.fringe.fuseMap d.val false } else s
    let s := setImg s d { m with stepNo := m.stepNo + 1 }
    if m.stepNo = 3 then loadDone s d else s

/-- STARTUP_STEP (R385). -/
def execStartupStep (d : Die) (s : State) : Host.Outcome State Fault Refusal := .next (startupStep s d)

/-- STARTUP_CLOCK_TIMEOUT (R385): the load fails when the clocks are still not locked. -/
def execStartupClockTimeout (d : Die) (s : State) : Host.Outcome State Fault Refusal :=
  .next (if (getImg s d).starting && !clocksLocked s d then failLoad s d 0x0D 0 else s)

/-! ## The draft master copy (R388) -/

/-- Decode a segment of the slot that a die was loaded from, with its key of the key store. -/
def storedSegment (s : State) (d : Die) (b : Bool) (i : Nat) : Option SegOut :=
  let m := getImg s d
  let head := slotHead s d b
  match m.table[i]?, m.keys[i]? with
  | some e, some key =>
    match segDecode head i e key (memRead s.mem.nv (nvAddr d (slotBase b + e.off)) e.len) with
    | .inl o => some o
    | .inr _ => none
  | _, _ => none

/-- The segments of a class that meet a range of frames. -/
def segmentsOf (s : State) (d : Die) (cls first count : Nat) : List Nat :=
  let t := (getImg s d).table
  (List.range t.length).filter (fun i => match t[i]? with
    | some e => decide (e.cls = cls) && decide (e.first < first + count) && decide (first < e.first + e.count)
    | none => false)

/-- The frames of a range from the slot that a die was loaded from; none when the die has no such slot or a segment does not
decode. -/
def storedFrames (s : State) (d : Die) (cls first count : Nat) : Option (List (Nat × List Byte)) :=
  let slot := match (getImg s d).nvSlot.toNat with
    | 0 => some false
    | 1 => some true
    | _ => none
  slot.bind (fun b => (segmentsOf s d cls first count).foldl (fun (r : Option (List (Nat × List Byte))) i =>
    match r, storedSegment s d b i with
    | some fs, some o => some (fs ++ o.frames.filter (fun f => decide (first ≤ f.1) && decide (f.1 < first + count)))
    | _, _ => none) (some []))

/-- MASTER_COPY_RELOAD (R388): the DRAFT frames of the harness are written again from the slot; where that cannot be, the
harness is lost. -/
def masterReload (s : State) (d : Die) (h : Nat) : State :=
  if !domOn s d 60 || !flagF s fCFG_STAT_done d 0 || (getImg s d).loading then s
  else if s.mem.drafted.contains (harKey d h) then loseHarness s d h
  else
    match storedFrames s d 1 (2704 * h) 2704 with
    | some fs => fs.foldl (fun s f => putFrame s d false 1 f.1 f.2) s
    | none => loseHarness s d h

/-- MASTER_COPY_RELOAD (R388). -/
def execMasterCopyReload (d : Die) (h : Harn) (s : State) : Host.Outcome State Fault Refusal :=
  .next (masterReload s d h.val)

end Sys2Proof.Machine
end

