-- ==== Sys2Proof/Machine/Release.lean ====
section
/-! DEFINITION. The release of resets (R422 to R427), the option loader (R428 to R430), the software request source, the restart
of a Rentur complex (R359), and the restore of a die after a DIE reset (R418). -/

namespace Sys2Proof.Machine

/-! ## Sources (R419, R422, R423) -/

/-- The sources whose assertion comes from outside and has no step of its own: the rails, the pin, the reference clock and the
thermal trip. -/
def outsideSource (src : Nat) : Bool := [0, 1, 2, 3, 7, 12].contains src

/-- A reset source asserts; die d is the one that detects it (R419). A reference clock failure is counted there (R479). -/
def sourceAssert (s : State) (d : Die) (src : Nat) : State :=
  if !outsideSource src || s.rst.asserted.any (fun a => decide (a.src = src)) then s
  else
    let s := assertReset s src { level := reachOf s d src, die := d, har := 0 }
    if src = 7 then countF s fREFCLK_STAT_fails d 0 else s

/-- RESET_SOURCE_ASSERT (R422). -/
def execResetSourceAssert (d : Die) (src : Fin 13) (s : State) : Host.Outcome State Fault Refusal :=
  .next (sourceAssert s d src.val)

/-- The sources that act on the die that detects them (R419). -/
def perDie (src : Nat) : Bool := [4, 8, 9, 10].contains src

/-- A reset source ends. The debug request ends by its own command, a harness clock failure by its relock, and the host reset
not while the link is down. -/
def sourceRelease (s : State) (d : Die) (src : Nat) : State :=
  if src = 6 ∨ src = 8 ∨ (src = 11 ∧ getF s fCXL_LINK_STAT_up 0 0 = 0) then s
  else
    (s.rst.asserted.filter (fun a => decide (a.src = src) && (!perDie src || decide (a.die = d)))).foldl releaseReset s

/-- RESET_SOURCE_RELEASE (R423). -/
def execResetSourceRelease (d : Die) (src : Fin 13) (s : State) : Host.Outcome State Fault Refusal :=
  .next (sourceRelease s d src.val)

/-- A write of RST_REQ (R445): go asserts source 5 at the level and on the harness that the register names. -/
def rstReq (s : State) (rq : Requester) (d : Die) (v : Word) : State :=
  if hostBarred rq then s
  else
    let s := regWrite s .RST_REQ d 0 v
    let lvl := bitsOf v.toNat 18 16
    let h := bitsOf v.toNat 5 0
    if !bitOf v.toNat 31 ∨ lvl = 0 ∨ (lvl = 5 ∧ 36 ≤ h) then s
    else
      match levelOf lvl with
      | some l => assertReset s 5 { level := l, die := d, har := if l = .harness then h else 0 }
      | none => s

/-- RST_REQ_GO (R445). -/
def execRstReqGo (rq : Requester) (d : Die) (v : Word) (s : State) : Host.Outcome State Fault Refusal :=
  .next (rstReq s rq d v)

/-! ## The option loader (R428 to R430) -/

/-- The option bytes of a die's NV store. -/
def optionBytes (s : State) (d : Die) : List Byte := memRead s.mem.nv (nvAddr d 0x1F80000) 256

/-- Are magic, version and crc right? -/
def optionsGood (bs : List Byte) : Bool :=
  decide (fieldAt bs 0 4 = 0x54504F45) && decide (fieldAt bs 4 2 = 1) && decide (crc32c (bs.take 0xFC) = fieldAt bs 0xFC 4)

/-- Does a start-up order name each step once (R386)? -/
def orderOk (v : Nat) : Bool := [0, 1, 2, 3].all (fun c => [bitsOf v 7 6, bitsOf v 5 4, bitsOf v 3 2, bitsOf v 1 0].contains c)

/-- Does a ports byte hold no reserved value (R275, R429)? -/
def portByteOk (v : Nat) : Bool := zeroBits v 6 5 && decide (bitsOf v 4 3 < 3) && decide (v % 8 < 6)

/-- Does a reach byte hold no reserved value? -/
def reachByteOk (v : Nat) : Bool := decide (v % 8 = 7) || decide (v < 6)

/-- The bytes of the option bytes that no field names: they must be 0. -/
def optionGaps : List Nat := List.range' 0x1F 0x21 ++ List.range' 0x70 0x8C

/-- A field's value, or the factory value if it is reserved. -/
def orFactory (ok : Bool) (v factory : Nat) : Nat := if ok then v else factory

/-- The fields that are taken from each die's own store. -/
def optsOf (bs : List Byte) : Opts :=
  if !optionsGood bs then optsFactory
  else
    let f := optsFactory
    { boot := orFactory (decide (fieldAt bs 6 1 < 32)) (fieldAt bs 6 1) f.boot
      order := orFactory (orderOk (fieldAt bs 7 1)) (fieldAt bs 7 1) f.order
      dly := fieldAt bs 8 1
      march := orFactory (decide (fieldAt bs 9 1 < 3)) (fieldAt bs 9 1) f.march
      debug := orFactory (decide (fieldAt bs 0xB 1 < 8)) (fieldAt bs 0xB 1) f.debug
      ports := (List.range 48).map (fun j => orFactory (portByteOk (fieldAt bs (0x40 + j) 1)) (fieldAt bs (0x40 + j) 1) 0) }

/-- Does any field hold a reserved value (OPT_STAT.fld)? -/
def optionsReserved (bs : List Byte) : Bool :=
  decide (32 ≤ fieldAt bs 6 1) || !orderOk (fieldAt bs 7 1) || decide (3 ≤ fieldAt bs 9 1) || decide (3 ≤ fieldAt bs 0xA 1) ||
    decide (8 ≤ fieldAt bs 0xB 1) || decide (fieldAt bs 0xC 4 < 10 ∨ 100000 < fieldAt bs 0xC 4) ||
    (List.range 14).any (fun i => !reachByteOk (fieldAt bs (0x10 + i) 1)) || decide (fieldAt bs 0x1E 1 ≠ 0) ||
    (List.range 48).any (fun j => !portByteOk (fieldAt bs (0x40 + j) 1)) ||
    optionGaps.any (fun o => decide (fieldAt bs o 1 ≠ 0))

/-- The reach that an option byte widens a source to, if it is wider (R421): DEVICE or DIE over what each contains. -/
def widened (fused v : Nat) : Nat := if reachByteOk v ∧ v % 8 ≠ 7 ∧ v < fused ∧ v ≤ 2 ∧ fused ≠ 7 then v else 7

/-- The device-wide fields, from die 0's store: clock source, reaches and debug enables. -/
def loadWide (s : State) (d : Die) : State :=
  let bs := optionBytes s 0
  let good := optionsGood bs
  let clk := if good then orFactory (decide (fieldAt bs 0xA 1 < 3)) (fieldAt bs 0xA 1) 0 else 0
  let s := setF s fOPT_STAT_clk_src d 0 clk
  (List.range 14).foldl (fun s i =>
    let fused := (s.fuses.reach.getD i 7).toNat
    setF s fRST_REACH_level d i (if good then widened fused (fieldAt bs (0x10 + i) 1) else 7)) s

/-- The beat period from die 0's store, at a DEVICE or POWER release (R157, R196). -/
def loadPeriod (s : State) : State :=
  let bs := optionBytes s 0
  let p := fieldAt bs 0xC 4
  let v := if optionsGood bs then orFactory (decide (10 ≤ p ∧ p ≤ 100000)) p 250 else 250
  if s.rst.opened then s else setF (setF s fBEAT_CTL_period 0 0 v) fDEV_PERIOD_period 0 0 v

/-- The option loader of a die (R428), after its fuse loader (R256). With CFG_CS_N asserted as it finishes, the die loads from the
slave port whatever its boot source (R377). -/
def optionLoader (s : State) (d : Die) (cs : Bool) : State :=
  let bs := optionBytes s d
  let o := optsOf bs
  let s := setF s fREP_STAT_used d 0 (min 4096 (s.fuses.repairs.getD d.val []).length)
  let s := setOpts s d { o with boot := if cs then putBits o.boot 0 0 1 else o.boot }
  let s := setF (setF s fOPT_STAT_bad d 0 (bitN (!optionsGood bs))) fOPT_STAT_fld d 0
    (bitN (optionsGood bs && optionsReserved bs))
  let s := loadWide (setF s fOPT_STAT_boot d 0 o.boot) d
  if d = 0 then loadPeriod s else s

/-! ## Release stages (R422, R426) -/

def turnOn (s : State) (d : Die) (i : Nat) : State :=
  if domExists d i then setDom s d i { getDom s d i with state := .on, step := .none, waiting := false } else s

/-- The Vigil domain leaves reset: its counter runs from the TCXO, which the monitors check against a reference that is
present (R441). -/
def vigilOn (s : State) : State :=
  let s := setF (turnOn s 0 63) fVGL_STAT_tcxo_ok 0 0 1
  setF s fVGL_STAT_tcxo_chk 0 0 1

/-- The network domain is ON and the reference PLL locked, from the source the option bytes select. -/
def networkOn (s : State) (d : Die) : State :=
  setF (setF (turnOn s d 57) fREFCLK_STAT_src d 0 (bitN (decide (getF s fOPT_STAT_clk_src d 0 = 1)))) fREFCLK_STAT_locked d 0 1

/-- The other domains power up in their order (R213); the debug domain stays OFF when the option bytes disable the Selvedge
wire, and the configuration engine waits for its rail (R426 step 7). -/
def blocksOn (s : State) (d : Die) : State :=
  let s := if d = 0 ∧ (getOpts s 0).debug % 2 = 0 then setDom s 0 64 domInit else s
  let s := (List.range 63).foldl (fun s i =>
    let m := getDom s d i
    if domExists d i && decide (i ≠ 57) && decide (m.state ≠ .on) && decide (m.goal = .on) then
      setDom s d i { m with waiting := true } else s) s
  modImg (startUps s d) d (fun m => { m with waiting := true })

/-- Does a domain of the die still power up? -/
def poweringUp (s : State) (d : Die) : Bool :=
  (List.range 63).any (fun i => (getDom s d i).waiting || decide ((getDom s d i).step ≠ .none))

/-- RELEASE_STAGE (R422): the next stage of the release of a die; `cs` says that CFG_CS_N is asserted. -/
def releaseStage (s : State) (d : Die) (cs : Bool) : State :=
  let k := getStage s d
  if dieHeld s d || decide (8 ≤ k) || s.rst.dozing || s.rst.vigil || (decide (k = 5) && poweringUp s d) then s
  else
    let s := setStage s d (k + 1)
    match k with
    | 0 => if d = 0 then vigilOn s else s
    | 1 => if d = 0 then turnOn s 0 64 else s
    | 2 => optionLoader s d cs
    | 3 => networkOn s d
    | 4 => blocksOn s d
    | 6 => (List.range 36).foldl (fun s h => openHarness s d h) s
    | 7 => if d = 0 then releaseHost (showReady s) else s
    | _ => s

/-- RELEASE_STAGE (R422). -/
def execReleaseStage (d : Die) (cs : Bool) (s : State) : Host.Outcome State Fault Refusal := .next (releaseStage s d cs)

/-! ## The restart of a complex (R359, R361) -/

/-- Where a firmware slot stands in the NV store (R376). -/
def fwBase (b : Bool) : Nat := if b then 0x1D80000 else 0x1C00000

/-- The bytes of a firmware slot from an offset of the image on. -/
def fwRead (s : State) (d : Die) (b : Bool) (o n : Nat) : List Byte := memRead s.mem.nv (nvAddr d (fwBase b + o)) n

/-- The bytes of the image in a firmware slot before its first segment. -/
def fwHead (s : State) (d : Die) (b : Bool) : List Byte :=
  let h := fwRead s d b 0 0x1900
  fwRead s d b 0 (max (0x100 + 24 * segCount h + 4) (min (segAt h 0).off 0x180000))

/-- The segments of an image decoded in their order from the key of the first, with the last one alone marked as last (R381 steps 4
and 5). -/
def decodeAll (head : List Byte) (read : SegEnt → List Byte) : List SegEnt → Nat → Nat → Option (List (Nat × List Byte))
  | [], _, _ => some []
  | e :: es, i, key =>
    match segDecode head i e key (read e) with
    | .inr _ => none
    | .inl o =>
      match decide (o.last = es.isEmpty), o.next with
      | true, some k => (decodeAll head read es (i + 1) k).map (fun fs => o.frames ++ fs)
      | true, none => if es.isEmpty then some o.frames else none
      | false, _ => none

/-- The code frames of the firmware in a slot, if the boot ROM accepts it: every check of R381 passes and its signature verifies
with slot 0 (R361, R375). -/
def fwFrames (s : State) (d : Die) (b : Bool) : Option (List (Nat × List Byte)) :=
  let head := fwHead s d b
  let total := imageLen head
  if headerCodeOf true 0xFF head ≠ 0 then none
  else if tableCodeOf true 0x180000 head ≠ 0 ∨ head.length ≠ (segAt head 0).off then none
  else
    match imageKey s head with
    | none => none
    | some key =>
      if signatureOk s true (fwRead s d b (total - 256) 256) (sha384Nat (fwRead s d b 0 (total - 256))) then
        decodeAll head (fun e => fwRead s d b e.off e.len) (segTable head) 0 key
      else none

/-- The slot that the boot ROM loads: the one of a live update, the one that FW_VER names, or at a fresh boot the one of the
option bytes. -/
def fwSlotFor (s : State) (d : Die) : Bool :=
  match (getBeat s d).update with
  | some u => u.fwSlot
  | none => if (getRt s d).booted then flagF s fFW_VER_slot 0 d.val else bitOf (getOpts s d).boot 3

/-- The boot ROM falls back to the other slot where the option bytes allow it (R361). -/
def fwSlotUsed (s : State) (d : Die) : Bool :=
  let b := fwSlotFor s d
  if (fwFrames s d b).isNone ∧ (fwFrames s d (!b)).isSome ∧ bitOf (getOpts s d).boot 4 then !b else b

/-- The digest of the ITCM of a die (R359 step 3). -/
def itcmDigest (m : Mem) (d : Die) : List Byte := sha384 (memRead m (d.val * 0x100000) 0x100000)

/-- Does the ITCM hold the firmware whose digest the die control block keeps (R358, R359 step 3)? -/
def itcmMatches (s : State) (d : Die) : Bool := decide (itcmDigest s.mem.itcm d = (getRt s d).digest)

/-- Load the code of a slot that the boot ROM accepts into the ITCM, whose other bytes are 0 (DESIGN CHOICE, log entry 265), and
keep its digest; with none accepted the ITCM holds no firmware. -/
def loadItcm (s : State) (d : Die) (b : Bool) : State :=
  match fwFrames s d b with
  | some fs =>
    let m := fs.foldl (fun m f => memWrite m (d.val * 0x100000 + 128 * f.1) f.2) (memClear s.mem.itcm (d.val * 0x100000) 0x100000)
    modRt { s with mem.itcm := m } d (fun r => { r with fwOk := true, digest := itcmDigest m d })
  | none => modRt s d (fun r => { r with fwOk := false })

/-- The FW_VER word of the firmware in a slot: the build number is that of the header's image_id (R368), and major and minor
version are bits 30 to 15 of `version`, since the manual does not say where the header holds them. -/
def fwVersion (s : State) (d : Die) (b : Bool) (version : Nat) : Word :=
  BitVec.ofNat 32 (bitsOf version 30 15 * 65536 + fieldAt (fwRead s d b 0 0x100) 0x0C 4 % 32768 * 2 + bitN b)

/-- Load the firmware of a slot, and show its version. -/
def loadFirmware (s : State) (d : Die) (b : Bool) (version : Nat) : State :=
  let t := loadItcm s d b
  if (getRt t d).fwOk then setReg t .FW_VER 0 d.val (fwVersion s d b version) else t

/-- The cores of a complex execute again; the watchdog has its reset value. -/
def startCores (s : State) (d : Die) : State :=
  let s := setF (setF s fRT_STAT_run d 0 1) fRT_STAT_in_reset d 0 0
  modRt (wdtReload s d (wdtTimeout s d)) d (fun r => { r with booted := true })

/-- The cores start if the ITCM holds firmware; without it the complex stays in reset (R361). -/
def startIfOk (s : State) (d : Die) : State := if (getRt s d).fwOk then startCores s d else s

/-- The start-up march that the option bytes select (R270), on every memory of the die. -/
def startMarch (s : State) (d : Die) : State :=
  let k := (getOpts s d).march
  if k = 0 ∨ domOn s d 60 = false then s
  else
    let s := setReg s .MT_HSEL_LO d 0 0xFFFFFFFF
    let s := setReg s .MT_HSEL_HI d 0 0xF
    let s := setF (setF s fMT_CTL_mode d 0 0) fMT_CTL_tgt d 0 7
    let s := if k = 1 then setF (setF s fMT_CTL_alg d 0 0) fMT_CTL_bg d 0 1 else setF (setF s fMT_CTL_alg d 0 1) fMT_CTL_bg d 0 15
    let s := setReg s .MT_STAT d 0 (BitVec.ofNat 32 (2 ^ 31))
    setMarch s d { marchInit with startup := true }

/-- A complex serves commands again after a CONTROL reset: RESET_DONE is raised (R359 step 7), and what the reset kept waiting goes
on. -/
def serveAgain (s : State) (d : Die) : State :=
  let s := raiseEvent s 0x1A d 4 (BitVec.ofNat 32 (d.val * 65536))
  showReady (schedule (endWait (dieUp s d (reloading s d) false) (.release d .control 0) 0 0 0) d)

/-- The boot ROM loads a firmware (R359 steps 4 and 5): at the first start since a reset of DIE reach the march that the option
bytes select starts; after a CONTROL reset the complex serves commands again, and a firmware swap that its watchdog ended
completes with REFUSED (R362). -/
def restartLoaded (s : State) (d : Die) (version : Nat) : State :=
  let again := (getRt s d).booted
  let t := startIfOk (loadFirmware s d (fwSlotUsed s d) version) d
  if !(getRt t d).fwOk then t
  else if !again then showReady (dieUp (startMarch t d) d (reloading t d) false)
  else if (getBeat s d).update.isSome then dieUp t d (reloading t d) false
  else serveAgain (endWait t (.update d) 6 0 0) d

/-- RENTUR_RESTART_DONE (R359): the firmware serves commands. After a CONTROL reset that kept the firmware nothing is loaded
when the digest of the ITCM is the one kept; else the boot ROM loads it from the NV store. -/
def restartDone (s : State) (d : Die) (version : Nat) : State :=
  let swap := match (getBeat s d).update with
    | some u => decide (u.phase = .firmware)
    | none => false
  if !bootRuns s d || swap then s
  else if (getRt s d).fwOk && itcmMatches s d then serveAgain (startCores s d) d
  else restartLoaded s d version

/-- RENTUR_RESTART_DONE (R359). -/
def execRenturRestartDone (d : Die) (version : BitVec 31) (s : State) : Host.Outcome State Fault Refusal :=
  .next (restartDone s d version.toNat)

/-! ## The restore of a die (R418) -/

/-- The copy of the descriptors of a die as of its last committed beat. -/
def savedDescs (s : State) (d : Die) : Option DescCopy :=
  let o := (getBeat s d).cmt + 1
  if (getBeat s d).cmt = 0 then none else s.mem.descs.find? (fun x => decide (x.die = d) && decide (x.ord = o))

/-- A yarn of the copy: checkpoints written since are not its own. -/
def savedYarn (o : Nat) (y : Yarn) : Yarn :=
  { y with written := y.written.filter (fun c => decide (c ≤ o)), copies := y.copies.filter (fun c => decide (c.1 ≤ o)),
           snaps := y.snaps.filter (fun c => decide (c.1 ≤ o)), target := none, rpFault := [], reinject := [] }

/-- Put the descriptors of a copy back into the die's tables. -/
def putBack (s : State) (d : Die) (x : DescCopy) : State :=
  let s := x.yarns.foldl (fun s e => setYarn s d (e.1 / 2) (savedYarn x.ord e.2)) s
  x.bobs.foldl (fun s e => bindGates (setBob s e.1 e.2) e.1) s

/-- DIE_RESTORE (R418): the die is loaded and its firmware runs. Die 0, or a die 1 that has no link, goes on with its own beats;
otherwise die 1 rejoins by R179. -/
def dieRestore (s : State) (d : Die) : State :=
  if !s.rst.restore.contains d.val || !s.rst.opened || !dieReadyUp s d || decide (dieState s d ≠ 2) then s
  else
    let s := match savedDescs s d with
      | some x => restoreFlow (putBack s d x) d
      | none => s
    let alone := decide (d = 0) || !linkUp s 1 || !(getBeat s 0).started
    let s := modBeat s d (fun b => { b with started := alone })
    let s := showReady { s with rst.restore := s.rst.restore.filter (fun k => decide (k ≠ d.val)) }
    let s := raiseEvent s 0x1A d 2 (BitVec.ofNat 32 (d.val * 65536))
    endWait s (.release d .die 0) 0 0 0

/-- DIE_RESTORE (R418). -/
def execDieRestore (d : Die) (s : State) : Host.Outcome State Fault Refusal := .next (dieRestore s d)

end Sys2Proof.Machine
end

