-- ==== Sys2Proof/Machine/Updates.lean ====
section
/-! DEFINITION. Writes of the NV store by the host (R335, R376) and the live update of a die (R194, R362). -/

namespace Sys2Proof.Machine

/-! ## NV_WRITE (R335, R376) -/

/-- Where a target of NV_WRITE stands in the NV store, and how long it is. -/
def nvTarget (t : Nat) : Option (Nat × Nat) :=
  match t with
  | 0 => some (0, 0xE00000)
  | 1 => some (0xE00000, 0xE00000)
  | 2 => some (0x1C00000, 0x180000)
  | 3 => some (0x1D80000, 0x180000)
  | 4 => some (0x1F80000, 256)
  | _ => none

/-- Does the die run from the slot? -/
def runsFrom (s : State) (d : Die) (t : Nat) : Bool :=
  match t with
  | 0 | 1 => decide ((getImg s d).nvSlot.toNat = t) && (flagF s fCFG_STAT_done d 0 || (getImg s d).loading)
  | 2 | 3 => (getRt s d).fwOk && decide (getF s fFW_VER_slot 0 d.val + 2 = t)
  | _ => false

/-- NV_WRITE: the data goes to the flash, and the command ends when that is programmed. -/
def nvWrite (s : State) (c : HostCmd) : State :=
  let d := opDie c 0
  let t := bitsOf (opOf c 0) 2 0
  let off := opOf c 1
  match nvTarget t with
  | none => finish s c 2 0
  | some (base, len) =>
    if len < off + c.buf.length then finish s c 2 0
    else if runsFrom s d t then finish s c 6 0
    else if (getImg s d).nvBusy.isSome || (getBeat s d).update.isSome then finish s c 0xA 0
    else
      let s := { s with mem.nv := memWrite s.mem.nv (nvAddr d (base + off)) c.buf }
      let s := modImg s d (fun m => { m with nvBusy := some (t + 8 * bitN (bitOf (opOf c 0) 8)) })
      waitFor s c (.nv d)

/-- NV_WRITE (R335). -/
def execNvWrite (c : HostCmd) (s : State) : Host.Outcome State Fault Refusal := .next (nvWrite s c)

/-- Does the signature of what an image or firmware slot holds verify (R335, R375)? -/
def slotSigned (s : State) (d : Die) (t : Nat) : Bool :=
  match nvTarget t with
  | none => false
  | some (base, len) =>
    let total := imageLen (memRead s.mem.nv (nvAddr d base) 0x100)
    decide (256 ≤ total ∧ total ≤ len) && signatureOk s (decide (2 ≤ t)) (memRead s.mem.nv (nvAddr d (base + (total - 256))) 256)
      (sha384Nat (memRead s.mem.nv (nvAddr d base) (total - 256)))

/-- NV_STORE_WRITE_DONE (R335): the flash is programmed, without an error when `ok`; after the last write of an image or a
firmware its signature is checked. -/
def nvDone (s : State) (d : Die) (ok : Bool) : State :=
  match (getImg s d).nvBusy with
  | none => s
  | some t =>
    let bad := decide (8 ≤ t) && decide (t % 8 < 4) && !(ok && slotSigned s d (t % 8))
    endWait (modImg s d (fun m => { m with nvBusy := none })) (.nv d) (if bad then 0xB else 0) 0 0

/-- NV_STORE_WRITE_DONE (R335). -/
def execNvStoreWriteDone (d : Die) (ok : Bool) (s : State) : Host.Outcome State Fault Refusal := .next (nvDone s d ok)

/-! ## DIE_UPDATE (R194, R362) -/

/-- Is a long command in progress that the complex of a die serves? -/
def longOn (s : State) (d : Die) : Bool :=
  s.host.waits.any (fun w => match w.op with
    | .swap x _ | .domain x _ | .march x | .nv x | .update x => decide (x = d)
    | _ => false)

/-- Is an update of either die in progress? -/
def updating (s : State) : Bool := (getBeat s 0).update.isSome || (getBeat s 1).update.isSome

/-- The status with which DIE_UPDATE is turned away, if it is. -/
def updateStatus (s : State) (d : Die) (u : Update) : Option Nat :=
  let nv := (getImg s d).nvBusy.map (fun t => t % 8)
  if !u.fw && !u.img then some 2
  else if updating s then some 0xA
  else if (u.img && decide (nv = some (bitN u.imSlot))) || (u.fw && decide (nv = some (2 + bitN u.fwSlot))) then some 0xA
  else if !u.img then
    if longOn s d then some 0xA
    else if !Config.mailboxFits (memRead s.mem.nv (nvAddr d (fwBase u.fwSlot)) 0x100) (regRaw s .FW_VER 0 (otherDie d).val).toNat then some 6
    else none
  else if apart s then some 9
  else if (yarnsOn s d).any (fun e => e.2.migratable && decide (e.2.prot ≠ 2) && !placement s d e.2) then some 6
  else none

/-- The complex of a die takes a CONTROL reset, after which its boot ROM loads a firmware (R362 step 3). -/
def dropFirmware (s : State) (d : Die) : State := modRt (resetControl s d) d (fun r => { r with fwOk := false })

/-- DIE_UPDATE: with an image the yarns of the die move or hold at their cuts; with a firmware alone the complex is swapped. -/
def dieUpdate (s : State) (c : HostCmd) : State :=
  let d := opDie c 0
  let w := opOf c 0
  let u : Update := { phase := if bitOf w 2 then .moving else .firmware, fw := bitOf w 3, img := bitOf w 2, fwSlot := bitOf w 1,
                      imSlot := bitOf w 0, moving := [] }
  match updateStatus s d u with
  | some code => failStaged s c code 0
  | none =>
    let s := modBeat s d (fun b => { b with update := some u })
    stagedOk (if u.img then setDieState s d 3 else dropFirmware s d) c 0 (.update d)

/-- DIE_UPDATE (R194). -/
def execDieUpdate (c : HostCmd) (s : State) : Host.Outcome State Fault Refusal := .next (dieUpdate s c)

/-- DIE_RELOAD (R194 steps 5 and 6): every yarn of the die has moved or is held and committed; the die's array is cleared, its
Ethernet ports fall silent and its rings hold (R310, R313), its stack goes into self-refresh, and its engine waits for the
image; with a new firmware its complex restarts too. -/
def dieReload (s : State) (d : Die) : State :=
  match (getBeat s d).update with
  | none => s
  | some u =>
    if !updateMoved s d then s
    else
      let s := modBeat s d (fun b => { b with update := some { u with phase := .reloading } })
      let s := (List.range 36).foldl (fun s h => loseOff s d h) s
      let s := (List.range 48).foldl (fun s m =>
        if isPickline (getF s fPCFG_mode d m) then s
        else
          let s := cutFrame s (d.val * 48 + m)
          setPort s (d.val * 48 + m) { getPort s (d.val * 48 + m) with cut := true, segs := [], txq := [], frag := none }) s
      let s := (List.range 24).foldl (fun s k => setF s fPL_CTL_run d (2 * k) 0) (stompRings s d)
      let s := setDieState (setF s fCFG_STAT_done d 0 0) d 3
      let s := selfRefresh s d true
      let s := modImg s d (fun m => { m with waiting := true, update := true, retained := false })
      if u.fw then dropFirmware s d else s

/-- DIE_RELOAD (R194). -/
def execDieReload (d : Die) (s : State) : Host.Outcome State Fault Refusal := .next (dieReload s d)

/-- The boot ROM starts the firmware of the slot that the die ran from, and the command ends with AUTH_FAIL (R362). -/
def swapBack (s : State) (d : Die) : State :=
  endWait (startIfOk (loadItcm s d (flagF s fFW_VER_slot 0 d.val)) d) (.update d) 0xB 0 0

/-- FW_SWAP_DONE (R362): the new firmware serves commands; or it fails its signature, and the complex starts from the slot that
the die ran from; or its watchdog expires, which resets the complex, and the restart from that slot ends the command with
REFUSED. -/
def swapDone (s : State) (d : Die) (res : SwapResult) : State :=
  match (getBeat s d).update with
  | none => s
  | some u =>
    if u.phase ≠ .firmware ∨ controlHeld s d = true ∨ domOn s d 59 = false ∨ getStage s d < 6 then s
    else
      let s := modBeat s d (fun b => { b with update := none })
      match res with
      | .done v =>
        if (fwFrames s d u.fwSlot).isSome then endWait (startIfOk (loadFirmware s d u.fwSlot v.toNat) d) (.update d) 0 0 0
        else swapBack s d
      | .badSignature => swapBack s d
      | .watchdog => wdtFire s d

/-- FW_SWAP_DONE (R362). -/
def execFwSwapDone (d : Die) (res : SwapResult) (s : State) : Host.Outcome State Fault Refusal := .next (swapDone s d res)

end Sys2Proof.Machine
end

