-- ==== Sys2Proof/Machine/Wear.lean ====
section
/-! DEFINITION. The scrubber (R389, R390), the rewriting of the NV store for retention (R500) and the power cap (R486). -/

namespace Sys2Proof.Machine

/-! ## Draft memory frames (R389) -/

/-- The harness and index of a draft memory frame. -/
def dmemHar (f : Nat) : Nat := bitsOf f 14 9
def dmemIx (f : Nat) : Nat := bitsOf f 8 0

/-- The logical cell that physical cell i = 9r + c runs, if it runs one: none for a cell that a spare has replaced, and for a
spare that replaces none. -/
def runsCell (s : State) (d : Die) (h i : Nat) : Option Nat :=
  let r := i / 9
  match i % 9, darnedCol s d h r with
  | 8, some k => some (8 * r + k)
  | 8, none => none
  | c, some k => if c = k then none else some (8 * r + c)
  | c, none => some (8 * r + c)

/-- Does the scrubber check the frames of a harness now: not during a swap or a darning, or while its domain is not ON? -/
def scrubsHar (s : State) (d : Die) (h : Nat) : Bool :=
  decide (h < 36) && domTakes s d h && !(getHar s d h).draining && !flagF s fDARN_STAT_busy d h

/-- Does the scrubber check a frame now (R389)? -/
def scrubs (s : State) (d : Die) (f : Nat) : Bool :=
  let m := getImg s d
  flagF s fSCRUB_CTL_en d 0 && flagF s fCFG_STAT_done d 0 && !m.loading && !m.starting && domTakes s d 60 &&
    (match f / 2 ^ 20 with
      | 0 => decide (f < 24832) && domTakes s d 58
      | 8 => scrubsHar s d (dmemHar f) && decide (bitsOf f 19 15 = 0) && decide (dmemIx f < 274) &&
          (decide (144 ≤ dmemIx f) || (runsCell s d (dmemHar f) (dmemIx f / 2)).isSome)
      | _ => false)

/-- Rewrite a draft memory frame from the master copy. -/
def rewriteDmem (s : State) (d : Die) (h ix : Nat) : State :=
  let b := decide (ix % 2 = 1)
  if ix < 144 then
    let i := ix / 2
    match runsCell s d h i with
    | some k => (List.range 16).foldl (fun s n =>
        setCellDraft s (cellKey d h (i / 9) (i % 9)) b n (masterCellDraft s d h b k n)) s
    | none => s
  else if ix < 272 then
    (List.range 16).foldl (fun s n => setReedDraft s d h ((ix - 144) / 2) b n (masterReedDraft s d h b ((ix - 144) / 2) n)) s
  else
    (List.range 256).foldl (fun s e =>
      setTable s d h b e (BitVec.ofNat 32 (leNat (masterRead s d h b (masterTableOff e) 4)))) s

/-! ## Mismatches (R390) -/

/-- Record a mismatch, repaired or not, and raise its event. -/
def scrubNote (s : State) (d : Die) (f : Nat) (rewritten unrepaired : Bool) : State :=
  let s := if rewritten then countF s fSCRUB_STAT_rewrites d 0 else s
  let s := if unrepaired then countF s fSCRUB_STAT_unrepaired d 0 else s
  let s := setReg s .SCRUB_LAST d 0 (BitVec.ofNat 32 (2 ^ 31 + bitN unrepaired * 2 ^ 30 + f))
  let har := if f / 2 ^ 20 = 8 then dmemHar f else 0xFFFF
  raiseEvent s 0x19 d (BitVec.ofNat 32 har) (BitVec.ofNat 32 (bitN unrepaired * 2 ^ 31 + f))

/-- A draft memory frame differs: it is rewritten, and its harness has a fault; a second mismatch of a cell's frame within 64
committed beats counts as a second draft parity fault of the cell, and of a reed's frame as a persistent fault of the reed
(R116; DESIGN CHOICE, log entry 194), and of the treadling table's frame loses the harness (DESIGN CHOICE, log entry 263). A
frame that still differs when it is read again counts as not repaired. -/
def scrubDmem (s : State) (d : Die) (f : Nat) (stillBad : Bool) : State :=
  let h := dmemHar f
  let ix := dmemIx f
  let now := (getBeat s d).cmt
  let key : BitVec 24 := BitVec.ofNat 24 f
  let again := (getImg s d).scrubAt.any (fun e => decide (e.1 = key) && decide (now ≤ e.2 + 64))
  let s := modImg s d (fun m => { m with scrubAt := m.scrubAt.filter (fun e => decide (e.1 ≠ key)) ++ [(key, now)] })
  let s := scrubNote (rewriteDmem s d h ix) d f true stillBad
  let s := match again && decide (ix < 144), runsCell s d h (ix / 2) with
    | true, some k =>
      let x : CellFaultRec := { cell := k / 8 * 16 + k % 8, slot := 0, kind := faultParity, beat := now }
      modHar s d h (fun a => { a with faultAt := a.faultAt ++ [x, x] })
    | _, _ => s
  let s := if again && decide (144 ≤ ix) then loseHarness s d h else s
  addFault s d { cls := 0, id := 0, har := some h, bob := none }

/-- A FRINGE frame differs: it waits for its repair from the NV slot, or is not repaired when the die has none. -/
def scrubFringe (s : State) (d : Die) (f : Nat) : State :=
  let m := getImg s d
  if m.scrubGot.isSome then s
  else if 2 ≤ m.nvSlot.toNat then scrubNote s d f false true
  else setImg s d { m with scrubGot := some (BitVec.ofNat 24 f) }

/-- SCRUB_FRAME_CHECK (R389): one frame is read; `bad` says that it differs from its golden signature, and `stillBad` that a draft
memory frame still does when it has been rewritten. The cycle ends with the
last frame of the last harness. -/
def scrubCheck (s : State) (d : Die) (f : Nat) (bad stillBad : Bool) : State :=
  let s := if !bad || !scrubs s d f then s
    else if f / 2 ^ 20 = 8 then scrubDmem s d f stillBad
    else scrubFringe s d f
  if f = 8 * 2 ^ 20 + 35 * 512 + 273 ∧ flagF s fSCRUB_CTL_en d 0 = true ∧ flagF s fCFG_STAT_done d 0 = true then
    wrapF s fSCRUB_STAT_cycles d 0
  else s

/-- SCRUB_FRAME_CHECK (R389). -/
def execScrubFrameCheck (d : Die) (frame : BitVec 24) (bad stillBad : Bool) (s : State) : Host.Outcome State Fault Refusal :=
  .next (scrubCheck s d frame.toNat bad stillBad)

/-- SCRUB_REPAIR_DONE (R390): the segment that holds the frame has been decoded and the frame rewritten; `stillBad` says that
it still differs when it is read again. Flip-flops keep their values (R413). -/
def scrubRepair (s : State) (d : Die) (stillBad : Bool) : State :=
  let m := getImg s d
  match m.scrubGot with
  | none => s
  | some f =>
    let s := setImg s d { m with scrubGot := none }
    match storedFrames s d 0 f.toNat 1 with
    | some fs => scrubNote (fs.foldl (fun s e => putFrame s d false 0 e.1 e.2) s) d f.toNat true stillBad
    | none => scrubNote s d f.toNat false true

/-- SCRUB_REPAIR_DONE (R390). -/
def execScrubRepairDone (d : Die) (stillBad : Bool) (s : State) : Host.Outcome State Fault Refusal :=
  .next (scrubRepair s d stillBad)

/-! ## Retention of the NV store (R500) -/

/-- NV_RETENTION_SCRUB (R500): the firmware rewrites a block of 4 KiB with what it holds. -/
def rewriteBlock (s : State) (d : Die) (block : Nat) : State :=
  if !fwAt s d 5 then s
  else { s with mem.nv := memWrite s.mem.nv (nvAddr d (4096 * block)) (memRead s.mem.nv (nvAddr d (4096 * block)) 4096) }

/-- NV_RETENTION_SCRUB (R500). -/
def execNvRetentionScrub (d : Die) (block : Fin 8192) (s : State) : Host.Outcome State Fault Refusal :=
  .next (rewriteBlock s d block.val)

/-! ## The power cap (R486, R487) -/

/-- The case temperature in units of 0.001 °C, from the hottest junction in °C and the power in mW, with the maximum of θJC. -/
def caseTemp (junction : Int) (power : Nat) : Int := junction * 1000 - (11 * power / 100 : Nat)

/-- The cap in mW at a case temperature in units of 0.001 °C. -/
def powerCap (t : Int) : Int := if t ≤ 85000 then 240000 else 240000 - 4875 * (t - 85000) / 1000

/-- The harnesses that are ON. -/
def onHars (s : State) : List (Die × Nat) :=
  [(0 : Die), 1].flatMap (fun d => ((List.range 36).filter (fun h => domOn s d h)).map (fun h => (d, h)))

/-- The frequency that HARNESS_CFG last requested; where it has requested none, the one at which the cap was entered. -/
def askedFreq (s : State) (d : Die) (h : Nat) : Nat := sparseGet (fun _ => 0) s.cap.asked (harKey d h)

/-- Lower every harness that is ON by one step. -/
def lowerAll (s : State) : State :=
  (onHars s).foldl (fun s e =>
    let f := getF s fCLK_CTL_freq e.1 e.2
    let s := if askedFreq s e.1 e.2 = 0 then
        { s with cap.asked := sparseSet (fun _ => 0) s.cap.asked (harKey e.1 e.2) f } else s
    setFreq s e.1 e.2 (max 16 (f - 1))) s

/-- Has a harness nothing left to raise: it stands at what was requested, or the voltage loop holds it down (R209)? -/
def atAsked (s : State) (e : Die × Nat) : Bool :=
  decide (askedFreq s e.1 e.2 ≤ getF s fCLK_CTL_freq e.1 e.2) || flagF s fAVS_STAT_limit e.1 e.2

/-- Raise every harness that is ON and below its requested frequency by one step. -/
def raiseAll (s : State) : State :=
  (onHars s).foldl (fun s e => if atAsked s e then s else setFreq s e.1 e.2 (getF s fCLK_CTL_freq e.1 e.2 + 1)) s

/-- The event of the power cap: the case temperature in whole °C. -/
def thermalEvent (s : State) (t : Int) : State := raiseEvent s 0x18 0 0 (BitVec.ofInt 32 (t / 1000))

/-- POWER_CAP_TICK (R486): each 1 ms the firmware of die 0 reads the power in mW and the hottest junction in °C. -/
def capTick (s : State) (power : Nat) (junction : Int) : State :=
  if !fwAt s 0 5 then s
  else
    let samples := (power :: s.cap.samples).take 10
    let s := { s with cap.samples := samples }
    let total : Int := (samples.sum : Nat)
    let n : Int := (samples.length : Nat)
    let t := caseTemp junction power
    let cap := powerCap t
    let capped := flagF s fDEV_STATE_pwr_cap 0 0
    if 85000 < t ∧ cap * n < total then
      let s := { s with cap.since := 0 }
      if (onHars s).all (fun e => decide (getF s fCLK_CTL_freq e.1 e.2 ≤ 16)) then
        let due := match s.cap.eventAt with
          | some a => decide (a + 25000000 ≤ s.vigil.ticks)
          | none => true
        if due then thermalEvent { s with cap.eventAt := some s.vigil.ticks } t else s
      else
        let s := lowerAll s
        if capped then s else thermalEvent (setF s fDEV_STATE_pwr_cap 0 0 1) t
    else if capped && decide (100 * total < 95 * cap * n) then
      if s.cap.since < 9 then { s with cap.since := s.cap.since + 1 }
      else
        let s := raiseAll { s with cap.since := 0 }
        if (onHars s).all (atAsked s) then thermalEvent { (setF s fDEV_STATE_pwr_cap 0 0 0) with cap.eventAt := none } t else s
    else s

/-- POWER_CAP_TICK (R486). -/
def execPowerCapTick (milliwatts : Nat) (junction : Int) (s : State) : Host.Outcome State Fault Refusal :=
  .next (capTick s milliwatts junction)

end Sys2Proof.Machine
end

