-- ==== Sys2Proof/Machine/Vigil.lean ====
section
/-! DEFINITION. The Vigil domain (R440 to R444): its time counter and PPS output, the discipline by PPS in, the monitors of the
TCXO, alarms and comparators; and the power states DOZE and VIGIL with the wakes from them (R435 to R439). -/

namespace Sys2Proof.Machine

/-! ## DOZE and VIGIL (R435 to R439) -/

/-- The code of VGL_PWR.wake. -/
def wakeCode : WakeCause → Nat
  | .doorbell => 1
  | .pin => 2
  | .alarm a => 0x10 + a.val
  | .comparator c => 0x20 + c.val

/-- Put a domain into RET or OFF as part of the entry to DOZE or VIGIL; one that is OFF, or on its way there, goes OFF. -/
def parkDom (t : DState) (s : State) (d : Die) (i : Nat) : State :=
  let m := getDom s d i
  let down := decide (m.step = .d1 ∨ m.step = .d2 ∨ m.step = .d3 ∨ m.step = .d4 ∨ m.step = .d5) && decide (m.fall = .off)
  let t := if m.state = .off ∨ down then .off else t
  if !domExists d i then s
  else if m.step = .none ∧ m.state = t then setDom s d i { m with waiting := false }
  else setDom (domLoses s d i t) d i { m with state := t, step := .none, waiting := false, locks := 0, fast := false }

/-- Put a range of domains of both dies into a state. -/
def parkRange (s : State) (t : DState) (lo n : Nat) : State :=
  [(0 : Die), 1].foldl (fun s d => (List.range' lo n).foldl (fun s i => parkDom t s d i) s) s

/-- The watchdogs stop with the clocks of their cores. -/
def stopDogs (s : State) : State :=
  [(0 : Die), 1].foldl (fun s d => modRt s d (fun r => { r with wdt := wdtRemain s d, wdtAt := s.vigil.ticks })) s

/-- Steps 2 to 5 of the entry to DOZE (R437), in their order. -/
def parkAll (s : State) : State :=
  let s := parkRange (parkRange s .off 36 12) .off 58 1
  let s := parkRange (parkRange s .ret 0 36) .ret 56 1
  parkRange (stopDogs (parkRange (parkRange s .ret 48 8) .off 61 1)) .ret 59 1

/-- The last ended beat has committed on each die that keeps beats (R436). -/
def allCommitted (s : State) : Bool :=
  [(0 : Die), 1].all (fun d => !(getBeat s d).started || decide ((getBeat s d).cmt + 1 ≥ (getBeat s d).ord))

/-- The device begins to wake from DOZE (R437): the power-ups of the domains whose target is ON, and a load of each die from the
slot that it last loaded from. -/
def wakeDoze (s : State) : State :=
  let s := { s with rst.dozing := false, rst.heldWake := none, host.bell := false }
  let s := setF s fVGL_PWR_state 0 0 3
  [(0 : Die), 1].foldl (fun s d =>
    let s := (List.range 62).foldl (fun s i =>
      let m := getDom s d i
      if m.goal = .on ∧ m.state ≠ .on then setDom s d i { m with waiting := true } else s) s
    let s := modRt (startUps s d) d (fun r => { r with wdtAt := s.vigil.ticks })
    if getStage s d = 8 then
      modImg s d (fun m => { m with waiting := true, retained := true, loading := false, starting := false })
    else s) s

/-- The power state WAKING begins, and WAKE_N is driven low (R438). -/
def beginWaking (s : State) : State :=
  emit { (setF s fVGL_PWR_state 0 0 3) with rst.wakeNLow := true, rst.heldWake := none } (.wakeN true)

/-- The device begins to wake from VIGIL (R438): it releases as from a DEVICE reset, with bit 13 of RST_CAUSE. -/
def wakeVigil (s : State) : State :=
  let s := applyReset { s with rst.vigil := false } { level := .device, die := 0, har := 0 }
  let s := setCause (setCause s 0 13) 1 13
  beginWaking (setDom s 0 64 { domInit with state := .on })

/-- Leave DOZE or VIGIL with a cause. -/
def leave (s : State) (c : WakeCause) : State :=
  let s := setF s fVGL_PWR_wake 0 0 (wakeCode c)
  if s.rst.vigil then wakeVigil s else wakeDoze s

/-- A wake event: one that arrives during the entry to VIGIL is held until the entry is complete (R439), and a doorbell reaches
nothing in VIGIL. -/
def wakeEvent (s : State) (c : WakeCause) : State :=
  if s.rst.vigil then (if c = .doorbell then s else leave s c)
  else if !s.rst.dozing then s
  else if getF s fVGL_PWR_state 0 0 = 1 then leave s c
  else if s.rst.heldWake.isNone then { s with rst.heldWake := some c }
  else s

/-- Is this wake event there: a doorbell written in DOZE, the pin, or an alarm or comparator that has acted with wake? -/
def wakeDue (s : State) : WakeCause → Bool
  | .doorbell => s.host.bell
  | .pin => true
  | .alarm a => flagF s fVGL_ALM_fired 0 a.val && bitOf (getF s fVGL_ALM_act 0 a.val) 1
  | .comparator c => bitOf (getF s fVGL_CMP_STAT_tripped 0 0) c.val && bitOf (getF s fVGL_CMP_CTL_act 0 c.val) 1

/-- WAKE (R437, R438). -/
def execWake (c : WakeCause) (s : State) : Host.Outcome State Fault Refusal :=
  .next (if wakeDue s c then wakeEvent s c else s)

/-- Exit starts at once when a wake was held during the entry (R439). -/
def heldWakeNow (s : State) : State :=
  match s.rst.heldWake with
  | some c => leave s c
  | none => s

/-- DOZE_ENTRY (R437): the entry that a request has asked for. The host's request is checked again, and refused while the last
ended beat has not committed (R436); a comparator's or alarm's is not. A request during a wake waits. -/
def dozeEntry (s : State) : State :=
  match s.rst.request with
  | none => s
  | some (vigil, host) =>
    if s.rst.dozing || s.rst.vigil || decide (getF s fVGL_PWR_state 0 0 ≠ 0) then s
    else
      let s := { s with rst.request := none }
      if host && (sleepRefused s || !allCommitted s) then endWait s (.domain 0 63) 6 0 0
      else
        let s := parkAll { (endWait s (.domain 0 63) 0 0 0) with rst.dozing := true, host.bell := false }
        setF s fVGL_PWR_state 0 0 (if vigil then 3 else 1)

/-- DOZE_ENTRY (R437). -/
def execDozeEntry (s : State) : Host.Outcome State Fault Refusal := .next (dozeEntry s)

/-- The debug domain as a stay in VIGIL leaves it (R447): its session ends, and its registers lose their values; what it asserts
ends with it. -/
def debugInit : DbgSt :=
  { session := false, framed := false, t := 0, last := none, status := 0, resp := [], haltFor := none, nonce := none,
    fails := 0, armed := [], rstHeld := none, svWait := none }

/-- VIGIL_ENTRY (R438): after the entry to DOZE every domain but the Vigil domain is switched off, the network domains last, and
the CXL link goes down. -/
def vigilEntry (s : State) : State :=
  if !s.rst.dozing || s.rst.vigil || decide (getF s fVGL_PWR_state 0 0 ≠ 3) then s
  else
    let s := parkRange (parkRange (parkRange (parkRange s .off 0 57) .off 58 5) .off 64 1) .off 57 1
    let s := { s with dbg := debugInit
                      rst.asserted := s.rst.asserted.filter (fun a => decide (a.src ≠ 6))
                      regs := s.regs.filter (fun e => decide ((regSpec (keyReg e.1)).blk ≠ Block.dbg)) }
    heldWakeNow (setF { s with rst.vigil := true, rst.dozing := false } fVGL_PWR_state 0 0 2)

/-- VIGIL_ENTRY (R438). -/
def execVigilEntry (s : State) : Host.Outcome State Fault Refusal := .next (vigilEntry s)

/-! ## The time counter (R440, R442) -/

/-- Is the Vigil domain out of reset? -/
def vigilRuns (s : State) : Bool := domOn s 0 63

/-- The counter in units of 2⁻²⁴ ns. -/
def vigilTime (v : VigilSt) : Nat := (v.seconds.toNat * 1000000000 + v.ns) * 2 ^ 24 + v.frac

/-- Put a time in units of 2⁻²⁴ ns into the counter; the seconds wrap. -/
def putTime (v : VigilSt) (t : Int) : VigilSt :=
  let n := (t % ((2 : Int) ^ 48 * 1000000000 * 2 ^ 24)).toNat
  { v with frac := n % 2 ^ 24, ns := n / 2 ^ 24 % 1000000000, seconds := BitVec.ofNat 48 (n / 2 ^ 24 / 1000000000) }

/-- The time of VGL_SET. -/
def setTime (s : State) : Int :=
  (((getF s fVGL_SET_S_LO_s_lo 0 0 + getF s fVGL_SET_S_HI_s_hi 0 0 * 2 ^ 32) * 1000000000 + getF s fVGL_SET_NS_ns 0 0) * 2 ^ 24 : Nat)

/-- The counter after a tick: it adds VGL_INC, or takes a load, and adds a step that waits. -/
def nextTime (s : State) : Int :=
  let t : Int := if s.vigil.load then setTime s else vigilTime s.vigil + getF s fVGL_INC_inc 0 0
  match s.vigil.step with
  | some n => t + n.toInt * 2 ^ 24
  | none => t

/-- VGL_PPS_OUT (R442): it rises at a tick at which the seconds change, and falls after pps_w milliseconds of 25,000 ticks. -/
def ppsOut (s : State) (rise : Bool) : State :=
  let h := s.vigil.ppsHigh
  let on := flagF s fVGL_CTL_pps_en 0 0
  let h' := if !on then 0 else if rise then getF s fVGL_CTL_pps_w 0 0 * 25000 else h - 1
  let s := { s with vigil.ppsHigh := h' }
  if h = 0 ∧ 0 < h' then emit s (.pps true) else if 0 < h ∧ h' = 0 then emit s (.pps false) else s

/-- VIGIL_TICK (R440): the timers of the complexes look at the time that has passed (R353). -/
def vigilTick (s : State) : State :=
  if !vigilRuns s then s
  else
    let v := putTime s.vigil (nextTime s)
    let rise := decide (v.seconds ≠ s.vigil.seconds)
    timersAt (ppsOut { s with vigil := { v with load := false, step := none, ticks := v.ticks + 1 } } rise)

/-- VIGIL_TICK (R440). -/
def execVigilTick (s : State) : Host.Outcome State Fault Refusal := .next (vigilTick s)

/-- A write of VGL_CTL (R445); load takes effect at the next tick. -/
def vglCtlWrite (s : State) (rq : Requester) (v : Word) : State :=
  if hostBarred rq then s
  else
    let s := regWrite s .VGL_CTL 0 0 v
    if bitOf v.toNat 31 then { s with vigil.load := true } else s

/-- VGL_LOAD (R440): VGL_CTL is written with load = 1 and its other fields as they are. -/
def execVglLoad (rq : Requester) (s : State) : Host.Outcome State Fault Refusal :=
  .next (vglCtlWrite s rq (regRaw s .VGL_CTL 0 0 ||| 0x80000000))

/-- A write of VGL_STEP. -/
def vglStepWrite (s : State) (rq : Requester) (v : Word) : State :=
  if hostBarred rq then s else { s with vigil.step := some v }

/-- VGL_STEP (R440). -/
def execVglStep (rq : Requester) (v : Word) (s : State) : Host.Outcome State Fault Refusal := .next (vglStepWrite s rq v)

/-! ## Discipline by PPS in (R441) -/

/-- The error of a captured edge: the nanoseconds of the counter as a signed number within ±0.5 s. -/
def ppsError (v : VigilSt) : Int := if v.ns < 500000000 then v.ns else (v.ns : Int) - 1000000000

/-- VGL_INC as the hardware adjusts it, within ±100 ppm of the nominal value; the rule gives no more, so the value is free. -/
def slewInc (s : State) : State :=
  let r := freeValue s
  setF r.2 fVGL_INC_inc 0 0 (0x28000000 - 67108 + r.1.toNat % 134217)

/-- PPS_IN_EDGE (R441). -/
def ppsEdge (s : State) : State :=
  if !vigilRuns s || decide (getF s fVGL_CTL_disc 0 0 ≠ 1) then s
  else
    let e := ppsError s.vigil
    let s := setF (setF s fVGL_PPS_ERR_e 0 0 (BitVec.ofInt 32 e).toNat) fVGL_STAT_holdover 0 0 0
    let lock := flagF s fVGL_STAT_pps_lock 0 0
    let bad := if !lock ∧ 1000 < e.natAbs then s.vigil.ppsBad + 1 else 0
    let good := if e.natAbs ≤ 50 then s.vigil.ppsGood + 1 else 0
    let s := { s with vigil.ppsBad := bad % 4, vigil.ppsGood := min good 8 }
    let s := if 8 ≤ good then setF s fVGL_STAT_pps_lock 0 0 1 else s
    if bad = 4 then { s with vigil := putTime s.vigil ((vigilTime s.vigil : Int) - e * 2 ^ 24) } else slewInc s

/-- PPS_IN_EDGE (R441). -/
def execPpsInEdge (s : State) : Host.Outcome State Fault Refusal := .next (ppsEdge s)

/-- PPS_HOLDOVER (R441): VGL_INC stays as it is. -/
def execPpsHoldover (s : State) : Host.Outcome State Fault Refusal :=
  .next (if !vigilRuns s || decide (getF s fVGL_CTL_disc 0 0 ≠ 1) then s
    else
      let s := { s with vigil.ppsBad := 0, vigil.ppsGood := 0 }
      setF (setF s fVGL_STAT_holdover 0 0 1) fVGL_STAT_pps_lock 0 0 0)

/-! ## The monitors of the TCXO (R419, R441) -/

/-- The harness reference of a die after a failure of the TCXO: with clk_src 0x02 it switches to the quad reference. -/
def switchRef (s : State) (d : Die) : State :=
  if getF s fOPT_STAT_clk_src d 0 = 2 ∧ !flagF s fREFCLK_STAT_src d 0 then
    setF (setF s fREFCLK_STAT_src d 0 1) fREFCLK_STAT_switched d 0 1
  else s

/-- Does a die still take its harness reference from the TCXO? -/
def onTcxo (s : State) (d : Die) : Bool := decide (4 ≤ getStage s d) && !flagF s fREFCLK_STAT_src d 0

/-- TCXO_FAIL (R441): the counter goes on from a derived clock. A die whose harness reference is taken from the TCXO switches to
its quad reference (R429), or asserts the reference clock failure source. `reference` says whether the frequency monitor has a
reference to count against. -/
def tcxoFail (s : State) (reference : Bool) : State :=
  if !vigilRuns s then s
  else
    let s := setF (setF s fVGL_STAT_tcxo_ok 0 0 0) fVGL_STAT_tcxo_chk 0 0 (bitN reference)
    let s := switchRef (switchRef { s with vigil.tcxoBad := true } 0) 1
    let bad := [(0 : Die), 1].filter (onTcxo s)
    let s' := match bad with
      | d :: _ => if s.rst.asserted.any (fun a => decide (a.src = 7)) then s
          else assertReset s 7 { level := reachOf s d 7, die := d, har := 0 }
      | [] => s
    bad.foldl (fun s d => countF s fREFCLK_STAT_fails d 0) s'

/-- TCXO_FAIL (R441). -/
def execTcxoFail (reference : Bool) (s : State) : Host.Outcome State Fault Refusal := .next (tcxoFail s reference)

/-- TCXO_RECOVERY (R441): the counter counts from the TCXO again, and the reference clock failure source ends when it was the
TCXO that failed. -/
def tcxoRecovery (s : State) : State :=
  if !vigilRuns s then s
  else
    let was := s.vigil.tcxoBad
    let s := setF { s with vigil.tcxoBad := false } fVGL_STAT_tcxo_ok 0 0 1
    if was then sourceRelease s 0 7 else s

/-- TCXO_RECOVERY (R441). -/
def execTcxoRecovery (s : State) : Host.Outcome State Fault Refusal := .next (tcxoRecovery s)

/-! ## Alarms and comparators (R443, R444) -/

/-- The actions of an alarm or comparator: an event to the firmware of die 0, a wake, and a request for VIGIL, which is not
checked (R436). -/
def vigilAct (s : State) (act line : Nat) (c : WakeCause) : State :=
  let s := if bitOf act 0 then linePending s 0 (Config.vigilLine line).val else s
  let s := if bitOf act 2 && !s.rst.vigil then { s with rst.request := some (true, false) } else s
  if bitOf act 1 then wakeEvent s c else s

/-- The compare time of an alarm in ns. -/
def alarmTime (s : State) (a : Nat) : Nat :=
  (getF s fVGL_ALM_S_LO_s_lo 0 a + getF s fVGL_ALM_S_HI_s_hi 0 a * 2 ^ 32) * 1000000000 + getF s fVGL_ALM_NS_ns 0 a

/-- ALARM_FIRE (R443): the counter is at or beyond the compare time of an alarm that is enabled. -/
def alarmFire (s : State) (a : Fin 4) : State :=
  if !vigilRuns s || !flagF s fVGL_ALM_en 0 a.val || decide (vigilTime s.vigil < alarmTime s a.val * 2 ^ 24) then s
  else
    let act := getF s fVGL_ALM_act 0 a.val
    vigilAct (setF (setF s fVGL_ALM_en 0 a.val 0) fVGL_ALM_fired 0 a.val 1) act a.val (.alarm a)

/-- ALARM_FIRE (R443). -/
def execAlarmFire (a : Fin 4) (s : State) : Host.Outcome State Fault Refusal := .next (alarmFire s a)

/-- Set or clear a bit of a field. -/
def putBitF (s : State) (f : Fld) (d : Die) (i b : Nat) (v : Bool) : State :=
  setF s f d i (putBits (getF s f d i) b b (bitN v))

/-- COMPARATOR_TRIP (R444): a comparator that is enabled trips after its filter. -/
def comparatorTrip (s : State) (c : Fin 8) : State :=
  if !vigilRuns s || !flagF s fVGL_CMP_CTL_en 0 c.val || bitOf (getF s fVGL_CMP_STAT_now 0 0) c.val then s
  else
    let s := putBitF (putBitF s fVGL_CMP_STAT_now 0 0 c.val true) fVGL_CMP_STAT_tripped 0 0 c.val true
    vigilAct s (getF s fVGL_CMP_CTL_act 0 c.val) (4 + c.val) (.comparator c)

/-- COMPARATOR_TRIP (R444). -/
def execComparatorTrip (c : Fin 8) (s : State) : Host.Outcome State Fault Refusal := .next (comparatorTrip s c)

/-- COMPARATOR_CLEAR (R444). -/
def execComparatorClear (c : Fin 8) (s : State) : Host.Outcome State Fault Refusal :=
  .next (if vigilRuns s && flagF s fVGL_CMP_CTL_en 0 c.val then putBitF s fVGL_CMP_STAT_now 0 0 c.val false else s)

end Sys2Proof.Machine
end

