-- ==== Sys2Proof/Machine/Registers.lean ====
section
/-! DEFINITION. The registers as they are read and written (R8 to R12, R470 to R480): what each reads as, the reads that have a
side effect (R477), and what a write of each does. -/

namespace Sys2Proof.Machine

/-! ## Instances -/

/-- Which instances of a register exist on a die (R471, R475, R476). -/
def regExists (r : Reg) (d : Die) (i : Nat) : Bool :=
  let spec := regSpec r
  match spec.blk with
  | .vgl | .cxl | .bar0 => decide (d = 0) && decide (i < spec.count)
  | .har => decide (i < 36 * spec.count)
  | .prt => decide (i < 48) && (decide (spec.off < 0x100) || decide (i % 2 = 0))
  | .dbg => decide (i < spec.count) && (decide (spec.off ≠ 0) || decide (d = 0))
  | .dc | .noc => decide (i < spec.count) && (decide (spec.count ≠ 65) || domExists d i)
  | _ => decide (i < spec.count)

/-! ## What the registers show -/

/-- Does an asserted source hold a reset of the die of one of these levels? -/
def heldOn (s : State) (d : Die) (a : Asserted) : Bool :=
  s.rst.asserted.contains a && (reachDies { level := a.level, die := a.die, har := a.har }).contains d

/-- RST_STAT (R445): the sources asserted on the die, the widest level, and the release stage while it is in progress. -/
def rstStat (s : State) (d : Die) : Word :=
  let on := s.rst.asserted.filter (heldOn s d)
  let widest := on.foldl (fun n a => min n (levelCode a.level)) 7
  let big := on.any (fun a => decide (levelCode a.level < 3 ∨ a.level = .control))
  let st := getStage s d
  let held := on.foldl (fun n a => Nat.lor n (2 ^ a.src)) 0
  BitVec.ofNat 32 (bitN big * 2 ^ 31 + widest * 2 ^ 28 + (if st = 8 then 0 else st) * 2 ^ 24 + held)

/-- RT_STAT (R363). -/
def rtStat (s : State) (d : Die) : Word :=
  let r := getRt s d
  if !domOn s d 59 then 0
  else
    let bits (ls : List Nat) : Nat := (List.range 8).foldl (fun n p => n + (if ls.contains p then 2 ^ p else 0)) 0
    let reset := flagF s fRT_STAT_in_reset d 0
    BitVec.ofNat 32 (bitN (flagF s fRT_STAT_run d 0 && decide (r.halt ≠ .hard)) * 2 ^ 31 + bitN (decide (r.halt = .monitor)) * 2 ^ 30 +
      bitN (decide (r.halt = .hard)) * 2 ^ 29 + bitN reset * 2 ^ 28 + getF s fRT_STAT_fault_entry d 0 * 2 ^ 27 +
      (if reset then 0 else runLevel r) * 2 ^ 24 + bits (pendLevels d r) * 256 + bits r.preempt)

/-- Is the complex that holds a semaphore in hard halt (R363, R466)? -/
def semHalted (s : State) (d : Die) (i : Nat) : Bool :=
  let owner : Die := if flagF s fSEM_owner_die d i then 1 else 0
  flagF s fSEM_held d i && decide ((getRt s owner).halt = .hard)

/-- TSEQ_STAT (R120); its live bits read 0 while the harness is not ON (R472). -/
def tseqStat (s : State) (d : Die) (h : Nat) : Word :=
  let a := getHar s d h
  let on := domOn s d h
  BitVec.ofNat 32 (bitN (on && a.armTick.isSome) * 2 ^ 31 + bitN (on && flagF s fTSEQ_STAT_swap_busy d h) * 2 ^ 30 +
    bitN (on && flagF s fTSEQ_STAT_darn_busy d h) * 2 ^ 29 + bitN (parked s d h) * 2 ^ 28 + getF s fTSEQ_STAT_dead_cnt d h)

/-- The cell whose counters a requester has selected (R83, R474). -/
def selectedCell (s : State) (rq : Requester) (d : Die) (h : Nat) : CellSt :=
  getCell s (cellKey d h (getF s fCELL_CSEL_row d (selInst rq h)) (getF s fCELL_CSEL_col d (selInst rq h)))

/-- The yarn whose descriptor a requester has selected on a die (R155). -/
def selectedYarn (s : State) (rq : Requester) (d : Die) : Option (Nat × Yarn) :=
  let e := getF s fYARN_SEL_entry d (selInst rq 0)
  (yarnsOn s d).find? (fun x => decide (x.2.entry = e))

/-- YARN_STAT (R155). -/
def yarnStat (s : State) (rq : Requester) (d : Die) : Word :=
  match selectedYarn s rq d with
  | none => 0
  | some (n, y) => BitVec.ofNat 32 (y.prio.toNat * 2 ^ 24 + yStateNo y.state * 2 ^ 20 + min 15 (inFlight s d n) * 65536 + n)

/-- BOB_STAT (R155). -/
def bobStat (b : Bob) : Word :=
  BitVec.ofNat 32 (bStateNo b.state * 2 ^ 28 + bitN b.rszPend * 2 ^ 27 + bitN b.opened.isSome * 2 ^ 26 +
    bitN (decide (0 < b.deliver)) * 2 ^ 25 + b.wstat.toNat * 65536 + min 65535 b.items.length)

/-- BOB_POP_TAG (R155): the tag of the word that BOB_POP will return. -/
def bobPopTag (s : State) (rq : Requester) (d : Die) : Word :=
  match selectedBob s rq d with
  | none => BitVec.ofNat 32 (3 * 2 ^ 30 + idleWord.tag.toNat)
  | some n =>
    let b := getBob s n
    let w := (bobPop s rq d false).2
    let st := if b.inspected then 2 else if b.cons ≠ .host then 3 else if tagIdle w.tag then 1 else 0
    BitVec.ofNat 32 (st * 2 ^ 30 + w.tag.toNat)

/-- BEAT_STAT (R196); while the beat engine is not started, no ended beat waits for it. -/
def beatStat (s : State) (d : Die) : Word :=
  let b := getBeat s d
  let lag := if b.started then min 15 (b.ord - 1 - b.cmt) else 0
  let v := (regRaw s .BEAT_STAT d 0).toNat
  BitVec.ofNat 32 (putBits (putBits v 31 31 (getF s fBRD_STAT_split d 0)) 19 16 lag)

/-- RPL_STAT (R196). -/
def rplStat (s : State) (d : Die) : Word :=
  let n := groupsReplaying s d
  BitVec.ofNat 32 (putBits (putBits (regRaw s .RPL_STAT d 0).toNat 31 31 (bitN (decide ((getBeat s d).replays ≠ [] ∨ 0 < n)))) 30 24 (min 127 n))

/-- DBG_STAT (R469). -/
def dbgStat (s : State) : Word :=
  let v := (regRaw s .DBG_STAT 0 0).toNat
  let v := putBits (putBits v 31 31 (bitN s.dbg.session)) 25 25 (bitN s.dbg.rstHeld.isSome)
  let is (d : Die) (m : HaltMode) : Nat := bitN (decide ((getRt s d).halt = m))
  BitVec.ofNat 32 (putBits (putBits v 19 18 (is 1 .hard * 2 + is 0 .hard)) 17 16 (is 1 .monitor * 2 + is 0 .monitor))

/-- DBG_HALT of a die: the halted harnesses from `lo` on (R469). -/
def dbgHalt (s : State) (d : Die) (lo n : Nat) : Word :=
  BitVec.ofNat 32 ((List.range n).foldl (fun v k => v + bitN (getHar s d (lo + k)).halted * 2 ^ k) 0)

/-- DEV_STATE (R323). -/
def devState (s : State) : Word :=
  let v := (regRaw s .DEV_STATE 0 0).toNat
  let h (d : Die) : Nat := bitN (decide ((getRt s d).halt ≠ .none))
  BitVec.ofNat 32 (putBits (putBits (putBits (putBits v 30 30 (h 1)) 29 29 (h 0)) 28 28 (getF s fBRD_STAT_split 0 0)) 27 27
    (getF s fBEAT_STAT_peer_lost 0 0))

/-- Is the debug unlock of scope WRITE in force (R459)? -/
def unlocked (s : State) : Bool := bitOf (getF s fDBG_STAT_scope 0 0) 0

/-- The keys of the values that a requester's reads have latched (R474, R477): BEAT_NUM_HI and BEAT_CMT_HI of a die, DEV_BEAT_HI,
and the time registers. -/
def latchKey (rq : Requester) (k : Nat) : Nat := requesterNo rq * 16 + k

/-- What a latch holds before its first latching read: the reset value of the register (R474). -/
def latchDefault (k : Nat) : Word := if [2, 3, 4].contains (k % 16) then 0xFFFF else 0

/-- The value that a requester has latched. -/
def latched (s : State) (rq : Requester) (k : Nat) : Word := sparseGet latchDefault s.vigil.latches (latchKey rq k)

/-- Latch a value for a requester. -/
def latch (s : State) (rq : Requester) (k v : Nat) : State :=
  { s with vigil.latches := sparseSet latchDefault s.vigil.latches (latchKey rq k) (BitVec.ofNat 32 v) }

/-- A select register as a requester reads it: its own copy, and the shared freeze bit of CELL_CSEL (R474). -/
def selectWord (s : State) (rq : Requester) (r : Reg) (d : Die) (i : Nat) : Word :=
  let v := regRaw s r d (selInst rq i)
  if r = .CELL_CSEL then BitVec.ofNat 32 (putBits v.toNat 31 31 (getF s fCELL_CSEL_frz d i)) else v

/-- The bits of a register that show a live state of a domain, and the local index of that domain (R472). -/
def liveBits (r : Reg) (i : Nat) : Option (Nat × Nat) :=
  match r with
  | .CLK_STAT => some (i, 0xC000007F)
  | .PCS_STAT => some (36 + i / 4, 0xF8000000)
  | .PL_STAT => some (36 + i / 4, 0xE0000000)
  | .FCLK_STAT => some (58, 0xFC0000FF)
  | .CFG_STAT => some (60, 0x80000000)
  | .MT_STAT => some (60, 0x80000000)
  | .RPL_STAT => some (56, 0xFF000000)
  | .BRD_STAT => some (61, 0xF0000000)
  | .GATE_OUT => some (58, 0x40000000)
  | .SER_STAT => some (58, 0x807F007F)
  | _ => none

/-- A register's value with its live bits 0 while the domain that it describes is not ON (R472). -/
def maskLive (s : State) (d : Die) (r : Reg) (i : Nat) (v : Word) : Word :=
  match liveBits r i with
  | some (dom, m) => if domOn s d dom then v else v &&& ~~~(BitVec.ofNat 32 m)
  | none => v

/-- The value of a register as a requester reads it, without the side effect of the read. -/
def regWord (s : State) (rq : Requester) (d : Die) (r : Reg) (i : Nat) : Word :=
  match r with
  | .RST_STAT => rstStat s d
  | .RST_REACH => BitVec.ofNat 32 (if i = 5 ∨ i = 6 then 7 else reachCode s d i)
  | .DIE_ID => BitVec.ofNat 32 ((regRaw s .DIE_ID d i).toNat + d.val)
  | .DOM_STAT => domStat s d i
  | .RT_STAT => rtStat s d
  | .WDT_STAT => BitVec.ofNat 32 (putBits (regRaw s .WDT_STAT d 0).toNat 19 0 (wdtRemain s d))
  | .SEM => BitVec.ofNat 32 (putBits (regRaw s .SEM d i).toNat 30 30 (bitN (semHalted s d i)))
  | .VGL_TIME_FRAC => BitVec.ofNat 32 (s.vigil.frac / 256)
  | .VGL_TIME_NS => latched s rq 5
  | .VGL_TIME_S_LO => latched s rq 6
  | .VGL_TIME_S_HI => latched s rq 7
  | .NOC_RT_DATA => routeRead s rq d
  | .PROXY_STAT => BitVec.ofNat 32 (putBits (regRaw s .PROXY_STAT d i).toNat 15 8
      (min 64 ((heldPackets s (domKey d i)).length + (heldAccs s (domKey d i)).length + (heldLines s (domKey d i)).length)))
  | .TSEQ_STAT => tseqStat s d i
  | .TBL => getTable s d (i / 256) (getHar s d (i / 256)).flip (i % 256)
  | .YARN_SEL | .BOB_SEL | .BOB_PUSH_TAG | .NOC_RT_SEL | .CELL_CSEL => selectWord s rq r d i
  | .CELL_CWORD => (selectedCell s rq d i).cnt.word
  | .CELL_CEMPTY => (selectedCell s rq d i).cnt.empty
  | .CELL_CBUBBLE => (selectedCell s rq d i).cnt.bubble
  | .CELL_CHOLD => (selectedCell s rq d i).cnt.hold
  | .CELL_CFORCED => (selectedCell s rq d i).cnt.forced
  | .CELL_COVF => (selectedCell s rq d i).cnt.ovf
  | .YARN_STAT => yarnStat s rq d
  | .YARN_OVF => ((selectedYarn s rq d).map (fun x => x.2.ovfCount)).getD 0
  | .BEAT_CTL =>
    let p := getF s fBEAT_CTL_period 0 0
    BitVec.ofNat 32 (bitN (decide (p ≠ getF s fDEV_PERIOD_period 0 0)) * 2 ^ 31 + p)
  | .BEAT_NUM_LO => BitVec.ofNat 32 (beatNum s d).toNat
  | .BEAT_NUM_HI => latched s rq d.val
  | .BEAT_CMT_LO => BitVec.ofNat 32 (cmtNum s d).toNat
  | .BEAT_CMT_HI => latched s rq (2 + d.val)
  | .BEAT_STAT => beatStat s d
  | .JRN_STAT => jrnStatWord s d
  | .RPL_STAT => maskLive s d r i (rplStat s d)
  | .BOB_STAT => ((selectedBob s rq d).map (fun n => bobStat (getBob s n))).getD 0
  | .BOB_QUOTA => BitVec.ofNat 32 (getF s fBOB_QUOTA_refused d 0 * 2 ^ 31 +
      ((selectedBob s rq d).map (fun n => (getBob s n).quota)).getD 0)
  | .BOB_POP_TAG => bobPopTag s rq d
  | .BOB_POP => 0
  | .GATE_OUT => maskLive s d r i (BitVec.ofNat 32 (putBits (regRaw s .GATE_OUT d i).toNat 30 30 (bitN (getFGate s d i).inOpen)))
  | .SER_RXD => (serRxdRead s d i true).2
  | .DBG_STAT => if d = 0 then dbgStat s else 0
  | .DBG_HALT_LO => dbgHalt s d 0 32
  | .DBG_HALT_HI => dbgHalt s d 32 4
  | .SERIAL_LO => BitVec.ofNat 32 s.fuses.serial.toNat
  | .SERIAL_HI => BitVec.ofNat 32 (s.fuses.serial.toNat / 2 ^ 32)
  | .DEV_STATE => devState s
  | .DEV_BEAT_LO => BitVec.ofNat 32 (cmtNum s 0).toNat
  | .DEV_BEAT_HI => latched s rq 4
  | .DIAG_CTL => BitVec.ofNat 32 (putBits (regRaw s .DIAG_CTL 0 0).toNat 1 1 (bitN (unlocked s)))
  | _ => maskLive s d r i (regRaw s r d i)

/-! ## Reads (R477) -/

/-- A read of TSEQ_STAT clears dead_cnt unless it is an inspect read (R120). -/
def tseqStatRead (s : State) (d : Die) (h : Nat) (inspect : Bool) : State × Word :=
  (if inspect then s else setF s fTSEQ_STAT_dead_cnt d h 0, tseqStat s d h)

/-- A read of BEAT_NUM_LO or BEAT_CMT_LO latches the upper bits for the requester (R196, R477). -/
def beatLoRead (s : State) (rq : Requester) (d : Die) (cmt inspect : Bool) : State × Word :=
  let n := (if cmt then cmtNum s d else beatNum s d).toNat
  (if inspect then s else latch s rq (bitN cmt * 2 + d.val) (n / 2 ^ 32), BitVec.ofNat 32 n)

/-- A read of DEV_BEAT_LO latches DEV_BEAT_HI for the requester (R323, R477). -/
def devBeatLoRead (s : State) (rq : Requester) (inspect : Bool) : State × Word :=
  let n := (cmtNum s 0).toNat
  (if inspect then s else latch s rq 4 (n / 2 ^ 32), BitVec.ofNat 32 n)

/-- A read of VGL_TIME_FRAC latches the other time registers for the requester (R445, R477). -/
def timeFracRead (s : State) (rq : Requester) (inspect : Bool) : State × Word :=
  let v := s.vigil
  let t := latch (latch (latch s rq 5 v.ns) rq 6 (v.seconds.toNat % 2 ^ 32)) rq 7 (v.seconds.toNat / 2 ^ 32)
  (if inspect then s else t, BitVec.ofNat 32 (v.frac / 256))

/-- A read of a register: the state after its side effect, and its value. -/
def regRead (s : State) (rq : Requester) (d : Die) (r : Reg) (i : Nat) (inspect : Bool) : State × Word :=
  if !regExists r d i then (s, 0)
  else
    match r with
    | .TSEQ_STAT => tseqStatRead s d i inspect
    | .BOB_POP =>
      let x := bobPop s rq d inspect
      (x.1, if inspect then 0 else x.2.data)
    | .SER_RXD => serRxdRead s d i inspect
    | .BEAT_NUM_LO => beatLoRead s rq d false inspect
    | .BEAT_CMT_LO => beatLoRead s rq d true inspect
    | .DEV_BEAT_LO => devBeatLoRead s rq inspect
    | .VGL_TIME_FRAC => timeFracRead s rq inspect
    | _ => (s, regWord s rq d r i)

/-- The value of a read goes to its requester. -/
def answerRead (rq : Requester) (r : State × Word) : State := emit r.1 (.value rq r.2)

/-- TSEQ_STAT_READ (R120). -/
def execTseqStatRead (rq : Requester) (d : Die) (h : Harn) (inspect : Bool) (s : State) : Host.Outcome State Fault Refusal :=
  .next (answerRead rq (tseqStatRead s d h inspect))

/-- BEAT_NUM_LO_READ (R477). -/
def execBeatNumLoRead (rq : Requester) (d : Die) (cmt inspect : Bool) (s : State) : Host.Outcome State Fault Refusal :=
  .next (answerRead rq (beatLoRead s rq d cmt inspect))

/-- DEV_BEAT_LO_READ (R477). -/
def execDevBeatLoRead (rq : Requester) (inspect : Bool) (s : State) : Host.Outcome State Fault Refusal :=
  .next (answerRead rq (devBeatLoRead s rq inspect))

/-- VGL_TIME_FRAC_READ (R477). -/
def execVglTimeFracRead (rq : Requester) (inspect : Bool) (s : State) : Host.Outcome State Fault Refusal :=
  .next (answerRead rq (timeFracRead s rq inspect))

/-! ## Writes (R8, R478) -/

/-- A write of DBG registers of a comparator: one that becomes enabled starts to count (R462). -/
def bpWrite (s : State) (d : Die) (r : Reg) (i : Nat) (v : Word) : State :=
  let was := flagF s fBP_CTL_en d i
  let s := regWrite s r d i v
  if !was && flagF s fBP_CTL_en d i then
    let s := modHar s d (i / 16) (fun a => { a with bpCount := sparseSet (fun _ => 0) a.bpCount (i % 16) 0 })
    { s with dbg.armed := s.dbg.armed.filter (fun k => decide (k ≠ bpKey d i)) }
  else s

/-- A write of SWAP_CTL (R120): cancel before arm. -/
def swapCtlWrite (s : State) (d : Die) (h : Nat) (v : Word) : State :=
  let s := if bitOf v.toNat 30 then cancelSwap s d h else s
  if bitOf v.toNat 31 then (armSwap s d h).1 else s

/-- A write of BANK_CTL (R273). -/
def bankCtlWrite (s : State) (d : Die) (h : Nat) (v : Word) : State :=
  let s := regWrite s .BANK_CTL d h v
  if bitOf v.toNat 31 then setReg s .BANK_COLL d h 0 else s

/-- A write of QBV_CTL (R286); gates that it opens let their bobbins' items out again (R145). -/
def qbvCtlWrite (s : State) (d : Die) (m : Nat) (v : Word) : State :=
  let s := regWrite s .QBV_CTL d m v
  let p := d.val * 48 + m
  unstall (if bitOf v.toNat 31 then qbvChange s p else s) p

/-- A write of BRD_CTL (R249). -/
def brdCtlWrite (s : State) (d : Die) (v : Word) : State :=
  let s := holdDownWrite s d (bitOf v.toNat 30)
  if bitOf v.toNat 31 && linkUp s d then brdRetrain s else s

/-- A write of MT_CTL (R273). -/
def mtCtlWrite (s : State) (d : Die) (v : Word) : State :=
  let s := if bitOf v.toNat 30 then mtAbort s d else s
  mtStart s d v

/-- The firmware binds a gate, or unbinds it, in GATE.IN or GATE.OUT (R406, R414). -/
def gateWrite (s : State) (rq : Requester) (r : Reg) (d : Die) (g : Nat) (v : Word) : State :=
  if rq = .fwOwn ∨ rq = .fwOther then
    setReg s r d g (BitVec.ofNat 32 (putBits (putBits (regRaw s r d g).toNat 31 31 (bitsOf v.toNat 31 31)) 15 0 (v.toNat % 65536)))
  else s

/-- A write of EVT_EN: a pending bit that it enables sends the vector of EVT_VEC (R341). -/
def evtEnWrite (s : State) (v : Word) : State :=
  let was := (regRaw s .EVT_EN 0 0).toNat
  let s := regWrite s .EVT_EN 0 0 v
  if (List.range 32).any (fun i => bitOf (regRaw s .EVT_EN 0 0).toNat i && !bitOf was i && bitOf (regRaw s .EVT_PEND 0 0).toNat i) then
    sendMsi s (getF s fEVT_VEC_vec 0 0)
  else s

/-- A write of a MSI-X vector control word (R342). -/
def msixCtlWrite (s : State) (v : Nat) (w : Word) : State :=
  if bitOf w.toNat 0 then setF s fMSIX_CTL_mask 0 v 1 else unmaskVector s v

/-- A write of a queue configuration register, which is ignored while the queue pair is enabled (R326). -/
def queueWrite (s : State) (r : Reg) (q : Nat) (v : Word) : State := if qpEnabled s q then s else regWrite s r 0 q v

/-- A write of YARN_OVF sets the count of the selected yarn (R155). -/
def yarnOvfWrite (s : State) (rq : Requester) (d : Die) (v : Word) : State :=
  match selectedYarn s rq d with
  | some (n, _) => modYarn s d n (fun y => { y with ovfCount := v })
  | none => s

/-- May this requester write the register at all (R456, R478)? The host writes the Host Window itself. -/
def mayWrite (rq : Requester) (r : Reg) : Bool :=
  match (regSpec r).blk with
  | .bar0 => true
  | .dbg => decide (rq = .selvedge)
  | _ => !(hostBarred rq && (regSpec r).fw)

/-- Are writes of a register held: those of the fringe's registers until the start-up step E of the die (R384, R385)? -/
def writesHeld (s : State) (d : Die) (r : Reg) : Bool := decide ((regSpec r).blk = .frg) && !stepDoneOf s d 3

/-- A write of a register. -/
def regWriteAt (s : State) (rq : Requester) (d : Die) (r : Reg) (i : Nat) (v : Word) : State :=
  if !regExists r d i || !mayWrite rq r || writesHeld s d r then s
  else
    match r with
    | .RST_REQ => rstReq s rq d v
    | .DOM_CTL => domCtlWrite s rq d i v
    | .WDT_KICK => wdtKick s rq d v
    | .VGL_CTL => vglCtlWrite s rq v
    | .VGL_STEP => vglStepWrite s rq v
    | .NOC_CTL => if bitOf v.toNat 31 then genSwitchStart s rq d else s
    | .NOC_RT_DATA => routeWrite s rq d v
    | .YARN_SEL | .BOB_SEL | .BOB_PUSH_TAG | .NOC_RT_SEL | .CELL_CSEL => regWriteBy s rq r d i v
    | .SWAP_CTL => swapCtlWrite s d i v
    | .CLK_CTL => clkCtlWrite s d i v
    | .AVS_CTL => avsCtlWrite s d i v
    | .BANK_CTL => bankCtlWrite s d i v
    | .YARN_OVF => yarnOvfWrite s rq d v
    | .BEAT_CTL => if d = 0 then setPeriod s v else s
    | .JRN_BASE => jrnBaseWrite s d v
    | .JRN_SIZE => jrnSizeWrite s d v
    | .BOB_QUOTA => bobQuotaWrite s rq d v
    | .BOB_CTL => if bitOf v.toNat 0 then bobCtlFlush s rq d else s
    | .BOB_PUSH => bobPush s rq d v
    | .PCFG => portCfgWrite s rq (d.val * 48 + i) v
    | .QBV_CTL => qbvCtlWrite s d i v
    | .PL_CTL => plCtlWrite s rq (d.val * 24 + i / 2) v
    | .PL_PERIOD => gridWrite s rq (d.val * 24 + i / 2) 0 v
    | .PL_BASE_NS => gridWrite s rq (d.val * 24 + i / 2) 1 v
    | .PL_BASE_S => gridWrite s rq (d.val * 24 + i / 2) 2 v
    | .PL_LEAD => gridWrite s rq (d.val * 24 + i / 2) 3 v
    | .BRD_CTL => brdCtlWrite s d v
    | .GATE_IN | .GATE_OUT => gateWrite s rq r d i v
    | .SER_TXD => serTxdWrite s d i v
    | .SER_CTL | .SER_STAT => showSer (regWrite s r d i v) d i
    | .BP_CTL | .BP_SEL | .BP_VAL | .BP_MASK | .BP_TAG | .BP_HITS => bpWrite s d r i v
    | .MT_CTL => mtCtlWrite s d v
    | .QP_DB_SQ => ringBell (sqTailWrite s i (v.toNat % 65536))
    | .QP_DB_CQ => ringBell (cqHeadWrite s i (v.toNat % 65536))
    | .REGION_DB => ringBell (regionDoorbell s i (BitVec.ofNat 16 v.toNat))
    | .SQ_BASE_LO | .SQ_BASE_HI | .CQ_BASE_LO | .CQ_BASE_HI | .QP_SIZE => queueWrite s r i v
    | .QP_CTL => qpCtlWrite s i v
    | .EVT_EN => evtEnWrite s v
    | .MSIX_CTL => msixCtlWrite s i v
    | _ => regWrite s r d i v

/-- Does a write by this requester reach the register of this die: the host's only with the debug unlock, but for its own
window (R325)? -/
def writeReaches (s : State) (rq : Requester) (r : Reg) : Bool :=
  if (regSpec r).blk = .bar0 then windowOpen s else rq ≠ .host || (windowOpen s && unlocked s)

/-- REGISTER_WRITE (R8): a write by a requester that reaches the register. -/
def execRegisterWrite (rq : Requester) (d : Die) (reg : Reg) (i : Nat) (v : Word) (s : State) : Host.Outcome State Fault Refusal :=
  .next (if writeReaches s rq reg then regWriteAt s rq d reg i v else s)

end Sys2Proof.Machine
end

