-- ==== Sys2Proof/Machine/Access.lean ====
section
/-! DEFINITION. Addresses: what each offset of a die's register space holds (R470, R471, R476), how the blocks answer (R472), the
bank memories and the stacks in the internal address map (R252, R259), and the windows of the host (R322, R324, R325). -/

namespace Sys2Proof.Machine

/-! ## The register space of a die -/

/-- What an offset of a die's register space holds: a register, a word of a port's tables, a word of the node table, an offset of
the Host Window, or nothing. -/
inductive Place where
  | reg (r : Reg) (i : Nat)
  | table (m off : Nat)
  | node (e w : Nat)
  | window (off : Nat)
  | nothing
  deriving DecidableEq, Repr

/-- The instance of a register at an offset of its block, if it is there. -/
def regOffset (blk : Block) (o : Nat) (r : Reg) : Option (Reg × Nat) :=
  let e := regSpec r
  if e.blk ≠ blk ∨ o < e.off then none
  else if e.count = 1 then (if o = e.off then some (r, 0) else none)
  else if (o - e.off) % e.stride = 0 ∧ (o - e.off) / e.stride < e.count then some (r, (o - e.off) / e.stride)
  else none

/-- The register at an offset of a block. -/
def regAt (blk : Block) (o : Nat) : Option (Reg × Nat) := allRegs.findSome? (regOffset blk o)

/-- A register as a place, with its instance among all those of its kind: unit `u` of the block. -/
def placeOf (blk : Block) (u o : Nat) : Place :=
  match regAt blk o with
  | some (r, k) => .reg r (u * (regSpec r).count + k)
  | none => .nothing

/-- What an offset of a port block holds (R280, R283, R286, R315). -/
def portPlace (m o : Nat) : Place :=
  if 0x200 ≤ o ∧ o % 4 = 0 then .table m o else placeOf .prt m o

/-- What an offset of the CXL block holds (R480). -/
def cxlPlace (o : Nat) : Place := if o < 0x10000 then .window o else placeOf .cxl 0 o

/-- What an offset of a die's register space holds (R470). -/
def placeAt (off : Nat) : Place :=
  if off < 0x100000 then placeOf .dc 0 off
  else if off < 0x200000 then placeOf .vgl 0 (off - 0x100000)
  else if off < 0x400000 then placeOf .noc 0 (off - 0x200000)
  else if off < 0x640000 then placeOf .har ((off - 0x400000) / 0x10000) (off % 0x10000)
  else if off < 0x800000 then .nothing
  else if off < 0xA00000 then placeOf .yrn 0 (off - 0x800000)
  else if off < 0xC00000 then placeOf .bob 0 (off - 0xA00000)
  else if off < 0xC30000 then portPlace ((off - 0xC00000) / 0x1000) (off % 0x1000)
  else if off < 0xC80000 then .nothing
  else if off < 0xC98000 then .node ((off - 0xC80000) / 32) ((off - 0xC80000) / 4 % 8)
  else if off < 0x1000000 then .nothing
  else if off < 0x1400000 then placeOf .hbm 0 (off - 0x1000000)
  else if off < 0x1600000 then placeOf .cfg 0 (off - 0x1400000)
  else if off < 0x1800000 then placeOf .brd 0 (off - 0x1600000)
  else if off < 0x1A00000 then cxlPlace (off - 0x1800000)
  else if off < 0x1C00000 then placeOf .frg 0 (off - 0x1A00000)
  else if off < 0x1E00000 then placeOf .dbg 0 (off - 0x1C00000)
  else if off < 0x1F00000 then placeOf .mt 0 (off - 0x1E00000)
  else .nothing

/-- The block of a place. -/
def placeBlock : Place → Block
  | .reg r _ => (regSpec r).blk
  | .table _ _ => .prt
  | .node _ _ => .prt
  | .window _ => .cxl
  | .nothing => .dc

/-- The release stage from which a block answers (R422, R472). -/
def blockStage : Block → Nat
  | .dc | .vgl | .noc | .dbg => 4
  | .har => 7
  | .cxl | .bar0 => 8
  | .yrn | .bob | .prt | .hbm | .cfg | .brd | .frg | .mt => 5

/-- How a block answers an access (R227, R472): OK, or ASLEEP. -/
def blockStatus (s : State) (d : Die) (blk : Block) : Nat :=
  match blk with
  | .vgl => 0
  | .dbg => if domOn s 0 64 then 0 else 1
  | .cxl => if d = 0 ∧ (!domOn s 0 62 ∨ getStage s 0 < 8) then 1 else 0
  | b => if getStage s d < blockStage b then 1 else 0

/-- The bits of a word of a port's tables that a write changes (R280, R283, R286): the operative list is read-only. -/
def tableMask (off : Nat) : Nat :=
  if off < 0x400 then [0xFFFFFFFF, 0xFFFFFFFF, 0x001FFFFF, 0x0FFFFFFF].getD (off / 4 % 4) 0
  else if off < 0x800 then 0
  else if off < 0xC00 then 0xFFFFFFFF
  else [0xFFFFFFFF, 0xFFFFFFFF, 0x007FFFFF, 0x0000FFFF].getD (off / 4 % 4) 0

/-- The bits of a word of a node table entry that a write changes (R300). -/
def nodeMask (w : Nat) : Nat := [0xF03F00FF, 0xFFFFFFFF, 0xFFFFFFFF, 0xFFFFFFFF, 0x7DFF01FF].getD w 0

/-- A read of a place. -/
def placeRead (s : State) (rq : Requester) (d : Die) (inspect : Bool) : Place → State × Word
  | .reg r i => regRead s rq d r i inspect
  | .table m o => (s, BitVec.ofNat 32 (portWord s (d.val * 48 + m) o))
  | .node e w => (s, BitVec.ofNat 32 (nodeWord s d e w))
  | .window o =>
    match regAt .bar0 o with
    | some (r, k) => if d = 0 then regRead s rq 0 r k inspect else (s, 0)
    | none => (s, 0)
  | .nothing => (s, 0)

/-- A write of a place; the host's writes to the internal view of its own window are ignored (R480). -/
def placeWrite (s : State) (rq : Requester) (d : Die) (v : Word) : Place → State
  | .reg r i => regWriteAt s rq d r i v
  | .table m o => if tableMask o = 0 then s else setPortWord s (d.val * 48 + m) o (v &&& BitVec.ofNat 32 (tableMask o))
  | .node e w => if 5 ≤ w then s else setNodeWord s d e w (Nat.land v.toNat (nodeMask w))
  | .window o =>
    match regAt .bar0 o with
    | some (r, k) => if d = 0 ∧ rq ≠ .host then regWriteAt s rq 0 r k v else s
    | none => s
  | .nothing => s

/-- The die on whose network a requester stands. -/
def rqDie (rq : Requester) (d : Die) : Die :=
  match rq with
  | .fwOwn => d
  | .fwOther => otherDie d
  | .selvedge | .host => 0

/-- The domain that holds the registers of a block and may be switched off beside its network, as die and local index (R472). -/
def blockDomain : Block → Option (Die × Nat)
  | .dbg => some (0, 64)
  | .cxl => some (0, 62)
  | _ => none

/-- The place of an access in the internal address map: a die's register space (R15). -/
def regBase (d : Die) : Nat := 0x40000000 + d.val * 0x10000000

/-- The answer of a block that does not answer (R239, R472): of one whose domain is not ON the proxy's, and ASLEEP of one that its
release has not reached. -/
def blockAsleep (s : State) (rq : Requester) (d : Die) (off : Nat) (w : Option Word) (inspect : Bool) (blk : Block) :
    State × Nat × Word :=
  match blockDomain blk with
  | some (x, i) =>
    if proxied s x i then proxyAccess s x i { rq := rq, addr := regBase d + off, w := w, inspect := inspect } else (s, 1, 0)
  | none => (s, 1, 0)

/-- Does an access reach the network of a die (R228, R247, R472)? The status of one that does not. -/
def reachStatus (s : State) (rq : Requester) (d : Die) : Nat :=
  if dieHeld s d ∨ getStage s d < 4 then 2
  else if !domOn s d 57 then 3
  else if rqDie rq d ≠ d ∧ (apart s ∨ linkState s 0 < 2 ∨ linkState s 1 < 2) then 2
  else 0

/-- An access to an offset of a die's register space (R471, R472): the state, the status of R227, and the word read. -/
def regAccess (s : State) (rq : Requester) (d : Die) (off : Nat) (w : Option Word) (inspect : Bool) : State × Nat × Word :=
  let r := reachStatus s rq d
  let p := placeAt off
  let b := blockStatus s d (placeBlock p)
  if r ≠ 0 then (s, r, 0)
  else if off % 4 ≠ 0 then (s, 5, 0)
  else if 0x2000000 ≤ off then (s, 4, 0)
  else if b ≠ 0 then blockAsleep s rq d off w inspect (placeBlock p)
  else
    match w with
    | some v => (placeWrite s rq d v p, 0, 0)
    | none =>
      let x := placeRead s rq d inspect p
      (x.1, 0, x.2)

/-! ## Memories in the internal address map -/

/-- An access to a word of a bank memory by its network port (R239, R252 to R254, R461, R463). -/
def bankAccess (s : State) (rq : Requester) (d : Die) (o : Nat) (w : Option Word) (f : Finds) : State × Nat × Word :=
  let h := o / 0x80000
  let r := reachStatus s rq d
  if r ≠ 0 then (s, r, 0)
  else if o % 4 ≠ 0 then (s, 5, 0)
  else if 36 ≤ h then (s, 4, 0)
  else if (getHar s d h).halted ∧ rq ≠ .selvedge then (countF s fPROXY_STAT_asleep d h, 1, 0)
  else if proxied s d h then
    proxyAccess s d h { rq := rq, addr := 0x80000000 + d.val * 0x10000000 + o, w := w, inspect := false }
  else
    let a := bankAddr d h (o % 0x80000)
    let s := bpProbe s d h (.bank (o % 0x80000) 4 w.isSome)
    match w with
    | some v =>
      if f.clash ≠ [] then (collide s d h (o % 0x80000), 0, 0)
      else ({ s with arr.bank := memWrite s.arr.bank a (leBytes 4 v.toNat) }, 0, 0)
    | none =>
      let r := bankCheck s d f.ecc
      if r.2 then (r.1, 3, 0) else (r.1, 0, BitVec.ofNat 32 (leNat (memRead s.arr.bank a 4)))

/-- An access to a word of a stack (R259, R263). -/
def stackAccess (s : State) (rq : Requester) (d : Die) (o : Nat) (w : Option Word) (f : Finds) : State × Nat × Word :=
  let r := reachStatus s rq d
  if r ≠ 0 then (s, r, 0)
  else if o % 4 ≠ 0 then (s, 5, 0)
  else if 0x5C0000000 ≤ o then (s, 4, 0)
  else if proxied s d (48 + pcOf o / 4) then
    proxyAccess s d (48 + pcOf o / 4) { rq := rq, addr := 0x1000000000 + d.val * 0x800000000 + o, w := w, inspect := false }
  else
    match w with
    | some v => (writeHbm s d o (leBytes 4 v.toNat), 0, 0)
    | none =>
      let r := stackCheck s d o 4 f.ecc 0
      if r.2 then (r.1, 3, 0) else (r.1, 0, BitVec.ofNat 32 (leNat (readHbm s d o 4)))

/-- An access to a word of the internal address map (R15, R19, R252, R456). -/
def netAccess (s : State) (rq : Requester) (addr : Nat) (w : Option Word) (inspect : Bool) (f : Finds) : State × Nat × Word :=
  let d (hi : Bool) : Die := if hi then 1 else 0
  if 0x40000000 ≤ addr ∧ addr < 0x60000000 then regAccess s rq (d (bitOf addr 28)) (addr % 0x10000000) w inspect
  else if 0x80000000 ≤ addr ∧ addr < 0xA0000000 then bankAccess s rq (d (bitOf addr 28)) (addr % 0x10000000) w f
  else if 0x1000000000 ≤ addr ∧ addr < 0x2000000000 then stackAccess s rq (d (bitOf addr 35)) (addr % 0x800000000) w f
  else (s, 4, 0)

/-! ## The Diagnostic Window (R324, R325) -/

/-- An access through the Diagnostic Window. -/
def windowAccess (s : State) (off : Nat) (w : Option Word) (inspect : Bool) (f : Finds) : State × Nat × Word :=
  let d : Die := if bitOf off 25 then 1 else 0
  let o := off % 0x2000000
  if off < 0x4000000 then regAccess s .host d o w inspect
  else if 0x1200000 ≤ o then (s, 0, 0)
  else bankAccess s .host d o w f

/-- A failed access is recorded in DIAG_STAT (R323, R325). -/
def diagRecord (s : State) (off : Nat) (status : Nat) : State :=
  if status = 0 ∨ status = heldStatus then s
  else setReg s .DIAG_STAT 0 0 (BitVec.ofNat 32 (2 ^ 31 + status * 2 ^ 25 + off / 4))

/-- Is an access through the window one naturally aligned word (R322, R325)? -/
def diagAligned (off width : Nat) : Bool := decide (width = 4) && decide (off % 4 = 0)

/-- An access of another size or alignment reads all ones in each 4 bytes (R322). -/
def diagBadRead (s : State) (width : Nat) : State :=
  (List.range ((width + 3) / 4)).foldl (fun s _ => emit s (.value .host 0xFFFFFFFF)) (countF s fHOST_ERR_acc_err 0 0)

/-- The value of a read goes back to the host: all ones after a failure (R325), and nothing yet while a proxy holds it (R239). -/
def diagValue (s : State) (status : Nat) (v : Word) : State :=
  if status = heldStatus then s else emit s (.value .host (if status = 0 then v else 0xFFFFFFFF))

/-- A read through the Diagnostic Window. -/
def diagRead (s : State) (off width : Nat) (f : Finds) : State :=
  if !diagAligned off width then diagBadRead s width
  else
    let r := windowAccess s off none (flagF s fDIAG_CTL_inspect 0 0) f
    diagValue (diagRecord r.1 off r.2.1) r.2.1 r.2.2

/-- Is an access to the Host Window 4 or 8 bytes wide and naturally aligned (R322)? -/
def windowAligned (off width : Nat) : Bool := decide (width = 4 ∨ width = 8) && decide (off % width = 0)

/-- A read through the Host Window (R322): one of 8 bytes reads two words, the lower address first. -/
def windowRead (s : State) (off width : Nat) : State :=
  if !windowAligned off width then diagBadRead s width
  else
    (List.range (width / 4)).foldl (fun s k =>
      let r := placeRead s .host 0 false (.window (off + 4 * k))
      emit r.1 (.value .host r.2)) s

/-- A write of a word of the Host Window by the host. -/
def windowWord (s : State) (off : Nat) (v : Word) : State :=
  match regAt .bar0 off with
  | some (r, k) => regWriteAt s .host 0 r k v
  | none => s

/-- A write through the Host Window (R322). -/
def windowWrite (s : State) (off width : Nat) (v : BitVec 64) : State :=
  if !windowAligned off width then countF s fHOST_ERR_acc_err 0 0
  else (List.range (width / 4)).foldl (fun s k => windowWord s (off + 4 * k) (BitVec.ofNat 32 (v.toNat / 2 ^ (32 * k)))) s

/-- The low word of a 64-bit, non-prefetchable memory BAR of a size: the bits below the size are fixed. -/
def barLow (size : Nat) (w : Word) : Word := BitVec.ofNat 32 (w.toNat / size * size + 4)

/-- A word of the function's configuration space (R318): the identification, BAR 0 and BAR 2 and no other BAR or expansion ROM, at
the places of a PCI function's header (PRESUMED, log entry 269); what else stands there the manual leaves to the PCIe Base
Specification. -/
def configWord (s : State) (off : Nat) : Word :=
  let f := s.host.fn
  match off with
  | 0x00 => BitVec.ofNat 32 (f.device.toNat * 65536 + f.vendor.toNat)
  | 0x08 => BitVec.ofNat 32 (f.cls.toNat * 256 + f.revision.toNat)
  | 0x10 => barLow f.bar0 (Config.cfgWord off)
  | 0x18 => barLow f.bar2 (Config.cfgWord off)
  | 0x20 | 0x24 | 0x30 => 0
  | 0x2C => BitVec.ofNat 32 (f.subDevice.toNat * 65536 + f.subVendor.toNat)
  | _ => Config.cfgWord off

/-- A read of the host, by the memory that it names; the windows are there unless the function is in D3hot (R316). -/
def hostRead (s : State) (sp : HostSpace) (off width : Nat) (f : Finds) : State :=
  match sp with
  | .config => emit s (.value .host (configWord s (off % 4096 / 4 * 4)))
  | .window => if windowOpen s then windowRead s (off % 65536) width else s
  | .diag => if windowOpen s then diagRead s off width f else s

/-- DIAG_READ (R322, R325). -/
def execDiagRead (sp : HostSpace) (off : BitVec 27) (width : Fin 17) (f : Finds) (s : State) : Host.Outcome State Fault Refusal :=
  .next (hostRead s sp off.toNat width.val f)

/-- A write through the Diagnostic Window, ignored without the debug unlock. -/
def diagWrite (s : State) (off width : Nat) (v : Word) (f : Finds) : State :=
  if !diagAligned off width then countF s fHOST_ERR_acc_err 0 0
  else if !unlocked s then s
  else
    let r := windowAccess s off (some v) false f
    diagRecord r.1 off r.2.1

/-- A write of the host, by the memory that it names. What a write of the configuration space changes is the PCIe Base
Specification's, and no rule of the device depends on it. -/
def hostWrite (s : State) (sp : HostSpace) (off width : Nat) (v : BitVec 64) (f : Finds) : State :=
  match sp with
  | .config => s
  | .window => if windowOpen s then windowWrite s (off % 65536) width v else s
  | .diag => if windowOpen s then diagWrite s off width (v.setWidth 32) f else s

/-- DIAG_WRITE (R322, R325). -/
def execDiagWrite (sp : HostSpace) (off : BitVec 27) (width : Fin 17) (v : BitVec 64) (f : Finds) (s : State) :
    Host.Outcome State Fault Refusal := .next (hostWrite s sp off.toNat width.val v f)

end Sys2Proof.Machine
end

