-- ==== Sys2Proof/Machine/Packets.lean ====
section
/-! DEFINITION. What a packet does in the network and at its endpoint (R226 to R228, R233, R253), what crosses and arrives over the
Bredan link (R243, R244, R247), and the release of packets after a generation switch (R236). -/

namespace Sys2Proof.Machine

/-! ## Responses -/

/-- A response with status OK and data (R226). -/
def respondData (s : State) (p : Packet) (data : List Byte) : State := respond s p 0 data

/-! ## Memories -/

/-- The bytes that a write packet puts at its address: 64, or of 32 those that its mask enables (R226). -/
def writeBytes (p : Packet) (old : List Byte) : List Byte :=
  if p.op = 2 then
    let mask := fieldAt p.data 32 4
    (List.range 32).map (fun i => if bitOf mask i then p.data.getD i 0 else old.getD i 0)
  else if p.op = 1 then padTo 64 (p.data.take 64)
  else padTo (64 * (p.len.toNat + 1)) (p.data.take (64 * (p.len.toNat + 1)))

/-- The bytes that a read packet asks for (R226). -/
def readLen (p : Packet) : Nat := if p.op = 3 then 64 * (p.len.toNat + 1) else 64

/-- The bytes that a write leaves, with the 64-bit words that port A writes in its cycle kept from it (R253). -/
def keepClash (clash : List (Fin 8)) (old new : List Byte) : List Byte :=
  (List.range new.length).map (fun i => if clash.any (fun w => w.val = i / 8) then old.getD i 0 else new.getD i 0)

/-- A packet for the bank memory of a harness (R252 to R254), whose accesses on port B its comparators see (R461). -/
def bankPacket (s : State) (d : Die) (h : Nat) (p : Packet) (f : Finds) : State :=
  let o := p.addr.toNat * 64
  let a := bankAddr d h o
  if (getHar s d h).halted then countF (respond s p 1 []) fPROXY_STAT_asleep d h
  else if p.op = 0 ∨ p.op = 3 then
    if 0x80000 < o + readLen p then respond s p 4 []
    else
      let r := bankCheck (bpProbe s d h (.bank o (readLen p) false)) d f.ecc
      if r.2 then respond r.1 p 3 [] else respondData r.1 p (memRead s.arr.bank a (readLen p))
  else if p.op = 1 ∨ p.op = 2 then
    if 0x80000 < o + 64 then respond s p 4 []
    else
      let old := memRead s.arr.bank a 64
      let new := keepClash f.clash old (writeBytes p old)
      let s := bpProbe s d h (.bank o (writeBytes p old).length true)
      let s := if f.clash ≠ [] then collide s d h o else s
      respond { s with arr.bank := memWrite s.arr.bank a new } p 0 []
  else respond s p 5 []

/-- Where a 64-byte unit of a channel group's endpoint lies in its stack: of each 32 stripes in a row the group has the four that
R260 gives its pseudo-channels. In which order the endpoint counts its stripes the manual does not say (log entry 56). -/
def groupOff (g u : Nat) : Nat :=
  let t := Config.groupUnit g (u / 4)
  let k := t / 4
  256 * (32 * k + Nat.xor (4 * g + t % 4) (k % 32)) + 64 * (u % 4)

/-- The 64-byte units of a packet for a channel group: those of its flits, or of the response it asks for. -/
def groupUnits (g : Nat) (p : Packet) : List Nat := (List.range (p.len.toNat + 1)).map (fun k => groupOff g (p.addr.toNat + k))

/-- Write the bytes of a packet into the units of a channel group. -/
def writeUnits (s : State) (d : Die) (us : List Nat) (bs : List Byte) : State :=
  (us.zip (List.range us.length)).foldl (fun s e => writeHbm s d e.1 ((bs.drop (64 * e.2)).take 64)) s

/-- Check the units of a channel group that a packet reads (R262, R263): the granule that the access finds is counted along them. -/
def checkUnits (s : State) (d : Die) (us : List Nat) (f : Finds) : State × Bool :=
  (us.zip (List.range us.length)).foldl (fun r e =>
    let x := stackCheck r.1 d e.1 64 (if f.pos.toNat / 2 = e.2 then f.ecc else .clean) (f.pos.toNat % 2)
    (x.1, r.2 || x.2)) (s, false)

/-- A packet for a channel group of a stack (R259, R260, R263). -/
def stackPacket (s : State) (d : Die) (g : Nat) (p : Packet) (f : Finds) : State :=
  let us := groupUnits g p
  if us.any (fun u => decide (0x5C0000000 < u + 64)) then respond s p 4 []
  else if p.op = 0 ∨ p.op = 3 then
    let r := checkUnits s d us f
    if r.2 then respond r.1 p 3 [] else respondData r.1 p (us.flatMap (fun u => readHbm r.1 d u 64))
  else if p.op = 1 ∨ p.op = 2 ∨ p.cls = .spill then
    respond (writeUnits s d us (writeBytes p (readHbm s d (us.headD 0) 32))) p 0 []
  else respond s p 5 []

/-- A register access by packet (R226, R472): one aligned word. An access that a proxy holds is answered when the domain is ON. -/
def cfgPacket (s : State) (d : Die) (p : Packet) : State :=
  let v := BitVec.ofNat 32 (fieldAt p.data 0 4)
  if p.write ∧ p.data.length < 4 then respond s p 5 []
  else
    let off := p.addr.toNat * 64 + 4 * p.sub.toNat
    let r := regAccess s (epRequester p.src d) d off (if p.write then some v else none) p.inspect
    if r.2.1 = heldStatus then holdPacket s (domKey d 57) p
    else respond r.1 p r.2.1 (if p.write ∨ r.2.1 ≠ 0 then [] else leBytes 4 r.2.2.toNat)

/-! ## Words (R226) -/

/-- The bobbin that a block of words names (R140), as the copy on a die (R191). -/
def blockBob (s : State) (d : Die) (bs : List Byte) : Option Nat :=
  let n := fieldAt bs 0x30 2
  [n, n + 65536].find? (fun k => decide ((getBob s k).state ≠ .free) && decide ((getBob s k).die = d))

/-- Eight words for a bobbin: those that are not idle are written, with poison = 1 when a router found the packet damaged (R228). -/
def wordsPacket (s : State) (d : Die) (p : Packet) : State :=
  match blockBob s d p.data with
  | none => respond s p 4 []
  | some n =>
    let entry := decide ((getBob s n).prod ≠ .yarn)
    let ws := (blockWords p.data).filter (fun w => !tagIdle w.tag)
    let mark (w : TWord) : TWord := if p.poison then { w with tag := w.tag ||| 0x080 } else w
    respond (ws.foldl (fun s w => dropStalled (writeWord s n (mark w) entry) n) s) p 0 []

/-! ## Delivery -/

/-- Is the operation one of R226, in its own class? -/
def opKnown (p : Packet) : Bool :=
  match p.cls with
  | .request => decide (p.op.toNat < 7)
  | .spill => [0x10, 0x11, 0x12].contains p.op.toNat
  | .event => decide (p.op.toNat = 0x18)
  | .response => decide (p.op.toNat < 7) || [0x10, 0x11, 0x12].contains p.op.toNat

/-- Has the packet the length that its operation allows (R224, R226)? Of the requests only a burst read gives a length. -/
def lengthOk (p : Packet) : Bool := decide (p.cls ≠ .request) || decide (p.op = 3) || decide (p.len = 0)

/-- A request or spill-write that has passed the proxy of the domain with local index `i`. A semaphore changes in the step that
acquires or releases it, and the words of a gateway lane arrive with the reads of their bobbin; the answer to an atomic operation,
whose layout R226 does not give, is a free value (log entry 212). -/
def serveRequest (s : State) (d : Die) (i : Nat) (p : Packet) (f : Finds) : State :=
  if !opKnown p || !lengthOk p then respond s p 5 []
  else if p.op = 6 ∧ p.cls = .request then (if i = 57 ∨ 62 ≤ i then cfgPacket s d p else respond s p 4 [])
  else if p.op = 5 ∧ p.cls = .request then
    (if i = 57 then
      let f := freeValue s
      respond f.2 p 0 (leBytes 8 f.1.toNat)
    else respond s p 4 [])
  else if p.op = 4 ∧ p.cls = .request then
    (if i = 56 then wordsPacket s d p else if i < 36 then respond s p 0 [] else respond s p 4 [])
  else if i < 36 then (if p.cls = .spill then respond s p 4 [] else bankPacket s d i p f)
  else if 48 ≤ i ∧ i < 56 then stackPacket s d (i - 48) p f
  else respond s p 4 []

/-- A response reaches its requester: the token returns, and a response whose data a router found damaged completes the request with
ERROR (R228). -/
def takeResponse (s : State) (p : Packet) : State :=
  let s := forwardNext (dropAwait s (epDie p.dst) (BitVec.ofNat 8 p.dst.toNat) p.token) (epDie p.dst)
  if p.poison then emit s (.packet { p with status := 3 }) else s

/-- A packet that has passed the proxy of the domain with local index `i`. An event takes its slot; one whose data is damaged is
not delivered (R228, log entry 211). -/
def deliverPacket (s : State) (d : Die) (i : Nat) (p : Packet) (f : Finds) : State :=
  match p.cls with
  | .response => takeResponse s p
  | .event => if p.poison || !opKnown p then s else takeEvent s d (eventOf p) f.taken
  | .request | .spill => if p.poison && decide (p.op ≠ 4) then respond s p 3 [] else serveRequest s d i p f

/-- A packet reaches its endpoint's proxy (R222, R238). -/
def packetIn (s : State) (d : Die) (p : Packet) (f : Finds) : State :=
  match epDomain p.dst with
  | none => if isAsked p then respond s p 4 [] else s
  | some i => if proxied s d i then proxyTake s d i p else deliverPacket s d i p f

/-! ## Between the dies (R247, R248) -/

/-- A packet for a die that the link does not reach: requests are answered with UNREACHABLE by the half of die `d`, and others are
discarded and counted (R247, R472). -/
def lostPacket (s : State) (d : Die) (p : Packet) : State :=
  if isAsked p then respondAt (dropAwait s d (BitVec.ofNat 8 p.src.toNat) p.token) d p 2 [] else countF s fBRD_ERR_down_cnt d 0

/-- Does the half of a die forward a packet? Not while the link is DOWN or the other half is in reset; while the dies are split only
events cross (R247, R248, R472). -/
def halfForwards (s : State) (d : Die) (p : Packet) : Bool :=
  decide (linkState s d ≠ 0) && !dieHeld s (otherDie d) &&
    (decide (p.cls = .event) || (!apart s && !flagF s fBRD_STAT_split d 0))

/-- A packet for the other die reaches the link half. -/
def crossPacket (s : State) (d : Die) (p : Packet) : State :=
  if proxied s d 61 then proxyTake s d 61 p
  else if halfForwards s d p then forwardPacket s d p
  else lostPacket s d p

/-- A packet passes the network of a die by the tables of its generation (R233). One stamped with the next generation waits while a
switch runs (R236); one that the tables bring nowhere stays in the network until they do. One for a router number that the die does
not have finds no endpoint there (R227; DESIGN CHOICE, log entry 253). -/
def passNetwork (s : State) (d : Die) (p : Packet) (f : Finds) : State :=
  if flagF s fNOC_STAT_switching d 0 && decide (bitN p.gen ≠ getF s fNOC_STAT_gen d 0) then holdPacket s (130 + d.val) p
  else if noRouter d p then (if isAsked p then respondAt s d p 4 [] else s)
  else if !routed s d p then { s with net.stray := s.net.stray ++ [(d, p)] }
  else if epDie p.dst = d then packetIn s d p f
  else crossPacket s d p

/-- Packets that stayed in the network because the tables brought them nowhere go on once they do (R233, R235). -/
def passStray (s : State) (d : Die) : State :=
  let ps := s.net.stray.filter (fun e => decide (e.1 = d) && routed s d e.2)
  ps.foldl (fun s e => passNetwork s d e.2 cleanFinds) { s with net.stray := s.net.stray.filter (fun e => !ps.contains e) }

/-! ## Flit errors (R228) -/

/-- A router counts an uncorrectable error and keeps its number. -/
def flitUe (s : State) (d : Die) (router : Nat) : State :=
  setF (setF (countF s fNOC_ERR_ue_cnt d 0) fNOC_ERR_valid d 0 1) fNOC_ERR_router d 0 router

/-- What the routers on a packet's way find in its flits, in turn (R228): a corrected error is counted, one in the data marks the
packet poisoned, and one in the header discards it. -/
def passErrors (s : State) (d : Die) : List (Fin 42 × FlitErr) → Packet → State × Option Packet
  | [], p => (s, some p)
  | (_, .none) :: es, p => passErrors s d es p
  | (_, .corrected) :: es, p => passErrors (countF s fNOC_ERR_ce_cnt d 0) d es p
  | (r, .data) :: es, p => passErrors (flitUe s d r.val) d es { p with poison := true }
  | (r, .header) :: _, _ =>
    let s := flitUe s d r.val
    (raiseEvent s 0x0F d (BitVec.ofNat 32 r.val) (regRaw s .NOC_ERR d 0), none)

/-- A packet in the network of a die with what the routers find in it. -/
def passFound (s : State) (d : Die) (errs : List (Fin 42 × FlitErr)) (p : Packet) (f : Finds) : State :=
  match passErrors s d errs p with
  | (s, some p) => passNetwork s d p f
  | (s, none) => s

/-- A packet of the other die leaves the link half, which stamps it with its own die's generation as an injecting endpoint does
(R236). A packet that the other half sent as poisoned is poisoned here (R228; log entry 255). -/
def fromLink (s : State) (d : Die) (errs : List (Fin 42 × FlitErr)) (p : Packet) (f : Finds) : State :=
  let g := flagF s fNOC_STAT_gen d 0
  let o := getBrd s (otherDie d)
  let bad := o.marked.contains (headerOf p)
  let s := if bad then setBrd s (otherDie d) { o with marked := o.marked.erase (headerOf p) } else s
  passFound s d errs { p with poison := bad, gen := if flagF s fNOC_STAT_switching d 0 then !g else g } f

/-- A flit leaves the receiving half (R243): the last of its packet's flits makes the packet whole, in which the routers of this die
find `errs` and the memory that it reaches holds `x`. -/
def takeFlit (errs : List (Fin 42 × FlitErr)) (x : Finds) (s : State) (d : Die) (f : BitVec 576) : State :=
  let s := emit s (.flit d f)
  let b := getBrd s d
  let mine := b.rxq.filter (fun x => decide (flitHeader x = flitHeader f))
  if mine.length + 1 < flitsNeeded f then setBrd s d { b with rxq := b.rxq ++ [f] }
  else
    fromLink (setBrd s d { b with rxq := b.rxq.filter (fun x => decide (flitHeader x ≠ flitHeader f)) }) d errs
      (packetOf (flitHeader f) ((mine ++ [f]).flatMap flitData)) x

/-- A half receives a frame (R243, R244): its flits are released once its crc is right, and the next frame acknowledges it. -/
def frameReceive (s : State) (d : Die) (f : BitVec 4320) (errs : List (Fin 42 × FlitErr)) (found : Finds) : State :=
  if !linkUp s d then s
  else
    let b := getBrd s d
    let expected := decide (trailer f 11 0 = b.nextSeq.toNat)
    if !frameOk f then refuseFrame s d expected
    else if !expected then refuseFrame s d false
    else
      let s := setBrd s d { b with nextSeq := b.nextSeq + 1, naks := 0, waitSeq := false,
                                   crDue := creditsFor b.crDue (frameFlits f) }
      let s := (frameFlits f).foldl (fun s x => takeFlit errs found s d x) (passStray (takeTrailer s d f) d)
      sendFlits (sendFrame s d 1) d

/-- BREDAN_FRAME_RECEIVE (R244): a frame, and what the routers of the die find in the packets that it makes whole. -/
def execBredanFrameReceive (d : Die) (frame : BitVec 4320) (errs : List (Fin 42 × FlitErr)) (f : Finds) (s : State) :
    Host.Outcome State Fault Refusal :=
  .next (frameReceive s d frame errs f)

/-- NETWORK_PACKET_RECEIVE (R226): what the routers of the sender's die find in the packet, and the endpoint that takes it. A packet
is sent only where the network is ON and, for a request, with a free token (R231). -/
def packetReceive (s : State) (p : Packet) (errs : List (Fin 42 × FlitErr)) (f : Finds) : State :=
  let d := epDie p.src
  if !domOn s d 57 || dieHeld s d || !maySend s p then s
  else passFound (addAwait (passStray s d) p) d errs p f

/-- NETWORK_PACKET_RECEIVE (R226). -/
def execNetworkPacketReceive (p : Packet) (errs : List (Fin 42 × FlitErr)) (f : Finds) (s : State) :
    Host.Outcome State Fault Refusal :=
  .next (packetReceive s p errs f)

/-! ## The end of a generation switch (R236) -/

/-- GEN_SWITCH_COMPLETE (R236): every router has switched; the next generation is in force, and the packets that waited go on, on
their way and at their senders. -/
def genSwitchComplete (s : State) (d : Die) : State :=
  if !flagF s fNOC_STAT_switching d 0 || !allSwitched s d then s
  else
    let ps := heldPackets s (130 + d.val)
    let qs := heldPackets s (132 + d.val)
    let s := setF (setF s fNOC_STAT_gen d 0 (1 - getF s fNOC_STAT_gen d 0)) fNOC_STAT_switching d 0 0
    let s := wrapF s fNOC_STAT_sw_count d 0
    let s := { s with net.switched := s.net.switched.filter (fun e => decide (e.1 ≠ d.val)) }
    let s := setHeld (setHeld s (130 + d.val) []) (132 + d.val) []
    qs.foldl (fun s p => emit s (.packet p)) (ps.foldl (fun s p => passNetwork s d p cleanFinds) s)

/-- GEN_SWITCH_COMPLETE (R236). -/
def execGenSwitchComplete (d : Die) (s : State) : Host.Outcome State Fault Refusal := .next (genSwitchComplete s d)

end Sys2Proof.Machine
end

