-- ==== Sys2Proof/Machine/Debug.lean ====
section
/-! DEFINITION. The Selvedge wire (R446 to R457), the unlock (R458 to R460), and the halts, steps and resets that a probe asks for
(R463 to R467). A request row stands for a whole frame; its answer is the response frame. -/

namespace Sys2Proof.Machine

/-- Does the debug domain listen (R446)? -/
def svOn (s : State) : Bool := domOn s 0 64 && decide ((getOpts s 0).debug % 2 = 1)

/-! ## Frames (R449, R450) -/

/-- Is a low of `low` ns a break (R449)? In a frame it is measured against the frame's own unit time. -/
def isBreak (s : State) (low : Nat) : Bool :=
  decide (low ≤ 16000) && if s.dbg.framed then decide (7 * s.dbg.t ≤ 8 * low) else decide (3600 ≤ low)

/-- A low of the wire that is a break begins a frame; one longer than 16 µs abandons the frame in progress. -/
def svBreak (s : State) (low : Nat) : State :=
  if !svOn s then s
  else if isBreak s low then { s with dbg.session := true, dbg.framed := true, dbg.t := low }
  else if 16000 < low then { s with dbg.framed := false }
  else s

/-- BREAK (R449). -/
def execBrk (low : Nat) (s : State) : Host.Outcome State Fault Refusal := .next (svBreak s low)

/-- The frame in progress is abandoned. -/
def svAbandon (s : State) : State := if svOn s then { s with dbg.framed := false } else s

/-- SELVEDGE_IDLE_TIMEOUT (R450). -/
def execSelvedgeIdleTimeout (s : State) : Host.Outcome State Fault Refusal := .next (svAbandon s)

/-- SELVEDGE_FRAMING_ERROR (R449). -/
def execSelvedgeFramingError (s : State) : Host.Outcome State Fault Refusal := .next (svAbandon s)

/-! ## Requests (R451 to R455) -/

/-- The scopes in force, by the bits of R459: 0 WRITE, 1 HARD, 2 RUN. -/
def svScopes (s : State) : Nat := getF s fDBG_STAT_scope 0 0

/-- Are the scopes of a set of bits all in force? -/
def scopesHeld (s : State) (need : Nat) : Bool := decide (Nat.land (svScopes s) need = need)

/-- Is a request the one last executed: the same sequence bit and the same bytes (R453)? -/
def svRepeat (s : State) (q : SvReq) : Bool :=
  match s.dbg.last with
  | some l => decide (l.seq = q.seq) && decide (l.frame = q.frame)
  | none => false

/-- A request frame whose last byte has come. One whose CRC fails is answered with CRC_ERR and not kept. A request sent again
has the stored response, which for a HALT that is deferred has still to come. A new one is kept, and executed by `f` if its
form is right and the scopes of `need` are in force. -/
def svRequest (s : State) (q : SvReq) (need : Nat) (f : State → State) : State :=
  if !svOn s || !s.dbg.framed then s
  else
    let s := { s with dbg.framed := false }
    if crc8 q.frame ≠ q.crc.toNat then svSend s 1 []
    else if svRepeat s q then
      if s.dbg.haltFor.isSome then s else svSend s s.dbg.status s.dbg.resp
    else
      let s := { s with dbg.last := some q, dbg.haltFor := none }
      if !q.lenOk then svAnswer s 2 []
      else if !scopesHeld s need then svAnswer s 3 []
      else f s

/-- ID (R455): HW_ID and the serial number. -/
def svIdent (s : State) : State :=
  svAnswer s 0 ((([Reg.HW_ID, .SERIAL_LO, .SERIAL_HI].map (fun r => (regWord s .selvedge 0 r 0).toNat)).flatMap (leBytes 4)))

/-- ID (R455). -/
def execIdent (q : SvReq) (s : State) : Host.Outcome State Fault Refusal := .next (svRequest s q 0 svIdent)

/-- What word `k` of a request for several finds. -/
def findsOf (f : Finds) (k : Nat) : Finds := if f.pos.toNat = k then f else cleanFinds

/-- Read `n` words from an address, up to the first that fails: the state, the status of that one, and the bytes read (R456). `k`
counts the words. -/
def svReadWords (s : State) (inspect : Bool) (f : Finds) (k : Nat) : Nat → Nat → State × Nat × List Byte
  | _, 0 => (s, 0, [])
  | a, n + 1 =>
    let r := netAccess s .selvedge a none inspect (findsOf f k)
    if r.2.1 ≠ 0 then (r.1, r.2.1, [])
    else
      let x := svReadWords r.1 inspect f (k + 1) (a + 4) n
      (x.1, x.2.1, leBytes 4 r.2.2.toNat ++ x.2.2)

/-- READ: of the attribute bits only inspect is not reserved (R455, R456). -/
def svReadDo (s : State) (addr count attr : Nat) (f : Finds) : State :=
  if count = 0 ∨ 32 < count ∨ 2 ≤ attr then svAnswer s 2 []
  else
    let r := svReadWords s (bitOf attr 0) f 0 addr count
    if r.2.1 = 0 then svAnswer r.1 0 r.2.2
    else if r.2.1 = heldStatus then
      { r.1 with dbg.svWait := some { write := false, addr := addr, count := count, attr := attr, words := [] } }
    else svAnswer r.1 4 (r.2.2 ++ [BitVec.ofNat 8 r.2.1])

/-- READ (R456). -/
def execSvRead (q : SvReq) (addr : BitVec 48) (count : Byte) (attr : Byte) (f : Finds) (s : State) :
    Host.Outcome State Fault Refusal :=
  .next (svRequest s q 0 (fun s => svReadDo s addr.toNat count.toNat attr.toNat f))

/-- Write words from an address on, up to the first that fails: the state and the status of that one (R456). -/
def svWriteWords (s : State) (f : Finds) (k : Nat) : Nat → List Word → State × Nat
  | _, [] => (s, 0)
  | a, v :: vs =>
    let r := netAccess s .selvedge a (some v) false (findsOf f k)
    if r.2.1 ≠ 0 then (r.1, r.2.1) else svWriteWords r.1 f (k + 1) (a + 4) vs

/-- Is an address that of a breakpoint setting, which needs scope RUN (R459, R469)? -/
def bpAddress (a : Nat) : Bool :=
  let o := a % 0x10000000
  decide (0x40000000 ≤ a) && decide (a < 0x60000000) && decide (0x1C01000 ≤ o) && decide (o < 0x1C01000 + 36 * 0x200)

/-- WRITE (R455, R456). -/
def svWriteDo (s : State) (addr : Nat) (words : List Word) (f : Finds) : State :=
  if words = [] ∨ 32 < words.length then svAnswer s 2 []
  else if (List.range words.length).any (fun i => bpAddress (addr + 4 * i)) && !scopesHeld s 4 then svAnswer s 3 []
  else
    let r := svWriteWords s f 0 addr words
    if r.2 = 0 then svAnswer r.1 0 []
    else if r.2 = heldStatus then
      { r.1 with dbg.svWait := some { write := true, addr := addr, count := 0, attr := 0, words := words } }
    else svAnswer r.1 4 [BitVec.ofNat 8 r.2]

/-- WRITE (R456). -/
def execSvWrite (q : SvReq) (addr : BitVec 48) (words : List Word) (f : Finds) (s : State) :
    Host.Outcome State Fault Refusal :=
  .next (svRequest s q 1 (fun s => svWriteDo s addr.toNat words f))

/-- The request that waits for a domain goes on when the domain is ON: from its first word again, which no read of a bank or a stack
changes (R239, R456). -/
def svGoesOn (s : State) : State :=
  match s.dbg.svWait with
  | none => s
  | some x =>
    let s := { s with dbg.svWait := none }
    if x.write then svWriteDo s x.addr x.words cleanFinds else svReadDo s x.addr x.count x.attr cleanFinds

/-- The request that waits for a domain that stays OFF fails with ASLEEP. -/
def svAsleep (s : State) : State :=
  match s.dbg.svWait with
  | none => s
  | some _ => svAnswer { s with dbg.svWait := none } 4 [1]

/-- STATUS (R455): DBG_STAT, and the halted harnesses of both dies. -/
def svStatusDo (s : State) : State :=
  svAnswer s 0 (([dbgStat s, dbgHalt s 0 0 32, dbgHalt s 0 32 4, dbgHalt s 1 0 32, dbgHalt s 1 32 4].map (fun w => w.toNat)).flatMap
    (leBytes 4))

/-- STATUS (R455). -/
def execSvStatus (q : SvReq) (s : State) : Host.Outcome State Fault Refusal := .next (svRequest s q 0 svStatusDo)

/-! ## Unlock (R458 to R460) -/

/-- CHALLENGE (R458): a fresh nonce, which voids the one before. -/
def svChallenge (s : State) : State :=
  let k := s.free
  svAnswer { s with dbg.nonce := some k, free := k + 1 } 0 (leBytes 16 (Config.nonce k).toNat)

/-- CHALLENGE (R458). -/
def execChallenge (q : SvReq) (s : State) : Host.Outcome State Fault Refusal := .next (svRequest s q 0 svChallenge)

/-- Does an unlock verify: a nonce that is valid, a key whose digest is fused for the slot, and its signature over the nonce,
the serial number and the scope byte (R458)? -/
def unlockGood (s : State) (scope : Byte) (slot : Nat) (key sig : List Byte) : Bool :=
  match s.dbg.nonce with
  | none => false
  | some k =>
    decide (s.fuses.debugKeys.getD slot none = some (sha384Nat key)) &&
      ecdsaVerify key sig
        (sha384Nat (leBytes 16 (Config.nonce k).toNat ++ leBytes 8 s.fuses.serial.toNat ++ [scope]))

/-- The scopes of a request that are granted (R459). -/
def scopesGranted (s : State) (scope : Nat) : Nat :=
  let o := (getOpts s 0).debug
  let run := bitOf scope 2
  bitN (bitOf scope 0 && bitOf o 2) + 2 * bitN (bitOf scope 1 && bitOf o 1 && (run || scopesHeld s 4)) + 4 * bitN run

/-- An unlock failed; the third in a row locks unlocks out (R460). -/
def unlockFailed (s : State) : State :=
  let s := countF s fDBG_STAT_fails 0 0
  let n := s.dbg.fails + 1
  let s := if n < 3 then { s with dbg.fails := n } else setF { s with dbg.fails := 0 } fDBG_STAT_lockout 0 0 1
  svAnswer s 5 []

/-- UNLOCK (R458 to R460). The nonce serves one UNLOCK, also one that is locked out. -/
def svUnlock (s : State) (scope : Byte) (slot : Nat) (key sig : List Byte) : State :=
  let good := unlockGood s scope slot key sig
  if 8 ≤ scope.toNat ∨ 2 ≤ slot then svAnswer s 2 []
  else
    let s := { s with dbg.nonce := none }
    if flagF s fDBG_STAT_lockout 0 0 then svAnswer s 5 []
    else if !good then unlockFailed s
    else
      let g := scopesGranted s scope.toNat
      let s := setF { s with dbg.fails := 0 } fDBG_STAT_scope 0 0 (Nat.lor (svScopes s) g)
      svAnswer s (if g = scope.toNat then 0 else 3) []

/-- UNLOCK (R458). -/
def execUnlock (q : SvReq) (scope : Byte) (slot : Byte) (key : List Byte) (sig : List Byte) (s : State) :
    Host.Outcome State Fault Refusal := .next (svRequest s q 0 (fun s => svUnlock s scope slot.toNat key sig))

/-- LOCK (R447). -/
def svLock (s : State) : State := svAnswer (setF s fDBG_STAT_scope 0 0 0) 0 []

/-- LOCK (R455). -/
def execLock (q : SvReq) (s : State) : Host.Outcome State Fault Refusal := .next (svRequest s q 0 svLock)

/-- UNLOCK_LOCKOUT_END (R460). -/
def execUnlockLockoutEnd (s : State) : Host.Outcome State Fault Refusal :=
  .next (if flagF s fDBG_STAT_lockout 0 0 then setF s fDBG_STAT_lockout 0 0 0 else s)

/-- NONCE_EXPIRE (R458). -/
def execNonceExpire (s : State) : Host.Outcome State Fault Refusal := .next { s with dbg.nonce := none }

/-! ## Halt, resume and step (R463 to R467) -/

/-- Is a harness resetting or stepping (R454)? -/
def harBusy (s : State) (d : Die) (h : Nat) : Bool := (getHar s d h).inReset || decide (0 < (getHar s d h).stepping)

/-- Has a halt of a complex not completed, or is there no running complex to halt? -/
def coreBusy (s : State) (d : Die) : Bool := !coresRun s d || (getRt s d).haltWait.isSome

/-- HALT (R455, R463, R466). -/
def svHalt (s : State) (d : Die) (t : HaltTarget) (h : Nat) (hard linked : Bool) : State :=
  let all := List.range 36
  match t with
  | .control =>
    if coreBusy s d ∨ (getRt s d).halt ≠ .none then svAnswer s 6 []
    else
      let r := haltCore { s with dbg.haltFor := some d } d hard linked
      r.1
  | .harness =>
    if harBusy s d h || (getHar s d h).halted then svAnswer s 6 [] else svAnswer (haltHarness s d h) 0 []
  | .all =>
    if all.any (fun h => harBusy s d h) || all.all (fun h => (getHar s d h).halted) then svAnswer s 6 []
    else svAnswer (haltAll s d) 0 []

/-- HALT (R463). -/
def execHalt (q : SvReq) (d : Die) (t : HaltTarget) (h : Harn) (hard linked : Bool) (s : State) : Host.Outcome State Fault Refusal :=
  .next (svRequest s q (if hard then 6 else 4) (fun s => svHalt s d t h.val hard linked))

/-- A harness goes on where it stopped (R465). -/
def resumeHarness (s : State) (d : Die) (h : Nat) : State := modHar s d h (fun a => { a with halted := false })

/-- RESUME (R465, R466); one that is not halted goes on as it is. -/
def svResume (s : State) (d : Die) (t : HaltTarget) (h : Nat) : State :=
  let all := List.range 36
  match t with
  | .control =>
    if (getRt s d).haltWait.isSome then svAnswer s 6 []
    else svAnswer (if (getRt s d).halt = .none then s else resumeCore s d) 0 []
  | .harness => if harBusy s d h then svAnswer s 6 [] else svAnswer (resumeHarness s d h) 0 []
  | .all =>
    if all.any (fun h => harBusy s d h) then svAnswer s 6 []
    else svAnswer (all.foldl (fun s h => resumeHarness s d h) s) 0 []

/-- RESUME (R465). -/
def execResume (q : SvReq) (d : Die) (t : HaltTarget) (h : Harn) (s : State) : Host.Outcome State Fault Refusal :=
  .next (svRequest s q 4 (fun s => svResume s d t h.val))

/-- STEP (R465): a halted harness runs until its cycles have passed. -/
def svStepDo (s : State) (d : Die) (h cycles : Nat) : State :=
  if cycles = 0 then svAnswer s 2 []
  else if harBusy s d h || !(getHar s d h).halted then svAnswer s 6 []
  else svAnswer (modHar s d h (fun a => { a with stepping := cycles })) 0 []

/-- STEP (R465). -/
def execSvStep (q : SvReq) (d : Die) (h : Harn) (cycles : BitVec 16) (s : State) : Host.Outcome State Fault Refusal :=
  .next (svRequest s q 4 (fun s => svStepDo s d h.val cycles.toNat))

/-- STEP_DONE (R465): the harness has run its cycles and is halted again. -/
def execStepDone (d : Die) (h : Harn) (s : State) : Host.Outcome State Fault Refusal :=
  .next (if 0 < (getHar s d h.val).stepping then haltHarness s d h.val else s)

/-! ## The debug request source (R457) -/

/-- RST_ASSERT (R457): source 6 asserts at the level named, DEVICE to HARNESS, until RST_RELEASE. The answer is kept over the
reset, which the debug domain survives (R447). -/
def svAssert (s : State) (level : Nat) (d : Die) (h : Nat) : State :=
  match levelOf level with
  | some l =>
    if l = .power then svAnswer s 2 []
    else if s.dbg.rstHeld.isSome then svAnswer s 6 []
    else
      let har := if l = .harness then h else 0
      let a : Asserted := { src := 6, level := l, die := d, har := har }
      svAnswer (assertReset { s with dbg.rstHeld := some a } 6 { level := l, die := d, har := har }) 0 []
  | none => svAnswer s 2 []

/-- RST_ASSERT (R457). -/
def execRstAssert (q : SvReq) (level : Byte) (d : Die) (h : Harn) (s : State) : Host.Outcome State Fault Refusal :=
  .next (svRequest s q 4 (fun s => svAssert s level.toNat d h.val))

/-- RST_RELEASE (R457). -/
def svRelease (s : State) : State :=
  match s.dbg.rstHeld with
  | none => svAnswer s 0 []
  | some a => svAnswer (releaseReset { s with dbg.rstHeld := none } a) 0 []

/-- RST_RELEASE (R457). -/
def execRstRelease (q : SvReq) (s : State) : Host.Outcome State Fault Refusal := .next (svRequest s q 4 svRelease)

end Sys2Proof.Machine
end

