-- ==== Sys2Proof/Machine/Fetch.lean ====
section
/-! DEFINITION. The queue engine (R327, R330, R332, R333, R355): it fetches commands, checks their encoding, and completes, stages,
executes or hands over each; and the commands that wait in a mailbox for the complex that serves them. -/

namespace Sys2Proof.Machine

/-! ## The encoding of a command (R330, R335) -/

/-- A field of the 64 bytes of a command, at a byte offset. -/
def entryField (e : BitVec 512) (off bytes : Nat) : Nat := e.toNat / 2 ^ (8 * off) % 2 ^ (8 * bytes)

/-- The command that an entry of a submission queue spells. -/
def parseEntry (q : Qp) (e : BitVec 512) (buf : List Byte) (bufOk : Bool) : HostCmd :=
  let w := entryField e 0 4
  let n := entryField e 0x18 4
  { qp := q, cid := BitVec.ofNat 16 (w / 65536), atBeat := bitOf w 9, fence := bitOf w 8, opcode := BitVec.ofNat 8 w,
    beat := BitVec.ofNat 48 (entryField e 8 6), bufLen := BitVec.ofNat 32 n,
    ops := (List.range 9).map (fun i => BitVec.ofNat 32 (entryField e (0x1C + 4 * i) 4)), buf := buf.take n, bufOk := bufOk }

/-- The operand bits that the command table names, operand by operand; none for a reserved opcode (R335). -/
def opMasks (op : Nat) : Option (List Nat) :=
  match op with
  | 0x00 | 0x10 => some []
  | 0x01 => some [0xFFFFFFFE]
  | 0x02 => some [0x7, 0x1003F]
  | 0x11 | 0x12 | 0x13 | 0x14 | 0x15 | 0x17 | 0x21 | 0x22 | 0x24 => some [0xFFFF]
  | 0x16 => some [0xFFFF, 0xE0600700]
  | 0x20 => some [0xFFFF00F3, 0xFFFFFFFF, 0x1FFFF, 0xFFFF]
  | 0x23 => some [0xFFFF, 0x1FFFF]
  | 0x28 => some [0xFFFF007F]
  | 0x29 => some [0x8000013F, 0xFFFF, 0xFFFFFF, 0x1F]
  | 0x30 => some [0x1003F]
  | 0x31 => some [0x1003F, 0x1]
  | 0x32 => some [0x1773F]
  | 0x33 => some ([0x1003F] ++ List.replicate 7 0xFFFFFFFF ++ [0x7F])
  | 0x40 => some [0x1FFFF]
  | 0x41 => some [0x1137F]
  | 0x42 => some [0x13F87, 0xFFFFFFFF, 0xF]
  | 0x43 => some [0x1, 0x7FFFFF]
  | 0x44 => some [0xFFFFFF, 0xFFFF]
  | 0x45 => some [0x8000FFFF, 0xF]
  | 0x50 => some [0x7F, 0xFFFFFFFF, 0xFFFFFFFF, 0xFFFF]
  | 0x51 => some [0x37F, 0xFFFFFFFF, 0x1, 0xFFFFFFFF, 0xFFFFFFFF, 0xFFFFFFFF]
  | 0x52 => some [0x3F, 0xE0000000, 0xFFFFFFFF, 0xFFFFFFFF, 0xFFFFFFFF, 0xFFFFFFFF, 0xFFFFFFFF]
  | 0x53 => some [0x10FFF, 0xFFF]
  | 0x60 => some [0x10107, 0xFFFFFFFF]
  | 0x61 => some [0x1000F]
  | _ => none

/-- Are the operand bits that the table does not name 0? -/
def opsInMasks (c : HostCmd) (masks : List Nat) : Bool :=
  (List.range 9).all (fun i => decide (Nat.land (opOf c i) (0xFFFFFFFF - masks.getD i 0) = 0))

/-- Does each operand of a range keep the reserved bits and encodings of the register whose value it is? -/
def opsAsRegs (c : HostCmd) (rs : List (Nat × Reg)) : Bool := rs.all (fun x => regValueOk x.2 (opOf c x.1))

/-- Does PORT_TABLE name a table and entries of it, and does its buffer hold them (R335)? -/
def tableOpsOk (c : HostCmd) : Bool :=
  match portTableOf (bitsOf (opOf c 0) 9 8) with
  | some (_, limit, size) =>
    decide (bitsOf (opOf c 1) 15 0 + bitsOf (opOf c 1) 31 16 ≤ limit ∧ bitsOf (opOf c 1) 31 16 * size ≤ c.bufLen.toNat)
  | none => false

/-- Are the values of a command in their ranges, and is its buffer long enough (R334, R335)? -/
def opValuesOk (c : HostCmd) : Bool :=
  let o (i : Nat) : Nat := opOf c i
  let n := c.bufLen.toNat
  match c.opcode.toNat with
  | 0x02 => decide (1 ≤ o 0 % 8 ∧ o 0 % 8 ≤ 5)
  | 0x10 | 0x17 => decide (128 ≤ n)
  | 0x20 => decide (bitsOf (o 0) 1 0 < 2 ∧ 1 ≤ o 2 ∧ o 2 ≤ 65536) &&
      endOk (endTypeOf (bitsOf (o 0) 7 6)) (bitsOf (o 1) 15 0) && endOk (endTypeOf (bitsOf (o 0) 5 4)) (bitsOf (o 1) 31 16)
  | 0x23 => decide (1 ≤ o 1 ∧ o 1 ≤ 65536)
  | 0x24 => decide (64 ≤ n)
  | 0x28 => decide (bitsOf (o 0) 6 5 ≠ 3 ∧ n % 4 = 0 ∧ 4 ≤ n ∧ n ≤ 16384)
  | 0x29 => bitOf (o 0) 31 || decide (6 ≤ o 3 ∧ o 3 ≤ 16)
  | 0x33 => opsAsRegs c [(1, .TSEQ_CTL), (2, .TSEQ_SRC_LO), (3, .TSEQ_SRC_HI), (4, .TSEQ_URG_LO), (5, .TSEQ_URG_HI),
      (6, .TSEQ_LANE_LO), (7, .TSEQ_LANE_HI)] && decide (o 8 = 0 ∨ (16 ≤ o 8 ∧ o 8 ≤ 120))
  | 0x40 => decide (10 ≤ o 0 ∧ o 0 ≤ 100000)
  | 0x41 => decide (bitsOf (o 0) 9 8 ≠ 3)
  | 0x50 => regValueOk .PCFG (o 1)
  | 0x42 => decide (bitsOf (o 0) 12 11 ≠ 3 ∧ bitsOf (o 0) 10 7 ≠ 0) && opsAsRegs c [(1, .MT_HSEL_LO), (2, .MT_HSEL_HI)]
  | 0x51 => tableOpsOk c && opsAsRegs c [(3, .QBV_BASE_NS), (5, .QBV_CYCLE)]
  | 0x52 => ringOpsOk c
  | 0x53 => decide (32 * o 1 ≤ n ∧ bitsOf (o 0) 11 0 + o 1 ≤ 3072)
  | 0x60 => decide (o 0 % 8 ≤ 4)
  | _ => true

/-- Does a command take data from its buffer? -/
def takesBuffer (op : Nat) : Bool := [0x10, 0x28, 0x30, 0x51, 0x53, 0x60].contains op

/-- The check at the fetch (R332): the status with which the command completes at once, if it does. -/
def fetchCheck (e : BitVec 512) (c : HostCmd) : Option Nat :=
  let w := entryField e 0 4
  match opMasks c.opcode.toNat with
  | none => some 1
  | some masks =>
    if bitsOf w 15 10 ≠ 0 ∨ entryField e 4 4 ≠ 0 ∨ entryField e 14 2 ≠ 0 ∨ entryField e 0x10 8 % 8 ≠ 0 then some 2
    else if !opsInMasks c masks || !opValuesOk c then some 2
    else if takesBuffer c.opcode.toNat && !c.bufOk then some 8
    else none

/-! ## Which complex serves a command (R355) -/

/-- The die of a bobbin that exists. -/
def bobHome (s : State) (b : Nat) : Option Die := if (getBob s b).state = .free then none else some (getBob s b).die

/-- The die that a command names: by a die operand, by the home die of its yarn, or by the die of its bobbin (R355). -/
def namedDie (s : State) (c : HostCmd) : Option Die :=
  let o := opOf c 0
  match c.opcode.toNat with
  | 0x02 => if [2, 4, 5].contains (o % 8) then some (opDie c 1) else none
  | 0x10 => some (yarnOfDesc c.buf).homeDie
  | 0x11 | 0x12 | 0x13 | 0x14 | 0x15 | 0x16 | 0x17 | 0x45 => yarnHome s (bitsOf o 15 0)
  | 0x20 =>
    match dieFor s (endTypeOf (bitsOf o 7 6)) (endTypeOf (bitsOf o 5 4)) (bitsOf (opOf c 1) 15 0) (bitsOf (opOf c 1) 31 16) with
    | .inl d => some d
    | .inr _ => none
  | 0x21 | 0x22 | 0x23 | 0x24 => bobHome s (bitsOf o 15 0)
  | 0x28 => bobHome s (bitsOf o 31 16)
  | 0x29 => bobHome s (if bitOf o 31 then (getRegion s (bitsOf o 5 0)).bob else opOf c 1)
  | 0x30 | 0x31 | 0x32 | 0x33 | 0x41 | 0x42 | 0x53 | 0x60 | 0x61 => some (opDie c 0)
  | _ => none

/-- The die on which a command that names none acts: that of its port, ring or stack. -/
def actsOn (c : HostCmd) : Option Die :=
  match c.opcode.toNat with
  | 0x43 => some (if bitOf (opOf c 0) 0 then 1 else 0)
  | 0x50 | 0x51 => if opPort c < 96 then some (portDie (opPort c)) else none
  | 0x52 => if bitsOf (opOf c 0) 5 0 < 48 then some (ringDie (bitsOf (opOf c 0) 5 0)) else none
  | _ => none

/-- The die whose complex serves a command; one that names no die is served by die 0's. -/
def servingDie (s : State) (c : HostCmd) : Die := (namedDie s c).getD 0

/-- The status of a command that is turned away (R333): the die that it names is being updated, or it needs die 1, which is
split off or lost. -/
def turnedAway (s : State) (c : HostCmd) : Option Nat :=
  if (namedDie s c).any (fun d => (getBeat s d).update.isSome) then some 0xA
  else if (namedDie s c = some 1 ∨ actsOn c = some 1) ∧ apart s then some 9
  else none

/-! ## Execution -/

/-- The effect of a command of the host (R335), by its opcode. -/
def applyCmd (s : State) (c : HostCmd) : State :=
  match c.opcode.toNat with
  | 0x00 => nop s c
  | 0x01 => eventSub s c
  | 0x02 => resetOp s c
  | 0x10 => yarnCreate s c
  | 0x11 => yarnStart s c
  | 0x12 => yarnHold s c
  | 0x13 => yarnResume s c
  | 0x14 => yarnRestart s c
  | 0x15 => yarnDelete s c
  | 0x16 => yarnModify s c
  | 0x17 => yarnQuery s c
  | 0x20 => bobCreate s c
  | 0x21 => bobDelete s c
  | 0x22 => bobFlush s c
  | 0x23 => bobResize s c
  | 0x24 => bobQuery s c
  | 0x28 => itemPush s c
  | 0x29 => regionMap s c
  | 0x30 => draftLoad s c
  | 0x31 => draftSwap s c
  | 0x32 => darn s c
  | 0x33 => harnessCfg s c
  | 0x40 => beatSet s c
  | 0x41 => domainSet s c
  | 0x42 => memTest s c
  | 0x43 => windowSet s c
  | 0x44 => beatwinSet s c
  | 0x45 => beatwinPub s c
  | 0x50 => portCfg s c
  | 0x51 => portTable s c
  | 0x52 => ringCfg s c
  | 0x53 => nodeSet s c
  | 0x60 => nvWrite s c
  | 0x61 => dieUpdate s c
  | _ => finish s c 1 0

/-- A command whose completion will not be written (R329, R343) has its effect; what it posted is taken back, and what it waits
for ends without a completion. -/
def applyMute (s : State) (c : HostCmd) : State :=
  let q := c.qp.val
  let p := getQp s q
  let n := s.host.waits.length
  let t := applyCmd s c
  let r := getQp t q
  let t := setQp t q { r with waiting := p.waiting ++ (r.waiting.drop p.waiting.length).filter (fun x => x.event.isSome),
                              inFlight := p.inFlight }
  let t := { t with host.waits := t.host.waits.take n ++ (t.host.waits.drop n).map (fun w => { w with mute := true }) }
  drainQp t q

/-- Execute an immediate command at once, or hand it to its complex, which serves its commands in the order they came. -/
def handOver (s : State) (c : HostCmd) : State :=
  let d := servingDie s c
  if d = 0 ∧ (getRt s 0).mailbox = [] ∧ fwRuns s 0 then applyCmd s c
  else modRt s d (fun r => { r with mailbox := r.mailbox ++ [{ cmd := c, mute := false }] })

/-! ## Fetching (R327, R332) -/

/-- Does a complex's halt keep a command waiting (R333, R466)? -/
def haltHolds (s : State) (d : Die) (level : Nat) : Bool := decide ((getRt s d).halt ≠ .none) && !fwAt s d level

/-- Does a command of the queue pair wait for a halted complex, and the later ones behind it (R333)? -/
def qpBlocked (s : State) (q : Nat) : Bool :=
  [(0 : Die), 1].any (fun d => haltHolds s d 4 && (getRt s d).mailbox.any (fun m => decide (m.cmd.qp.val = q))) ||
    s.host.staged.any (fun x => decide (x.cmd.qp.val = q) && haltHolds s (servingDie s x.cmd) 1)

/-- Can the queue engine fetch from a queue pair? -/
def canFetch (s : State) (q : Nat) : Bool :=
  windowOpen s && !s.rst.dozing && !s.rst.vigil && !hostHeld s && qpEnabled s q && flagF s fQP_STAT_ready 0 q &&
    !(getQp s q).stopped && decide (getF s fQP_STAT_sq_head 0 q ≠ (getQp s q).sqTail) &&
    decide (s.host.staged.length < 1024) && !qpBlocked s q

/-- The next entry of a queue pair is fetched: sq_head advances, and the command goes its way. -/
def takeEntry (s : State) (q : Qp) (e : BitVec 512) (c : HostCmd) : State :=
  let h := getF s fQP_STAT_sq_head 0 q.val + 1
  let s := setF s fQP_STAT_sq_head 0 q.val (if h = sqDepth s q.val then 0 else h)
  let s := setQp s q.val { getQp s q.val with inFlight := (getQp s q.val).inFlight + 1 }
  match fetchCheck e c with
  | some code => finish s c code 0
  | none =>
    match turnedAway s c with
    | some code => finish s c code 0
    | none =>
      if isStaged c.opcode.toNat then { s with host.staged := s.host.staged ++ [{ cmd := c, tick := s.vigil.ticks }] }
      else handOver s c

/-- COMMAND_FETCH: `ok` is false when the read of the queue fails or is poisoned (R326). A fenced command waits until every
earlier one of its queue pair has completed (R330). -/
def commandFetch (s : State) (q : Qp) (e : BitVec 512) (ok : Bool) (buf : List Byte) (bufOk : Bool) : State :=
  let c := parseEntry q e buf bufOk
  if !canFetch s q.val then s
  else if !ok then stopQp s q.val 2
  else if c.fence && decide (0 < (getQp s q.val).inFlight) then s
  else takeEntry s q e c

/-- COMMAND_FETCH (R332). -/
def execCommandFetch (q : Qp) (entry : BitVec 512) (ok : Bool) (buf : List Byte) (bufOk : Bool) (s : State) :
    Host.Outcome State Fault Refusal := .next (commandFetch s q entry ok buf bufOk)

/-- MAILBOX_MESSAGE: the complex of a die serves the first command handed to it, if it runs; one for die 1 while that is split
off or lost is UNREACHABLE (R333, R355). -/
def mailboxMessage (s : State) (d : Die) : State :=
  match (getRt s d).mailbox with
  | [] => s
  | m :: ms =>
    let t := modRt s d (fun r => { r with mailbox := ms })
    if d = 1 ∧ apart s then (if m.mute then drainQp t m.cmd.qp.val else finish t m.cmd 9 0)
    else if !fwRuns s d then s
    else if m.mute then applyMute t m.cmd
    else applyCmd t m.cmd

/-- MAILBOX_MESSAGE (R355). -/
def execMailboxMessage (d : Die) (s : State) : Host.Outcome State Fault Refusal := .next (mailboxMessage s d)

end Sys2Proof.Machine
end

