-- ==== Sys2Proof/Machine/Boundary.lean ====
section
/-! DEFINITION. The beat boundary (R156 to R165, R177, R179, R193): time, beat numbers, the rejoin of the dies, armed swaps, staged
commands (R332), beat marks, and the cuts that are taken at the boundary itself. -/

namespace Sys2Proof.Machine

/-! ## Time (R156, R440) -/

/-- `k` ticks of the time counter at once, with the edges of VGL_PPS_OUT that fall in them (R440, R442). -/
def passTicks (s : State) (k : Nat) : State :=
  if k = 0 then s
  else
    let inc := getF s fVGL_INC_inc 0 0
    let v := putTime s.vigil (nextTime s + ((k - 1) * inc : Nat))
    let rise := decide (v.seconds ≠ s.vigil.seconds) && flagF s fVGL_CTL_pps_en 0 0
    let h := s.vigil.ppsHigh
    let left := getF s fVGL_CTL_pps_w 0 0 * 25000 - (v.ns * 2 ^ 24 + v.frac) / max inc 1
    let h' := if rise then left else h - k
    let s := { s with vigil := { v with load := false, step := none, ticks := v.ticks + k, ppsHigh := h' } }
    let s := if rise && decide (h = 0) then emit s (.pps true) else s
    timersAt (if (rise || decide (0 < h)) && decide (h' = 0) then emit s (.pps false) else s)

/-- The ticks in which the counter advances by the beat period (R156, R158): 25 for each µs at the nominal VGL_INC. -/
def periodTicks (s : State) : Nat :=
  let inc := max (getF s fVGL_INC_inc 0 0) 1
  (getF s fDEV_PERIOD_period 0 0 * 1000 * 2 ^ 24 + (inc - 1)) / inc

/-- The time counter reaches a tick. -/
def passTo (s : State) (t : Nat) : State := passTicks s (t - s.vigil.ticks)

/-! ## Beat numbers (R156, R179) -/

/-- The number of a die's next beat. -/
def nextNum (s : State) (d : Die) : BitVec 48 :=
  match (getBeat s d).nums with
  | [] => 0
  | (_, n) :: _ => n + 1

/-- A die begins a beat; its link half announces the boundary in its next frame (R242). -/
def beginBeat (s : State) (d : Die) (num : BitVec 48) : State :=
  modBeat (setBrd s d { getBrd s d with bnd := some (num.setWidth 16) }) d (fun b =>
    { b with ord := b.ord + 1, nums := (b.ord + 1, num) :: b.nums, lastTick := s.vigil.ticks })

/-- Is this boundary of die 0, with the number it begins, the rejoin boundary of die 1 (R179)? A die 1 that was reset must have
been restored (R418). -/
def rejoinsAt (s : State) (num : BitVec 48) : Bool :=
  match (getBeat s 1).rejoinMod with
  | none => false
  | some m => linkUp s 1 && !s.rst.restore.contains 1 && decide (dieState s 1 = 2) && (decide (m = 3) || decide (num.toNat % 3 = m))

/-- The dies of which this is a boundary: die 0's is also die 1's while they run together, and die 1 has its own while it runs
alone and no rejoin boundary has been chosen (R158, R179). -/
def boundaryDies (s : State) (d : Die) : List Die :=
  let b (d : Die) := getBeat s d
  if d = 0 then
    if !(b 0).started then []
    else if rejoinsAt s (nextNum s 0) || ((b 1).started && !apart s && (b 1).rejoinMod.isNone) then [0, 1]
    else [0]
  else if (b 1).started && (b 1).rejoinMod.isNone && (apart s || !(b 0).started) then [1]
  else []

/-- The dies have rejoined: commits are joint from the beats that begin here, every class crosses the link, and crossing yarns
return to RUN (R178, R179, R248). -/
def rejoinHere (s : State) : State :=
  let s := [(0 : Die), 1].foldl (fun s d =>
    let s := setF (setF (setF s fBRD_STAT_split d 0 0) fBRD_STAT_rejoin_pend d 0 0) fBEAT_STAT_peer_lost d 0 0
    modBeat s d (fun b => { b with joint := b.ord, readyMsg := [], commitMsg := [], rejoinMod := none, started := true })) s
  joinAgain s

/-- Commits that are late at this boundary (R177): the beat before the last one has not committed. -/
def lateCommit (s : State) (alone : Bool) (d : Die) : State :=
  let b := getBeat s d
  if b.ord < 3 ∨ b.ord - 2 ≤ b.cmt then s
  else
    let s := countF (setF s fBEAT_STAT_late d 0 1) fBEAT_STAT_late_cnt d 0
    if d = 0 ∨ alone then raiseEvent s 0x02 d 0 (BitVec.ofNat 32 (numOfOrd s d (b.ord - 2)).toNat) else s

/-- The firmware's copy of the descriptors of a die as of the end of a beat, kept until a later one may be needed (R418). -/
def saveDescs (s : State) (d : Die) : State :=
  let b := getBeat s d
  let x : DescCopy := { die := d, ord := b.ord, yarns := s.flow.yarns.filter (fun e => decide (e.1 % 2 = d.val)),
                        bobs := s.flow.bobs.filter (fun e => decide (e.2.die = d)) }
  { s with mem.descs := s.mem.descs.filter (fun y => decide (y.die ≠ d) || decide (b.cmt < y.ord)) ++ [x] }

/-! ## Staged commands (R332) -/

/-- The number of staged commands that one boundary applies, by the period in µs. -/
def stagedLimit (p : Nat) : Nat := min 256 (258 / ((50 + p - 1) / p))

/-- Is a staged command due: fetched at least 10 µs before, and not held for a later beat? -/
def stagedDue (s : State) (x : Staged) : Bool :=
  decide (x.tick + 250 ≤ s.vigil.ticks) && (!x.cmd.atBeat || decide (x.cmd.beat.toNat ≤ (beatNum s 0).toNat))

/-- What remains of a boundary's work on staged commands: how many more it applies, those that wait, and the queue pairs whose
commands wait for a halted complex. -/
structure StagedWork where
  left : Nat
  kept : List Staged
  held : List Nat
  deriving DecidableEq, Repr

/-- One staged command at a boundary (R332, R333). One whose complex is halted holds its queue pair's later commands; one whose
complex is in reset waits, and the commands that the other complex serves go on (R355). -/
def stagedOne (r : State × StagedWork) (x : Staged) : State × StagedWork :=
  let s := r.1
  let w := r.2
  let q := x.cmd.qp.val
  let keep : StagedWork := { w with kept := w.kept ++ [x] }
  if !stagedDue s x || decide (w.left = 0) || w.held.contains q then (s, keep)
  else
    match turnedAway s x.cmd with
    | some code => (failStaged s x.cmd code 0, { w with left := w.left - 1 })
    | none =>
      let d := servingDie s x.cmd
      if !fwAt s d 1 then (s, if haltHolds s d 1 then { keep with held := keep.held ++ [q] } else keep)
      else (applyCmd s x.cmd, { w with left := w.left - 1 })

/-- Staged commands are applied in rising order of queue pair, and in order of fetch within each (R332). -/
def applyStaged (s : State) : State :=
  let xs := (List.range 16).flatMap (fun q => s.host.staged.filter (fun x => decide (x.cmd.qp.val = q)))
  let n := stagedLimit (getF s fDEV_PERIOD_period 0 0)
  let r := xs.foldl stagedOne ({ s with host.staged := [] }, { left := n, kept := [], held := [] })
  { r.1 with host.staged := r.2.kept ++ r.1.host.staged }

/-! ## Twins after a rejoin (R193) -/

/-- The copy of a twin yarn that is not primary is restored from the primary's (R193). -/
def resyncTwin (s : State) (n : Nat) : State :=
  resyncFrom s (if (getYarn s 0 n).state ≠ .free then (getYarn s 0 n).homeDie else (getYarn s 1 n).homeDie) n

/-- Every twin yarn at the first boundary after a rejoin. -/
def resyncTwins (s : State) : State :=
  ((s.flow.yarns.filter (fun e => decide (e.2.prot = 2))).map (fun e => e.1 / 2)).dedup.foldl resyncTwin s

/-! ## Marks and cuts (R159, R162, R164) -/

/-- A mark goes into every entry-fed bobbin of a die (R159). -/
def markBobs (s : State) (d : Die) : State :=
  let b := getBeat s d
  ((s.flow.bobs.filter (fun e => decide (e.2.die = d) && decide (e.2.prod ≠ .yarn))).map (fun e => e.1)).foldl
    (fun s n => writeMark s n (numOfOrd s d b.ord) b.ord) s

/-- The cuts that a boundary itself takes: those of yarns that are not running, and of running yarns that have neither an input
bobbin nor a table (R162, R164). -/
def boundaryCuts (s : State) (d : Die) : State :=
  (yarnsOn s d).foldl (fun s e =>
    let y := e.2
    let bare := y.ins.all (fun i => i.isNone) && !tableFed y
    if restoring s d e.1 || (cutsAtMarks y && !bare) then s
    else updateAtCut (takeCuts s d e.1 (getBeat s d).ord) d e.1) s

/-! ## The boundary (R165) -/

/-- Is the device awake? -/
def beatsRun (s : State) : Bool := !s.rst.dozing && !s.rst.vigil && decide (getF s fVGL_PWR_state 0 0 = 0)

/-- What the dies of a boundary do at it: step 1 to step 3 of R165. -/
def boundaryOn (s : State) (ds : List Die) (num : BitVec 48) : State :=
  let rejoin := decide (ds = [0, 1]) && (getBeat s 1).rejoinMod.isSome
  let zero := ds.contains 0
  let s := ds.foldl (fun s d => beginBeat s d num) s
  let s := if rejoin then rejoinHere s else s
  let s := if zero then setF s fDEV_PERIOD_period 0 0 (getF s fBEAT_CTL_period 0 0) else s
  let s := ds.foldl (lateCommit · (!zero)) s
  let s := ds.foldl saveDescs s
  let s := ds.foldl startSwaps s
  let s := if zero then applyStaged s else s
  let s := if rejoin then resyncTwins s else s
  let s := ds.foldl markBobs s
  ds.foldl boundaryCuts s

/-- The boundary of a die: it lies a period after the one before, and stands for the ticks that have not come by then. The beat
engine of a yarn engine domain that does not work has none (R212). -/
def beatBoundary (s : State) (d : Die) : State :=
  let ds := boundaryDies s d
  if !beatsRun s || ds.isEmpty || !ds.all (fun d => domWorks s d 56) then s
  else
    let b := getBeat s d
    let s := if b.nums = [] then s else passTo s (b.lastTick + periodTicks s)
    boundaryOn s ds (nextNum s d)

/-- BEAT_BOUNDARY (R165). -/
def execBeatBoundary (d : Die) (s : State) : Host.Outcome State Fault Refusal := .next (beatBoundary s d)

end Sys2Proof.Machine
end

