-- ==== Sys2Proof/Machine/Cores.lean ====
section
/-! DEFINITION. What the firmware of a complex does that the manual gives a meaning: the memories that its cores reach (R346), calls
and returns (R349), the spill regions (R350), the event lines and timers (R353); failed accesses, which enter fault entry (R351); and
the end of a handler with the errors that it met (R347). -/

namespace Sys2Proof.Machine

/-- Where an internal address lies for a core: in its boot ROM, ITCM or DTCM, at an offset, or on the network (R346). -/
inductive CorePlace where
  | rom (o : Nat)
  | itcm (o : Nat)
  | dtcm (o : Nat)
  | net
  deriving DecidableEq, Repr

/-- The place of an internal address (R346). -/
def corePlace (a : Nat) : CorePlace :=
  if a < 0x10000 then .rom a
  else if 0x100000 ≤ a ∧ a < 0x200000 then .itcm (a - 0x100000)
  else if 0x200000 ≤ a ∧ a < 0x300000 then .dtcm (a - 0x200000)
  else .net

/-- The requester that a core of a die is to the die that an address names. -/
def coreRq (d : Die) (a : Nat) : Requester :=
  let x : Die := if bitOf a (if a < 0x1000000000 then 28 else 35) then 1 else 0
  if x = d then .fwOwn else .fwOther

/-- Write a register of the current window of the running bank (R349). -/
def setCoreReg (s : State) (d : Die) (r : Fin 16) (v : BitVec 64) : State :=
  modRt s d (fun t =>
    let b := runLevel t
    { t with windows := sparseSet (fun _ => 0) t.windows ((b * 8 + (t.window.getD b 0).val) * 16 + r.val) v })

/-- A load of a core into a register: 8 bytes of its own memories, or a word of the network. One that fails enters fault entry
(R351), as does one of its own memories that is not aligned (DESIGN CHOICE, log entry 270). -/
def coreLoad (s : State) (d : Die) (a : Nat) (r : Fin 16) (f : Finds) : State :=
  let put (bs : List Byte) : State := if a % 8 = 0 then setCoreReg s d r (BitVec.ofNat 64 (leNat bs)) else enterFault s d
  match corePlace a with
  | .rom o => put ((List.range 8).map (fun i => Config.bootRom d.val (o + i)))
  | .itcm o => put (memRead s.mem.itcm (d.val * 0x100000 + o) 8)
  | .dtcm o => put (memRead s.mem.dtcm (d.val * 0x100000 + o) 8)
  | .net =>
    let x := netAccess s (coreRq d a) a none false f
    if x.2.1 = 0 then setCoreReg x.1 d r (x.2.2.setWidth 64) else if x.2.1 = heldStatus then x.1 else enterFault x.1 d

/-- A store of a core: 8 bytes of its own memories, or a word of the network. One that fails enters fault entry (R351). -/
def coreStore (s : State) (d : Die) (a : Nat) (v : BitVec 64) (f : Finds) : State :=
  let bs := leBytes 8 v.toNat
  match corePlace a with
  | .rom _ => enterFault s d
  | .itcm o =>
    if a % 8 = 0 then { s with mem.itcm := memWrite s.mem.itcm (d.val * 0x100000 + o) bs } else enterFault s d
  | .dtcm o =>
    if a % 8 = 0 then { s with mem.dtcm := memWrite s.mem.dtcm (d.val * 0x100000 + o) bs } else enterFault s d
  | .net =>
    let x := netAccess s (coreRq d a) a (some (v.setWidth 32)) false f
    if x.2.1 = 0 ∨ x.2.1 = heldStatus then x.1 else enterFault x.1 d

/-- The firmware gives a bank its spill region (R350). -/
def setSpill (s : State) (d : Die) (bank base limit : Nat) : State :=
  spillEngine (setF (modRt s d (fun r => { r with spillAt := listSet r.spillAt bank base })) fRT_SPILL_limit d bank limit) d bank

/-- The firmware sets a timer, or stops it (R353): 25 ticks a µs. -/
def setTimer (s : State) (d : Die) (t : Nat) (us : Option Nat) : State :=
  modRt s d (fun r => { r with timers := sparseSet (fun _ => none) r.timers t (us.map (fun n => s.vigil.ticks + 25 * n)) })

/-- One thing that the running code of a complex does, while its cores run. -/
def coreAct (d : Die) (s : State) (a : CoreAct) : State :=
  if !coresRun s d then s
  else
    match a with
    | .call => coreCall s d
    | .ret => coreReturn s d
    | .setReg r v => setCoreReg s d r v
    | .load a r f => coreLoad s d a.toNat r f
    | .store a v f => coreStore s d a.toNat v f
    | .region b base limit => setSpill s d b.val base.toNat limit.toNat
    | .line l level fault => modRt s d (fun r => { r with lineSet := sparseSet (fun _ => none) r.lineSet l.val (some (level, fault)) })
    | .timer t us => setTimer s d t.val us

/-- What reads of the tightly coupled memories found (R347): `ce` words were corrected, and a word of the ITCM (false) or DTCM
(true) that cannot be corrected asserts control lock-up. -/
def tcmErrors (s : State) (d : Die) (ce : Nat) (ue : Option Bool) : State :=
  let s := addF s fRT_ERR_ce d 0 ce
  match ue with
  | none => s
  | some dtcm => lockUp s d (if dtcm then 4 else 3)

/-- The running handler, or the idle loop of level 7, has done what `acts` says and yields, and its reads found what R347
records; an error that the boot ROM meets is recorded too (R359). -/
def handlerEnd (s : State) (d : Die) (acts : List CoreAct) (ce : Nat) (ue : Option Bool) : State :=
  if bootRuns s d then tcmErrors s d ce ue
  else if !coresRun s d then s
  else
    let t := acts.foldl (coreAct d) s
    if !coresRun t d then t
    else
      match ue with
      | none => handlerYield (tcmErrors t d ce none) d
      | some _ => tcmErrors t d ce ue

/-- HANDLER_YIELD (R353). -/
def execHandlerYield (d : Die) (acts : List CoreAct) (ce : BitVec 8) (ue : Option Bool) (s : State) :
    Host.Outcome State Fault Refusal := .next (handlerEnd s d acts ce.toNat ue)

end Sys2Proof.Machine
end

