-- ==== Sys2Proof/Machine/DomainSteps.lean ====
section
/-! DEFINITION. The steps of a domain with the packets, events and accesses that its proxy holds (R214 to R217, R239). -/

namespace Sys2Proof.Machine

/-- The offset in the Diagnostic Window of an internal address that it reaches (R324). -/
def windowOff (a : Nat) : Nat :=
  (if a < 0x60000000 then 0 else 0x4000000) + (if bitOf a 28 then 0x2000000 else 0) + a % 0x10000000

/-- An access that a proxy has held passes: the host has its value, and the debug port goes on with its request. -/
def passAccess (f : Finds) (s : State) (a : HeldAcc) : State :=
  let r := netAccess s a.rq a.addr a.w a.inspect f
  match a.rq with
  | .selvedge => svGoesOn s
  | _ =>
    let s := diagRecord r.1 (windowOff a.addr) r.2.1
    if a.w.isSome then s else diagValue s r.2.1 r.2.2

/-- The packets, events and accesses that a proxy has held pass when its domain is ON, with what they find in its memories (R254,
R262). -/
def passHeld (s : State) (d : Die) (i : Nat) (f : Finds) : State :=
  let k := domKey d i
  let ps := heldPackets s k
  let es := heldEvents s k
  let as := heldAccs s k
  let ls := heldLines s k
  let s := setHeldLines (setHeldAccs (setHeldEvents (setHeld s k []) k []) k []) k []
  let s := ls.foldl (fun s x => hdmServe s x f.ecc) s
  let s := ps.foldl (fun s p => deliverPacket s d i p f) s
  let s := es.foldl (fun s e => takeEvent s d e true) s
  as.foldl (passAccess f) s

/-- An access that a proxy held for a domain that stays OFF is answered with ASLEEP, and recorded (R325). -/
def dropAccess (s : State) (d : Die) (i : Nat) (a : HeldAcc) : State :=
  let s := countF s fPROXY_STAT_asleep d i
  match a.rq with
  | .selvedge => svAsleep s
  | _ =>
    let s := diagRecord s (windowOff a.addr) 1
    if a.w.isSome then s else diagValue s 1 0

/-- After a power-up that has failed the proxy answers for a domain that stays OFF. -/
def dropHeld (s : State) (d : Die) (i : Nat) : State :=
  let k := domKey d i
  let ps := heldPackets s k
  let es := heldEvents s k
  let as := heldAccs s k
  let ls := heldLines s k
  let s := setHeldLines (setHeldAccs (setHeldEvents (setHeld s k []) k []) k []) k []
  let s := ls.foldl (fun s x =>
    let s := countF s fPROXY_STAT_asleep d i
    if x.wr.isSome then s else emit s (.window (List.replicate 64 0) true)) s
  let s := ps.foldl (fun s p => countF (respond s p 1 []) fPROXY_STAT_asleep d i) s
  let s := es.foldl (fun s _ => countF s fPROXY_STAT_ev_drop d i) s
  as.foldl (fun s a => dropAccess s d i a) s

/-- Has a power-up failed, so that the domain stays OFF (R217)? -/
def upFailed (s : State) (d : Die) (i : Nat) (was : DStep) : Bool :=
  let m := getDom s d i
  decide (was = .u1 ∨ was = .u4) && decide (m.state = .off ∧ m.step = .none) && !m.waiting

/-- What follows a step of a domain for what its proxy holds. -/
def afterStep (s : State) (d : Die) (i : Nat) (was : DStep) (f : Finds) : State :=
  if !proxied s d i then passHeld s d i f
  else if upFailed s d i was then dropHeld s d i
  else s

/-- DOMAIN_STEP_COMPLETE (R214). -/
def domainStep (s : State) (d : Die) (i : Nat) (ok : Bool) (f : Finds) : State :=
  afterStep (domStep s d i ok) d i (getDom s d i).step f

/-- DOMAIN_STEP_COMPLETE (R214). -/
def execDomainStepComplete (d : Die) (i : DomIx) (ok : Bool) (f : Finds) (s : State) : Host.Outcome State Fault Refusal :=
  .next (domainStep s d i.val ok f)

/-- DOMAIN_PRECHARGE_TIMEOUT (R217). -/
def execDomainPrechargeTimeout (d : Die) (i : DomIx) (s : State) : Host.Outcome State Fault Refusal :=
  .next (if (getDom s d i).step = .u1 then afterStep (domFails s d i 1) d i .u1 cleanFinds else s)

end Sys2Proof.Machine
end

