-- ==== Sys2Proof/Machine/Dispatch.lean ====
section
/-! DEFINITION. The one dispatch: each step of the device to its meaning. -/

namespace Sys2Proof.Machine

def exec (i : Instr) (s : State) : Host.Outcome State Fault Refusal :=
  match i with
  | .cellCycle d h r c u => Sys2Proof.Machine.execCellCycle d h r c u s
  | .reedCycle d h n => Sys2Proof.Machine.execReedCycle d h n s
  | .harnessGateTransfer d vertical h k both => Sys2Proof.Machine.execHarnessGateTransfer d vertical h k both s
  | .gatewayLaneCycle d h lane => Sys2Proof.Machine.execGatewayLaneCycle d h lane s
  | .treadleStep d h => Sys2Proof.Machine.execTreadleStep d h s
  | .swapArm rq d h => Sys2Proof.Machine.execSwapArm rq d h s
  | .swapCancel rq d h => Sys2Proof.Machine.execSwapCancel rq d h s
  | .bankExchange d bad => Sys2Proof.Machine.execBankExchange d bad s
  | .swapTimeout d => Sys2Proof.Machine.execSwapTimeout d s
  | .darning d h r c why spareFaulty => Sys2Proof.Machine.execDarning d h r c why spareFaulty s
  | .overflowReport d => Sys2Proof.Machine.execOverflowReport d s
  | .itemAdmit d h idx u => Sys2Proof.Machine.execItemAdmit d h idx u s
  | .markTake d y input => Sys2Proof.Machine.execMarkTake d y input s
  | .bobbinWordWrite b src flip => Sys2Proof.Machine.execBobbinWordWrite b src flip s
  | .bobbinSpill b flip u => Sys2Proof.Machine.execBobbinSpill b flip u s
  | .bobbinRefill b flip out => Sys2Proof.Machine.execBobbinRefill b flip out s
  | .bobbinWordRead b flip u => Sys2Proof.Machine.execBobbinWordRead b flip u s
  | .egressStallTimeout b => Sys2Proof.Machine.execEgressStallTimeout b s
  | .beatBoundary d => Sys2Proof.Machine.execBeatBoundary d s
  | .checkpointWritten d y => Sys2Proof.Machine.execCheckpointWritten d y s
  | .ready => Sys2Proof.Machine.execReady s
  | .commit d => Sys2Proof.Machine.execCommit d s
  | .replayStart d => Sys2Proof.Machine.execReplayStart d s
  | .replayRestoreDone d rd => Sys2Proof.Machine.execReplayRestoreDone d rd s
  | .dieLostDeclare d => Sys2Proof.Machine.execDieLostDeclare d s
  | .yarnMigrateDone y => Sys2Proof.Machine.execYarnMigrateDone y s
  | .dieReload d => Sys2Proof.Machine.execDieReload d s
  | .harnessClockFail d h => Sys2Proof.Machine.execHarnessClockFail d h s
  | .harnessClockRelock d h ok => Sys2Proof.Machine.execHarnessClockRelock d h ok s
  | .clkFreqWrite rq d h v => Sys2Proof.Machine.execClkFreqWrite rq d h v s
  | .clkSlewDone d h => Sys2Proof.Machine.execClkSlewDone d h s
  | .avsLoopTick d h margin headroom => Sys2Proof.Machine.execAvsLoopTick d h margin headroom s
  | .clockStretch d h cycles => Sys2Proof.Machine.execClockStretch d h cycles s
  | .agingMeasure d h fRef fStressed => Sys2Proof.Machine.execAgingMeasure d h fRef fStressed s
  | .domTargetWrite rq d n v => Sys2Proof.Machine.execDomTargetWrite rq d n v s
  | .domainStepComplete d n ok f => Sys2Proof.Machine.execDomainStepComplete d n ok f s
  | .domainPrechargeTimeout d n => Sys2Proof.Machine.execDomainPrechargeTimeout d n s
  | .proxyPacket d n p => Sys2Proof.Machine.execProxyPacket d n p s
  | .networkPacketReceive p errs f => Sys2Proof.Machine.execNetworkPacketReceive p errs f s
  | .eventReceive d e taken => Sys2Proof.Machine.execEventReceive d e taken s
  | .requestTimeout d ep token => Sys2Proof.Machine.execRequestTimeout d ep token s
  | .networkLockup d => Sys2Proof.Machine.execNetworkLockup d s
  | .genSwitchStart rq d => Sys2Proof.Machine.execGenSwitchStart rq d s
  | .genSwitchRouter d r => Sys2Proof.Machine.execGenSwitchRouter d r s
  | .genSwitchComplete d => Sys2Proof.Machine.execGenSwitchComplete d s
  | .genSwitchLate d => Sys2Proof.Machine.execGenSwitchLate d s
  | .bredanFrameReceive d frame errs f => Sys2Proof.Machine.execBredanFrameReceive d frame errs f s
  | .bredanNoFrame d => Sys2Proof.Machine.execBredanNoFrame d s
  | .brdRetrain rq d => Sys2Proof.Machine.execBrdRetrain rq d s
  | .brdHoldDown rq d v => Sys2Proof.Machine.execBrdHoldDown rq d v s
  | .bredanRetrainDone d near far => Sys2Proof.Machine.execBredanRetrainDone d near far s
  | .bredanTrainAttempt d near far => Sys2Proof.Machine.execBredanTrainAttempt d near far s
  | .rejoinEvent => Sys2Proof.Machine.execRejoinEvent s
  | .bankCollClear rq d h => Sys2Proof.Machine.execBankCollClear rq d h s
  | .hbmTempRead d temp => Sys2Proof.Machine.execHbmTempRead d temp s
  | .hbmRateGroupDone d bad => Sys2Proof.Machine.execHbmRateGroupDone d bad s
  | .hbmPatrolScrub d granule out => Sys2Proof.Machine.execHbmPatrolScrub d granule out s
  | .hbmRetireCopyDone d => Sys2Proof.Machine.execHbmRetireCopyDone d s
  | .mtStart rq d v => Sys2Proof.Machine.execMtStart rq d v s
  | .mtAbort rq d => Sys2Proof.Machine.execMtAbort rq d s
  | .marchChunkDone d touched bad => Sys2Proof.Machine.execMarchChunkDone d touched bad s
  | .mtPassDone d bad => Sys2Proof.Machine.execMtPassDone d bad s
  | .ethFrameReceive p bytes fcsOk => Sys2Proof.Machine.execEthFrameReceive p bytes fcsOk s
  | .ethFrameTransmit p due => Sys2Proof.Machine.execEthFrameTransmit p due s
  | .qbvChange rq p => Sys2Proof.Machine.execQbvChange rq p s
  | .qbvCycleStart p => Sys2Proof.Machine.execQbvCycleStart p s
  | .portLinkChange p l => Sys2Proof.Machine.execPortLinkChange p l s
  | .plFrameBuild k => Sys2Proof.Machine.execPlFrameBuild k s
  | .plCycleStart k => Sys2Proof.Machine.execPlCycleStart k s
  | .plFrameReturn k odd blocks => Sys2Proof.Machine.execPlFrameReturn k odd blocks s
  | .plPickInstant k => Sys2Proof.Machine.execPlPickInstant k s
  | .plCycleEnd k => Sys2Proof.Machine.execPlCycleEnd k s
  | .dly k odd got x => Sys2Proof.Machine.execDly k odd got x s
  | .plDiscover rq k => Sys2Proof.Machine.execPlDiscover rq k s
  | .plRunWrite rq k v => Sys2Proof.Machine.execPlRunWrite rq k v s
  | .plGridWrite rq k reg v => Sys2Proof.Machine.execPlGridWrite rq k reg v s
  | .portCfgWrite rq p v => Sys2Proof.Machine.execPortCfgWrite rq p v s
  | .sqTailDoorbell q v => Sys2Proof.Machine.execSqTailDoorbell q v s
  | .cqHeadDoorbell q v => Sys2Proof.Machine.execCqHeadDoorbell q v s
  | .commandFetch q entry ok buf bufOk => Sys2Proof.Machine.execCommandFetch q entry ok buf bufOk s
  | .completionWrite q ok => Sys2Proof.Machine.execCompletionWrite q ok s
  | .qpEnable q v => Sys2Proof.Machine.execQpEnable q v s
  | .qpDisable q v => Sys2Proof.Machine.execQpDisable q v s
  | .nop c => Sys2Proof.Machine.execNop c s
  | .eventSub c => Sys2Proof.Machine.execEventSub c s
  | .resetCmd c => Sys2Proof.Machine.execResetCmd c s
  | .yarnCreate c => Sys2Proof.Machine.execYarnCreate c s
  | .yarnStart c => Sys2Proof.Machine.execYarnStart c s
  | .yarnHold c => Sys2Proof.Machine.execYarnHold c s
  | .yarnResume c => Sys2Proof.Machine.execYarnResume c s
  | .yarnRestart c => Sys2Proof.Machine.execYarnRestart c s
  | .yarnDelete c => Sys2Proof.Machine.execYarnDelete c s
  | .yarnModify c => Sys2Proof.Machine.execYarnModify c s
  | .yarnQuery c => Sys2Proof.Machine.execYarnQuery c s
  | .bobCreate c => Sys2Proof.Machine.execBobCreate c s
  | .bobDelete c => Sys2Proof.Machine.execBobDelete c s
  | .bobFlush c => Sys2Proof.Machine.execBobFlush c s
  | .bobCtlFlush rq d => Sys2Proof.Machine.execBobCtlFlush rq d s
  | .bobResize c => Sys2Proof.Machine.execBobResize c s
  | .bobQuotaWrite rq d v => Sys2Proof.Machine.execBobQuotaWrite rq d v s
  | .bobQuery c => Sys2Proof.Machine.execBobQuery c s
  | .bobPop rq d inspect => Sys2Proof.Machine.execBobPop rq d inspect s
  | .bobPush rq d v => Sys2Proof.Machine.execBobPush rq d v s
  | .itemPush c => Sys2Proof.Machine.execItemPush c s
  | .regionMap c => Sys2Proof.Machine.execRegionMap c s
  | .regionDoorbell j v => Sys2Proof.Machine.execRegionDoorbell j v s
  | .regionInputRead j out => Sys2Proof.Machine.execRegionInputRead j out s
  | .regionOutputWrite j => Sys2Proof.Machine.execRegionOutputWrite j s
  | .draftLoad c => Sys2Proof.Machine.execDraftLoad c s
  | .draftSwap c => Sys2Proof.Machine.execDraftSwap c s
  | .darn c => Sys2Proof.Machine.execDarn c s
  | .harnessCfg c => Sys2Proof.Machine.execHarnessCfg c s
  | .beatSet c => Sys2Proof.Machine.execBeatSet c s
  | .beatPeriodWrite rq d v => Sys2Proof.Machine.execBeatPeriodWrite rq d v s
  | .domainSet c => Sys2Proof.Machine.execDomainSet c s
  | .memTest c => Sys2Proof.Machine.execMemTest c s
  | .windowSet c => Sys2Proof.Machine.execWindowSet c s
  | .beatwinSet c => Sys2Proof.Machine.execBeatwinSet c s
  | .beatwinPub c => Sys2Proof.Machine.execBeatwinPub c s
  | .beatwinAreaWrite => Sys2Proof.Machine.execBeatwinAreaWrite s
  | .portCfg c => Sys2Proof.Machine.execPortCfg c s
  | .portTable c => Sys2Proof.Machine.execPortTable c s
  | .ringCfg c => Sys2Proof.Machine.execRingCfg c s
  | .nodeSet c => Sys2Proof.Machine.execNodeSet c s
  | .nvWrite c => Sys2Proof.Machine.execNvWrite c s
  | .dieUpdate c => Sys2Proof.Machine.execDieUpdate c s
  | .fwSwapDone d res => Sys2Proof.Machine.execFwSwapDone d res s
  | .hdmAccess line wr poison out => Sys2Proof.Machine.execHdmAccess line wr poison out s
  | .diagRead sp off width f => Sys2Proof.Machine.execDiagRead sp off width f s
  | .diagWrite sp off width v f => Sys2Proof.Machine.execDiagWrite sp off width v f s
  | .hostReset kind => Sys2Proof.Machine.execHostReset kind s
  | .mailboxMessage d => Sys2Proof.Machine.execMailboxMessage d s
  | .eventLinePending d line => Sys2Proof.Machine.execEventLinePending d line s
  | .handlerYield d acts ce ue => Sys2Proof.Machine.execHandlerYield d acts ce ue s
  | .lockstepMismatch d => Sys2Proof.Machine.execLockstepMismatch d s
  | .windowOverflowTrap d bank free => Sys2Proof.Machine.execWindowOverflowTrap d bank free s
  | .wdtKick rq d v => Sys2Proof.Machine.execWdtKick rq d v s
  | .wdtPrewarn d => Sys2Proof.Machine.execWdtPrewarn d s
  | .wdtExpire d => Sys2Proof.Machine.execWdtExpire d s
  | .renturRestartDone d version => Sys2Proof.Machine.execRenturRestartDone d version s
  | .semAcquire d n owner level => Sys2Proof.Machine.execSemAcquire d n owner level s
  | .imageLoad d src => Sys2Proof.Machine.execImageLoad d src s
  | .segmentLoad d bytes nvBad => Sys2Proof.Machine.execSegmentLoad d bytes nvBad s
  | .startupStep d => Sys2Proof.Machine.execStartupStep d s
  | .startupClockTimeout d => Sys2Proof.Machine.execStartupClockTimeout d s
  | .fioRailWaitTimeout d => Sys2Proof.Machine.execFioRailWaitTimeout d s
  | .cfgCsDeassert => Sys2Proof.Machine.execCfgCsDeassert s
  | .imagePush d head => Sys2Proof.Machine.execImagePush d head s
  | .masterCopyReload d h => Sys2Proof.Machine.execMasterCopyReload d h s
  | .scrubFrameCheck d frame bad stillBad => Sys2Proof.Machine.execScrubFrameCheck d frame bad stillBad s
  | .scrubRepairDone d stillBad => Sys2Proof.Machine.execScrubRepairDone d stillBad s
  | .gateInWord d g w => Sys2Proof.Machine.execGateInWord d g w s
  | .gateOutWord d g ready => Sys2Proof.Machine.execGateOutWord d g ready s
  | .fringePllLockLoss d n => Sys2Proof.Machine.execFringePllLockLoss d n s
  | .fioRailLoss d => Sys2Proof.Machine.execFioRailLoss d s
  | .serTxdWrite rq d c v => Sys2Proof.Machine.execSerTxdWrite rq d c v s
  | .serRxdRead rq d c inspect => Sys2Proof.Machine.execSerRxdRead rq d c inspect s
  | .serByteReceive d c b bad => Sys2Proof.Machine.execSerByteReceive d c b bad s
  | .roCountWindow d n count => Sys2Proof.Machine.execRoCountWindow d n count s
  | .resetSourceAssert d src => Sys2Proof.Machine.execResetSourceAssert d src s
  | .resetSourceRelease d src => Sys2Proof.Machine.execResetSourceRelease d src s
  | .releaseStage d cs => Sys2Proof.Machine.execReleaseStage d cs s
  | .rstReqGo rq d v => Sys2Proof.Machine.execRstReqGo rq d v s
  | .dieRestore d => Sys2Proof.Machine.execDieRestore d s
  | .dozeEntry => Sys2Proof.Machine.execDozeEntry s
  | .vigilEntry => Sys2Proof.Machine.execVigilEntry s
  | .wake cause => Sys2Proof.Machine.execWake cause s
  | .vigilTick => Sys2Proof.Machine.execVigilTick s
  | .vglLoad rq => Sys2Proof.Machine.execVglLoad rq s
  | .vglStep rq v => Sys2Proof.Machine.execVglStep rq v s
  | .ppsInEdge => Sys2Proof.Machine.execPpsInEdge s
  | .ppsHoldover => Sys2Proof.Machine.execPpsHoldover s
  | .tcxoFail reference => Sys2Proof.Machine.execTcxoFail reference s
  | .alarmFire a => Sys2Proof.Machine.execAlarmFire a s
  | .comparatorTrip c => Sys2Proof.Machine.execComparatorTrip c s
  | .powerCapTick milliwatts junction => Sys2Proof.Machine.execPowerCapTick milliwatts junction s
  | .nvRetentionScrub d block => Sys2Proof.Machine.execNvRetentionScrub d block s
  | .brk low => Sys2Proof.Machine.execBrk low s
  | .ident q => Sys2Proof.Machine.execIdent q s
  | .svRead q addr count attr f => Sys2Proof.Machine.execSvRead q addr count attr f s
  | .svWrite q addr words f => Sys2Proof.Machine.execSvWrite q addr words f s
  | .challenge q => Sys2Proof.Machine.execChallenge q s
  | .unlock q scope slot key sig => Sys2Proof.Machine.execUnlock q scope slot key sig s
  | .lock q => Sys2Proof.Machine.execLock q s
  | .halt q d t h hard linked => Sys2Proof.Machine.execHalt q d t h hard linked s
  | .haltForced d => Sys2Proof.Machine.execHaltForced d s
  | .resume q d t h => Sys2Proof.Machine.execResume q d t h s
  | .svStep q d h cycles => Sys2Proof.Machine.execSvStep q d h cycles s
  | .stepDone d h => Sys2Proof.Machine.execStepDone d h s
  | .rstAssert q level d h => Sys2Proof.Machine.execRstAssert q level d h s
  | .rstRelease q => Sys2Proof.Machine.execRstRelease q s
  | .svStatus q => Sys2Proof.Machine.execSvStatus q s
  | .unlockLockoutEnd => Sys2Proof.Machine.execUnlockLockoutEnd s
  | .nonceExpire => Sys2Proof.Machine.execNonceExpire s
  | .tseqStatRead rq d h inspect => Sys2Proof.Machine.execTseqStatRead rq d h inspect s
  | .beatNumLoRead rq d cmt inspect => Sys2Proof.Machine.execBeatNumLoRead rq d cmt inspect s
  | .devBeatLoRead rq inspect => Sys2Proof.Machine.execDevBeatLoRead rq inspect s
  | .vglTimeFracRead rq inspect => Sys2Proof.Machine.execVglTimeFracRead rq inspect s
  | .jrnSizeWrite rq d v => Sys2Proof.Machine.execJrnSizeWrite rq d v s
  | .jrnBaseWrite rq d v => Sys2Proof.Machine.execJrnBaseWrite rq d v s
  | .registerWrite rq d reg n v => Sys2Proof.Machine.execRegisterWrite rq d reg n v s
  | .bredanLaneAlignmentLoss d lane => Sys2Proof.Machine.execBredanLaneAlignmentLoss d lane s
  | .gateControlListEntryEnd p => Sys2Proof.Machine.execGateControlListEntryEnd p s
  | .coalesceIntervalExpire q => Sys2Proof.Machine.execCoalesceIntervalExpire q s
  | .msixVectorUnmask v => Sys2Proof.Machine.execMsixVectorUnmask v s
  | .nvStoreWriteDone d ok => Sys2Proof.Machine.execNvStoreWriteDone d ok s
  | .serdesRecalibration p => Sys2Proof.Machine.execSerdesRecalibration p s
  | .serdesSupplyLoss lost => Sys2Proof.Machine.execSerdesSupplyLoss lost s
  | .quadReferenceLoss quad lost => Sys2Proof.Machine.execQuadReferenceLoss quad lost s
  | .fioRailReturn d v33 => Sys2Proof.Machine.execFioRailReturn d v33 s
  | .tcxoRecovery => Sys2Proof.Machine.execTcxoRecovery s
  | .d3hotEntry d0 => Sys2Proof.Machine.execD3hotEntry d0 s
  | .fringeClockEdge d net level rx => Sys2Proof.Machine.execFringeClockEdge d net level rx s
  | .fringePllRelock d n => Sys2Proof.Machine.execFringePllRelock d n s
  | .serByteSent d c nack => Sys2Proof.Machine.execSerByteSent d c nack s
  | .comparatorClear c => Sys2Proof.Machine.execComparatorClear c s
  | .selvedgeIdleTimeout => Sys2Proof.Machine.execSelvedgeIdleTimeout s
  | .selvedgeFramingError => Sys2Proof.Machine.execSelvedgeFramingError s
  | .semaphoreRelease d n => Sys2Proof.Machine.execSemaphoreRelease d n s
  | .qpDisableTimeout q => Sys2Proof.Machine.execQpDisableTimeout q s
  | .cxlLinkRetrain up status => Sys2Proof.Machine.execCxlLinkRetrain up status s

end Sys2Proof.Machine
end

