-- ==== Sys2Proof/WellFormed.lean ====
section
/-! DEFINITION. The well-formed commands: those whose operands agree with one another. The types already keep most operands in
their ranges; what is left is a command of the host whose opcode is the row's own (R335), a Selvedge frame whose bytes are the
row's own (R451, R455), the sizes of byte operands, and the numbers that the Nat operands name. -/

namespace Sys2Proof

/-- The opcode of a row that is a command of the host (R335). -/
def rowOpcode : Instr → Option (HostCmd × Nat)
  | .nop c => some (c, 0x00)
  | .eventSub c => some (c, 0x01)
  | .resetCmd c => some (c, 0x02)
  | .yarnCreate c => some (c, 0x10)
  | .yarnStart c => some (c, 0x11)
  | .yarnHold c => some (c, 0x12)
  | .yarnResume c => some (c, 0x13)
  | .yarnRestart c => some (c, 0x14)
  | .yarnDelete c => some (c, 0x15)
  | .yarnModify c => some (c, 0x16)
  | .yarnQuery c => some (c, 0x17)
  | .bobCreate c => some (c, 0x20)
  | .bobDelete c => some (c, 0x21)
  | .bobFlush c => some (c, 0x22)
  | .bobResize c => some (c, 0x23)
  | .bobQuery c => some (c, 0x24)
  | .itemPush c => some (c, 0x28)
  | .regionMap c => some (c, 0x29)
  | .draftLoad c => some (c, 0x30)
  | .draftSwap c => some (c, 0x31)
  | .darn c => some (c, 0x32)
  | .harnessCfg c => some (c, 0x33)
  | .beatSet c => some (c, 0x40)
  | .domainSet c => some (c, 0x41)
  | .memTest c => some (c, 0x42)
  | .windowSet c => some (c, 0x43)
  | .beatwinSet c => some (c, 0x44)
  | .beatwinPub c => some (c, 0x45)
  | .portCfg c => some (c, 0x50)
  | .portTable c => some (c, 0x51)
  | .ringCfg c => some (c, 0x52)
  | .nodeSet c => some (c, 0x53)
  | .nvWrite c => some (c, 0x60)
  | .dieUpdate c => some (c, 0x61)
  | _ => none

/-- A command of the host as the queue engine holds it: nine operands, and the bytes of its buffer. -/
def HostCmd.wf (c : HostCmd) (op : Nat) : Bool :=
  decide (c.opcode.toNat = op) && decide (c.ops.length = 9) && decide (c.buf.length ≤ c.bufLen.toNat)

/-- A number as `n` bytes, least significant first. -/
def svBytes : Nat → Nat → List Byte
  | 0, _ => []
  | n + 1, v => BitVec.ofNat 8 v :: svBytes n (v / 256)

/-- The bytes of a request frame but its CRC: CMD with the sequence bit, LEN and the arguments (R451). -/
def svFrame (code : Nat) (seq : Bool) (args : List Byte) : List Byte :=
  BitVec.ofNat 8 (code + if seq then 128 else 0) :: BitVec.ofNat 8 args.length :: args

/-- Is a request frame that of a command with these arguments? A frame whose LEN or argument values are not the command's own is
only held to its command code. -/
def SvReq.wf (q : SvReq) (code : Nat) (args : List Byte) : Bool :=
  if q.lenOk then decide (q.frame = svFrame code q.seq args)
  else decide (q.frame.head? = some (BitVec.ofNat 8 (code + if q.seq then 128 else 0))) && decide (2 ≤ q.frame.length)

/-- The code of a HALT target (R455). -/
def HaltTarget.code : HaltTarget → Byte
  | .control => 0
  | .harness => 1
  | .all => 2

/-- How many instances a register has on a die (R470): harness and port blocks hold their registers once for each unit. -/
def regInstances (r : Machine.Reg) : Nat :=
  let s := Machine.regSpec r
  match s.blk with
  | .har => 36 * s.count
  | .prt => 48
  | _ => s.count

/-- Is a command well formed? -/
def Instr.wf : Instr → Bool
  | .ident q => q.wf 0x01 []
  | .svRead q addr count attr _ => q.wf 0x02 (svBytes 6 addr.toNat ++ [count, attr])
  | .svWrite q addr words _ => q.wf 0x03 (svBytes 6 addr.toNat ++ words.flatMap (fun w => svBytes 4 w.toNat)) &&
      decide (words.length ≤ 48)
  | .challenge q => q.wf 0x04 []
  | .unlock q scope slot key sig => q.wf 0x05 ([scope, slot] ++ key ++ sig) &&
      (!q.lenOk || (decide (key.length = 97) && decide (sig.length = 96)))
  | .lock q => q.wf 0x06 []
  | .halt q d t h hard _ => q.wf 0x07 [BitVec.ofNat 8 d.val, t.code, BitVec.ofNat 8 h.val, if hard then 1 else 0]
  | .resume q d t h => q.wf 0x08 [BitVec.ofNat 8 d.val, t.code, BitVec.ofNat 8 h.val]
  | .svStep q d h cycles => q.wf 0x09 ([BitVec.ofNat 8 d.val, BitVec.ofNat 8 h.val] ++ svBytes 2 cycles.toNat)
  | .rstAssert q level d h => q.wf 0x0A [level, BitVec.ofNat 8 d.val, BitVec.ofNat 8 h.val]
  | .rstRelease q => q.wf 0x0B []
  | .svStatus q => q.wf 0x0C []
  | .registerWrite _ _ r i _ => decide (i < regInstances r)
  | .hdmAccess _ wr _ _ => match wr with
    | some bs => decide (bs.length = 64)
    | none => true
  | .diagRead _ _ w _ => decide (1 ≤ w.val)
  | .diagWrite _ _ w _ _ => decide (1 ≤ w.val)
  | .networkPacketReceive p _ _ => decide (p.data.length ≤ 1024)
  | .proxyPacket _ _ p => decide (p.data.length ≤ 1024)
  | i => match rowOpcode i with
    | some (c, op) => c.wf op
    | none => true

end Sys2Proof
end

