-- ==== Sys2Proof/Certificates/Slice0/Obligations.lean ====
section
/-! DEFINITION. The statements for the provers. Each follows the rules of spec/ that its text names; where it rests on a
choice of the model the text says so. -/

open Sys2Proof Sys2Proof.Machine

/-- For every command c and state s: with c put at the front of its queue, one step answers what exec answers for c on s; with a queue c :: rest, one step answers what exec answers for c on the state whose queue is rest; and with an empty queue one step answers the state itself (the model's choice, log entry 1). -/
def Obligations.StepTakesFrontOfQueue : Prop :=
  (∀ (c : Instr) (s : State), step (s.withFront c) = exec c s) ∧
  (∀ (c : Instr) (rest : List Instr) (s : State), s.pending = c :: rest → step s = exec c { s with pending := rest }) ∧
  (∀ s : State, s.pending = [] → step s = .next s)

/-- State.reset has an empty queue and no staged command, so it meets the bound of R332 on staged commands, and every byte memory of it is in canonical form. That its memories list nothing is the model's choice (log entry 3). -/
def Obligations.ResetMeetsInvariant : Prop :=
  State.reset.pending = [] ∧ State.reset.host.staged.length ≤ 1024 ∧ State.reset.host.staged = [] ∧
  Memory.wf State.reset.mem.hbm = true ∧ Memory.wf State.reset.mem.nv = true ∧ Memory.wf State.reset.mem.master = true ∧
  Memory.wf State.reset.mem.itcm = true ∧ Memory.wf State.reset.mem.sys = true ∧ Memory.wf State.reset.arr.bank = true ∧
  Memory.wf State.reset.fringe.frames = true

/-- The device holds at most 1,024 staged commands (R332). For every state that holds at most 1,024 of them, whatever command stands at the front of its queue, a step that answers a next state answers one that holds at most 1,024 of them. -/
def Obligations.StagedCommandsStayWithinBound : Prop :=
  ∀ s t : State, s.host.staged.length ≤ 1024 → step s = .next t → t.host.staged.length ≤ 1024

/-- For every state whose queue is c :: rest, a step that answers a next state answers one whose queue is rest and whose fuses are as before: no command puts a command in the queue or takes a further one, and none changes what production has fused (R421, R431). -/
def Obligations.StepPopsOneCommand : Prop :=
  ∀ (s t : State) (c : Instr) (rest : List Instr), s.pending = c :: rest → step s = .next t → t.pending = rest ∧ t.fuses = s.fuses

/-- A clocked cell of columns 0 to 7 that is not a source of its table, has no urgent word, no word on OUT and no result pending, and is offered an idle word on IA: the cycle completes. IA is empty again, the word's index is kept, the cycle is counted in the class of the idle word's reason unless the counters are frozen, the word consumed seven cycles ago is on OUT, and an idle word of that reason enters the pipeline. Every other cell and every other part of the device is unchanged, every byte of memory among them. All this is said of the state s in which the cell's harness cycle has begun: beginCycle of the state u before, which notes that the cell has taken its step and stops the harness where a comparator's halt is due (R462). -/
def Obligations.CellCycleConsumesIdleWord : Prop :=
  ∀ (u s : State) (d : Die) (h : Harn) (r : Row) (c : Col) (w : Wire) (x : CellSt), c.val < 8 →
    cellRuns u d h.val r.val c.val = true → s = beginCycle u d h.val (9 * r.val + c.val) →
    getCell s (cellKey d h.val r.val c.val) = x → cellRuns s d h.val r.val c.val = true →
    x.out = none → x.urg = none → x.ia = some w → x.ib = none → x.pend = [] → x.trackA = [] → x.trackB = [] →
    x.trackT = [] → x.trackU = [] → tagIdle w.tag = true →
    inMask s .TSEQ_SRC_LO .TSEQ_SRC_HI d h.val (8 * r.val + c.val) = false → (getHar s d h.val).wbs = [] →
    cellParityOk (getCellDraft s (cellKey d h.val r.val c.val) (getHar s d h.val).flip w.idx.toNat) = true →
    ∃ t, exec (.cellCycle d h r c none) u = .next t ∧
      getCell t (cellKey d h.val r.val c.val) =
        { x with ia := none, lastIdx := w.idx, out := x.pipe.getD 6 none,
                 cnt := countCycle (flagF s fCELL_CSEL_frz d h.val) (reasonClass (bitsOf w.data.toNat 1 0)) x.cnt,
                 pipe := (some (idleWire (bitsOf w.data.toNat 1 0) (outIdxOf (cellDraftOf
                   (getCellDraft s (cellKey d h.val r.val c.val) (getHar s d h.val).flip w.idx.toNat)) w.idx)) :: x.pipe).take 7,
                 trackA := [none, none, none], trackB := [none, none, none],
                 trackT := [none, none, none], trackU := [none, none, none], ibBad := false } ∧
      (∀ k, k ≠ cellKey d h.val r.val c.val → getCell t k = getCell s k) ∧
      (∀ e g, getHar t e g = getHar s e g) ∧
      t = { s with arr.cells := t.arr.cells, arr.hars := t.arr.hars }

/-- A reed of a harness that steps, with one word that is not idle on its inputs and a draft whose parity holds: if every output the word claims is ready, the word leaves its input and is offered on each of them (R93, R94); if one is not ready, nothing changes; a word that claims none is discarded and counted (R96). With no word on its inputs nothing changes. A gate whose line is neither forced nor failed carries the oldest word of one end to the reed input of the other, and the turn passes (R203); a line that does not exist carries nothing (R89). Each answer names the whole next state, so nothing else changes. -/
def Obligations.ReedAndGateMoveWords : Prop :=
  (∀ (s : State) (d : Die) (h : Harn) (n : Fin 64) (c : Claim), harRuns s d h.val = true → reedClaims s d h.val n.val = [c] →
    reedParityOk (getReedDraft s d h.val n.val (getHar s d h.val).flip c.w.idx.toNat) = true → tagIdle c.w.tag = false →
    (c.outs ≠ [] → (∀ o ∈ c.outs, outReady s d h.val n.val o = true) → exec (.reedCycle d h n) s =
      .next (c.outs.foldl (fun s o => putOut s d h.val n.val c.w o) (takeInput s d h.val n.val c.code))) ∧
    (∀ o ∈ c.outs, outReady s d h.val n.val o = false → exec (.reedCycle d h n) s = .next s) ∧
    (c.outs = [] → exec (.reedCycle d h n) s = .next (deadEnd (takeInput s d h.val n.val c.code) d h.val))) ∧
  (∀ (s : State) (d : Die) (h : Harn) (n : Fin 64), harRuns s d h.val = true → reedClaims s d h.val n.val = [] →
    exec (.reedCycle d h n) s = .next s) ∧
  (∀ (s : State) (d : Die) (v : Bool) (h : Harn) (k : Fin 8) (far : Nat) (g : GateSt) (w : Wire) (ws : List Wire),
    gateFar v h.val = some far → getGate s (gateKey d v h.val k.val) = g → g.forced = false → g.failed = false →
    (g.fromA = w :: ws → canCarry s d v h.val far k.val true = true →
      (canCarry s d v h.val far k.val false = false ∨ g.turnB = false) →
      exec (.harnessGateTransfer d v h k none) s = .next (setReedIn (setGate s (gateKey d v h.val k.val)
        { g with fromA := ws, turnB := true }) (reedKey d far (gateReed v h.val k.val) (if v then 15 else 14)) (some w))) ∧
    (g.fromB = w :: ws → canCarry s d v h.val far k.val false = true →
      (canCarry s d v h.val far k.val true = false ∨ g.turnB = true) →
      exec (.harnessGateTransfer d v h k none) s = .next (setReedIn (setGate s (gateKey d v h.val k.val)
        { g with fromB := ws, turnB := false }) (reedKey d h.val (gateReed v h.val k.val) (if v then 15 else 14)) (some w)))) ∧
  (∀ (s : State) (d : Die) (v : Bool) (h : Harn) (k : Fin 8) (both : Option (BitVec 4)), gateFar v h.val = none →
    exec (.harnessGateTransfer d v h k both) s = .next s)

/-- In a harness that steps, with no word waiting at an output lane of the die for a later stage: one cycle of a lane ages its items and the gaps of its indices by one. While the lane's buffer of 32 words is full, or no item of the lane has a word that may go, no item gives a word; else the item chosen gives its next word to the buffer, leaves when it is empty, closed and owes no bubble, and is the one the lane served last; after a first word its index takes no other first word for four cycles (R99, R135). Then the first word of the buffer, unless it is the last of its item, enters the reed input if no live word stands there, and otherwise all stays as it is (R205). The table, enabled and running with no word still offered, no entry passed over and no swap draining: an entry that is not valid is passed; a valid one whose index no pinned yarn owns is offered to every source cell (R101). Each answer names the whole next state. -/
def Obligations.LaneAndTableOfferWords : Prop :=
  (∀ (s : State) (d : Die) (h : Harn) (l : Fin 8) (mine : Nat → Bool) (m : HarSt), harRuns s d h.val = true →
    (∀ g, (getHar s d g).gwOut = []) → (mine = fun k => decide (k < 14) && decide (laneOf s d h.val k = l.val)) →
    m = { getHar s d h.val with
          gw := (getHar s d h.val).gw.map (fun g => if mine g.idx.toNat then { g with age := g.age + 1 } else g)
          firstAge := (List.range 14).foldl (fun f k => if mine k then sparseMod (fun _ => 0) f k (fun n => n - 1) else f)
            (getHar s d h.val).firstAge } →
    (32 ≤ (laneWords m.gwIn l.val).length →
      exec (.gatewayLaneCycle d h (some l)) s = .next (laneEnter (setHar s d h.val m) d h.val l.val)) ∧
    (∀ o : Option GwItem, laneChoice (setHar s d h.val m) d (sparseGet (fun _ => 15) m.laneLast l.val) ((headsOf m.gw).filter (fun g =>
        mine g.idx.toNat && laneReady (setHar s d h.val m) d h.val g)) = o →
      (laneWords m.gwIn l.val).length < 32 →
      (o = none → exec (.gatewayLaneCycle d h (some l)) s = .next (laneEnter (setHar s d h.val m) d h.val l.val)) ∧
      (∀ g, o = some g → exec (.gatewayLaneCycle d h (some l)) s = .next (laneEnter (setHar (setHar s d h.val m) d h.val
        { putGw m (nextWord g).2 with
          laneLast := sparseSet (fun _ => 15) m.laneLast l.val g.idx
          firstAge := if tagFirst (nextWord g).1.tag then sparseSet (fun _ => 0) m.firstAge g.idx.toNat 4 else m.firstAge
          gwIn := setLaneWords m.gwIn l.val (laneWords m.gwIn l.val ++ [(nextWord g).1]) }) d h.val l.val)))) ∧
  (∀ (s : State) (d : Die) (h l : Nat) (w : Wire) (ws : List Wire), laneWords (getHar s d h).gwIn l = w :: ws →
    (liveWire (getReedIn s (reedKey d h (8 * l) 16)) = true → laneEnter s d h l = s) ∧
    (liveWire (getReedIn s (reedKey d h (8 * l) 16)) = false → tagLast w.tag = false → laneEnter s d h l = setReedIn
      (setHar s d h { getHar s d h with gwIn := setLaneWords (getHar s d h).gwIn l ws }) (reedKey d h (8 * l) 16) (some w))) ∧
  (∀ (s : State) (d : Die) (h : Harn) (a : HarSt) (e : Word), harRuns s d h.val = true → flagF s fTSEQ_CTL_tbl_en d h.val = true →
    seqRuns s d h.val = true → getHar s d h.val = a → a.tOffered = false → a.draining = false → a.tHold = none → a.tDone = [] →
    getTable s d h.val a.flip a.tpos.toNat = e →
    (bitOf e.toNat 31 = false → exec (.treadleStep d h) s = .next (setHar s d h.val (tableNext s d h.val a))) ∧
    (bitOf e.toNat 31 = true → ownerOf s d h.val (tableWire e).idx = none →
      exec (.treadleStep d h) s = .next (offerEntry s d h.val false (tableWire e))))

/-- Arming a harness that is not armed records the time of the arm and sets SWAP_CTL.arm, or, where an index would be driven from both ends of a long line, sets last_status to 9 and arms nothing; arming an armed harness changes nothing (R111). Cancelling an arm whose drain has not begun clears the arm, and a command that waits for it ends with status 6, which is the model's choice (log entry 23). With one harness draining: once it is drained its banks are exchanged, the table goes on with no entry passed over, the constants of the new resident bank are written, and the swap is counted and ends with status 0; if its master copy cannot be read it ends with code 1 (R256); at the timeout with words still to pass it ends with code 12 and nothing is exchanged (R112). Each answer names the whole next state. -/
def Obligations.SwapsArmCancelAndEnd : Prop :=
  (∀ (s : State) (rq : Requester) (d : Die) (h : Harn),
    (armed s d h.val = true → exec (.swapArm rq d h) s = .next s) ∧
    (armed s d h.val = false → swapClash s d h.val = true →
      exec (.swapArm rq d h) s = .next (setF s fSWAP_CTL_last_status d h.val 9)) ∧
    (armed s d h.val = false → swapClash s d h.val = false → exec (.swapArm rq d h) s =
      .next (setF (setHar s d h.val { getHar s d h.val with armTick := some s.vigil.ticks }) fSWAP_CTL_arm d h.val 1))) ∧
  (∀ (s : State) (rq : Requester) (d : Die) (h : Harn), armed s d h.val = true → (getHar s d h.val).draining = false →
    exec (.swapCancel rq d h) s = .next (endWait (setF (setHar s d h.val { getHar s d h.val with armTick := none })
      fSWAP_CTL_arm d h.val 0) (.swap d h.val) 6 0 0)) ∧
  (∀ (s : State) (d : Die) (h : Nat), drainingHars s d = [h] →
    (drained s d h = true → exec (.bankExchange d []) s =
      .next (let s1 := loadHarConstants (setHar s d h { getHar s d h with
          flip := !(getHar s d h).flip, tOpen := [], tDone := [], tHold := none
          tpos := ((getHar s d h).tHold.map (BitVec.ofNat 8)).getD (getHar s d h).tpos }) d h
        endSwap (wrapF { s1 with mem.drafted := harKey d h :: s1.mem.drafted.filter (fun k => k ≠ harKey d h) }
          fSWAP_CTL_swap_count d h) d h 0)) ∧
    (∀ bad : List Harn, drained s d h = true → bad.any (fun b => b.val = h) = true →
      exec (.bankExchange d bad) s = .next (endSwap s d h 1)) ∧
    (∀ bad : List Harn, drained s d h = false → exec (.bankExchange d bad) s = .next s ∧
      exec (.swapTimeout d) s = .next (let s1 := setHar s d h { getHar s d h with armTick := none, draining := false }
        endWait (setF (setF (setF s1 fSWAP_CTL_arm d h 0) fTSEQ_STAT_swap_busy d h 0) fSWAP_CTL_last_status d h 12)
          (.swap d h) 7 12 0)))

/-- While the firmware runs its level 2 (R354), a darning that is due in a harness not halted, with the row's spare free and sound, darns the cell, and a host command that waits for it ends with status 0; with the spare in use by an earlier darning the harness is lost and DARN_STAT holds result 1, or for a request of the host result 3 and the command ends with status 6, which is the model's choice (R116, R117, log entry 23). The oldest report of a die for a yarn of policy 0 leaves the list, and the yarn's count and those of its cuts that have the item before them go up and stop at all ones (R137). The yarn chosen at a harness and index is admitted and kept as the last one there (R129, R130); one whose yarn table entry cannot be read is STOPPED and admits nothing (R256). A beat mark at the head of an input, with no re-injected item before it, is read and noted as the reading die counts its beat (R161, R179). -/
def Obligations.DarningReportsItemsAndMarks : Prop :=
  (∀ (s : State) (d : Die) (h : Harn) (r : Row) (c : Fin 8) (why : DarnWhy) (bad : Bool), darnDue s d h.val r.val c.val why = true →
    (getHar s d h.val).halted = false → fwAt s d 2 = true →
    (spareUsed s d h.val r.val = false → s.mem.spareBad.contains (harKey d h.val, r.val) = false → exec (.darning d h r c why false) s =
      .next (endWait (darnCell s d h.val r.val c.val) (.darn d h.val) 0 0 0)) ∧
    (spareUsed s d h.val r.val = true → why ≠ .host → exec (.darning d h r c why bad) s =
      .next (loseHarness (darnStat s d h.val r.val c.val 1) d h.val)) ∧
    (spareUsed s d h.val r.val = true → why = .host → exec (.darning d h r c why bad) s =
      .next (endWait (darnStat s d h.val r.val c.val 3) (.darn d h.val) 6 3 0))) ∧
  (∀ (s : State) (d : Die) (r : Die × Nat × Word) (y : Yarn), s.flow.reports.find? (fun r => r.1 = d) = some r →
    getYarn s d r.2.1 = y → y.state ≠ .free → y.ovfPolicy = 0 → exec (.overflowReport d) s =
      .next (setYarn { s with flow.reports := s.flow.reports.erase r } d r.2.1
        { y with ovfCount := if y.ovfCount = 0xFFFFFFFF then y.ovfCount else y.ovfCount + 1
                 cuts := y.cuts.map (fun c => if (c.itemsIn - r.2.2).toNat < 2 ^ 31 then
                   { c with ovf := if c.ovf = 0xFFFFFFFF then c.ovf else c.ovf + 1 } else c) })) ∧
  (∀ (s : State) (d : Die) (h : Harn) (x : Fin 16) (n : Nat), chosenYarn s d h.val x.val = some n →
    (exec (.itemAdmit d h x .none) s = .next { admitYarn s d n with
      flow.lastYarn := sparseSet (fun _ => 32767) (admitYarn s d n).flow.lastYarn (lastKey d h.val x.val) n }) ∧
    exec (.itemAdmit d h x .yarnBad) s = .next (stopYarn s d n 0xFF)) ∧
  (∀ (s : State) (d : Die) (y : YarnNo) (n : Fin 4) (b : Nat) (m : ItemRec), (getYarn s d y.val).state ≠ .free →
    domWorks s d 56 = true → restoring s d y.val = false → (getYarn s d y.val).ins.getD n.val none = some b →
    (getYarn s d y.val).reinject.getD n.val [] = [] → headItem (getBob s (inputBob s d (getYarn s d y.val) b)) = some m →
    m.kind = 3 → undelivered s (inputBob s d (getYarn s d y.val) b) = 0 → exec (.markTake d y n) s =
      .next (noteMark (takeWord s (inputBob s d (getYarn s d y.val) b)).1 d y.val n.val
      (ordFrom s (markDie s (getBob s (inputBob s d (getYarn s d y.val) b))) d m.ord)))

/-- For every register, die, instance and value written: a field with access code RW or RWL keeps its value where the value written to it is a reserved encoding, and every RW field, and every RWL field of a register whose lock bit is not set, takes the value written to it where that is no reserved encoding; every field takes what its own access code gives it. Said of the write by access codes, which the commands that write a register use, and of the command that writes BEAT_CTL of die 0. -/
def Obligations.ReservedEncodingsLeaveFieldsUnchanged : Prop :=
  (∀ (s : State) (r : Reg) (d : Die) (i : Nat) (v : Word) (f : FieldSpec), f ∈ (regSpec r).fields →
    ((f.acc = .rw ∨ f.acc = .rwl) → fieldOk f (bitsOf v.toNat f.hi f.lo) = false →
      bitsOf (regRaw (regWrite s r d i v) r d i).toNat f.hi f.lo = bitsOf (regRaw s r d i).toNat f.hi f.lo) ∧
    ((f.acc = .rw ∨ (f.acc = .rwl ∧ bitOf (regRaw s r d i).toNat 31 = false)) → fieldOk f (bitsOf v.toNat f.hi f.lo) = true →
      bitsOf (regRaw (regWrite s r d i v) r d i).toNat f.hi f.lo = bitsOf v.toNat f.hi f.lo) ∧
    bitsOf (regRaw (regWrite s r d i v) r d i).toNat f.hi f.lo =
      fieldWrite f (bitOf (regRaw s r d i).toNat 31) (bitsOf (regRaw s r d i).toNat f.hi f.lo) (bitsOf v.toNat f.hi f.lo)) ∧
  (∀ (s : State) (rq : Requester) (v : Word), ∃ t, exec (.beatPeriodWrite rq 0 v) s = .next t ∧
    (bitsOf v.toNat 16 0 < 10 ∨ 100000 < bitsOf v.toNat 16 0 → getF t fBEAT_CTL_period 0 0 = getF s fBEAT_CTL_period 0 0) ∧
    (10 ≤ bitsOf v.toNat 16 0 → bitsOf v.toNat 16 0 ≤ 100000 → getF t fBEAT_CTL_period 0 0 = bitsOf v.toNat 16 0))

/-- With the bobbin engine of its die ON (R212), a word that an entry-point producer writes into a bobbin that is not free is written after the pointer check (R123, R149). An active bobbin whose pointer copies agree, and whose copy on the other die is then not active: a spill with room in the ring leaves the tail eight words shorter and puts the block in HBM at the ring's writer (R139, R140); with too few words it changes nothing; a refill moves the next block of the spool to the head; a read by a yarn engine delivers the word, and for a consumer that is no yarn emits one word, an idle word when no closed item waits (R143, R145). A bobbin with a stall timeout whose egress is shut is stalled, and what has reached its head is discarded (R145). A corrected near-store word is counted, and an uncorrectable one, or an unreadable bobbin table entry, is the bobbin's fault before the spill or the read (R255, R256). Each answer names the whole next state. -/
def Obligations.BobbinWordsMove : Prop :=
  (∀ (s : State) (b : BobNo) (w : TWord) (flip : Word), (getBob s b.val).state ≠ .free → (getBob s b.val).prod ≠ .yarn →
    domWorks s (getBob s b.val).die 56 = true →
    exec (.bobbinWordWrite b (.entry w) flip) s =
      .next (dropStalled (writeWord (pointerCheck s b.val flip).1 b.val w true) b.val)) ∧
  (∀ (s : State) (b : BobNo) (x : Bob), getBob s b.val = x → x.state = .active → x.wp = x.wp2 → x.rp = x.rp2 →
    domWorks s x.die 56 = true →
    ((getBob s (b.val + 65536)).state ≠ .active → maySpill x = true → ringFull (bobRing x) = false → 8 ≤ x.tail.length →
      exec (.bobbinSpill b 0 .none) s = .next (setBob
      (writeHbm (setBob s b.val x) x.die (spoolAddr x x.wpos)
        (spoolBlock ((x.tail.take 8).map (fun w => w.w)) x.wseq.toNat (b.val % 65536))) b.val
      (bobWithRing { x with tail := x.tail.drop 8, wseq := x.wseq + 1, spoolPos := x.spoolPos ++ (x.tail.take 8).map (fun w => w.pos) }
        (ringPush (bobRing x))))) ∧
    ((getBob s (b.val + 65536)).state ≠ .active → maySpill x = false → exec (.bobbinSpill b 0 .none) s = .next (setBob s b.val x)) ∧
    (∀ ue t, refillBlock (setBob s b.val x) b.val ue = t → (getBob t (b.val + 65536)).state ≠ .active →
      exec (.bobbinRefill b 0 ue) s = .next t) ∧
    (∀ t, x.cons = .yarn → yarnRead (setBob s b.val x) b.val = t → (getBob t (b.val + 65536)).state ≠ .active →
      exec (.bobbinWordRead b 0 .none) s = .next t) ∧
    (x.cons ≠ .yarn → exec (.bobbinWordRead b 0 .none) s = .next (readOut (setBob s b.val x) b.val))) ∧
  (∀ (s : State) (b : BobNo) (u : BobUpset) (t : State), (getBob s b.val).state = .active →
    t = (match u with
      | .none => s
      | .corrected => countF s fMEM_ECC_ce (getBob s b.val).die 0
      | .bad => bobFault (countF s fMEM_ECC_ue_nsto (getBob s b.val).die 0) b.val 0 false
      | .entryBad => bobFault s b.val 0 true) →
    exec (.bobbinSpill b 0 u) s = exec (.bobbinSpill b 0 .none) t ∧
    exec (.bobbinWordRead b 0 u) s = exec (.bobbinWordRead b 0 .none) t) ∧
  (∀ (s : State) (b : BobNo), (getBob s b.val).stall ≠ 0 → (getBob s b.val).state = .active → egressShut s b.val = true →
    exec (.egressStallTimeout b) s = .next (dropStalled (setBob s b.val { getBob s b.val with stalled := true }) b.val))

/-- With the yarn engine ON (R212), while beats run, a boundary of a die is at the boundary time of the engine that has had one, and the dies that have it do the steps of R165 with the next number; where no die has one, nothing changes. The oldest checkpoint of a yarn that is ready goes to HBM, and a twin's is compared (R172). Die 1 that is ready for a joint beat says so once (R176). A die that commits alone applies the commit of its next beat when it is ready; with joint commits die 0 takes the READY, sends COMMIT and applies it, and die 1 applies it when COMMIT has come and the beat has ended (R175, R176). A yarn that migrates with no cut waiting, at its boundary, moves to the other die (R194). -/
def Obligations.BeatsBeginAndCommit : Prop :=
  (∀ (s : State) (d : Die), beatsRun s = true → (boundaryDies s d = [] → exec (.beatBoundary d) s = .next s) ∧
    (∀ e es, boundaryDies s d = e :: es → (∀ x ∈ e :: es, domWorks s x 56 = true) → (getBeat s d).nums = [] →
      exec (.beatBoundary d) s = .next (boundaryOn s (e :: es) 0)) ∧
    (∀ e es o n ns, boundaryDies s d = e :: es → (∀ x ∈ e :: es, domWorks s x 56 = true) → (getBeat s d).nums = (o, n) :: ns → exec (.beatBoundary d) s =
      .next (boundaryOn (passTo s ((getBeat s d).lastTick + periodTicks s)) (e :: es)
        (nextNum (passTo s ((getBeat s d).lastTick + periodTicks s)) d)))) ∧
  (∀ (s : State) (d : Die) (y : YarnNo) (c : CutRec) (cs : List CutRec), (getYarn s d y.val).cuts = c :: cs →
    (cutReady s d y.val c = true → exec (.checkpointWritten d y) s = .next (compareTwin (writeCkpt s d y.val c) d y.val)) ∧
    (cutReady s d y.val c = false → exec (.checkpointWritten d y) s = .next s)) ∧
  (∀ (s : State) (c num : Nat), c = (getBeat s 1).cmt + 1 → num = (numOfOrd s 1 c).toNat → (getBeat s 1).started = true → domWorks s 1 56 = true →
    commitsAlone s 1 c = false →
    (dieReady s 1 c = true → num ∉ (getBeat s 0).readyMsg → exec .ready s =
      .next (setBeat s 0 { getBeat s 0 with readyMsg := (getBeat s 0).readyMsg ++ [num] })) ∧
    (num ∈ (getBeat s 1).commitMsg → c < (getBeat s 1).ord → exec (.commit 1) s = .next (applyCommit s 1 c))) ∧
  (∀ (s : State) (d : Die) (c : Nat), c = (getBeat s d).cmt + 1 → (getBeat s d).started = true → domWorks s d 56 = true → commitsAlone s d c = true →
    (dieReady s d c = true → exec (.commit d) s = .next (applyCommit s d c)) ∧
    (dieReady s d c = false → exec (.commit d) s = .next s)) ∧
  (∀ (s : State) (c num : Nat), c = (getBeat s 0).cmt + 1 → num = (numOfOrd s 0 c).toNat → (getBeat s 0).started = true → domWorks s 0 56 = true →
    commitsAlone s 0 c = false → dieReady s 0 c = true → num ∈ (getBeat s 0).readyMsg → exec (.commit 0) s = .next
      (let t := setBeat s 0 { getBeat s 0 with readyMsg := (getBeat s 0).readyMsg.erase num }
       applyCommit (setBeat t 1 { getBeat t 1 with commitMsg := (getBeat t 1).commitMsg ++ [num] }) 0 c)) ∧
  (∀ (s : State) (y : YarnNo), (getYarn s 0 y.val).state ≠ .migrate → (getYarn s 1 y.val).state = .migrate →
    (getYarn s 1 y.val).cuts = [] → atBoundary s 1 y.val = true → exec (.yarnMigrateDone y) s = .next (migrateYarn s 1 y.val))

/-- The oldest fault of a die that names no harness, with every yarn it reaches of a class that replays and under its third replay: the fault leaves the list, the words of those yarns are discarded, each enters REPLAY and leaves the replay it was in, which ends when it has no other yarn, and a replay for them waits to be restored (R182, R185). A replay to be restored, with no egress item in delivery and no halted harness, is restored from the newest checkpoint or its fallback, as what the reads find says, with each read in error recorded (R263), or fails with result 6 or 3; one that needs a journal entry already released fails with result 3 (R183 to R185). A die that declares the other lost with the link down, and no heartbeat of its complex (R348), sets peer_lost, and the yarns and bobbins of the lost die are cut off (R192). A die whose yarns have moved reloads: its Ethernet ports fall silent with the frame in course cut short, and its rings stop (R194, R313). -/
def Obligations.ReplayAndLossRun : Prop :=
  (∀ (s : State) (d : Die) (f : FaultRec) (fs : List FaultRec) (t : State) (go : List Nat), (getBeat s d).faults = f :: fs →
    f.har = none → f.cls ≠ 6 → t = setBeat s d { getBeat s d with faults := fs } →
    go = (faultGroup t d f).filter (fun c => replayable (codeYarn t c)) → go ≠ [] →
    (∀ c ∈ go, (codeYarn t c).replay ≠ 2 ∧ (codeYarn t c).replays < 2) →
    exec (.replayStart d) s = .next
      (let rid (p : Replay) : Replay := { p with yarns := p.yarns.filter (fun c => !go.contains c) }
       let merge (b : BeatSt) : BeatSt :=
         { b with replays := (b.replays.filter (fun p => p.yarns.all (fun c => !go.contains c) || (rid p).yarns ≠ [])).map rid }
       let v := go.foldl (fun v c => settleYarn v (codeDie c) (c / 2)) (go.foldl enterReplay (dropYarns t go))
       let u := modBeat (modBeat v 0 merge) 1 merge
       modBeat u d (fun b => { b with replays := b.replays ++
         [{ fault := f, yarns := go, restored := false, result := 0, silent := false }] }))) ∧
  (∀ (s : State) (d : Die), (getBeat s d).faults = [] → exec (.replayStart d) s = .next s) ∧
  (∀ (s : State) (d : Die) (r : Replay), (getBeat s d).replays.find? (fun r => !r.restored) = some r → egressBusy s r = false →
    haltedHars s r = false →
    ∀ (rd : RestoreRead) (t : State), restoreErrors (restoreUe s r rd) r = t →
      ((restoreFinds s r rd = .good ∨ restoreFinds s r rd = .corrected) → exec (.replayRestoreDone d rd) s = .next (restoreFrom t d r 0)) ∧
      (restoreFinds s r rd = .lastBad → exec (.replayRestoreDone d rd) s = .next (restoreFrom t d r 1)) ∧
      (restoreFinds s r rd = .bothBad → exec (.replayRestoreDone d rd) s = .next (failReplay t d r 6 r.fault.cls.toNat)) ∧
      (restoreFinds s r rd = .entryBad → exec (.replayRestoreDone d rd) s = .next (failReplay t d r 3 9))) ∧
  (∀ (s : State) (d : Die) (r : Replay) (back : Nat),
    (((replayVals s r back).filter (fun e => decide ((codeYarn s e.1).replay = 0))).any (entryGone s) = true →
      restoreFrom s d r back = failReplay s d r 3 9) ∧
    (((replayVals s r back).filter (fun e => decide ((codeYarn s e.1).replay = 0))).any (entryGone s) = false →
      restoreFrom s d r back = restoreAll s d r back)) ∧
  (∀ (s : State) (d : Die), (domOn s (otherDie d) 59 = false ∨ dieHeld s (otherDie d) = true) → getF s fBRD_STAT_lstate d 0 = 0 → flagF s fBEAT_STAT_peer_lost d 0 = false → s.rst.dozing = false →
    getF s fVGL_PWR_state 0 0 = 0 → exec (.dieLostDeclare d) s = .next
      (let t := setF s fBEAT_STAT_peer_lost d 0 1
       let t := rplLast t d 0 7 (((yarnsOn t (otherDie d)).head?.map (fun e => e.1)).getD 0)
       let t := (yarnsOn t (otherDie d)).foldl (fun t e => loseYarn t d e) t
       t.flow.bobs.foldl (fun t e => if e.2.die = otherDie d ∧ e.1 < 65536 ∧ e.2.state ≠ .free then
         setBob t e.1 { getBob t e.1 with prodCut := true, consCut := true } else t) t)) ∧
  (∀ (s : State) (d : Die) (u : Update), (getBeat s d).update = some u → u.fw = false → updateMoved s d = true →
    exec (.dieReload d) s = .next
      (let t := (List.range 36).foldl (fun t h => loseOff t d h)
         (setBeat s d { getBeat s d with update := some { u with phase := .reloading } })
       let t := (List.range 48).foldl (fun t m => if isPickline (getF t fPCFG_mode d m) then t
         else
           let v := cutFrame t (d.val * 48 + m)
           setPort v (d.val * 48 + m) { getPort v (d.val * 48 + m) with cut := true, segs := [], txq := [], frag := none }) t
       let t := (List.range 24).foldl (fun t k => setF t fPL_CTL_run d (2 * k) 0) (stompRings t d)
       let t := selfRefresh (setDieState (setF t fCFG_STAT_done d 0 0) d 3) d true
       setImg t d { getImg t d with waiting := true, update := true, retained := false }))

/-- A clock failure of a harness that is ON, not yet powering down, and neither in reset nor halted sets and counts CLK_STAT.fail, asserts source 8, raises event 0x0B and records a fault (R202). A lock releases the source; a first failed attempt is noted and a second loses the harness (R202). A write of the frequency sets it and starts a slew when the clock is locked at another one (R200); a slew ends with the new frequency in force, and a rise waits while the margin is too low. One loop period moves the voltage one step up below the target margin, holds it near the target, and with the loop off takes vman; the headroom of the rail is kept (R206, R207). Lengthened cycles are counted up to 255 (R208). An aging measurement stores the shift, and is counted and kept in the NV store's record (R210). Each answer names the whole next state. -/
def Obligations.HarnessClocksFailAndSlew : Prop :=
  (∀ (s : State) (d : Die) (h : Harn), domWorks s d h.val = true → (getHar s d h.val).inReset = false → (getHar s d h.val).halted = false →
    exec (.harnessClockFail d h) s = .next
      (let t := countF (setF s fCLK_STAT_fail d h.val 1) fCLK_STAT_fail_cnt d h.val
       let t := assertReset t 8 { level := reachOf t d 8, die := d, har := h.val }
       let t := setHar t d h.val { getHar t d h.val with relocks := 0 }
       addFault (raiseEvent t 0x0B d (BitVec.ofNat 32 h.val) (regRaw t .CLK_STAT d h.val)) d
         { cls := 3, id := 0, har := some h.val, bob := none })) ∧
  (∀ (s : State) (d : Die) (h : Harn) (a : Asserted), clockHeld s d h.val = some a →
    exec (.harnessClockRelock d h true) s = .next (releaseReset s a) ∧
    ((getHar s d h.val).relocks = 0 → exec (.harnessClockRelock d h false) s =
      .next (setHar s d h.val { getHar s d h.val with relocks := 1 })) ∧
    ((getHar s d h.val).relocks ≠ 0 → exec (.harnessClockRelock d h false) s = .next (loseHarness s d h.val))) ∧
  (∀ (s : State) (rq : Requester) (d : Die) (h : Harn) (v : Word) (f : Nat),
    f = bitsOf (regWritten .CLK_CTL (regRaw s .CLK_CTL d h.val) v).toNat 6 0 → exec (.clkFreqWrite rq d h v) s = .next
      (let t := setF s fCLK_CTL_freq d h.val f
       setF t fCLK_STAT_slewing d h.val (if flagF t fCLK_STAT_locked d h.val ∧ getF t fCLK_STAT_freq_now d h.val ≠ f then 1 else 0))) ∧
  (∀ (s : State) (d : Die) (h : Harn), flagF s fCLK_STAT_slewing d h.val = true →
    (getF s fCLK_STAT_freq_now d h.val < getF s fCLK_CTL_freq d h.val ∧ marginOf s d h.val < marginTarget s →
      exec (.clkSlewDone d h) s = .next s) ∧
    ((getF s fCLK_CTL_freq d h.val ≤ getF s fCLK_STAT_freq_now d h.val ∨ marginTarget s ≤ marginOf s d h.val) →
      exec (.clkSlewDone d h) s = .next (setF (setF s fCLK_STAT_freq_now d h.val (getF s fCLK_CTL_freq d h.val))
        fCLK_STAT_slewing d h.val 0))) ∧
  (∀ (s t : State) (d : Die) (h : Harn) (m : BitVec 8) (r : BitVec 6), domWorks s d h.val = true →
    t = modHar (setF s fAVS_STAT_margin d h.val m.toNat) d h.val (fun a => { a with headroom := r.toNat }) →
    (flagF t fAVS_CTL_en d h.val = false → exec (.avsLoopTick d h m r) s =
      .next (modHar (setF t fAVS_STAT_vnow d h.val (min r.toNat (getF t fAVS_CTL_vman d h.val))) d h.val
        (fun a => { a with aboveFor := 0 }))) ∧
    (flagF t fAVS_CTL_en d h.val = true → signed 8 m.toNat < marginTarget s →
      getF t fAVS_STAT_vnow d h.val < min r.toNat (getF t fAVS_CTL_vmax d h.val) → exec (.avsLoopTick d h m r) s =
      .next (modHar (setF t fAVS_STAT_vnow d h.val (clampV t d h.val (getF t fAVS_STAT_vnow d h.val + 1) r.toNat)) d h.val
        (fun a => { a with aboveFor := 0 }))) ∧
    (flagF t fAVS_CTL_en d h.val = true → marginTarget s ≤ signed 8 m.toNat → signed 8 m.toNat ≤ marginTarget s + 4 →
      exec (.avsLoopTick d h m r) s = .next (modHar (setF t fAVS_STAT_vnow d h.val
        (clampV t d h.val (getF t fAVS_STAT_vnow d h.val) r.toNat)) d h.val (fun a => { a with aboveFor := 0 })))) ∧
  (∀ (s : State) (d : Die) (h : Harn) (c : BitVec 8), domWorks s d h.val = true → exec (.clockStretch d h c) s =
    .next (setF s fAVS_STAT_stretch d h.val (min 255 (getF s fAVS_STAT_stretch d h.val + c.toNat)))) ∧
  (∀ (s t : State) (d : Die) (h : Harn) (a b x : Nat), domWorks s d h.val = true → fwAt s d 5 = true →
    x = unsigned 16 (agingShift a b) → t = wrapF (setF s fAGE_STAT_shift d h.val x) fAGE_STAT_meas d h.val →
    flagF t fAVS_CTL_en d h.val = false → exec (.agingMeasure d h a b) s = .next
      (let l := (sparseGet (fun _ => (0, 0)) t.mem.aged (harKey d h.val)).2
       { t with mem.aged := sparseSet (fun _ => (0, 0)) t.mem.aged (harKey d h.val) (x, l) }))

/-- A write of DOM_CTL by the firmware stores woa and, for a target that the domain supports, the target, which the domain then pursues; the host's is ignored, and a target it does not support changes woa only (R212, R216, R219). A domain other than 57 and 63 goes from U2 to U3 to U4 and, once its clock locks, which a harness shows in CLK_STAT, to U5, or to U6 when it only restarts its clock; a failed lock is tried again once; a shutdown whose target is not ON goes from D2 to D3, from D3 to D4 for RET and to D5 for OFF, and from D4 to D5 (R214, R215). A precharge that takes too long fails the power-up with error 1 (R217), and what its proxy held is answered. A request to a domain that is not ON is answered ASLEEP and counted without woa, and held while the domain is brought up with it; an event is dropped and counted without woa (R239). Each answer names the whole next state. -/
def Obligations.DomainsStepAndAnswer : Prop :=
  (∀ (s : State) (rq : Requester) (d : Die) (n : DomIx) (v : Word) (t : State), t = setF s fDOM_CTL_woa d n.val (bitsOf v.toNat 8 8) →
    (rq = .host → exec (.domTargetWrite rq d n v) s = .next s) ∧
    (rq ≠ .host → domWritable d n.val = true → ∀ g, targetOf (bitsOf v.toNat 1 0) = some g →
      (domSupports n.val g = true → exec (.domTargetWrite rq d n v) s = .next (setTarget t d n.val g)) ∧
      (domSupports n.val g = false → exec (.domTargetWrite rq d n v) s = .next t))) ∧
  (∀ (s : State) (d : Die) (n : DomIx) (m : DomSt) (ok : Bool) (f : Finds), getDom s d n.val = m → n.val ≠ 57 → n.val ≠ 63 →
    (∀ a b : DStep, (a, b) ∈ [(DStep.u2, DStep.u3), (.u3, .u4), (.d4, .d5)] → m.step = a →
      exec (.domainStepComplete d n ok f) s = .next (setDom s d n.val { m with step := b })) ∧
    (m.step = .u4 → exec (.domainStepComplete d n true f) s =
      .next (let t := setDom s d n.val { m with step := if m.fast then .u6 else .u5 }
        if n.val < 36 then lockClock t d n.val else t)) ∧
    (m.step = .u4 → m.locks = 0 → exec (.domainStepComplete d n false f) s = .next (setDom s d n.val { m with locks := 1 })) ∧
    (m.step = .d2 → m.goal ≠ .on → exec (.domainStepComplete d n ok f) s = .next (setDom s d n.val { m with step := .d3 })) ∧
    (m.step = .d3 → exec (.domainStepComplete d n ok f) s =
      .next (setDom s d n.val { m with step := if m.fall = .ret then .d4 else .d5 }))) ∧
  (∀ (s : State) (d : Die) (n : DomIx), (getDom s d n.val).step = .u1 → exec (.domainPrechargeTimeout d n) s =
    .next (afterStep (domFails s d n.val 1) d n.val .u1 cleanFinds)) ∧
  (∀ (s : State) (d : Die) (n : DomIx) (p : Packet), domExists d n.val = true → proxied s d n.val = true →
    p.cls = .request → maySend s p = true → flagF s fDOM_CTL_woa d n.val = false → exec (.proxyPacket d n p) s =
      .next (countF (respond (addAwait s p) p 1 []) fPROXY_STAT_asleep d n.val)) ∧
  (∀ (s : State) (d : Die) (n : DomIx) (p : Packet), domExists d n.val = true → proxied s d n.val = true →
    p.cls = .request → maySend s p = true → flagF s fDOM_CTL_woa d n.val = true → exec (.proxyPacket d n p) s = .next (setTarget
      (setHeld (addAwait s p) (domKey d n.val) (heldPackets s (domKey d n.val) ++ [p])) d n.val .on)) ∧
  (∀ (s : State) (d : Die) (n : DomIx) (p : Packet), domExists d n.val = true → proxied s d n.val = true →
    p.cls = .event → maySend s p = true → flagF s fDOM_CTL_woa d n.val = false → exec (.proxyPacket d n p) s =
      .next (countF s fPROXY_STAT_ev_drop d n.val))

/-- A clean packet of class event that the tables bring to an endpoint of the sender's die, whose domain is ON, fills its event slot, takes no token, and counts a merge as any event does (R226, R232, R233); stray packets that the tables now bring on go first (R235); an event fills its slot, and one that meets a full slot replaces its data and counts the merge. A request that times out gives its token back, completes with status 3 (R228, R231), and a request that waits for its place in the tracker crosses (R247). A network lock-up asserts source 10 (R234). The firmware starts a switch when none runs, a router that holds no packet of the old generation switches once, a switch that every router has made puts the other generation in force and is counted, with no packet held it leaves none, and a late one sets gen_late and raises event 0x0F naming the first router still to switch (R236, R237). Each answer names the whole next state. -/
def Obligations.NetworkEventsAndGenerations : Prop :=
  (∀ (s t : State) (p : Packet) (es : List (Fin 42 × FlitErr)) (f : Finds) (d : Die) (n : Nat), p.cls = .event → p.op = 0x18 →
    p.poison = false → epDie p.dst = d → epDie p.src = d → noRouter d p = false → epDomain p.dst = some n → (∀ e ∈ es, e.2 = .none) →
    dieHeld s d = false → domOn s d 57 = true → t = passStray s d → routed t d p = true → flagF t fNOC_STAT_switching d 0 = false →
    proxied t d n = false →
    exec (.networkPacketReceive p es f) s = .next (takeEvent t d (eventOf p) f.taken)) ∧
  (∀ (s : State) (d : Die) (e : NetEvent) (taken : Bool), exec (.eventReceive d e taken) s = .next
    (let x := sparseGet slotEmpty s.net.slots (slotKey d e)
     let x : EvSlot := { data := e.data, full := true, merges := if x.full && !taken then x.merges + 1 else x.merges }
     { s with net.slots := sparseSet slotEmpty s.net.slots (slotKey d e) x })) ∧
  (∀ (s : State) (d : Die) (ep tok : BitVec 8) (a : Await) (e : BitVec 9),
    s.net.awaits.find? (fun a => a.die = d ∧ a.ep = ep ∧ a.token = tok) = some a → e = endpointOf d ep →
    exec (.requestTimeout d ep tok) s = .next (forwardNext (emit
      { s with net.awaits := s.net.awaits.filter (fun a => !(decide (a.die = d) && decide (a.ep = ep) && decide (a.token = tok))) }
      (.packet { cls := .response, gen := flagF s fNOC_STAT_gen d 0, dst := e, src := e, op := 0, len := 0, token := tok, addr := 0,
                 status := 3, write := false, inspect := false, data := [] })) d)) ∧
  (∀ (s : State) (d : Die), exec (.networkLockup d) s = .next (assertReset s 10 { level := reachOf s d 10, die := d, har := 0 })) ∧
  (∀ (s : State) (rq : Requester) (d : Die), rq ≠ .host → flagF s fNOC_STAT_switching d 0 = false → exec (.genSwitchStart rq d) s =
    .next (setF { s with net.switched := s.net.switched.filter (fun e => decide (e.1 ≠ d.val)) } fNOC_STAT_switching d 0 1)) ∧
  (∀ (s : State) (d : Die) (r : Fin 42), flagF s fNOC_STAT_switching d 0 = true → (d.val, r.val) ∉ s.net.switched →
    strayAt s d r.val (flagF s fNOC_STAT_gen d 0) = false →
    exec (.genSwitchRouter d r) s = .next { s with net.switched := s.net.switched ++ [(d.val, r.val)] }) ∧
  (∀ (s : State) (d : Die), flagF s fNOC_STAT_switching d 0 = true → allSwitched s d = true → heldPackets s (130 + d.val) = [] →
    heldPackets s (132 + d.val) = [] →
    exec (.genSwitchComplete d) s = .next
      (let t := wrapF (setF (setF s fNOC_STAT_gen d 0 (1 - getF s fNOC_STAT_gen d 0)) fNOC_STAT_switching d 0 0) fNOC_STAT_sw_count d 0
       setHeld (setHeld { t with net.switched := t.net.switched.filter (fun e => decide (e.1 ≠ d.val)) } (130 + d.val) []) (132 + d.val) [])) ∧
  (∀ (s : State) (d : Die) (r : Nat), flagF s fNOC_STAT_switching d 0 = true →
    (List.range 42).find? (fun r => !s.net.switched.contains (d.val, r)) = some r → exec (.genSwitchLate d) s =
      .next (raiseEvent (setF s fNOC_STAT_gen_late d 0 1) 0x0F d (BitVec.ofNat 32 r)
        (regRaw (setF s fNOC_STAT_gen_late d 0 1) .NOC_STAT d 0)))

/-- On a link that is up, a frame in sequence whose check holds advances the expected number, its acknowledgement and credits are taken, its flits make up the packets that enter the die's network, the credits for them are owed, and the next frame acknowledges it (R242 to R244). No valid frame for 1 µs, lost alignment of a lane in use, or a request starts a retrain of both halves (R246). A retrain or a training attempt that ends with all 24 lanes or a half of them good in both directions brings the halves up at that width, or at half of it when both halves keep the half width (R246), and raises the link event; one without lanes leaves a training link DOWN (R245, R247, R248). Hold-down brings the link down (R247). With a rejoin pending on both halves die 1 keeps the boundary's number modulo 3 (R179). Each answer names the whole next state. -/
def Obligations.BredanLinkFramesAndTraining : Prop :=
  (∀ (s : State) (d : Die) (f : BitVec 4320) (es : List (Fin 42 × FlitErr)) (x : Finds), linkUp s d = true → frameOk f = true → trailer f 11 0 = (getBrd s d).nextSeq.toNat →
    (∀ (b : BrdSt) (t : State), b = getBrd s d →
      t = takeTrailer (setBrd s d
        { b with nextSeq := b.nextSeq + 1, naks := 0, waitSeq := false, crDue := creditsFor b.crDue (frameFlits f) }) d f →
      exec (.bredanFrameReceive d f es x) s =
        .next (sendFlits (sendFrame ((frameFlits f).foldl (fun t y => takeFlit es x t d y) (passStray t d)) d 1) d))) ∧
  (∀ (s : State) (d : Die), linkUp s d = true → exec (.bredanNoFrame d) s = .next (startRetrain s) ∧
    (∀ l : Fin 24, laneUsed s d l.val = true → exec (.bredanLaneAlignmentLoss d l) s = .next (startRetrain s)) ∧
    (∀ rq, exec (.brdRetrain rq d) s = .next (startRetrain (setBrd (setBrd s 0 { getBrd s 0 with width12 := false }) 1
      { getBrd (setBrd s 0 { getBrd s 0 with width12 := false }) 1 with width12 := false })))) ∧
  (∀ (s : State) (rq : Requester) (d : Die), exec (.brdHoldDown rq d true) s = .next (linkDown (setF s fBRD_CTL_hold_down d 0 1)) ∧
    exec (.brdHoldDown rq d false) s = .next (setF s fBRD_CTL_hold_down d 0 0)) ∧
  (∀ (s : State) (d : Die) (a b : BitVec 24) (w : Bool × Bool), linkState s 0 = 4 → linkState s 1 = 4 →
    widthFor (a &&& b) (getBrd s d).width12 = some w → exec (.bredanRetrainDone d a b) s = .next
      (linkEvent ([(0 : Die), 1].foldl (fun t x => if linkState t x = 4 then sendFlits (resend (halfUp t x w) x) x else t)
        (showLanes s d a b)) d)) ∧
  (∀ (s t : State) (d : Die) (a b : BitVec 24), linkState s 0 ≤ 1 → linkState s 1 ≤ 1 → mayTrain s 0 = true → mayTrain s 1 = true →
    t = showLanes s d a b → (widthFor (a &&& b) ((getBrd t 0).width12 && (getBrd t 1).width12) = none → exec (.bredanTrainAttempt d a b) s = .next (linkDown t)) ∧
    (∀ w, widthFor (a &&& b) ((getBrd t 0).width12 && (getBrd t 1).width12) = some w → apart t = false → flagF t fBRD_STAT_split 0 0 = false →
      flagF t fBRD_STAT_split 1 0 = false → exec (.bredanTrainAttempt d a b) s = .next (linkEvent ([(0 : Die), 1].foldl (fun t x =>
        sendFlits (halfUp (setBrd t x (freshHalf (getBrd t x))) x w) x) t) d))) ∧
  (∀ s : State, flagF s fBRD_STAT_rejoin_pend 0 0 = true → flagF s fBRD_STAT_rejoin_pend 1 0 = true → linkUp s 1 = true →
    (getBrd s 0).rejoinEv.isSome = true →
    exec .rejoinEvent s = .next (setBeat (setBrd s 0 { getBrd s 0 with rejoinEv := none }) 1 { getBeat s 1 with
      rejoinMod := some (if (getBeat s 1).started then ((beatNum s 1).toNat + 1) % 3 else 3) }))

/-- Clearing the collision counts of a harness sets BANK_COLL to 0. A reading of -128 to 127 °C of a stack is shown in HBM_STAT.temp, the band rises at once or falls as far as the edges have been clear, and the refresh code follows the band; a change of the data rate begins where the band asks for one (R264). A channel group that has changed without a failing pseudo-channel is counted, and the eighth ends the change: the rate is in force and event 0x11 is raised (R264). A patrol read that is clean and not of a poisoned granule changes nothing, and one that the stack's own code corrects is counted (R262, R263). The end of a retirement copy clears HBM_RET.copying (R266). Each answer names the whole next state. A reading that the register's field does not hold is shown as a free value, the model's choice (log entry 4), and is outside this statement. -/
def Obligations.HbmTemperatureScrubAndRetire : Prop :=
  (∀ (s : State) (rq : Requester) (d : Die) (h : Harn), exec (.bankCollClear rq d h) s = .next (setReg s .BANK_COLL d h.val 0)) ∧
  (∀ (s : State) (d : Die) (v : BitVec 9) (t : Int) (m : HbmSt) (b : Nat), t = signed 9 v.toNat → -128 ≤ t → t ≤ 127 → getHbm s d = m →
    b = (if m.band ≤ bandOf t then bandOf t else coolTo s.vigil.ticks (coolSince s.vigil.ticks t m.coolAt) (bandOf t) m.band) →
    exec (.hbmTempRead d v) s = .next (startRate (setF (setHbm (setF s fHBM_STAT_temp d 0 (unsigned 8 t)) d
      { m with band := b, coolAt := coolSince s.vigil.ticks t m.coolAt }) fHBM_STAT_refresh d 0 (bandRefresh b)) d)) ∧
  (∀ (s : State) (d : Die), flagF s fHBM_STAT_changing d 0 = true →
    ((getHbm s d).groups < 7 → exec (.hbmRateGroupDone d none) s =
      .next (setHbm s d { getHbm s d with groups := (getHbm s d).groups + 1 })) ∧
    (7 ≤ (getHbm s d).groups → ∀ t, t = setHbm (setF (setF s fHBM_STAT_changing d 0 0) fHBM_STAT_rate d 0
        (bandRate (getHbm s d).band)) d { getHbm s d with groups := 0 } →
      exec (.hbmRateGroupDone d none) s = .next (raiseEvent t 0x11 d (BitVec.ofNat 32 d.val) (regRaw t .HBM_STAT d 0)))) ∧
  (∀ (s : State) (d : Die) (g : Fin 771751936),
    (g.val ∉ (getHbm s d).poison → exec (.hbmPatrolScrub d g .clean) s = .next s) ∧
    exec (.hbmPatrolScrub d g .onDie) s = .next (countF s fHBM_ECC_ode d 0) ∧
    exec (.hbmPatrolScrub d g .corrected) s = .next (correctedAt s d (g.val * 32)) ∧
    exec (.hbmPatrolScrub d g .uncorrectable) s = .next (demandUe s d (g.val * 32))) ∧
  (∀ (s : State) (d : Die), exec (.hbmRetireCopyDone d) s = .next (setF s fHBM_RET_copying d 0 0))

/-- A start while no pass runs and the engine's domain is ON and takes work: a destructive pass over a target in use is refused; otherwise MT_STAT shows busy alone, the old failure is no longer valid, and a preserving pass has its chunks (R268, R271). A chunk that a user touched is tried again at the end of the list, and is skipped and counted the fourth time; one that ends well leaves the list and the progress is shown (R271). A preserving pass that runs to its end without a failure, or is aborted, clears busy and completes the command that waits for it with MT_STAT and MT_FAIL (R272, R273); that an aborted destructive pass leaves 0 in what it tested is the model's choice (log entry 31). Each answer names the whole next state. -/
def Obligations.MarchTestsRun : Prop :=
  (∀ (s t : State) (rq : Requester) (d : Die) (v : Word), t = regWrite s .MT_CTL d 0 v → flagF s fMT_STAT_busy d 0 = false →
    bitOf v.toNat 31 = true → domTakes t d 60 = true →
    (flagF t fMT_CTL_mode d 0 = false → marchInUse t d (getF t fMT_CTL_tgt d 0) = true →
      exec (.mtStart rq d v) s = .next (setF t fMT_STAT_refused d 0 1)) ∧
    (∀ u, u = setF (setReg t .MT_STAT d 0 0x80000000) fMT_FAIL_valid d 0 0 →
      (flagF t fMT_CTL_mode d 0 = false → marchInUse t d (getF t fMT_CTL_tgt d 0) = false →
        exec (.mtStart rq d v) s = .next (setMarch u d { getMarch u d with total := 0, chunks := [] })) ∧
      (flagF t fMT_CTL_mode d 0 = true → exec (.mtStart rq d v) s = .next (setMarch u d { getMarch u d with
        total := (marchChunks u d (getF t fMT_CTL_tgt d 0)).length, chunks := marchChunks u d (getF t fMT_CTL_tgt d 0) })))) ∧
  (∀ (s : State) (rq : Requester) (d : Die), flagF s fMT_STAT_busy d 0 = true →
    (flagF s fMT_CTL_mode d 0 = true → exec (.mtAbort rq d) s = .next (endPass s d)) ∧
    (flagF s fMT_CTL_mode d 0 = false → exec (.mtAbort rq d) s = .next (endPass (marchWipe s d (getF s fMT_CTL_tgt d 0)) d))) ∧
  (∀ (s : State) (d : Die) (m : MarchSt) (c : Chunk) (cs : List Chunk) (bad : Option Nat), getMarch s d = m → m.chunks = c :: cs →
    (c.tries < 3 → exec (.marchChunkDone d true bad) s =
      .next (setMarch s d { m with chunks := cs ++ [{ c with tries := c.tries + 1 }] })) ∧
    (3 ≤ c.tries → exec (.marchChunkDone d true bad) s =
      .next (marchPct (countF (setMarch s d { m with chunks := cs }) fMT_STAT_skipped d 0) d)) ∧
    exec (.marchChunkDone d false none) s = .next (marchPct (setMarch s d { m with chunks := cs }) d)) ∧
  (∀ (s : State) (d : Die) (bad : List MarchPlace), flagF s fMT_STAT_busy d 0 = true → (getMarch s d).chunks = [] →
    flagF (setF s fMT_STAT_pct d 0 100) fMT_CTL_mode d 0 = true →
    exec (.mtPassDone d bad) s = .next (let t := setF (setF s fMT_STAT_pct d 0 100) fMT_STAT_busy d 0 0
      let u := setMarch t d { getMarch t d with chunks := [], total := 0, startup := false }
      endWait u (.march d) 0 (regRaw u .MT_STAT d 0).toNat (regRaw u .MT_FAIL d 0).toNat))

/-- On a live port whose link is up: a frame that is damaged or of a length outside 64 to 9,216 bytes is counted in RX_DROP.bad; a PTP frame goes to the time system with ptp_en, its ingress time beside it; of the others the lowest rule that takes it makes an item of its bobbin, and one that no rule takes, a MAC control frame among them, is counted in RX_DROP.no_match (R278 to R282). A turn of the transmitter takes what is never sent, and then sends the next frame of an item begun, or the item of the binding chosen, if one may start, and otherwise goes on with a preempted frame; an express frame, and any without verified preemption, leaves whole (R284, R285), and the port keeps what it is sending. A change of the gate control list is pending until a cycle at or after its base time; a cycle of a started list begins with entry 0 now, and an entry that is not the last hands over to the next (R286); each lets the bobbins whose gate opens send again (R145). A recalibration interrupts no traffic (R500). Each answer names the whole next state. -/
def Obligations.EthernetFramesAndGates : Prop :=
  (∀ (s : State) (p : Port) (bs : List Byte), ethLive s p.val = true → portUp s p.val = true →
    (bs.length < 64 ∨ 9216 < bs.length → ∀ ok, exec (.ethFrameReceive p bs ok) s =
      .next (countF s fRX_DROP_bad (portDie p.val) (portIx p.val))) ∧
    exec (.ethFrameReceive p bs false) s = .next (countF s fRX_DROP_bad (portDie p.val) (portIx p.val)) ∧
    (64 ≤ bs.length → bs.length ≤ 9216 →
      ((ethParse bs).etype = 0x8808 → exec (.ethFrameReceive p bs true) s =
        .next (countF s fRX_DROP_no_match (portDie p.val) (portIx p.val))) ∧
      ((ethParse bs).etype ≠ 0x8808 → flagF s fPCFG_ptp_en (portDie p.val) (portIx p.val) = true → isPtp (ethParse bs) = true →
        exec (.ethFrameReceive p bs true) s = .next (emit s (.ptp p.val bs (ingressTime s p.val)))) ∧
      ((ethParse bs).etype ≠ 0x8808 → flagF s fPCFG_ptp_en (portDie p.val) (portIx p.val) = false →
        (∀ r, (List.range 64).find? (ruleTakes s p.val (ethParse bs)) = some r →
          exec (.ethFrameReceive p bs true) s = .next (ruleItem s p.val (ethParse bs) r)) ∧
        ((List.range 64).find? (ruleTakes s p.val (ethParse bs)) = none → exec (.ethFrameReceive p bs true) s =
          .next (countF s fRX_DROP_no_match (portDie p.val) (portIx p.val)))))) ∧
  (∀ (s t : State) (p : Port) (due : Option Nat), ethLive s p.val = true → portUp s p.val = true → t = skipBindings s p.val →
    (choose t p.val (bindings s p.val) = none →
      ((getPort t p.val).frag = none → exec (.ethFrameTransmit p due) s = .next t) ∧
      (∀ x, (getPort t p.val).frag = some x →
        (gateOpen t p.val x.tc = true → exec (.ethFrameTransmit p due) s = .next (sendPart t p.val x due)) ∧
        (gateOpen t p.val x.tc = false → exec (.ethFrameTransmit p due) s = .next t))) ∧
    (∀ e, choose t p.val (bindings s p.val) = some (.inr e) → exec (.ethFrameTransmit p due) s = .next (sendBinding t p.val e due)) ∧
    (∀ x, choose t p.val (bindings s p.val) = some (.inl x) → exec (.ethFrameTransmit p due) s =
      .next (startItemFrames t p.val x.tc x.frames due))) ∧
  (∀ (s : State) (p : Nat) (x : TxFrame) (due : Option Nat), flagF s fPCFG_lpbk (portDie p) (portIx p) = false →
    (preemptAt s p x.tc (x.bytes.length - x.sent) due = none → x.sent = 0 →
      sendPart s p x due = emit (noteTx s p x.bytes.length) (.frame p x.bytes (egressTime s p))) ∧
    (preemptAt s p x.tc (x.bytes.length - x.sent) due = none → x.sent ≠ 0 → sendPart s p x due =
      emit (noteTx (setPort s p { getPort s p with frag := none }) p (x.bytes.length - x.sent)) (.fragment p x.count true (x.bytes.drop x.sent))) ∧
    (Config.express p x.tc = true ∨ (getPort s p).verified = false → preemptAt s p x.tc (x.bytes.length - x.sent) due = none)) ∧
  (∀ (s : State) (rq : Requester) (p : Port), exec (.qbvChange rq p) s =
    .next (setF s fQBV_CTL_pend (portDie p.val) (portIx p.val) 1)) ∧
  (∀ (s t : State) (p : Port), ethLive s p.val = true → t = (if flagF s fQBV_CTL_pend (portDie p.val) (portIx p.val) = true ∧
      adminBase s p.val ≤ vigilNow s then adoptList s p.val else s) →
    ((getPort t p.val).started = true → exec (.qbvCycleStart p) s = .next (unstall (setPort t p.val { getPort t p.val with
      entry := 0, cycleAt := vigilNow t, entryAt := vigilNow t }) p.val)) ∧
    ((getPort t p.val).started = false → exec (.qbvCycleStart p) s = .next t)) ∧
  (∀ (s : State) (p : Port), ethLive s p.val = true → (getPort s p.val).started = true →
    ((getPort s p.val).entry + 1 < (getPort s p.val).olen → exec (.gateControlListEntryEnd p) s =
      .next (unstall (setPort s p.val { getPort s p.val with entry := (getPort s p.val).entry + 1, entryAt := vigilNow s }) p.val)) ∧
    ((getPort s p.val).olen ≤ (getPort s p.val).entry + 1 → exec (.gateControlListEntryEnd p) s = .next s)) ∧
  (∀ (s : State) (p : Port), exec (.serdesRecalibration p) s = .next s)

/-- A write of PORT.CFG by the host changes nothing (R478); by the firmware it ends the port's silence, and while en was 1 the mode and fec stay as they were; a port that is then not enabled has no line, and a ring whose ports are then no pair is OFF (R276, R315). The line of an enabled port with power shows what its PCS reports: its corrected codewords are counted while CFG.fec selects a FEC at 25GBASE-R, the line of a Pickline port comes from its sync headers and IDLE blocks, and a change of the link raises event 0x16, counts a loss and cuts short what is being sent, or lets the port send again (R290, R292, R315, R341). A Pickline port in block lock has its link up unless its last four IDLE blocks all carry rx_ok = 0 (R292). The loss of a quad's reference takes the lines of its four ports down, cuts short the frames that they send, and silences them and their rings until they are configured or run (R274, R313); the loss of the supply does so to every port and takes the CXL link down (R311, R316); what returns only counts as there again. Each answer names the whole next state. -/
def Obligations.PortsAreConfiguredAndLost : Prop :=
  (∀ (s : State) (rq : Requester) (p : Port) (v : Word), (rq = .host → exec (.portCfgWrite rq p v) s = .next s) ∧
    (rq ≠ .host → ∀ (old : Word) (t u : State), old = regRaw s .PCFG (portDie p.val) (portIx p.val) →
      t = regWrite s .PCFG (portDie p.val) (portIx p.val) v →
      u = (if bitOf old.toNat 31 = true then setF (setF t fPCFG_mode (portDie p.val) (portIx p.val) (bitsOf old.toNat 26 24))
        fPCFG_fec (portDie p.val) (portIx p.val) (bitsOf old.toNat 23 22) else t) →
      (flagF u fPCFG_en (portDie p.val) (portIx p.val) = true → portMode u p.val ≠ 0 →
        (ringPaired u (p.val / 2) = true → exec (.portCfgWrite rq p v) s =
          .next (setPort u p.val { getPort u p.val with cut := false })) ∧
        (ringPaired u (p.val / 2) = false → exec (.portCfgWrite rq p v) s =
          .next (setPort (ringOff u (p.val / 2)) p.val { getPort u p.val with cut := false }))) ∧
      (flagF u fPCFG_en (portDie p.val) (portIx p.val) = false → ∀ w, w = loseLine u p.val → ringPaired w (p.val / 2) = false →
        exec (.portCfgWrite rq p v) s = .next (setPort (ringOff w (p.val / 2)) p.val { getPort w p.val with cut := false })))) ∧
  (∀ (s t : State) (p : Port) (l : LineState),
    flagF s fPCFG_en (portDie p.val) (portIx p.val) = true → portMode s p.val ≠ 0 → portPowered s p.val = true →
    t = (if fecOn s p.val = true then addF s fPCS_STAT_fec_ce (portDie p.val) (portIx p.val) l.fecCe.toNat else s) →
    (isPickline (portMode s p.val) = true → exec (.portLinkChange p l) s = .next (setPlLine t p.val l)) ∧
    (isPickline (portMode s p.val) = false → exec (.portLinkChange p l) s = .next (setEthLine t p.val l))) ∧
  (∀ (s t u : State) (p : Nat) (l : LineShown) (d : Die) (m : Nat), d = portDie p → m = portIx p →
    t = setF (setF (setF (setF (setF s fPCS_STAT_link d m (bitN l.link)) fPCS_STAT_blk_lock d m (bitN l.blkLock)) fPCS_STAT_hi_ber d m
      (bitN l.hiBer)) fPCS_STAT_rem_fault d m (bitN l.remFault)) fPCS_STAT_fec_lock d m (bitN l.fecLock) →
    (flagF s fPCS_STAT_link d m = l.link → showLine s p l = t) ∧
    (flagF s fPCS_STAT_link d m = true → l.link = false →
      u = setPort (countF t fPCS_STAT_los_cnt d m) p { getPort t p with txq := [], frag := none } →
      showLine s p l = raiseEvent u 0x16 d (BitVec.ofNat 32 p) (regRaw u .PCS_STAT d m)) ∧
    (flagF s fPCS_STAT_link d m = false → l.link = true → u = unstall t p →
      showLine s p l = raiseEvent u 0x16 d (BitVec.ofNat 32 p) (regRaw u .PCS_STAT d m))) ∧
  (∀ (s t : State) (p : Nat) (l : LineState) (seen : List Bool) (up : Bool), l.headers = [] →
    flagF s fPCS_STAT_blk_lock (portDie p) (portIx p) = true → ringLive s (p / 2) = false →
    seen = ((getPort s p).idles ++ l.rxOk).drop (((getPort s p).idles ++ l.rxOk).length - 4) →
    up = !(decide (seen.length = 4) && seen.all (fun ok => !ok)) →
    t = showLine (setPort s p { getPort s p with idles := seen }) p
      { link := up, blkLock := true, hiBer := l.hiBer, remFault := decide (seen.getLast? = some false), fecLock := false } →
    ringLive t (p / 2) = false → setPlLine s p l = t) ∧
  (∀ (s t : State) (q : Fin 24), t = { s with ports.quadLost := if s.ports.quadLost.contains q.val then s.ports.quadLost
      else s.ports.quadLost ++ [q.val] } → exec (.quadReferenceLoss q true) s = .next
        (muteRing (muteRing ((List.range 4).foldl (fun t k => cutPort t (4 * q.val + k)) t) (2 * q.val)) (2 * q.val + 1)) ∧
    exec (.quadReferenceLoss q false) s = .next { s with ports.quadLost := s.ports.quadLost.filter (fun k => k ≠ q.val) }) ∧
  (∀ s : State, exec (.serdesSupplyLoss true) s =
    .next (cxlDown ((List.range 48).foldl muteRing ((List.range 96).foldl cutPort { s with ports.supply := false }))) ∧
    exec (.serdesSupplyLoss false) s = .next { s with ports.supply := true }) ∧
  (∀ (s t : State) (p k : Nat), (t = loseLine (cutFrame s p) p → cutPort s p =
      setPort t p { getPort t p with cut := true, segs := [], txq := [], frag := none }) ∧
    muteRing s k = setRing s k { getRing s k with silent := true, sending := [] })

/-- On a live ring: the COMMAND frame is built once, a slot for each valid address in rising order (R304). A cycle whose frame is built starts on the next grid start; with a reason to hold it sends HOLD frames both ways and discards what it took; else, with a discovery asked for, DISCOVER frames both ways; else, with no port up, nothing, in state 5; else the COMMAND and COLLECT frames, in ring mode only when the last cycle found the ring whole and both ports are up (R299, R303, R309, R310). At the pick instant the COMMAND frames that have not come back are counted as lost (R303). The end of a cycle stores what was found, shows the reach, raises the event when the finding changed, counts the nodes whose status did not return, in any cycle, and after a discovery cycle compares the node table with what was found (R299, R305, R307). Each answer names the whole next state. -/
def Obligations.PicklineCyclesRun : Prop :=
  (∀ (s t : State) (k : Ring) (cs : List CmdSlot), ringLive s k.val = true → (getRing s k.val).built = false →
    (ringAddrs s k.val).foldl (fun (r : State × List CmdSlot) a => ((fillSlot r.1 k.val a).1, r.2 ++ [(fillSlot r.1 k.val a).2])) (s, []) = (t, cs) →
    exec (.plFrameBuild k) s = .next (setRing t k.val { getRing t k.val with slots := cs, built := true })) ∧
  (∀ (s t u : State) (k : Ring) (prev : Nat), ringLive s k.val = true → t = cycleEnd s k.val → (getRing t k.val).built = true →
    prev = (if (getRing t k.val).running then pickAt (getRing t k.val)
      else (nextGrid t k.val).start + (nextGrid t k.val).lead - (nextGrid t k.val).period) →
    u = setRing t k.val { nextGrid t k.val with
      ended := false, built := false, picked := false, cmdOut := [], colOut := [], sending := [], evenReach := [], oddReach := [],
      whole := false, taken := [], found := [], prevPick := prev } →
    (∀ c, holdReason u k.val = c → c ≠ 0 → exec (.plCycleStart k) s = .next
      (let w := showCycle (dropSlots u k.val) k.val 3
       let at_ := if c = 1 ∨ c = 2 then 0 else plTime (nextGrid t k.val).start
       let now := (nextGrid t k.val).start
       sendRing (sendRing w k.val 3 false now at_ c []) k.val 3 true now at_ c [])) ∧
    (holdReason u k.val = 0 → ringTooLong u k.val = false →
      ((nextGrid t k.val).discPend = true → exec (.plCycleStart k) s = .next
        (let w := showCycle (dropSlots u k.val) k.val 4
         let w := setRing w k.val { getRing w k.val with discPend := false }
         let n := ringCount w k.val
         let now := (nextGrid t k.val).start
         sendRing (sendRing w k.val 4 false now (plTime now) n []) k.val 4 true now (plTime now) n [])) ∧
      ((nextGrid t k.val).discPend = false → portUp u (2 * k.val) = false → portUp u (2 * k.val + 1) = false →
        exec (.plCycleStart k) s = .next (showCycle (dropSlots u k.val) k.val 5)) ∧
      ((nextGrid t k.val).discPend = false → portUp u (2 * k.val) = true → portUp u (2 * k.val + 1) = true →
        (∀ a b, (nextGrid t k.val).prev = some (1, a, b) → exec (.plCycleStart k) s =
          .next (sendCycle (noteSent (showCycle u k.val 1) k.val) k.val false)) ∧
        ((nextGrid t k.val).prev = none → exec (.plCycleStart k) s =
          .next (sendCycle (noteSent (showCycle u k.val 2) k.val) k.val true))))) ∧
  (∀ (s : State) (k : Ring) (r : RingSt), ringLive s k.val = true → getRing s k.val = r → r.running = true → r.ended = false →
    r.picked = false → exec (.plPickInstant k) s =
      .next (setRing (countLost s k.val r.cmdOut.length) k.val { r with cmdOut := [], picked := true })) ∧
  (∀ (s t u : State) (k : Ring) (r : RingSt) (f : Nat × Nat × Nat), ringLive s k.val = true → getRing s k.val = r → r.running = true →
    r.ended = false → t = countLost s k.val (r.colOut.length + (if r.picked then 0 else r.cmdOut.length)) →
    f = finding t k.val r →
    u = setF (setF (setRing (markUnreachable t k.val f) k.val { r with ended := true, colOut := [], cmdOut := [], prev := some f })
      fPL_STAT_even_reach (ringDie k.val) (ringIx k.val) f.2.1) fPL_STAT_odd_first (ringDie k.val) (ringIx k.val) f.2.2 →
    ∀ w, w = (match r.prev with
      | some p => if sameFinding p f then u else ringEvent u k.val
      | none => u) →
    (r.mode ≠ 4 → exec (.plCycleEnd k) s = .next (countMisses w k.val)) ∧
    (r.mode = 4 → exec (.plCycleEnd k) s = .next (compareNodes (countMisses w k.val) k.val)))

/-- On a live ring whose cycle runs: blocks that are no frame, and a frame of another ring or cycle, are counted in PL_ERR.crc; so is a damaged frame of this cycle, which is then no longer awaited; a good frame of this cycle that no rule calls late is noted, its status slots are taken in order when it is a COLLECT frame, and a turned one may heal the ring (R303, R306). A frame that returns outside a cycle is counted in PL_ERR.crc. On a port not in loopback (R315) the device sends a DLY request with its next number, answers a node's request with the time it took, and from the response to its own request stores half of the round trip less the turnaround, in units of 0.25 ns and at most 65,535 (R297). Writes by the host change nothing (R478). By others: a discovery is asked for (R299); run going from 0 to 1 asks for one too, a run of 1 ends the ring's silence, and one going from 1 to 0 cuts short what the ring is sending (R310, R313); period and base are stored, and a lead outside 2,000 ns to the period less 2,000 ns is not (R302). Each answer names the whole next state. -/
def Obligations.PicklineFramesReturnAndGrid : Prop :=
  (∀ (s : State) (k : Ring) (odd : Bool) (bl : List PlBlock) (r : RingSt), ringLive s k.val = true → getRing s k.val = r → r.running = true →
    r.ended = false →
    (plParse bl = none → exec (.plFrameReturn k odd bl) s = .next (countF s fPL_ERR_crc (ringDie k.val) (ringIx k.val))) ∧
    (∀ f, plParse bl = some f →
      ((f.ring ≠ k.val ∨ f.cycle ≠ r.cycle.toNat) → exec (.plFrameReturn k odd bl) s =
        .next (countF s fPL_ERR_crc (ringDie k.val) (ringIx k.val))) ∧
      (f.ring = k.val → f.cycle = r.cycle.toNat →
        (f.good = false → exec (.plFrameReturn k odd bl) s =
          .next (countF (setRing s k.val (noteBack r f)) fPL_ERR_crc (ringDie k.val) (ringIx k.val))) ∧
        (f.good = true → leadLate s r f = false → ∀ t, t = setRing s k.val (noteReach (noteBack r f) (ringCount s k.val) f odd) →
          (f.ftype ≠ 2 → exec (.plFrameReturn k odd bl) s = .next (heal t k.val f odd)) ∧
          (f.ftype = 2 → exec (.plFrameReturn k odd bl) s =
            .next (heal (f.slots.foldl (fun s x => takeStatus s k.val x) t) k.val f odd)))))) ∧
  (∀ (s : State) (k : Ring) (odd : Bool) (bl : List PlBlock), ringLive s k.val = true →
    ((getRing s k.val).running = false ∨ (getRing s k.val).ended = true) →
    exec (.plFrameReturn k odd bl) s = .next (countF s fPL_ERR_crc (ringDie k.val) (ringIx k.val))) ∧
  (∀ (s : State) (k : Ring) (odd : Bool) (x : BitVec 64) (p : Nat), ringLive s k.val = true → p = ringPort k.val odd →
    looped s p = false →
    exec (.dly k odd none x) s = .next (emit (setPort s p { getPort s p with
      dlySeq := (getPort s p).dlySeq + 1, dlyReq := some ((getPort s p).dlySeq, x.toNat) })
      (.ring k.val odd [dlyBlock false (getPort s p).dlySeq 0])) ∧
    ∀ (b : PlBlock) (q : BitVec 16), q = BitVec.ofNat 16 (bitsOf b.data.toNat 31 16) →
      (isDly b = false → exec (.dly k odd (some b) x) s = .next s) ∧
      (isDly b = true → bitOf b.data.toNat 8 = false → exec (.dly k odd (some b) x) s =
        .next (emit s (.ring k.val odd [dlyBlock true q (BitVec.ofNat 32 x.toNat)]))) ∧
      (isDly b = true → bitOf b.data.toNat 8 = true → (∀ sent, (getPort s p).dlyReq ≠ some (q, sent)) →
        exec (.dly k odd (some b) x) s = .next s) ∧
      (isDly b = true → bitOf b.data.toNat 8 = true → ∀ sent, (getPort s p).dlyReq = some (q, sent) →
        exec (.dly k odd (some b) x) s = .next (setF (setPort s p { getPort s p with dlyReq := none })
          (if odd then fPL_DLY_dly_odd else fPL_DLY_dly_even) (ringDie k.val) (ringIx k.val)
          (min 65535 ((x.toNat - sent - bitsOf b.data.toNat 63 32) / 2 / 64))))) ∧
  (∀ (s : State) (rq : Requester) (k : Ring), (rq = .host → exec (.plDiscover rq k) s = .next s) ∧
    (rq ≠ .host → exec (.plDiscover rq k) s = .next (setRing s k.val { getRing s k.val with discPend := true }))) ∧
  (∀ (s : State) (rq : Requester) (k : Ring), (rq = .host → ∀ v, exec (.plRunWrite rq k v) s = .next s) ∧
    (rq ≠ .host →
      (∀ t, t = setF s fPL_CTL_run (ringDie k.val) (ringIx k.val) 0 →
        (flagF s fPL_CTL_run (ringDie k.val) (ringIx k.val) = false → exec (.plRunWrite rq k false) s = .next t) ∧
        (flagF s fPL_CTL_run (ringDie k.val) (ringIx k.val) = true → exec (.plRunWrite rq k false) s = .next (stompRing t k.val))) ∧
      ∀ t, t = setF s fPL_CTL_run (ringDie k.val) (ringIx k.val) 1 →
        (flagF s fPL_CTL_run (ringDie k.val) (ringIx k.val) = true → exec (.plRunWrite rq k true) s =
          .next (setRing t k.val { getRing t k.val with silent := false })) ∧
        (flagF s fPL_CTL_run (ringDie k.val) (ringIx k.val) = false → exec (.plRunWrite rq k true) s =
          .next (setRing t k.val { getRing t k.val with discPend := true, silent := false })))) ∧
  (∀ (s : State) (rq : Requester) (k : Ring) (v : Word) (x : Nat), x = bitsOf v.toNat 20 0 →
    (rq = .host → ∀ i, exec (.plGridWrite rq k i v) s = .next s) ∧
    (rq ≠ .host →
      exec (.plGridWrite rq k 0 v) s = .next (regWrite s .PL_PERIOD (ringDie k.val) (ringIx k.val) v) ∧
      exec (.plGridWrite rq k 1 v) s = .next (regWrite s .PL_BASE_NS (ringDie k.val) (ringIx k.val) v) ∧
      exec (.plGridWrite rq k 2 v) s = .next (regWrite s .PL_BASE_S (ringDie k.val) (ringIx k.val) v) ∧
      ((x < 2000 ∨ getF s fPL_PERIOD_value (ringDie k.val) (ringIx k.val) < x + 2000) →
        exec (.plGridWrite rq k 3 v) s = .next s) ∧
      (2000 ≤ x → x + 2000 ≤ getF s fPL_PERIOD_value (ringDie k.val) (ringIx k.val) →
        exec (.plGridWrite rq k 3 v) s = .next (setF s fPL_LEAD_value (ringDie k.val) (ringIx k.val) x))))

/-- On a live ring, a frame that comes back while no cycle runs, or is not acceptable (its blocks are no frame, or it is not good), or whose cycle or ring field is not that of the current cycle, is counted in PL_ERR.crc, which stops at its largest value, and is not used: the node table, the last commands, every bobbin and yarn, and what the ring knows of its nodes, reach and status stay as they are. One that is acceptable and of the cycle and ring is used: what it reached and found is noted. -/
def Obligations.ReturnedFramesNotOfTheCycleAreDiscarded : Prop :=
  (∀ (s : State) (k : Ring) (odd : Bool) (bl : List PlBlock), ringLive s k.val = true →
    ((getRing s k.val).running = false ∨ (getRing s k.val).ended = true ∨
      ∀ f, plParse bl = some f → f.good = false ∨ f.ring ≠ k.val ∨ f.cycle ≠ (getRing s k.val).cycle.toNat) →
    ∃ t, exec (.plFrameReturn k odd bl) s = .next t ∧
      getF t fPL_ERR_crc (ringDie k.val) (ringIx k.val) = stopAt 255 (getF s fPL_ERR_crc (ringDie k.val) (ringIx k.val)) ∧
      t.ports.nodes = s.ports.nodes ∧ t.ports.lastCmd = s.ports.lastCmd ∧ t.flow = s.flow ∧ t.mem = s.mem ∧
      (getRing t k.val).evenReach = (getRing s k.val).evenReach ∧ (getRing t k.val).oddReach = (getRing s k.val).oddReach ∧
      (getRing t k.val).taken = (getRing s k.val).taken ∧ (getRing t k.val).found = (getRing s k.val).found ∧
      (getRing t k.val).whole = (getRing s k.val).whole ∧ (getRing t k.val).mode = (getRing s k.val).mode) ∧
  (∀ (s t : State) (k : Ring) (odd : Bool) (bl : List PlBlock) (f : PlFrame), ringLive s k.val = true → (getRing s k.val).running = true →
    (getRing s k.val).ended = false → plParse bl = some f → f.good = true → f.ring = k.val → f.cycle = (getRing s k.val).cycle.toNat →
    leadLate s (getRing s k.val) f = false → f.ftype ≠ 2 →
    t = setRing s k.val (noteReach (noteBack (getRing s k.val) f) (ringCount s k.val) f odd) → exec (.plFrameReturn k odd bl) s = .next (heal t k.val f odd))

/-- With the host windows open and the device not in DOZE: a doorbell of a queue pair whose en is 0 is ignored and counted (R328); a submission tail within the queue is stored, and one above sq_size stops the queue pair with cause 1 and is counted (R327); a completion head within the queue is stored, and one outside it changes nothing. Setting en while it is 0 starts the queue pair afresh, with head 0 and ready 1, and err and cause as they were (R326, R327); while en is 1 a write changes coal, and clearing en while it is 0 only stores the other fields (R326). Clearing en while it is 1 disables the queue pair (R329); when its time has run out while it still drains, it ends (R329). Each answer names the whole next state. -/
def Obligations.QueueDoorbellsAndEnable : Prop :=
  (∀ (s : State) (q : Qp) (v : BitVec 16), s.host.d3hot = false → s.rst.dozing = false →
    (flagF s fQP_CTL_en 0 q.val = false →
      exec (.sqTailDoorbell q v) s = .next (countF s fHOST_ERR_db_err 0 0) ∧
      exec (.cqHeadDoorbell q v) s = .next (countF s fHOST_ERR_db_err 0 0)) ∧
    (flagF s fQP_CTL_en 0 q.val = true →
      (v.toNat < sqDepth s q.val → exec (.sqTailDoorbell q v) s =
        .next (setQp s q.val { getQp s q.val with sqTail := v.toNat })) ∧
      (sqDepth s q.val ≤ v.toNat → exec (.sqTailDoorbell q v) s = .next (countF (setF (setF
        (setQp s q.val { getQp s q.val with stopped := true }) fQP_STAT_err 0 q.val 1) fQP_STAT_cause 0 q.val 1) fHOST_ERR_db_err 0 0)) ∧
      (v.toNat < cqDepth s q.val → exec (.cqHeadDoorbell q v) s =
        .next (setQp s q.val { getQp s q.val with cqHead := v.toNat })) ∧
      (cqDepth s q.val ≤ v.toNat → exec (.cqHeadDoorbell q v) s = .next s))) ∧
  (∀ (s : State) (q : Qp) (v : Word), s.host.d3hot = false →
    (flagF s fQP_CTL_en 0 q.val = false → exec (.qpEnable q v) s = .next (setF (setQp (setF
      (regWrite s .QP_CTL 0 q.val (v ||| 0x80000000#32)) fQP_STAT_sq_head 0 q.val 0) q.val qpInit) fQP_STAT_ready 0 q.val 1) ∧
      exec (.qpDisable q v) s = .next (regWrite s .QP_CTL 0 q.val (v &&& 0x7FFFFFFF#32))) ∧
    (flagF s fQP_CTL_en 0 q.val = true → ∀ t, t = setF s fQP_CTL_coal 0 q.val (bitsOf v.toNat 7 0) →
      exec (.qpEnable q v) s = .next t ∧ exec (.qpDisable q v) s =
        .next (disableQp t q.val (BitVec.ofNat 32 ((regRaw t .QP_CTL 0 q.val).toNat % 2 ^ 31))))) ∧
  (∀ (s : State) (q : Qp),
    ((getQp s q.val).draining = true → exec (.qpDisableTimeout q) s = .next (endQp s q.val)) ∧
    ((getQp s q.val).draining = false → exec (.qpDisableTimeout q) s = .next s))

/-- With the windows open, the first completion that waits, an event's once its beat has ended (R340), is written, with its phase, into a free entry of a ready queue pair, the tail and at the wrap the phase move on, and the queue pair's message is due (R328, R331); a write that fails stops the queue pair with cause 3 (R326); without a free entry nothing is written (R328). An interval that ends sends the message that waited, or ends (R326). An unmasked vector sends its pending message (R342). A host reset asserts source 11; the link going down also clears up and counts (R343, R480). D3hot disables the enabled queue pairs and closes the windows, which D0 opens again (R316). A retrain stores what was negotiated and counts, and one that ends while the link was up releases nothing (R480). Each answer names the whole next state. -/
def Obligations.CompletionsAndMessagesReachTheHost : Prop :=
  (∀ (s : State) (q : Qp) (c : Completion) (cs : List Completion) (p : QpSt), s.host.d3hot = false → getQp s q.val = p →
    flagF s fQP_STAT_ready 0 q.val = true → nextCompletion s p.waiting = some (c, cs) → writeStopped s q.val = false →
    (cqFree s q.val = 0 → ∀ ok, exec (.completionWrite q ok) s = .next s) ∧
    (cqFree s q.val ≠ 0 →
      exec (.completionWrite q false) s = .next (stopQp s q.val 3) ∧
      (c.buf = [] → ∀ t, t = emit s (.completion q.val p.cqTail (completionBytes s q.val c)) →
        (p.cqTail + 1 ≠ cqDepth t q.val → exec (.completionWrite q true) s =
          .next (queueMessage (setQp t q.val { p with waiting := cs, cqTail := p.cqTail + 1 }) q.val)) ∧
        (p.cqTail + 1 = cqDepth t q.val → exec (.completionWrite q true) s =
          .next (queueMessage (setQp t q.val { p with waiting := cs, cqTail := 0, phase := !p.phase }) q.val))))) ∧
  (∀ (s : State), nextCompletion s [] = none ∧ ∀ (c : Completion) (cs : List Completion),
    (heldEvent s c = false → nextCompletion s (c :: cs) = some (c, cs)) ∧
    (heldEvent s c = true → nextCompletion s (c :: cs) = (nextCompletion s cs).map (fun r => (r.1, c :: r.2)))) ∧
  (∀ (s : State) (q : Qp) (p : QpSt), getQp s q.val = p →
    (p.coalBusy = false → exec (.coalesceIntervalExpire q) s = .next s) ∧
    (p.coalBusy = true → p.msgDue = true → exec (.coalesceIntervalExpire q) s =
      .next (sendMsi (setQp s q.val { p with msgDue := false }) (getF s fQP_CTL_vector 0 q.val))) ∧
    (p.coalBusy = true → p.msgDue = false → exec (.coalesceIntervalExpire q) s =
      .next (setQp s q.val { p with coalBusy := false }))) ∧
  (∀ (s t : State) (v : Fin 64) (b : Nat), s.host.d3hot = false → t = setF s fMSIX_CTL_mask 0 v.val 0 →
    b = (regRaw t .MSIX_PBA 0 (v.val / 32)).toNat →
    (bitOf b (v.val % 32) = false → exec (.msixVectorUnmask v) s = .next t) ∧
    (bitOf b (v.val % 32) = true → exec (.msixVectorUnmask v) s = .next (sendMsi
      (setReg t .MSIX_PBA 0 (v.val / 32) (BitVec.ofNat 32 (putBits b (v.val % 32) (v.val % 32) 0))) v.val))) ∧
  (∀ (s : State) (k : HostResetKind), (k ≠ .linkDown → exec (.hostReset k) s =
      .next (assertReset s 11 { level := reachOf s 0 11, die := 0, har := 0 })) ∧
    exec (.hostReset .linkDown) s = .next (hostReset (countF (setF s fCXL_LINK_STAT_up 0 0 0) fCXL_LINK_STAT_down_cnt 0 0))) ∧
  (∀ s t : State, t = (List.range 16).foldl (fun s q => if flagF s fQP_CTL_en 0 q then
      disableQp s q (BitVec.ofNat 32 ((regRaw s .QP_CTL 0 q).toNat % 2 ^ 31)) else s) s →
    exec (.d3hotEntry false) s = .next { t with host.d3hot := true } ∧ exec (.d3hotEntry true) s = .next { s with host.d3hot := false }) ∧
  (∀ (s t : State) (w : Word), s.ports.supply = true → t = countF (setReg s .CXL_LINK_STAT 0 0 (BitVec.ofNat 32 (2 ^ 31 + bitsOf w.toNat 30 19 * 2 ^ 19 +
      (regRaw s .CXL_LINK_STAT 0 0).toNat % 65536))) fCXL_LINK_STAT_retrain_cnt 0 0 →
    (flagF s fCXL_LINK_STAT_up 0 0 = true → exec (.cxlLinkRetrain true w) s = .next t) ∧
    exec (.cxlLinkRetrain false w) s = .next (cxlDown s))

/-- A queue pair from which the engine cannot fetch gives nothing, and none can be fetched from while the device holds 1,024 staged commands (R332). Where it can fetch: a read that fails stops the queue pair with cause 2 (R326); a fenced command waits while earlier ones of its queue pair are in flight (R330); else sq_head advances, the command counts as in flight, and a command that fails the check of its encoding completes at once with the code of the check; one that passes and that no busy or lost die turns away is staged in order with its tick, when its opcode is a staged one, or is handed over (R332, R333). A complex that runs serves the first command of its mailbox (R355). Each answer names the whole next state. -/
def Obligations.CommandsAreFetchedAndServed : Prop :=
  (∀ (s : State), 1024 ≤ s.host.staged.length → ∀ q, canFetch s q = false) ∧
  (∀ (s : State) (q : Qp) (e : BitVec 512) (ok : Bool) (buf : List Byte) (bo : Bool), canFetch s q.val = false →
    exec (.commandFetch q e ok buf bo) s = .next s) ∧
  (∀ (s : State) (q : Qp) (e : BitVec 512) (buf : List Byte) (bo : Bool), canFetch s q.val = true →
    exec (.commandFetch q e false buf bo) s = .next (stopQp s q.val 2)) ∧
  (∀ (s : State) (q : Qp) (e : BitVec 512) (buf : List Byte) (bo : Bool) (c : HostCmd), canFetch s q.val = true →
    c = parseEntry q e buf bo →
    (c.fence = true → 0 < (getQp s q.val).inFlight → exec (.commandFetch q e true buf bo) s = .next s) ∧
    ((c.fence = false ∨ (getQp s q.val).inFlight = 0) → ∀ t u,
      t = setF s fQP_STAT_sq_head 0 q.val (if getF s fQP_STAT_sq_head 0 q.val + 1 = sqDepth s q.val then 0 else getF s fQP_STAT_sq_head 0 q.val + 1) →
      u = setQp t q.val { getQp t q.val with inFlight := (getQp t q.val).inFlight + 1 } →
      (∀ code, fetchCheck e c = some code → exec (.commandFetch q e true buf bo) s = .next (finish u c code 0)) ∧
      (fetchCheck e c = none →
        (∀ code, turnedAway u c = some code → exec (.commandFetch q e true buf bo) s = .next (finish u c code 0)) ∧
        (turnedAway u c = none →
          (isStaged c.opcode.toNat = true → exec (.commandFetch q e true buf bo) s =
            .next { u with host.staged := u.host.staged ++ [{ cmd := c, tick := u.vigil.ticks }] }) ∧
          (isStaged c.opcode.toNat = false → exec (.commandFetch q e true buf bo) s = .next (handOver u c)))))) ∧
  (∀ (s t : State) (d : Die) (m : Handed) (ms : List Handed), (getRt s d).mailbox = m :: ms →
    t = setRt s d { getRt s d with mailbox := ms } → (d = 0 ∨ apart s = false) → fwRuns s d = true →
    (m.mute = false → exec (.mailboxMessage d) s = .next (applyCmd t m.cmd)) ∧
    (m.mute = true → exec (.mailboxMessage d) s = .next (applyMute t m.cmd)))

/-- NOP completes with SUCCESS. EVENT_SUB stores op0 without bit 0 in the queue pair's mask and answers the mask before it. RESET of level DEVICE asserts source 5 for the whole device and HOST asserts the host source, both without a completion; DIE, CONTROL and HARNESS assert source 5 for the die or harness named, and complete after its release; another level is INVALID_FIELD (R335, R419). DRAFT_LOAD and DRAFT_SWAP of a harness that does not exist are NOT_FOUND (R334). DRAFT_LOAD answers SUCCESS where the loader accepts, and LOAD_STATUS with the loader's code where it rejects (R107). An arm that is not accepted answers LOAD_STATUS with its code, and one that is accepted waits for its swap; a cancel of a swap that is armed cancels it (R111). Each answer names the whole next state. -/
def Obligations.HostCommandsNopSubscribeResetAndLoad : Prop :=
  (∀ (s : State) (c : HostCmd), exec (.nop c) s = .next (finish s c 0 0)) ∧
  (∀ (s : State) (c : HostCmd), exec (.eventSub c) s = .next (finish (setReg s .QP_EVT 0 c.qp.val
    (BitVec.ofNat 32 (opOf c 0 / 2 * 2))) c 0 (regRaw s .QP_EVT 0 c.qp.val).toNat)) ∧
  (∀ (s : State) (c : HostCmd) (d : Die), d = opDie c 1 →
    (bitsOf (opOf c 0) 2 0 = 1 → exec (.resetCmd c) s = .next (assertReset s 5 { level := .device, die := 0, har := 0 })) ∧
    (bitsOf (opOf c 0) 2 0 = 2 → exec (.resetCmd c) s =
      .next (assertReset (waitFor s c (.release d .die 0)) 5 { level := .die, die := d, har := 0 })) ∧
    (bitsOf (opOf c 0) 2 0 = 3 → exec (.resetCmd c) s = .next (hostReset s)) ∧
    (bitsOf (opOf c 0) 2 0 = 4 → exec (.resetCmd c) s =
      .next (assertReset (waitFor s c (.release d .control 0)) 5 { level := .control, die := d, har := 0 })) ∧
    (bitsOf (opOf c 0) 2 0 = 5 → opHar c 1 < 36 → exec (.resetCmd c) s = .next
      (assertReset (waitFor s c (.release d .harness (opHar c 1))) 5 { level := .harness, die := d, har := opHar c 1 })) ∧
    (bitsOf (opOf c 0) 2 0 = 5 → 36 ≤ opHar c 1 → exec (.resetCmd c) s = .next (finish s c 4 0)) ∧
    (bitsOf (opOf c 0) 2 0 = 0 → exec (.resetCmd c) s = .next (finish s c 2 0)) ∧
    (6 ≤ bitsOf (opOf c 0) 2 0 → exec (.resetCmd c) s = .next (finish s c 2 0))) ∧
  (∀ (s t : State) (c : HostCmd) (r : Nat), (36 ≤ opHar c 0 → exec (.draftLoad c) s = .next (finish s c 4 0)) ∧
    (opHar c 0 < 36 → loadPackage s (opDie c 0) (opHar c 0) c.buf = (t, r) →
      (r = 0 → exec (.draftLoad c) s = .next (finish t c 0 0)) ∧ (r ≠ 0 → exec (.draftLoad c) s = .next (finish t c 7 r)))) ∧
  (∀ (s : State) (c : HostCmd) (d : Die) (h : Nat), d = opDie c 0 → h = opHar c 0 →
    (36 ≤ h → exec (.draftSwap c) s = .next (finish s c 4 0)) ∧
    (h < 36 → bitOf (opOf c 1) 0 = false → ∀ t,
      (∀ code, armSwap s d h = (t, some code) → exec (.draftSwap c) s = .next (finish t c 7 code)) ∧
      (armSwap s d h = (t, none) → exec (.draftSwap c) s = .next (waitFor t c (.swap d h)))) ∧
    (h < 36 → bitOf (opOf c 1) 0 = true →
      ((getHar s d h).armTick = none ∨ (getHar s d h).draining = true → exec (.draftSwap c) s = .next (finish s c 3 0)) ∧
      (∀ k, (getHar s d h).armTick = some k → (getHar s d h).draining = false →
        exec (.draftSwap c) s = .next (finish (cancelSwap s d h) c 0 0))))

/-- DARN of a harness: BUSY while one runs there; REFUSED with result 3 where the row's spare is in use; else the darning starts (R116, R335). HARNESS_CFG writes TSEQ_CTL, the source, urgent and lane masks and, for a frequency other than 0, the frequency that is asked for (R120, R199). A new beat period is stored by BEAT_SET and by a write of die 0's BEAT_CTL, and a write of die 1's is ignored (R157, R196). DOMAIN_SET: a domain that does not exist is NOT_FOUND, a target it does not support INVALID_FIELD, one that R218 forbids or a halted harness REFUSED; else woa and the target are set, and the command completes when the domain is there (R218). MEM_TEST while a pass runs is BUSY, and one that selects nothing or a reserved size INVALID_FIELD (R268). A harness that does not exist is NOT_FOUND. Each answer names the whole next state. -/
def Obligations.HostCommandsOfHarnessesBeatsAndDomains : Prop :=
  (∀ (s : State) (c : HostCmd) (d : Die) (h r k : Nat), d = opDie c 0 → h = opHar c 0 → r = bitsOf (opOf c 0) 10 8 → k = bitsOf (opOf c 0) 14 12 →
    (36 ≤ h → exec (.darn c) s = .next (failStaged s c 4 0) ∧ exec (.harnessCfg c) s = .next (failStaged s c 4 0)) ∧
    (h < 36 → flagF s fDARN_STAT_busy d h = true → exec (.darn c) s = .next (failStaged s c 10 0)) ∧
    (h < 36 → flagF s fDARN_STAT_busy d h = false → spareUsed s d h r = true → exec (.darn c) s =
      .next (failStaged (darnStat s d h r k 3) c 6 3)) ∧
    (h < 36 → flagF s fDARN_STAT_busy d h = false → spareUsed s d h r = false → exec (.darn c) s =
      .next (stagedOk (setF (setF (darnStat s d h r k 0) fDARN_STAT_busy d h 1) fTSEQ_STAT_darn_busy d h 1) c 0 (.darn d h)))) ∧
  (∀ (s t u : State) (c : HostCmd) (d : Die) (h f : Nat) (w : Nat → Word), d = opDie c 0 → h = opHar c 0 → h < 36 → f = bitsOf (opOf c 8) 6 0 →
    w = (fun i => BitVec.ofNat 32 (opOf c i)) →
    t = regWrite (regWrite (regWrite s .TSEQ_CTL d h (w 1)) .TSEQ_SRC_LO d h (w 2)) .TSEQ_SRC_HI d h (w 3) →
    u = regWrite (regWrite (regWrite (regWrite t .TSEQ_URG_LO d h (w 4)) .TSEQ_URG_HI d h (w 5)) .TSEQ_LANE_LO d h (w 6)) .TSEQ_LANE_HI d h (w 7) →
    (f = 0 → exec (.harnessCfg c) s = .next (stagedOk u c 0 .none)) ∧
    (f ≠ 0 → ∀ v, v = setFreq u d h f →
      exec (.harnessCfg c) s = .next (stagedOk { v with cap.asked := sparseSet (fun _ => 0) v.cap.asked (harKey d h) f } c 0 .none))) ∧
  (∀ (s : State) (c : HostCmd), exec (.beatSet c) s =
    .next (stagedOk (regWrite s .BEAT_CTL 0 0 (BitVec.ofNat 32 (bitsOf (opOf c 0) 16 0))) c 0 .none)) ∧
  (∀ (s : State) (rq : Requester) (v : Word), exec (.beatPeriodWrite rq 0 v) s = .next (regWrite s .BEAT_CTL 0 0 v) ∧
    exec (.beatPeriodWrite rq 1 v) s = .next s) ∧
  (∀ (s : State) (c : HostCmd) (d : Die) (i : Nat), d = opDie c 0 → i = bitsOf (opOf c 0) 6 0 → i ≠ 63 →
    (domExists d i = false → exec (.domainSet c) s = .next (failStaged s c 4 0)) ∧
    (domExists d i = true → ∀ g, targetOf (bitsOf (opOf c 0) 9 8) = some g →
      (domSupports i g = false → exec (.domainSet c) s = .next (failStaged s c 2 0)) ∧
      (domSupports i g = true →
        (targetAllowed s d i g = false ∨ (i < 36 ∧ (getHar s d i).halted = true) →
          exec (.domainSet c) s = .next (failStaged s c 6 0)) ∧
        (domWritable d i = true → targetAllowed s d i g = true → (36 ≤ i ∨ (getHar s d i).halted = false) →
          ∀ t, t = setF s fDOM_CTL_woa d i (bitsOf (opOf c 0) 12 12) →
          (getDom t d i).state ≠ g → exec (.domainSet c) s = .next (setTarget (stagedOk t c 0 (.domain d i)) d i g))))) ∧
  (∀ (s : State) (c : HostCmd), (flagF s fMT_STAT_busy (opDie c 0) 0 = true → exec (.memTest c) s = .next (finish s c 10 0)) ∧
    (flagF s fMT_STAT_busy (opDie c 0) 0 = false →
      (bitsOf (opOf c 0) 12 11 = 3 ∨ bitsOf (opOf c 0) 10 7 = 0 → exec (.memTest c) s = .next (finish s c 2 0)) ∧
      (bitsOf (opOf c 0) 12 11 ≠ 3 → bitsOf (opOf c 0) 10 7 ≠ 0 → ∀ t, t = mtStart (regWrite (regWrite s .MT_HSEL_LO (opDie c 0) 0
          (BitVec.ofNat 32 (opOf c 1))) .MT_HSEL_HI (opDie c 0) 0 (BitVec.ofNat 32 (opOf c 2))) (opDie c 0)
          (BitVec.ofNat 32 (2 ^ 31 + bitsOf (opOf c 0) 13 0)) →
        (flagF t fMT_STAT_busy (opDie c 0) 0 = true → exec (.memTest c) s = .next (waitFor t c (.march (opDie c 0)))) ∧
        (flagF t fMT_STAT_busy (opDie c 0) 0 = false → exec (.memTest c) s =
          .next (finish t c 6 (regRaw t .MT_STAT (opDie c 0) 0).toNat)))))

/-- Every form of the four commands has its answer. PORT_CFG and PORT_TABLE of a port above 95, and RING_CFG of a ring above 47, are NOT_FOUND; a value of CFG with a reserved bit or encoding, a table 3, entries outside the table or the buffer, or with a reserved field or value, and grid values out of range are INVALID_FIELD (R11, R334). PORT_CFG of a port whose mode and fec stay writes CFG as the firmware does and stores the MAC address; where they change it disables the port first (R276). PORT_TABLE stores the entries of the 64 receive rules, the 32 transmit bindings or the 256 entries of the administrative gate list word by word; with the gate list it also stores base and cycle time, the length that the entries reach, and with change = 1 enables the list and asks for the change (R280, R283, R286). RING_CFG whose frames do not fit the cycle, or that sets run while a node's producer yarn is not in RUN, is REFUSED and changes nothing else; else it stores the grid and the nodes and then PL_CTL (R301, R302). NODE_SET that leaves a ring that uses an entry of it unfit is REFUSED; else it stores the five words of each entry that are not read-only (R300, R301). Each answer names the whole next state. -/
def Obligations.HostCommandsOfPortsRingsAndNodes : Prop :=
  (∀ (s : State) (c : HostCmd), 96 ≤ opPort c → exec (.portCfg c) s = .next (failStaged s c 4 0)) ∧
  (∀ (s : State) (c : HostCmd) (p v old : Nat), p = opPort c → v = opOf c 1 → p < 96 → old = (regRaw s .PCFG (portDie p) (portIx p)).toNat →
    (regValueOk .PCFG v = false → exec (.portCfg c) s = .next (failStaged s c 2 0)) ∧
    (regValueOk .PCFG v = true → ∀ t u, t = (if bitsOf old 26 22 ≠ bitsOf v 26 22 then portCfgWrite s .fwOwn p (BitVec.ofNat 32 (old % 2 ^ 31)) else s) →
      u = portCfgWrite t .fwOwn p (BitVec.ofNat 32 v) →
      exec (.portCfg c) s = .next (stagedOk { u with ports.macs := sparseSet (fun _ => none) u.ports.macs p (some (BitVec.ofNat 48 (opOf c 2 + bitsOf (opOf c 3) 15 0 * 2 ^ 32))) } c 0 .none))) ∧
  (∀ (s : State) (c : HostCmd), bitsOf (opOf c 0) 9 8 = 3 → exec (.portTable c) s = .next (failStaged s c 2 0)) ∧
  (∀ (s : State) (c : HostCmd) (p n a t base limit size : Nat), p = opPort c → t = bitsOf (opOf c 0) 9 8 →
    (t, base, limit, size) ∈ [(0, 0xC00, 64, 16), (1, 0x200, 32, 16), (2, 0x800, 256, 4)] →
    n = bitsOf (opOf c 1) 31 16 → a = bitsOf (opOf c 1) 15 0 →
    (96 ≤ p → exec (.portTable c) s = .next (failStaged s c 4 0)) ∧
    (p < 96 → limit < a + n ∨ c.bufLen.toNat < n * size → exec (.portTable c) s = .next (failStaged s c 2 0)) ∧
    (p < 96 → a + n ≤ limit → n * size ≤ c.bufLen.toNat → ∀ (e : Nat → List Byte) (gates : Bool), e = (fun i => (c.buf.drop (i * size)).take size) →
      gates = (regValueOk .QBV_BASE_NS (opOf c 3) && regValueOk .QBV_CYCLE (opOf c 5)) →
      ((List.range n).all (fun i => portEntryOk t (e i)) = false → exec (.portTable c) s = .next (failStaged s c 2 0)) ∧
      (t = 2 → gates = false → exec (.portTable c) s = .next (failStaged s c 2 0)) ∧
      ((List.range n).all (fun i => portEntryOk t (e i)) = true → ∀ u, u = (List.range n).foldl (fun s i => (List.range (size / 4)).foldl (fun s j =>
          setPortWord s p (base + (a + i) * size + 4 * j) (BitVec.ofNat 32 (fieldAt (e i) (4 * j) 4))) s) s →
        (t ≠ 2 → exec (.portTable c) s = .next (stagedOk u c 0 .none)) ∧
        (t = 2 → gates = true → ∀ v w x, v = setReg (setReg (setReg u .QBV_BASE_NS (portDie p) (portIx p) (BitVec.ofNat 32 (opOf c 3)))
              .QBV_BASE_S (portDie p) (portIx p) (BitVec.ofNat 32 (opOf c 4))) .QBV_CYCLE (portDie p) (portIx p) (BitVec.ofNat 32 (opOf c 5)) →
          w = (if n = 0 then v else setF v fQBV_CTL_alen (portDie p) (portIx p) (a + n - 1)) →
          x = (if bitOf (opOf c 2) 0 then setF (setF w fQBV_CTL_en (portDie p) (portIx p) 1) fQBV_CTL_pend (portDie p) (portIx p) 1 else w) →
          exec (.portTable c) s = .next (stagedOk x c 0 .none))))) ∧
  (∀ (s : State) (c : HostCmd) (k : Nat), k = bitsOf (opOf c 0) 5 0 → (48 ≤ k → exec (.ringCfg c) s = .next (failStaged s c 4 0)) ∧
    (k < 48 → ringOpsOk c = false → exec (.ringCfg c) s = .next (failStaged s c 2 0)) ∧
    (k < 48 → ringOpsOk c = true → ∀ (w : Nat → Word) (t u : State), w = (fun j => BitVec.ofNat 32 (opOf c j)) →
      u = setReg (setReg (setReg s .PL_PERIOD (ringDie k) (ringIx k) (w 2)) .PL_LEAD (ringDie k) (ringIx k) (w 3)) .PL_BASE_NS (ringDie k) (ringIx k) (w 4) →
      t = setReg (setReg u .PL_BASE_S (ringDie k) (ringIx k) (w 5)) .PL_NODES (ringDie k) (ringIx k) (w 6) →
      (ringFits t k = false ∨ (bitOf (opOf c 1) 31 = true ∧ ringWaits t k = true) → exec (.ringCfg c) s = .next (failStaged s c 6 0)) ∧
      (ringFits t k = true → (bitOf (opOf c 1) 31 = false ∨ ringWaits t k = false) →
        exec (.ringCfg c) s = .next (stagedOk (plCtlWrite t .fwOwn k (w 1)) c 0 .none)))) ∧
  (∀ (s : State) (c : HostCmd) (d : Die) (a n : Nat) (e : Nat → List Byte), d = opDie c 0 → a = bitsOf (opOf c 0) 11 0 → n = bitsOf (opOf c 1) 11 0 →
    e = (fun i => (c.buf.drop (i * 32)).take 32) →
    (3072 < a + n ∨ c.bufLen.toNat < n * 32 → exec (.nodeSet c) s = .next (failStaged s c 2 0)) ∧
    (a + n ≤ 3072 → n * 32 ≤ c.bufLen.toNat →
      ((List.range n).all (fun i => nodeEntryOk (e i)) = false → exec (.nodeSet c) s = .next (failStaged s c 2 0)) ∧
      ((List.range n).all (fun i => nodeEntryOk (e i)) = true → ∀ (t : State) (unfit : Nat → Prop),
        t = (List.range n).foldl (fun s i => (List.range 5).foldl (fun s w => setNodeWord s d (a + i) w (fieldAt (e i) (4 * w) 4)) s) s →
        unfit = (fun k => d.val * 24 ≤ k ∧ k < d.val * 24 + 24 ∧ 0 < ringCount s k ∧ getF s fPL_NODES_base d (ringIx k) < a + n ∧
          a < getF s fPL_NODES_base d (ringIx k) + ringCount s k ∧ ringFits t k = false) →
        ((∀ k, ¬ unfit k) → exec (.nodeSet c) s = .next (stagedOk t c 0 .none)) ∧
        (∀ k, unfit k → exec (.nodeSet c) s = .next (failStaged s c 6 0)))))

/-- YARN_CREATE completes with the code that creation answers, or with SUCCESS and the yarn's number; a descriptor with a reserved field or value is INVALID_FIELD, one whose number is in use INVALID_STATE, and one that R132 or R181 forbids REFUSED, and nothing is created. A yarn that does not exist is NOT_FOUND for the others (R334). A yarn with a descriptor on one die: YARN_START takes it from IDLE, and YARN_RESUME from HOLD, to RUN, YARN_HOLD asks a yarn in RUN to hold at its next item boundary, and each is INVALID_STATE in a state from which R128 has no such transition. Each answer names the whole next state. -/
def Obligations.YarnCommandsChangeState : Prop :=
  (∀ (s : State) (c : HostCmd), (∀ code, createYarn s c.buf = .inr code → exec (.yarnCreate c) s = .next (failStaged s c code 0)) ∧
    (∀ t, createYarn s c.buf = .inl t → exec (.yarnCreate c) s = .next (stagedOk t c (bitsOf (descWord c.buf 4) 14 0) .none)) ∧
    (descOk c.buf = false → exec (.yarnCreate c) s = .next (failStaged s c 2 0)) ∧
    (descOk c.buf = true → yarnDies s (bitsOf (descWord c.buf 4) 14 0) ≠ [] → exec (.yarnCreate c) s = .next (failStaged s c 3 0)) ∧
    (descOk c.buf = true → yarnDies s (bitsOf (descWord c.buf 4) 14 0) = [] → classClash s (yarnOfDesc c.buf) = true →
      exec (.yarnCreate c) s = .next (failStaged s c 6 0))) ∧
  (∀ (s : State) (c : HostCmd), (32768 ≤ opYarn c ∨ yarnDies s (opYarn c) = []) →
    exec (.yarnStart c) s = .next (failStaged s c 4 0) ∧ exec (.yarnHold c) s = .next (failStaged s c 4 0) ∧
    exec (.yarnResume c) s = .next (failStaged s c 4 0)) ∧
  (∀ (s : State) (c : HostCmd) (d : Die) (n : Nat), n = opYarn c → n < 32768 → yarnDies s n = [d] →
    ((getYarn s d n).state = .idle → exec (.yarnStart c) s = .next (enterRun (stagedOk s c 0 .none) d n)) ∧
    ((getYarn s d n).state ≠ .idle → exec (.yarnStart c) s = .next (failStaged s c 3 0)) ∧
    ((getYarn s d n).state = .hold → exec (.yarnResume c) s = .next (enterRun (stagedOk s c 0 .none) d n)) ∧
    ((getYarn s d n).state ≠ .hold → exec (.yarnResume c) s = .next (failStaged s c 3 0)) ∧
    ((getYarn s d n).state = .run → exec (.yarnHold c) s = .next (settleYarn
      (modYarn (stagedOk s c 0 (.hold n)) d n (fun y => { y with holdReq := true })) d n)) ∧
    ((getYarn s d n).state ≠ .run → exec (.yarnHold c) s = .next (failStaged s c 3 0)))

/-- A yarn that does not exist is NOT_FOUND (R334). A yarn with a descriptor on one die: YARN_RESTART takes it from STOPPED to HOLD with the state of the last committed checkpoint; YARN_DELETE from IDLE, HOLD, STOPPED or SPLIT asks for its deletion and waits until it is FREE; in other states each is INVALID_STATE (R128). YARN_MODIFY sets the priority, the overflow policy and clears the count as its bits say, in any state but FREE. YARN_QUERY answers the descriptor as of the last committed beat, with its state in result0 (R195, R335); a yarn deleted in a beat that has not committed is still answered, and one that no committed beat holds yet is NOT_FOUND, as one that does not exist (R28). Each answer names the whole next state. -/
def Obligations.YarnCommandsRestartDeleteAndAsk : Prop :=
  (∀ (s : State) (c : HostCmd), (32768 ≤ opYarn c ∨ yarnDies s (opYarn c) = []) →
    exec (.yarnRestart c) s = .next (failStaged s c 4 0) ∧ exec (.yarnDelete c) s = .next (failStaged s c 4 0) ∧
    exec (.yarnModify c) s = .next (failStaged s c 4 0)) ∧
  (∀ (s : State) (c : HostCmd) (d : Die) (n : Nat), n = opYarn c → n < 32768 → yarnDies s n = [d] →
    ((getYarn s d n).state = .stopped → exec (.yarnRestart c) s = .next (restartStopped (stagedOk s c 0 .none) d n)) ∧
    ((getYarn s d n).state ≠ .stopped → exec (.yarnRestart c) s = .next (failStaged s c 3 0)) ∧
    ((getYarn s d n).state ∈ [YState.idle, .hold, .stopped, .split] → exec (.yarnDelete c) s = .next (settleYarn
      (modYarn (stagedOk s c 0 (.delete n)) d n (fun y => { y with delReq := true })) d n)) ∧
    ((getYarn s d n).state ∉ [YState.idle, .hold, .stopped, .split] → exec (.yarnDelete c) s = .next (failStaged s c 3 0)) ∧
    ((getYarn s d n).state ≠ .free → exec (.yarnModify c) s = .next
      (let v := opOf c 1
       modYarn (stagedOk s c 0 .none) d n (fun y => { y with
         prio := if bitOf v 31 then BitVec.ofNat 3 (bitsOf v 10 8) else y.prio, ovfPolicy := if bitOf v 30 then BitVec.ofNat 2 (bitsOf v 22 21) else y.ovfPolicy, ovfCount := if bitOf v 29 then 0 else y.ovfCount })))) ∧
  (∀ (s : State) (c : HostCmd), ∀ o, o = (yarnHome s (opYarn c)).bind (fun d => committedDesc s d (opYarn c)) →
    (o = none → goneDesc s (opYarn c) = none → exec (.yarnQuery c) s = .next (finish s c 4 0)) ∧
    (∀ bs, (o = some bs ∨ (o = none ∧ goneDesc s (opYarn c) = some bs)) → exec (.yarnQuery c) s =
      .next (postCompletion s c.qp (completionOf s c 0 (fieldAt bs 0 1 % 16) 0 0 bs) false)))

/-- BOB_CREATE: a producer, consumer, quota or policy out of range is INVALID_FIELD, a number in use INVALID_STATE, yarns of two replay classes REFUSED (R181), no entry or no spool NO_RESOURCE; else an active bobbin of the die of R21 takes its entry and its quota of spool, and its gates are bound. The others on a free bobbin are NOT_FOUND. BOB_DELETE of a bobbin that is named REFUSED, else it and its twin copy are freed. BOB_FLUSH flushes it (R150). BOB_RESIZE to a quota out of range is INVALID_FIELD, and else is tried: REFUSED, done, or pending in result0 (R152, R153). BOB_QUERY answers the descriptor with the write status in result0. Each answer names the whole next state. -/
def Obligations.BobbinCommandsOfTheHost : Prop :=
  (∀ (s : State) (c : HostCmd) (n q x y : Nat) (p k : EndType), n = bitsOf (opOf c 0) 31 16 → p = endTypeOf (bitsOf (opOf c 0) 7 6) → k = endTypeOf (bitsOf (opOf c 0) 5 4) →
    x = bitsOf (opOf c 1) 15 0 → y = bitsOf (opOf c 1) 31 16 → q = bitsOf (opOf c 2) 16 0 →
    ((endOk p x = false ∨ endOk k y = false ∨ q = 0 ∨ 65536 < q ∨ 2 ≤ bitsOf (opOf c 0) 1 0) → exec (.bobCreate c) s = .next (failStaged s c 2 0)) ∧
    (endOk p x = true → endOk k y = true → 1 ≤ q → q ≤ 65536 → bitsOf (opOf c 0) 1 0 < 2 →
      ((getBob s n).state ≠ .free → exec (.bobCreate c) s = .next (failStaged s c 3 0)) ∧
      ((getBob s n).state = .free → joinClash s p k x y = true → exec (.bobCreate c) s = .next (failStaged s c 6 0)) ∧
      ((getBob s n).state = .free → joinClash s p k x y = false →
        (∀ code, dieFor s p k x y = .inr code → exec (.bobCreate c) s = .next (failStaged s c code 0)) ∧
        (∀ d, dieFor s p k x y = .inl d →
          (freeEntry (bobEntries s d) 32768 = none → exec (.bobCreate c) s = .next (failStaged s c 5 0)) ∧
          (∀ e b t u, freeEntry (bobEntries s d) 32768 = some e → allocFit s d 0 (spoolRegion s d) q = some b →
            t = setBob (allocTake s { stack := d, base := b, len := q, kind := .spool n }) n { bobFree with
              state := .active, prod := p, cons := k, dropOld := decide (bitsOf (opOf c 0) 1 0 = 1), consId := BitVec.ofNat 16 y, prodId := BitVec.ofNat 16 x, die := d, entry := e, base := b, quota := q, wmark := 64 * q, stall := BitVec.ofNat 16 (bitsOf (opOf c 3) 15 0) } →
            makeTwinBob t n = some u → exec (.bobCreate c) s = .next (stagedOk (bindGates u n) c 0 .none)))))) ∧
  (∀ (s : State) (c : HostCmd) (n : Nat), n = opBob c →
    ((getBob s n).state = .free → exec (.bobDelete c) s = .next (failStaged s c 4 0) ∧ exec (.bobFlush c) s = .next (finish s c 4 0) ∧
      exec (.bobResize c) s = .next (finish s c 4 0) ∧ exec (.bobQuery c) s = .next (finish s c 4 0)) ∧
    ((getBob s n).state ≠ .free →
      (bobNamed s n = true → exec (.bobDelete c) s = .next (failStaged s c 6 0)) ∧
      (bobNamed s n = false → exec (.bobDelete c) s = .next (stagedOk (freeBob (freeBob s n) (n + 65536)) c 0 .none)) ∧
      exec (.bobFlush c) s = .next (finish (flushBoth s n) c 0 0) ∧
      (∀ q, q = bitsOf (opOf c 1) 16 0 →
        ((q = 0 ∨ 65536 < q) → exec (.bobResize c) s = .next (finish s c 2 0)) ∧
        (1 ≤ q → q ≤ 65536 → ∀ t u (r pend : Bool), resizeBob s n q = (t, r, pend) → u = setF t fBOB_QUOTA_refused (getBob s n).die 0 (bitN r) →
          (r = true → exec (.bobResize c) s = .next (finish u c 6 0)) ∧
          (r = false → exec (.bobResize c) s = .next (finish u c 0 (bitN pend))))) ∧
      exec (.bobQuery c) s = .next (postCompletion s c.qp
        (completionOf s c 0 ((getBob s n).wstat.toNat * 65536) 0 0 (bobBytes n (getBob s n))) false)))

/-- ITEM_PUSH that R336 bars completes with the code it is barred for; else the words of the buffer, as one item, are written into the bobbin and the completion answers the write status (R147). Where no bobbin is selected, a flush, a quota write and a push change nothing, and BOB_POP answers an idle word. On the selected bobbin: the flush of BOB_CTL flushes it (R150); a write of BOB_QUOTA tries a resize and shows whether it was refused (R153); an inspect read of BOB_POP takes nothing and answers an idle word, and a read of a bobbin of the host takes its next word (R155); BOB_PUSH writes one word with the tag of BOB_PUSH_TAG where the producer is the host, and changes nothing otherwise (R155). Each answer names the whole next state. -/
def Obligations.ItemsPushedAndSelectedBobbin : Prop :=
  (∀ (s : State) (c : HostCmd), (∀ code, pushStatus s c = some code → exec (.itemPush c) s = .next (finish s c code 0)) ∧
    (pushStatus s c = none → ∀ n t, n = bitsOf (opOf c 0) 31 16 → t = writeItem (pointerCheck s n 0).1 n (itemWords
        ((wordsOf c.buf).take (c.bufLen.toNat / 4)) (bitsOf (opOf c 0) 6 5) (bitsOf (opOf c 0) 4 0) false) →
      exec (.itemPush c) s = .next (finish t c 0 (getBob t n).wstat.toNat)) ∧
    ((getBob s (bitsOf (opOf c 0) 31 16)).state = .free → exec (.itemPush c) s = .next (finish s c 4 0))) ∧
  (∀ (s : State) (rq : Requester) (d : Die) (v : Word) (b : Bool), selectedBob s rq d = none → exec (.bobCtlFlush rq d) s = .next s ∧
    exec (.bobQuotaWrite rq d v) s = .next s ∧ exec (.bobPush rq d v) s = .next s ∧
    exec (.bobPop rq d b) s = .next (emit s (.hostWord rq idleWord))) ∧
  (∀ (s : State) (rq : Requester) (d : Die) (v : Word) (n : Nat), selectedBob s rq d = some n →
    exec (.bobCtlFlush rq d) s = .next (flushBoth s (n % 65536)) ∧
    (∀ t (r p : Bool), resizeBob s n (bitsOf v.toNat 16 0) = (t, r, p) → exec (.bobQuotaWrite rq d v) s =
      .next (setF t fBOB_QUOTA_refused d 0 (bitN r))) ∧
    ((getBob s n).prod = .host → exec (.bobPush rq d v) s = .next (writeWord (pointerCheck s n 0).1 n
      { data := v, tag := BitVec.ofNat 12 (getF s fBOB_PUSH_TAG_tag d (selInst rq 0)) } true)) ∧
    ((getBob s n).prod ≠ .host → exec (.bobPush rq d v) s = .next s) ∧
    exec (.bobPop rq d true) s = .next (emit (setBob s n { getBob s n with inspected := true }) (.hostWord rq idleWord)) ∧
    (∀ t, t = modBob (pointerCheck s n 0).1 n (fun b => { b with inspected := false }) →
      ((getBob t n).cons ≠ .host → exec (.bobPop rq d false) s = .next (emit t (.hostWord rq idleWord))) ∧
      ((getBob t n).cons = .host → ∀ u w, egressWord (bobWords (getBob t n) + 1) t n = (u, w) →
        exec (.bobPop rq d false) s = .next (emit u (.hostWord rq (w.getD idleWord))))))

/-- With the window out of reach REGION_MAP is REFUSED. An unmap of a region that is not mapped is INVALID_STATE, and of one that is waits for it to stop; a map that is barred answers the code it is barred for, and else the region is mapped with indexes 0 and its header block cleared. A doorbell that keeps the limit of outstanding blocks stores the host's index, and one that does not is counted in HOST_ERR.db_err. The device reads the next block of an input region into its bobbin, each word marked if the read of the block finds an uncorrectable error or poison, which is recorded (R262, R263), advances its index and writes the header with the status of the last item that closed; with no block, or on an output region, it does nothing. The device writes the next item of an output region when its blocks fit the ring, and else does nothing (R337). Each answer names the whole next state. -/
def Obligations.HostRegionsMoveItems : Prop :=
  (∀ (s : State) (c : HostCmd) (j : Nat), j = opRegion c →
    (hdmReachable s = false → exec (.regionMap c) s = .next (finish s c 6 0)) ∧
    (hdmReachable s = true → bitOf (opOf c 0) 31 = true →
      ((getRegion s j).mapped = false → exec (.regionMap c) s = .next (finish s c 3 0)) ∧
      ((getRegion s j).mapped = true → ∀ t, t = waitFor s c (.region j) →
        exec (.regionMap c) s = .next (stopRegion (setRegion t j { getRegion t j with stop := true }) j))) ∧
    (hdmReachable s = true → bitOf (opOf c 0) 31 = false →
      (∀ code, mapStatus s c = some code → exec (.regionMap c) s = .next (finish s c code 0)) ∧
      (mapStatus s c = none → ∀ (g : HostReg) t, g = { mapped := true, out := bitOf (opOf c 0) 8, bob := bitsOf (opOf c 1) 15 0, base := bitsOf (opOf c 2) 23 0, log2 := bitsOf (opOf c 3) 4 0, dev := 0, host := 0, stop := false } →
        t = writeHdm (setRegion s j g) (g.base * 4096) (List.replicate 64 0) →
        (g.out = false → exec (.regionMap c) s = .next (finish t c 0 0)) ∧
        (g.out = true → exec (.regionMap c) s = .next (finish (modBob t g.bob (fun b => { b with stalled := false })) c 0 0))))) ∧
  (∀ (s : State) (j : Fin 64) (v : BitVec 16) (g : HostReg), s.host.d3hot = false → s.rst.dozing = false → getRegion s j.val = g →
    (doorbellOk g v = false → exec (.regionDoorbell j v) s = .next (countF s fHOST_ERR_db_err 0 0)) ∧
    (doorbellOk g v = true → g.out = false → exec (.regionDoorbell j v) s = .next (setRegion s j.val { g with host := v }))) ∧
  (∀ (s : State) (j : Fin 64) (out : ReadOutcome) (g : HostReg), getRegion s j.val = g →
    ((g.mapped = false ∨ g.out = true ∨ g.dev = g.host) → exec (.regionInputRead j out) s = .next s) ∧
    (g.mapped = true → g.out = false → g.dev ≠ g.host → ∀ (a : Nat) (ws : List TWord) (r u : State) (bad : Bool) (o : Option Nat), a = regionBlock g g.dev →
      stackCheck s (hdmStack a) (hdmOff a) 64 out 0 = (r, bad) →
      ws = (blockWords (readHdm r a 64)).map (fun w => if bad then { w with tag := w.tag ||| 0x080 } else w) →
      inputWords g.bob g.stop ws ((pointerCheck r g.bob 0).1, none) = (u, o) →
      exec (.regionInputRead j out) s = .next
        (let h := { g with dev := g.dev + 1 }
         stopRegion (regionHeader (setRegion u j.val h) h (o.getD (regionStatus u h))) j.val))) ∧
  (∀ (s : State) (j : Fin 64) (g : HostReg), getRegion s j.val = g →
    ((g.mapped = false ∨ g.out = false) → exec (.regionOutputWrite j) s = .next s) ∧
    (g.mapped = true → g.out = true →
      (2 ^ g.log2 ≤ blocksFrom g.host g.dev + ((peekItem s g.bob).length + 7) / 8 → exec (.regionOutputWrite j) s = .next s) ∧
      (blocksFrom g.host g.dev + ((peekItem s g.bob).length + 7) / 8 < 2 ^ g.log2 → ∀ u ws, egressItem (pointerCheck s g.bob 0).1 g.bob = (u, ws) → ws ≠ [] →
        exec (.regionOutputWrite j) s = .next
          (let bl := groups8 ws.length ws
           let h := { g with dev := g.dev + BitVec.ofNat 16 bl.length }
           regionHeader (setRegion (outputBlocks g g.bob 0 bl u) j.val h) h 0))))

/-- An access of the host outside the window is counted in HOST_ERR.hdm_denied, a write has no effect and a read answers zeros with poison; inside it a write stores its 64 bytes in the stack, marks the line when its data are poison, and a read answers the line, with poison where the line holds some or the read finds an error, which is recorded; a corrected one is counted (R262, R263, R320, R321). While the line's group of channels is not on, its proxy holds the access and wakes the group, or, with woa = 0, counts it asleep: the write is lost and the read answers zeros with poison (R239, log 256). Without reach of the window the commands are REFUSED. WINDOW_SET of a size that cannot be had is REFUSED where the stack has a window and else NO_RESOURCE (log 266), and else the base in granules of HDM offset (R261). BEATWIN_SET stores the place and size, with an area of 0 disabling it, and a range that is not in the window is INVALID_FIELD. BEATWIN_PUB of a yarn that does not exist is NOT_FOUND, and with the window off INVALID_STATE; a removal takes the yarn out of what is published (R338). With the window off no area is written (R339). Each answer names the whole next state. -/
def Obligations.WindowsOfTheHost : Prop :=
  (∀ (s : State) (l : Fin 738197504) (w : Option (List Byte)) (p : Bool) (u : ReadOutcome), hdmReachable s = false → exec (.hdmAccess l w p u) s = .next s) ∧
  (∀ (s : State) (l : Fin 738197504) (p : Bool) (u : ReadOutcome), hdmReachable s = true → windowGranule s (l.val * 64 / 4096) = false →
    (∀ bs, exec (.hdmAccess l (some bs) p u) s = .next (countF s fHOST_ERR_hdm_denied 0 0)) ∧
    exec (.hdmAccess l none p u) s = .next (emit (countF s fHOST_ERR_hdm_denied 0 0) (.window (List.replicate 64 0) true))) ∧
  (∀ (s : State) (l : Fin 738197504) (u : ReadOutcome) (d : Die) (o : Nat), hdmReachable s = true → windowGranule s (l.val * 64 / 4096) = true →
    d = hdmStack (l.val * 64) → o = hdmOff (l.val * 64) → proxied s d (48 + pcOf o / 4) = false →
    (∀ bs, exec (.hdmAccess l (some bs) false u) s = .next (writeHbm s d o (padTo 64 (bs.take 64))) ∧
      exec (.hdmAccess l (some bs) true u) s = .next (poisonLine (writeHbm s d o (padTo 64 (bs.take 64))) d o)) ∧
    (∀ p, exec (.hdmAccess l none p .uncorrectable) s = .next (emit (demandUe s d o) (.window (readHbm (demandUe s d o) d o 64) true)) ∧
      (poisoned s d o 64 = false → exec (.hdmAccess l none p .clean) s = .next (emit s (.window (readHbm s d o 64) false)) ∧
        ∀ t, t = correctedAt s d o → exec (.hdmAccess l none p .corrected) s = .next (emit t (.window (readHbm t d o 64) false))) ∧
      (poisoned s d o 64 = true → ∀ g t, (getHbm s d).poison.find? (fun g => decide (o < g * 32 + 32) && decide (g * 32 < o + 64)) = some g →
        t = demandUe s d (g * 32) → exec (.hdmAccess l none p .clean) s = .next (emit t (.window (readHbm t d o 64) true))))) ∧
  (∀ (s : State) (l : Fin 738197504) (wr : Option (List Byte)) (p : Bool) (u : ReadOutcome) (d : Die) (i k : Nat) (t : State), hdmReachable s = true →
    windowGranule s (l.val * 64 / 4096) = true → d = hdmStack (l.val * 64) → i = 48 + pcOf (hdmOff (l.val * 64)) / 4 → k = domKey d i → proxied s d i = true →
    (flagF s fDOM_CTL_woa d i = true → exec (.hdmAccess l wr p u) s =
      .next (setTarget (setHeldLines s k (heldLines s k ++ [{ line := l.val, wr := wr, poison := p }])) d i .on)) ∧
    (flagF s fDOM_CTL_woa d i = false → t = countF s fPROXY_STAT_asleep d i →
      (wr ≠ none → exec (.hdmAccess l wr p u) s = .next t) ∧
      (wr = none → exec (.hdmAccess l wr p u) s = .next (emit t (.window (List.replicate 64 0) true))))) ∧
  (∀ (s : State) (c : HostCmd) (d : Die), d = (if bitOf (opOf c 0) 0 then 1 else 0) →
    (hdmReachable s = false → exec (.windowSet c) s = .next (finish s c 6 0) ∧ exec (.beatwinSet c) s = .next (failStaged s c 6 0)) ∧
    (hdmReachable s = true →
      (windowSize s d (bitsOf (opOf c 1) 22 0) = none → ∀ r, r = (if s.mem.allocs.any (fun a => decide (a.stack = d) && decide (a.kind = .window)) then 6 else 5) →
        exec (.windowSet c) s = .next (finish s c r 0)) ∧
      (∀ t b, windowSize s d (bitsOf (opOf c 1) 22 0) = some (t, b) → exec (.windowSet c) s =
        .next (finish t c 0 (b + (if d = 1 then 0x580000 else 0)))))) ∧
  (∀ (s t : State) (c : HostCmd) (b a : Nat), hdmReachable s = true → b = bitsOf (opOf c 0) 23 0 → a = bitsOf (opOf c 1) 15 0 →
    t = { s with host := { s.host with win := { s.host.win with base := b, area := a, next := (getBeat s 0).ord, done := [], shown := none } } } →
    (a = 0 → exec (.beatwinSet c) s = .next (stagedOk t c 0 .none)) ∧
    (a ≠ 0 → windowRange s b (1 + 3 * a) = false → exec (.beatwinSet c) s = .next (failStaged s c 2 0)) ∧
    (a ≠ 0 → windowRange s b (1 + 3 * a) = true → exec (.beatwinSet c) s = .next (stagedOk (writeHdm t (b * 4096)
      (padTo 64 (leBytes 4 0x4E575442 ++ leBytes 12 0 ++ leBytes 8 (a * 4096)))) c 0 .none))) ∧
  (∀ (s : State) (c : HostCmd) (n : Nat) (ps os : Sparse (BitVec 4)), n = bitsOf (opOf c 0) 15 0 → ps = s.host.win.pubs →
    os = ps.filter (fun e => decide (e.1 ≠ n)) →
    (bitOf (opOf c 0) 31 = true →
      (os.length < ps.length → exec (.beatwinPub c) s = .next (stagedOk (setPubs s os) c 0 .none)) ∧
      (ps.length ≤ os.length → exec (.beatwinPub c) s = .next (failStaged s c 4 0))) ∧
    (bitOf (opOf c 0) 31 = false →
      (yarnHome s n = none → exec (.beatwinPub c) s = .next (failStaged s c 4 0)) ∧
      (∀ d, yarnHome s n = some d →
        (winOn s = false → exec (.beatwinPub c) s = .next (failStaged s c 3 0)) ∧
        (winOn s = true → ∀ m, m = BitVec.ofNat 4 (bitsOf (opOf c 1) 3 0) → os.length < 4096 →
          64 + (os.map (fun e => entryLen s e.1 e.2)).sum + entryLen s n m ≤ winArea s →
          exec (.beatwinPub c) s = .next (stagedOk (setPubs s (os.filter (fun e => decide (e.1 < n)) ++ [(n, m)] ++
            os.filter (fun e => decide (n < e.1)))) c 0 .none))))) ∧
  (∀ s : State, winOn s = false → exec .beatwinAreaWrite s = .next s) ∧
  (∀ (s t : State) (x a k : Nat) (w : BeatWin), winOn s = true → w = s.host.win → x = nextArea s → 0 < x → x ≤ (getBeat s 0).ord →
    x ≤ (getBeat s 0).cmt + 3 → (pubsAt w x).all (fun e => entryReady s e.1 x) = true → k = (numOfOrd s 0 x).toNat →
    a = w.base * 4096 + 0x1000 + k % 3 * winArea s → t = writeHdm s a ((areaBytes s x).take (winArea s)) →
    exec .beatwinAreaWrite s = .next (winShow { t with host.win := { w with next := x + 1, old := w.old.filter (fun e => decide (x < e.1)), done := w.done.filter (fun o => (numOfOrd t 0 o).toNat % 3 ≠ k % 3) ++ [x] } }))

/-- NV_WRITE: a reserved target, or data past its end, is INVALID_FIELD, the slot the die runs from REFUSED, a store that is busy or a die under update BUSY; else the data stand in the flash and the command waits. The end of the programming completes it, with AUTH_FAIL when the last write of an image or firmware ends with a slot whose signature block does not verify (R335). DIE_UPDATE that is turned away answers its code, with neither image nor firmware INVALID_FIELD; else the update is noted, the die is shown as under update for an image, or its complex is reset for a firmware alone (R194, R362). A firmware swap whose slot verifies loads it, starts the cores and completes with SUCCESS; one that does not, or a bad signature, puts the old firmware back and completes with AUTH_FAIL; the watchdog of the new firmware expires as one does (R362). Each answer names the whole next state. -/
def Obligations.NvWritesAndDieUpdates : Prop :=
  (∀ (s : State) (c : HostCmd) (d : Die) (t o : Nat), d = opDie c 0 → t = bitsOf (opOf c 0) 2 0 → o = opOf c 1 →
    (5 ≤ t → exec (.nvWrite c) s = .next (finish s c 2 0)) ∧
    (∀ b l, nvTarget t = some (b, l) →
      (l < o + c.buf.length → exec (.nvWrite c) s = .next (finish s c 2 0)) ∧
      (o + c.buf.length ≤ l → runsFrom s d t = true → exec (.nvWrite c) s = .next (finish s c 6 0)) ∧
      (o + c.buf.length ≤ l → runsFrom s d t = false →
        (((getImg s d).nvBusy ≠ none ∨ (getBeat s d).update ≠ none) → exec (.nvWrite c) s = .next (finish s c 10 0)) ∧
        ((getImg s d).nvBusy = none → (getBeat s d).update = none → ∀ u, u = { s with mem.nv := memWrite s.mem.nv (nvAddr d (b + o)) c.buf } →
          exec (.nvWrite c) s = .next (waitFor (setImg u d { getImg u d with nvBusy := some (t + 8 * bitN (bitOf (opOf c 0) 8)) }) c (.nv d)))))) ∧
  (∀ (s : State) (d : Die) (ok : Bool), ((getImg s d).nvBusy = none → exec (.nvStoreWriteDone d ok) s = .next s) ∧
    (∀ t u, (getImg s d).nvBusy = some t → u = setImg s d { getImg s d with nvBusy := none } →
      ((t < 8 ∨ 4 ≤ t % 8 ∨ ok = true ∧ slotSigned s d (t % 8) = true) → exec (.nvStoreWriteDone d ok) s = .next (endWait u (.nv d) 0 0 0)) ∧
      (8 ≤ t → t % 8 < 4 → (ok = false ∨ slotSigned s d (t % 8) = false) → exec (.nvStoreWriteDone d ok) s = .next (endWait u (.nv d) 0xB 0 0)))) ∧
  (∀ (s : State) (c : HostCmd) (d : Die) (w : Nat) (u : Update), d = opDie c 0 → w = opOf c 0 →
    u = { phase := if bitOf w 2 then .moving else .firmware, fw := bitOf w 3, img := bitOf w 2, fwSlot := bitOf w 1, imSlot := bitOf w 0, moving := [] } →
    (u.fw = false → u.img = false → exec (.dieUpdate c) s = .next (failStaged s c 2 0)) ∧
    (∀ code, updateStatus s d u = some code → exec (.dieUpdate c) s = .next (failStaged s c code 0)) ∧
    (updateStatus s d u = none → ∀ t, t = setBeat s d { getBeat s d with update := some u } →
      (u.img = true → exec (.dieUpdate c) s = .next (stagedOk (setDieState t d 3) c 0 (.update d))) ∧
      (u.img = false → exec (.dieUpdate c) s = .next (stagedOk (dropFirmware t d) c 0 (.update d))))) ∧
  (∀ (s t : State) (d : Die) (u : Update), (getBeat s d).update = some u → u.phase = .firmware → controlHeld s d = false → domOn s d 59 = true →
    6 ≤ getStage s d → t = setBeat s d { getBeat s d with update := none } →
    (∀ v, (fwFrames t d u.fwSlot ≠ none → exec (.fwSwapDone d (.done v)) s =
        .next (endWait (startIfOk (loadFirmware t d u.fwSlot v.toNat) d) (.update d) 0 0 0)) ∧
      (fwFrames t d u.fwSlot = none → exec (.fwSwapDone d (.done v)) s =
        .next (endWait (startIfOk (loadItcm t d (flagF t fFW_VER_slot 0 d.val)) d) (.update d) 0xB 0 0))) ∧
    exec (.fwSwapDone d .badSignature) s = .next (endWait (startIfOk (loadItcm t d (flagF t fFW_VER_slot 0 d.val)) d) (.update d) 0xB 0 0) ∧
    exec (.fwSwapDone d .watchdog) s = .next (wdtFire t d))

/-- A frame that matches, or that the scrubber does not check now, changes nothing unless it ends the cycle, which is counted (R389). A draft memory frame that differs is rewritten, and its harness has a fault (R390). A FRINGE frame that differs waits for its repair from the die's NV slot, and is recorded as not repaired when the die has none; the end of a repair stores the frame and records it (R390). NV_RETENTION_SCRUB rewrites a block with what it holds when the firmware runs, and does nothing otherwise (R500). POWER_CAP_TICK without the firmware of die 0 does nothing; else it keeps the last ten samples, and with the case at most 85 °C and no cap in force changes nothing else (R486). Each answer names the whole next state. -/
def Obligations.ScrubbingChecksAndRepairs : Prop :=
  (∀ (s : State) (d : Die) (f : BitVec 24) (bad still : Bool), f.toNat ≠ 8406801 →
    ((bad = false ∨ scrubs s d f.toNat = false) → exec (.scrubFrameCheck d f bad still) s = .next s) ∧
    (bad = true → scrubs s d f.toNat = true → f.toNat / 2 ^ 20 = 8 → exec (.scrubFrameCheck d f bad still) s =
      .next (scrubDmem s d f.toNat still))) ∧
  (∀ (s : State) (d : Die), flagF s fSCRUB_CTL_en d 0 = true → flagF s fCFG_STAT_done d 0 = true →
    exec (.scrubFrameCheck d 8406801#24 false false) s = .next (wrapF s fSCRUB_STAT_cycles d 0)) ∧
  (∀ (s : State) (d : Die) (f : BitVec 24) (m : ImgSt), scrubs s d f.toNat = true → f.toNat < 1048576 → getImg s d = m → m.scrubGot = none →
    (2 ≤ m.nvSlot.toNat → exec (.scrubFrameCheck d f true false) s = .next (scrubNote s d f.toNat false true)) ∧
    (m.nvSlot.toNat < 2 → exec (.scrubFrameCheck d f true false) s = .next (setImg s d { m with scrubGot := some f }))) ∧
  (∀ (s : State) (d : Die) (still : Bool), ((getImg s d).scrubGot = none → exec (.scrubRepairDone d still) s = .next s) ∧
    (∀ f t, (getImg s d).scrubGot = some f → t = setImg s d { getImg s d with scrubGot := none } →
      (storedFrames t d 0 f.toNat 1 = none → exec (.scrubRepairDone d still) s = .next (scrubNote t d f.toNat false true)) ∧
      (∀ fs, storedFrames t d 0 f.toNat 1 = some fs → exec (.scrubRepairDone d still) s =
        .next (scrubNote (fs.foldl (fun s e => putFrame s d false 0 e.1 e.2) t) d f.toNat true still)))) ∧
  (∀ (s : State) (d : Die) (b : Fin 8192), (fwAt s d 5 = false → exec (.nvRetentionScrub d b) s = .next s) ∧
    (fwAt s d 5 = true → ∃ m, exec (.nvRetentionScrub d b) s = .next { s with mem.nv := m } ∧ ∀ a, memByte m a = memByte s.mem.nv a)) ∧
  (∀ (s : State) (p : Nat) (j : Int), (fwAt s 0 5 = false → exec (.powerCapTick p j) s = .next s) ∧
    (fwAt s 0 5 = true → caseTemp j p ≤ 85000 → flagF s fDEV_STATE_pwr_cap 0 0 = false →
      exec (.powerCapTick p j) s = .next { s with cap.samples := (p :: s.cap.samples).take 10 }))

/-- On a complex whose cores or boot ROM execute a mismatch asserts the control lock-up source with cause 1, is shown in RT_ERR and counted (R345, R347). While its cores execute, an overflow of the running bank, which has no window left and a full spill region: of bank 0, or a fault while fault entry is under way, does so with cause 2 (R352); a first one of another bank enters window 7 and extends the spill limit by the free windows of DTCM and moves windows out, or ends the task and raises event 0x05 where there are none (R351, R352). A line that is not mapped to fault entry becomes pending once, and the scheduler looks at its lines; the running handler that has done what it does and yields is followed by the highest level that is preempted or pending, and a handler of fault entry leaves window 7 first (R353). Corrected words of its memories are counted, and one that cannot be corrected asserts the source with cause 3 or 4 (R347), in the boot ROM too (R359). The level of a line, and whether it enters fault, are what the firmware last set, and until then free values (log entry 94). Each answer names the whole next state. -/
def Obligations.ComplexesServeLinesAndFault : Prop :=
  (∀ (s : State) (d : Die), (coresRun s d = true ∨ bootRuns s d = true) → exec (.lockstepMismatch d) s = .next (assertReset (countF (setF (setF s fRT_ERR_valid d 0 1)
      fRT_ERR_cause d 0 1) fRT_ERR_lockups d 0) 9 { level := reachOf (countF (setF (setF s fRT_ERR_valid d 0 1) fRT_ERR_cause d 0 1) fRT_ERR_lockups d 0) d 9, die := d, har := 0 })) ∧
  (∀ (s : State) (d : Die) (k : Fin 8) (n : BitVec 16), coresRun s d = true → (getRt s d).level.getD 7 = k.val → spillBlocked s d k.val = true →
    (k.val = 0 → exec (.windowOverflowTrap d k n) s = .next (lockUp s d 2)) ∧
    (k.val ≠ 0 → flagF s fRT_STAT_fault_entry d 0 = true → exec (.windowOverflowTrap d k n) s = .next (lockUp s d 2)) ∧
    (k.val ≠ 0 → flagF s fRT_STAT_fault_entry d 0 = false → ∀ t l, t = enterFault s d → l = getF t fRT_SPILL_limit d k.val →
      (0 < n.toNat → exec (.windowOverflowTrap d k n) s = .next (spillEngine (setF t fRT_SPILL_limit d k.val (min 65535 (l + n.toNat))) d k.val)) ∧
      (n.toNat = 0 → ∀ q, q = setRt t d { getRt t d with preempt := (getRt t d).preempt.erase k.val, filled := listSet (getRt t d).filled k.val 0 } →
        exec (.windowOverflowTrap d k n) s = .next (raiseEvent (setF q fRT_SPILL_used d k.val 0) 0x05 d 0xFFFF 0xFF)))) ∧
  (∀ (s : State) (d : Die), coresRun s d = true → flagF s fRT_STAT_fault_entry d 0 = false → ∀ r, getRt s d = r →
    enterFault s d = setRt (setF s fRT_STAT_fault_entry d 0 1) d { r with level := some 0, back := r.window.headD 0, window := listSet r.window 0 7, preempt := match r.level with | some p => if r.preempt.contains p then r.preempt else r.preempt ++ [p] | none => r.preempt }) ∧
  (∀ (s : State) (d : Die) (l : Fin 128), domOn s d 59 = true → flagF s fRT_STAT_in_reset d 0 = false →
    (lineFaults d (getRt s d) l.val = true → exec (.eventLinePending d l) s = .next (enterFault s d)) ∧
    (lineFaults d (getRt s d) l.val = false → ∀ r, getRt s d = r → exec (.eventLinePending d l) s = .next (schedule (setRt s d
      { r with lines := if r.lines.contains l.val then r.lines else r.lines ++ [l.val] }) d))) ∧
  (∀ (s : State) (d : Die) (l : Fin 128), (domOn s d 59 = false ∨ flagF s fRT_STAT_in_reset d 0 = true) → exec (.eventLinePending d l) s = .next s) ∧
  (∀ (s a t : State) (d : Die) (acts : List CoreAct) (r : RtSt) (n : BitVec 8), bootRuns s d = false → coresRun s d = true → a = acts.foldl (coreAct d) s → coresRun a d = true →
    getRt a d = r → t = addF a fRT_ERR_ce d 0 n.toNat →
    (∀ b : Bool, exec (.handlerYield d acts n (some b)) s = .next (lockUp t d (if b then 4 else 3))) ∧
    (flagF t fRT_STAT_fault_entry d 0 = false → exec (.handlerYield d acts n none) s = .next (setRt t d (yieldLevel d r))) ∧
    (flagF t fRT_STAT_fault_entry d 0 = true → ∀ w, w = { r with window := listSet r.window 0 r.back } →
      exec (.handlerYield d acts n none) s = .next (setRt (setF (setRt t d w) fRT_STAT_fault_entry d 0 0) d (yieldLevel d w)))) ∧
  (∀ (s t : State) (d : Die) (acts : List CoreAct) (n : BitVec 8), bootRuns s d = true → t = addF s fRT_ERR_ce d 0 n.toNat →
    exec (.handlerYield d acts n none) s = .next t ∧ ∀ b : Bool, exec (.handlerYield d acts n (some b)) s = .next (lockUp t d (if b then 4 else 3))) ∧
  (∀ (r : RtSt) (l : Fin 128) (d : Die) (x : Option (Fin 8)) (b : Bool), sparseGet (fun _ => none) r.lineSet l.val = some (x, b) →
    lineFaults d r l.val = b ∧ lineLevel d r l.val = x.map (fun q => q.val)) ∧
  (∀ (s : State) (d : Die) (a : CoreAct), coresRun s d = true → coreAct d s a = (match a with
    | .call => coreCall s d
    | .ret => coreReturn s d
    | .setReg r v => setCoreReg s d r v
    | .load x r f => coreLoad s d x.toNat r f
    | .store x v f => coreStore s d x.toNat v f
    | .region k x l => spillEngine (setF (setRt s d { getRt s d with spillAt := listSet (getRt s d).spillAt k.val x.toNat }) fRT_SPILL_limit d k.val l.toNat) d k.val
    | .line l q b => setRt s d { getRt s d with lineSet := sparseSet (fun _ => none) (getRt s d).lineSet l.val (some (q, b)) }
    | .timer x us => setRt s d { getRt s d with timers := sparseSet (fun _ => none) (getRt s d).timers x (us.map (fun m => s.vigil.ticks + 25 * m)) }))

/-- The key written to WDT_KICK by the firmware refreshes the watchdog to its timeout; another value, or a write by the host, changes nothing (R356, R363). On a complex whose cores execute: the prewarning sets a quarter of the timeout and warn and enters fault; an expiry asserts source 4 at the reach of a first or second expiry within 1 s and is counted (R356). A restart whose ITCM has the digest of what was loaded starts the cores and raises RESET_DONE; else the boot ROM loads the firmware slot: one that does not verify leaves the complex in reset, the first start of a die begins its march test, and a later one serves again and ends what the reset cut (R359, R361). A semaphore that is held answers 0 and stays, and one that is free is taken and answers 1 (R363); its holder's release frees it, and a deferred halt then takes effect if nothing else defers it (R467). A deferred halt that is forced drops the reservation and takes effect (R467). Each answer names the whole next state. -/
def Obligations.WatchdogsAndSemaphores : Prop :=
  (∀ (s : State) (rq : Requester) (d : Die) (v : Word), (rq = .host ∨ v.toNat % 65536 ≠ 0xC1A5 → exec (.wdtKick rq d v) s = .next s) ∧
    (rq ≠ .host → v.toNat % 65536 = 0xC1A5 → exec (.wdtKick rq d v) s = .next (setRt s d { getRt s d with
      wdt := getF s fWDT_CTL_timeout d 0 * 1000, wdtAt := s.vigil.ticks }))) ∧
  (∀ (s : State) (d : Die), coresRun s d = true →
    exec (.wdtPrewarn d) s = .next (enterFault (setF (setRt s d { getRt s d with wdt := getF s fWDT_CTL_timeout d 0 * 1000 / 4, wdtAt := s.vigil.ticks }) fWDT_STAT_warn d 0 1) d) ∧
    (∀ l t, l = reachOf s d (if secondExpiry s d then 13 else 4) → t = countF (assertReset s 4 { level := l, die := d, har := 0 }) fWDT_HIST_expiries d 0 →
      (l = .die → exec (.wdtExpire d) s = .next (setCause (countF t fWDT_HIST_escal d 0) d 14)) ∧
      (l = .control → exec (.wdtExpire d) s = .next (setRt t d { getRt t d with lastExp := some s.vigil.ticks })) ∧
      (l ≠ .die → l ≠ .control → exec (.wdtExpire d) s = .next t))) ∧
  (∀ (s : State) (d : Die) (v : BitVec 31), bootRuns s d = true → (∀ u, (getBeat s d).update = some u → u.phase ≠ .firmware) →
    ((getRt s d).fwOk = true → itcmDigest s.mem.itcm d = (getRt s d).digest → ∀ t, t = raiseEvent (startCores s d) 0x1A d 4 (BitVec.ofNat 32 (d.val * 65536)) →
      exec (.renturRestartDone d v) s = .next (showReady (schedule (endWait (dieUp t d (reloading t d) false) (.release d .control 0) 0 0 0) d))) ∧
    (((getRt s d).fwOk = false ∨ itcmDigest s.mem.itcm d ≠ (getRt s d).digest) → ∀ t, t = startIfOk (loadFirmware s d (fwSlotUsed s d) v.toNat) d →
      ((getRt t d).fwOk = false → exec (.renturRestartDone d v) s = .next t) ∧
      ((getRt t d).fwOk = true → (getRt s d).booted = false → exec (.renturRestartDone d v) s = .next (showReady (dieUp (startMarch t d) d (reloading t d) false))) ∧
      ((getRt t d).fwOk = true → (getRt s d).booted = true → (getBeat s d).update ≠ none → exec (.renturRestartDone d v) s = .next (dieUp t d (reloading t d) false)) ∧
      ((getRt t d).fwOk = true → (getRt s d).booted = true → (getBeat s d).update = none → exec (.renturRestartDone d v) s = .next (serveAgain (endWait t (.update d) 6 0 0) d)))) ∧
  (∀ (s : State) (d : Die) (i : Fin 64) (q : Fin 8), coresRun s d = true →
    (flagF s fSEM_held d i.val = true → exec (.semAcquire d i d q) s = .next (emit s (.value .fwOwn 0))) ∧
    (flagF s fSEM_held d i.val = false → exec (.semAcquire d i d q) s = .next (emit (setF (setF (setF s fSEM_held d i.val 1)
      fSEM_owner_die d i.val d.val) fSEM_owner_level d i.val q.val) (.value .fwOwn 1)))) ∧
  (∀ (s t : State) (d o : Die) (i : Fin 64), o = (if flagF s fSEM_owner_die d i.val then 1 else 0) → t = setF s fSEM_held d i.val 0 →
    (flagF s fSEM_held d i.val = false → exec (.semaphoreRelease d i) s = .next s) ∧
    (flagF s fSEM_held d i.val = true → coresRun s o = true →
      ((getRt t o).haltWait = none → exec (.semaphoreRelease d i) s = .next t) ∧
      (∀ hard, (getRt t o).haltWait = some hard → (getRt t o).linked = false → holdsSem t o = false →
        exec (.semaphoreRelease d i) s = .next (haltNow t o hard)))) ∧
  (∀ (s : State) (d : Die), ((getRt s d).haltWait = none → exec (.haltForced d) s = .next s) ∧
    (∀ hard, (getRt s d).haltWait = some hard → exec (.haltForced d) s = .next (haltNow (setF (setRt s d
      { getRt s d with linked := false }) fDBG_STAT_forced 0 0 1) d hard)))

/-- A source that is not due, or while a load or start-up runs, or without the engine's domain, the fringe or its rail, changes nothing. A source that is due starts the load: it goes on where the checks of header, key and table pass, and else the load fails with the code of the first (R381 to R383). A segment of a load that runs: one with too few or too many bytes fails with 0x06; one that does not decode fails with its code; one whose last mark is in the wrong place fails with 0x09; a good segment that is not the last has its frames stored and the progress shown, and stays in the engine's buffers (R250, R374, R381). A rail that does not come in time is shown as failure 0x10, unless one was shown before, and the engine goes on waiting (R382). A chip select that ends leaves a die that waits for no image on the pins, and loads none from them, as it is, and lets the next assertion bring an image again (R378). Each answer names the whole next state. -/
def Obligations.ImagesAreLoaded : Prop :=
  (∀ (s : State) (d : Die) (x : ImgSrc), (domTakes s d 60 = false ∨ domTakes s d 58 = false ∨ flagF s fFIO_STAT_rail_ok d 0 = false ∨ (getImg s d).loading = true ∨
      (getImg s d).starting = true ∨ sourceDue s d x = false) → exec (.imageLoad d x) s = .next s ∧ (∀ h, x = .pushed h → exec (.imagePush d h) s = .next s)) ∧
  (∀ (s : State) (d : Die) (x : ImgSrc) (m : ImgSt), domTakes s d 60 = true → domTakes s d 58 = true → flagF s fFIO_STAT_rail_ok d 0 = true → getImg s d = m → m.loading = false →
    m.starting = false → sourceDue s d x = true → m.retained = false → ∀ t,
    (beginLoad s d x false m.update false = (t, none) → exec (.imageLoad d x) s = .next t ∧ (∀ h, x = .pushed h → exec (.imagePush d h) s = .next t)) ∧
    (∀ code seg, beginLoad s d x false m.update false = (t, some (code, seg)) → exec (.imageLoad d x) s = .next (failLoad t d code seg) ∧
      (∀ h, x = .pushed h → exec (.imagePush d h) s = .next (failLoad t d code seg)))) ∧
  (∀ (s : State) (d : Die) (bs y hd : List Byte) (m : ImgSt) (e f : SegEnt) (key : Nat), getImg s d = m → m.loading = true → m.src = some (.pins y hd) → m.table[m.done]? = some e →
    m.table[m.done + 1]? = some f → m.key = some key →
    (bs.length ≠ f.off - e.off → exec (.segmentLoad d bs false) s = .next (failLoad s d 0x06 m.done)) ∧
    (bs.length = f.off - e.off → m.done + 1 ≠ m.table.length →
      (∀ code, segDecode m.header m.done e key (bs.take e.len) = .inr code → exec (.segmentLoad d bs false) s = .next (failLoad s d code m.done)) ∧
      (∀ o, segDecode m.header m.done e key (bs.take e.len) = .inl o →
        (o.last = true → exec (.segmentLoad d bs false) s = .next (failLoad s d 0x09 m.done)) ∧
        (o.last = false → ∀ t, t = setF (writeAlso (putFrames s d m.retained e o.frames) d m e.off bs) fCFG_PROG_seg_done d 0 (m.done + 1) →
          exec (.segmentLoad d bs false) s = .next (setImg t d { m with
            done := m.done + 1, key := o.next, keys := m.keys ++ o.next.toList, digest := shaUpdate m.digest bs,
            buffers := (bs :: m.buffers).take 2 }))))) ∧
  (∀ (s : State) (d : Die) (bs : List Byte) (bad : Bool), (getImg s d).loading = false → exec (.segmentLoad d bs bad) s = .next s) ∧
  (∀ (s : State) (d : Die) (m : ImgSt), getImg s d = m → ((m.waiting = false ∨ flagF s fFIO_STAT_rail_ok d 0 = true) → exec (.fioRailWaitTimeout d) s = .next s) ∧
    (m.waiting = true → flagF s fFIO_STAT_rail_ok d 0 = false → ∀ t, t = (if m.failed then s else setF (setF s fCFG_STAT_code d 0 0x10) fCFG_STAT_seg d 0 0) →
      exec (.fioRailWaitTimeout d) s = .next (setImg (setF (setF t fCFG_STAT_err d 0 1) fCFG_STAT_busy d 0 0) d { m with failed := true }))) ∧
  (∀ s t : State, (∀ d, (getImg s d).waiting = false ∧ (getImg s d).loading = false) → t = setImg s 0 { getImg s 0 with pinsTaken := false } →
    exec .cfgCsDeassert s = .next (setImg t 1 { getImg t 1 with pinsTaken := false }))

/-- A step of the start-up while the clocks are not locked, or without a start-up, changes nothing (R385). With the clocks locked the step of the option byte's order is shown as done, the step of code 1 hands the pins from the fuse map to the image, and the fourth step ends the start-up: the die is loaded (R385 to R387). Clocks that are still not locked when their time is out fail the load with 0x0D (R382). The DRAFT frames of a harness are written again from the slot the die was loaded from; where that cannot be the harness is lost (R388). Each answer names the whole next state. -/
def Obligations.DiesStartUp : Prop :=
  (∀ (s : State) (d : Die), ((getImg s d).starting = false ∨ clocksLocked s d = false) → exec (.startupStep d) s = .next s) ∧
  (∀ (s t u : State) (d : Die) (m : ImgSt) (c : Nat), getImg s d = m → m.starting = true → clocksLocked s d = true → c = bitsOf (getOpts s d).order (7 - 2 * m.stepNo) (6 - 2 * m.stepNo) →
    t = setF s fCFG_STAT_steps d 0 (Nat.lor (getF s fCFG_STAT_steps d 0) (2 ^ c)) →
    u = setImg (if c = 1 then { t with fringe.fuseMap := listSet t.fringe.fuseMap d.val false } else t) d { m with stepNo := m.stepNo + 1 } →
    (m.stepNo ≠ 3 → exec (.startupStep d) s = .next u) ∧ (m.stepNo = 3 → exec (.startupStep d) s = .next (loadDone u d))) ∧
  (∀ (s : State) (d : Die), ((getImg s d).starting = false ∨ clocksLocked s d = true → exec (.startupClockTimeout d) s = .next s) ∧
    ((getImg s d).starting = true → clocksLocked s d = false → exec (.startupClockTimeout d) s = .next (failLoad s d 0x0D 0))) ∧
  (∀ (s : State) (d : Die) (h : Harn), ((domOn s d 60 = false ∨ flagF s fCFG_STAT_done d 0 = false ∨ (getImg s d).loading = true) → exec (.masterCopyReload d h) s = .next s) ∧
    (domOn s d 60 = true → flagF s fCFG_STAT_done d 0 = true → (getImg s d).loading = false →
      (s.mem.drafted.contains (harKey d h.val) = true → exec (.masterCopyReload d h) s = .next (loseHarness s d h.val)) ∧
      (s.mem.drafted.contains (harKey d h.val) = false →
        (storedFrames s d 1 (2704 * h.val) 2704 = none → exec (.masterCopyReload d h) s = .next (loseHarness s d h.val)) ∧
        (∀ fs, storedFrames s d 1 (2704 * h.val) 2704 = some fs → exec (.masterCopyReload d h) s =
          .next (fs.foldl (fun s f => putFrame s d false 1 f.1 f.2) s)))))

/-- The loss of lock of a locked PLL is shown, with a loaded die also in lock_lost, and its nets are shown as stopped; a PLL that the image enables shows its lock again, with the nets it drives (R401). A ring oscillator that runs shows its count, and one that does not shows 0 (R410). The loss of the rail of a die that is loaded is recorded in lost, the pins go to their fuse-map states and read 0, and the event is raised; on a die that is not loaded only rail_ok clears (R412). A rail that returns is shown with its voltage (R426). An edge of a net that does not run, or while a load runs, does nothing; before step S of the start-up an edge of a net that runs moves no flip-flop, and before step O it drives no pin, and it samples the pins of the net (R384, R394, R404); the model's own counter of free values advances. Each answer names the whole next state. -/
def Obligations.FringeClocksPinsAndRails : Prop :=
  (∀ (s : State) (d : Die) (i : Fin 2), (pllLocked s d i.val = false → exec (.fringePllLockLoss d i) s = .next s) ∧
    (pllLocked s d i.val = true → ∀ t, t = setF s (if i.val = 0 then fFCLK_STAT_pll0_lock else fFCLK_STAT_pll1_lock) d 0 0 →
      (flagF (showNets t d) fCFG_STAT_done d 0 = true → exec (.fringePllLockLoss d i) s = .next (setF (showNets t d) fFCLK_STAT_lock_lost d 0 1)) ∧
      (flagF (showNets t d) fCFG_STAT_done d 0 = false → exec (.fringePllLockLoss d i) s = .next (showNets t d))) ∧
    (domOn s d 58 = true → pllEn s d i.val = true → (getImg s d).loading = false → exec (.fringePllRelock d i) s =
      .next (showNets (setF s (if i.val = 0 then fFCLK_STAT_pll0_lock else fFCLK_STAT_pll1_lock) d 0 1) d)) ∧
    ((domOn s d 58 = false ∨ pllEn s d i.val = false) → exec (.fringePllRelock d i) s = .next s)) ∧
  (∀ (s : State) (d : Die) (i : Fin 4) (n : BitVec 16),
    (bitOf (getF s fFCLK_STAT_ro_run d 0) i.val = true → exec (.roCountWindow d i n) s = .next (setF s fRO_CNT_count d i.val n.toNat)) ∧
    (bitOf (getF s fFCLK_STAT_ro_run d 0) i.val = false → exec (.roCountWindow d i n) s = .next (setF s fRO_CNT_count d i.val 0))) ∧
  (∀ (s t : State) (d : Die), t = setF s fFIO_STAT_rail_ok d 0 0 →
    (flagF s fFIO_STAT_rail_ok d 0 = false → exec (.fioRailLoss d) s = .next s) ∧
    (flagF s fFIO_STAT_rail_ok d 0 = true → flagF t fCFG_STAT_done d 0 = false → exec (.fioRailLoss d) s = .next t) ∧
    (flagF s fFIO_STAT_rail_ok d 0 = true → flagF t fCFG_STAT_done d 0 = true → exec (.fioRailLoss d) s = .next
      (let u := { t with fringe.fuseMap := listSet t.fringe.fuseMap d.val true, fringe.rx := dropRangeOf t.fringe.rx (d.val * 32) 32 }
       raiseEvent (setReg (setF u fFIO_STAT_lost d 0 1) .FIO_IN d 0 0) 0x05 d 0xFFFF 0xFF))) ∧
  (∀ (s : State) (d : Die) (v : Bool), exec (.fioRailReturn d v) s = .next (setF (setF s fFIO_STAT_rail_ok d 0 1) fFIO_STAT_rail_v d 0 (bitN v))) ∧
  (∀ (s : State) (d : Die) (n : Fin 8) (l : BitVec 32) (x : BitVec 256), (netRuns s d n.val = false ∨ (getImg s d).loading = true) →
    exec (.fringeClockEdge d n l x) s = .next s) ∧
  (∀ (s t : State) (d : Die) (n : Fin 8) (l : BitVec 32) (x : BitVec 256) (m : List (Nat × Bool × BitVec 8)), netRuns s d n.val = true → (getImg s d).loading = false →
    stepDoneOf s d 1 = false → stepDoneOf s d 2 = false → m = (ioOn s d n.val).map (fun p => (p, ioSample s d p (bitOf l.toNat p) (bitsOf x.toNat (8 * p + 7) (8 * p)))) →
    t = setReg { setFfs s [] with fringe.rx := m.foldl (fun r e => sparseSet (fun _ => 0) r (d.val * 32 + e.1) e.2.2) (setFfs s []).fringe.rx } .FIO_IN d 0
      (BitVec.ofNat 32 (m.foldl (fun v e => putBits v e.1 e.1 (bitN e.2.1)) (regRaw s .FIO_IN d 0).toNat)) →
    stepDoneOf t d 2 = false → exec (.fringeClockEdge d n l x) s = .next { t with free := t.free + 393216 })

/-- A gate that is not ready takes no word; one that is ready buffers the word, and its buffer goes to its bobbin with the last word of an item or when 8 words stand in it (R406). A gate takes no outbound word unless the fabric is ready and the gate works and is bound; else the next word of its bobbin goes out, and the item is counted with its last word (R407). Before step E of the start-up a serial controller takes nothing. After it: a write to a full transmit buffer is lost and sets tx_ovf, and else is kept; a read of an empty receive buffer answers 0x8000_0000, a read takes the oldest byte and an inspect read leaves it; a byte that arrives at an enabled controller is kept, with err for a damaged one of a UART, and is lost with rx_ovf when the buffer is full; a byte that has gone out leaves the transmit buffer (R409, R414). Each answer names the whole next state. -/
def Obligations.FringeGatesAndSerialPorts : Prop :=
  (∀ (s : State) (d : Die) (g : Fin 64) (w : TWord), ((gateReady s d g.val = false ∨ tagIdle w.tag = true) → exec (.gateInWord d g w) s = .next s) ∧
    (gateReady s d g.val = true → tagIdle w.tag = false → ∀ t, t = setFGate s d g.val { getFGate s d g.val with buf := (getFGate s d g.val).buf ++ [w] } →
      ((tagLast w.tag = true ∨ 8 ≤ (getFGate s d g.val).buf.length + 1) → exec (.gateInWord d g w) s = .next (flushGate t d g.val)) ∧
      (tagLast w.tag = false → (getFGate s d g.val).buf.length + 1 < 8 → exec (.gateInWord d g w) s = .next t))) ∧
  (∀ (s : State) (d : Die) (g : Fin 64), exec (.gateOutWord d g false) s = .next s ∧ (gateOffers s d g.val = false → exec (.gateOutWord d g true) s = .next s) ∧
    (gateOffers s d g.val = true → ∀ n t w, n = getF s fGATE_OUT_bobbin d g.val → egressWord (bobWords (getBob s n) + 1) s n = (t, some w) →
      ∀ u, u = setFGate (emit t (.word n w)) d g.val { getFGate (emit t (.word n w)) d g.val with inOpen := !tagLast w.tag } →
      (tagLast w.tag = false → exec (.gateOutWord d g true) s = .next u) ∧
      (tagLast w.tag = true → exec (.gateOutWord d g true) s = .next (wrapF u fGATE_CNT_items_out d g.val)))) ∧
  (∀ (s : State) (d : Die) (c : Fin 8), stepDoneOf s d 3 = false →
    (∀ rq v, exec (.serTxdWrite rq d c v) s = .next s) ∧ (∀ b bad, exec (.serByteReceive d c b bad) s = .next s) ∧ (∀ n, exec (.serByteSent d c n) s = .next s)) ∧
  (∀ (s : State) (rq : Requester) (d : Die) (c : Fin 8) (v : Word), stepDoneOf s d 3 = true →
    (64 ≤ (getSer s d c.val).tx.length → exec (.serTxdWrite rq d c v) s = .next (setF s fSER_STAT_tx_ovf d c.val 1)) ∧
    ((getSer s d c.val).tx.length < 64 → exec (.serTxdWrite rq d c v) s = .next (showSer (setSer s d c.val { getSer s d c.val with
      tx := (getSer s d c.val).tx ++ [BitVec.ofNat 11 v.toNat] }) d c.val))) ∧
  (∀ (s : State) (rq : Requester) (d : Die) (c : Fin 8), ((getSer s d c.val).rx = [] → ∀ i, exec (.serRxdRead rq d c i) s = .next (emit s (.value rq 0x80000000))) ∧
    (∀ b bs, (getSer s d c.val).rx = b :: bs → exec (.serRxdRead rq d c true) s = .next (emit s (.value rq (BitVec.ofNat 32 b.toNat))) ∧
      exec (.serRxdRead rq d c false) s = .next (emit (showSer (setSer s d c.val { getSer s d c.val with rx := bs }) d c.val) (.value rq (BitVec.ofNat 32 b.toNat))))) ∧
  (∀ (s t : State) (d : Die) (c : Fin 8) (b : Byte) (bad : Bool), stepDoneOf s d 3 = true → flagF s fSER_CTL_en d c.val = true →
    t = (if bad && decide (getF s fSER_CTL_mode d c.val = 0) then setF s fSER_STAT_err d c.val 1 else s) →
    ((getSer s d c.val).rx.length < 64 → exec (.serByteReceive d c b bad) s = .next (showSer (setSer t d c.val { getSer s d c.val with rx := (getSer s d c.val).rx ++ [b] }) d c.val)) ∧
    (64 ≤ (getSer s d c.val).rx.length → getF s fSER_CTL_mode d c.val ≠ 3 → exec (.serByteReceive d c b bad) s = .next (setF t fSER_STAT_rx_ovf d c.val 1))) ∧
  (∀ (s : State) (d : Die) (c : Fin 8) (b : BitVec 11) (bs : List (BitVec 11)), stepDoneOf s d 3 = true → flagF s fSER_CTL_en d c.val = true → (getSer s d c.val).tx = b :: bs →
    exec (.serByteSent d c false) s = .next (emit (showSer (setSer s d c.val { getSer s d c.val with tx := bs }) d c.val) (.serial d c.val b)))

/-- A source from outside that asserts starts its reset at the reach in force, once; a reference clock failure is also counted (R419, R422). The end of a source releases what it asserted, but not for the debug request, a harness clock failure, or the host reset while the link is down (R423). A write of RST_REQ by the host changes nothing; by the firmware it stores the register, and go with level 1 to 5 asserts source 5 at that level, for level 5 on a harness that exists (R445). A stage of a die that is held, released, asleep or still powering up waits; else the stages run in order: Vigil domain, debug domain, option loader, network and reference, other domains, firmware, harnesses, host (R422, R426). Each answer names the whole next state. -/
def Obligations.ResetSourcesAndRelease : Prop :=
  (∀ (s : State) (d : Die) (n : Fin 13), ((outsideSource n.val = false ∨ s.rst.asserted.any (fun a => decide (a.src = n.val)) = true) →
      exec (.resetSourceAssert d n) s = .next s) ∧
    (outsideSource n.val = true → s.rst.asserted.any (fun a => decide (a.src = n.val)) = false → ∀ t,
      t = assertReset s n.val { level := reachOf s d n.val, die := d, har := 0 } →
      (n.val ≠ 7 → exec (.resetSourceAssert d n) s = .next t) ∧ (n.val = 7 → exec (.resetSourceAssert d n) s = .next (countF t fREFCLK_STAT_fails d 0)))) ∧
  (∀ (s : State) (d : Die) (n : Fin 13), ((n.val = 6 ∨ n.val = 8 ∨ (n.val = 11 ∧ getF s fCXL_LINK_STAT_up 0 0 = 0)) → exec (.resetSourceRelease d n) s = .next s) ∧
    (n.val ≠ 6 → n.val ≠ 8 → (n.val ≠ 11 ∨ getF s fCXL_LINK_STAT_up 0 0 ≠ 0) → exec (.resetSourceRelease d n) s = .next
      ((s.rst.asserted.filter (fun a => decide (a.src = n.val) && (!perDie n.val || decide (a.die = d)))).foldl releaseReset s))) ∧
  (∀ (s : State) (rq : Requester) (d : Die) (v : Word) (t : State) (l : Nat), t = regWrite s .RST_REQ d 0 v → l = bitsOf v.toNat 18 16 →
    (rq = .host → exec (.rstReqGo rq d v) s = .next s) ∧
    (rq ≠ .host → (bitOf v.toNat 31 = false ∨ l = 0 ∨ 6 ≤ l) → exec (.rstReqGo rq d v) s = .next t) ∧
    (rq ≠ .host → bitOf v.toNat 31 = true →
      (l = 1 → exec (.rstReqGo rq d v) s = .next (assertReset t 5 { level := .device, die := d, har := 0 })) ∧
      (l = 2 → exec (.rstReqGo rq d v) s = .next (assertReset t 5 { level := .die, die := d, har := 0 })) ∧
      (l = 3 → exec (.rstReqGo rq d v) s = .next (assertReset t 5 { level := .host, die := d, har := 0 })) ∧
      (l = 4 → exec (.rstReqGo rq d v) s = .next (assertReset t 5 { level := .control, die := d, har := 0 })) ∧
      (l = 5 → bitsOf v.toNat 5 0 < 36 → exec (.rstReqGo rq d v) s = .next (assertReset t 5 { level := .harness, die := d, har := bitsOf v.toNat 5 0 })) ∧
      (l = 5 → 36 ≤ bitsOf v.toNat 5 0 → exec (.rstReqGo rq d v) s = .next t))) ∧
  (∀ (s : State) (d : Die) (cs : Bool), (dieHeld s d = true ∨ 8 ≤ getStage s d ∨ s.rst.dozing = true ∨ s.rst.vigil = true ∨ (getStage s d = 5 ∧ poweringUp s d = true)) →
    exec (.releaseStage d cs) s = .next s) ∧
  (∀ (s : State) (d : Die) (cs : Bool) (k : Nat) (t : State), dieHeld s d = false → s.rst.dozing = false → s.rst.vigil = false → getStage s d = k → t = setStage s d (k + 1) →
    (k = 0 → exec (.releaseStage d cs) s = .next (if d = 0 then vigilOn t else t)) ∧
    (k = 1 → exec (.releaseStage d cs) s = .next (if d = 0 then turnOn t 0 64 else t)) ∧
    (k = 2 → exec (.releaseStage d cs) s = .next (optionLoader t d cs)) ∧
    (k = 3 → exec (.releaseStage d cs) s = .next (networkOn t d)) ∧
    (k = 4 → exec (.releaseStage d cs) s = .next (blocksOn t d)) ∧
    (k = 5 → poweringUp s d = false → exec (.releaseStage d cs) s = .next t) ∧
    (k = 6 → exec (.releaseStage d cs) s = .next ((List.range 36).foldl (fun s h => openHarness s d h) t)) ∧
    (k = 7 → exec (.releaseStage d cs) s = .next (if d = 0 then releaseHost (showReady t) else t)))

/-- A die that waits for its restore, is up and not refused it, goes on from its saved descriptors, alone for die 0 or without a link or before die 0 keeps beats; RESET_DONE of level 2 is raised and the command that waits completes (R418). Without a request nothing is entered; a request of the host that R436 refuses completes as REFUSED; else the device dozes with its domains parked, and is shown in DOZE, or entering VIGIL (R436, R437). From there every domain but Vigil's goes OFF, the CXL link with its own, the debug domain loses its session, and a wake that was held is taken at once (R438, R439). A wake that is due leaves DOZE or VIGIL; during the entry to VIGIL the first one is held; outside them it does nothing (R437 to R439). Each answer names the whole next state. -/
def Obligations.DieRestoreAndSleepStates : Prop :=
  (∀ (s : State) (d : Die), (s.rst.restore.contains d.val = false ∨ s.rst.opened = false ∨ dieReadyUp s d = false ∨ dieState s d ≠ 2) → exec (.dieRestore d) s = .next s) ∧
  (∀ (s t u v : State) (d : Die), s.rst.restore.contains d.val = true → s.rst.opened = true → dieReadyUp s d = true → dieState s d = 2 →
    ((savedDescs s d = none ∧ t = s) ∨ ∃ x, savedDescs s d = some x ∧ t = restoreFlow (putBack s d x) d) →
    u = setBeat t d { getBeat t d with started := decide (d = 0) || !linkUp t 1 || !(getBeat t 0).started } →
    v = raiseEvent (showReady { u with rst.restore := u.rst.restore.filter (fun k => decide (k ≠ d.val)) }) 0x1A d 2 (BitVec.ofNat 32 (d.val * 65536)) →
    exec (.dieRestore d) s = .next (endWait v (.release d .die 0) 0 0 0)) ∧
  (∀ s : State, s.rst.request = none → exec .dozeEntry s = .next s) ∧
  (∀ (s t : State) (v h : Bool), s.rst.request = some (v, h) → s.rst.dozing = false → s.rst.vigil = false → getF s fVGL_PWR_state 0 0 = 0 → t = { s with rst.request := none } →
    (h = true → (sleepRefused t = true ∨ allCommitted t = false) → exec .dozeEntry s = .next (endWait t (.domain 0 63) 6 0 0)) ∧
    ((h = false ∨ (sleepRefused t = false ∧ allCommitted t = true)) → ∀ u, u = { (endWait t (.domain 0 63) 0 0 0) with rst.dozing := true, host.bell := false } →
      exec .dozeEntry s = .next (setF (parkAll u) fVGL_PWR_state 0 0 (if v then 3 else 1)))) ∧
  (∀ s : State, (s.rst.dozing = false ∨ s.rst.vigil = true ∨ getF s fVGL_PWR_state 0 0 ≠ 3) → exec .vigilEntry s = .next s) ∧
  (∀ s t u : State, s.rst.dozing = true → s.rst.vigil = false → getF s fVGL_PWR_state 0 0 = 3 →
    t = parkRange (parkRange (parkRange (parkRange s .off 0 57) .off 58 5) .off 64 1) .off 57 1 →
    u = { t with dbg := debugInit, rst.asserted := t.rst.asserted.filter (fun a => decide (a.src ≠ 6)), regs := t.regs.filter (fun e => decide ((regSpec (keyReg e.1)).blk ≠ Block.dbg)) } →
    exec .vigilEntry s = .next (heldWakeNow (setF { u with rst.vigil := true, rst.dozing := false } fVGL_PWR_state 0 0 2))) ∧
  (∀ (s : State) (c : WakeCause), (wakeDue s c = false → exec (.wake c) s = .next s) ∧
    (wakeDue s c = true → s.rst.vigil = true → c ≠ .doorbell → exec (.wake c) s = .next (wakeVigil (setF s fVGL_PWR_wake 0 0 (wakeCode c)))) ∧
    (wakeDue s c = true → s.rst.vigil = false → s.rst.dozing = false → exec (.wake c) s = .next s) ∧
    (wakeDue s c = true → s.rst.vigil = false → s.rst.dozing = true →
      (getF s fVGL_PWR_state 0 0 = 1 → exec (.wake c) s = .next (wakeDoze (setF s fVGL_PWR_wake 0 0 (wakeCode c)))) ∧
      (getF s fVGL_PWR_state 0 0 ≠ 1 → s.rst.heldWake = none → exec (.wake c) s = .next { s with rst.heldWake := some c }) ∧
      (getF s fVGL_PWR_state 0 0 ≠ 1 → s.rst.heldWake ≠ none → exec (.wake c) s = .next s)))

/-- While the Vigil domain is out of reset a tick adds VGL_INC to the counter, or takes the time of VGL_SET when a load waits, and adds a step that waits; load and step are then done, the PPS output follows (R440, R442), and the timers of the complexes look at the time (R353). VGL_PPS_OUT, while pps_en is 1, rises at a tick at which the seconds change and falls after pps_w ms (R442). Writes by the host change nothing; by another requester VGL_LOAD asks for a load at the next tick and VGL_STEP for a step (R440, R445). An edge of PPS in with disc = 1 stores the error e and ends the holdover; it is one more in a row of the edges beyond 1,000 ns without a lock, or ends that row, and one more in a row of those within 50 ns, or ends that one; the eighth of the latter locks; the fourth of the former steps the counter by -e, and every other edge adjusts VGL_INC, to within 100 ppm of the nominal value, by an amount the rule does not give: a free value (R441, log entry 139). A missing PPS with disc = 1 starts the holdover and ends the lock, VGL_INC staying. With another disc, or with the domain in reset, neither has an effect. Each answer names the whole next state. -/
def Obligations.VigilTimeCounts : Prop :=
  (∀ s : State, vigilRuns s = false → exec .vigilTick s = .next s) ∧
  (∀ s : State, (vigilRuns s = false ∨ getF s fVGL_CTL_disc 0 0 ≠ 1) → exec .ppsInEdge s = .next s ∧ exec .ppsHoldover s = .next s) ∧
  (∀ (s : State) (b x : Int) (v : VigilSt), vigilRuns s = true → b = (if s.vigil.load then setTime s else vigilTime s.vigil + getF s fVGL_INC_inc 0 0) →
    (s.vigil.step = none ∧ x = b ∨ ∃ n, s.vigil.step = some n ∧ x = b + n.toInt * 2 ^ 24) → v = putTime s.vigil x →
    exec .vigilTick s = .next (timersAt (ppsOut { s with vigil := { v with load := false, step := none, ticks := v.ticks + 1 } }
      (decide (v.seconds ≠ s.vigil.seconds))))) ∧
  (∀ (s : State) (w : Nat), flagF s fVGL_CTL_pps_en 0 0 = true → w = getF s fVGL_CTL_pps_w 0 0 * 25000 → 0 < w →
    (s.vigil.ppsHigh = 0 → ppsOut s true = emit { s with vigil.ppsHigh := w } (.pps true) ∧ ppsOut s false = { s with vigil.ppsHigh := 0 }) ∧
    (s.vigil.ppsHigh = 1 → ppsOut s false = emit { s with vigil.ppsHigh := 0 } (.pps false)) ∧
    (1 < s.vigil.ppsHigh → ppsOut s false = { s with vigil.ppsHigh := s.vigil.ppsHigh - 1 })) ∧
  (∀ (s : State) (rq : Requester) (v : Word), (rq = .host → exec (.vglLoad rq) s = .next s ∧ exec (.vglStep rq v) s = .next s) ∧
    (rq ≠ .host → exec (.vglStep rq v) s = .next { s with vigil.step := some v } ∧
      ∀ t, t = regWrite s .VGL_CTL 0 0 (regRaw s .VGL_CTL 0 0 ||| 0x80000000) → exec (.vglLoad rq) s = .next { t with vigil.load := true })) ∧
  (∀ (s t u v : State) (e : Int) (bad good : Nat), vigilRuns s = true → getF s fVGL_CTL_disc 0 0 = 1 → e = ppsError s.vigil →
    t = setF (setF s fVGL_PPS_ERR_e 0 0 (BitVec.ofInt 32 e).toNat) fVGL_STAT_holdover 0 0 0 →
    bad = (if flagF t fVGL_STAT_pps_lock 0 0 = false ∧ 1000 < e.natAbs then s.vigil.ppsBad + 1 else 0) →
    good = (if e.natAbs ≤ 50 then s.vigil.ppsGood + 1 else 0) → u = { t with vigil.ppsBad := bad % 4, vigil.ppsGood := min good 8 } →
    v = (if 8 ≤ good then setF u fVGL_STAT_pps_lock 0 0 1 else u) →
    (bad = 4 → exec .ppsInEdge s = .next { v with vigil := putTime v.vigil ((vigilTime v.vigil : Int) - e * 2 ^ 24) }) ∧
    (bad ≠ 4 → exec .ppsInEdge s = .next (slewInc v))) ∧
  (∀ s : State, ∃ n : Nat, 0x28000000 - 67108 ≤ n ∧ n ≤ 0x28000000 + 67108 ∧ slewInc s = setF (freeValue s).2 fVGL_INC_inc 0 0 n) ∧
  (∀ (s : State), vigilRuns s = true → getF s fVGL_CTL_disc 0 0 = 1 → exec .ppsHoldover s =
    .next (setF (setF { s with vigil.ppsBad := 0, vigil.ppsGood := 0 } fVGL_STAT_holdover 0 0 1) fVGL_STAT_pps_lock 0 0 0))

/-- While the Vigil domain is in reset none of them has an effect. A TCXO that fails clears tcxo_ok and shows whether there is a reference to check against; with both dies on another reference nothing else follows, and else source 7 asserts once and each such die counts the failure (R441). A recovery sets tcxo_ok, and ends source 7 where the TCXO had failed. An alarm that is enabled and due clears its enable, sets fired and acts; one that is not enabled or not due does nothing (R443). A comparator that is enabled and not tripped sets its bits in now and tripped and acts; a clear takes the bit in now back (R444). Actions are an event line to die 0, a request for VIGIL and a wake. Each answer names the whole next state. -/
def Obligations.VigilMonitorsAlarmsAndComparators : Prop :=
  (∀ s : State, vigilRuns s = false → (∀ r, exec (.tcxoFail r) s = .next s) ∧ exec .tcxoRecovery s = .next s ∧ (∀ a, exec (.alarmFire a) s = .next s) ∧
    ∀ c, exec (.comparatorTrip c) s = .next s ∧ exec (.comparatorClear c) s = .next s) ∧
  (∀ (s t : State) (r : Bool), vigilRuns s = true → t = switchRef (switchRef { (setF (setF s fVGL_STAT_tcxo_ok 0 0 0) fVGL_STAT_tcxo_chk 0 0 (bitN r)) with vigil.tcxoBad := true } 0) 1 →
    (onTcxo t 0 = false → onTcxo t 1 = false → exec (.tcxoFail r) s = .next t) ∧
    (∀ d o : Die, ((d = 0 ∧ o = 1) ∨ (d = 1 ∧ o = 0)) → onTcxo t d = true → onTcxo t o = false → t.rst.asserted.any (fun a => decide (a.src = 7)) = false →
      exec (.tcxoFail r) s = .next (countF (assertReset t 7 { level := reachOf t d 7, die := d, har := 0 }) fREFCLK_STAT_fails d 0))) ∧
  (∀ (s t : State), vigilRuns s = true → t = setF { s with vigil.tcxoBad := false } fVGL_STAT_tcxo_ok 0 0 1 →
    (s.vigil.tcxoBad = true → exec .tcxoRecovery s = .next (sourceRelease t 0 7)) ∧ (s.vigil.tcxoBad = false → exec .tcxoRecovery s = .next t)) ∧
  (∀ (s : State) (a : Fin 4), vigilRuns s = true →
    ((flagF s fVGL_ALM_en 0 a.val = false ∨ vigilTime s.vigil < alarmTime s a.val * 2 ^ 24) → exec (.alarmFire a) s = .next s) ∧
    (flagF s fVGL_ALM_en 0 a.val = true → alarmTime s a.val * 2 ^ 24 ≤ vigilTime s.vigil → exec (.alarmFire a) s =
      .next (vigilAct (setF (setF s fVGL_ALM_en 0 a.val 0) fVGL_ALM_fired 0 a.val 1) (getF s fVGL_ALM_act 0 a.val) a.val (.alarm a)))) ∧
  (∀ (s t : State) (c : Fin 8), vigilRuns s = true →
    ((flagF s fVGL_CMP_CTL_en 0 c.val = false ∨ bitOf (getF s fVGL_CMP_STAT_now 0 0) c.val = true) → exec (.comparatorTrip c) s = .next s) ∧
    (flagF s fVGL_CMP_CTL_en 0 c.val = true → bitOf (getF s fVGL_CMP_STAT_now 0 0) c.val = false → t = putBitF (putBitF s fVGL_CMP_STAT_now 0 0 c.val true) fVGL_CMP_STAT_tripped 0 0 c.val true →
      exec (.comparatorTrip c) s = .next (vigilAct t (getF t fVGL_CMP_CTL_act 0 c.val) (4 + c.val) (.comparator c))) ∧
    (flagF s fVGL_CMP_CTL_en 0 c.val = true → exec (.comparatorClear c) s = .next (putBitF s fVGL_CMP_STAT_now 0 0 c.val false))) ∧
  (∀ (s : State) (act line : Nat) (c : WakeCause), bitOf act 0 = false → bitOf act 1 = false →
    (bitOf act 2 = false → vigilAct s act line c = s) ∧ (bitOf act 2 = true → s.rst.vigil = false → vigilAct s act line c = { s with rst.request := some (true, false) }))

/-- While the debug domain is OFF, or its wire is closed by the options, nothing changes. A low of at most 16 µs that is long enough for a break starts a frame and a session and sets the unit time; a longer one abandons the frame; an idle timeout or a framing error abandons it (R449, R450). For each of the twelve requests: without a frame nothing happens; where the CRC fails the answer is CRC_ERR and nothing is kept; the request sent again, same sequence bit and same bytes, has the stored response and is not executed (R453), unless its answer is still to come; a new request whose length is wrong has BAD_CMD, or else whose scope is not in force has LOCKED, and is kept with its answer (R454, R455, R459). The scopes: WRITE for WRITE, RUN for HALT, RESUME, STEP, RST_ASSERT and RST_RELEASE, and HARD with it for a hard HALT. -/
def Obligations.SelvedgeFramesAndRequests : Prop :=
  (∀ (s : State) (low : Nat), svOn s = false → exec (.brk low) s = .next s ∧ exec .selvedgeIdleTimeout s = .next s ∧ exec .selvedgeFramingError s = .next s) ∧
  (∀ (s : State) (low : Nat), svOn s = true →
    (isBreak s low = true → exec (.brk low) s = .next { s with dbg := { s.dbg with session := true, framed := true, t := low } }) ∧
    (16000 < low → exec (.brk low) s = .next { s with dbg := { s.dbg with framed := false } }) ∧
    (low ≤ 16000 → isBreak s low = false → exec (.brk low) s = .next s) ∧
    exec .selvedgeIdleTimeout s = .next { s with dbg := { s.dbg with framed := false } } ∧
    exec .selvedgeFramingError s = .next { s with dbg := { s.dbg with framed := false } }) ∧
  (∀ (s : State) (q : SvReq) (a : BitVec 48) (n attr scope slot level : Byte) (words : List Word) (key sig : List Byte) (d : Die) (tg : HaltTarget)
      (h : Harn) (hard linked : Bool) (cycles : BitVec 16) (fd : Finds) (c : Instr) (need : Nat), (c, need) ∈ (
      [(.ident q, 0), (.svRead q a n attr fd, 0), (.svWrite q a words fd, 1), (.challenge q, 0), (.unlock q scope slot key sig, 0), (.lock q, 0),
      (.halt q d tg h hard linked, if hard then 6 else 4), (.resume q d tg h, 4), (.svStep q d h cycles, 4), (.rstAssert q level d h, 4), (.rstRelease q, 4),
      (.svStatus q, 0)] : List (Instr × Nat)) →
    (svOn s = false ∨ s.dbg.framed = false → exec c s = .next s) ∧
    (svOn s = true → s.dbg.framed = true →
      (crc8 q.frame ≠ q.crc.toNat → exec c s = .next (svSend { s with dbg := { s.dbg with framed := false } } 1 [])) ∧
      (crc8 q.frame = q.crc.toNat → svRepeat s q = true →
        (s.dbg.haltFor = none → exec c s = .next (svSend { s with dbg := { s.dbg with framed := false } } s.dbg.status s.dbg.resp)) ∧
        (s.dbg.haltFor ≠ none → exec c s = .next { s with dbg := { s.dbg with framed := false } })) ∧
      (crc8 q.frame = q.crc.toNat → svRepeat s q = false →
        (q.lenOk = false → exec c s = .next (svAnswer { s with dbg := { s.dbg with framed := false, last := some q, haltFor := none } } 2 [])) ∧
        (q.lenOk = true → scopesHeld s need = false →
          exec c s = .next (svAnswer { s with dbg := { s.dbg with framed := false, last := some q, haltFor := none } } 3 [])))))

/-- For a new request that passes the checks of its frame: ID answers OK with HW_ID and the serial number; READ with a count of 0 or above 32, or a reserved attribute bit, is BAD_CMD, and else reads words of the internal address map one after the other up to the first whose status is not OK: all OK is OK with the bytes read, and else the answer is ACCESS_ERR with the bytes before it and the status (R456); a request that a proxy holds for a domain that wakes waits, and has its answer when the domain is ON (R239). WRITE of 0 words or above 32 is BAD_CMD; a write that touches a breakpoint setting without the scope RUN is LOCKED (R459); else the words are written up to the first that fails. STATUS answers DBG_STAT and DBG_HALT of both dies (R455). Each answer names the whole next state; what one access does at an address is that of the register and memory statements. -/
def Obligations.SelvedgeReadsAndWrites : Prop :=
  (∀ (s t : State) (q : SvReq), svOn s = true → s.dbg.framed = true → crc8 q.frame = q.crc.toNat → svRepeat s q = false → q.lenOk = true →
    t = { s with dbg := { s.dbg with framed := false, last := some q, haltFor := none } } →
    exec (.ident q) s = .next (svAnswer t 0 (leBytes 4 (regWord t .selvedge 0 .HW_ID 0).toNat ++ (leBytes 4 (regWord t .selvedge 0 .SERIAL_LO 0).toNat ++
      leBytes 4 (regWord t .selvedge 0 .SERIAL_HI 0).toNat))) ∧
    exec (.svStatus q) s = .next (svAnswer t 0 (leBytes 4 (dbgStat t).toNat ++ (leBytes 4 (dbgHalt t 0 0 32).toNat ++ (leBytes 4 (dbgHalt t 0 32 4).toNat ++
      (leBytes 4 (dbgHalt t 1 0 32).toNat ++ leBytes 4 (dbgHalt t 1 32 4).toNat))))) ∧
    (∀ (a : BitVec 48) (n attr : Byte) (fd : Finds), (n = 0 ∨ 32 < n.toNat ∨ 2 ≤ attr.toNat → exec (.svRead q a n attr fd) s = .next (svAnswer t 2 [])) ∧
      ∀ (u : State) (st : Nat) (b : List Byte), n ≠ 0 → n.toNat ≤ 32 → attr.toNat < 2 → svReadWords t (decide (attr = 1)) fd 0 a.toNat n.toNat = (u, st, b) →
        (st = 0 → exec (.svRead q a n attr fd) s = .next (svAnswer u 0 b)) ∧
        (st ≠ 0 → st ≠ heldStatus → exec (.svRead q a n attr fd) s = .next (svAnswer u 4 (b ++ [BitVec.ofNat 8 st]))) ∧
        (st = heldStatus → exec (.svRead q a n attr fd) s = .next (let w : SvWait := { write := false, addr := a.toNat, count := n.toNat, attr := attr.toNat, words := [] }
          { u with dbg := { u.dbg with svWait := some w } }))) ∧
    (∀ (a : BitVec 48) (attr : Byte) (fd : Finds) (u : State) (v : Word), attr.toNat < 2 →
      netAccess t .selvedge a.toNat none (decide (attr = 1)) (if fd.pos.toNat = 0 then fd else cleanFinds) = (u, 0, v) →
      exec (.svRead q a 1 attr fd) s = .next (svAnswer u 0 (leBytes 4 v.toNat))) ∧
    (∀ (a : BitVec 48) (words : List Word) (fd : Finds), scopesHeld s 1 = true → (words = [] ∨ 32 < words.length → exec (.svWrite q a words fd) s = .next (svAnswer t 2 [])) ∧
      (words ≠ [] → words.length ≤ 32 → ((∃ i < words.length, bpAddress (a.toNat + 4 * i) = true) → scopesHeld s 4 = false →
          exec (.svWrite q a words fd) s = .next (svAnswer t 3 [])) ∧
        ∀ (u : State) (st : Nat), ((∀ i < words.length, bpAddress (a.toNat + 4 * i) = false) ∨ scopesHeld s 4 = true) → svWriteWords t fd 0 a.toNat words = (u, st) →
          (st = 0 → exec (.svWrite q a words fd) s = .next (svAnswer u 0 [])) ∧
          (st ≠ 0 → st ≠ heldStatus → exec (.svWrite q a words fd) s = .next (svAnswer u 4 [BitVec.ofNat 8 st])) ∧
          (st = heldStatus → exec (.svWrite q a words fd) s = .next (let w : SvWait := { write := true, addr := a.toNat, count := 0, attr := 0, words := words }
            { u with dbg := { u.dbg with svWait := some w } })))) ∧
    (∀ (a : BitVec 48) (v : Word) (fd : Finds) (u : State), scopesHeld s 1 = true → bpAddress a.toNat = false →
      netAccess t .selvedge a.toNat (some v) false (if fd.pos.toNat = 0 then fd else cleanFinds) = (u, 0, 0) →
      exec (.svWrite q a [v] fd) s = .next (svAnswer u 0 [])))

/-- For a new request that passes the checks of its frame: CHALLENGE gives a fresh nonce, which is a free value, and voids the one before (R458). UNLOCK with a reserved scope bit or slot is BAD_CMD; else the nonce is used up; while unlocks are locked out the answer is AUTH_FAIL without a check; a request that does not verify is AUTH_FAIL, counted, and the third in a row starts the lockout (R460); one that verifies adds the scopes that the options and the rules of R459 grant and answers OK, or LOCKED where not all asked for are granted. LOCK clears the scopes (R447). The nonce expires, and the lockout ends (R458, R460). Each answer names the whole next state. -/
def Obligations.SelvedgeUnlocks : Prop :=
  (∀ (s t : State) (q : SvReq), svOn s = true → s.dbg.framed = true → crc8 q.frame = q.crc.toNat → svRepeat s q = false → q.lenOk = true →
    t = { s with dbg := { s.dbg with framed := false, last := some q, haltFor := none } } →
    exec (.challenge q) s = .next (svAnswer { t with dbg := { t.dbg with nonce := some s.free }, free := s.free + 1 } 0 (leBytes 16 (Config.nonce s.free).toNat)) ∧
    exec (.lock q) s = .next (svAnswer (setF t fDBG_STAT_scope 0 0 0) 0 []) ∧
    (∀ (scope slot : Byte) (key sig : List Byte) (u : State), u = { t with dbg := { t.dbg with nonce := none } } →
      (8 ≤ scope.toNat ∨ 2 ≤ slot.toNat → exec (.unlock q scope slot key sig) s = .next (svAnswer t 2 [])) ∧
      (scope.toNat < 8 → slot.toNat < 2 →
        (flagF s fDBG_STAT_lockout 0 0 = true → exec (.unlock q scope slot key sig) s = .next (svAnswer u 5 [])) ∧
        (flagF s fDBG_STAT_lockout 0 0 = false → ∀ (v w : State) (g : Nat), v = countF u fDBG_STAT_fails 0 0 → g = scopesGranted s scope.toNat →
          w = setF { u with dbg := { u.dbg with fails := 0 } } fDBG_STAT_scope 0 0 (Nat.lor (svScopes s) g) →
          exec (.unlock q scope slot key sig) s = .next (if unlockGood s scope slot.toNat key sig then svAnswer w (if g = scope.toNat then 0 else 3) []
            else if s.dbg.fails < 2 then svAnswer { v with dbg := { v.dbg with fails := s.dbg.fails + 1 } } 5 []
            else svAnswer (setF { v with dbg := { v.dbg with fails := 0 } } fDBG_STAT_lockout 0 0 1) 5 []))))) ∧
  (∀ (s : State) (scope : Byte) (slot : Nat) (key sig : List Byte), (s.dbg.nonce = none → unlockGood s scope slot key sig = false) ∧
    ∀ k, s.dbg.nonce = some k → unlockGood s scope slot key sig = (decide (s.fuses.debugKeys.getD slot none = some (sha384Nat key)) &&
      ecdsaVerify key sig (sha384Nat (leBytes 16 (Config.nonce k).toNat ++ leBytes 8 s.fuses.serial.toNat ++ [scope])))) ∧
  (∀ s : State, exec .nonceExpire s = .next { s with dbg := { s.dbg with nonce := none } } ∧
    (flagF s fDBG_STAT_lockout 0 0 = true → exec .unlockLockoutEnd s = .next (setF s fDBG_STAT_lockout 0 0 0)) ∧
    (flagF s fDBG_STAT_lockout 0 0 = false → exec .unlockLockoutEnd s = .next s))

/-- For a new request that passes the checks of its frame, with the scopes in force: HALT of a complex that is not running, is halted already, or waits for a deferred halt is BUSY; of one between a load-reserve and its store-conditional, or that holds a semaphore, it is deferred and not yet answered (R467); else it takes effect and then answers OK. HALT of a harness that is resetting, stepping or halted is BUSY, else it is halted and the answer is OK; HALT of all is BUSY where one is resetting or stepping or all are halted, else each harness out of reset is halted. A halted harness steps no more, and the halt of the die's last one cuts short what its rings are sending (R310). RESUME is BUSY while a halt of the complex waits, or while a harness is resetting or stepping; else what is halted goes on, and the answer is OK (R465). Each answer names the whole next state. -/
def Obligations.SelvedgeHaltsAndResumes : Prop :=
  (∀ (s t : State) (q : SvReq) (d : Die) (h : Harn) (hard linked : Bool) (need : Nat), svOn s = true → s.dbg.framed = true → crc8 q.frame = q.crc.toNat → svRepeat s q = false → q.lenOk = true →
    t = { s with dbg := { s.dbg with framed := false, last := some q, haltFor := none } } →
    need = (if hard then 6 else 4) → scopesHeld s need = true →
    (coresRun s d = false ∨ (getRt s d).haltWait ≠ none ∨ (getRt s d).halt ≠ .none → exec (.halt q d .control h hard linked) s = .next (svAnswer t 6 [])) ∧
    (∀ u : State, coresRun s d = true → (getRt s d).haltWait = none → (getRt s d).halt = .none →
      u = modRt { t with dbg := { t.dbg with haltFor := some d } } d (fun r => { r with linked := linked }) →
      (linked = true ∨ holdsSem u d = true → exec (.halt q d .control h hard linked) s = .next (modRt u d (fun r => { r with haltWait := some hard }))) ∧
      (linked = false → holdsSem u d = false → exec (.halt q d .control h hard linked) s = .next (haltNow u d hard))) ∧
    (harBusy s d h = true ∨ (getHar s d h).halted = true → exec (.halt q d .harness h hard linked) s = .next (svAnswer t 6 [])) ∧
    (harBusy s d h = false → (getHar s d h).halted = false → exec (.halt q d .harness h hard linked) s =
      .next (svAnswer (haltHarness t d h) 0 [])) ∧
    ((∃ k < 36, harBusy s d k = true) ∨ (∀ k < 36, (getHar s d k).halted = true) → exec (.halt q d .all h hard linked) s = .next (svAnswer t 6 [])) ∧
    ((∀ k < 36, harBusy s d k = false) → (∃ k < 36, (getHar s d k).halted = false) → exec (.halt q d .all h hard linked) s = .next (svAnswer (haltAll t d) 0 []))) ∧
  (∀ (s t : State) (q : SvReq) (d : Die) (h : Harn), svOn s = true → s.dbg.framed = true → crc8 q.frame = q.crc.toNat → svRepeat s q = false → q.lenOk = true →
    t = { s with dbg := { s.dbg with framed := false, last := some q, haltFor := none } } →
    scopesHeld s 4 = true →
    ((getRt s d).haltWait ≠ none → exec (.resume q d .control h) s = .next (svAnswer t 6 [])) ∧
    ((getRt s d).haltWait = none → (getRt s d).halt = .none → exec (.resume q d .control h) s = .next (svAnswer t 0 [])) ∧
    ((getRt s d).haltWait = none → (getRt s d).halt ≠ .none → exec (.resume q d .control h) s = .next (svAnswer (resumeCore t d) 0 [])) ∧
    (harBusy s d h = true → exec (.resume q d .harness h) s = .next (svAnswer t 6 [])) ∧
    (harBusy s d h = false → exec (.resume q d .harness h) s = .next (svAnswer (modHar t d h (fun a => { a with halted := false })) 0 [])) ∧
    ((∃ k < 36, harBusy s d k = true) → exec (.resume q d .all h) s = .next (svAnswer t 6 [])) ∧
    ((∀ k < 36, harBusy s d k = false) → exec (.resume q d .all h) s =
      .next (svAnswer ((List.range 36).foldl (fun s k => modHar s d k (fun a => { a with halted := false })) t) 0 []))) ∧
  (∀ (s t : State) (d : Die) (h : Nat), t = modHar s d h (fun a => { a with halted := true, stepping := 0, haltIn := 0 }) →
    (dieHalted t d = false → haltHarness s d h = t) ∧ (dieHalted t d = true → haltHarness s d h = stompRings t d))

/-- For a new request that passes the checks of its frame, with the scope RUN: STEP of no cycles is BAD_CMD; of a harness that is not halted, or resets or steps, BUSY; else the harness runs for the cycles and the answer is OK; when they have passed it is halted again (R465). RST_ASSERT of a level that is not DEVICE, DIE, HOST, CONTROL or HARNESS is BAD_CMD; while the source is asserted BUSY; else source 6 asserts the reset at the level and target named, and the answer is OK; RST_RELEASE ends it, and with none asserted it is OK with no effect (R457). Each answer names the whole next state; what a reset does at its level is that of the reset statements. -/
def Obligations.SelvedgeStepsAndResets : Prop :=
  (∀ (s t : State) (q : SvReq), svOn s = true → s.dbg.framed = true → crc8 q.frame = q.crc.toNat → svRepeat s q = false → q.lenOk = true →
    t = { s with dbg := { s.dbg with framed := false, last := some q, haltFor := none } } →
    scopesHeld s 4 = true →
    (∀ (d : Die) (h : Harn) (n : BitVec 16), (n = 0 → exec (.svStep q d h n) s = .next (svAnswer t 2 [])) ∧
      (n ≠ 0 → harBusy s d h = true ∨ (getHar s d h).halted = false → exec (.svStep q d h n) s = .next (svAnswer t 6 [])) ∧
      (n ≠ 0 → harBusy s d h = false → (getHar s d h).halted = true → exec (.svStep q d h n) s =
        .next (svAnswer (modHar t d h (fun a => { a with stepping := n.toNat })) 0 []))) ∧
    (∀ (level : Byte) (d : Die) (h : Harn), (level = 0 ∨ 5 < level.toNat → exec (.rstAssert q level d h) s = .next (svAnswer t 2 [])) ∧
      (∀ (l : Level) (k : Nat), (level, l) ∈ [((1 : Byte), Level.device), (2, .die), (3, .host), (4, .control), (5, .harness)] → k = (if l = .harness then h.val else 0) →
        (s.dbg.rstHeld ≠ none → exec (.rstAssert q level d h) s = .next (svAnswer t 6 [])) ∧
        (s.dbg.rstHeld = none → exec (.rstAssert q level d h) s =
          .next (svAnswer (assertReset { t with dbg := { t.dbg with rstHeld := some ⟨6, l, d, k⟩ } } 6 ⟨l, d, k⟩) 0 [])))) ∧
    (s.dbg.rstHeld = none → exec (.rstRelease q) s = .next (svAnswer t 0 [])) ∧
    (∀ a, s.dbg.rstHeld = some a → exec (.rstRelease q) s = .next (svAnswer (releaseReset { t with dbg := { t.dbg with rstHeld := none } } a) 0 []))) ∧
  (∀ (s : State) (d : Die) (h : Harn), (0 < (getHar s d h).stepping → exec (.stepDone d h) s = .next (haltHarness s d h)) ∧
    ((getHar s d h).stepping = 0 → exec (.stepDone d h) s = .next s))

/-- A read of TSEQ_STAT answers the register and clears dead_cnt (R120). A read of BEAT_NUM_LO or BEAT_CMT_LO, of DEV_BEAT_LO, or of VGL_TIME_FRAC answers the lower bits and latches the upper bits for its requester: the high registers then read, for that requester, the other bits of the same number or time (R196, R323, R445); and every register but BOB_POP_TAG, which no latch concerns, reads for every other requester as it did before (R474, R477). An inspect read answers the same value and changes nothing else (R468). Each answer names the whole next state. -/
def Obligations.ReadsThatLatchOrClear : Prop :=
  (∀ (s : State) (rq : Requester) (d : Die) (h : Harn), exec (.tseqStatRead rq d h true) s = .next (emit s (.value rq (tseqStat s d h))) ∧
    exec (.tseqStatRead rq d h false) s = .next (emit (setF s fTSEQ_STAT_dead_cnt d h 0) (.value rq (tseqStat s d h))) ∧
    getF (emit (setF s fTSEQ_STAT_dead_cnt d h 0) (.value rq (tseqStat s d h))) fTSEQ_STAT_dead_cnt d h = 0) ∧
  (∀ (s : State) (rq : Requester) (d : Die) (cmt : Bool) (n : BitVec 48), n = (if cmt then cmtNum s d else beatNum s d) →
    exec (.beatNumLoRead rq d cmt true) s = .next (emit s (.value rq (BitVec.ofNat 32 n.toNat))) ∧
    exec (.beatNumLoRead rq d cmt false) s = .next (emit (latch s rq (bitN cmt * 2 + d.val) (n.toNat / 2 ^ 32)) (.value rq (BitVec.ofNat 32 n.toNat)))) ∧
  (∀ (s : State) (rq : Requester), exec (.devBeatLoRead rq true) s = .next (emit s (.value rq (BitVec.ofNat 32 (cmtNum s 0).toNat))) ∧
    exec (.devBeatLoRead rq false) s = .next (emit (latch s rq 4 ((cmtNum s 0).toNat / 2 ^ 32)) (.value rq (BitVec.ofNat 32 (cmtNum s 0).toNat))) ∧
    exec (.vglTimeFracRead rq true) s = .next (emit s (.value rq (BitVec.ofNat 32 (s.vigil.frac / 256)))) ∧
    exec (.vglTimeFracRead rq false) s = .next (emit (latch (latch (latch s rq 5 s.vigil.ns) rq 6 (s.vigil.seconds.toNat % 2 ^ 32)) rq 7 (s.vigil.seconds.toNat / 2 ^ 32))
      (.value rq (BitVec.ofNat 32 (s.vigil.frac / 256))))) ∧
  (∀ (s t : State) (rq : Requester) (d : Die) (c : Instr), c ∈ [Instr.beatNumLoRead rq d false false, .beatNumLoRead rq d true false, .devBeatLoRead rq false, .vglTimeFracRead rq false] →
    exec c s = .next t → ∀ (o : Requester) (e : Die) (r : Reg) (i : Nat), o ≠ rq → r ≠ .BOB_POP_TAG → regWord t o e r i = regWord s o e r i) ∧
  (∀ (s t : State) (rq : Requester) (d : Die),
    (exec (.beatNumLoRead rq d false false) s = .next t → regWord t rq d .BEAT_NUM_HI 0 = BitVec.ofNat 32 ((beatNum s d).toNat / 2 ^ 32)) ∧
    (exec (.beatNumLoRead rq d true false) s = .next t → regWord t rq d .BEAT_CMT_HI 0 = BitVec.ofNat 32 ((cmtNum s d).toNat / 2 ^ 32)) ∧
    (exec (.devBeatLoRead rq false) s = .next t → regWord t rq 0 .DEV_BEAT_HI 0 = BitVec.ofNat 32 ((cmtNum s 0).toNat / 2 ^ 32)) ∧
    (exec (.vglTimeFracRead rq false) s = .next t → regWord t rq 0 .VGL_TIME_NS 0 = BitVec.ofNat 32 s.vigil.ns ∧
      regWord t rq 0 .VGL_TIME_S_LO 0 = BitVec.ofNat 32 (s.vigil.seconds.toNat % 2 ^ 32) ∧ regWord t rq 0 .VGL_TIME_S_HI 0 = BitVec.ofNat 32 (s.vigil.seconds.toNat / 2 ^ 32)))

/-- A write by the host to a register outside its window is ignored unless the window is open and the debug unlock holds, and one inside it unless the window is open; a write to an instance that the die does not have, by the host to a register that only the firmware writes, or to the debug block by another than the Selvedge wire, is ignored (R325, R456, R471, R478). A write of a register without an effect of its own takes each field by its access code (R8). A write of BEAT_CTL, JRN_BASE, JRN_SIZE, BOB_QUOTA, BOB_PUSH, WDT_KICK, RST_REQ, CLK_CTL, DOM_CTL and SER.TXD does what the row of that write does. The base, size and vector registers of an enabled queue pair do not change (R326). A bit of EVT_EN that a write sets while the event of that bit is pending sends the event vector (R341). The registers of the fringe take no write before step E of the start-up (R384). -/
def Obligations.RegisterWritesReachTheirRegister : Prop :=
  (∀ (s : State) (rq : Requester) (d : Die) (r : Reg) (i : Nat) (v : Word),
    ((regSpec r).blk ≠ .bar0 → rq = .host → windowOpen s = false ∨ unlocked s = false → exec (.registerWrite rq d r i v) s = .next s) ∧
    ((regSpec r).blk = .bar0 → windowOpen s = false → exec (.registerWrite rq d r i v) s = .next s) ∧
    (regExists r d i = false → exec (.registerWrite rq d r i v) s = .next s) ∧
    ((regSpec r).blk = .dbg → rq ≠ .selvedge → exec (.registerWrite rq d r i v) s = .next s) ∧
    ((regSpec r).fw = true → rq = .host → (regSpec r).blk ≠ .bar0 → exec (.registerWrite rq d r i v) s = .next s) ∧
    ((regSpec r).blk = .frg → stepDoneOf s d 3 = false → exec (.registerWrite rq d r i v) s = .next s)) ∧
  (∀ (s : State) (rq : Requester) (d : Die) (r : Reg) (i : Nat) (v : Word), writeReaches s rq r = true → regExists r d i = true → mayWrite rq r = true → ((regSpec r).blk = .frg → stepDoneOf s d 3 = true) →
    (r ∉ [Reg.RST_REQ, .DOM_CTL, .WDT_KICK, .VGL_CTL, .VGL_STEP, .NOC_CTL, .NOC_RT_DATA, .YARN_SEL, .BOB_SEL, .BOB_PUSH_TAG, .NOC_RT_SEL, .CELL_CSEL, .SWAP_CTL, .CLK_CTL,
        .AVS_CTL, .BANK_CTL, .YARN_OVF, .BEAT_CTL, .JRN_BASE, .JRN_SIZE, .BOB_QUOTA, .BOB_CTL, .BOB_PUSH, .PCFG, .QBV_CTL, .PL_CTL, .PL_PERIOD, .PL_BASE_NS, .PL_BASE_S,
        .PL_LEAD, .BRD_CTL, .GATE_IN, .GATE_OUT, .SER_TXD, .SER_CTL, .SER_STAT, .BP_CTL, .BP_SEL, .BP_VAL, .BP_MASK, .BP_TAG, .BP_HITS, .MT_CTL, .QP_DB_SQ, .QP_DB_CQ,
        .REGION_DB, .SQ_BASE_LO, .SQ_BASE_HI, .CQ_BASE_LO, .CQ_BASE_HI, .QP_SIZE, .QP_CTL, .MSIX_CTL, .EVT_EN] → exec (.registerWrite rq d r i v) s = .next (regWrite s r d i v)) ∧
    (r ∈ [Reg.SQ_BASE_LO, .SQ_BASE_HI, .CQ_BASE_LO, .CQ_BASE_HI, .QP_SIZE] → (qpEnabled s i = true → exec (.registerWrite rq d r i v) s = .next s) ∧
      (qpEnabled s i = false → exec (.registerWrite rq d r i v) s = .next (regWrite s r 0 i v))) ∧
    (r = .EVT_EN → ∀ old t, old = (regRaw s .EVT_EN 0 0).toNat → t = regWrite s .EVT_EN 0 0 v →
      exec (.registerWrite rq d r i v) s = .next (if (List.range 32).any (fun k => bitOf (regRaw t .EVT_EN 0 0).toNat k && !bitOf old k && bitOf (regRaw t .EVT_PEND 0 0).toNat k)
        then sendMsi t (getF t fEVT_VEC_vec 0 0) else t)) ∧
    (r = .SWAP_CTL → bitOf v.toNat 31 = false → bitOf v.toNat 30 = false → exec (.registerWrite rq d r i v) s = .next s) ∧
    (∀ (h : Harn) (j : DomIx) (n : Fin 8) (c : Instr), (r, d, i, c) ∈ [(Reg.BEAT_CTL, d, 0, Instr.beatPeriodWrite rq d v),
        (.JRN_BASE, d, 0, .jrnBaseWrite rq d v), (.JRN_SIZE, d, 0, .jrnSizeWrite rq d v), (.BOB_QUOTA, d, 0, .bobQuotaWrite rq d v), (.BOB_PUSH, d, 0, .bobPush rq d v),
        (.WDT_KICK, d, 0, .wdtKick rq d v), (.RST_REQ, d, 0, .rstReqGo rq d v), (.CLK_CTL, d, h.val, .clkFreqWrite rq d h v), (.DOM_CTL, d, j.val, .domTargetWrite rq d j v),
        (.SER_TXD, d, n.val, .serTxdWrite rq d n v)] →
      exec (.registerWrite rq d r i v) s = exec c s))

/-- A write of JRN_BASE while the ring holds entries is refused, and JRN_STAT shows it; else it moves the empty ring, and one of JRN_SIZE sets the size of an empty ring, where the granules are free, and is refused where they are not (R166, R261). While the ring holds entries a write of JRN_SIZE asks for a resize: it is refused while a shrink waits; a grow takes the granules that follow the ring at once if they are free, and is refused else (R152); a shrink to less than the ring holds is refused, and another waits until the writer and the reader allow it (R153). Each answer names the whole next state. -/
def Obligations.JournalRingIsSetAndResized : Prop :=
  (∀ (s : State) (rq : Requester) (d : Die) (v : Word), (0 < (getBeat s d).jlen → exec (.jrnBaseWrite rq d v) s = .next (setF s fJRN_STAT_rsz_refused d 0 1)) ∧
    ((getBeat s d).jlen = 0 → ∀ b q, b = bitsOf v.toNat 22 0 → q = bitsOf v.toNat 19 0 →
      (ringMayLie s d b (getF s fJRN_SIZE_granules d 0) = true →
        exec (.jrnBaseWrite rq d v) s = .next (freshRing s d b (getF s fJRN_SIZE_granules d 0))) ∧
      (ringMayLie s d b (getF s fJRN_SIZE_granules d 0) = false → exec (.jrnBaseWrite rq d v) s = .next (setF s fJRN_STAT_rsz_refused d 0 1)) ∧
      (ringMayLie s d (getF s fJRN_BASE_granules d 0) q = true →
        exec (.jrnSizeWrite rq d v) s = .next (freshRing s d (getF s fJRN_BASE_granules d 0) q)) ∧
      (ringMayLie s d (getF s fJRN_BASE_granules d 0) q = false → exec (.jrnSizeWrite rq d v) s = .next (setF s fJRN_STAT_rsz_refused d 0 1)))) ∧
  (∀ (s : State) (rq : Requester) (d : Die) (v : Word) (q cur base : Nat), 0 < (getBeat s d).jlen → q = bitsOf v.toNat 19 0 → cur = getF s fJRN_SIZE_granules d 0 → base = getF s fJRN_BASE_granules d 0 →
    ((getBeat s d).jshrink ≠ none → exec (.jrnSizeWrite rq d v) s = .next (setF s fJRN_STAT_rsz_refused d 0 1)) ∧
    ((getBeat s d).jshrink = none →
      (q = cur → exec (.jrnSizeWrite rq d v) s = .next s) ∧
      (cur < q → allocFree s d (base + cur) (q - cur) = false ∨ allocLimit < base + q → exec (.jrnSizeWrite rq d v) s = .next (setF s fJRN_STAT_rsz_refused d 0 1)) ∧
      (cur < q → allocFree s d (base + cur) (q - cur) = true → base + q ≤ allocLimit → exec (.jrnSizeWrite rq d v) s =
        .next (modBeat (trimAlloc (setF s fJRN_SIZE_granules d 0 q) d .journal q) d
          (fun b => { b with jgrown := if ringWrapped (jrnRing s d) then (getBeat s d).jgrown + 64 * (q - cur) else (getBeat s d).jgrown }))) ∧
      (q < cur → q * 64 < (getBeat s d).jlen → exec (.jrnSizeWrite rq d v) s = .next (setF s fJRN_STAT_rsz_refused d 0 1)) ∧
      (q < cur → (getBeat s d).jlen ≤ q * 64 → exec (.jrnSizeWrite rq d v) s = .next (modBeat s d (fun b => { b with jshrink := some q }))))) ∧
  (∀ (s : State) (d : Die) (base size : Nat), getF (freshRing s d base size) fJRN_SIZE_granules d 0 = size % 2 ^ 20 ∧ getF (freshRing s d base size) fJRN_BASE_granules d 0 = base % 2 ^ 23)

/-- With the windows closed (R316) neither changes anything. An access of the Diagnostic Window that is not one aligned word, or of the Host Window that is not an aligned word or 8 bytes, reads all ones in each 4 bytes, or is ignored, and counts in HOST_ERR.acc_err (R322). An aligned read of the Diagnostic Window goes to the internal storage of the offset, as an inspect read where DIAG_CTL.inspect is set, and answers its word; a status other than OK answers all ones and is recorded in DIAG_STAT (R325), and an access that a proxy holds has no answer yet (R239). A write without the debug unlock is ignored; with it, it goes to the same place, and a failure is recorded. In a bank memory part, an offset beyond the memories reads 0 and takes no write (R324). An access of the Host Window reads or writes the register at its offset, and one of 8 bytes acts as two words, the lower first (R322). A read of the configuration space answers its word, which names the vendor, device, revision and class of R318 at the places of log entry 269. Each answer names the whole next state. -/
def Obligations.DiagnosticWindowReadsAndWrites : Prop :=
  (∀ (s : State) (off : BitVec 27) (w : Fin 17) (v : BitVec 64) (f : Finds) (sp : HostSpace), windowOpen s = false → sp ≠ .config → exec (.diagRead sp off w f) s = .next s ∧ exec (.diagWrite sp off w v f) s = .next s) ∧
  (∀ (s : State) (off : BitVec 27) (w : Fin 17) (v : BitVec 64) (f : Finds) (sp : HostSpace), windowOpen s = true →
    (sp = .diag ∧ (w.val ≠ 4 ∨ off.toNat % 4 ≠ 0)) ∨ (sp = .window ∧ (w.val ≠ 4 ∧ w.val ≠ 8 ∨ off.toNat % w.val ≠ 0)) →
    exec (.diagRead sp off w f) s = .next ((List.range ((w.val + 3) / 4)).foldl (fun t _ => emit t (.value .host 0xFFFFFFFF)) (countF s fHOST_ERR_acc_err 0 0)) ∧
    exec (.diagWrite sp off w v f) s = .next (countF s fHOST_ERR_acc_err 0 0)) ∧
  (∀ (s : State) (off : BitVec 27) (v : BitVec 64) (f : Finds), windowOpen s = true → off.toNat % 4 = 0 →
    (∀ (t : State) (st : Nat) (x : Word), windowAccess s off.toNat none (flagF s fDIAG_CTL_inspect 0 0) f = (t, st, x) →
      (st = 0 → exec (.diagRead .diag off 4 f) s = .next (emit t (.value .host x))) ∧
      (st = heldStatus → exec (.diagRead .diag off 4 f) s = .next t) ∧
      (st ≠ 0 → st ≠ heldStatus → exec (.diagRead .diag off 4 f) s =
        .next (emit (setReg t .DIAG_STAT 0 0 (BitVec.ofNat 32 (2 ^ 31 + st * 2 ^ 25 + off.toNat / 4))) (.value .host 0xFFFFFFFF)))) ∧
    (unlocked s = false → exec (.diagWrite .diag off 4 v f) s = .next s) ∧
    (unlocked s = true → ∀ (t : State) (st : Nat) (x : Word), windowAccess s off.toNat (some (v.setWidth 32)) false f = (t, st, x) →
      (st = 0 ∨ st = heldStatus → exec (.diagWrite .diag off 4 v f) s = .next t) ∧
      (st ≠ 0 → st ≠ heldStatus → exec (.diagWrite .diag off 4 v f) s = .next (setReg t .DIAG_STAT 0 0 (BitVec.ofNat 32 (2 ^ 31 + st * 2 ^ 25 + off.toNat / 4)))))) ∧
  (∀ (s : State) (off : BitVec 27) (v : BitVec 64) (f : Finds) (o : Nat), windowOpen s = true → o = off.toNat % 65536 → o % 4 = 0 →
    (∀ t x, placeRead s .host 0 false (.window o) = (t, x) → exec (.diagRead .window off 4 f) s = .next (emit t (.value .host x)) ∧
      (o % 8 = 0 → ∀ u y, placeRead (emit t (.value .host x)) .host 0 false (.window (o + 4)) = (u, y) →
        exec (.diagRead .window off 8 f) s = .next (emit u (.value .host y)))) ∧
    (∀ r k, regAt .bar0 o = some (r, k) → exec (.diagWrite .window off 4 v f) s = .next (regWriteAt s .host 0 r k (BitVec.ofNat 32 v.toNat))) ∧
    (regAt .bar0 o = none → exec (.diagWrite .window off 4 v f) s = .next s) ∧
    (o % 8 = 0 → exec (.diagWrite .window off 8 v f) s =
      .next (windowWord (windowWord s o (BitVec.ofNat 32 v.toNat)) (o + 4) (BitVec.ofNat 32 (v.toNat / 2 ^ 32))))) ∧
  (∀ (s : State) (off : BitVec 27) (w : Fin 17) (v : BitVec 64) (f : Finds) (a : Nat), a = off.toNat % 4096 / 4 * 4 →
    exec (.diagWrite .config off w v f) s = .next s ∧ (∃ x, exec (.diagRead .config off w f) s = .next (emit s (.value .host x)) ∧
      (a = 0 → x = BitVec.ofNat 32 (s.host.fn.device.toNat * 65536 + s.host.fn.vendor.toNat)) ∧
      (a = 8 → x = BitVec.ofNat 32 (s.host.fn.cls.toNat * 256 + s.host.fn.revision.toNat)) ∧
      (a = 0x2C → x = BitVec.ofNat 32 (s.host.fn.subDevice.toNat * 65536 + s.host.fn.subVendor.toNat)))) ∧
  (State.reset.host.fn.vendor = 0x1F3C ∧ State.reset.host.fn.device = 0x4896 ∧ State.reset.host.fn.revision = 0xB0 ∧ State.reset.host.fn.cls = 0x120000 ∧
    State.reset.host.fn.subVendor = 0x1F3C ∧ State.reset.host.fn.subDevice = 0x4896) ∧
  (∀ (s : State) (off : BitVec 27) (w : Option Word) (i : Bool) (f : Finds) (d : Die), d = (if bitOf off.toNat 25 then 1 else 0) →
    (off.toNat < 0x4000000 → windowAccess s off.toNat w i f = regAccess s .host d (off.toNat % 0x2000000) w i) ∧
    (0x4000000 ≤ off.toNat → off.toNat % 0x2000000 < 0x1200000 → windowAccess s off.toNat w i f = bankAccess s .host d (off.toNat % 0x2000000) w f) ∧
    (0x4000000 ≤ off.toNat → 0x1200000 ≤ off.toNat % 0x2000000 → windowAccess s off.toNat w i f = (s, 0, 0)))

/-- The width that the exponent adjustment uses is the least number n of at least one bit such that the integer lies from −2ⁿ⁻¹ to 2ⁿ⁻¹ − 1, which is what n bits hold in two's complement: it holds the integer, and no smaller number of bits does; with the four examples of the rule. -/
def Obligations.WidthIsTheShortestForm : Prop :=
  (∀ v : Int, 1 ≤ widthOf v ∧ -(2 ^ (widthOf v - 1) : Int) ≤ v ∧ v ≤ 2 ^ (widthOf v - 1) - 1 ∧
    ∀ n : Nat, 1 ≤ n → -(2 ^ (n - 1) : Int) ≤ v → v ≤ 2 ^ (n - 1) - 1 → widthOf v ≤ n) ∧
  widthOf 0 = 1 ∧ widthOf (-1) = 1 ∧ widthOf 1 = 2 ∧ widthOf 32767 = 16 ∧ widthOf (-32768) = 16

/-- For every line of a granule of the window, while the window is reachable and the line's group of channels answers (R239): after a write of 64 bytes a read of the line answers those bytes without poison, and after a write that is poison it answers poison (R263, R266, R320); neither read changes a byte of the stacks, a read without poison changes nothing, and the write changes no byte of the stacks outside the line. -/
def Obligations.HdmReadsBackWhatWasWritten : Prop :=
  ∀ (s : State) (l : Fin 738197504) (bs : List Byte) (p : Bool) (u : ReadOutcome), hdmReachable s = true → windowGranule s (l.val * 64 / 4096) = true → bs.length = 64 →
    proxied s (hdmStack (l.val * 64)) (48 + pcOf (hdmOff (l.val * 64)) / 4) = false →
    ∃ t : State, exec (.hdmAccess l (some bs) p u) s = .next t ∧
      (∃ r : State, exec (.hdmAccess l none false .clean) t = .next (emit r (.window bs p)) ∧ (p = false → r = t) ∧ r.mem.hbm = t.mem.hbm) ∧
      ∀ a : Nat, a < hbmAddr (hdmStack (l.val * 64)) (hdmOff (l.val * 64)) ∨ hbmAddr (hdmStack (l.val * 64)) (hdmOff (l.val * 64)) + 64 ≤ a →
        memByte t.mem.hbm a = memByte s.mem.hbm a

/-- Where the debug port listens, a low of the wire that is a break, between frames from 3.6 to 16.0 µs, abandons the frame in progress, sets the unit time and begins a frame and a session; in a frame the same holds for a low of at least seven unit times of that frame. A low longer than 16.0 µs, an idle of more than 1 ms and a framing error abandon the frame; no other low changes anything (R449, R450). Where it does not listen nothing changes (R446). At the end of the chip select each die, die 0 first, fails with 0x0F when it waits for an image on the pins, fails with 0x06 when it loads one from them, and else stays as it is; the next assertion then may bring an image again (R378). Each answer names the whole next state, for every state and operand. -/
def Obligations.WireEventsComplete : Prop :=
  (∀ (s : State) (low : Nat), domOn s 0 64 = true → (getOpts s 0).debug % 2 = 1 →
    (s.dbg.framed = false → 3600 ≤ low → low ≤ 16000 →
      exec (.brk low) s = .next { s with dbg := { s.dbg with session := true, framed := true, t := low } }) ∧
    (s.dbg.framed = true → 7 * s.dbg.t ≤ 8 * low → low ≤ 16000 →
      exec (.brk low) s = .next { s with dbg := { s.dbg with session := true, framed := true, t := low } }) ∧
    (16000 < low → exec (.brk low) s = .next { s with dbg := { s.dbg with framed := false } }) ∧
    (s.dbg.framed = false → low < 3600 → exec (.brk low) s = .next s) ∧
    (s.dbg.framed = true → 8 * low < 7 * s.dbg.t → low ≤ 16000 → exec (.brk low) s = .next s)) ∧
  (∀ (s : State), domOn s 0 64 = true → (getOpts s 0).debug % 2 = 1 →
    exec .selvedgeIdleTimeout s = .next { s with dbg := { s.dbg with framed := false } } ∧
    exec .selvedgeFramingError s = .next { s with dbg := { s.dbg with framed := false } }) ∧
  (∀ (s : State), (domOn s 0 64 = false ∨ (getOpts s 0).debug % 2 ≠ 1) → (∀ low, exec (.brk low) s = .next s) ∧
    exec .selvedgeIdleTimeout s = .next s ∧ exec .selvedgeFramingError s = .next s) ∧
  (∀ (s t u : State), t = csDeassert (csDeassert s 0) 1 → u = setImg t 0 { getImg t 0 with pinsTaken := false } →
    exec .cfgCsDeassert s = .next (setImg u 1 { getImg u 1 with pinsTaken := false })) ∧
  (∀ (s : State) (d : Die) (due : Bool),
    due = ((getImg s d).waiting && !(getImg s d).update && !(getImg s d).retained && bitOf (getOpts s d).boot 0) →
    (due = true → csDeassert s d = noteFail s d 0x0F 0) ∧
    (due = false → (getImg s d).loading = true → ∀ y hd, (getImg s d).src = some (.pins y hd) →
      csDeassert s d = failLoad s d 0x06 (getImg s d).done) ∧
    (due = false → ((getImg s d).loading = false ∨ ∀ y hd, (getImg s d).src ≠ some (.pins y hd)) → csDeassert s d = s))
end

