-- ==== Sys2Proof/Laws/Commands.lean ====
section
/-! SUPPORT. The commands on yarns, case by case (R128, R334, R335): what `onYarn` and YARN_CREATE do, so that no proof has to
unfold them. -/

namespace Sys2Proof.Machine

theorem onYarn_missing (s : State) (c : HostCmd) (f : List YState) (op : WaitOp) (g : State → Die → State)
    (h : 32768 ≤ opYarn c ∨ yarnDies s (opYarn c) = []) : onYarn s c f op g = failStaged s c 4 0 := by
  simp only [onYarn, h, if_true]

theorem onYarn_one (s : State) (c : HostCmd) (f : List YState) (op : WaitOp) (g : State → Die → State) (d : Die)
    (h : opYarn c < 32768) (hd : yarnDies s (opYarn c) = [d]) (hs : (getYarn s d (opYarn c)).state ∈ f) :
    onYarn s c f op g = g (stagedOk s c 0 op) d := by
  have hx : ¬ (32768 ≤ opYarn c ∨ yarnDies s (opYarn c) = []) := by rw [hd]; simp; omega
  simp only [onYarn, hx, if_false]
  rw [hd]
  simp [hs]

theorem onYarn_wrong (s : State) (c : HostCmd) (f : List YState) (op : WaitOp) (g : State → Die → State) (d : Die)
    (h : opYarn c < 32768) (hd : yarnDies s (opYarn c) = [d]) (hs : (getYarn s d (opYarn c)).state ∉ f) :
    onYarn s c f op g = failStaged s c 3 0 := by
  have hx : ¬ (32768 ≤ opYarn c ∨ yarnDies s (opYarn c) = []) := by rw [hd]; simp; omega
  simp only [onYarn, hx, if_false]
  rw [hd]
  simp [hs]

theorem yarnCreate_of_inr {s : State} {c : HostCmd} {code : Nat} (h : createYarn s c.buf = .inr code) :
    yarnCreate s c = failStaged s c code 0 := by
  unfold yarnCreate
  rw [h]

theorem yarnCreate_of_inl {s t : State} {c : HostCmd} (h : createYarn s c.buf = .inl t) :
    yarnCreate s c = stagedOk t c (bitsOf (descWord c.buf 4) 14 0) .none := by
  unfold yarnCreate
  rw [h]

theorem createYarn_field {s : State} {bs : List Byte} (h : descOk bs = false) : createYarn s bs = .inr 2 := by
  unfold createYarn
  rw [h]
  rfl

theorem createYarn_used {s : State} {bs : List Byte} (h : descOk bs = true)
    (h2 : yarnDies s (bitsOf (descWord bs 4) 14 0) ≠ []) : createYarn s bs = .inr 3 := by
  unfold createYarn
  dsimp only
  rw [if_neg (by rw [h]; decide), if_pos h2]

theorem createYarn_clash {s : State} {bs : List Byte} (h : descOk bs = true)
    (h2 : yarnDies s (bitsOf (descWord bs 4) 14 0) = []) (h3 : classClash s (yarnOfDesc bs) = true) :
    createYarn s bs = .inr 6 := by
  unfold createYarn
  dsimp only
  rw [if_neg (by rw [h]; decide), if_neg (by rw [h2]; exact fun h => h rfl), if_pos (by rw [h3]; rfl)]

end Sys2Proof.Machine
end

