-- ==== Sys2Proof/Laws/Held.lean ====
section
/-! SUPPORT. What the shared operations leave alone: none of them touches the queue of waiting commands, the fuses or the list
of staged commands. `State.held` names the three together, and each operation has one lemma that says so. -/

set_option linter.unusedTactic false
set_option linter.unreachableTactic false

namespace Sys2Proof.Machine

/-- The queue of waiting commands, the fuses and the staged commands. -/
def State.held (s : State) : List Instr × Fuses × List Staged := (s.pending, s.fuses, s.host.staged)
@[simp] theorem held_mk (arr flow beats doms net brd mem ports host rt img fringe rst vigil dbg cap fuses regs pending outbox free) :
    (State.mk arr flow beats doms net brd mem ports host rt img fringe rst vigil dbg cap fuses regs pending outbox free).held =
      (pending, fuses, host.staged) := Eq.trans rfl rfl
@[simp] theorem held_eta (s : State) : (s.pending, s.fuses, s.host.staged) = s.held := Eq.trans rfl rfl
@[simp] theorem held_ite (c : Prop) [Decidable c] (a b : State) : (if c then a else b).held = if c then a.held else b.held := by
  split <;> rfl
@[simp] theorem ite_fst_held {β : Type} (c : Prop) [Decidable c] (a b : State × β) :
    (if c then a else b).1.held = if c then a.1.held else b.1.held := by split <;> rfl
theorem held_getD {s : State} {o : Option State} (h : ∀ t, o = some t → t.held = s.held) : (o.getD s).held = s.held := by
  cases o with
  | none => rfl
  | some t => exact h t rfl
@[simp] theorem held_foldl {α : Type} (g : State → α → State) (h : ∀ s x, (g s x).held = s.held) (l : List α) (s : State) :
    (l.foldl g s).held = s.held := by
  induction l generalizing s with
  | nil => rfl
  | cons x xs ih => simp [List.foldl_cons, ih, h]
@[simp] theorem held_foldl_fst {α β : Type} (g : State × β → α → State × β) (h : ∀ r x, (g r x).1.held = r.1.held) (l : List α)
    (r : State × β) : (l.foldl g r).1.held = r.1.held := by
  induction l generalizing r with
  | nil => rfl
  | cons x xs ih => simp [List.foldl_cons, ih, h]
@[simp] theorem held_elim {α : Type} (o : Option α) (a : State) (f : α → State) (h : ∀ e, (f e).held = a.held) :
    (o.elim a f).held = a.held := by
  cases o with
  | none => rfl
  | some e => exact h e

/-! ### Ops -/

@[simp] theorem setCell_held (s : State) (k : Nat) (v : CellSt) : (setCell s k v).held = s.held := by
  simp [setCell]
@[simp] theorem setHar_held (s : State) (d : Die) (h : Nat) (v : HarSt) : (setHar s d h v).held = s.held := by
  simp [setHar]
@[simp] theorem modHar_held (s : State) (d : Die) (h : Nat) (f : HarSt → HarSt) : (modHar s d h f).held = s.held := by
  simp [modHar]
@[simp] theorem setReedIn_held (s : State) (k : Nat) (w : Option Wire) : (setReedIn s k w).held = s.held := by
  simp [setReedIn]
@[simp] theorem setGate_held (s : State) (k : Nat) (v : GateSt) : (setGate s k v).held = s.held := by
  simp [setGate]
@[simp] theorem setScratch_held (s : State) (ck a : Nat) (w : Word) : (setScratch s ck a w).held = s.held := by
  simp [setScratch]
@[simp] theorem setShared_held (s : State) (ck g : Nat) (w : Word) : (setShared s ck g w).held = s.held := by
  simp [setShared]
@[simp] theorem setCellDraft_held (s : State) (ck : Nat) (bank : Bool) (slot : Nat) (w : BitVec 192) : (setCellDraft s ck bank slot w).held = s.held := by
  simp [setCellDraft]
@[simp] theorem setReedDraft_held (s : State) (d : Die) (h i : Nat) (bank : Bool) (slot : Nat) (w : BitVec 96) : (setReedDraft s d h i bank slot w).held = s.held := by
  simp [setReedDraft]
@[simp] theorem setTable_held (s : State) (d : Die) (h : Nat) (bank : Bool) (e : Nat) (w : Word) : (setTable s d h bank e w).held = s.held := by
  simp [setTable]
@[simp] theorem setYarn_held (s : State) (d : Die) (y : Nat) (v : Yarn) : (setYarn s d y v).held = s.held := by
  simp [setYarn]
@[simp] theorem modYarn_held (s : State) (d : Die) (y : Nat) (f : Yarn → Yarn) : (modYarn s d y f).held = s.held := by
  simp [modYarn]
@[simp] theorem setBob_held (s : State) (b : Nat) (v : Bob) : (setBob s b v).held = s.held := by
  simp [setBob]
@[simp] theorem modBob_held (s : State) (b : Nat) (f : Bob → Bob) : (modBob s b f).held = s.held := by
  simp [modBob]
@[simp] theorem setBeat_held (s : State) (d : Die) (v : BeatSt) : (setBeat s d v).held = s.held := by
  simp [setBeat]
@[simp] theorem modBeat_held (s : State) (d : Die) (f : BeatSt → BeatSt) : (modBeat s d f).held = s.held := by
  simp [modBeat]
@[simp] theorem setDom_held (s : State) (d : Die) (i : Nat) (v : DomSt) : (setDom s d i v).held = s.held := by
  simp [setDom]
@[simp] theorem setBrd_held (s : State) (d : Die) (v : BrdSt) : (setBrd s d v).held = s.held := by
  simp [setBrd]
@[simp] theorem setHbm_held (s : State) (d : Die) (v : HbmSt) : (setHbm s d v).held = s.held := by
  simp [setHbm]
@[simp] theorem setMarch_held (s : State) (d : Die) (v : MarchSt) : (setMarch s d v).held = s.held := by
  simp [setMarch]
@[simp] theorem setPort_held (s : State) (p : Nat) (v : PortSt) : (setPort s p v).held = s.held := by
  simp [setPort]
@[simp] theorem setRing_held (s : State) (k : Nat) (v : RingSt) : (setRing s k v).held = s.held := by
  simp [setRing]
@[simp] theorem setQp_held (s : State) (q : Nat) (v : QpSt) : (setQp s q v).held = s.held := by
  simp [setQp]
@[simp] theorem setRegion_held (s : State) (j : Nat) (v : HostReg) : (setRegion s j v).held = s.held := by
  simp [setRegion]
@[simp] theorem setRt_held (s : State) (d : Die) (v : RtSt) : (setRt s d v).held = s.held := by
  simp [setRt]
@[simp] theorem setImg_held (s : State) (d : Die) (v : ImgSt) : (setImg s d v).held = s.held := by
  simp [setImg]
@[simp] theorem modImg_held (s : State) (d : Die) (f : ImgSt → ImgSt) : (modImg s d f).held = s.held := by
  simp [modImg]
@[simp] theorem setOpts_held (s : State) (d : Die) (v : Opts) : (setOpts s d v).held = s.held := by
  simp [setOpts]
@[simp] theorem setSer_held (s : State) (d : Die) (c : Nat) (v : SerSt) : (setSer s d c v).held = s.held := by
  simp [setSer]
@[simp] theorem setFGate_held (s : State) (d : Die) (g : Nat) (v : FGate) : (setFGate s d g v).held = s.held := by
  simp [setFGate]
@[simp] theorem setStage_held (s : State) (d : Die) (v : Nat) : (setStage s d v).held = s.held := by
  simp [setStage]
@[simp] theorem setReg_held (s : State) (r : Reg) (d : Die) (i : Nat) (v : Word) : (setReg s r d i v).held = s.held := by
  simp [setReg]
@[simp] theorem setF_held (s : State) (f : Fld) (d : Die) (i : Nat) (v : Nat) : (setF s f d i v).held = s.held := by
  simp [setF]
@[simp] theorem addF_held (s : State) (f : Fld) (d : Die) (i n : Nat) : (addF s f d i n).held = s.held := by
  simp [addF]
@[simp] theorem countF_held (s : State) (f : Fld) (d : Die) (i : Nat) : (countF s f d i).held = s.held := by
  simp [countF]
@[simp] theorem wrapF_held (s : State) (f : Fld) (d : Die) (i : Nat) : (wrapF s f d i).held = s.held := by
  simp [wrapF]
@[simp] theorem emit_held (s : State) (o : Output) : (emit s o).held = s.held := by
  simp [emit]
@[simp] theorem svSend_held (s : State) (status : Byte) (data : List Byte) : (svSend s status data).held = s.held := by
  simp [svSend]
@[simp] theorem freeValue_held (s : State) : (freeValue s).2.held = s.held := by simp [freeValue]
@[simp] theorem sendMsi_held (s : State) (v : Nat) : (sendMsi s v).held = s.held := by
  simp [sendMsi]
@[simp] theorem eventToQp_held (s : State) (code : Nat) (d : Die) (src data : Word) (q : Nat) :
    (eventToQp s code d src data q).1.held = s.held := by
  unfold eventToQp; dsimp only; (repeat' split) <;> simp
@[simp] theorem eventToQps_held (code : Nat) (d : Die) (src data : Word) (l : List Nat) (r : State × Bool × Bool) :
    (eventToQps code d src data l r).1.held = r.1.held := by
  induction l generalizing r with
  | nil => simp [eventToQps]
  | cons q qs ih => simp only [eventToQps]; split <;> simp [ih]
@[simp] theorem raiseEvent_held (s : State) (code : Nat) (d : Die) (src data : Word) :
    (raiseEvent s code d src data).held = s.held := by
  unfold raiseEvent; dsimp only; (repeat' split) <;> simp
@[simp] theorem endQp_held (s : State) (q : Nat) : (endQp s q).held = s.held := by
  simp [endQp]
@[simp] theorem drainQp_held (s : State) (q : Nat) : (drainQp s q).held = s.held := by
  simp [drainQp]
@[simp] theorem postCompletion_held (s : State) (q : Qp) (c : Completion) (mute : Bool) : (postCompletion s q c mute).held = s.held := by
  simp [postCompletion]
@[simp] theorem finish_held (s : State) (c : HostCmd) (status r0 : Nat) : (finish s c status r0).held = s.held := by
  simp [finish]
@[simp] theorem recordLast_held (s : State) (c : HostCmd) : (recordLast s c).held = s.held := by
  simp [recordLast]
@[simp] theorem failStaged_held (s : State) (c : HostCmd) (status r0 : Nat) : (failStaged s c status r0).held = s.held := by
  simp [failStaged]
@[simp] theorem stagedOk_held (s : State) (c : HostCmd) (r0 : Nat) (op : WaitOp) : (stagedOk s c r0 op).held = s.held := by
  simp [stagedOk]
@[simp] theorem waitFor_held (s : State) (c : HostCmd) (op : WaitOp) : (waitFor s c op).held = s.held := by
  simp [waitFor]
@[simp] theorem settleWaits_held (s : State) : (settleWaits s).held = s.held := by
  simp [settleWaits]
@[simp] theorem endWait_held (s : State) (op : WaitOp) (status : Nat) (r0 r1 : Nat) : (endWait s op status r0 r1).held = s.held := by
  simp [endWait]

/-! ### YarnOps -/

@[simp] theorem modFlight_held (s : State) (id : Nat) (f : Flight → Flight) : (modFlight s id f).held = s.held := by
  simp [modFlight]
@[simp] theorem writeBank_held (s : State) (d : Die) (h o : Nat) (bs : List Byte) : (writeBank s d h o bs).held = s.held := by
  simp [writeBank]
@[simp] theorem writeFrame_held (s : State) (d : Die) (g : Stage) (bs : List Byte) : (writeFrame s d g bs).held = s.held := by
  simp [writeFrame]
@[simp] theorem clearPoison_held (s : State) (d : Die) (off n : Nat) : (clearPoison s d off n).held = s.held := by
  simp [clearPoison]
@[simp] theorem writeHbm_held (s : State) (d : Die) (off : Nat) (bs : List Byte) : (writeHbm s d off bs).held = s.held := by
  simp [writeHbm]
@[simp] theorem copyFrame_held (s : State) (d : Die) (y : Yarn) (num i : Nat) : (copyFrame s d y num i).held = s.held := by
  simp only [copyFrame]; (repeat' split) <;> simp
@[simp] theorem copyStage_held (s : State) (d : Die) (n ord i : Nat) : (copyStage s d n ord i).held = s.held := by
  simp [copyStage]
@[simp] theorem copyOnWrite_held (s : State) (d : Die) (n i : Nat) (seq : Word) : (copyOnWrite s d n i seq).held = s.held := by
  simp [copyOnWrite]
@[simp] theorem freeYarn_held (s : State) (d : Die) (n : Nat) : (freeYarn s d n).held = s.held := by
  simp [freeYarn]
@[simp] theorem stopQuiet_held (s : State) (d : Die) (n : Nat) : (stopQuiet s d n).held = s.held := by
  simp [stopQuiet]
@[simp] theorem stopYarn_held (s : State) (d : Die) (n cause : Nat) : (stopYarn s d n cause).held = s.held := by
  simp [stopYarn]
@[simp] theorem deleteYarn_held (s : State) (d : Die) (n : Nat) : (deleteYarn s d n).held = s.held := by
  simp [deleteYarn]
@[simp] theorem settleYarn_held (s : State) (d : Die) (n : Nat) : (settleYarn s d n).held = s.held := by
  simp [settleYarn]
@[simp] theorem addFault_held (s : State) (d : Die) (f : FaultRec) : (addFault s d f).held = s.held := by
  simp [addFault]
@[simp] theorem rplLast_held (s : State) (d : Die) (result cls id : Nat) : (rplLast s d result cls id).held = s.held := by
  simp [rplLast]
@[simp] theorem endReplays_held (s : State) (d : Die) : (endReplays s d).held = s.held := by
  simp [endReplays]
@[simp] theorem harnessFault_held (s : State) (d : Die) (h where_ : Nat) : (harnessFault s d h where_).held = s.held := by
  simp [harnessFault]
@[simp] theorem loseHarness_held (s : State) (d : Die) (h : Nat) : (loseHarness s d h).held = s.held := by
  simp [loseHarness]
@[simp] theorem cellFault_held (s : State) (d : Die) (h r c slot kind : Nat) : (cellFault s d h r c slot kind).held = s.held := by
  simp [cellFault]
@[simp] theorem reedFault_held (s : State) (d : Die) (h r c slot : Nat) : (reedFault s d h r c slot).held = s.held := by
  simp [reedFault]

/-! ### RingFrames -/

@[simp] theorem cutFrame_held (s : State) (p : Nat) : (cutFrame s p).held = s.held := by
  simp only [cutFrame]; (repeat' split) <;> simp
@[simp] theorem dropLink_held (s : State) (p : Nat) : (dropLink s p).held = s.held := by
  simp [dropLink]
@[simp] theorem ringLine_held (s : State) (k : Nat) (odd : Bool) (blocks : List PlBlock) : (ringLine s k odd blocks).held = s.held := by
  simp [ringLine]
@[simp] theorem cutShort_held (s : State) (k : Nat) (x : Bool × Nat × List PlBlock) : (cutShort s k x).held = s.held := by
  simp [cutShort]
@[simp] theorem stompRing_held (s : State) (k : Nat) : (stompRing s k).held = s.held := by
  simp [stompRing]
@[simp] theorem stompRings_held (s : State) (d : Die) : (stompRings s d).held = s.held := by
  simp [stompRings]
@[simp] theorem muteRing_held (s : State) (k : Nat) : (muteRing s k).held = s.held := by
  simp [muteRing]
@[simp] theorem ringOff_held (s : State) (k : Nat) : (ringOff s k).held = s.held := by
  simp [ringOff]

/-! ### Breakpoints -/

@[simp] theorem haltHarness_held (s : State) (d : Die) (h : Nat) : (haltHarness s d h).held = s.held := by
  simp [haltHarness]
@[simp] theorem haltAll_held (s : State) (d : Die) : (haltAll s d).held = s.held := by
  simp [haltAll]
@[simp] theorem haltSoon_held (s : State) (d : Die) (h : Nat) : (haltSoon s d h).held = s.held := by
  simp [haltSoon]
@[simp] theorem haltSoonAll_held (s : State) (d : Die) (h : Nat) : (haltSoonAll s d h).held = s.held := by
  simp [haltSoonAll]
@[simp] theorem beginCycle_held (s : State) (d : Die) (h i : Nat) : (beginCycle s d h i).held = s.held := by
  simp [beginCycle]
@[simp] theorem bpFire_held (s : State) (d : Die) (h i : Nat) (p : Probe) : (bpFire s d h i p).held = s.held := by
  simp only [bpFire]; (repeat' split) <;> simp
@[simp] theorem bpMark_held (s : State) (d : Die) (h : Nat) (ks : List Nat) : (bpMark s d h ks).held = s.held := by
  simp [bpMark]
@[simp] theorem bpOne_held (s : State) (d : Die) (h k : Nat) (p : Probe) (prev : Nat × Bool) :
    (bpOne s d h k p prev).1.held = s.held := by
  simp [bpOne]
@[simp] theorem bpFrom_held (d : Die) (h : Nat) (p : Probe) (l : List Nat) (r : State × Nat × Bool) :
    (bpFrom d h p l r).held = r.1.held := by
  induction l generalizing r with
  | nil => simp [bpFrom]
  | cons k ks ih => simp [bpFrom, ih]
@[simp] theorem bpProbe_held (s : State) (d : Die) (h : Nat) (p : Probe) : (bpProbe s d h p).held = s.held := by
  simp [bpProbe]

/-! ### Master -/

@[simp] theorem masterWrite_held (s : State) (d : Die) (h : Nat) (bank : Bool) (o : Nat) (bs : List Byte) : (masterWrite s d h bank o bs).held = s.held := by
  simp [masterWrite]
@[simp] theorem loadCell_held (s : State) (d : Die) (h i ck : Nat) : (loadCell s d h i ck).held = s.held := by
  simp [loadCell]
@[simp] theorem loadConstants_held (s : State) (d : Die) (h i ck : Nat) : (loadConstants s d h i ck).held = s.held := by
  simp [loadConstants]
@[simp] theorem loadHarConstants_held (s : State) (d : Die) (h : Nat) : (loadHarConstants s d h).held = s.held := by
  simp [loadHarConstants]
@[simp] theorem loadHarDrafts_held (s : State) (d : Die) (h : Nat) : (loadHarDrafts s d h).held = s.held := by
  simp [loadHarDrafts]

/-! ### Cells -/

@[simp] theorem clearShared_held (s : State) (ck k : Nat) (c : CellDraft) : (clearShared s ck k c).held = s.held := by
  simp [clearShared]
@[simp] theorem retireCheck_held (s : State) (d : Die) (h ck k fl : Nat) : (retireCheck s d h ck k fl).held = s.held := by
  simp only [retireCheck]; (repeat' split) <;> simp
@[simp] theorem passItem_held (s : State) (d : Die) (h ck k : Nat) (fl : Option Nat) (ovf : Bool) : (passItem s d h ck k fl ovf).held = s.held := by
  simp only [passItem]; (repeat' split) <;> simp
@[simp] theorem landPassed_held (d : Die) (h ck : Nat) (data : Bool) (s : State) (p : Pend) : (landPassed d h ck data s p).held = s.held := by
  simp only [landPassed]; (repeat' split) <;> simp
@[simp] theorem landShared_held (ck k : Nat) (dead : Bool) (s : State) (u : Upd) :
    (landShared ck k dead s u).held = s.held := by
  cases u <;> simp [landShared]
@[simp] theorem landCtx_held (ck : Nat) (s : State) (p : Pend) : (landCtx ck s p).held = s.held := by
  simp [landCtx]
@[simp] theorem landOne_held (d : Die) (h ck : Nat) (s : State) (p : Pend) : (landOne d h ck s p).held = s.held := by
  unfold landOne
  cases p.upd <;> simp
@[simp] theorem landAll_held (s : State) (d : Die) (h ck : Nat) : (landAll s d h ck).held = s.held := by
  simp [landAll]
@[simp] theorem settleLoads_held (s : State) (d : Die) (n : Nat) (f : Flight) (k : Nat) (cells : List Nat) : (settleLoads s d n f k cells).held = s.held := by
  simp [settleLoads]
@[simp] theorem writeBack_held (s : State) (d : Die) (h : Nat) (b : WriteBack) : (writeBack s d h b).held = s.held := by
  simp only [writeBack]; (repeat' split) <;> simp
@[simp] theorem tickWriteBacks_held (s : State) (d : Die) (h ck : Nat) : (tickWriteBacks s d h ck).held = s.held := by
  simp [tickWriteBacks]
@[simp] theorem upsetFaults_held (s : State) (d : Die) (h r c i k : Nat) (u : Option CellUpset) :
    (upsetFaults s d h r c i k u).held = s.held := by
  unfold upsetFaults; split <;> simp
@[simp] theorem takeExp_held (s : State) (dr : CellDraft) (first : Bool) (o : Option Wire) :
    (takeExp s dr first o).1.held = s.held := by
  cases o <;> simp [takeExp]
@[simp] theorem ibCheck_held (s : State) (d : Die) (h r c : Nat) (idx : BitVec 4) : (ibCheck s d h r c idx).held = s.held := by
  simp [ibCheck]
@[simp] theorem consumeData_held (s : State) (d : Die) (h r col : Nat) (src : IaFrom) (w : Wire) (dr : CellDraft)
    (st : SlotSt × List Pend) (act0 : SlotCtx) : (consumeData s d h r col src w dr st act0).1.held = s.held := by
  unfold consumeData; dsimp only; split <;> simp
@[simp] theorem consumeMark_held (s : State) (d : Die) (h r col : Nat) (src : IaFrom) (w : Wire) (dr : CellDraft) : (consumeMark s d h r col src w dr).1.held = s.held := by
  simp [consumeMark]
@[simp] theorem consume_held (s : State) (d : Die) (h r col : Nat) (src : IaFrom) (w : Wire) : (consume s d h r col src w).1.held = s.held := by
  simp [consume]
@[simp] theorem cellCycleStep_held (s : State) (d : Die) (h r c : Nat) (u : Option CellUpset) : (cellCycleStep s d h r c u).held = s.held := by
  simp [cellCycleStep]
@[simp] theorem cellGoesOn_held (s : State) (d : Die) (h r c : Nat) (u : Option CellUpset) : (cellGoesOn s d h r c u).held = s.held := by
  simp [cellGoesOn]

/-! ### Reeds -/

@[simp] theorem takeCellOut_held (s : State) (d : Die) (h r c : Nat) : (takeCellOut s d h r c).held = s.held := by
  simp [takeCellOut]
@[simp] theorem takeInput_held (s : State) (d : Die) (h i code : Nat) : (takeInput s d h i code).held = s.held := by
  simp [takeInput]
@[simp] theorem putOut_held (s : State) (d : Die) (h i : Nat) (w : Wire) (o : ReedOut) : (putOut s d h i w o).held = s.held := by
  simp only [putOut]; (repeat' split) <;> simp
@[simp] theorem deadEnd_held (s : State) (d : Die) (h : Nat) : (deadEnd s d h).held = s.held := by
  simp [deadEnd]
@[simp] theorem reedWord_held (s0 : State) (d : Die) (h i : Nat) (cs : List Claim) (s : State) (c : Claim) :
    (reedWord s0 d h i cs s c).held = s.held := by
  unfold reedWord
  split
  · exact (held_foldl _ (fun t o => by simp) _ _).trans (by simp)
  · split
    · simp
    · split
      · exact (held_foldl _ (fun t o => by simp) _ _).trans (by simp)
      · rfl
@[simp] theorem reedParity_held (s : State) (d : Die) (h i : Nat) (cs : List Claim) : (reedParity s d h i cs).held = s.held := by
  simp only [reedParity]; (repeat' split) <;> simp
@[simp] theorem recordLine_held (s : State) (d : Die) (h seg : Nat) (idx : BitVec 4) (failed : Bool) : (recordLine s d h seg idx failed).held = s.held := by
  simp [recordLine]
@[simp] theorem contend_held (s : State) (d : Die) (vertical : Bool) (h far k : Nat) (idx : BitVec 4) : (contend s d vertical h far k idx).held = s.held := by
  simp [contend]
@[simp] theorem carry_held (s : State) (d : Die) (vertical : Bool) (h far k : Nat) (toFar : Bool) : (carry s d vertical h far k toFar).held = s.held := by
  simp only [carry]; (repeat' split) <;> simp
@[simp] theorem gateStep_held (s : State) (d : Die) (vertical : Bool) (h far k : Nat) (both : Option (BitVec 4)) : (gateStep s d vertical h far k both).held = s.held := by
  simp only [gateStep]; (repeat' split) <;> simp

/-! ### HbmErrors -/

@[simp] theorem retireEvent_held (s : State) (d : Die) (page : Nat) : (retireEvent s d page).held = s.held := by
  simp [retireEvent]
@[simp] theorem showRetired_held (s : State) (d : Die) : (showRetired s d).held = s.held := by
  simp only [showRetired]; (repeat' split) <;> simp
@[simp] theorem retirePc_held (s : State) (d : Die) (pc page : Nat) : (retirePc s d pc page).held = s.held := by
  simp [retirePc]
@[simp] theorem withdrawGranule_held (s : State) (d : Die) (page : Nat) : (withdrawGranule s d page).held = s.held := by
  simp [withdrawGranule]
@[simp] theorem retirePage_held (s : State) (d : Die) (off : Nat) : (retirePage s d off).held = s.held := by
  simp [retirePage]
@[simp] theorem demandUe_held (s : State) (d : Die) (off : Nat) : (demandUe s d off).held = s.held := by
  simp [demandUe]
@[simp] theorem correctedAt_held (s : State) (d : Die) (off : Nat) : (correctedAt s d off).held = s.held := by
  simp [correctedAt]
@[simp] theorem stackCheck_held (s : State) (d : Die) (off n : Nat) (ecc : ReadOutcome) (pos : Nat) : (stackCheck s d off n ecc pos).1.held = s.held := by
  simp only [stackCheck]; (repeat' split) <;> simp
@[simp] theorem bankCheck_held (s : State) (d : Die) (ecc : ReadOutcome) : (bankCheck s d ecc).1.held = s.held := by
  simp only [bankCheck]; (repeat' split) <;> simp

/-! ### Bobbins -/

@[simp] theorem allocTake_held (s : State) (a : Alloc) : (allocTake s a).held = s.held := by
  simp [allocTake]
@[simp] theorem spillBlock_held (s : State) (n : Nat) : (spillBlock s n).held = s.held := by
  simp [spillBlock]
@[simp] theorem dropResv_held (s : State) (n : Nat) : (dropResv s n).held = s.held := by
  simp [dropResv]
@[simp] theorem bobFault_held (s : State) (n cause : Nat) (record : Bool) : (bobFault s n cause record).held = s.held := by
  simp [bobFault]
@[simp] theorem pointerCheck_held (s : State) (n : Nat) (flip : Word) : (pointerCheck s n flip).1.held = s.held := by
  simp [pointerCheck]
@[simp] theorem bobCheck_held (s : State) (n : Nat) (u : BobUpset) : (bobCheck s n u).1.held = s.held := by
  simp only [bobCheck]; (repeat' split) <;> simp
@[simp] theorem trimAlloc_held (s : State) (stack : Die) (kind : RegionKind) (len : Nat) : (trimAlloc s stack kind len).held = s.held := by
  simp [trimAlloc]
@[simp] theorem refillBlock_held (s : State) (n : Nat) (out : ReadOutcome) : (refillBlock s n out).held = s.held := by
  simp [refillBlock]
@[simp] theorem refillSome_held (k : Nat) (s : State) (n : Nat) : (refillSome k s n).held = s.held := by
  induction k generalizing s with
  | zero => simp [refillSome]
  | succ k ih => simp only [refillSome]; split <;> simp [ih]
@[simp] theorem takeWord_held (s : State) (n : Nat) : (takeWord s n).1.held = s.held := by
  simp only [takeWord]; (repeat' split) <;> simp
@[simp] theorem takeItem_held (s : State) (n : Nat) : (takeItem s n).1.held = s.held := by
  simp only [takeItem]; (repeat' split) <;> simp
@[simp] theorem markDropped_held (s : State) (d : Die) (e : JEntry) : (markDropped s d e).held = s.held := by
  simp [markDropped]
@[simp] theorem dropEntries_held (s : State) (d : Die) (p : JEntry → Bool) : (dropEntries s d p).held = s.held := by
  simp [dropEntries]
@[simp] theorem dropEntry_held (s : State) (n : Nat) (start : Word) : (dropEntry s n start).held = s.held := by
  simp [dropEntry]
@[simp] theorem dropClosed_held (s : State) (n : Nat) (i : ItemRec) : (dropClosed s n i).held = s.held := by
  simp [dropClosed]
@[simp] theorem dropBoth_held (s : State) (n : Nat) (i : ItemRec) : (dropBoth s n i).held = s.held := by
  simp only [dropBoth]; (repeat' split) <;> simp
@[simp] theorem flushBob_held (s : State) (n : Nat) : (flushBob s n).held = s.held := by
  simp [flushBob]
@[simp] theorem setJrnRing_held (s : State) (d : Die) (p : RingPos) : (setJrnRing s d p).held = s.held := by
  simp [setJrnRing]
@[simp] theorem jrnBlocks_held (s : State) (d : Die) (l : List (List Byte)) : (jrnBlocks s d l).held = s.held := by
  induction l generalizing s with
  | nil => simp [jrnBlocks]
  | cons b bs ih => simp [jrnBlocks, ih]
@[simp] theorem journalRefused_held (s : State) (d : Die) : (journalRefused s d).held = s.held := by
  simp [journalRefused]
theorem writeEntry_held {s t : State} {d : Die} {n : Nat} {b : Bob} {start : Word} {ws : List TWord} {rejrn mirror : Bool}
    (h : writeEntry s d n b start ws rejrn mirror = some t) : t.held = s.held := by
  unfold writeEntry at h; dsimp only at h; split at h
  · cases h
  · cases h; simp
theorem journalItem_held {s t : State} {n : Nat} {b : Bob} {start : Word} {ws : List TWord} {rejrn : Bool}
    (h : journalItem s n b start ws rejrn = some t) : t.held = s.held := by
  unfold journalItem at h
  split at h
  · cases h
  · rename_i u hu
    have e := writeEntry_held hu
    split at h
    · cases h
      rw [← e]
      exact held_getD (fun x hx => writeEntry_held hx)
    · cases h; exact e
@[simp] theorem setWstat_held (s : State) (n code : Nat) : (setWstat s n code).held = s.held := by
  simp [setWstat]
@[simp] theorem storeWord_held (s : State) (n : Nat) (w : TWord) : (storeWord s n w).held = s.held := by
  simp [storeWord]
@[simp] theorem dropNew_held (s : State) (n : Nat) (w : TWord) : (dropNew s n w).held = s.held := by
  simp [dropNew]
@[simp] theorem dropOldUntil_held (k : Nat) (s : State) (n : Nat) : (dropOldUntil k s n).held = s.held := by
  induction k generalizing s with
  | zero => simp [dropOldUntil]
  | succ k ih => simp only [dropOldUntil]; (repeat' split) <;> simp [ih]
@[simp] theorem appendItem_held (s : State) (n : Nat) (ws : List TWord) (jrn : Bool) : (appendItem s n ws jrn).held = s.held := by
  simp [appendItem]
@[simp] theorem mirrorAt_held (s : State) (d : Die) (n : Nat) (wp : Word) : (mirrorAt s d n wp).held = s.held := by
  simp [mirrorAt]
@[simp] theorem twinItem_held (s : State) (n : Nat) (ws : List TWord) : (twinItem s n ws).held = s.held := by
  simp [twinItem]
@[simp] theorem closeItem_held (s : State) (n : Nat) (entry : Bool) (w : TWord) : (closeItem s n entry w).held = s.held := by
  unfold closeItem
  dsimp only
  split
  · rfl
  · split
    · simp
    · split
      · split
        · rename_i hj
          simp [journalItem_held hj]
        · simp
      · simp
@[simp] theorem joinItem_held (s : State) (n : Nat) (w : TWord) (entry : Bool) : (joinItem s n w entry).held = s.held := by
  simp [joinItem]
@[simp] theorem writeWord_held (s : State) (n : Nat) (w : TWord) (entry : Bool) : (writeWord s n w entry).held = s.held := by
  simp [writeWord]
@[simp] theorem writeItem_held (s : State) (n : Nat) (ws : List TWord) : (writeItem s n ws).held = s.held := by
  simp [writeItem]
@[simp] theorem writeMark_held (s : State) (n : Nat) (num : BitVec 48) (ord : Nat) : (writeMark s n num ord).held = s.held := by
  simp only [writeMark]; (repeat' split) <;> simp
@[simp] theorem resizeBob_held (s : State) (n q : Nat) : (resizeBob s n q).1.held = s.held := by
  simp [resizeBob]

/-! ### Cuts -/

@[simp] theorem writePinned_held (s : State) (d : Die) (n i : Nat) : (writePinned s d n i).held = s.held := by
  simp only [writePinned]; (repeat' split) <;> simp
@[simp] theorem releaseResv_held (s : State) (id j : Nat) : (releaseResv s id j).held = s.held := by
  simp only [releaseResv]; (repeat' split) <;> simp
@[simp] theorem releaseAll_held (s : State) (id : Nat) : (releaseAll s id).held = s.held := by
  simp [releaseAll]
@[simp] theorem outMark_held (s : State) (d : Die) (n : Nat) (ord j : Nat) : (outMark s d n ord j).held = s.held := by
  simp only [outMark]; (repeat' split) <;> simp
@[simp] theorem outMarks_held (s : State) (d : Die) (n : Nat) : (outMarks s d n).held = s.held := by
  simp [outMarks]
@[simp] theorem takeCut_held (s : State) (d : Die) (n ord : Nat) : (takeCut s d n ord).held = s.held := by
  simp [takeCut]
@[simp] theorem takeCuts_held (s : State) (d : Die) (n upTo : Nat) : (takeCuts s d n upTo).held = s.held := by
  simp [takeCuts]
@[simp] theorem updateAtCut_held (s : State) (d : Die) (n : Nat) : (updateAtCut s d n).held = s.held := by
  simp only [updateAtCut]; (repeat' split) <;> simp
@[simp] theorem noteMark_held (s : State) (d : Die) (n i ord : Nat) : (noteMark s d n i ord).held = s.held := by
  simp [noteMark]
@[simp] theorem markTake_held (s : State) (d : Die) (n i : Nat) : (markTake s d n i).held = s.held := by
  simp only [markTake]; (repeat' split) <;> simp
@[simp] theorem writeCkpt_held (s : State) (d : Die) (n : Nat) (c : CutRec) : (writeCkpt s d n c).held = s.held := by
  simp [writeCkpt]
@[simp] theorem rejournalItem_held (s : State) (n : Nat) (i : ItemRec) : (rejournalItem s n i).held = s.held := by
  unfold rejournalItem
  dsimp only
  split
  · rename_i t hj
    have ht : t.held = s.held := by
      split at hj
      · exact writeEntry_held hj
      · exact journalItem_held hj
    split
    · rw [mirrorAt_held, ht]
    · exact ht
  · simp
@[simp] theorem rejournal_held (s : State) (n : Nat) : (rejournal s n).held = s.held := by
  simp [rejournal]
@[simp] theorem enterRun_held (s : State) (d : Die) (n : Nat) : (enterRun s d n).held = s.held := by
  simp [enterRun]

/-! ### Gateway -/

@[simp] theorem retireStateless_held (s : State) (id : Nat) : (retireStateless s id).held = s.held := by
  unfold retireStateless; (repeat' (first | (simp; done) | split | (dsimp only; split) | (intro _) | (apply held_foldl; intro _ _)))
@[simp] theorem finishFlight_held (s : State) (id : Nat) : (finishFlight s id).held = s.held := by
  simp only [finishFlight]; (repeat' split) <;> simp
@[simp] theorem loadStage_held (s : State) (d : Die) (n id i : Nat) (g : Stage) : (loadStage s d n id i g).held = s.held := by
  simp [loadStage]
@[simp] theorem admitItem_held (s : State) (d : Die) (n : Nat) (inBob : Option Nat) (left : Nat) :
    (admitItem s d n inBob left).held = s.held := by
  unfold admitItem
  dsimp only
  split <;> simp only [endReplays_held, setYarn_held] <;>
    exact (held_foldl _ (fun t o => by cases o <;> simp) _ _).trans (by simp)
@[simp] theorem pushGw_held (s : State) (d : Die) (h : Nat) (g : GwItem) : (pushGw s d h g).held = s.held := by
  simp [pushGw]
@[simp] theorem deliverWord_held (s : State) (n : Nat) : (deliverWord s n).held = s.held := by
  simp only [deliverWord]; (repeat' split) <;> simp
@[simp] theorem admitYarn_held (s : State) (d : Die) (n : Nat) : (admitYarn s d n).held = s.held := by
  simp only [admitYarn]; (repeat' split) <;> simp
@[simp] theorem admitUpset_held (s : State) (d : Die) (n : Nat) (u : AdmitUpset) : (admitUpset s d n u).held = s.held := by
  simp only [admitUpset]; (repeat' split) <;> simp
@[simp] theorem feedGw_held (s : State) (d : Die) (h : Nat) (f : Flight) (stage : Nat) (idx : BitVec 4) (w : Wire) : (feedGw s d h f stage idx w).held = s.held := by
  simp [feedGw]
@[simp] theorem pullOnward_held (s : State) (d : Die) (h : Nat) (p : BitVec 4 → Bool) : (pullOnward s d h p).held = s.held := by
  unfold pullOnward; (repeat' (first | (simp; done) | split | (dsimp only; split) | (intro _) | (apply held_foldl; intro _ _)))
@[simp] theorem laneEnter_held (s : State) (d : Die) (h lane : Nat) : (laneEnter s d h lane).held = s.held := by
  simp only [laneEnter]; (repeat' split) <;> simp
@[simp] theorem laneCycle_held (s : State) (d : Die) (h lane : Nat) : (laneCycle s d h lane).held = s.held := by
  simp only [laneCycle]; (repeat' split) <;> simp
@[simp] theorem offerTo_held (urgent : Bool) (w : Wire) (s : State) (c : Nat × Bool) : (offerTo urgent w s c).held = s.held := by
  simp only [offerTo]; (repeat' split) <;> simp
@[simp] theorem urgentCycle_held (s : State) (d : Die) (h : Nat) : (urgentCycle s d h).held = s.held := by
  simp only [urgentCycle]; (repeat' split) <;> simp
@[simp] theorem offerEntry_held (s : State) (d : Die) (h : Nat) (late : Bool) (w : Wire) : (offerEntry s d h late w).held = s.held := by
  simp [offerEntry]
@[simp] theorem tableItem_held (s : State) (d : Die) (n : Nat) : (tableItem s d n).1.held = s.held := by
  simp [tableItem]
@[simp] theorem tableEntry_held (s : State) (d : Die) (h : Nat) (late : Bool) : (tableEntry s d h late).held = s.held := by
  simp only [tableEntry]; (repeat' split) <;> simp
@[simp] theorem stopEntry_held (s : State) (d : Die) (h : Nat) : (stopEntry s d h).held = s.held := by
  simp only [stopEntry]; (repeat' split) <;> simp
@[simp] theorem runEntry_held (s : State) (d : Die) (h : Nat) : (runEntry s d h).held = s.held := by
  simp [runEntry]
@[simp] theorem tableItemDone_held (s : State) (d : Die) (h : Nat) : (tableItemDone s d h).held = s.held := by
  simp only [tableItemDone]; (repeat' split) <;> simp
@[simp] theorem treadleStep_held (s : State) (d : Die) (h : Nat) : (treadleStep s d h).held = s.held := by
  simp [treadleStep]
@[simp] theorem countOverflow_held (s : State) (d : Die) (n : Nat) (seq : Word) : (countOverflow s d n seq).held = s.held := by
  simp only [countOverflow]; (repeat' split) <;> simp

/-! ### Egress -/

@[simp] theorem blockEgress_held (s : State) (y : Yarn) (on : Bool) : (blockEgress s y on).held = s.held :=
  held_foldl _ (fun t o => by cases o <;> simp) _ _
@[simp] theorem divergence_held (s : State) (ds : List Die) (n id : Nat) : (divergence s ds n id).held = s.held := by
  simp [divergence]
@[simp] theorem egressMark_held (s : State) (n ord : Nat) (data : Word) : (egressMark s n ord data).held = s.held := by
  simp [egressMark]
@[simp] theorem suppressWord_held (s : State) (n : Nat) (w : TWord) : (suppressWord s n w).held = s.held := by
  simp [suppressWord]
@[simp] theorem sendWord_held (s : State) (n : Nat) (w : TWord) : (sendWord s n w).held = s.held := by
  simp [sendWord]
@[simp] theorem egressTake_held (s : State) (n : Nat) : (egressTake s n).1.held = s.held := by
  simp only [egressTake]; (repeat' split) <;> simp
@[simp] theorem egressWord_held (k : Nat) (s : State) (n : Nat) : (egressWord k s n).1.held = s.held := by
  induction k generalizing s with
  | zero => simp [egressWord]
  | succ k ih =>
    have h := egressTake_held s n
    simp only [egressWord]; split <;> simp_all
@[simp] theorem egressRest_held (k : Nat) (s : State) (n : Nat) (ws : List TWord) : (egressRest k s n ws).1.held = s.held := by
  induction k generalizing s ws with
  | zero => simp [egressRest]
  | succ k ih =>
    have h := egressWord_held (bobWords (getBob s n) + 1) s n
    simp only [egressRest]; split <;> (try split) <;> simp_all
@[simp] theorem egressItem_held (s : State) (n : Nat) : (egressItem s n).1.held = s.held := by
  simp [egressItem]
@[simp] theorem stallDrop_held (k : Nat) (s : State) (n : Nat) : (stallDrop k s n).held = s.held := by
  induction k generalizing s with
  | zero => simp [stallDrop]
  | succ k ih => simp only [stallDrop]; split <;> simp [ih]
@[simp] theorem dropStalled_held (s : State) (n : Nat) : (dropStalled s n).held = s.held := by
  simp [dropStalled]
@[simp] theorem twinWord_held (s : State) (d : Die) (f : Flight) (w : TWord) : (twinWord s d f w).held = s.held := by
  simp [twinWord]
@[simp] theorem closeOut_held (s : State) (d : Die) (f : Flight) (j : Nat) : (closeOut s d f j).held = s.held := by
  simp [closeOut]
@[simp] theorem bindWord_held (s : State) (d : Die) (f : Flight) (w : TWord) (flip : Word) (j : Nat) (o : OutBind) : (bindWord s d f w flip j o).held = s.held := by
  simp [bindWord]
@[simp] theorem laneWord_held (s : State) (b : Nat) (d : Die) (h l : Nat) (flip : Word) : (laneWord s b d h l flip).held = s.held := by
  simp only [laneWord]; (repeat' split) <;> simp
@[simp] theorem eachCopy_held (s : State) (n : Nat) (flip : Word) (f : State → Nat → State)
    (hf : ∀ t k, (f t k).held = t.held) : (eachCopy s n flip f).held = s.held := by
  have one (t : State) (k : Nat) (x : Word) :
      (if (getBob t k).state = .active ∧ domWorks t (getBob t k).die 56 = true then
        (let r := pointerCheck t k x
         if r.2 then f r.1 k else r.1) else t).held = t.held := by
    dsimp only
    split
    · split <;> simp [hf]
    · rfl
  exact (one _ _ _).trans (one _ _ _)
@[simp] theorem yarnRead_held (s : State) (n : Nat) : (yarnRead s n).held = s.held := by
  simp [yarnRead]
@[simp] theorem readOut_held (s : State) (n : Nat) : (readOut s n).held = s.held := by
  simp [readOut]
@[simp] theorem flushBoth_held (s : State) (n : Nat) : (flushBoth s n).held = s.held := by
  simp [flushBoth]
@[simp] theorem bobCtlFlush_held (s : State) (rq : Requester) (d : Die) : (bobCtlFlush s rq d).held = s.held := by
  simp only [bobCtlFlush]; (repeat' split) <;> simp
@[simp] theorem bobQuotaWrite_held (s : State) (rq : Requester) (d : Die) (v : Word) : (bobQuotaWrite s rq d v).held = s.held := by
  simp only [bobQuotaWrite]; (repeat' split) <;> simp
@[simp] theorem bobPop_held (s : State) (rq : Requester) (d : Die) (inspect : Bool) : (bobPop s rq d inspect).1.held = s.held := by
  simp only [bobPop]; (repeat' split) <;> simp
@[simp] theorem bobPush_held (s : State) (rq : Requester) (d : Die) (v : Word) : (bobPush s rq d v).held = s.held := by
  simp only [bobPush]; (repeat' split) <;> simp

/-! ### Loader -/

@[simp] theorem recToMaster_held (d : Die) (h : Nat) (bank : Bool) (s : State) (r : Rec) : (recToMaster d h bank s r).held = s.held := by
  simp only [recToMaster]; (repeat' split) <;> simp
@[simp] theorem recToArray_held (d : Die) (h : Nat) (bank resident : Bool) (s : State) (r : Rec) : (recToArray d h bank resident s r).held = s.held := by
  simp only [recToArray]; (repeat' split) <;> simp
@[simp] theorem forgetServed_held (d : Die) (h : Nat) (s : State) (r : Rec) : (forgetServed d h s r).held = s.held := by
  simp [forgetServed]
@[simp] theorem clearLines_held (s : State) (d : Die) (h : Nat) : (clearLines s d h).held = s.held := by
  unfold clearLines; (repeat' (first | (simp; done) | split | (dsimp only; split) | (intro _) | (apply held_foldl; intro _ _)))
@[simp] theorem loadPackage_held (s : State) (d : Die) (h : Nat) (bs : List Byte) : (loadPackage s d h bs).1.held = s.held := by
  simp only [loadPackage]; (repeat' split) <;> simp

/-! ### Swap -/

@[simp] theorem armSwap_held (s : State) (d : Die) (h : Nat) : (armSwap s d h).1.held = s.held := by
  simp [armSwap]
@[simp] theorem endSwap_held (s : State) (d : Die) (h code : Nat) : (endSwap s d h code).held = s.held := by
  simp [endSwap]
@[simp] theorem cancelSwap_held (s : State) (d : Die) (h : Nat) : (cancelSwap s d h).held = s.held := by
  simp [cancelSwap]
@[simp] theorem startSwaps_held (s : State) (d : Die) : (startSwaps s d).held = s.held := by
  unfold startSwaps; (repeat' (first | (simp; done) | split | (dsimp only; split) | (intro _) | (apply held_foldl; intro _ _)))
@[simp] theorem exchange_held (s : State) (d : Die) (h : Nat) : (exchange s d h).held = s.held := by
  simp [exchange]
@[simp] theorem dropWords_held (s : State) (d : Die) (h : Nat) (gone : Nat → BitVec 4 → Bool) : (dropWords s d h gone).held = s.held := by
  simp [dropWords]
@[simp] theorem dropOpens_held (s : State) (d : Die) (h : Nat) : (dropOpens s d h).held = s.held := by
  unfold dropOpens; (repeat' (first | (simp; done) | split | (dsimp only; split) | (intro _) | (apply held_foldl; intro _ _)))
@[simp] theorem dropReserved_held (s : State) (d : Die) (h : Nat) : (dropReserved s d h).held = s.held := by
  simp [dropReserved]
@[simp] theorem darnStat_held (s : State) (d : Die) (h r c result : Nat) : (darnStat s d h r c result).held = s.held := by
  simp [darnStat]
@[simp] theorem setTaps_held (s : State) (d : Die) (h r c : Nat) : (setTaps s d h r c).held = s.held := by
  simp [setTaps]
@[simp] theorem darnCell_held (s : State) (d : Die) (h r c : Nat) : (darnCell s d h r c).held = s.held := by
  simp [darnCell]
@[simp] theorem darning_held (s : State) (d : Die) (h r c : Nat) (why : DarnWhy) (spareFaulty : Bool) : (darning s d h r c why spareFaulty).held = s.held := by
  simp only [darning]; (repeat' split) <;> simp

/-! ### Replay -/

@[simp] theorem compareTwin_held (s : State) (d : Die) (n : Nat) : (compareTwin s d n).held = s.held := by
  simp only [compareTwin]; (repeat' split) <;> simp
@[simp] theorem relocYarn_held (s : State) (d : Die) (h t n : Nat) : (relocYarn s d h t n).held = s.held := by
  simp only [relocYarn]; (repeat' split) <;> simp
@[simp] theorem relocate_held (s : State) (d : Die) (h : Nat) : (relocate s d h).1.held = s.held := by
  simp only [relocate]; (repeat' split) <;> simp
@[simp] theorem dropFlight_held (s : State) (f : Flight) : (dropFlight s f).held = s.held := by
  unfold dropFlight
  dsimp only
  simp only [held_mk, held_eta]
  split
  · split
    · exact (takeItem_held _ _).trans (releaseAll_held _ _)
    · exact releaseAll_held _ _
  · exact releaseAll_held _ _
@[simp] theorem dropYarns_held (s : State) (cs : List Nat) : (dropYarns s cs).held = s.held := by
  unfold dropYarns
  refine (held_foldl _ (fun t c => held_foldl _ (fun u o => by cases o <;> simp) _ _) _ _).trans ?_
  simp
@[simp] theorem enterReplay_held (s : State) (c : Nat) : (enterReplay s c).held = s.held := by
  simp [enterReplay]
@[simp] theorem unforce_held (s : State) (d : Die) (h : Nat) : (unforce s d h).held = s.held := by
  simp [unforce]
@[simp] theorem replayStart_held (s : State) (d : Die) : (replayStart s d).held = s.held := by
  simp only [replayStart]; (repeat' split) <;> simp
@[simp] theorem ckptErrors_held (s : State) (d : Die) (y : Yarn) (ord : Nat) : (ckptErrors s d y ord).held = s.held := by
  simp [ckptErrors]
@[simp] theorem chooseCkpt_held (s : State) (c : Nat) : (chooseCkpt s c).1.held = s.held := by
  simp only [chooseCkpt]; (repeat' split) <;> simp
@[simp] theorem loadPinned_held (s : State) (d : Die) (g : Stage) : (loadPinned s d g).held = s.held := by
  simp [loadPinned]
@[simp] theorem restoreTable_held (s : State) (d : Die) (y : Yarn) (g : Stage) : (restoreTable s d y g).held = s.held := by
  simp [restoreTable]
@[simp] theorem restoreYarn_held (s : State) (c : Nat) (v : CkptVals) : (restoreYarn s c v).held = s.held := by
  simp only [restoreYarn]; (repeat' split) <;> simp
@[simp] theorem cutBack_held (s : State) (n : Nat) (mwp : Word) : (cutBack s n mwp).held = s.held := by
  simp [cutBack]
@[simp] theorem fillTo_held (s : State) (n : Nat) (p : Word) (ord last : Nat) : (fillTo s n p ord last).held = s.held := by
  simp [fillTo]
@[simp] theorem refillEntries_held (s : State) (n : Nat) (rp : Word) (ord : Nat) : (refillEntries s n rp ord).held = s.held := by
  simp [refillEntries]
@[simp] theorem refillAlone_held (s : State) (n : Nat) : (refillAlone s n).1.held = s.held := by
  simp [refillAlone]
@[simp] theorem restartIdle_held (s : State) (n : Nat) : (restartIdle s n).1.held = s.held := by
  simp only [restartIdle]; (repeat' split) <;> simp
@[simp] theorem refillBob_held (s : State) (cons : Option (Nat × CkptVals)) (n : Nat) : (refillBob s cons n).1.held = s.held := by
  simp only [refillBob]; (repeat' split) <;> simp
@[simp] theorem restoreBob_held (s : State) (vs : List (Nat × CkptVals)) (n : Nat) : (restoreBob s vs n).1.held = s.held := by
  simp only [restoreBob]; (repeat' split) <;> simp
@[simp] theorem beginReplay_held (s : State) (e : Nat × CkptVals) : (beginReplay s e).held = s.held := by
  simp [beginReplay]
@[simp] theorem restartYarn_held (s : State) (c : Nat) (v : CkptVals) : (restartYarn s c v).held = s.held := by
  simp [restartYarn]
@[simp] theorem failReplay_held (s : State) (d : Die) (r : Replay) (result cls : Nat) : (failReplay s d r result cls).held = s.held := by
  simp [failReplay]
@[simp] theorem restoreAll_held (s : State) (d : Die) (r : Replay) (back : Nat) : (restoreAll s d r back).held = s.held := by
  simp [restoreAll]
@[simp] theorem restoreFrom_held (s : State) (d : Die) (r : Replay) (back : Nat) : (restoreFrom s d r back).held = s.held := by
  simp [restoreFrom]
@[simp] theorem ckptUe_held (s : State) (back : Nat) (cs : List Nat) : (ckptUe s back cs).held = s.held := by
  simp only [ckptUe]; (repeat' split) <;> simp
@[simp] theorem restoreErrors_held (s : State) (r : Replay) : (restoreErrors s r).held = s.held := by
  simp [restoreErrors]
@[simp] theorem restoreUe_held (s : State) (r : Replay) (rd : RestoreRead) : (restoreUe s r rd).held = s.held := by
  simp only [restoreUe]; (repeat' split) <;> simp
@[simp] theorem restoreDone_held (s : State) (d : Die) (rd : RestoreRead) : (restoreDone s d rd).held = s.held := by
  simp only [restoreDone]; (repeat' split) <;> simp
@[simp] theorem refillTwin_held (s : State) (src dst : Nat) (rp : Word) : (refillTwin s src dst rp).held = s.held := by
  simp [refillTwin]
@[simp] theorem resyncFrom_held (s : State) (home : Die) (n : Nat) : (resyncFrom s home n).held = s.held := by
  unfold resyncFrom
  extract_lets o y z own s1 outs
  split
  · rfl
  split
  · rfl
  extract_lets p frames mine v s2 s3 s4
  have h1 : s1.held = s.held := dropYarns_held _ _
  have h2 : s2.held = s1.held := held_foldl _ (fun t b => restoreBob_held _ _ _) _ _
  have h3 : s3.held = s2.held := held_foldl _ (fun t i => by split <;> simp) _ _
  have h4 : s4.held = s3.held := held_foldl _ (fun t e => by dsimp only; (repeat' split) <;> simp) _ _
  rw [setYarn_held, h4, h3, h2, h1]
@[simp] theorem loseYarn_held (s : State) (d : Die) (e : Nat × Yarn) : (loseYarn s d e).held = s.held := by
  simp [loseYarn]
@[simp] theorem dieLostDeclare_held (s : State) (d : Die) : (dieLostDeclare s d).held = s.held := by
  simp [dieLostDeclare]

/-! ### HdmWindow -/

@[simp] theorem writeHdm_held (s : State) (o : Nat) (bs : List Byte) : (writeHdm s o bs).held = s.held := by
  simp [writeHdm]
@[simp] theorem winShow_held (s : State) : (winShow s).held = s.held := by
  simp [winShow]

/-! ### Commit -/

@[simp] theorem noteReleased_held (s : State) (d : Die) (e : JEntry) : (noteReleased s d e).held = s.held := by
  simp [noteReleased]
@[simp] theorem releaseEntry_held (s : State) (d : Die) (e : JEntry) : (releaseEntry s d e).held = s.held := by
  simp [releaseEntry]
@[simp] theorem releaseUpTo_held (s : State) (d : Die) (ord : Nat) : (releaseUpTo s d ord).held = s.held := by
  simp [releaseUpTo]
@[simp] theorem freshRing_held (s : State) (d : Die) (base size : Nat) : (freshRing s d base size).held = s.held := by
  simp [freshRing]
@[simp] theorem jrnBaseWrite_held (s : State) (d : Die) (v : Word) : (jrnBaseWrite s d v).held = s.held := by
  simp [jrnBaseWrite]
@[simp] theorem jrnSizeWrite_held (s : State) (d : Die) (v : Word) : (jrnSizeWrite s d v).held = s.held := by
  simp [jrnSizeWrite]
@[simp] theorem flushCuts_held (s : State) (d : Die) (c : Nat) : (flushCuts s d c).held = s.held := by
  simp [flushCuts]
@[simp] theorem commitEgress_held (s : State) (d : Die) (c : Nat) : (commitEgress s d c).held = s.held := by
  simp [commitEgress]
@[simp] theorem copyEntry_held (s : State) (d : Die) (x : JEntry) : (copyEntry s d x).held = s.held := by
  simp [copyEntry]
@[simp] theorem remirror_held (s : State) (d : Die) : (remirror s d).held = s.held := by
  unfold remirror
  apply held_foldl
  intro t e
  dsimp only
  split
  · rfl
  · refine Eq.trans (held_foldl _ (fun u n => ?_) _ _) (by simp)
    split
    · rfl
    · refine held_foldl _ (fun v x => ?_) _ _
      split
      · rfl
      · exact copyEntry_held _ _ _
@[simp] theorem applyCommit_held (s : State) (d : Die) (c : Nat) : (applyCommit s d c).held = s.held := by
  simp [applyCommit]
@[simp] theorem readyStep_held (s : State) : (readyStep s).held = s.held := by
  simp [readyStep]
@[simp] theorem commitStep_held (s : State) (d : Die) : (commitStep s d).held = s.held := by
  simp [commitStep]
@[simp] theorem moveBob_held (s : State) (n : Nat) : (moveBob s n).held = s.held := by
  simp only [moveBob]; (repeat' split) <;> simp
@[simp] theorem takeCkpt_held (s : State) (d : Die) (n base : Nat) (both : Bool) : (takeCkpt s d n base both).held = s.held := by
  simp [takeCkpt]
@[simp] theorem migrateYarn_held (s : State) (d : Die) (n : Nat) : (migrateYarn s d n).held = s.held := by
  simp only [migrateYarn]; (repeat' split) <;> simp
@[simp] theorem migrateDone_held (s : State) (n : Nat) : (migrateDone s n).held = s.held := by
  simp [migrateDone]

/-! ### RegBank -/

@[simp] theorem regWrite_held (s : State) (r : Reg) (d : Die) (i : Nat) (v : Word) : (regWrite s r d i v).held = s.held := by
  simp [regWrite]
@[simp] theorem regWriteBy_held (s : State) (rq : Requester) (r : Reg) (d : Die) (i : Nat) (v : Word) : (regWriteBy s rq r d i v).held = s.held := by
  simp [regWriteBy]
@[simp] theorem resetRegs_held (s : State) (x : ResetAt) : (resetRegs s x).held = s.held := by
  simp [resetRegs]

/-! ### Reset -/

@[simp] theorem emptyGates_held (s : State) (d : Die) (h : Nat) : (emptyGates s d h).held = s.held := by
  simp [emptyGates]
@[simp] theorem clearOwned_held (s : State) (d : Die) (h : Nat) : (clearOwned s d h).held = s.held := by
  simp [clearOwned]
@[simp] theorem clearFlow_held (s : State) (d : Die) (h : Nat) : (clearFlow s d h).held = s.held := by
  simp [clearFlow]
@[simp] theorem resetHarness_held (s : State) (d : Die) (h : Nat) : (resetHarness s d h).held = s.held := by
  simp [resetHarness]
@[simp] theorem loseRet_held (s : State) (d : Die) (h : Nat) : (loseRet s d h).held = s.held := by
  simp [loseRet]
@[simp] theorem loseOff_held (s : State) (d : Die) (h : Nat) : (loseOff s d h).held = s.held := by
  simp [loseOff]
@[simp] theorem resetControl_held (s : State) (d : Die) : (resetControl s d).held = s.held := by
  simp [resetControl]
@[simp] theorem dropRegion_held (s : State) (j : Nat) : (dropRegion s j).held = s.held := by
  simp [dropRegion]
@[simp] theorem resetPorts_held (s : State) (d : Die) : (resetPorts s d).held = s.held := by
  simp [resetPorts]
@[simp] theorem resetFlow_held (s : State) (d : Die) : (resetFlow s d).held = s.held := by
  simp [resetFlow]
@[simp] theorem resetArray_held (s : State) (d : Die) : (resetArray s d).held = s.held := by
  simp [resetArray]
@[simp] theorem resetBlocks_held (s : State) (d : Die) : (resetBlocks s d).held = s.held := by
  simp [resetBlocks]
@[simp] theorem resetDoms_held (s : State) (d : Die) : (resetDoms s d).held = s.held := by
  simp [resetDoms]
@[simp] theorem emptyDevice_held (s : State) : (emptyDevice s).held = s.held := by
  simp [emptyDevice]
@[simp] theorem setCause_held (s : State) (d : Die) (src : Nat) : (setCause s d src).held = s.held := by
  simp [setCause]
@[simp] theorem lockClock_held (s : State) (d : Die) (h : Nat) : (lockClock s d h).held = s.held := by
  simp [lockClock]
@[simp] theorem openHarness_held (s : State) (d : Die) (h : Nat) : (openHarness s d h).held = s.held := by
  simp [openHarness]
@[simp] theorem releaseHarness_held (s : State) (d : Die) (h : Nat) : (releaseHarness s d h).held = s.held := by
  simp [releaseHarness]
@[simp] theorem showReady_held (s : State) : (showReady s).held = s.held := by
  simp [showReady]
@[simp] theorem releaseHost_held (s : State) : (releaseHost s).held = s.held := by
  simp [releaseHost]
@[simp] theorem releaseReset_held (s : State) (a : Asserted) : (releaseReset s a).held = s.held := by
  simp only [releaseReset]; (repeat' split) <;> simp

/-! ### Clocks -/

@[simp] theorem setFreq_held (s : State) (d : Die) (h f : Nat) : (setFreq s d h f).held = s.held := by
  simp [setFreq]
@[simp] theorem clkCtlWrite_held (s : State) (d : Die) (h : Nat) (v : Word) : (clkCtlWrite s d h v).held = s.held := by
  simp [clkCtlWrite]
@[simp] theorem slewDone_held (s : State) (d : Die) (h : Nat) : (slewDone s d h).held = s.held := by
  simp [slewDone]
@[simp] theorem relock_held (s : State) (d : Die) (h : Nat) (ok : Bool) : (relock s d h ok).held = s.held := by
  simp only [relock]; (repeat' split) <;> simp
@[simp] theorem avsLimit_held (s : State) (d : Die) (h : Nat) : (avsLimit s d h).held = s.held := by
  simp [avsLimit]
@[simp] theorem avsTick_held (s : State) (d : Die) (h : Nat) (margin : BitVec 8) (headroom : Nat) : (avsTick s d h margin headroom).held = s.held := by
  simp [avsTick]
@[simp] theorem avsCtlWrite_held (s : State) (d : Die) (h : Nat) (v : Word) : (avsCtlWrite s d h v).held = s.held := by
  simp [avsCtlWrite]
@[simp] theorem agingMeasure_held (s : State) (d : Die) (h fRef fStressed : Nat) : (agingMeasure s d h fRef fStressed).held = s.held := by
  simp [agingMeasure]
@[simp] theorem startUps_held (s : State) (d : Die) : (startUps s d).held = s.held := by
  simp [startUps]
@[simp] theorem pursue_held (s : State) (d : Die) (i : Nat) : (pursue s d i).held = s.held := by
  simp [pursue]
@[simp] theorem setTarget_held (s : State) (d : Die) (i : Nat) (t : DState) : (setTarget s d i t).held = s.held := by
  simp [setTarget]
@[simp] theorem domCtlWrite_held (s : State) (rq : Requester) (d : Die) (i : Nat) (v : Word) : (domCtlWrite s rq d i v).held = s.held := by
  simp only [domCtlWrite]; (repeat' split) <;> simp
@[simp] theorem loseGroup_held (s : State) (d : Die) (k : Nat) : (loseGroup s d k).held = s.held := by
  simp [loseGroup]
@[simp] theorem domRestores_held (s : State) (d : Die) (i : Nat) (was : DState) : (domRestores s d i was).held = s.held := by
  simp [domRestores]
@[simp] theorem domIsOn_held (s : State) (d : Die) (i : Nat) : (domIsOn s d i).held = s.held := by
  simp [domIsOn]

/-! ### Network -/

@[simp] theorem setHeld_held (s : State) (k : Nat) (ps : List Packet) : (setHeld s k ps).held = s.held := by
  simp [setHeld]
@[simp] theorem holdPacket_held (s : State) (k : Nat) (p : Packet) : (holdPacket s k p).held = s.held := by
  simp [holdPacket]
@[simp] theorem inject_held (s : State) (d : Die) (p : Packet) : (inject s d p).held = s.held := by
  simp [inject]
@[simp] theorem respondAt_held (s : State) (d : Die) (p : Packet) (status : Nat) (data : List Byte) : (respondAt s d p status data).held = s.held := by
  simp [respondAt]
@[simp] theorem respond_held (s : State) (p : Packet) (status : Nat) (data : List Byte) : (respond s p status data).held = s.held := by
  simp [respond]
@[simp] theorem addAwait_held (s : State) (p : Packet) : (addAwait s p).held = s.held := by
  simp [addAwait]
@[simp] theorem dropAwait_held (s : State) (d : Die) (ep tok : BitVec 8) : (dropAwait s d ep tok).held = s.held := by
  simp [dropAwait]
@[simp] theorem takeEvent_held (s : State) (d : Die) (e : NetEvent) (taken : Bool) : (takeEvent s d e taken).held = s.held := by
  simp [takeEvent]
@[simp] theorem setHeldEvents_held (s : State) (k : Nat) (es : List NetEvent) : (setHeldEvents s k es).held = s.held := by
  simp [setHeldEvents]
@[simp] theorem holdEvent_held (s : State) (d : Die) (k : Nat) (e : NetEvent) : (holdEvent s d k e).held = s.held := by
  simp [holdEvent]
@[simp] theorem setHeldLines_held (s : State) (k : Nat) (ls : List HeldLine) : (setHeldLines s k ls).held = s.held := by
  simp [setHeldLines]
@[simp] theorem proxyAnswer_held (s : State) (d : Die) (i : Nat) (p : Packet) : (proxyAnswer s d i p).held = s.held := by
  simp only [proxyAnswer]; (repeat' split) <;> simp
@[simp] theorem setHeldAccs_held (s : State) (k : Nat) (as : List HeldAcc) : (setHeldAccs s k as).held = s.held := by
  simp [setHeldAccs]
@[simp] theorem proxyAccess_held (s : State) (d : Die) (i : Nat) (a : HeldAcc) : (proxyAccess s d i a).1.held = s.held := by
  simp [proxyAccess]
@[simp] theorem routeWrite_held (s : State) (rq : Requester) (d : Die) (v : Word) : (routeWrite s rq d v).held = s.held := by
  simp [routeWrite]
@[simp] theorem genSwitchStart_held (s : State) (rq : Requester) (d : Die) : (genSwitchStart s rq d).held = s.held := by
  simp [genSwitchStart]

/-! ### Bredan -/

@[simp] theorem linkEvent_held (s : State) (d : Die) : (linkEvent s d).held = s.held := by
  simp [linkEvent]
@[simp] theorem cutBobs_held (s : State) (on : Bool) : (cutBobs s on).held = s.held := by
  simp [cutBobs]
@[simp] theorem splitApart_held (s : State) : (splitApart s).held = s.held := by
  simp [splitApart]
@[simp] theorem linkLast_held (s : State) : (linkLast s).held = s.held := by
  simp [linkLast]
@[simp] theorem joinAgain_held (s : State) : (joinAgain s).held = s.held := by
  simp [joinAgain]
@[simp] theorem answerCross_held (s : State) : (answerCross s).held = s.held := by
  simp [answerCross]
@[simp] theorem dropUnsent_held (s : State) (d : Die) : (dropUnsent s d).held = s.held := by
  simp [dropUnsent]
@[simp] theorem halfDown_held (s : State) (d : Die) : (halfDown s d).held = s.held := by
  simp [halfDown]
@[simp] theorem linkDown_held (s : State) : (linkDown s).held = s.held := by
  simp [linkDown]
@[simp] theorem sendLine_held (s : State) (d : Die) (f : BitVec 4320) : (sendLine s d f).held = s.held := by
  simp [sendLine]
@[simp] theorem sendFrame_held (s : State) (d : Die) (ackType : Nat) : (sendFrame s d ackType).held = s.held := by
  simp [sendFrame]
@[simp] theorem sendFlitsN_held (k : Nat) (s : State) (d : Die) : (sendFlitsN k s d).held = s.held := by
  induction k generalizing s with
  | zero => simp [sendFlitsN]
  | succ k ih => simp only [sendFlitsN]; (repeat' split) <;> simp [ih]
@[simp] theorem sendFlits_held (s : State) (d : Die) : (sendFlits s d).held = s.held := by
  simp [sendFlits]
@[simp] theorem forwardPacket_held (s : State) (d : Die) (p : Packet) : (forwardPacket s d p).held = s.held := by
  simp [forwardPacket]
@[simp] theorem forwardNext_held (s : State) (d : Die) : (forwardNext s d).held = s.held := by
  simp only [forwardNext]; (repeat' split) <;> simp
@[simp] theorem proxyTake_held (s : State) (d : Die) (i : Nat) (p : Packet) : (proxyTake s d i p).held = s.held := by
  simp [proxyTake]
@[simp] theorem resend_held (s : State) (d : Die) : (resend s d).held = s.held := by
  simp [resend]
@[simp] theorem takeTrailer_held (s : State) (d : Die) (f : BitVec 4320) : (takeTrailer s d f).held = s.held := by
  simp [takeTrailer]
@[simp] theorem startRetrain_held (s : State) : (startRetrain s).held = s.held := by
  simp [startRetrain]
@[simp] theorem showLanes_held (s : State) (d : Die) (near far : BitVec 24) : (showLanes s d near far).held = s.held := by
  simp [showLanes]
@[simp] theorem halfUp_held (s : State) (d : Die) (w : Bool × Bool) : (halfUp s d w).held = s.held := by
  simp [halfUp]
@[simp] theorem retrainDone_held (s : State) (d : Die) (near far : BitVec 24) : (retrainDone s d near far).held = s.held := by
  simp only [retrainDone]; (repeat' split) <;> simp
@[simp] theorem sendRejoin_held (s : State) : (sendRejoin s).held = s.held := by
  simp [sendRejoin]
@[simp] theorem trainAttempt_held (s : State) (d : Die) (near far : BitVec 24) : (trainAttempt s d near far).held = s.held := by
  simp only [trainAttempt]; (repeat' split) <;> simp
@[simp] theorem brdRetrain_held (s : State) : (brdRetrain s).held = s.held := by
  simp [brdRetrain]
@[simp] theorem holdDownWrite_held (s : State) (d : Die) (v : Bool) : (holdDownWrite s d v).held = s.held := by
  simp [holdDownWrite]
@[simp] theorem refuseFrame_held (s : State) (d : Die) (again : Bool) : (refuseFrame s d again).held = s.held := by
  simp [refuseFrame]

/-! ### Memories -/

@[simp] theorem collide_held (s : State) (d : Die) (h off : Nat) : (collide s d h off).held = s.held := by
  simp [collide]
@[simp] theorem startRate_held (s : State) (d : Die) : (startRate s d).held = s.held := by
  simp [startRate]
@[simp] theorem showTemp_held (s : State) (d : Die) (t : Int) : (showTemp s d t).held = s.held := by
  simp [showTemp]
@[simp] theorem rateGroup_held (s : State) (d : Die) (bad : Option (Fin 4)) : (rateGroup s d bad).held = s.held := by
  simp only [rateGroup]; (repeat' split) <;> simp
@[simp] theorem patrol_held (s : State) (d : Die) (granule : Nat) (out : ReadOutcome) : (patrol s d granule out).held = s.held := by
  simp only [patrol]; (repeat' split) <;> simp
@[simp] theorem startPass_held (s : State) (d : Die) : (startPass s d).held = s.held := by
  simp [startPass]
@[simp] theorem mtStart_held (s : State) (d : Die) (v : Word) : (mtStart s d v).held = s.held := by
  simp [mtStart]
@[simp] theorem wipeNearStore_held (s : State) (d : Die) : (wipeNearStore s d).held = s.held := by
  simp [wipeNearStore]
@[simp] theorem marchWipe_held (s : State) (d : Die) (tgt : Nat) : (marchWipe s d tgt).held = s.held := by
  simp [marchWipe]
@[simp] theorem endPass_held (s : State) (d : Die) : (endPass s d).held = s.held := by
  simp [endPass]
@[simp] theorem mtAbort_held (s : State) (d : Die) : (mtAbort s d).held = s.held := by
  simp [mtAbort]
@[simp] theorem scratchFail_held (s : State) (d : Die) (har row col : Nat) : (scratchFail s d har row col).held = s.held := by
  simp [scratchFail]
@[simp] theorem marchAct_held (s : State) (d : Die) (mem har unit row addr : Nat) : (marchAct s d mem har unit row addr).held = s.held := by
  simp only [marchAct]; (repeat' split) <;> simp
@[simp] theorem marchFail_held (s : State) (d : Die) (mem har unit row addr : Nat) : (marchFail s d mem har unit row addr).held = s.held := by
  simp [marchFail]
@[simp] theorem marchPct_held (s : State) (d : Die) : (marchPct s d).held = s.held := by
  simp [marchPct]
@[simp] theorem chunkDone_held (s : State) (d : Die) (touched : Bool) (bad : Option Nat) : (chunkDone s d touched bad).held = s.held := by
  simp only [chunkDone]; (repeat' split) <;> simp
@[simp] theorem passDone_held (s : State) (d : Die) (bad : List MarchPlace) : (passDone s d bad).held = s.held := by
  simp only [passDone]; (repeat' split) <;> simp

/-! ### Ethernet -/

@[simp] theorem setPortWord_held (s : State) (p off : Nat) (v : Word) : (setPortWord s p off v).held = s.held := by
  simp [setPortWord]
@[simp] theorem portWrite_held (s : State) (p n : Nat) (ws : List TWord) : (portWrite s p n ws).held = s.held := by
  simp [portWrite]
@[simp] theorem frameItem_held (s : State) (p : Nat) (f : EthFrame) (rule : Nat × Nat) : (frameItem s p f rule).held = s.held := by
  simp [frameItem]
@[simp] theorem streamItem_held (s : State) (p : Nat) (f : EthFrame) (r : Nat) (rule : Nat × Nat) : (streamItem s p f r rule).held = s.held := by
  simp only [streamItem]; (repeat' split) <;> simp
@[simp] theorem ruleItem_held (s : State) (p : Nat) (f : EthFrame) (r : Nat) : (ruleItem s p f r).held = s.held := by
  simp [ruleItem]
theorem frameRule_held (s t : State) (p : Nat) (f : EthFrame) (o : Option Nat) (h : t.held = s.held) :
    (o.elim t (ruleItem s p f)).held = s.held := by
  cases o with
  | none => rw [Option.elim_none]; exact h
  | some r => rw [Option.elim_some]; exact ruleItem_held _ _ _ _
@[simp] theorem frameArrives_held (s : State) (p : Nat) (bs : List Byte) (fcsOk : Bool) :
    (frameArrives s p bs fcsOk).held = s.held := by
  unfold frameArrives
  extract_lets d m f
  split
  · exact countF_held _ _ _ _
  split
  · exact countF_held _ _ _ _
  split
  · exact emit_held _ _
  · exact frameRule_held _ _ _ _ _ (countF_held _ _ _ _)
@[simp] theorem qbvChange_held (s : State) (p : Nat) : (qbvChange s p).held = s.held := by
  simp [qbvChange]
@[simp] theorem unstall_held (s : State) (p : Nat) : (unstall s p).held = s.held := by
  simp [unstall]
@[simp] theorem adoptList_held (s : State) (p : Nat) : (adoptList s p).held = s.held := by
  simp [adoptList]
@[simp] theorem qbvCycle_held (s : State) (p : Nat) : (qbvCycle s p).held = s.held := by
  simp [qbvCycle]
@[simp] theorem noteTx_held (s : State) (p n : Nat) : (noteTx s p n).held = s.held := by
  simp [noteTx]
@[simp] theorem sendEth_held (s : State) (p : Nat) (bs : List Byte) (t : Nat) : (sendEth s p bs t).held = s.held := by
  simp [sendEth]
@[simp] theorem stampFrame_held (s : State) (p : Nat) (bs : List Byte) (t : Nat) : (stampFrame s p bs t).1.held = s.held := by
  simp only [stampFrame]; (repeat' split) <;> simp
@[simp] theorem skipQuiet_held (k : Nat) (s : State) (n : Nat) : (skipQuiet k s n).held = s.held := by
  induction k generalizing s with
  | zero => simp [skipQuiet]
  | succ k ih => simp only [skipQuiet]; (repeat' split) <;> simp [ih]
@[simp] theorem skipHead_held (s : State) (n : Nat) : (skipHead s n).held = s.held := by
  unfold skipHead; exact skipQuiet_held _ _ _
@[simp] theorem sendPart_held (s : State) (p : Nat) (x : TxFrame) (due : Option Nat) : (sendPart s p x due).held = s.held := by
  simp only [sendPart]; (repeat' split) <;> simp
@[simp] theorem startFrame_held (s : State) (p tc : Nat) (bs : List Byte) (due : Option Nat) : (startFrame s p tc bs due).held = s.held := by
  simp [startFrame]
@[simp] theorem startItemFrames_held (s : State) (p tc : Nat) (frames : List (List Byte)) (due : Option Nat) : (startItemFrames s p tc frames due).held = s.held := by
  simp only [startItemFrames]; (repeat' split) <;> simp
@[simp] theorem sendItem_held (s : State) (p : Nat) (w : Nat × Nat) (ws : List TWord) (due : Option Nat) : (sendItem s p w ws due).held = s.held := by
  simp only [sendItem]; (repeat' split) <;> simp
@[simp] theorem sendBinding_held (s : State) (p : Nat) (e : Nat × Nat × Nat) (due : Option Nat) :
    (sendBinding s p e due).held = s.held := by
  unfold sendBinding
  dsimp only
  rw [sendItem_held, egressItem_held, pointerCheck_held, setPort_held]
theorem skipList_held (s : State) (l : List (Nat × Nat × Nat)) :
    (l.foldl (fun s e => skipHead s (bitsOf e.2.2 47 32)) s).held = s.held := by
  exact held_foldl _ (fun t e => skipHead_held _ _) _ _
@[simp] theorem skipBindings_held (s : State) (p : Nat) : (skipBindings s p).held = s.held := by
  rw [skipBindings]
  exact skipList_held _ _
@[simp] theorem sendChosen_held (s : State) (p : Nat) (due : Option Nat) (x : TxItem ⊕ (Nat × Nat × Nat)) : (sendChosen s p due x).held = s.held := by
  simp only [sendChosen]; (repeat' split) <;> simp
@[simp] theorem resumeFrame_held (s : State) (p : Nat) (due : Option Nat) : (resumeFrame s p due).held = s.held := by
  simp only [resumeFrame]; (repeat' split) <;> simp
@[simp] theorem transmit_held (s : State) (p : Nat) (due : Option Nat) : (transmit s p due).held = s.held := by
  unfold transmit
  extract_lets t
  cases choose t p (bindings s p) with
  | none => rw [Option.elim_none, resumeFrame_held]; exact skipBindings_held _ _
  | some x => rw [Option.elim_some, sendChosen_held]; exact skipBindings_held _ _
@[simp] theorem showLine_held (s : State) (p : Nat) (l : LineShown) : (showLine s p l).held = s.held := by
  simp [showLine]
@[simp] theorem loseLine_held (s : State) (p : Nat) : (loseLine s p).held = s.held := by
  simp [loseLine]
@[simp] theorem cutPort_held (s : State) (p : Nat) : (cutPort s p).held = s.held := by
  simp [cutPort]
@[simp] theorem setPlLine_held (s : State) (p : Nat) (l : LineState) : (setPlLine s p l).held = s.held := by
  simp [setPlLine]
@[simp] theorem setEthLine_held (s : State) (p : Nat) (l : LineState) : (setEthLine s p l).held = s.held := by
  simp [setEthLine]
@[simp] theorem setLine_held (s : State) (p : Nat) (l : LineState) : (setLine s p l).held = s.held := by
  simp [setLine]
@[simp] theorem portCfgWrite_held (s : State) (rq : Requester) (p : Nat) (v : Word) : (portCfgWrite s rq p v).held = s.held := by
  simp [portCfgWrite]
@[simp] theorem quadFails_held (s : State) (quad : Nat) : (quadFails s quad).held = s.held := by
  simp [quadFails]

/-! ### Pickline -/

@[simp] theorem setNodeWord_held (s : State) (d : Die) (e w v : Nat) : (setNodeWord s d e w v).held = s.held := by
  simp [setNodeWord]
@[simp] theorem setNodeF_held (s : State) (d : Die) (e hi lo v : Nat) : (setNodeF s d e hi lo v).held = s.held := by
  simp [setNodeF]
@[simp] theorem ringEvent_held (s : State) (k : Nat) : (ringEvent s k).held = s.held := by
  simp [ringEvent]
@[simp] theorem ringDrop_held (s : State) (n : Nat) : (ringDrop s n).held = s.held := by
  simp [ringDrop]
@[simp] theorem takeNewest_held (latest : Bool) (k : Nat) (s : State) (n : Nat) : (takeNewest latest k s n).1.held = s.held := by
  induction k generalizing s with
  | zero => simp [takeNewest]
  | succ k ih => simp only [takeNewest]; split <;> simp [ih]
@[simp] theorem fillSlot_held (s : State) (k a : Nat) : (fillSlot s k a).1.held = s.held := by
  simp [fillSlot]
@[simp] theorem buildCommand_held (s : State) (k : Nat) : (buildCommand s k).held = s.held := by
  simp [buildCommand]
@[simp] theorem takeStatus_held (s : State) (k : Nat) (t : PlSlot) : (takeStatus s k t).held = s.held := by
  simp [takeStatus]
@[simp] theorem useFrame_held (s : State) (k : Nat) (odd : Bool) (f : PlFrame) : (useFrame s k odd f).held = s.held := by
  simp [useFrame]
@[simp] theorem rejectFrame_held (s : State) (k : Nat) : (rejectFrame s k).held = s.held := by
  simp [rejectFrame]
@[simp] theorem takeBack_held (s : State) (k : Nat) (odd : Bool) (blocks : List PlBlock) : (takeBack s k odd blocks).1.held = s.held := by
  simp only [takeBack]; (repeat' split) <;> simp
@[simp] theorem leaveRing_held (s : State) (k : Nat) (odd : Bool) (blocks : List PlBlock) : (leaveRing s k odd blocks).held = s.held := by
  simp [leaveRing]
@[simp] theorem sendRing_held (s : State) (k ftype : Nat) (odd : Bool) (time tTx h2 : Nat) (slots : List PlSlot) : (sendRing s k ftype odd time tTx h2 slots).held = s.held := by
  simp [sendRing]
@[simp] theorem sendCycle_held (s : State) (k : Nat) (linear : Bool) : (sendCycle s k linear).held = s.held := by
  simp [sendCycle]
@[simp] theorem dropSlots_held (s : State) (k : Nat) : (dropSlots s k).held = s.held := by
  simp [dropSlots]
@[simp] theorem noteSent_held (s : State) (k : Nat) : (noteSent s k).held = s.held := by
  simp [noteSent]
@[simp] theorem showCycle_held (s : State) (k mode : Nat) : (showCycle s k mode).held = s.held := by
  simp [showCycle]
@[simp] theorem cycleStart_held (s : State) (k : Nat) : (cycleStart s k).held = s.held := by
  simp [cycleStart]
@[simp] theorem countLost_held (s : State) (k n : Nat) : (countLost s k n).held = s.held := by
  simp [countLost]
@[simp] theorem markUnreachable_held (s : State) (k : Nat) (f : Nat × Nat × Nat) : (markUnreachable s k f).held = s.held := by
  simp [markUnreachable]
@[simp] theorem compareNodes_held (s : State) (k : Nat) : (compareNodes s k).held = s.held := by
  simp [compareNodes]
@[simp] theorem countMisses_held (s : State) (k : Nat) : (countMisses s k).held = s.held := by
  simp [countMisses]
@[simp] theorem cycleEnd_held (s : State) (k : Nat) : (cycleEnd s k).held = s.held := by
  simp only [cycleEnd]; (repeat' split) <;> simp
@[simp] theorem heal_held (s : State) (k : Nat) (f : PlFrame) (odd : Bool) : (heal s k f odd).held = s.held := by
  simp [heal]
@[simp] theorem frameBack_held (s : State) (k : Nat) (odd : Bool) (blocks : List PlBlock) : (frameBack s k odd blocks).held = s.held := by
  simp only [frameBack]; (repeat' split) <;> simp
@[simp] theorem askDly_held (s : State) (k : Nat) (odd : Bool) (now : Nat) : (askDly s k odd now).held = s.held := by
  simp [askDly]
@[simp] theorem takeDly_held (s : State) (k : Nat) (odd : Bool) (b : Nat) (x : Nat) : (takeDly s k odd b x).held = s.held := by
  simp only [takeDly]; (repeat' split) <;> simp
@[simp] theorem setRun_held (s : State) (k : Nat) (v : Bool) : (setRun s k v).held = s.held := by
  simp [setRun]
@[simp] theorem plCtlWrite_held (s : State) (rq : Requester) (k : Nat) (v : Word) : (plCtlWrite s rq k v).held = s.held := by
  simp [plCtlWrite]
@[simp] theorem gridWrite_held (s : State) (rq : Requester) (k i : Nat) (v : Word) : (gridWrite s rq k i v).held = s.held := by
  simp [gridWrite]

/-! ### Queues -/

@[simp] theorem doorbellError_held (s : State) : (doorbellError s).held = s.held := by
  simp [doorbellError]
@[simp] theorem stopQp_held (s : State) (q cause : Nat) : (stopQp s q cause).held = s.held := by
  simp [stopQp]
@[simp] theorem ringBell_held (s : State) : (ringBell s).held = s.held := by
  simp [ringBell]
@[simp] theorem sqTailWrite_held (s : State) (q v : Nat) : (sqTailWrite s q v).held = s.held := by
  simp [sqTailWrite]
@[simp] theorem cqHeadWrite_held (s : State) (q v : Nat) : (cqHeadWrite s q v).held = s.held := by
  simp [cqHeadWrite]
@[simp] theorem enableQp_held (s : State) (q : Nat) (v : Word) : (enableQp s q v).held = s.held := by
  simp [enableQp]
@[simp] theorem queueMessage_held (s : State) (q : Nat) : (queueMessage s q).held = s.held := by
  simp [queueMessage]
@[simp] theorem writeCompletion_held (s : State) (q : Nat) (ok : Bool) : (writeCompletion s q ok).held = s.held := by
  simp only [writeCompletion]; (repeat' split) <;> simp
@[simp] theorem unmaskVector_held (s : State) (v : Nat) : (unmaskVector s v).held = s.held := by
  simp [unmaskVector]

/-! ### YarnCommands -/

theorem placeYarn_held {s t : State} {d : Die} {n : Nat} {y : Yarn} (h : placeYarn s d n y = some t) : t.held = s.held := by
  unfold placeYarn at h
  split at h
  · cases h
    split <;> simp
  · cases h
theorem makeTwinBob_held {s t : State} {n : Nat} (h : makeTwinBob s n = some t) : t.held = s.held := by
  unfold makeTwinBob at h; dsimp only at h
  split at h
  · cases h; rfl
  · split at h
    · cases h; simp
    · cases h
theorem makeTwinBobs_held {s t : State} {l : List Nat} (h : makeTwinBobs s l = some t) : t.held = s.held := by
  induction l generalizing s with
  | nil => cases h; rfl
  | cons n ns ih =>
    simp only [makeTwinBobs] at h
    split at h
    · rename_i u hu
      rw [ih h, makeTwinBob_held hu]
    · cases h
theorem placeAll_held (l : List Die) (n : Nat) (y : Yarn) (o : Option State) (s t : State)
    (ho : ∀ u, o = some u → u.held = s.held)
    (h : l.foldl (fun (t : Option State) d => t.bind (fun s => placeYarn s d n y)) o = some t) : t.held = s.held := by
  induction l generalizing o with
  | nil => exact ho t h
  | cons d ds ih =>
    refine ih (o.bind (fun s => placeYarn s d n y)) (fun u hu => ?_) h
    cases o with
    | none => cases hu
    | some v => exact (placeYarn_held hu).trans (ho v rfl)
theorem createYarn_held {s t : State} {bs : List Byte} (h : createYarn s bs = .inl t) : t.held = s.held := by
  unfold createYarn at h
  extract_lets n y dies at h
  split at h
  · cases h
  split at h
  · cases h
  split at h
  · cases h
  split at h
  · cases h
  rename_i u hu
  split at h
  · cases h
  rename_i v hv
  cases h
  exact (makeTwinBobs_held hv).trans (placeAll_held _ _ _ _ _ _ (fun w hw => by cases hw; rfl) hu)
@[simp] theorem yarnCreate_held (s : State) (c : HostCmd) : (yarnCreate s c).held = s.held := by
  unfold yarnCreate
  split
  · simp
  · rename_i h
    simp [createYarn_held h]
@[simp] theorem onYarn_held (s : State) (c : HostCmd) (from_ : List YState) (op : WaitOp) (f : State → Die → State)
    (hf : ∀ t d, (f t d).held = t.held) : (onYarn s c from_ op f).held = s.held := by
  simp [onYarn, hf]
@[simp] theorem yarnStart_held (s : State) (c : HostCmd) : (yarnStart s c).held = s.held := by
  simp [yarnStart]
@[simp] theorem yarnHold_held (s : State) (c : HostCmd) : (yarnHold s c).held = s.held := by
  simp [yarnHold]
@[simp] theorem yarnResume_held (s : State) (c : HostCmd) : (yarnResume s c).held = s.held := by
  simp [yarnResume]
@[simp] theorem restartStopped_held (s : State) (d : Die) (n : Nat) : (restartStopped s d n).held = s.held := by
  simp only [restartStopped]; (repeat' split) <;> simp
@[simp] theorem yarnRestart_held (s : State) (c : HostCmd) : (yarnRestart s c).held = s.held := by
  simp [yarnRestart]
@[simp] theorem yarnDelete_held (s : State) (c : HostCmd) : (yarnDelete s c).held = s.held := by
  simp [yarnDelete]
@[simp] theorem yarnModify_held (s : State) (c : HostCmd) : (yarnModify s c).held = s.held := by
  simp [yarnModify]
@[simp] theorem yarnQuery_held (s : State) (c : HostCmd) : (yarnQuery s c).held = s.held := by
  simp only [yarnQuery]; (repeat' split) <;> simp

/-! ### BobCommands -/

@[simp] theorem bindGates_held (s : State) (n : Nat) : (bindGates s n).held = s.held := by
  simp [bindGates]
@[simp] theorem bobCreate_held (s : State) (c : HostCmd) : (bobCreate s c).held = s.held := by
  unfold bobCreate
  dsimp only
  split
  · simp
  split
  · simp
  split
  · simp
  split
  · simp
  split
  · split
    · rename_i h
      simp [makeTwinBob_held h]
    · simp
  · simp
@[simp] theorem freeBob_held (s : State) (n : Nat) : (freeBob s n).held = s.held := by
  simp [freeBob]
@[simp] theorem bobDelete_held (s : State) (c : HostCmd) : (bobDelete s c).held = s.held := by
  simp [bobDelete]
@[simp] theorem bobFlush_held (s : State) (c : HostCmd) : (bobFlush s c).held = s.held := by
  simp [bobFlush]
@[simp] theorem bobResize_held (s : State) (c : HostCmd) : (bobResize s c).held = s.held := by
  simp [bobResize]
@[simp] theorem bobQuery_held (s : State) (c : HostCmd) : (bobQuery s c).held = s.held := by
  simp [bobQuery]
@[simp] theorem itemPush_held (s : State) (c : HostCmd) : (itemPush s c).held = s.held := by
  simp only [itemPush]; (repeat' split) <;> simp

/-! ### Regions -/

@[simp] theorem poisonLine_held (s : State) (d : Die) (off : Nat) : (poisonLine s d off).held = s.held := by
  simp [poisonLine]
@[simp] theorem hdmServe_held (s : State) (x : HeldLine) (out : ReadOutcome) : (hdmServe s x out).held = s.held := by
  simp only [hdmServe]; (repeat' split) <;> simp
@[simp] theorem hdmProxy_held (s : State) (d : Die) (i : Nat) (x : HeldLine) : (hdmProxy s d i x).held = s.held := by
  simp [hdmProxy]
@[simp] theorem hdmAccess_held (s : State) (line : Nat) (wr : Option (List Byte)) (poison : Bool) (out : ReadOutcome) : (hdmAccess s line wr poison out).held = s.held := by
  simp only [hdmAccess]; (repeat' split) <;> simp
theorem windowSize_held {s : State} {d : Die} {n : Nat} {r : State × Nat} (h : windowSize s d n = some r) : r.1.held = s.held := by
  unfold windowSize at h
  split at h
  · split at h
    · cases h; simp
    · simp only [Option.map_eq_some_iff] at h
      obtain ⟨b, -, rfl⟩ := h
      simp
  · split at h
    · cases h; simp
    · split at h
      · simp only [Option.ite_none_right_eq_some] at h
        obtain ⟨-, h⟩ := h
        cases h
        simp
      · simp only [Option.ite_none_right_eq_some] at h
        obtain ⟨-, h⟩ := h
        cases h
        simp
@[simp] theorem windowSet_held (s : State) (c : HostCmd) : (windowSet s c).held = s.held := by
  unfold windowSet
  dsimp only
  split
  · simp
  split
  · simp
  · rename_i h
    simp [windowSize_held h]
@[simp] theorem regionHeader_held (s : State) (g : HostReg) (status : Nat) : (regionHeader s g status).held = s.held := by
  simp [regionHeader]
@[simp] theorem stopRegion_held (s : State) (j : Nat) : (stopRegion s j).held = s.held := by
  simp [stopRegion]
@[simp] theorem regionMap_held (s : State) (c : HostCmd) : (regionMap s c).held = s.held := by
  simp only [regionMap]; (repeat' split) <;> simp
@[simp] theorem regionDoorbell_held (s : State) (j : Nat) (v : BitVec 16) : (regionDoorbell s j v).held = s.held := by
  simp [regionDoorbell]
@[simp] theorem inputWords_held (n : Nat) (stop : Bool) (l : List TWord) (r : State × Option Nat) :
    (inputWords n stop l r).1.held = r.1.held := by
  induction l generalizing r with
  | nil => simp [inputWords]
  | cons w ws ih => simp only [inputWords]; (repeat' split) <;> simp [ih]
@[simp] theorem regionInputRead_held (s : State) (j : Nat) (out : ReadOutcome) : (regionInputRead s j out).held = s.held := by
  simp [regionInputRead]
@[simp] theorem outputBlocks_held (g : HostReg) (n : Nat) (k : Nat) (l : List (List TWord)) (s : State) :
    (outputBlocks g n k l s).held = s.held := by
  induction l generalizing s k with
  | nil => simp [outputBlocks]
  | cons w ws ih => simp [outputBlocks, ih]
@[simp] theorem regionOutputWrite_held (s : State) (j : Nat) : (regionOutputWrite s j).held = s.held := by
  simp [regionOutputWrite]
@[simp] theorem beatwinArea_held (s : State) : (beatwinArea s).held = s.held := by
  simp [beatwinArea]
@[simp] theorem beatwinSet_held (s : State) (c : HostCmd) : (beatwinSet s c).held = s.held := by
  simp [beatwinSet]
@[simp] theorem setPubs_held (s : State) (ps : Sparse (BitVec 4)) : (setPubs s ps).held = s.held := by
  simp [setPubs]
@[simp] theorem beatwinPub_held (s : State) (c : HostCmd) : (beatwinPub s c).held = s.held := by
  simp [beatwinPub]

/-! ### DeviceCommands -/

@[simp] theorem nop_held (s : State) (c : HostCmd) : (nop s c).held = s.held := by
  simp [nop]
@[simp] theorem eventSub_held (s : State) (c : HostCmd) : (eventSub s c).held = s.held := by
  simp [eventSub]
@[simp] theorem draftLoad_held (s : State) (c : HostCmd) : (draftLoad s c).held = s.held := by
  simp [draftLoad]
@[simp] theorem draftSwap_held (s : State) (c : HostCmd) : (draftSwap s c).held = s.held := by
  unfold draftSwap
  dsimp only
  have := armSwap_held s (opDie c 0) (opHar c 0)
  (repeat' split) <;> simp_all
@[simp] theorem darn_held (s : State) (c : HostCmd) : (darn s c).held = s.held := by
  simp [darn]
@[simp] theorem harnessCfg_held (s : State) (c : HostCmd) : (harnessCfg s c).held = s.held := by
  simp [harnessCfg]
@[simp] theorem setPeriod_held (s : State) (v : Word) : (setPeriod s v).held = s.held := by
  simp [setPeriod]
@[simp] theorem beatSet_held (s : State) (c : HostCmd) : (beatSet s c).held = s.held := by
  simp [beatSet]
@[simp] theorem powerRequest_held (s : State) (c : HostCmd) (code : Nat) : (powerRequest s c code).held = s.held := by
  simp [powerRequest]
@[simp] theorem domainSet_held (s : State) (c : HostCmd) : (domainSet s c).held = s.held := by
  simp only [domainSet]; (repeat' split) <;> simp
@[simp] theorem memTest_held (s : State) (c : HostCmd) : (memTest s c).held = s.held := by
  simp [memTest]
@[simp] theorem portCfg_held (s : State) (c : HostCmd) : (portCfg s c).held = s.held := by
  simp [portCfg]
@[simp] theorem portTable_held (s : State) (c : HostCmd) : (portTable s c).held = s.held := by
  simp only [portTable]; (repeat' split) <;> simp
@[simp] theorem ringCfg_held (s : State) (c : HostCmd) : (ringCfg s c).held = s.held := by
  simp [ringCfg]
@[simp] theorem nodeSet_held (s : State) (c : HostCmd) : (nodeSet s c).held = s.held := by
  simp [nodeSet]

/-! ### Rentur -/

@[simp] theorem modRt_held (s : State) (d : Die) (f : RtSt → RtSt) : (modRt s d f).held = s.held := by
  simp [modRt]
@[simp] theorem schedule_held (s : State) (d : Die) : (schedule s d).held = s.held := by
  simp [schedule]
@[simp] theorem leaveFault_held (s : State) (d : Die) (w : Fin 8) : (leaveFault s d w).held = s.held := by
  simp [leaveFault]
@[simp] theorem handlerYield_held (s : State) (d : Die) : (handlerYield s d).held = s.held := by
  simp [handlerYield]
@[simp] theorem spillStep_held (s : State) (d : Die) (bank : Nat) : (spillStep s d bank).held = s.held := by
  simp [spillStep]
@[simp] theorem spillEngine_held (s : State) (d : Die) (bank : Nat) : (spillEngine s d bank).held = s.held := by
  simp [spillEngine]
@[simp] theorem coreCall_held (s : State) (d : Die) : (coreCall s d).held = s.held := by
  simp [coreCall]
@[simp] theorem coreReturn_held (s : State) (d : Die) : (coreReturn s d).held = s.held := by
  simp [coreReturn]
@[simp] theorem endTask_held (s : State) (d : Die) (bank : Nat) : (endTask s d bank).held = s.held := by
  simp [endTask]
@[simp] theorem wdtReload_held (s : State) (d : Die) (us : Nat) : (wdtReload s d us).held = s.held := by
  simp [wdtReload]
@[simp] theorem wdtKick_held (s : State) (rq : Requester) (d : Die) (v : Word) : (wdtKick s rq d v).held = s.held := by
  simp [wdtKick]
@[simp] theorem svAnswer_held (s : State) (status : Nat) (data : List Byte) : (svAnswer s status data).held = s.held := by
  simp [svAnswer]
@[simp] theorem haltNow_held (s : State) (d : Die) (hard : Bool) : (haltNow s d hard).held = s.held := by
  simp [haltNow]
@[simp] theorem haltCore_held (s : State) (d : Die) (hard linked : Bool) : (haltCore s d hard linked).1.held = s.held := by
  simp [haltCore]
@[simp] theorem resumeCore_held (s : State) (d : Die) : (resumeCore s d).held = s.held := by
  simp [resumeCore]
@[simp] theorem semAcquire_held (s : State) (d : Die) (i : Nat) (owner : Die) (level : Nat) : (semAcquire s d i owner level).held = s.held := by
  simp [semAcquire]
@[simp] theorem semRelease_held (s : State) (d : Die) (i : Nat) : (semRelease s d i).held = s.held := by
  simp only [semRelease]; (repeat' split) <;> simp

/-! ### Images -/

@[simp] theorem putFrame_held (s : State) (d : Die) (retained : Bool) (cls i : Nat) (bs : List Byte) : (putFrame s d retained cls i bs).held = s.held := by
  simp only [putFrame]; (repeat' split) <;> simp
@[simp] theorem clearOptional_held (s : State) (d : Die) (retained : Bool) : (clearOptional s d retained).held = s.held := by
  simp [clearOptional]

/-! ### DieUp -/

@[simp] theorem applyAging_held (s : State) (d : Die) : (applyAging s d).held = s.held := by
  simp [applyAging]
@[simp] theorem applyDarning_held (s : State) (d : Die) : (applyDarning s d).held = s.held := by
  simp [applyDarning]
@[simp] theorem applyMarch_held (s : State) (d : Die) : (applyMarch s d).held = s.held := by
  simp [applyMarch]
@[simp] theorem addImageBob_held (s : State) (d : Die) (i : Nat) : (addImageBob s d i).held = s.held := by
  simp [addImageBob]
@[simp] theorem addImageYarn_held (s : State) (d : Die) (i : Nat) : (addImageYarn s d i).held = s.held := by
  simp only [addImageYarn]; (repeat' split) <;> simp
@[simp] theorem applyTables_held (s : State) (d : Die) : (applyTables s d).held = s.held := by
  unfold applyTables
  refine (held_foldl _ (fun t e => ?_) _ _).trans (by simp)
  split
  · exact held_getD (fun _ h => makeTwinBob_held h)
  · rfl
@[simp] theorem makeJournal_held (s : State) (d : Die) : (makeJournal s d).held = s.held := by
  simp only [makeJournal]; (repeat' split) <;> simp
@[simp] theorem enablePorts_held (s : State) (d : Die) : (enablePorts s d).held = s.held := by
  unfold enablePorts; (repeat' (first | (simp; done) | split | (dsimp only; split) | (intro _) | (apply held_foldl; intro _ _)))
@[simp] theorem setDieState_held (s : State) (d : Die) (v : Nat) : (setDieState s d v).held = s.held := by
  simp [setDieState]
@[simp] theorem inRun_held (s : State) : (inRun s).held = s.held := by
  simp [inRun]
@[simp] theorem awake_held (s : State) : (awake s).held = s.held := by
  simp [awake]
@[simp] theorem startEngine_held (s : State) : (startEngine s).held = s.held := by
  simp [startEngine]
@[simp] theorem lastCkpts_held (s : State) (cs : List Nat) : (lastCkpts s cs).1.held = s.held := by
  suffices h : ∀ (l : List Nat) (r : State × List (Nat × CkptVals)), (l.foldl (fun r c =>
      let p := chooseCkpt r.1 c
      match p.2 with
      | some o => (p.1, r.2 ++ [(c, readCkpt p.1 (codeDie c) (codeYarn p.1 c) o)])
      | none => (p.1, r.2)) r).1.held = r.1.held from h cs (s, [])
  intro l
  induction l with
  | nil => intro r; rfl
  | cons c l ih =>
    intro r
    rw [List.foldl_cons]
    refine (ih _).trans ?_
    dsimp only
    split <;> exact chooseCkpt_held _ _
@[simp] theorem goOn_held (s : State) (c : Nat) : (goOn s c).held = s.held := by
  simp [goOn]
@[simp] theorem restoreFlow_held (s : State) (d : Die) : (restoreFlow s d).held = s.held := by
  simp [restoreFlow]
@[simp] theorem restoreHeld_held (s : State) (d : Die) : (restoreHeld s d).held = s.held := by
  simp [restoreHeld]
@[simp] theorem selfRefresh_held (s : State) (d : Die) (on : Bool) : (selfRefresh s d on).held = s.held := by
  simp [selfRefresh]
@[simp] theorem startRings_held (s : State) (d : Die) : (startRings s d).held = s.held := by
  simp [startRings]
@[simp] theorem dieUp_held (s : State) (d : Die) (update retained : Bool) : (dieUp s d update retained).held = s.held := by
  simp [dieUp]

/-! ### Fringe -/

@[simp] theorem showNets_held (s : State) (d : Die) : (showNets s d).held = s.held := by
  simp [showNets]
@[simp] theorem setPll_held (s : State) (d : Die) (i : Nat) (v : Bool) : (setPll s d i v).held = s.held := by
  simp [setPll]
@[simp] theorem flushGate_held (s : State) (d : Die) (g : Nat) : (flushGate s d g).held = s.held := by
  simp [flushGate]
@[simp] theorem gateInWord_held (s : State) (d : Die) (g : Nat) (w : TWord) : (gateInWord s d g w).held = s.held := by
  simp [gateInWord]
@[simp] theorem gateOutWord_held (s : State) (d : Die) (g : Nat) (ready : Bool) : (gateOutWord s d g ready).held = s.held := by
  simp only [gateOutWord]; (repeat' split) <;> simp
@[simp] theorem setFfs_held (s : State) (vs : List (Nat × Bool)) : (setFfs s vs).held = s.held := by
  simp [setFfs]
@[simp] theorem initFfs_held (s : State) (d : Die) : (initFfs s d).held = s.held := by
  simp [initFfs]
@[simp] theorem initTiles_held (s : State) (d : Die) (t0 n : Nat) : (initTiles s d t0 n).held = s.held := by
  simp [initTiles]
@[simp] theorem asyncResets_held (s : State) (d : Die) : (asyncResets s d).held = s.held := by
  simp [asyncResets]
@[simp] theorem settleResets_held (k : Nat) (s : State) (d : Die) : (settleResets k s d).held = s.held := by
  induction k generalizing s with
  | zero => simp [settleResets]
  | succ k ih => simp only [settleResets]; split <;> simp [ih]
@[simp] theorem clockEdge_held (s : State) (d : Die) (n : Nat) (level : Nat) (rx : Nat) : (clockEdge s d n level rx).held = s.held := by
  simp [clockEdge]
@[simp] theorem showSer_held (s : State) (d : Die) (c : Nat) : (showSer s d c).held = s.held := by
  simp [showSer]
@[simp] theorem serTxdWrite_held (s : State) (d : Die) (c : Nat) (v : Word) : (serTxdWrite s d c v).held = s.held := by
  simp [serTxdWrite]
@[simp] theorem serRxdRead_held (s : State) (d : Die) (c : Nat) (inspect : Bool) : (serRxdRead s d c inspect).1.held = s.held := by
  simp only [serRxdRead]; (repeat' split) <;> simp
@[simp] theorem serReceive_held (s : State) (d : Die) (c : Nat) (b : Byte) (bad : Bool) : (serReceive s d c b bad).held = s.held := by
  simp [serReceive]
@[simp] theorem serSent_held (s : State) (d : Die) (c : Nat) (nack : Bool) : (serSent s d c nack).held = s.held := by
  simp only [serSent]; (repeat' split) <;> simp

/-! ### Loading -/

@[simp] theorem writeAlso_held (s : State) (d : Die) (m : ImgSt) (off : Nat) (bs : List Byte) : (writeAlso s d m off bs).held = s.held := by
  simp only [writeAlso]; (repeat' split) <;> simp
@[simp] theorem showFail_held (s : State) (d : Die) (code seg : Nat) : (showFail s d code seg).held = s.held := by
  simp [showFail]
@[simp] theorem noteFail_held (s : State) (d : Die) (code seg : Nat) : (noteFail s d code seg).held = s.held := by
  simp [noteFail]
@[simp] theorem beginLoad_held (s : State) (d : Die) (src : ImgSrc) (fallback update retained : Bool) : (beginLoad s d src fallback update retained).1.held = s.held := by
  unfold beginLoad; dsimp only; (repeat' split) <;> simp
@[simp] theorem failLoad_held (s : State) (d : Die) (code seg : Nat) : (failLoad s d code seg).held = s.held := by
  simp only [failLoad]; (repeat' split) <;> simp
@[simp] theorem startLoad_held (s : State) (d : Die) (src : ImgSrc) (update retained : Bool) : (startLoad s d src update retained).held = s.held := by
  simp only [startLoad]; (repeat' split) <;> simp
@[simp] theorem imageLoad_held (s : State) (d : Die) (src : ImgSrc) : (imageLoad s d src).held = s.held := by
  simp [imageLoad]
@[simp] theorem csDeassert_held (s : State) (d : Die) : (csDeassert s d).held = s.held := by
  simp only [csDeassert]; (repeat' split) <;> simp
@[simp] theorem writeGolden_held (s : State) (d : Die) : (writeGolden s d).held = s.held := by
  simp only [writeGolden]; (repeat' split) <;> simp
@[simp] theorem loadRoutes_held (s : State) (d : Die) : (loadRoutes s d).held = s.held := by
  simp [loadRoutes]
@[simp] theorem loadPassed_held (s : State) (d : Die) : (loadPassed s d).held = s.held := by
  simp [loadPassed]
@[simp] theorem checkWhole_held (s : State) (d : Die) (blk : List Byte) : (checkWhole s d blk).held = s.held := by
  simp [checkWhole]
@[simp] theorem putFrames_held (s : State) (d : Die) (retained : Bool) (e : SegEnt) (fs : List (Nat × List Byte)) : (putFrames s d retained e fs).held = s.held := by
  simp [putFrames]
@[simp] theorem segmentLoad_held (s : State) (d : Die) (bytes : List Byte) (nvBad : Bool) : (segmentLoad s d bytes nvBad).held = s.held := by
  simp only [segmentLoad]; (repeat' split) <;> simp
@[simp] theorem masterReload_held (s : State) (d : Die) (h : Nat) : (masterReload s d h).held = s.held := by
  simp only [masterReload]; (repeat' split) <;> simp

/-! ### Release -/

@[simp] theorem sourceRelease_held (s : State) (d : Die) (src : Nat) : (sourceRelease s d src).held = s.held := by
  simp [sourceRelease]
@[simp] theorem loadWide_held (s : State) (d : Die) : (loadWide s d).held = s.held := by
  simp [loadWide]
@[simp] theorem loadPeriod_held (s : State) : (loadPeriod s).held = s.held := by
  simp [loadPeriod]
@[simp] theorem optionLoader_held (s : State) (d : Die) (cs : Bool) : (optionLoader s d cs).held = s.held := by
  simp [optionLoader]
@[simp] theorem turnOn_held (s : State) (d : Die) (i : Nat) : (turnOn s d i).held = s.held := by
  simp [turnOn]
@[simp] theorem vigilOn_held (s : State) : (vigilOn s).held = s.held := by
  simp [vigilOn]
@[simp] theorem networkOn_held (s : State) (d : Die) : (networkOn s d).held = s.held := by
  simp [networkOn]
@[simp] theorem blocksOn_held (s : State) (d : Die) : (blocksOn s d).held = s.held := by
  simp [blocksOn]
@[simp] theorem releaseStage_held (s : State) (d : Die) (cs : Bool) : (releaseStage s d cs).held = s.held := by
  simp only [releaseStage]; (repeat' split) <;> simp
@[simp] theorem loadItcm_held (s : State) (d : Die) (b : Bool) : (loadItcm s d b).held = s.held := by
  unfold loadItcm
  split <;> rfl
@[simp] theorem loadFirmware_held (s : State) (d : Die) (b : Bool) (version : Nat) : (loadFirmware s d b version).held = s.held := by
  simp [loadFirmware]
@[simp] theorem startCores_held (s : State) (d : Die) : (startCores s d).held = s.held := by
  simp [startCores]
@[simp] theorem startIfOk_held (s : State) (d : Die) : (startIfOk s d).held = s.held := by
  simp [startIfOk]
@[simp] theorem startMarch_held (s : State) (d : Die) : (startMarch s d).held = s.held := by
  simp [startMarch]
@[simp] theorem serveAgain_held (s : State) (d : Die) : (serveAgain s d).held = s.held := by
  simp [serveAgain]
@[simp] theorem restartLoaded_held (s : State) (d : Die) (version : Nat) : (restartLoaded s d version).held = s.held := by
  simp [restartLoaded]
@[simp] theorem restartDone_held (s : State) (d : Die) (version : Nat) : (restartDone s d version).held = s.held := by
  simp [restartDone]
@[simp] theorem putBack_held (s : State) (d : Die) (x : DescCopy) : (putBack s d x).held = s.held := by
  simp [putBack]
@[simp] theorem dieRestore_held (s : State) (d : Die) : (dieRestore s d).held = s.held := by
  simp only [dieRestore]; (repeat' split) <;> simp

/-! ### Updates -/

@[simp] theorem nvWrite_held (s : State) (c : HostCmd) : (nvWrite s c).held = s.held := by
  simp only [nvWrite]; (repeat' split) <;> simp
@[simp] theorem nvDone_held (s : State) (d : Die) (ok : Bool) : (nvDone s d ok).held = s.held := by
  simp only [nvDone]; (repeat' split) <;> simp
@[simp] theorem dropFirmware_held (s : State) (d : Die) : (dropFirmware s d).held = s.held := by
  simp [dropFirmware]
@[simp] theorem dieUpdate_held (s : State) (c : HostCmd) : (dieUpdate s c).held = s.held := by
  simp only [dieUpdate]; (repeat' split) <;> simp
@[simp] theorem dieReload_held (s : State) (d : Die) : (dieReload s d).held = s.held := by
  simp only [dieReload]; (repeat' split) <;> simp
@[simp] theorem swapBack_held (s : State) (d : Die) : (swapBack s d).held = s.held := by
  simp [swapBack]

/-! ### Wear -/

@[simp] theorem rewriteDmem_held (s : State) (d : Die) (h ix : Nat) : (rewriteDmem s d h ix).held = s.held := by
  simp only [rewriteDmem]; (repeat' split) <;> simp
@[simp] theorem scrubNote_held (s : State) (d : Die) (f : Nat) (rewritten unrepaired : Bool) : (scrubNote s d f rewritten unrepaired).held = s.held := by
  simp [scrubNote]
@[simp] theorem scrubDmem_held (s : State) (d : Die) (f : Nat) (stillBad : Bool) : (scrubDmem s d f stillBad).held = s.held := by
  simp only [scrubDmem]; (repeat' split) <;> simp
@[simp] theorem scrubFringe_held (s : State) (d : Die) (f : Nat) : (scrubFringe s d f).held = s.held := by
  simp [scrubFringe]
@[simp] theorem scrubCheck_held (s : State) (d : Die) (f : Nat) (bad stillBad : Bool) : (scrubCheck s d f bad stillBad).held = s.held := by
  simp [scrubCheck]
@[simp] theorem scrubRepair_held (s : State) (d : Die) (stillBad : Bool) : (scrubRepair s d stillBad).held = s.held := by
  simp only [scrubRepair]; (repeat' split) <;> simp
@[simp] theorem rewriteBlock_held (s : State) (d : Die) (block : Nat) : (rewriteBlock s d block).held = s.held := by
  simp [rewriteBlock]
@[simp] theorem lowerAll_held (s : State) : (lowerAll s).held = s.held := by
  simp [lowerAll]
@[simp] theorem raiseAll_held (s : State) : (raiseAll s).held = s.held := by
  simp [raiseAll]
@[simp] theorem thermalEvent_held (s : State) (t : Int) : (thermalEvent s t).held = s.held := by
  simp [thermalEvent]
@[simp] theorem capTick_held (s : State) (power : Nat) (junction : Int) : (capTick s power junction).held = s.held := by
  simp only [capTick]; (repeat' split) <;> simp

/-! ### Vigil -/

@[simp] theorem stopDogs_held (s : State) : (stopDogs s).held = s.held := by
  simp [stopDogs]
@[simp] theorem wakeDoze_held (s : State) : (wakeDoze s).held = s.held := by
  simp [wakeDoze]
@[simp] theorem beginWaking_held (s : State) : (beginWaking s).held = s.held := by
  simp [beginWaking]
@[simp] theorem ppsOut_held (s : State) (rise : Bool) : (ppsOut s rise).held = s.held := by
  simp [ppsOut]
@[simp] theorem vglCtlWrite_held (s : State) (rq : Requester) (v : Word) : (vglCtlWrite s rq v).held = s.held := by
  simp [vglCtlWrite]
@[simp] theorem vglStepWrite_held (s : State) (rq : Requester) (v : Word) : (vglStepWrite s rq v).held = s.held := by
  simp [vglStepWrite]
@[simp] theorem slewInc_held (s : State) : (slewInc s).held = s.held := by
  simp [slewInc]
@[simp] theorem ppsEdge_held (s : State) : (ppsEdge s).held = s.held := by
  simp [ppsEdge]
@[simp] theorem switchRef_held (s : State) (d : Die) : (switchRef s d).held = s.held := by
  simp [switchRef]
@[simp] theorem tcxoRecovery_held (s : State) : (tcxoRecovery s).held = s.held := by
  simp [tcxoRecovery]
@[simp] theorem putBitF_held (s : State) (f : Fld) (d : Die) (i b : Nat) (v : Bool) : (putBitF s f d i b v).held = s.held := by
  simp [putBitF]

/-! ### Registers -/

@[simp] theorem latch_held (s : State) (rq : Requester) (k v : Nat) : (latch s rq k v).held = s.held := by
  simp [latch]
@[simp] theorem tseqStatRead_held (s : State) (d : Die) (h : Nat) (inspect : Bool) : (tseqStatRead s d h inspect).1.held = s.held := by
  simp [tseqStatRead]
@[simp] theorem beatLoRead_held (s : State) (rq : Requester) (d : Die) (cmt inspect : Bool) : (beatLoRead s rq d cmt inspect).1.held = s.held := by
  simp [beatLoRead]
@[simp] theorem devBeatLoRead_held (s : State) (rq : Requester) (inspect : Bool) : (devBeatLoRead s rq inspect).1.held = s.held := by
  simp [devBeatLoRead]
@[simp] theorem timeFracRead_held (s : State) (rq : Requester) (inspect : Bool) : (timeFracRead s rq inspect).1.held = s.held := by
  simp [timeFracRead]
@[simp] theorem regRead_held (s : State) (rq : Requester) (d : Die) (r : Reg) (i : Nat) (inspect : Bool) : (regRead s rq d r i inspect).1.held = s.held := by
  simp only [regRead]; (repeat' split) <;> simp
@[simp] theorem bpWrite_held (s : State) (d : Die) (r : Reg) (i : Nat) (v : Word) : (bpWrite s d r i v).held = s.held := by
  simp [bpWrite]
@[simp] theorem swapCtlWrite_held (s : State) (d : Die) (h : Nat) (v : Word) : (swapCtlWrite s d h v).held = s.held := by
  simp [swapCtlWrite]
@[simp] theorem bankCtlWrite_held (s : State) (d : Die) (h : Nat) (v : Word) : (bankCtlWrite s d h v).held = s.held := by
  simp [bankCtlWrite]
@[simp] theorem qbvCtlWrite_held (s : State) (d : Die) (m : Nat) (v : Word) : (qbvCtlWrite s d m v).held = s.held := by
  simp [qbvCtlWrite]
@[simp] theorem brdCtlWrite_held (s : State) (d : Die) (v : Word) : (brdCtlWrite s d v).held = s.held := by
  simp [brdCtlWrite]
@[simp] theorem mtCtlWrite_held (s : State) (d : Die) (v : Word) : (mtCtlWrite s d v).held = s.held := by
  simp [mtCtlWrite]
@[simp] theorem gateWrite_held (s : State) (rq : Requester) (r : Reg) (d : Die) (g : Nat) (v : Word) : (gateWrite s rq r d g v).held = s.held := by
  simp [gateWrite]
@[simp] theorem evtEnWrite_held (s : State) (v : Word) : (evtEnWrite s v).held = s.held := by
  simp [evtEnWrite]
@[simp] theorem msixCtlWrite_held (s : State) (v : Nat) (w : Word) : (msixCtlWrite s v w).held = s.held := by
  simp [msixCtlWrite]
@[simp] theorem queueWrite_held (s : State) (r : Reg) (q : Nat) (v : Word) : (queueWrite s r q v).held = s.held := by
  simp [queueWrite]
@[simp] theorem yarnOvfWrite_held (s : State) (rq : Requester) (d : Die) (v : Word) : (yarnOvfWrite s rq d v).held = s.held := by
  simp only [yarnOvfWrite]; (repeat' split) <;> simp

/-! ### Access -/

@[simp] theorem placeRead_held (s : State) (rq : Requester) (d : Die) (inspect : Bool) (p : Place) :
    (placeRead s rq d inspect p).1.held = s.held := by
  cases p <;> simp only [placeRead] <;> (repeat' split) <;> simp
@[simp] theorem blockAsleep_held (s : State) (rq : Requester) (d : Die) (off : Nat) (w : Option Word) (inspect : Bool) (blk : Block) : (blockAsleep s rq d off w inspect blk).1.held = s.held := by
  simp only [blockAsleep]; (repeat' split) <;> simp
@[simp] theorem bankAccess_held (s : State) (rq : Requester) (d : Die) (o : Nat) (w : Option Word) (f : Finds) : (bankAccess s rq d o w f).1.held = s.held := by
  simp only [bankAccess]; (repeat' split) <;> simp
@[simp] theorem stackAccess_held (s : State) (rq : Requester) (d : Die) (o : Nat) (w : Option Word) (f : Finds) : (stackAccess s rq d o w f).1.held = s.held := by
  simp only [stackAccess]; (repeat' split) <;> simp
@[simp] theorem diagRecord_held (s : State) (off : Nat) (status : Nat) : (diagRecord s off status).held = s.held := by
  simp [diagRecord]
@[simp] theorem diagBadRead_held (s : State) (width : Nat) : (diagBadRead s width).held = s.held := by
  simp [diagBadRead]
@[simp] theorem diagValue_held (s : State) (status : Nat) (v : Word) : (diagValue s status v).held = s.held := by
  simp [diagValue]
@[simp] theorem windowRead_held (s : State) (off width : Nat) : (windowRead s off width).held = s.held := by
  simp [windowRead]

/-! ### Packets -/

@[simp] theorem respondData_held (s : State) (p : Packet) (data : List Byte) : (respondData s p data).held = s.held := by
  simp [respondData]
@[simp] theorem bankPacket_held (s : State) (d : Die) (h : Nat) (p : Packet) (f : Finds) : (bankPacket s d h p f).held = s.held := by
  simp [bankPacket]
@[simp] theorem writeUnits_held (s : State) (d : Die) (us : List Nat) (bs : List Byte) : (writeUnits s d us bs).held = s.held := by
  simp [writeUnits]
@[simp] theorem checkUnits_held (s : State) (d : Die) (us : List Nat) (f : Finds) : (checkUnits s d us f).1.held = s.held := by
  simp [checkUnits]
@[simp] theorem stackPacket_held (s : State) (d : Die) (g : Nat) (p : Packet) (f : Finds) : (stackPacket s d g p f).held = s.held := by
  simp [stackPacket]
@[simp] theorem wordsPacket_held (s : State) (d : Die) (p : Packet) : (wordsPacket s d p).held = s.held := by
  simp only [wordsPacket]; (repeat' split) <;> simp
@[simp] theorem takeResponse_held (s : State) (p : Packet) : (takeResponse s p).held = s.held := by
  simp [takeResponse]
@[simp] theorem lostPacket_held (s : State) (d : Die) (p : Packet) : (lostPacket s d p).held = s.held := by
  simp [lostPacket]
@[simp] theorem crossPacket_held (s : State) (d : Die) (p : Packet) : (crossPacket s d p).held = s.held := by
  simp [crossPacket]
@[simp] theorem flitUe_held (s : State) (d : Die) (router : Nat) : (flitUe s d router).held = s.held := by
  simp [flitUe]

/-! ### Debug -/

@[simp] theorem svBreak_held (s : State) (low : Nat) : (svBreak s low).held = s.held := by
  simp [svBreak]
@[simp] theorem svAbandon_held (s : State) : (svAbandon s).held = s.held := by
  simp [svAbandon]
@[simp] theorem svRequest_held (s : State) (q : SvReq) (need : Nat) (f : State → State) (hf : ∀ t, (f t).held = t.held) :
    (svRequest s q need f).held = s.held := by
  simp [svRequest, hf]
@[simp] theorem svIdent_held (s : State) : (svIdent s).held = s.held := by
  simp [svIdent]
@[simp] theorem svAsleep_held (s : State) : (svAsleep s).held = s.held := by
  simp only [svAsleep]; (repeat' split) <;> simp
@[simp] theorem svStatusDo_held (s : State) : (svStatusDo s).held = s.held := by
  simp [svStatusDo]
@[simp] theorem svChallenge_held (s : State) : (svChallenge s).held = s.held := by
  simp [svChallenge]
@[simp] theorem unlockFailed_held (s : State) : (unlockFailed s).held = s.held := by
  simp [unlockFailed]
@[simp] theorem svUnlock_held (s : State) (scope : Byte) (slot : Nat) (key sig : List Byte) : (svUnlock s scope slot key sig).held = s.held := by
  simp [svUnlock]
@[simp] theorem svLock_held (s : State) : (svLock s).held = s.held := by
  simp [svLock]
@[simp] theorem svHalt_held (s : State) (d : Die) (t : HaltTarget) (h : Nat) (hard linked : Bool) : (svHalt s d t h hard linked).held = s.held := by
  simp only [svHalt]; (repeat' split) <;> simp
@[simp] theorem resumeHarness_held (s : State) (d : Die) (h : Nat) : (resumeHarness s d h).held = s.held := by
  simp [resumeHarness]
@[simp] theorem svResume_held (s : State) (d : Die) (t : HaltTarget) (h : Nat) : (svResume s d t h).held = s.held := by
  simp only [svResume]; (repeat' split) <;> simp
@[simp] theorem svStepDo_held (s : State) (d : Die) (h cycles : Nat) : (svStepDo s d h cycles).held = s.held := by
  simp [svStepDo]
@[simp] theorem svRelease_held (s : State) : (svRelease s).held = s.held := by
  simp only [svRelease]; (repeat' split) <;> simp

/-! ### Boundary -/

@[simp] theorem beginBeat_held (s : State) (d : Die) (num : BitVec 48) : (beginBeat s d num).held = s.held := by
  simp [beginBeat]
@[simp] theorem rejoinHere_held (s : State) : (rejoinHere s).held = s.held := by
  simp [rejoinHere]
@[simp] theorem lateCommit_held (s : State) (alone : Bool) (d : Die) : (lateCommit s alone d).held = s.held := by
  simp [lateCommit]
@[simp] theorem saveDescs_held (s : State) (d : Die) : (saveDescs s d).held = s.held := by
  simp [saveDescs]
@[simp] theorem resyncTwin_held (s : State) (n : Nat) : (resyncTwin s n).held = s.held := by
  simp [resyncTwin]
@[simp] theorem resyncTwins_held (s : State) : (resyncTwins s).held = s.held := by
  simp [resyncTwins]
@[simp] theorem markBobs_held (s : State) (d : Die) : (markBobs s d).held = s.held := by
  simp [markBobs]
@[simp] theorem boundaryCuts_held (s : State) (d : Die) : (boundaryCuts s d).held = s.held := by
  simp [boundaryCuts]

/-! ### Cores -/

@[simp] theorem setCoreReg_held (s : State) (d : Die) (r : Fin 16) (v : BitVec 64) : (setCoreReg s d r v).held = s.held := by
  simp [setCoreReg]
@[simp] theorem setSpill_held (s : State) (d : Die) (bank base limit : Nat) : (setSpill s d bank base limit).held = s.held := by
  simp [setSpill]
@[simp] theorem setTimer_held (s : State) (d : Die) (t : Nat) (us : Option Nat) : (setTimer s d t us).held = s.held := by
  simp [setTimer]

/-! ### DomainSteps -/

@[simp] theorem dropAccess_held (s : State) (d : Die) (i : Nat) (a : HeldAcc) : (dropAccess s d i a).held = s.held := by
  simp only [dropAccess]; (repeat' split) <;> simp
@[simp] theorem dropHeld_held (s : State) (d : Die) (i : Nat) : (dropHeld s d i).held = s.held := by
  simp [dropHeld]

end Sys2Proof.Machine
end

