-- ==== Sys2Proof/Laws/Kept.lean ====
section
/-! SUPPORT. What the operations that may discard staged commands leave alone, and from it one lemma for each command: no command
changes the queue or the fuses, and none takes the staged commands over the bound of R332. -/

set_option linter.unusedTactic false
set_option linter.unreachableTactic false

namespace Sys2Proof.Machine

/-- The queue and the fuses are as before, and there are no more staged commands than before. -/
def Kept (a b : List Instr × Fuses × List Staged) : Prop :=
  b.1 = a.1 ∧ b.2.1 = a.2.1 ∧ b.2.2.length ≤ a.2.2.length
@[simp] theorem kept_refl (a : List Instr × Fuses × List Staged) : Kept a a := ⟨rfl, rfl, le_refl _⟩
theorem Kept.trans {a b c : List Instr × Fuses × List Staged} (h : Kept a b) (k : Kept b c) : Kept a c :=
  ⟨k.1.trans h.1, k.2.1.trans h.2.1, k.2.2.trans h.2.2⟩
theorem kept_foldl {α : Type} (f : State → α → State) (h : ∀ s x, Kept s.held (f s x).held) (l : List α) (s : State) :
    Kept s.held (l.foldl f s).held := by
  induction l generalizing s with
  | nil => exact kept_refl _
  | cons x xs ih => exact (h s x).trans (ih _)

theorem kept_mk {a u : State} (v : State) (h : Kept a.held u.held) (hp : v.pending = u.pending) (hf : v.fuses = u.fuses)
    (hs : v.host.staged.length ≤ u.host.staged.length) : Kept a.held v.held :=
  h.trans ⟨hp, hf, hs⟩
theorem resetHost_kept (s : State) : Kept s.held (resetHost s).held := by
  unfold resetHost; extract_lets s1 s2 s3 a
  have h : Kept s.held s3.held := by simp [s3, s2, s1]
  clear_value s3
  exact kept_mk _ h rfl rfl (Nat.zero_le _)
theorem resetDie_kept (s : State) (d : Die) : Kept s.held (resetDie s d).held := by
  unfold resetDie; extract_lets s1 s2 s3 s4 s5 s6 a s7 s8 k b c s9
  have h2 : Kept s.held s2.held := by simp [s2, s1]
  have h3 : Kept s.held s3.held := by
    refine h2.trans ?_
    clear_value s2
    simp only [s3]
    split
    · exact resetHost_kept _
    · exact kept_refl _
  have h6 : Kept s.held s6.held := by
    refine h3.trans ?_
    clear_value s3
    simp [s6, s5, s4]
  have h7 : Kept s.held s7.held := by
    refine h6.trans ?_
    clear_value s6
    simp [s7]
  have h8 : Kept s.held s8.held := by
    refine h7.trans ?_
    clear_value s7
    simp [s8]
  have h9 : Kept s.held s9.held := by
    clear_value s8
    exact kept_mk _ h8 rfl rfl (le_refl _)
  refine h9.trans ?_
  clear_value s9
  simp
theorem resetDevice_kept (s : State) : Kept s.held (resetDevice s).held := by
  unfold resetDevice; extract_lets s1 s2
  have h1 : Kept s.held s1.held := (resetDie_kept s 0).trans (resetDie_kept _ 1)
  have h2 : Kept s.held s2.held := h1.trans (by simp [s2])
  refine h2.trans ?_
  clear_value s2
  simp
theorem resetPower_kept (s : State) : Kept s.held (resetPower s).held := by
  unfold resetPower
  exact ⟨rfl, rfl, Nat.zero_le _⟩
theorem applyReset_kept (s : State) (x : ResetAt) : Kept s.held (applyReset s x).held := by
  unfold applyReset
  split
  · exact resetPower_kept _
  · exact resetDevice_kept _
  · exact resetDie_kept ..
  · exact resetHost_kept _
  · simp
  · simp
theorem assertReset_kept (s : State) (src : Nat) (x : ResetAt) : Kept s.held (assertReset s src x).held := by
  unfold assertReset; (try dsimp only); (repeat' (first | (simp; done) | split | (refine Kept.trans ?_ (applyReset_kept ..)) | (refine Kept.trans ?_ (kept_foldl _ (fun _ _ => applyReset_kept ..) _ _)) | (dsimp only; split) | (simp; split) | (simp; refine Kept.trans ?_ (applyReset_kept ..)) | (simp; refine Kept.trans ?_ (kept_foldl _ (fun _ _ => applyReset_kept ..) _ _))))
theorem clockFail_kept (s : State) (d : Die) (h : Nat) : Kept s.held (clockFail s d h).held := by
  unfold clockFail; (try dsimp only); (repeat' (first | (simp; done) | split | (refine Kept.trans ?_ (assertReset_kept ..)) | (refine Kept.trans ?_ (kept_foldl _ (fun _ _ => assertReset_kept ..) _ _)) | (dsimp only; split) | (simp; split) | (simp; refine Kept.trans ?_ (assertReset_kept ..)) | (simp; refine Kept.trans ?_ (kept_foldl _ (fun _ _ => assertReset_kept ..) _ _))))
theorem hostReset_kept (s : State) : Kept s.held (hostReset s).held := by
  unfold hostReset; (try dsimp only); (repeat' (first | (simp; done) | split | (refine Kept.trans ?_ (assertReset_kept ..)) | (refine Kept.trans ?_ (kept_foldl _ (fun _ _ => assertReset_kept ..) _ _)) | (dsimp only; split) | (simp; split) | (simp; refine Kept.trans ?_ (assertReset_kept ..)) | (simp; refine Kept.trans ?_ (kept_foldl _ (fun _ _ => assertReset_kept ..) _ _))))
theorem cxlDown_kept (s : State) : Kept s.held (cxlDown s).held := by
  unfold cxlDown; (try dsimp only); (repeat' (first | (simp; done) | split | (refine Kept.trans ?_ (hostReset_kept ..)) | (refine Kept.trans ?_ (kept_foldl _ (fun _ _ => hostReset_kept ..) _ _)) | (dsimp only; split) | (simp; split) | (simp; refine Kept.trans ?_ (hostReset_kept ..)) | (simp; refine Kept.trans ?_ (kept_foldl _ (fun _ _ => hostReset_kept ..) _ _))))
theorem domLoses_kept (s : State) (d : Die) (i : Nat) (t : DState) : Kept s.held (domLoses s d i t).held := by
  unfold domLoses; (try dsimp only); (repeat' (first | (simp; done) | split | (refine Kept.trans ?_ (cxlDown_kept ..)) | (refine Kept.trans ?_ (kept_foldl _ (fun _ _ => cxlDown_kept ..) _ _)) | (dsimp only; split) | (simp; split) | (simp; refine Kept.trans ?_ (cxlDown_kept ..)) | (simp; refine Kept.trans ?_ (kept_foldl _ (fun _ _ => cxlDown_kept ..) _ _))))
theorem domFails_kept (s : State) (d : Die) (i err : Nat) : Kept s.held (domFails s d i err).held := by
  unfold domFails
  extract_lets m s1 s2 s3 s4
  have h1 : Kept s.held s1.held := by
    simp only [s1]
    split
    · exact kept_refl _
    · exact domLoses_kept ..
  have h4 : s4.held = s1.held := by
    simp only [s4]
    split <;> simp [s3, s2]
  rw [startUps_held, endWait_held, h4]
  exact h1
theorem domIsDown_kept (s : State) (d : Die) (i : Nat) : Kept s.held (domIsDown s d i).held := by
  unfold domIsDown
  extract_lets m s1 s2
  have h1 : Kept s.held s1.held := by
    have h : s1.held = (domLoses s d i m.fall).held := by simp only [s1, setDom_held]
    rw [h]
    exact domLoses_kept ..
  have h2 : s2.held = s1.held := by
    clear_value s1
    simp only [s2]
    split <;> simp
  clear_value s2
  simpa [h2] using h1
theorem domStep_kept (s : State) (d : Die) (i : Nat) (ok : Bool) : Kept s.held (domStep s d i ok).held := by
  unfold domStep
  extract_lets m go
  have hg (t : DStep) : (go t).held = s.held := by simp [go]
  clear_value go
  cases m.step <;> dsimp only
  case u4 =>
    split
    · rename_i t _
      have h : t.held = s.held := by simp [t]
      clear_value t
      split <;> simp [h]
    · split
      · simp
      · exact domFails_kept s d i 2
  all_goals (repeat' split) <;>
    first
    | (simp [hg]; done)
    | with_reducible exact domFails_kept s d i 2
    | (refine Kept.trans ?_ (domRestores_kept ..); simp; done)
    | with_reducible exact domIsDown_kept s d i
theorem tempRead_kept (s : State) (d : Die) (t : Int) : Kept s.held (tempRead s d t).held := by
  unfold tempRead; (try dsimp only); (repeat' (first | (simp; done) | split | (refine Kept.trans ?_ (assertReset_kept ..)) | (refine Kept.trans ?_ (kept_foldl _ (fun _ _ => assertReset_kept ..) _ _)) | (dsimp only; split) | (simp; split) | (simp; refine Kept.trans ?_ (assertReset_kept ..)) | (simp; refine Kept.trans ?_ (kept_foldl _ (fun _ _ => assertReset_kept ..) _ _))))
theorem disableQp_kept (s : State) (q : Nat) (v : Word) : Kept s.held (disableQp s q v).held := by
  unfold disableQp; extract_lets s1 mine a s2 s3 b
  have h1 : Kept s.held s1.held := by simp [s1]
  have h2 : Kept s1.held s2.held := by
    clear_value s1
    exact kept_mk _ (kept_refl _) rfl rfl (List.length_filter_le _ _)
  have h3 : Kept s2.held s3.held := by
    clear_value s2
    simp [s3]
  refine h1.trans (h2.trans (h3.trans ?_))
  clear_value s3
  simp
theorem qpCtlWrite_kept (s : State) (q : Nat) (v : Word) : Kept s.held (qpCtlWrite s q v).held := by
  unfold qpCtlWrite; (try dsimp only); (repeat' (first | (simp; done) | split | (refine Kept.trans ?_ (disableQp_kept ..)) | (refine Kept.trans ?_ (kept_foldl _ (fun _ _ => disableQp_kept ..) _ _)) | (dsimp only; split) | (simp; split) | (simp; refine Kept.trans ?_ (disableQp_kept ..)) | (simp; refine Kept.trans ?_ (kept_foldl _ (fun _ _ => disableQp_kept ..) _ _))))
theorem enterD3hot_kept (s : State) : Kept s.held (enterD3hot s).held := by
  unfold enterD3hot; extract_lets s1 a
  have h1 : Kept s.held s1.held := by
    refine kept_foldl _ (fun t q => ?_) _ _
    split
    · exact disableQp_kept ..
    · exact kept_refl _
  clear_value s1
  exact kept_mk _ h1 rfl rfl (le_refl _)
theorem resetOp_kept (s : State) (c : HostCmd) : Kept s.held (resetOp s c).held := by
  unfold resetOp; (try dsimp only); (repeat' (first | (simp; done) | split | (refine Kept.trans ?_ (assertReset_kept ..)) | (refine Kept.trans ?_ (hostReset_kept ..)) | (refine Kept.trans ?_ (kept_foldl _ (fun _ _ => assertReset_kept ..) _ _)) | (refine Kept.trans ?_ (kept_foldl _ (fun _ _ => hostReset_kept ..) _ _)) | (dsimp only; split) | (simp; split) | (simp; refine Kept.trans ?_ (assertReset_kept ..)) | (simp; refine Kept.trans ?_ (hostReset_kept ..)) | (simp; refine Kept.trans ?_ (kept_foldl _ (fun _ _ => assertReset_kept ..) _ _)) | (simp; refine Kept.trans ?_ (kept_foldl _ (fun _ _ => hostReset_kept ..) _ _))))
theorem lockUp_kept (s : State) (d : Die) (cause : Nat) : Kept s.held (lockUp s d cause).held := by
  unfold lockUp; (try dsimp only); (repeat' (first | (simp; done) | split | (refine Kept.trans ?_ (assertReset_kept ..)) | (refine Kept.trans ?_ (kept_foldl _ (fun _ _ => assertReset_kept ..) _ _)) | (dsimp only; split) | (simp; split) | (simp; refine Kept.trans ?_ (assertReset_kept ..)) | (simp; refine Kept.trans ?_ (kept_foldl _ (fun _ _ => assertReset_kept ..) _ _))))
theorem enterFault_kept (s : State) (d : Die) : Kept s.held (enterFault s d).held := by
  unfold enterFault; (try dsimp only); (repeat' (first | (simp; done) | split | (refine Kept.trans ?_ (lockUp_kept ..)) | (refine Kept.trans ?_ (kept_foldl _ (fun _ _ => lockUp_kept ..) _ _)) | (dsimp only; split) | (simp; split) | (simp; refine Kept.trans ?_ (lockUp_kept ..)) | (simp; refine Kept.trans ?_ (kept_foldl _ (fun _ _ => lockUp_kept ..) _ _))))
theorem linePending_kept (s : State) (d : Die) (line : Nat) : Kept s.held (linePending s d line).held := by
  unfold linePending; (try dsimp only); (repeat' (first | (simp; done) | split | (refine Kept.trans ?_ (enterFault_kept ..)) | (refine Kept.trans ?_ (kept_foldl _ (fun _ _ => enterFault_kept ..) _ _)) | (dsimp only; split) | (simp; split) | (simp; refine Kept.trans ?_ (enterFault_kept ..)) | (simp; refine Kept.trans ?_ (kept_foldl _ (fun _ _ => enterFault_kept ..) _ _))))
theorem overflowTrap_kept (s : State) (d : Die) (bank free : Nat) : Kept s.held (overflowTrap s d bank free).held := by
  unfold overflowTrap; (try dsimp only); (repeat' (first | (simp; done) | split | (refine Kept.trans ?_ (lockUp_kept ..)) | (refine Kept.trans ?_ (enterFault_kept ..)) | (refine Kept.trans ?_ (kept_foldl _ (fun _ _ => lockUp_kept ..) _ _)) | (refine Kept.trans ?_ (kept_foldl _ (fun _ _ => enterFault_kept ..) _ _)) | (dsimp only; split) | (simp; split) | (simp; refine Kept.trans ?_ (lockUp_kept ..)) | (simp; refine Kept.trans ?_ (enterFault_kept ..)) | (simp; refine Kept.trans ?_ (kept_foldl _ (fun _ _ => lockUp_kept ..) _ _)) | (simp; refine Kept.trans ?_ (kept_foldl _ (fun _ _ => enterFault_kept ..) _ _))))
theorem fireTimers_kept (s : State) (d : Die) : Kept s.held (fireTimers s d).held := by
  unfold fireTimers
  refine kept_foldl _ (fun t e => ?_) _ _
  refine Kept.trans ?_ (linePending_kept ..)
  rw [modRt_held]
  exact kept_refl _
theorem timersAt_kept (s : State) : Kept s.held (timersAt s).held := by
  unfold timersAt; (try dsimp only); (repeat' (first | (simp; done) | split | (refine Kept.trans ?_ (fireTimers_kept ..)) | (refine Kept.trans ?_ (kept_foldl _ (fun _ _ => fireTimers_kept ..) _ _)) | (dsimp only; split) | (simp; split) | (simp; refine Kept.trans ?_ (fireTimers_kept ..)) | (simp; refine Kept.trans ?_ (kept_foldl _ (fun _ _ => fireTimers_kept ..) _ _))))
theorem wdtPrewarn_kept (s : State) (d : Die) : Kept s.held (wdtPrewarn s d).held := by
  unfold wdtPrewarn; (try dsimp only); (repeat' (first | (simp; done) | split | (refine Kept.trans ?_ (enterFault_kept ..)) | (refine Kept.trans ?_ (kept_foldl _ (fun _ _ => enterFault_kept ..) _ _)) | (dsimp only; split) | (simp; split) | (simp; refine Kept.trans ?_ (enterFault_kept ..)) | (simp; refine Kept.trans ?_ (kept_foldl _ (fun _ _ => enterFault_kept ..) _ _))))
theorem wdtFire_kept (s : State) (d : Die) : Kept s.held (wdtFire s d).held := by
  unfold wdtFire
  extract_lets level now s1 s2
  have h1 : Kept s.held s1.held := assertReset_kept ..
  refine h1.trans ?_
  clear_value s1
  split
  · simp [s2]
  · split <;> simp [s2]
theorem wdtExpire_kept (s : State) (d : Die) : Kept s.held (wdtExpire s d).held := by
  unfold wdtExpire
  split
  · exact wdtFire_kept ..
  · exact kept_refl _
theorem loadDone_kept (s : State) (d : Die) : Kept s.held (loadDone s d).held := by
  unfold loadDone; (try dsimp only); (repeat' (first | (simp; done) | split | (refine Kept.trans ?_ (linePending_kept ..)) | (refine Kept.trans ?_ (kept_foldl _ (fun _ _ => linePending_kept ..) _ _)) | (dsimp only; split) | (simp; split) | (simp; refine Kept.trans ?_ (linePending_kept ..)) | (simp; refine Kept.trans ?_ (kept_foldl _ (fun _ _ => linePending_kept ..) _ _))))
theorem startupStep_kept (s : State) (d : Die) : Kept s.held (startupStep s d).held := by
  unfold startupStep; (try dsimp only); (repeat' (first | (simp; done) | split | (refine Kept.trans ?_ (loadDone_kept ..)) | (refine Kept.trans ?_ (kept_foldl _ (fun _ _ => loadDone_kept ..) _ _)) | (dsimp only; split) | (simp; split) | (simp; refine Kept.trans ?_ (loadDone_kept ..)) | (simp; refine Kept.trans ?_ (kept_foldl _ (fun _ _ => loadDone_kept ..) _ _))))
theorem sourceAssert_kept (s : State) (d : Die) (src : Nat) : Kept s.held (sourceAssert s d src).held := by
  unfold sourceAssert; (try dsimp only); (repeat' (first | (simp; done) | split | (refine Kept.trans ?_ (assertReset_kept ..)) | (refine Kept.trans ?_ (kept_foldl _ (fun _ _ => assertReset_kept ..) _ _)) | (dsimp only; split) | (simp; split) | (simp; refine Kept.trans ?_ (assertReset_kept ..)) | (simp; refine Kept.trans ?_ (kept_foldl _ (fun _ _ => assertReset_kept ..) _ _))))
theorem rstReq_kept (s : State) (rq : Requester) (d : Die) (v : Word) : Kept s.held (rstReq s rq d v).held := by
  unfold rstReq; (try dsimp only); (repeat' (first | (simp; done) | split | (refine Kept.trans ?_ (assertReset_kept ..)) | (refine Kept.trans ?_ (kept_foldl _ (fun _ _ => assertReset_kept ..) _ _)) | (dsimp only; split) | (simp; split) | (simp; refine Kept.trans ?_ (assertReset_kept ..)) | (simp; refine Kept.trans ?_ (kept_foldl _ (fun _ _ => assertReset_kept ..) _ _))))
theorem swapDone_kept (s : State) (d : Die) (res : SwapResult) : Kept s.held (swapDone s d res).held := by
  unfold swapDone
  split
  · exact kept_refl _
  · split
    · exact kept_refl _
    · extract_lets t
      have h : Kept s.held t.held := by simp [t]
      refine h.trans ?_
      clear_value t
      split
      · split <;> simp
      · simp
      · exact wdtFire_kept ..
theorem parkDom_kept (t : DState) (s : State) (d : Die) (i : Nat) : Kept s.held (parkDom t s d i).held := by
  unfold parkDom; (try dsimp only); (repeat' (first | (simp; done) | split | (refine Kept.trans ?_ (domLoses_kept ..)) | (refine Kept.trans ?_ (kept_foldl _ (fun _ _ => domLoses_kept ..) _ _)) | (dsimp only; split) | (simp; split) | (simp; refine Kept.trans ?_ (domLoses_kept ..)) | (simp; refine Kept.trans ?_ (kept_foldl _ (fun _ _ => domLoses_kept ..) _ _))))
theorem parkRange_kept (s : State) (t : DState) (lo n : Nat) : Kept s.held (parkRange s t lo n).held := by
  unfold parkRange; (try dsimp only); (repeat' (first | (simp; done) | split | (refine Kept.trans ?_ (parkDom_kept ..)) | (refine Kept.trans ?_ (kept_foldl _ (fun _ _ => parkDom_kept ..) _ _)) | (dsimp only; split) | (simp; split) | (simp; refine Kept.trans ?_ (parkDom_kept ..)) | (simp; refine Kept.trans ?_ (kept_foldl _ (fun _ _ => parkDom_kept ..) _ _))))
theorem parkAll_kept (s : State) : Kept s.held (parkAll s).held := by
  unfold parkAll
  extract_lets s1 s2
  have h1 : Kept s.held s1.held := (parkRange_kept ..).trans (parkRange_kept ..)
  have h2 : Kept s1.held s2.held := (parkRange_kept ..).trans (parkRange_kept ..)
  have h3 : Kept s2.held (stopDogs (parkRange (parkRange s2 .ret 48 8) .off 61 1)).held := by
    rw [stopDogs_held]
    exact (parkRange_kept ..).trans (parkRange_kept ..)
  exact ((h1.trans h2).trans h3).trans (parkRange_kept ..)
theorem wakeVigil_kept (s : State) : Kept s.held (wakeVigil s).held := by
  unfold wakeVigil; extract_lets a s1 s2 b
  have h1 : Kept s.held s1.held := by
    refine Kept.trans (b := State.held { s with rst := { a with vigil := false } }) ?_ (applyReset_kept ..)
    simp
  refine h1.trans ?_
  clear_value s1
  simp [s2]
theorem leave_kept (s : State) (c : WakeCause) : Kept s.held (leave s c).held := by
  unfold leave; (try dsimp only); (repeat' (first | (simp; done) | split | (refine Kept.trans ?_ (wakeVigil_kept ..)) | (refine Kept.trans ?_ (kept_foldl _ (fun _ _ => wakeVigil_kept ..) _ _)) | (dsimp only; split) | (simp; split) | (simp; refine Kept.trans ?_ (wakeVigil_kept ..)) | (simp; refine Kept.trans ?_ (kept_foldl _ (fun _ _ => wakeVigil_kept ..) _ _))))
theorem wakeEvent_kept (s : State) (c : WakeCause) : Kept s.held (wakeEvent s c).held := by
  unfold wakeEvent; (try dsimp only); (repeat' (first | (simp; done) | split | (refine Kept.trans ?_ (leave_kept ..)) | (refine Kept.trans ?_ (kept_foldl _ (fun _ _ => leave_kept ..) _ _)) | (dsimp only; split) | (simp; split) | (simp; refine Kept.trans ?_ (leave_kept ..)) | (simp; refine Kept.trans ?_ (kept_foldl _ (fun _ _ => leave_kept ..) _ _))))
theorem heldWakeNow_kept (s : State) : Kept s.held (heldWakeNow s).held := by
  unfold heldWakeNow; (try dsimp only); (repeat' (first | (simp; done) | split | (refine Kept.trans ?_ (leave_kept ..)) | (refine Kept.trans ?_ (kept_foldl _ (fun _ _ => leave_kept ..) _ _)) | (dsimp only; split) | (simp; split) | (simp; refine Kept.trans ?_ (leave_kept ..)) | (simp; refine Kept.trans ?_ (kept_foldl _ (fun _ _ => leave_kept ..) _ _))))
theorem dozeEntry_kept (s : State) : Kept s.held (dozeEntry s).held := by
  unfold dozeEntry
  split
  · exact kept_refl _
  · split
    · exact kept_refl _
    · extract_lets a s1 u b c s2
      split
      · rw [endWait_held]; exact kept_refl _
      · rw [setF_held]
        refine Kept.trans ?_ (parkAll_kept _)
        have h : Kept s.held u.held := by simp only [u]; rw [endWait_held]; exact kept_refl _
        clear_value u
        exact kept_mk _ h rfl rfl (le_refl _)
theorem vigilEntry_kept (s : State) : Kept s.held (vigilEntry s).held := by
  unfold vigilEntry
  split
  · exact kept_refl _
  · extract_lets s1 a s2 b
    have h1 : Kept s.held s1.held :=
      (((parkRange_kept ..).trans (parkRange_kept ..)).trans (parkRange_kept ..)).trans (parkRange_kept ..)
    refine Kept.trans ?_ (heldWakeNow_kept _)
    rw [setF_held]
    clear_value s1
    exact kept_mk _ h1 rfl rfl (le_refl _)
theorem vigilTick_kept (s : State) : Kept s.held (vigilTick s).held := by
  unfold vigilTick; (try dsimp only); (repeat' (first | (simp; done) | split | (refine Kept.trans ?_ (timersAt_kept ..)) | (refine Kept.trans ?_ (kept_foldl _ (fun _ _ => timersAt_kept ..) _ _)) | (dsimp only; split) | (simp; split) | (simp; refine Kept.trans ?_ (timersAt_kept ..)) | (simp; refine Kept.trans ?_ (kept_foldl _ (fun _ _ => timersAt_kept ..) _ _))))
theorem tcxoFail_kept (s : State) (reference : Bool) : Kept s.held (tcxoFail s reference).held := by
  unfold tcxoFail
  split
  · exact kept_refl _
  · extract_lets s1 a s2 bad s3
    have h2 : Kept s.held s2.held := by simp [s2, s1]
    have h3 : Kept s2.held s3.held := by
      clear_value s2
      have h (o : List Die) : Kept s2.held (match o with
          | d :: _ => if s2.rst.asserted.any (fun a => decide (a.src = 7)) then s2
              else assertReset s2 7 { level := reachOf s2 d 7, die := d, har := 0 }
          | [] => s2 : State).held := by
        cases o with
        | nil => exact kept_refl _
        | cons d ds =>
          dsimp only
          split
          · exact kept_refl _
          · exact assertReset_kept ..
      exact h bad
    refine h2.trans (h3.trans ?_)
    clear_value s3
    simp
theorem vigilAct_kept (s : State) (act line : Nat) (c : WakeCause) : Kept s.held (vigilAct s act line c).held := by
  unfold vigilAct; (try dsimp only); (repeat' (first | (simp; done) | split | (refine Kept.trans ?_ (linePending_kept ..)) | (refine Kept.trans ?_ (wakeEvent_kept ..)) | (refine Kept.trans ?_ (kept_foldl _ (fun _ _ => linePending_kept ..) _ _)) | (refine Kept.trans ?_ (kept_foldl _ (fun _ _ => wakeEvent_kept ..) _ _)) | (dsimp only; split) | (simp; split) | (simp; refine Kept.trans ?_ (linePending_kept ..)) | (simp; refine Kept.trans ?_ (wakeEvent_kept ..)) | (simp; refine Kept.trans ?_ (kept_foldl _ (fun _ _ => linePending_kept ..) _ _)) | (simp; refine Kept.trans ?_ (kept_foldl _ (fun _ _ => wakeEvent_kept ..) _ _))))
theorem alarmFire_kept (s : State) (a : Fin 4) : Kept s.held (alarmFire s a).held := by
  unfold alarmFire; (try dsimp only); (repeat' (first | (simp; done) | split | (refine Kept.trans ?_ (vigilAct_kept ..)) | (refine Kept.trans ?_ (kept_foldl _ (fun _ _ => vigilAct_kept ..) _ _)) | (dsimp only; split) | (simp; split) | (simp; refine Kept.trans ?_ (vigilAct_kept ..)) | (simp; refine Kept.trans ?_ (kept_foldl _ (fun _ _ => vigilAct_kept ..) _ _))))
theorem comparatorTrip_kept (s : State) (c : Fin 8) : Kept s.held (comparatorTrip s c).held := by
  unfold comparatorTrip; (try dsimp only); (repeat' (first | (simp; done) | split | (refine Kept.trans ?_ (vigilAct_kept ..)) | (refine Kept.trans ?_ (kept_foldl _ (fun _ _ => vigilAct_kept ..) _ _)) | (dsimp only; split) | (simp; split) | (simp; refine Kept.trans ?_ (vigilAct_kept ..)) | (simp; refine Kept.trans ?_ (kept_foldl _ (fun _ _ => vigilAct_kept ..) _ _))))
theorem regWriteAt_kept (s : State) (rq : Requester) (d : Die) (r : Reg) (i : Nat) (v : Word) : Kept s.held (regWriteAt s rq d r i v).held := by
  unfold regWriteAt; (try dsimp only); (repeat' (first | (simp; done) | split | (refine Kept.trans ?_ (qpCtlWrite_kept ..)) | (refine Kept.trans ?_ (rstReq_kept ..)) | (refine Kept.trans ?_ (kept_foldl _ (fun _ _ => qpCtlWrite_kept ..) _ _)) | (refine Kept.trans ?_ (kept_foldl _ (fun _ _ => rstReq_kept ..) _ _)) | (dsimp only; split) | (simp; split) | (simp; refine Kept.trans ?_ (qpCtlWrite_kept ..)) | (simp; refine Kept.trans ?_ (rstReq_kept ..)) | (simp; refine Kept.trans ?_ (kept_foldl _ (fun _ _ => qpCtlWrite_kept ..) _ _)) | (simp; refine Kept.trans ?_ (kept_foldl _ (fun _ _ => rstReq_kept ..) _ _))))
theorem placeWrite_kept (s : State) (rq : Requester) (d : Die) (v : Word) (p : Place) :
    Kept s.held (placeWrite s rq d v p).held := by
  cases p <;> simp only [placeWrite]
  · exact regWriteAt_kept ..
  · split <;> simp
  · split <;> simp
  · split
    · split
      · exact regWriteAt_kept ..
      · simp
    · simp
  · simp
theorem regAccess_kept (s : State) (rq : Requester) (d : Die) (off : Nat) (w : Option Word) (inspect : Bool) : Kept s.held (regAccess s rq d off w inspect).1.held := by
  unfold regAccess; (try dsimp only); (repeat' (first | (simp; done) | split | (refine Kept.trans ?_ (placeWrite_kept ..)) | (refine Kept.trans ?_ (kept_foldl _ (fun _ _ => placeWrite_kept ..) _ _)) | (dsimp only; split) | (simp; split) | (simp; refine Kept.trans ?_ (placeWrite_kept ..)) | (simp; refine Kept.trans ?_ (kept_foldl _ (fun _ _ => placeWrite_kept ..) _ _))))
theorem netAccess_kept (s : State) (rq : Requester) (addr : Nat) (w : Option Word) (inspect : Bool) (f : Finds) : Kept s.held (netAccess s rq addr w inspect f).1.held := by
  unfold netAccess; (try dsimp only); (repeat' (first | (simp; done) | split | (refine Kept.trans ?_ (regAccess_kept ..)) | (refine Kept.trans ?_ (kept_foldl _ (fun _ _ => regAccess_kept ..) _ _)) | (dsimp only; split) | (simp; split) | (simp; refine Kept.trans ?_ (regAccess_kept ..)) | (simp; refine Kept.trans ?_ (kept_foldl _ (fun _ _ => regAccess_kept ..) _ _))))
theorem windowAccess_kept (s : State) (off : Nat) (w : Option Word) (inspect : Bool) (f : Finds) : Kept s.held (windowAccess s off w inspect f).1.held := by
  unfold windowAccess; (try dsimp only); (repeat' (first | (simp; done) | split | (refine Kept.trans ?_ (regAccess_kept ..)) | (refine Kept.trans ?_ (kept_foldl _ (fun _ _ => regAccess_kept ..) _ _)) | (dsimp only; split) | (simp; split) | (simp; refine Kept.trans ?_ (regAccess_kept ..)) | (simp; refine Kept.trans ?_ (kept_foldl _ (fun _ _ => regAccess_kept ..) _ _))))
theorem diagRead_kept (s : State) (off width : Nat) (f : Finds) : Kept s.held (diagRead s off width f).held := by
  unfold diagRead; (try dsimp only); (repeat' (first | (simp; done) | split | (refine Kept.trans ?_ (windowAccess_kept ..)) | (refine Kept.trans ?_ (kept_foldl _ (fun _ _ => windowAccess_kept ..) _ _)) | (dsimp only; split) | (simp; split) | (simp; refine Kept.trans ?_ (windowAccess_kept ..)) | (simp; refine Kept.trans ?_ (kept_foldl _ (fun _ _ => windowAccess_kept ..) _ _))))
theorem windowWord_kept (s : State) (off : Nat) (v : Word) : Kept s.held (windowWord s off v).held := by
  unfold windowWord; (try dsimp only); (repeat' (first | (simp; done) | split | (refine Kept.trans ?_ (regWriteAt_kept ..)) | (refine Kept.trans ?_ (kept_foldl _ (fun _ _ => regWriteAt_kept ..) _ _)) | (dsimp only; split) | (simp; split) | (simp; refine Kept.trans ?_ (regWriteAt_kept ..)) | (simp; refine Kept.trans ?_ (kept_foldl _ (fun _ _ => regWriteAt_kept ..) _ _))))
theorem windowWrite_kept (s : State) (off width : Nat) (v : BitVec 64) : Kept s.held (windowWrite s off width v).held := by
  unfold windowWrite; (try dsimp only); (repeat' (first | (simp; done) | split | (refine Kept.trans ?_ (windowWord_kept ..)) | (refine Kept.trans ?_ (kept_foldl _ (fun _ _ => windowWord_kept ..) _ _)) | (dsimp only; split) | (simp; split) | (simp; refine Kept.trans ?_ (windowWord_kept ..)) | (simp; refine Kept.trans ?_ (kept_foldl _ (fun _ _ => windowWord_kept ..) _ _))))
theorem hostRead_kept (s : State) (sp : HostSpace) (off width : Nat) (f : Finds) : Kept s.held (hostRead s sp off width f).held := by
  unfold hostRead; (try dsimp only); (repeat' (first | (simp; done) | split | (refine Kept.trans ?_ (diagRead_kept ..)) | (refine Kept.trans ?_ (kept_foldl _ (fun _ _ => diagRead_kept ..) _ _)) | (dsimp only; split) | (simp; split) | (simp; refine Kept.trans ?_ (diagRead_kept ..)) | (simp; refine Kept.trans ?_ (kept_foldl _ (fun _ _ => diagRead_kept ..) _ _))))
theorem diagWrite_kept (s : State) (off width : Nat) (v : Word) (f : Finds) : Kept s.held (diagWrite s off width v f).held := by
  unfold diagWrite; (try dsimp only); (repeat' (first | (simp; done) | split | (refine Kept.trans ?_ (windowAccess_kept ..)) | (refine Kept.trans ?_ (kept_foldl _ (fun _ _ => windowAccess_kept ..) _ _)) | (dsimp only; split) | (simp; split) | (simp; refine Kept.trans ?_ (windowAccess_kept ..)) | (simp; refine Kept.trans ?_ (kept_foldl _ (fun _ _ => windowAccess_kept ..) _ _))))
theorem hostWrite_kept (s : State) (sp : HostSpace) (off width : Nat) (v : BitVec 64) (f : Finds) : Kept s.held (hostWrite s sp off width v f).held := by
  unfold hostWrite; (try dsimp only); (repeat' (first | (simp; done) | split | (refine Kept.trans ?_ (windowWrite_kept ..)) | (refine Kept.trans ?_ (diagWrite_kept ..)) | (refine Kept.trans ?_ (kept_foldl _ (fun _ _ => windowWrite_kept ..) _ _)) | (refine Kept.trans ?_ (kept_foldl _ (fun _ _ => diagWrite_kept ..) _ _)) | (dsimp only; split) | (simp; split) | (simp; refine Kept.trans ?_ (windowWrite_kept ..)) | (simp; refine Kept.trans ?_ (diagWrite_kept ..)) | (simp; refine Kept.trans ?_ (kept_foldl _ (fun _ _ => windowWrite_kept ..) _ _)) | (simp; refine Kept.trans ?_ (kept_foldl _ (fun _ _ => diagWrite_kept ..) _ _))))
theorem cfgPacket_kept (s : State) (d : Die) (p : Packet) : Kept s.held (cfgPacket s d p).held := by
  unfold cfgPacket; (try dsimp only); (repeat' (first | (simp; done) | split | (refine Kept.trans ?_ (regAccess_kept ..)) | (refine Kept.trans ?_ (kept_foldl _ (fun _ _ => regAccess_kept ..) _ _)) | (dsimp only; split) | (simp; split) | (simp; refine Kept.trans ?_ (regAccess_kept ..)) | (simp; refine Kept.trans ?_ (kept_foldl _ (fun _ _ => regAccess_kept ..) _ _))))
theorem serveRequest_kept (s : State) (d : Die) (i : Nat) (p : Packet) (f : Finds) : Kept s.held (serveRequest s d i p f).held := by
  unfold serveRequest; (try dsimp only); (repeat' (first | (simp; done) | split | (refine Kept.trans ?_ (cfgPacket_kept ..)) | (refine Kept.trans ?_ (kept_foldl _ (fun _ _ => cfgPacket_kept ..) _ _)) | (dsimp only; split) | (simp; split) | (simp; refine Kept.trans ?_ (cfgPacket_kept ..)) | (simp; refine Kept.trans ?_ (kept_foldl _ (fun _ _ => cfgPacket_kept ..) _ _))))
theorem deliverPacket_kept (s : State) (d : Die) (i : Nat) (p : Packet) (f : Finds) : Kept s.held (deliverPacket s d i p f).held := by
  unfold deliverPacket; (try dsimp only); (repeat' (first | (simp; done) | split | (refine Kept.trans ?_ (serveRequest_kept ..)) | (refine Kept.trans ?_ (kept_foldl _ (fun _ _ => serveRequest_kept ..) _ _)) | (dsimp only; split) | (simp; split) | (simp; refine Kept.trans ?_ (serveRequest_kept ..)) | (simp; refine Kept.trans ?_ (kept_foldl _ (fun _ _ => serveRequest_kept ..) _ _))))
theorem packetIn_kept (s : State) (d : Die) (p : Packet) (f : Finds) : Kept s.held (packetIn s d p f).held := by
  unfold packetIn; (try dsimp only); (repeat' (first | (simp; done) | split | (refine Kept.trans ?_ (deliverPacket_kept ..)) | (refine Kept.trans ?_ (kept_foldl _ (fun _ _ => deliverPacket_kept ..) _ _)) | (dsimp only; split) | (simp; split) | (simp; refine Kept.trans ?_ (deliverPacket_kept ..)) | (simp; refine Kept.trans ?_ (kept_foldl _ (fun _ _ => deliverPacket_kept ..) _ _))))
theorem passNetwork_kept (s : State) (d : Die) (p : Packet) (f : Finds) : Kept s.held (passNetwork s d p f).held := by
  unfold passNetwork; (try dsimp only); (repeat' (first | (simp; done) | split | (refine Kept.trans ?_ (packetIn_kept ..)) | (refine Kept.trans ?_ (kept_foldl _ (fun _ _ => packetIn_kept ..) _ _)) | (dsimp only; split) | (simp; split) | (simp; refine Kept.trans ?_ (packetIn_kept ..)) | (simp; refine Kept.trans ?_ (kept_foldl _ (fun _ _ => packetIn_kept ..) _ _))))
theorem passStray_kept (s : State) (d : Die) : Kept s.held (passStray s d).held := by
  unfold passStray; (try dsimp only); (repeat' (first | (simp; done) | split | (refine Kept.trans ?_ (passNetwork_kept ..)) | (refine Kept.trans ?_ (kept_foldl _ (fun _ _ => passNetwork_kept ..) _ _)) | (dsimp only; split) | (simp; split) | (simp; refine Kept.trans ?_ (passNetwork_kept ..)) | (simp; refine Kept.trans ?_ (kept_foldl _ (fun _ _ => passNetwork_kept ..) _ _))))
theorem passErrors_held (s : State) (d : Die) (es : List (Fin 42 × FlitErr)) (p : Packet) :
    (passErrors s d es p).1.held = s.held := by
  induction es generalizing s p with
  | nil => rfl
  | cons e es ih =>
    obtain ⟨r, x⟩ := e
    cases x <;> simp [passErrors, ih]
theorem passFound_kept (s : State) (d : Die) (errs : List (Fin 42 × FlitErr)) (p : Packet) (f : Finds) :
    Kept s.held (passFound s d errs p f).held := by
  have h : Kept s.held (passErrors s d errs p).1.held := by rw [passErrors_held]; exact kept_refl _
  unfold passFound
  split
  · rename_i t q e
    rw [e] at h
    exact h.trans (passNetwork_kept ..)
  · rename_i t e
    rw [e] at h
    exact h
theorem fromLink_kept (s : State) (d : Die) (errs : List (Fin 42 × FlitErr)) (p : Packet) (f : Finds) : Kept s.held (fromLink s d errs p f).held := by
  unfold fromLink; (try dsimp only); (repeat' (first | (simp; done) | split | (refine Kept.trans ?_ (passFound_kept ..)) | (refine Kept.trans ?_ (kept_foldl _ (fun _ _ => passFound_kept ..) _ _)) | (dsimp only; split) | (simp; split) | (simp; refine Kept.trans ?_ (passFound_kept ..)) | (simp; refine Kept.trans ?_ (kept_foldl _ (fun _ _ => passFound_kept ..) _ _))))
theorem takeFlit_kept (errs : List (Fin 42 × FlitErr)) (x : Finds) (s : State) (d : Die) (f : BitVec 576) : Kept s.held (takeFlit errs x s d f).held := by
  unfold takeFlit; (try dsimp only); (repeat' (first | (simp; done) | split | (refine Kept.trans ?_ (fromLink_kept ..)) | (refine Kept.trans ?_ (kept_foldl _ (fun _ _ => fromLink_kept ..) _ _)) | (dsimp only; split) | (simp; split) | (simp; refine Kept.trans ?_ (fromLink_kept ..)) | (simp; refine Kept.trans ?_ (kept_foldl _ (fun _ _ => fromLink_kept ..) _ _))))
theorem frameReceive_kept (s : State) (d : Die) (f : BitVec 4320) (errs : List (Fin 42 × FlitErr)) (x : Finds) :
    Kept s.held (frameReceive s d f errs x).held := by
  unfold frameReceive
  split
  · exact kept_refl _
  · extract_lets b expected s1 s2
    split
    · rw [refuseFrame_held]; exact kept_refl _
    · split
      · rw [refuseFrame_held]; exact kept_refl _
      · rw [sendFlits_held, sendFrame_held]
        refine Kept.trans ?_ (kept_foldl _ (fun _ _ => takeFlit_kept ..) _ _)
        refine Kept.trans ?_ (passStray_kept ..)
        rw [takeTrailer_held, setBrd_held]
        exact kept_refl _
theorem packetReceive_kept (s : State) (p : Packet) (errs : List (Fin 42 × FlitErr)) (f : Finds) : Kept s.held (packetReceive s p errs f).held := by
  unfold packetReceive; (try dsimp only); (repeat' (first | (simp; done) | split | (refine Kept.trans ?_ (passStray_kept ..)) | (refine Kept.trans ?_ (passFound_kept ..)) | (refine Kept.trans ?_ (kept_foldl _ (fun _ _ => passStray_kept ..) _ _)) | (refine Kept.trans ?_ (kept_foldl _ (fun _ _ => passFound_kept ..) _ _)) | (dsimp only; split) | (simp; split) | (simp; refine Kept.trans ?_ (passStray_kept ..)) | (simp; refine Kept.trans ?_ (passFound_kept ..)) | (simp; refine Kept.trans ?_ (kept_foldl _ (fun _ _ => passStray_kept ..) _ _)) | (simp; refine Kept.trans ?_ (kept_foldl _ (fun _ _ => passFound_kept ..) _ _))))
theorem genSwitchComplete_kept (s : State) (d : Die) : Kept s.held (genSwitchComplete s d).held := by
  unfold genSwitchComplete; (try dsimp only); (repeat' (first | (simp; done) | split | (refine Kept.trans ?_ (passNetwork_kept ..)) | (refine Kept.trans ?_ (kept_foldl _ (fun _ _ => passNetwork_kept ..) _ _)) | (dsimp only; split) | (simp; split) | (simp; refine Kept.trans ?_ (passNetwork_kept ..)) | (simp; refine Kept.trans ?_ (kept_foldl _ (fun _ _ => passNetwork_kept ..) _ _))))
theorem svReadWords_kept (inspect : Bool) (f : Finds) (n : Nat) :
    ∀ (s : State) (k a : Nat), Kept s.held (svReadWords s inspect f k a n).1.held := by
  induction n with
  | zero => intro s k a; exact kept_refl _
  | succ n ih =>
    intro s k a
    have h := netAccess_kept s .selvedge a none inspect (findsOf f k)
    unfold svReadWords; dsimp only
    split
    · exact h
    · exact h.trans (ih _ _ _)
theorem svReadDo_kept (s : State) (addr count attr : Nat) (f : Finds) : Kept s.held (svReadDo s addr count attr f).held := by
  unfold svReadDo
  split
  · rw [svAnswer_held]; exact kept_refl _
  · extract_lets r
    have h : Kept s.held r.1.held := svReadWords_kept ..
    split
    · rw [svAnswer_held]; exact h
    split
    · exact kept_mk _ h rfl rfl (le_refl _)
    · rw [svAnswer_held]; exact h
theorem svWriteWords_kept (f : Finds) (vs : List Word) :
    ∀ (s : State) (k a : Nat), Kept s.held (svWriteWords s f k a vs).1.held := by
  induction vs with
  | nil => intro s k a; exact kept_refl _
  | cons v vs ih =>
    intro s k a
    have h := netAccess_kept s .selvedge a (some v) false (findsOf f k)
    unfold svWriteWords; dsimp only
    split
    · exact h
    · exact h.trans (ih _ _ _)
theorem svWriteDo_kept (s : State) (addr : Nat) (words : List Word) (f : Finds) : Kept s.held (svWriteDo s addr words f).held := by
  unfold svWriteDo
  split
  · rw [svAnswer_held]; exact kept_refl _
  split
  · rw [svAnswer_held]; exact kept_refl _
  · extract_lets r
    have h : Kept s.held r.1.held := svWriteWords_kept ..
    split
    · rw [svAnswer_held]; exact h
    split
    · exact kept_mk _ h rfl rfl (le_refl _)
    · rw [svAnswer_held]; exact h
theorem svGoesOn_kept (s : State) : Kept s.held (svGoesOn s).held := by
  unfold svGoesOn; (try dsimp only); (repeat' (first | (simp; done) | split | (refine Kept.trans ?_ (svReadDo_kept ..)) | (refine Kept.trans ?_ (svWriteDo_kept ..)) | (refine Kept.trans ?_ (kept_foldl _ (fun _ _ => svReadDo_kept ..) _ _)) | (refine Kept.trans ?_ (kept_foldl _ (fun _ _ => svWriteDo_kept ..) _ _)) | (dsimp only; split) | (simp; split) | (simp; refine Kept.trans ?_ (svReadDo_kept ..)) | (simp; refine Kept.trans ?_ (svWriteDo_kept ..)) | (simp; refine Kept.trans ?_ (kept_foldl _ (fun _ _ => svReadDo_kept ..) _ _)) | (simp; refine Kept.trans ?_ (kept_foldl _ (fun _ _ => svWriteDo_kept ..) _ _))))
theorem svAssert_kept (s : State) (level : Nat) (d : Die) (h : Nat) : Kept s.held (svAssert s level d h).held := by
  unfold svAssert; (try dsimp only); (repeat' (first | (simp; done) | split | (refine Kept.trans ?_ (assertReset_kept ..)) | (refine Kept.trans ?_ (kept_foldl _ (fun _ _ => assertReset_kept ..) _ _)) | (dsimp only; split) | (simp; split) | (simp; refine Kept.trans ?_ (assertReset_kept ..)) | (simp; refine Kept.trans ?_ (kept_foldl _ (fun _ _ => assertReset_kept ..) _ _))))
theorem applyCmd_kept (s : State) (c : HostCmd) : Kept s.held (applyCmd s c).held := by
  unfold applyCmd; (try dsimp only); (repeat' (first | (simp; done) | split | (refine Kept.trans ?_ (resetOp_kept ..)) | (refine Kept.trans ?_ (kept_foldl _ (fun _ _ => resetOp_kept ..) _ _)) | (dsimp only; split) | (simp; split) | (simp; refine Kept.trans ?_ (resetOp_kept ..)) | (simp; refine Kept.trans ?_ (kept_foldl _ (fun _ _ => resetOp_kept ..) _ _))))
theorem applyMute_kept (s : State) (c : HostCmd) : Kept s.held (applyMute s c).held := by
  unfold applyMute; (try dsimp only); (repeat' (first | (simp; done) | split | (refine Kept.trans ?_ (applyCmd_kept ..)) | (refine Kept.trans ?_ (kept_foldl _ (fun _ _ => applyCmd_kept ..) _ _)) | (dsimp only; split) | (simp; split) | (simp; refine Kept.trans ?_ (applyCmd_kept ..)) | (simp; refine Kept.trans ?_ (kept_foldl _ (fun _ _ => applyCmd_kept ..) _ _))))
theorem handOver_kept (s : State) (c : HostCmd) : Kept s.held (handOver s c).held := by
  unfold handOver; (try dsimp only); (repeat' (first | (simp; done) | split | (refine Kept.trans ?_ (applyCmd_kept ..)) | (refine Kept.trans ?_ (kept_foldl _ (fun _ _ => applyCmd_kept ..) _ _)) | (dsimp only; split) | (simp; split) | (simp; refine Kept.trans ?_ (applyCmd_kept ..)) | (simp; refine Kept.trans ?_ (kept_foldl _ (fun _ _ => applyCmd_kept ..) _ _))))
theorem takeEntry_bound (s : State) (q : Qp) (e : BitVec 512) (c : HostCmd) :
    (takeEntry s q e c).held.1 = s.held.1 ∧ (takeEntry s q e c).held.2.1 = s.held.2.1 ∧
      (takeEntry s q e c).held.2.2.length ≤ s.held.2.2.length + 1 := by
  have go (t : State) (h : Kept s.held t.held) :
      t.held.1 = s.held.1 ∧ t.held.2.1 = s.held.2.1 ∧ t.held.2.2.length ≤ s.held.2.2.length + 1 :=
    ⟨h.1, h.2.1, Nat.le_succ_of_le h.2.2⟩
  unfold takeEntry; extract_lets h s1 a s2
  have e2 : s2.held = s.held := by simp [s2, s1]
  split
  · exact go _ (by simp [e2])
  · split
    · exact go _ (by simp [e2])
    · split
      · refine ⟨congrArg (·.1) e2, congrArg (·.2.1) e2, ?_⟩
        have e3 : s2.host.staged = s.held.2.2 := congrArg (·.2.2) e2
        simp [e3]
      · refine go _ ?_
        rw [← e2]
        exact handOver_kept ..
theorem commandFetch_bound (s : State) (q : Qp) (e : BitVec 512) (ok : Bool) (buf : List Byte) (bufOk : Bool) :
    (commandFetch s q e ok buf bufOk).held.1 = s.held.1 ∧ (commandFetch s q e ok buf bufOk).held.2.1 = s.held.2.1 ∧
      (s.held.2.2.length ≤ 1024 → (commandFetch s q e ok buf bufOk).held.2.2.length ≤ 1024) := by
  unfold commandFetch; dsimp only
  split
  · exact ⟨rfl, rfl, id⟩
  · rename_i hc
    split
    · simp
    · split
      · exact ⟨rfl, rfl, id⟩
      · have hb := takeEntry_bound s q e (parseEntry q e buf bufOk)
        refine ⟨hb.1, hb.2.1, fun _ => le_trans hb.2.2 ?_⟩
        have : s.host.staged.length < 1024 := by simp [canFetch] at hc; tauto
        exact this
theorem mailboxMessage_kept (s : State) (d : Die) : Kept s.held (mailboxMessage s d).held := by
  unfold mailboxMessage; (try dsimp only); (repeat' (first | (simp; done) | split | (refine Kept.trans ?_ (applyCmd_kept ..)) | (refine Kept.trans ?_ (applyMute_kept ..)) | (refine Kept.trans ?_ (kept_foldl _ (fun _ _ => applyCmd_kept ..) _ _)) | (refine Kept.trans ?_ (kept_foldl _ (fun _ _ => applyMute_kept ..) _ _)) | (dsimp only; split) | (simp; split) | (simp; refine Kept.trans ?_ (applyCmd_kept ..)) | (simp; refine Kept.trans ?_ (applyMute_kept ..)) | (simp; refine Kept.trans ?_ (kept_foldl _ (fun _ _ => applyCmd_kept ..) _ _)) | (simp; refine Kept.trans ?_ (kept_foldl _ (fun _ _ => applyMute_kept ..) _ _))))
theorem passTicks_kept (s : State) (k : Nat) : Kept s.held (passTicks s k).held := by
  unfold passTicks; (try dsimp only); (repeat' (first | (simp; done) | split | (refine Kept.trans ?_ (timersAt_kept ..)) | (refine Kept.trans ?_ (kept_foldl _ (fun _ _ => timersAt_kept ..) _ _)) | (dsimp only; split) | (simp; split) | (simp; refine Kept.trans ?_ (timersAt_kept ..)) | (simp; refine Kept.trans ?_ (kept_foldl _ (fun _ _ => timersAt_kept ..) _ _))))
theorem passTo_kept (s : State) (t : Nat) : Kept s.held (passTo s t).held := by
  unfold passTo; (try dsimp only); (repeat' (first | (simp; done) | split | (refine Kept.trans ?_ (passTicks_kept ..)) | (refine Kept.trans ?_ (kept_foldl _ (fun _ _ => passTicks_kept ..) _ _)) | (dsimp only; split) | (simp; split) | (simp; refine Kept.trans ?_ (passTicks_kept ..)) | (simp; refine Kept.trans ?_ (kept_foldl _ (fun _ _ => passTicks_kept ..) _ _))))
theorem stagedOne_kept (r : State × StagedWork) (x : Staged) : Kept r.1.held (stagedOne r x).1.held := by
  unfold stagedOne; dsimp only
  split
  · simp
  · split
    · simp
    · split
      · simp
      · exact applyCmd_kept ..
theorem stagedOne_kept_length (r : State × StagedWork) (x : Staged) : (stagedOne r x).2.kept.length ≤ r.2.kept.length + 1 := by
  unfold stagedOne; dsimp only
  split
  · simp
  · split
    · simp
    · split
      · split <;> simp
      · simp
theorem stagedFold_kept (xs : List Staged) (r : State × StagedWork) :
    Kept r.1.held (xs.foldl stagedOne r).1.held ∧ (xs.foldl stagedOne r).2.kept.length ≤ r.2.kept.length + xs.length := by
  induction xs generalizing r with
  | nil => exact ⟨kept_refl _, le_refl _⟩
  | cons x xs ih =>
    have h := ih (stagedOne r x)
    refine ⟨(stagedOne_kept r x).trans h.1, ?_⟩
    have := stagedOne_kept_length r x
    simp only [List.foldl_cons, List.length_cons]
    omega
theorem filter_lt_succ_length (l : List Staged) (n : Nat) :
    (l.filter (fun x => decide (x.cmd.qp.val < n + 1))).length =
      (l.filter (fun x => decide (x.cmd.qp.val < n))).length + (l.filter (fun x => decide (x.cmd.qp.val = n))).length := by
  induction l with
  | nil => rfl
  | cons x xs ih =>
    simp only [List.filter_cons]
    rcases Nat.lt_trichotomy x.cmd.qp.val n with h | h | h
    · have h2 : x.cmd.qp.val < n + 1 := by omega
      have h3 : ¬ x.cmd.qp.val = n := by omega
      simp only [h, h2, h3, decide_true, decide_false, if_true, Bool.false_eq_true, if_false, List.length_cons, ih]
      omega
    · have h2 : x.cmd.qp.val < n + 1 := by omega
      have h3 : ¬ x.cmd.qp.val < n := by omega
      rw [if_pos (decide_eq_true h2), if_neg (by simp [h3]), if_pos (decide_eq_true h), List.length_cons, List.length_cons, ih,
        Nat.add_assoc]
    · have : ¬ x.cmd.qp.val < n := by omega
      have h2 : ¬ x.cmd.qp.val < n + 1 := by omega
      have h3 : ¬ x.cmd.qp.val = n := by omega
      simp only [this, h2, h3, decide_false, Bool.false_eq_true, if_false, ih]
theorem byQueue_length (l : List Staged) (n : Nat) :
    ((List.range n).flatMap (fun q => l.filter (fun x => decide (x.cmd.qp.val = q)))).length =
      (l.filter (fun x => decide (x.cmd.qp.val < n))).length := by
  induction n with
  | zero => simp
  | succ n ih =>
    rw [List.range_succ, List.flatMap_append, List.length_append, ih, filter_lt_succ_length]
    simp
theorem applyStaged_kept (s : State) : Kept s.held (applyStaged s).held := by
  unfold applyStaged; extract_lets xs n a r b c
  have hx : xs.length ≤ s.host.staged.length := by
    rw [show xs.length = _ from byQueue_length s.host.staged 16]
    exact List.length_filter_le _ _
  have h := stagedFold_kept xs ({ s with host.staged := [] }, { left := n, kept := [], held := [] })
  have hr : Kept ({ s with host.staged := [] } : State).held r.1.held := h.1
  have hl : r.2.kept.length ≤ 0 + xs.length := h.2
  have h0 : r.1.host.staged.length ≤ 0 := hr.2.2
  refine ⟨hr.1, hr.2.1, ?_⟩
  show (r.2.kept ++ r.1.host.staged).length ≤ s.host.staged.length
  rw [List.length_append]
  omega
theorem boundaryOn_kept (s : State) (ds : List Die) (num : BitVec 48) : Kept s.held (boundaryOn s ds num).held := by
  unfold boundaryOn; (try dsimp only); (repeat' (first | (simp; done) | split | (refine Kept.trans ?_ (applyStaged_kept ..)) | (refine Kept.trans ?_ (kept_foldl _ (fun _ _ => applyStaged_kept ..) _ _)) | (dsimp only; split) | (simp; split) | (simp; refine Kept.trans ?_ (applyStaged_kept ..)) | (simp; refine Kept.trans ?_ (kept_foldl _ (fun _ _ => applyStaged_kept ..) _ _))))
theorem beatBoundary_kept (s : State) (d : Die) : Kept s.held (beatBoundary s d).held := by
  unfold beatBoundary; (try dsimp only); (repeat' (first | (simp; done) | split | (refine Kept.trans ?_ (passTo_kept ..)) | (refine Kept.trans ?_ (boundaryOn_kept ..)) | (refine Kept.trans ?_ (kept_foldl _ (fun _ _ => passTo_kept ..) _ _)) | (refine Kept.trans ?_ (kept_foldl _ (fun _ _ => boundaryOn_kept ..) _ _)) | (dsimp only; split) | (simp; split) | (simp; refine Kept.trans ?_ (passTo_kept ..)) | (simp; refine Kept.trans ?_ (boundaryOn_kept ..)) | (simp; refine Kept.trans ?_ (kept_foldl _ (fun _ _ => passTo_kept ..) _ _)) | (simp; refine Kept.trans ?_ (kept_foldl _ (fun _ _ => boundaryOn_kept ..) _ _))))
theorem coreLoad_kept (s : State) (d : Die) (a : Nat) (r : Fin 16) (f : Finds) : Kept s.held (coreLoad s d a r f).held := by
  unfold coreLoad; (try dsimp only); (repeat' (first | (simp; done) | split | (refine Kept.trans ?_ (enterFault_kept ..)) | (refine Kept.trans ?_ (netAccess_kept ..)) | (refine Kept.trans ?_ (kept_foldl _ (fun _ _ => enterFault_kept ..) _ _)) | (refine Kept.trans ?_ (kept_foldl _ (fun _ _ => netAccess_kept ..) _ _)) | (dsimp only; split) | (simp; split) | (simp; refine Kept.trans ?_ (enterFault_kept ..)) | (simp; refine Kept.trans ?_ (netAccess_kept ..)) | (simp; refine Kept.trans ?_ (kept_foldl _ (fun _ _ => enterFault_kept ..) _ _)) | (simp; refine Kept.trans ?_ (kept_foldl _ (fun _ _ => netAccess_kept ..) _ _))))
theorem coreStore_kept (s : State) (d : Die) (a : Nat) (v : BitVec 64) (f : Finds) : Kept s.held (coreStore s d a v f).held := by
  unfold coreStore; (try dsimp only); (repeat' (first | (simp; done) | split | (refine Kept.trans ?_ (enterFault_kept ..)) | (refine Kept.trans ?_ (netAccess_kept ..)) | (refine Kept.trans ?_ (kept_foldl _ (fun _ _ => enterFault_kept ..) _ _)) | (refine Kept.trans ?_ (kept_foldl _ (fun _ _ => netAccess_kept ..) _ _)) | (dsimp only; split) | (simp; split) | (simp; refine Kept.trans ?_ (enterFault_kept ..)) | (simp; refine Kept.trans ?_ (netAccess_kept ..)) | (simp; refine Kept.trans ?_ (kept_foldl _ (fun _ _ => enterFault_kept ..) _ _)) | (simp; refine Kept.trans ?_ (kept_foldl _ (fun _ _ => netAccess_kept ..) _ _))))
theorem coreAct_kept (d : Die) (s : State) (a : CoreAct) : Kept s.held (coreAct d s a).held := by
  unfold coreAct; (try dsimp only); (repeat' (first | (simp; done) | split | (refine Kept.trans ?_ (coreLoad_kept ..)) | (refine Kept.trans ?_ (coreStore_kept ..)) | (refine Kept.trans ?_ (kept_foldl _ (fun _ _ => coreLoad_kept ..) _ _)) | (refine Kept.trans ?_ (kept_foldl _ (fun _ _ => coreStore_kept ..) _ _)) | (dsimp only; split) | (simp; split) | (simp; refine Kept.trans ?_ (coreLoad_kept ..)) | (simp; refine Kept.trans ?_ (coreStore_kept ..)) | (simp; refine Kept.trans ?_ (kept_foldl _ (fun _ _ => coreLoad_kept ..) _ _)) | (simp; refine Kept.trans ?_ (kept_foldl _ (fun _ _ => coreStore_kept ..) _ _))))
theorem tcmErrors_kept (s : State) (d : Die) (ce : Nat) (ue : Option Bool) : Kept s.held (tcmErrors s d ce ue).held := by
  unfold tcmErrors; (try dsimp only); (repeat' (first | (simp; done) | split | (refine Kept.trans ?_ (lockUp_kept ..)) | (refine Kept.trans ?_ (kept_foldl _ (fun _ _ => lockUp_kept ..) _ _)) | (dsimp only; split) | (simp; split) | (simp; refine Kept.trans ?_ (lockUp_kept ..)) | (simp; refine Kept.trans ?_ (kept_foldl _ (fun _ _ => lockUp_kept ..) _ _))))
theorem handlerEnd_kept (s : State) (d : Die) (acts : List CoreAct) (ce : Nat) (ue : Option Bool) : Kept s.held (handlerEnd s d acts ce ue).held := by
  unfold handlerEnd; (try dsimp only); (repeat' (first | (simp; done) | split | (refine Kept.trans ?_ (coreAct_kept ..)) | (refine Kept.trans ?_ (tcmErrors_kept ..)) | (refine Kept.trans ?_ (kept_foldl _ (fun _ _ => coreAct_kept ..) _ _)) | (refine Kept.trans ?_ (kept_foldl _ (fun _ _ => tcmErrors_kept ..) _ _)) | (dsimp only; split) | (simp; split) | (simp; refine Kept.trans ?_ (coreAct_kept ..)) | (simp; refine Kept.trans ?_ (tcmErrors_kept ..)) | (simp; refine Kept.trans ?_ (kept_foldl _ (fun _ _ => coreAct_kept ..) _ _)) | (simp; refine Kept.trans ?_ (kept_foldl _ (fun _ _ => tcmErrors_kept ..) _ _))))
theorem passAccess_kept (f : Finds) (s : State) (a : HeldAcc) : Kept s.held (passAccess f s a).held := by
  unfold passAccess; (try dsimp only); (repeat' (first | (simp; done) | split | (refine Kept.trans ?_ (netAccess_kept ..)) | (refine Kept.trans ?_ (svGoesOn_kept ..)) | (refine Kept.trans ?_ (kept_foldl _ (fun _ _ => netAccess_kept ..) _ _)) | (refine Kept.trans ?_ (kept_foldl _ (fun _ _ => svGoesOn_kept ..) _ _)) | (dsimp only; split) | (simp; split) | (simp; refine Kept.trans ?_ (netAccess_kept ..)) | (simp; refine Kept.trans ?_ (svGoesOn_kept ..)) | (simp; refine Kept.trans ?_ (kept_foldl _ (fun _ _ => netAccess_kept ..) _ _)) | (simp; refine Kept.trans ?_ (kept_foldl _ (fun _ _ => svGoesOn_kept ..) _ _))))
theorem passHeld_kept (s : State) (d : Die) (i : Nat) (f : Finds) : Kept s.held (passHeld s d i f).held := by
  unfold passHeld; (try dsimp only); (repeat' (first | (simp; done) | split | (refine Kept.trans ?_ (deliverPacket_kept ..)) | (refine Kept.trans ?_ (passAccess_kept ..)) | (refine Kept.trans ?_ (kept_foldl _ (fun _ _ => deliverPacket_kept ..) _ _)) | (refine Kept.trans ?_ (kept_foldl _ (fun _ _ => passAccess_kept ..) _ _)) | (dsimp only; split) | (simp; split) | (simp; refine Kept.trans ?_ (deliverPacket_kept ..)) | (simp; refine Kept.trans ?_ (passAccess_kept ..)) | (simp; refine Kept.trans ?_ (kept_foldl _ (fun _ _ => deliverPacket_kept ..) _ _)) | (simp; refine Kept.trans ?_ (kept_foldl _ (fun _ _ => passAccess_kept ..) _ _))))
theorem afterStep_kept (s : State) (d : Die) (i : Nat) (was : DStep) (f : Finds) : Kept s.held (afterStep s d i was f).held := by
  unfold afterStep; (try dsimp only); (repeat' (first | (simp; done) | split | (refine Kept.trans ?_ (passHeld_kept ..)) | (refine Kept.trans ?_ (kept_foldl _ (fun _ _ => passHeld_kept ..) _ _)) | (dsimp only; split) | (simp; split) | (simp; refine Kept.trans ?_ (passHeld_kept ..)) | (simp; refine Kept.trans ?_ (kept_foldl _ (fun _ _ => passHeld_kept ..) _ _))))
theorem domainStep_kept (s : State) (d : Die) (i : Nat) (ok : Bool) (f : Finds) : Kept s.held (domainStep s d i ok f).held := by
  unfold domainStep; (try dsimp only); (repeat' (first | (simp; done) | split | (refine Kept.trans ?_ (domStep_kept ..)) | (refine Kept.trans ?_ (afterStep_kept ..)) | (refine Kept.trans ?_ (kept_foldl _ (fun _ _ => domStep_kept ..) _ _)) | (refine Kept.trans ?_ (kept_foldl _ (fun _ _ => afterStep_kept ..) _ _)) | (dsimp only; split) | (simp; split) | (simp; refine Kept.trans ?_ (domStep_kept ..)) | (simp; refine Kept.trans ?_ (afterStep_kept ..)) | (simp; refine Kept.trans ?_ (kept_foldl _ (fun _ _ => domStep_kept ..) _ _)) | (simp; refine Kept.trans ?_ (kept_foldl _ (fun _ _ => afterStep_kept ..) _ _))))

/-- Every next state of an outcome has the queue and the fuses as before, and keeps the bound of R332 on staged commands. -/
def Stays (a : List Instr × Fuses × List Staged) (r : Host.Outcome State Fault Refusal) : Prop :=
  ∀ t, r = .next t → t.held.1 = a.1 ∧ t.held.2.1 = a.2.1 ∧ (a.2.2.length ≤ 1024 → t.held.2.2.length ≤ 1024)
theorem stays_kept {a : List Instr × Fuses × List Staged} {t : State} (h : Kept a t.held) : Stays a (.next t) := by
  intro u hu
  cases hu
  exact ⟨h.1, h.2.1, fun k => le_trans h.2.2 k⟩

theorem svRequest_kept (s : State) (q : SvReq) (need : Nat) (f : State → State) (h : ∀ t, Kept t.held (f t).held) :
    Kept s.held (svRequest s q need f).held := by
  unfold svRequest; dsimp only
  repeat' split
  all_goals first | (simp; done) | exact Kept.trans (by simp) (h _)
theorem execSvRead_stays (q : SvReq) (addr : BitVec 48) (count attr : Byte) (f : Finds) (s : State) :
    Stays s.held (execSvRead q addr count attr f s) :=
  stays_kept (svRequest_kept s q 0 _ (fun t => svReadDo_kept t _ _ _ _))
theorem execSvWrite_stays (q : SvReq) (addr : BitVec 48) (words : List Word) (f : Finds) (s : State) :
    Stays s.held (execSvWrite q addr words f s) :=
  stays_kept (svRequest_kept s q 1 _ (fun t => svWriteDo_kept t _ _ _))
theorem execRstAssert_stays (q : SvReq) (level : Byte) (d : Die) (h : Harn) (s : State) :
    Stays s.held (execRstAssert q level d h s) :=
  stays_kept (svRequest_kept s q 4 _ (fun t => svAssert_kept t _ _ _))
theorem execDomainPrechargeTimeout_stays (d : Die) (i : DomIx) (s : State) : Stays s.held (execDomainPrechargeTimeout d i s) := by
  refine stays_kept ?_
  split
  · exact (domFails_kept s d i 1).trans (afterStep_kept ..)
  · exact kept_refl _
theorem execD3hotEntry_stays (d0 : Bool) (s : State) : Stays s.held (execD3hotEntry d0 s) := by
  refine stays_kept ?_
  split
  · exact ⟨rfl, rfl, le_refl _⟩
  · exact enterD3hot_kept s
theorem execCellCycle_stays (d : Die) (h : Harn) (r : Row) (c : Col) (u : Option CellUpset) (s : State) : Stays s.held (execCellCycle d h r c u s) := by
  unfold execCellCycle; (try dsimp only); (repeat' (first | (refine stays_kept ?_) | split)); (repeat' (first | (simp; done) | (simp [answerRead]; done) | split | (dsimp only; split) | (simp; split)))
theorem execReedCycle_stays (d : Die) (h : Harn) (i : Fin 64) (s : State) : Stays s.held (execReedCycle d h i s) := by
  unfold execReedCycle; (try dsimp only); (repeat' (first | (refine stays_kept ?_) | split)); (repeat' (first | (simp; done) | (simp [answerRead]; done) | split | (dsimp only; split) | (simp; split)))
theorem execHarnessGateTransfer_stays (d : Die) (vertical : Bool) (h : Harn) (k : Fin 8) (both : Option (BitVec 4)) (s : State) : Stays s.held (execHarnessGateTransfer d vertical h k both s) := by
  unfold execHarnessGateTransfer; (try dsimp only); (repeat' (first | (refine stays_kept ?_) | split)); (repeat' (first | (simp; done) | (simp [answerRead]; done) | split | (dsimp only; split) | (simp; split)))
theorem execGatewayLaneCycle_stays (d : Die) (h : Harn) (lane : Option (Fin 8)) (s : State) : Stays s.held (execGatewayLaneCycle d h lane s) := by
  unfold execGatewayLaneCycle; (try dsimp only); (repeat' (first | (refine stays_kept ?_) | split)); (repeat' (first | (simp; done) | (simp [answerRead]; done) | split | (dsimp only; split) | (simp; split)))
theorem execTreadleStep_stays (d : Die) (h : Harn) (s : State) : Stays s.held (execTreadleStep d h s) := by
  unfold execTreadleStep; (try dsimp only); (repeat' (first | (refine stays_kept ?_) | split)); (repeat' (first | (simp; done) | (simp [answerRead]; done) | split | (dsimp only; split) | (simp; split)))
theorem execSwapArm_stays (_rq : Requester) (d : Die) (h : Harn) (s : State) : Stays s.held (execSwapArm _rq d h s) := by
  unfold execSwapArm; (try dsimp only); (repeat' (first | (refine stays_kept ?_) | split)); (repeat' (first | (simp; done) | (simp [answerRead]; done) | split | (dsimp only; split) | (simp; split)))
theorem execSwapCancel_stays (_rq : Requester) (d : Die) (h : Harn) (s : State) : Stays s.held (execSwapCancel _rq d h s) := by
  unfold execSwapCancel; (try dsimp only); (repeat' (first | (refine stays_kept ?_) | split)); (repeat' (first | (simp; done) | (simp [answerRead]; done) | split | (dsimp only; split) | (simp; split)))
theorem execBankExchange_stays (d : Die) (bad : List Harn) (s : State) : Stays s.held (execBankExchange d bad s) := by
  unfold execBankExchange; (try dsimp only); (repeat' (first | (refine stays_kept ?_) | split)); (repeat' (first | (simp; done) | (simp [answerRead]; done) | split | (dsimp only; split) | (simp; split)))
theorem execSwapTimeout_stays (d : Die) (s : State) : Stays s.held (execSwapTimeout d s) := by
  unfold execSwapTimeout; (try dsimp only); (repeat' (first | (refine stays_kept ?_) | split)); (repeat' (first | (simp; done) | (simp [answerRead]; done) | split | (dsimp only; split) | (simp; split)))
theorem execDarning_stays (d : Die) (h : Harn) (r : Row) (c : Fin 8) (why : DarnWhy) (spareFaulty : Bool) (s : State) : Stays s.held (execDarning d h r c why spareFaulty s) := by
  unfold execDarning; (try dsimp only); (repeat' (first | (refine stays_kept ?_) | split)); (repeat' (first | (simp; done) | (simp [answerRead]; done) | split | (dsimp only; split) | (simp; split)))
theorem execOverflowReport_stays (d : Die) (s : State) : Stays s.held (execOverflowReport d s) := by
  unfold execOverflowReport; (try dsimp only); (repeat' (first | (refine stays_kept ?_) | split)); (repeat' (first | (simp; done) | (simp [answerRead]; done) | split | (dsimp only; split) | (simp; split)))
theorem execItemAdmit_stays (d : Die) (h : Harn) (idx : Fin 16) (u : AdmitUpset) (s : State) : Stays s.held (execItemAdmit d h idx u s) := by
  unfold execItemAdmit; (try dsimp only); (repeat' (first | (refine stays_kept ?_) | split)); (repeat' (first | (simp; done) | (simp [answerRead]; done) | split | (dsimp only; split) | (simp; split)))
theorem execMarkTake_stays (d : Die) (y : YarnNo) (input : Fin 4) (s : State) : Stays s.held (execMarkTake d y input s) := by
  unfold execMarkTake; (try dsimp only); (repeat' (first | (refine stays_kept ?_) | split)); (repeat' (first | (simp; done) | (simp [answerRead]; done) | split | (dsimp only; split) | (simp; split)))
theorem execBobbinWordWrite_stays (b : BobNo) (src : WordSrc) (flip : Word) (s : State) : Stays s.held (execBobbinWordWrite b src flip s) := by
  unfold execBobbinWordWrite; (try dsimp only); (repeat' (first | (refine stays_kept ?_) | split)); (repeat' (first | (simp; done) | (simp [answerRead]; done) | split | (dsimp only; split) | (simp; split)))
theorem execBobbinSpill_stays (b : BobNo) (flip : Word) (u : BobUpset) (s : State) : Stays s.held (execBobbinSpill b flip u s) := by
  unfold execBobbinSpill; (try dsimp only); (repeat' (first | (refine stays_kept ?_) | split)); (repeat' (first | (simp; done) | (simp [answerRead]; done) | split | (dsimp only; split) | (simp; split)))
theorem execBobbinRefill_stays (b : BobNo) (flip : Word) (out : ReadOutcome) (s : State) : Stays s.held (execBobbinRefill b flip out s) := by
  unfold execBobbinRefill; (try dsimp only); (repeat' (first | (refine stays_kept ?_) | split)); (repeat' (first | (simp; done) | (simp [answerRead]; done) | split | (dsimp only; split) | (simp; split)))
theorem execBobbinWordRead_stays (b : BobNo) (flip : Word) (u : BobUpset) (s : State) : Stays s.held (execBobbinWordRead b flip u s) := by
  unfold execBobbinWordRead; (try dsimp only); (repeat' (first | (refine stays_kept ?_) | split)); (repeat' (first | (simp; done) | (simp [answerRead]; done) | split | (dsimp only; split) | (simp; split)))
theorem execEgressStallTimeout_stays (b : BobNo) (s : State) : Stays s.held (execEgressStallTimeout b s) := by
  unfold execEgressStallTimeout; (try dsimp only); (repeat' (first | (refine stays_kept ?_) | split)); (repeat' (first | (simp; done) | (simp [answerRead]; done) | split | (dsimp only; split) | (simp; split)))
theorem execBeatBoundary_stays (d : Die) (s : State) : Stays s.held (execBeatBoundary d s) := by
  unfold execBeatBoundary; (try dsimp only); (repeat' (first | (refine stays_kept ?_) | split)); (repeat' (first | (simp; done) | (simp [answerRead]; done) | split | (refine Kept.trans ?_ (beatBoundary_kept ..)) | (refine Kept.trans ?_ (kept_foldl _ (fun _ _ => beatBoundary_kept ..) _ _)) | (dsimp only; split) | (simp; split) | (simp; refine Kept.trans ?_ (beatBoundary_kept ..)) | (simp; refine Kept.trans ?_ (kept_foldl _ (fun _ _ => beatBoundary_kept ..) _ _))))
theorem execCheckpointWritten_stays (d : Die) (y : YarnNo) (s : State) : Stays s.held (execCheckpointWritten d y s) := by
  unfold execCheckpointWritten; (try dsimp only); (repeat' (first | (refine stays_kept ?_) | split)); (repeat' (first | (simp; done) | (simp [answerRead]; done) | split | (dsimp only; split) | (simp; split)))
theorem execReady_stays (s : State) : Stays s.held (execReady s) := by
  unfold execReady; (try dsimp only); (repeat' (first | (refine stays_kept ?_) | split)); (repeat' (first | (simp; done) | (simp [answerRead]; done) | split | (dsimp only; split) | (simp; split)))
theorem execCommit_stays (d : Die) (s : State) : Stays s.held (execCommit d s) := by
  unfold execCommit; (try dsimp only); (repeat' (first | (refine stays_kept ?_) | split)); (repeat' (first | (simp; done) | (simp [answerRead]; done) | split | (dsimp only; split) | (simp; split)))
theorem execReplayStart_stays (d : Die) (s : State) : Stays s.held (execReplayStart d s) := by
  unfold execReplayStart; (try dsimp only); (repeat' (first | (refine stays_kept ?_) | split)); (repeat' (first | (simp; done) | (simp [answerRead]; done) | split | (dsimp only; split) | (simp; split)))
theorem execReplayRestoreDone_stays (d : Die) (rd : RestoreRead) (s : State) : Stays s.held (execReplayRestoreDone d rd s) := by
  unfold execReplayRestoreDone; (try dsimp only); (repeat' (first | (refine stays_kept ?_) | split)); (repeat' (first | (simp; done) | (simp [answerRead]; done) | split | (dsimp only; split) | (simp; split)))
theorem execDieLostDeclare_stays (d : Die) (s : State) : Stays s.held (execDieLostDeclare d s) := by
  unfold execDieLostDeclare; (try dsimp only); (repeat' (first | (refine stays_kept ?_) | split)); (repeat' (first | (simp; done) | (simp [answerRead]; done) | split | (dsimp only; split) | (simp; split)))
theorem execYarnMigrateDone_stays (y : YarnNo) (s : State) : Stays s.held (execYarnMigrateDone y s) := by
  unfold execYarnMigrateDone; (try dsimp only); (repeat' (first | (refine stays_kept ?_) | split)); (repeat' (first | (simp; done) | (simp [answerRead]; done) | split | (dsimp only; split) | (simp; split)))
theorem execDieReload_stays (d : Die) (s : State) : Stays s.held (execDieReload d s) := by
  unfold execDieReload; (try dsimp only); (repeat' (first | (refine stays_kept ?_) | split)); (repeat' (first | (simp; done) | (simp [answerRead]; done) | split | (dsimp only; split) | (simp; split)))
theorem execHarnessClockFail_stays (d : Die) (h : Harn) (s : State) : Stays s.held (execHarnessClockFail d h s) := by
  unfold execHarnessClockFail; (try dsimp only); (repeat' (first | (refine stays_kept ?_) | split)); (repeat' (first | (simp; done) | (simp [answerRead]; done) | split | (refine Kept.trans ?_ (clockFail_kept ..)) | (refine Kept.trans ?_ (kept_foldl _ (fun _ _ => clockFail_kept ..) _ _)) | (dsimp only; split) | (simp; split) | (simp; refine Kept.trans ?_ (clockFail_kept ..)) | (simp; refine Kept.trans ?_ (kept_foldl _ (fun _ _ => clockFail_kept ..) _ _))))
theorem execHarnessClockRelock_stays (d : Die) (h : Harn) (ok : Bool) (s : State) : Stays s.held (execHarnessClockRelock d h ok s) := by
  unfold execHarnessClockRelock; (try dsimp only); (repeat' (first | (refine stays_kept ?_) | split)); (repeat' (first | (simp; done) | (simp [answerRead]; done) | split | (dsimp only; split) | (simp; split)))
theorem execClkFreqWrite_stays (_rq : Requester) (d : Die) (h : Harn) (v : Word) (s : State) : Stays s.held (execClkFreqWrite _rq d h v s) := by
  unfold execClkFreqWrite; (try dsimp only); (repeat' (first | (refine stays_kept ?_) | split)); (repeat' (first | (simp; done) | (simp [answerRead]; done) | split | (dsimp only; split) | (simp; split)))
theorem execClkSlewDone_stays (d : Die) (h : Harn) (s : State) : Stays s.held (execClkSlewDone d h s) := by
  unfold execClkSlewDone; (try dsimp only); (repeat' (first | (refine stays_kept ?_) | split)); (repeat' (first | (simp; done) | (simp [answerRead]; done) | split | (dsimp only; split) | (simp; split)))
theorem execAvsLoopTick_stays (d : Die) (h : Harn) (margin : BitVec 8) (headroom : BitVec 6) (s : State) : Stays s.held (execAvsLoopTick d h margin headroom s) := by
  unfold execAvsLoopTick; (try dsimp only); (repeat' (first | (refine stays_kept ?_) | split)); (repeat' (first | (simp; done) | (simp [answerRead]; done) | split | (dsimp only; split) | (simp; split)))
theorem execClockStretch_stays (d : Die) (h : Harn) (cycles : BitVec 8) (s : State) : Stays s.held (execClockStretch d h cycles s) := by
  unfold execClockStretch; (try dsimp only); (repeat' (first | (refine stays_kept ?_) | split)); (repeat' (first | (simp; done) | (simp [answerRead]; done) | split | (dsimp only; split) | (simp; split)))
theorem execAgingMeasure_stays (d : Die) (h : Harn) (fRef fStressed : Nat) (s : State) : Stays s.held (execAgingMeasure d h fRef fStressed s) := by
  unfold execAgingMeasure; (try dsimp only); (repeat' (first | (refine stays_kept ?_) | split)); (repeat' (first | (simp; done) | (simp [answerRead]; done) | split | (dsimp only; split) | (simp; split)))
theorem execDomTargetWrite_stays (rq : Requester) (d : Die) (i : DomIx) (v : Word) (s : State) : Stays s.held (execDomTargetWrite rq d i v s) := by
  unfold execDomTargetWrite; (try dsimp only); (repeat' (first | (refine stays_kept ?_) | split)); (repeat' (first | (simp; done) | (simp [answerRead]; done) | split | (dsimp only; split) | (simp; split)))
theorem execDomainStepComplete_stays (d : Die) (i : DomIx) (ok : Bool) (f : Finds) (s : State) : Stays s.held (execDomainStepComplete d i ok f s) := by
  unfold execDomainStepComplete; (try dsimp only); (repeat' (first | (refine stays_kept ?_) | split)); (repeat' (first | (simp; done) | (simp [answerRead]; done) | split | (refine Kept.trans ?_ (domainStep_kept ..)) | (refine Kept.trans ?_ (kept_foldl _ (fun _ _ => domainStep_kept ..) _ _)) | (dsimp only; split) | (simp; split) | (simp; refine Kept.trans ?_ (domainStep_kept ..)) | (simp; refine Kept.trans ?_ (kept_foldl _ (fun _ _ => domainStep_kept ..) _ _))))
theorem execProxyPacket_stays (d : Die) (i : DomIx) (p : Packet) (s : State) : Stays s.held (execProxyPacket d i p s) := by
  unfold execProxyPacket; (try dsimp only); (repeat' (first | (refine stays_kept ?_) | split)); (repeat' (first | (simp; done) | (simp [answerRead]; done) | split | (dsimp only; split) | (simp; split)))
theorem execNetworkPacketReceive_stays (p : Packet) (errs : List (Fin 42 × FlitErr)) (f : Finds) (s : State) : Stays s.held (execNetworkPacketReceive p errs f s) := by
  unfold execNetworkPacketReceive; (try dsimp only); (repeat' (first | (refine stays_kept ?_) | split)); (repeat' (first | (simp; done) | (simp [answerRead]; done) | split | (refine Kept.trans ?_ (packetReceive_kept ..)) | (refine Kept.trans ?_ (kept_foldl _ (fun _ _ => packetReceive_kept ..) _ _)) | (dsimp only; split) | (simp; split) | (simp; refine Kept.trans ?_ (packetReceive_kept ..)) | (simp; refine Kept.trans ?_ (kept_foldl _ (fun _ _ => packetReceive_kept ..) _ _))))
theorem execEventReceive_stays (d : Die) (e : NetEvent) (taken : Bool) (s : State) : Stays s.held (execEventReceive d e taken s) := by
  unfold execEventReceive; (try dsimp only); (repeat' (first | (refine stays_kept ?_) | split)); (repeat' (first | (simp; done) | (simp [answerRead]; done) | split | (dsimp only; split) | (simp; split)))
theorem execRequestTimeout_stays (d : Die) (ep : BitVec 8) (token : BitVec 8) (s : State) : Stays s.held (execRequestTimeout d ep token s) := by
  unfold execRequestTimeout; (try dsimp only); (repeat' (first | (refine stays_kept ?_) | split)); (repeat' (first | (simp; done) | (simp [answerRead]; done) | split | (dsimp only; split) | (simp; split)))
theorem execNetworkLockup_stays (d : Die) (s : State) : Stays s.held (execNetworkLockup d s) := by
  unfold execNetworkLockup; (try dsimp only); (repeat' (first | (refine stays_kept ?_) | split)); (repeat' (first | (simp; done) | (simp [answerRead]; done) | split | (refine Kept.trans ?_ (assertReset_kept ..)) | (refine Kept.trans ?_ (kept_foldl _ (fun _ _ => assertReset_kept ..) _ _)) | (dsimp only; split) | (simp; split) | (simp; refine Kept.trans ?_ (assertReset_kept ..)) | (simp; refine Kept.trans ?_ (kept_foldl _ (fun _ _ => assertReset_kept ..) _ _))))
theorem execGenSwitchStart_stays (rq : Requester) (d : Die) (s : State) : Stays s.held (execGenSwitchStart rq d s) := by
  unfold execGenSwitchStart; (try dsimp only); (repeat' (first | (refine stays_kept ?_) | split)); (repeat' (first | (simp; done) | (simp [answerRead]; done) | split | (dsimp only; split) | (simp; split)))
theorem execGenSwitchRouter_stays (d : Die) (r : Fin 42) (s : State) : Stays s.held (execGenSwitchRouter d r s) := by
  unfold execGenSwitchRouter; (try dsimp only); (repeat' (first | (refine stays_kept ?_) | split)); (repeat' (first | (simp; done) | (simp [answerRead]; done) | split | (dsimp only; split) | (simp; split)))
theorem execGenSwitchComplete_stays (d : Die) (s : State) : Stays s.held (execGenSwitchComplete d s) := by
  unfold execGenSwitchComplete; (try dsimp only); (repeat' (first | (refine stays_kept ?_) | split)); (repeat' (first | (simp; done) | (simp [answerRead]; done) | split | (refine Kept.trans ?_ (genSwitchComplete_kept ..)) | (refine Kept.trans ?_ (kept_foldl _ (fun _ _ => genSwitchComplete_kept ..) _ _)) | (dsimp only; split) | (simp; split) | (simp; refine Kept.trans ?_ (genSwitchComplete_kept ..)) | (simp; refine Kept.trans ?_ (kept_foldl _ (fun _ _ => genSwitchComplete_kept ..) _ _))))
theorem execGenSwitchLate_stays (d : Die) (s : State) : Stays s.held (execGenSwitchLate d s) := by
  unfold execGenSwitchLate; (try dsimp only); (repeat' (first | (refine stays_kept ?_) | split)); (repeat' (first | (simp; done) | (simp [answerRead]; done) | split | (dsimp only; split) | (simp; split)))
theorem execBredanFrameReceive_stays (d : Die) (frame : BitVec 4320) (errs : List (Fin 42 × FlitErr)) (f : Finds) (s : State) : Stays s.held (execBredanFrameReceive d frame errs f s) := by
  unfold execBredanFrameReceive; (try dsimp only); (repeat' (first | (refine stays_kept ?_) | split)); (repeat' (first | (simp; done) | (simp [answerRead]; done) | split | (refine Kept.trans ?_ (frameReceive_kept ..)) | (refine Kept.trans ?_ (kept_foldl _ (fun _ _ => frameReceive_kept ..) _ _)) | (dsimp only; split) | (simp; split) | (simp; refine Kept.trans ?_ (frameReceive_kept ..)) | (simp; refine Kept.trans ?_ (kept_foldl _ (fun _ _ => frameReceive_kept ..) _ _))))
theorem execBredanNoFrame_stays (d : Die) (s : State) : Stays s.held (execBredanNoFrame d s) := by
  unfold execBredanNoFrame; (try dsimp only); (repeat' (first | (refine stays_kept ?_) | split)); (repeat' (first | (simp; done) | (simp [answerRead]; done) | split | (dsimp only; split) | (simp; split)))
theorem execBrdRetrain_stays (_rq : Requester) (d : Die) (s : State) : Stays s.held (execBrdRetrain _rq d s) := by
  unfold execBrdRetrain; (try dsimp only); (repeat' (first | (refine stays_kept ?_) | split)); (repeat' (first | (simp; done) | (simp [answerRead]; done) | split | (dsimp only; split) | (simp; split)))
theorem execBrdHoldDown_stays (_rq : Requester) (d : Die) (v : Bool) (s : State) : Stays s.held (execBrdHoldDown _rq d v s) := by
  unfold execBrdHoldDown; (try dsimp only); (repeat' (first | (refine stays_kept ?_) | split)); (repeat' (first | (simp; done) | (simp [answerRead]; done) | split | (dsimp only; split) | (simp; split)))
theorem execBredanRetrainDone_stays (d : Die) (near far : BitVec 24) (s : State) : Stays s.held (execBredanRetrainDone d near far s) := by
  unfold execBredanRetrainDone; (try dsimp only); (repeat' (first | (refine stays_kept ?_) | split)); (repeat' (first | (simp; done) | (simp [answerRead]; done) | split | (dsimp only; split) | (simp; split)))
theorem execBredanTrainAttempt_stays (d : Die) (near far : BitVec 24) (s : State) : Stays s.held (execBredanTrainAttempt d near far s) := by
  unfold execBredanTrainAttempt; (try dsimp only); (repeat' (first | (refine stays_kept ?_) | split)); (repeat' (first | (simp; done) | (simp [answerRead]; done) | split | (dsimp only; split) | (simp; split)))
theorem execRejoinEvent_stays (s : State) : Stays s.held (execRejoinEvent s) := by
  unfold execRejoinEvent; (try dsimp only); (repeat' (first | (refine stays_kept ?_) | split)); (repeat' (first | (simp; done) | (simp [answerRead]; done) | split | (dsimp only; split) | (simp; split)))
theorem execBankCollClear_stays (_rq : Requester) (d : Die) (h : Harn) (s : State) : Stays s.held (execBankCollClear _rq d h s) := by
  unfold execBankCollClear; (try dsimp only); (repeat' (first | (refine stays_kept ?_) | split)); (repeat' (first | (simp; done) | (simp [answerRead]; done) | split | (dsimp only; split) | (simp; split)))
theorem execHbmTempRead_stays (d : Die) (temp : BitVec 9) (s : State) : Stays s.held (execHbmTempRead d temp s) := by
  unfold execHbmTempRead; (try dsimp only); (repeat' (first | (refine stays_kept ?_) | split)); (repeat' (first | (simp; done) | (simp [answerRead]; done) | split | (refine Kept.trans ?_ (tempRead_kept ..)) | (refine Kept.trans ?_ (kept_foldl _ (fun _ _ => tempRead_kept ..) _ _)) | (dsimp only; split) | (simp; split) | (simp; refine Kept.trans ?_ (tempRead_kept ..)) | (simp; refine Kept.trans ?_ (kept_foldl _ (fun _ _ => tempRead_kept ..) _ _))))
theorem execHbmRateGroupDone_stays (d : Die) (bad : Option (Fin 4)) (s : State) : Stays s.held (execHbmRateGroupDone d bad s) := by
  unfold execHbmRateGroupDone; (try dsimp only); (repeat' (first | (refine stays_kept ?_) | split)); (repeat' (first | (simp; done) | (simp [answerRead]; done) | split | (dsimp only; split) | (simp; split)))
theorem execHbmPatrolScrub_stays (d : Die) (granule : Fin 771751936) (out : ReadOutcome) (s : State) : Stays s.held (execHbmPatrolScrub d granule out s) := by
  unfold execHbmPatrolScrub; (try dsimp only); (repeat' (first | (refine stays_kept ?_) | split)); (repeat' (first | (simp; done) | (simp [answerRead]; done) | split | (dsimp only; split) | (simp; split)))
theorem execHbmRetireCopyDone_stays (d : Die) (s : State) : Stays s.held (execHbmRetireCopyDone d s) := by
  unfold execHbmRetireCopyDone; (try dsimp only); (repeat' (first | (refine stays_kept ?_) | split)); (repeat' (first | (simp; done) | (simp [answerRead]; done) | split | (dsimp only; split) | (simp; split)))
theorem execMtStart_stays (_rq : Requester) (d : Die) (v : Word) (s : State) : Stays s.held (execMtStart _rq d v s) := by
  unfold execMtStart; (try dsimp only); (repeat' (first | (refine stays_kept ?_) | split)); (repeat' (first | (simp; done) | (simp [answerRead]; done) | split | (dsimp only; split) | (simp; split)))
theorem execMtAbort_stays (_rq : Requester) (d : Die) (s : State) : Stays s.held (execMtAbort _rq d s) := by
  unfold execMtAbort; (try dsimp only); (repeat' (first | (refine stays_kept ?_) | split)); (repeat' (first | (simp; done) | (simp [answerRead]; done) | split | (dsimp only; split) | (simp; split)))
theorem execMarchChunkDone_stays (d : Die) (touched : Bool) (bad : Option Nat) (s : State) : Stays s.held (execMarchChunkDone d touched bad s) := by
  unfold execMarchChunkDone; (try dsimp only); (repeat' (first | (refine stays_kept ?_) | split)); (repeat' (first | (simp; done) | (simp [answerRead]; done) | split | (dsimp only; split) | (simp; split)))
theorem execMtPassDone_stays (d : Die) (bad : List MarchPlace) (s : State) : Stays s.held (execMtPassDone d bad s) := by
  unfold execMtPassDone; (try dsimp only); (repeat' (first | (refine stays_kept ?_) | split)); (repeat' (first | (simp; done) | (simp [answerRead]; done) | split | (dsimp only; split) | (simp; split)))
theorem execEthFrameReceive_stays (p : Port) (bytes : List Byte) (fcsOk : Bool) (s : State) : Stays s.held (execEthFrameReceive p bytes fcsOk s) := by
  unfold execEthFrameReceive; (try dsimp only); (repeat' (first | (refine stays_kept ?_) | split)); (repeat' (first | (simp; done) | (simp [answerRead]; done) | split | (dsimp only; split) | (simp; split)))
theorem execEthFrameTransmit_stays (p : Port) (due : Option Nat) (s : State) : Stays s.held (execEthFrameTransmit p due s) := by
  unfold execEthFrameTransmit; (try dsimp only); (repeat' (first | (refine stays_kept ?_) | split)); (repeat' (first | (simp; done) | (simp [answerRead]; done) | split | (dsimp only; split) | (simp; split)))
theorem execQbvChange_stays (_rq : Requester) (p : Port) (s : State) : Stays s.held (execQbvChange _rq p s) := by
  unfold execQbvChange; (try dsimp only); (repeat' (first | (refine stays_kept ?_) | split)); (repeat' (first | (simp; done) | (simp [answerRead]; done) | split | (dsimp only; split) | (simp; split)))
theorem execQbvCycleStart_stays (p : Port) (s : State) : Stays s.held (execQbvCycleStart p s) := by
  unfold execQbvCycleStart; (try dsimp only); (repeat' (first | (refine stays_kept ?_) | split)); (repeat' (first | (simp; done) | (simp [answerRead]; done) | split | (dsimp only; split) | (simp; split)))
theorem execPortLinkChange_stays (p : Port) (l : LineState) (s : State) : Stays s.held (execPortLinkChange p l s) := by
  unfold execPortLinkChange; (try dsimp only); (repeat' (first | (refine stays_kept ?_) | split)); (repeat' (first | (simp; done) | (simp [answerRead]; done) | split | (dsimp only; split) | (simp; split)))
theorem execPlFrameBuild_stays (k : Ring) (s : State) : Stays s.held (execPlFrameBuild k s) := by
  unfold execPlFrameBuild; (try dsimp only); (repeat' (first | (refine stays_kept ?_) | split)); (repeat' (first | (simp; done) | (simp [answerRead]; done) | split | (dsimp only; split) | (simp; split)))
theorem execPlCycleStart_stays (k : Ring) (s : State) : Stays s.held (execPlCycleStart k s) := by
  unfold execPlCycleStart; (try dsimp only); (repeat' (first | (refine stays_kept ?_) | split)); (repeat' (first | (simp; done) | (simp [answerRead]; done) | split | (dsimp only; split) | (simp; split)))
theorem execPlFrameReturn_stays (k : Ring) (odd : Bool) (blocks : List PlBlock) (s : State) : Stays s.held (execPlFrameReturn k odd blocks s) := by
  unfold execPlFrameReturn; (try dsimp only); (repeat' (first | (refine stays_kept ?_) | split)); (repeat' (first | (simp; done) | (simp [answerRead]; done) | split | (dsimp only; split) | (simp; split)))
theorem execPlPickInstant_stays (k : Ring) (s : State) : Stays s.held (execPlPickInstant k s) := by
  unfold execPlPickInstant; (try dsimp only); (repeat' (first | (refine stays_kept ?_) | split)); (repeat' (first | (simp; done) | (simp [answerRead]; done) | split | (dsimp only; split) | (simp; split)))
theorem execPlCycleEnd_stays (k : Ring) (s : State) : Stays s.held (execPlCycleEnd k s) := by
  unfold execPlCycleEnd; (try dsimp only); (repeat' (first | (refine stays_kept ?_) | split)); (repeat' (first | (simp; done) | (simp [answerRead]; done) | split | (dsimp only; split) | (simp; split)))
theorem execDly_stays (k : Ring) (odd : Bool) (got : Option PlBlock) (x : BitVec 64) (s : State) : Stays s.held (execDly k odd got x s) := by
  unfold execDly; (try dsimp only); (repeat' (first | (refine stays_kept ?_) | split)); (repeat' (first | (simp; done) | (simp [answerRead]; done) | split | (dsimp only; split) | (simp; split)))
theorem execPlDiscover_stays (rq : Requester) (k : Ring) (s : State) : Stays s.held (execPlDiscover rq k s) := by
  unfold execPlDiscover; (try dsimp only); (repeat' (first | (refine stays_kept ?_) | split)); (repeat' (first | (simp; done) | (simp [answerRead]; done) | split | (dsimp only; split) | (simp; split)))
theorem execPlRunWrite_stays (rq : Requester) (k : Ring) (v : Bool) (s : State) : Stays s.held (execPlRunWrite rq k v s) := by
  unfold execPlRunWrite; (try dsimp only); (repeat' (first | (refine stays_kept ?_) | split)); (repeat' (first | (simp; done) | (simp [answerRead]; done) | split | (dsimp only; split) | (simp; split)))
theorem execPlGridWrite_stays (rq : Requester) (k : Ring) (reg : Fin 4) (v : Word) (s : State) : Stays s.held (execPlGridWrite rq k reg v s) := by
  unfold execPlGridWrite; (try dsimp only); (repeat' (first | (refine stays_kept ?_) | split)); (repeat' (first | (simp; done) | (simp [answerRead]; done) | split | (dsimp only; split) | (simp; split)))
theorem execPortCfgWrite_stays (rq : Requester) (p : Port) (v : Word) (s : State) : Stays s.held (execPortCfgWrite rq p v s) := by
  unfold execPortCfgWrite; (try dsimp only); (repeat' (first | (refine stays_kept ?_) | split)); (repeat' (first | (simp; done) | (simp [answerRead]; done) | split | (dsimp only; split) | (simp; split)))
theorem execSqTailDoorbell_stays (q : Qp) (v : BitVec 16) (s : State) : Stays s.held (execSqTailDoorbell q v s) := by
  unfold execSqTailDoorbell; (try dsimp only); (repeat' (first | (refine stays_kept ?_) | split)); (repeat' (first | (simp; done) | (simp [answerRead]; done) | split | (dsimp only; split) | (simp; split)))
theorem execCqHeadDoorbell_stays (q : Qp) (v : BitVec 16) (s : State) : Stays s.held (execCqHeadDoorbell q v s) := by
  unfold execCqHeadDoorbell; (try dsimp only); (repeat' (first | (refine stays_kept ?_) | split)); (repeat' (first | (simp; done) | (simp [answerRead]; done) | split | (dsimp only; split) | (simp; split)))
theorem execCommandFetch_stays (q : Qp) (entry : BitVec 512) (ok : Bool) (buf : List Byte) (bufOk : Bool) (s : State) : Stays s.held (execCommandFetch q entry ok buf bufOk s) := by
  intro t h
  unfold execCommandFetch at h
  cases h
  exact commandFetch_bound ..
theorem execCompletionWrite_stays (q : Qp) (ok : Bool) (s : State) : Stays s.held (execCompletionWrite q ok s) := by
  unfold execCompletionWrite; (try dsimp only); (repeat' (first | (refine stays_kept ?_) | split)); (repeat' (first | (simp; done) | (simp [answerRead]; done) | split | (dsimp only; split) | (simp; split)))
theorem execQpEnable_stays (q : Qp) (v : Word) (s : State) : Stays s.held (execQpEnable q v s) := by
  unfold execQpEnable; (try dsimp only); (repeat' (first | (refine stays_kept ?_) | split)); (repeat' (first | (simp; done) | (simp [answerRead]; done) | split | (refine Kept.trans ?_ (qpCtlWrite_kept ..)) | (refine Kept.trans ?_ (kept_foldl _ (fun _ _ => qpCtlWrite_kept ..) _ _)) | (dsimp only; split) | (simp; split) | (simp; refine Kept.trans ?_ (qpCtlWrite_kept ..)) | (simp; refine Kept.trans ?_ (kept_foldl _ (fun _ _ => qpCtlWrite_kept ..) _ _))))
theorem execQpDisable_stays (q : Qp) (v : Word) (s : State) : Stays s.held (execQpDisable q v s) := by
  unfold execQpDisable; (try dsimp only); (repeat' (first | (refine stays_kept ?_) | split)); (repeat' (first | (simp; done) | (simp [answerRead]; done) | split | (refine Kept.trans ?_ (qpCtlWrite_kept ..)) | (refine Kept.trans ?_ (kept_foldl _ (fun _ _ => qpCtlWrite_kept ..) _ _)) | (dsimp only; split) | (simp; split) | (simp; refine Kept.trans ?_ (qpCtlWrite_kept ..)) | (simp; refine Kept.trans ?_ (kept_foldl _ (fun _ _ => qpCtlWrite_kept ..) _ _))))
theorem execNop_stays (c : HostCmd) (s : State) : Stays s.held (execNop c s) := by
  unfold execNop; (try dsimp only); (repeat' (first | (refine stays_kept ?_) | split)); (repeat' (first | (simp; done) | (simp [answerRead]; done) | split | (dsimp only; split) | (simp; split)))
theorem execEventSub_stays (c : HostCmd) (s : State) : Stays s.held (execEventSub c s) := by
  unfold execEventSub; (try dsimp only); (repeat' (first | (refine stays_kept ?_) | split)); (repeat' (first | (simp; done) | (simp [answerRead]; done) | split | (dsimp only; split) | (simp; split)))
theorem execResetCmd_stays (c : HostCmd) (s : State) : Stays s.held (execResetCmd c s) := by
  unfold execResetCmd; (try dsimp only); (repeat' (first | (refine stays_kept ?_) | split)); (repeat' (first | (simp; done) | (simp [answerRead]; done) | split | (refine Kept.trans ?_ (resetOp_kept ..)) | (refine Kept.trans ?_ (kept_foldl _ (fun _ _ => resetOp_kept ..) _ _)) | (dsimp only; split) | (simp; split) | (simp; refine Kept.trans ?_ (resetOp_kept ..)) | (simp; refine Kept.trans ?_ (kept_foldl _ (fun _ _ => resetOp_kept ..) _ _))))
theorem execYarnCreate_stays (c : HostCmd) (s : State) : Stays s.held (execYarnCreate c s) := by
  unfold execYarnCreate; (try dsimp only); (repeat' (first | (refine stays_kept ?_) | split)); (repeat' (first | (simp; done) | (simp [answerRead]; done) | split | (dsimp only; split) | (simp; split)))
theorem execYarnStart_stays (c : HostCmd) (s : State) : Stays s.held (execYarnStart c s) := by
  unfold execYarnStart; (try dsimp only); (repeat' (first | (refine stays_kept ?_) | split)); (repeat' (first | (simp; done) | (simp [answerRead]; done) | split | (dsimp only; split) | (simp; split)))
theorem execYarnHold_stays (c : HostCmd) (s : State) : Stays s.held (execYarnHold c s) := by
  unfold execYarnHold; (try dsimp only); (repeat' (first | (refine stays_kept ?_) | split)); (repeat' (first | (simp; done) | (simp [answerRead]; done) | split | (dsimp only; split) | (simp; split)))
theorem execYarnResume_stays (c : HostCmd) (s : State) : Stays s.held (execYarnResume c s) := by
  unfold execYarnResume; (try dsimp only); (repeat' (first | (refine stays_kept ?_) | split)); (repeat' (first | (simp; done) | (simp [answerRead]; done) | split | (dsimp only; split) | (simp; split)))
theorem execYarnRestart_stays (c : HostCmd) (s : State) : Stays s.held (execYarnRestart c s) := by
  unfold execYarnRestart; (try dsimp only); (repeat' (first | (refine stays_kept ?_) | split)); (repeat' (first | (simp; done) | (simp [answerRead]; done) | split | (dsimp only; split) | (simp; split)))
theorem execYarnDelete_stays (c : HostCmd) (s : State) : Stays s.held (execYarnDelete c s) := by
  unfold execYarnDelete; (try dsimp only); (repeat' (first | (refine stays_kept ?_) | split)); (repeat' (first | (simp; done) | (simp [answerRead]; done) | split | (dsimp only; split) | (simp; split)))
theorem execYarnModify_stays (c : HostCmd) (s : State) : Stays s.held (execYarnModify c s) := by
  unfold execYarnModify; (try dsimp only); (repeat' (first | (refine stays_kept ?_) | split)); (repeat' (first | (simp; done) | (simp [answerRead]; done) | split | (dsimp only; split) | (simp; split)))
theorem execYarnQuery_stays (c : HostCmd) (s : State) : Stays s.held (execYarnQuery c s) := by
  unfold execYarnQuery; (try dsimp only); (repeat' (first | (refine stays_kept ?_) | split)); (repeat' (first | (simp; done) | (simp [answerRead]; done) | split | (dsimp only; split) | (simp; split)))
theorem execBobCreate_stays (c : HostCmd) (s : State) : Stays s.held (execBobCreate c s) := by
  unfold execBobCreate; (try dsimp only); (repeat' (first | (refine stays_kept ?_) | split)); (repeat' (first | (simp; done) | (simp [answerRead]; done) | split | (dsimp only; split) | (simp; split)))
theorem execBobDelete_stays (c : HostCmd) (s : State) : Stays s.held (execBobDelete c s) := by
  unfold execBobDelete; (try dsimp only); (repeat' (first | (refine stays_kept ?_) | split)); (repeat' (first | (simp; done) | (simp [answerRead]; done) | split | (dsimp only; split) | (simp; split)))
theorem execBobFlush_stays (c : HostCmd) (s : State) : Stays s.held (execBobFlush c s) := by
  unfold execBobFlush; (try dsimp only); (repeat' (first | (refine stays_kept ?_) | split)); (repeat' (first | (simp; done) | (simp [answerRead]; done) | split | (dsimp only; split) | (simp; split)))
theorem execBobCtlFlush_stays (rq : Requester) (d : Die) (s : State) : Stays s.held (execBobCtlFlush rq d s) := by
  unfold execBobCtlFlush; (try dsimp only); (repeat' (first | (refine stays_kept ?_) | split)); (repeat' (first | (simp; done) | (simp [answerRead]; done) | split | (dsimp only; split) | (simp; split)))
theorem execBobResize_stays (c : HostCmd) (s : State) : Stays s.held (execBobResize c s) := by
  unfold execBobResize; (try dsimp only); (repeat' (first | (refine stays_kept ?_) | split)); (repeat' (first | (simp; done) | (simp [answerRead]; done) | split | (dsimp only; split) | (simp; split)))
theorem execBobQuotaWrite_stays (rq : Requester) (d : Die) (v : Word) (s : State) : Stays s.held (execBobQuotaWrite rq d v s) := by
  unfold execBobQuotaWrite; (try dsimp only); (repeat' (first | (refine stays_kept ?_) | split)); (repeat' (first | (simp; done) | (simp [answerRead]; done) | split | (dsimp only; split) | (simp; split)))
theorem execBobQuery_stays (c : HostCmd) (s : State) : Stays s.held (execBobQuery c s) := by
  unfold execBobQuery; (try dsimp only); (repeat' (first | (refine stays_kept ?_) | split)); (repeat' (first | (simp; done) | (simp [answerRead]; done) | split | (dsimp only; split) | (simp; split)))
theorem execBobPop_stays (rq : Requester) (d : Die) (inspect : Bool) (s : State) : Stays s.held (execBobPop rq d inspect s) := by
  unfold execBobPop; (try dsimp only); (repeat' (first | (refine stays_kept ?_) | split)); (repeat' (first | (simp; done) | (simp [answerRead]; done) | split | (dsimp only; split) | (simp; split)))
theorem execBobPush_stays (rq : Requester) (d : Die) (v : Word) (s : State) : Stays s.held (execBobPush rq d v s) := by
  unfold execBobPush; (try dsimp only); (repeat' (first | (refine stays_kept ?_) | split)); (repeat' (first | (simp; done) | (simp [answerRead]; done) | split | (dsimp only; split) | (simp; split)))
theorem execItemPush_stays (c : HostCmd) (s : State) : Stays s.held (execItemPush c s) := by
  unfold execItemPush; (try dsimp only); (repeat' (first | (refine stays_kept ?_) | split)); (repeat' (first | (simp; done) | (simp [answerRead]; done) | split | (dsimp only; split) | (simp; split)))
theorem execRegionMap_stays (c : HostCmd) (s : State) : Stays s.held (execRegionMap c s) := by
  unfold execRegionMap; (try dsimp only); (repeat' (first | (refine stays_kept ?_) | split)); (repeat' (first | (simp; done) | (simp [answerRead]; done) | split | (dsimp only; split) | (simp; split)))
theorem execRegionDoorbell_stays (j : Fin 64) (v : BitVec 16) (s : State) : Stays s.held (execRegionDoorbell j v s) := by
  unfold execRegionDoorbell; (try dsimp only); (repeat' (first | (refine stays_kept ?_) | split)); (repeat' (first | (simp; done) | (simp [answerRead]; done) | split | (dsimp only; split) | (simp; split)))
theorem execRegionInputRead_stays (j : Fin 64) (out : ReadOutcome) (s : State) : Stays s.held (execRegionInputRead j out s) := by
  unfold execRegionInputRead; (try dsimp only); (repeat' (first | (refine stays_kept ?_) | split)); (repeat' (first | (simp; done) | (simp [answerRead]; done) | split | (dsimp only; split) | (simp; split)))
theorem execRegionOutputWrite_stays (j : Fin 64) (s : State) : Stays s.held (execRegionOutputWrite j s) := by
  unfold execRegionOutputWrite; (try dsimp only); (repeat' (first | (refine stays_kept ?_) | split)); (repeat' (first | (simp; done) | (simp [answerRead]; done) | split | (dsimp only; split) | (simp; split)))
theorem execDraftLoad_stays (c : HostCmd) (s : State) : Stays s.held (execDraftLoad c s) := by
  unfold execDraftLoad; (try dsimp only); (repeat' (first | (refine stays_kept ?_) | split)); (repeat' (first | (simp; done) | (simp [answerRead]; done) | split | (dsimp only; split) | (simp; split)))
theorem execDraftSwap_stays (c : HostCmd) (s : State) : Stays s.held (execDraftSwap c s) := by
  unfold execDraftSwap; (try dsimp only); (repeat' (first | (refine stays_kept ?_) | split)); (repeat' (first | (simp; done) | (simp [answerRead]; done) | split | (dsimp only; split) | (simp; split)))
theorem execDarn_stays (c : HostCmd) (s : State) : Stays s.held (execDarn c s) := by
  unfold execDarn; (try dsimp only); (repeat' (first | (refine stays_kept ?_) | split)); (repeat' (first | (simp; done) | (simp [answerRead]; done) | split | (dsimp only; split) | (simp; split)))
theorem execHarnessCfg_stays (c : HostCmd) (s : State) : Stays s.held (execHarnessCfg c s) := by
  unfold execHarnessCfg; (try dsimp only); (repeat' (first | (refine stays_kept ?_) | split)); (repeat' (first | (simp; done) | (simp [answerRead]; done) | split | (dsimp only; split) | (simp; split)))
theorem execBeatSet_stays (c : HostCmd) (s : State) : Stays s.held (execBeatSet c s) := by
  unfold execBeatSet; (try dsimp only); (repeat' (first | (refine stays_kept ?_) | split)); (repeat' (first | (simp; done) | (simp [answerRead]; done) | split | (dsimp only; split) | (simp; split)))
theorem execBeatPeriodWrite_stays (_rq : Requester) (d : Die) (v : Word) (s : State) : Stays s.held (execBeatPeriodWrite _rq d v s) := by
  unfold execBeatPeriodWrite; (try dsimp only); (repeat' (first | (refine stays_kept ?_) | split)); (repeat' (first | (simp; done) | (simp [answerRead]; done) | split | (dsimp only; split) | (simp; split)))
theorem execDomainSet_stays (c : HostCmd) (s : State) : Stays s.held (execDomainSet c s) := by
  unfold execDomainSet; (try dsimp only); (repeat' (first | (refine stays_kept ?_) | split)); (repeat' (first | (simp; done) | (simp [answerRead]; done) | split | (dsimp only; split) | (simp; split)))
theorem execMemTest_stays (c : HostCmd) (s : State) : Stays s.held (execMemTest c s) := by
  unfold execMemTest; (try dsimp only); (repeat' (first | (refine stays_kept ?_) | split)); (repeat' (first | (simp; done) | (simp [answerRead]; done) | split | (dsimp only; split) | (simp; split)))
theorem execWindowSet_stays (c : HostCmd) (s : State) : Stays s.held (execWindowSet c s) := by
  unfold execWindowSet; (try dsimp only); (repeat' (first | (refine stays_kept ?_) | split)); (repeat' (first | (simp; done) | (simp [answerRead]; done) | split | (dsimp only; split) | (simp; split)))
theorem execBeatwinSet_stays (c : HostCmd) (s : State) : Stays s.held (execBeatwinSet c s) := by
  unfold execBeatwinSet; (try dsimp only); (repeat' (first | (refine stays_kept ?_) | split)); (repeat' (first | (simp; done) | (simp [answerRead]; done) | split | (dsimp only; split) | (simp; split)))
theorem execBeatwinPub_stays (c : HostCmd) (s : State) : Stays s.held (execBeatwinPub c s) := by
  unfold execBeatwinPub; (try dsimp only); (repeat' (first | (refine stays_kept ?_) | split)); (repeat' (first | (simp; done) | (simp [answerRead]; done) | split | (dsimp only; split) | (simp; split)))
theorem execBeatwinAreaWrite_stays (s : State) : Stays s.held (execBeatwinAreaWrite s) := by
  unfold execBeatwinAreaWrite; (try dsimp only); (repeat' (first | (refine stays_kept ?_) | split)); (repeat' (first | (simp; done) | (simp [answerRead]; done) | split | (dsimp only; split) | (simp; split)))
theorem execPortCfg_stays (c : HostCmd) (s : State) : Stays s.held (execPortCfg c s) := by
  unfold execPortCfg; (try dsimp only); (repeat' (first | (refine stays_kept ?_) | split)); (repeat' (first | (simp; done) | (simp [answerRead]; done) | split | (dsimp only; split) | (simp; split)))
theorem execPortTable_stays (c : HostCmd) (s : State) : Stays s.held (execPortTable c s) := by
  unfold execPortTable; (try dsimp only); (repeat' (first | (refine stays_kept ?_) | split)); (repeat' (first | (simp; done) | (simp [answerRead]; done) | split | (dsimp only; split) | (simp; split)))
theorem execRingCfg_stays (c : HostCmd) (s : State) : Stays s.held (execRingCfg c s) := by
  unfold execRingCfg; (try dsimp only); (repeat' (first | (refine stays_kept ?_) | split)); (repeat' (first | (simp; done) | (simp [answerRead]; done) | split | (dsimp only; split) | (simp; split)))
theorem execNodeSet_stays (c : HostCmd) (s : State) : Stays s.held (execNodeSet c s) := by
  unfold execNodeSet; (try dsimp only); (repeat' (first | (refine stays_kept ?_) | split)); (repeat' (first | (simp; done) | (simp [answerRead]; done) | split | (dsimp only; split) | (simp; split)))
theorem execNvWrite_stays (c : HostCmd) (s : State) : Stays s.held (execNvWrite c s) := by
  unfold execNvWrite; (try dsimp only); (repeat' (first | (refine stays_kept ?_) | split)); (repeat' (first | (simp; done) | (simp [answerRead]; done) | split | (dsimp only; split) | (simp; split)))
theorem execDieUpdate_stays (c : HostCmd) (s : State) : Stays s.held (execDieUpdate c s) := by
  unfold execDieUpdate; (try dsimp only); (repeat' (first | (refine stays_kept ?_) | split)); (repeat' (first | (simp; done) | (simp [answerRead]; done) | split | (dsimp only; split) | (simp; split)))
theorem execFwSwapDone_stays (d : Die) (res : SwapResult) (s : State) : Stays s.held (execFwSwapDone d res s) := by
  unfold execFwSwapDone; (try dsimp only); (repeat' (first | (refine stays_kept ?_) | split)); (repeat' (first | (simp; done) | (simp [answerRead]; done) | split | (refine Kept.trans ?_ (swapDone_kept ..)) | (refine Kept.trans ?_ (kept_foldl _ (fun _ _ => swapDone_kept ..) _ _)) | (dsimp only; split) | (simp; split) | (simp; refine Kept.trans ?_ (swapDone_kept ..)) | (simp; refine Kept.trans ?_ (kept_foldl _ (fun _ _ => swapDone_kept ..) _ _))))
theorem execHdmAccess_stays (line : Fin 738197504) (wr : Option (List Byte)) (poison : Bool) (out : ReadOutcome) (s : State) : Stays s.held (execHdmAccess line wr poison out s) := by
  unfold execHdmAccess; (try dsimp only); (repeat' (first | (refine stays_kept ?_) | split)); (repeat' (first | (simp; done) | (simp [answerRead]; done) | split | (dsimp only; split) | (simp; split)))
theorem execDiagRead_stays (sp : HostSpace) (off : BitVec 27) (width : Fin 17) (f : Finds) (s : State) : Stays s.held (execDiagRead sp off width f s) := by
  unfold execDiagRead; (try dsimp only); (repeat' (first | (refine stays_kept ?_) | split)); (repeat' (first | (simp; done) | (simp [answerRead]; done) | split | (refine Kept.trans ?_ (hostRead_kept ..)) | (refine Kept.trans ?_ (kept_foldl _ (fun _ _ => hostRead_kept ..) _ _)) | (dsimp only; split) | (simp; split) | (simp; refine Kept.trans ?_ (hostRead_kept ..)) | (simp; refine Kept.trans ?_ (kept_foldl _ (fun _ _ => hostRead_kept ..) _ _))))
theorem execDiagWrite_stays (sp : HostSpace) (off : BitVec 27) (width : Fin 17) (v : BitVec 64) (f : Finds) (s : State) : Stays s.held (execDiagWrite sp off width v f s) := by
  unfold execDiagWrite; (try dsimp only); (repeat' (first | (refine stays_kept ?_) | split)); (repeat' (first | (simp; done) | (simp [answerRead]; done) | split | (refine Kept.trans ?_ (hostWrite_kept ..)) | (refine Kept.trans ?_ (kept_foldl _ (fun _ _ => hostWrite_kept ..) _ _)) | (dsimp only; split) | (simp; split) | (simp; refine Kept.trans ?_ (hostWrite_kept ..)) | (simp; refine Kept.trans ?_ (kept_foldl _ (fun _ _ => hostWrite_kept ..) _ _))))
theorem execHostReset_stays (kind : HostResetKind) (s : State) : Stays s.held (execHostReset kind s) := by
  unfold execHostReset; (try dsimp only); (repeat' (first | (refine stays_kept ?_) | split)); (repeat' (first | (simp; done) | (simp [answerRead]; done) | split | (refine Kept.trans ?_ (hostReset_kept ..)) | (refine Kept.trans ?_ (cxlDown_kept ..)) | (refine Kept.trans ?_ (kept_foldl _ (fun _ _ => hostReset_kept ..) _ _)) | (refine Kept.trans ?_ (kept_foldl _ (fun _ _ => cxlDown_kept ..) _ _)) | (dsimp only; split) | (simp; split) | (simp; refine Kept.trans ?_ (hostReset_kept ..)) | (simp; refine Kept.trans ?_ (cxlDown_kept ..)) | (simp; refine Kept.trans ?_ (kept_foldl _ (fun _ _ => hostReset_kept ..) _ _)) | (simp; refine Kept.trans ?_ (kept_foldl _ (fun _ _ => cxlDown_kept ..) _ _))))
theorem execMailboxMessage_stays (d : Die) (s : State) : Stays s.held (execMailboxMessage d s) := by
  unfold execMailboxMessage; (try dsimp only); (repeat' (first | (refine stays_kept ?_) | split)); (repeat' (first | (simp; done) | (simp [answerRead]; done) | split | (refine Kept.trans ?_ (mailboxMessage_kept ..)) | (refine Kept.trans ?_ (kept_foldl _ (fun _ _ => mailboxMessage_kept ..) _ _)) | (dsimp only; split) | (simp; split) | (simp; refine Kept.trans ?_ (mailboxMessage_kept ..)) | (simp; refine Kept.trans ?_ (kept_foldl _ (fun _ _ => mailboxMessage_kept ..) _ _))))
theorem execEventLinePending_stays (d : Die) (line : Fin 128) (s : State) : Stays s.held (execEventLinePending d line s) := by
  unfold execEventLinePending; (try dsimp only); (repeat' (first | (refine stays_kept ?_) | split)); (repeat' (first | (simp; done) | (simp [answerRead]; done) | split | (refine Kept.trans ?_ (linePending_kept ..)) | (refine Kept.trans ?_ (kept_foldl _ (fun _ _ => linePending_kept ..) _ _)) | (dsimp only; split) | (simp; split) | (simp; refine Kept.trans ?_ (linePending_kept ..)) | (simp; refine Kept.trans ?_ (kept_foldl _ (fun _ _ => linePending_kept ..) _ _))))
theorem execHandlerYield_stays (d : Die) (acts : List CoreAct) (ce : BitVec 8) (ue : Option Bool) (s : State) : Stays s.held (execHandlerYield d acts ce ue s) := by
  unfold execHandlerYield; (try dsimp only); (repeat' (first | (refine stays_kept ?_) | split)); (repeat' (first | (simp; done) | (simp [answerRead]; done) | split | (refine Kept.trans ?_ (handlerEnd_kept ..)) | (refine Kept.trans ?_ (kept_foldl _ (fun _ _ => handlerEnd_kept ..) _ _)) | (dsimp only; split) | (simp; split) | (simp; refine Kept.trans ?_ (handlerEnd_kept ..)) | (simp; refine Kept.trans ?_ (kept_foldl _ (fun _ _ => handlerEnd_kept ..) _ _))))
theorem execLockstepMismatch_stays (d : Die) (s : State) : Stays s.held (execLockstepMismatch d s) := by
  unfold execLockstepMismatch; (try dsimp only); (repeat' (first | (refine stays_kept ?_) | split)); (repeat' (first | (simp; done) | (simp [answerRead]; done) | split | (refine Kept.trans ?_ (lockUp_kept ..)) | (refine Kept.trans ?_ (kept_foldl _ (fun _ _ => lockUp_kept ..) _ _)) | (dsimp only; split) | (simp; split) | (simp; refine Kept.trans ?_ (lockUp_kept ..)) | (simp; refine Kept.trans ?_ (kept_foldl _ (fun _ _ => lockUp_kept ..) _ _))))
theorem execWindowOverflowTrap_stays (d : Die) (bank : Fin 8) (free : BitVec 16) (s : State) : Stays s.held (execWindowOverflowTrap d bank free s) := by
  unfold execWindowOverflowTrap; (try dsimp only); (repeat' (first | (refine stays_kept ?_) | split)); (repeat' (first | (simp; done) | (simp [answerRead]; done) | split | (refine Kept.trans ?_ (overflowTrap_kept ..)) | (refine Kept.trans ?_ (kept_foldl _ (fun _ _ => overflowTrap_kept ..) _ _)) | (dsimp only; split) | (simp; split) | (simp; refine Kept.trans ?_ (overflowTrap_kept ..)) | (simp; refine Kept.trans ?_ (kept_foldl _ (fun _ _ => overflowTrap_kept ..) _ _))))
theorem execWdtKick_stays (rq : Requester) (d : Die) (v : Word) (s : State) : Stays s.held (execWdtKick rq d v s) := by
  unfold execWdtKick; (try dsimp only); (repeat' (first | (refine stays_kept ?_) | split)); (repeat' (first | (simp; done) | (simp [answerRead]; done) | split | (dsimp only; split) | (simp; split)))
theorem execWdtPrewarn_stays (d : Die) (s : State) : Stays s.held (execWdtPrewarn d s) := by
  unfold execWdtPrewarn; (try dsimp only); (repeat' (first | (refine stays_kept ?_) | split)); (repeat' (first | (simp; done) | (simp [answerRead]; done) | split | (refine Kept.trans ?_ (wdtPrewarn_kept ..)) | (refine Kept.trans ?_ (kept_foldl _ (fun _ _ => wdtPrewarn_kept ..) _ _)) | (dsimp only; split) | (simp; split) | (simp; refine Kept.trans ?_ (wdtPrewarn_kept ..)) | (simp; refine Kept.trans ?_ (kept_foldl _ (fun _ _ => wdtPrewarn_kept ..) _ _))))
theorem execWdtExpire_stays (d : Die) (s : State) : Stays s.held (execWdtExpire d s) := by
  unfold execWdtExpire; (try dsimp only); (repeat' (first | (refine stays_kept ?_) | split)); (repeat' (first | (simp; done) | (simp [answerRead]; done) | split | (refine Kept.trans ?_ (wdtExpire_kept ..)) | (refine Kept.trans ?_ (kept_foldl _ (fun _ _ => wdtExpire_kept ..) _ _)) | (dsimp only; split) | (simp; split) | (simp; refine Kept.trans ?_ (wdtExpire_kept ..)) | (simp; refine Kept.trans ?_ (kept_foldl _ (fun _ _ => wdtExpire_kept ..) _ _))))
theorem execRenturRestartDone_stays (d : Die) (version : BitVec 31) (s : State) : Stays s.held (execRenturRestartDone d version s) := by
  unfold execRenturRestartDone; (try dsimp only); (repeat' (first | (refine stays_kept ?_) | split)); (repeat' (first | (simp; done) | (simp [answerRead]; done) | split | (dsimp only; split) | (simp; split)))
theorem execSemAcquire_stays (d : Die) (i : Fin 64) (owner : Die) (level : Fin 8) (s : State) : Stays s.held (execSemAcquire d i owner level s) := by
  unfold execSemAcquire; (try dsimp only); (repeat' (first | (refine stays_kept ?_) | split)); (repeat' (first | (simp; done) | (simp [answerRead]; done) | split | (dsimp only; split) | (simp; split)))
theorem execImageLoad_stays (d : Die) (src : ImgSrc) (s : State) : Stays s.held (execImageLoad d src s) := by
  unfold execImageLoad; (try dsimp only); (repeat' (first | (refine stays_kept ?_) | split)); (repeat' (first | (simp; done) | (simp [answerRead]; done) | split | (dsimp only; split) | (simp; split)))
theorem execSegmentLoad_stays (d : Die) (bytes : List Byte) (nvBad : Bool) (s : State) : Stays s.held (execSegmentLoad d bytes nvBad s) := by
  unfold execSegmentLoad; (try dsimp only); (repeat' (first | (refine stays_kept ?_) | split)); (repeat' (first | (simp; done) | (simp [answerRead]; done) | split | (dsimp only; split) | (simp; split)))
theorem execStartupStep_stays (d : Die) (s : State) : Stays s.held (execStartupStep d s) := by
  unfold execStartupStep; (try dsimp only); (repeat' (first | (refine stays_kept ?_) | split)); (repeat' (first | (simp; done) | (simp [answerRead]; done) | split | (refine Kept.trans ?_ (startupStep_kept ..)) | (refine Kept.trans ?_ (kept_foldl _ (fun _ _ => startupStep_kept ..) _ _)) | (dsimp only; split) | (simp; split) | (simp; refine Kept.trans ?_ (startupStep_kept ..)) | (simp; refine Kept.trans ?_ (kept_foldl _ (fun _ _ => startupStep_kept ..) _ _))))
theorem execStartupClockTimeout_stays (d : Die) (s : State) : Stays s.held (execStartupClockTimeout d s) := by
  unfold execStartupClockTimeout; (try dsimp only); (repeat' (first | (refine stays_kept ?_) | split)); (repeat' (first | (simp; done) | (simp [answerRead]; done) | split | (dsimp only; split) | (simp; split)))
theorem execFioRailWaitTimeout_stays (d : Die) (s : State) : Stays s.held (execFioRailWaitTimeout d s) := by
  unfold execFioRailWaitTimeout; (try dsimp only); (repeat' (first | (refine stays_kept ?_) | split)); (repeat' (first | (simp; done) | (simp [answerRead]; done) | split | (dsimp only; split) | (simp; split)))
theorem execCfgCsDeassert_stays (s : State) : Stays s.held (execCfgCsDeassert s) := by
  unfold execCfgCsDeassert; (try dsimp only); (repeat' (first | (refine stays_kept ?_) | split)); (repeat' (first | (simp; done) | (simp [answerRead]; done) | split | (dsimp only; split) | (simp; split)))
theorem execImagePush_stays (d : Die) (head : List Byte) (s : State) : Stays s.held (execImagePush d head s) := by
  unfold execImagePush; (try dsimp only); (repeat' (first | (refine stays_kept ?_) | split)); (repeat' (first | (simp; done) | (simp [answerRead]; done) | split | (dsimp only; split) | (simp; split)))
theorem execMasterCopyReload_stays (d : Die) (h : Harn) (s : State) : Stays s.held (execMasterCopyReload d h s) := by
  unfold execMasterCopyReload; (try dsimp only); (repeat' (first | (refine stays_kept ?_) | split)); (repeat' (first | (simp; done) | (simp [answerRead]; done) | split | (dsimp only; split) | (simp; split)))
theorem execScrubFrameCheck_stays (d : Die) (frame : BitVec 24) (bad stillBad : Bool) (s : State) : Stays s.held (execScrubFrameCheck d frame bad stillBad s) := by
  unfold execScrubFrameCheck; (try dsimp only); (repeat' (first | (refine stays_kept ?_) | split)); (repeat' (first | (simp; done) | (simp [answerRead]; done) | split | (dsimp only; split) | (simp; split)))
theorem execScrubRepairDone_stays (d : Die) (stillBad : Bool) (s : State) : Stays s.held (execScrubRepairDone d stillBad s) := by
  unfold execScrubRepairDone; (try dsimp only); (repeat' (first | (refine stays_kept ?_) | split)); (repeat' (first | (simp; done) | (simp [answerRead]; done) | split | (dsimp only; split) | (simp; split)))
theorem execGateInWord_stays (d : Die) (g : Fin 64) (w : TWord) (s : State) : Stays s.held (execGateInWord d g w s) := by
  unfold execGateInWord; (try dsimp only); (repeat' (first | (refine stays_kept ?_) | split)); (repeat' (first | (simp; done) | (simp [answerRead]; done) | split | (dsimp only; split) | (simp; split)))
theorem execGateOutWord_stays (d : Die) (g : Fin 64) (ready : Bool) (s : State) : Stays s.held (execGateOutWord d g ready s) := by
  unfold execGateOutWord; (try dsimp only); (repeat' (first | (refine stays_kept ?_) | split)); (repeat' (first | (simp; done) | (simp [answerRead]; done) | split | (dsimp only; split) | (simp; split)))
theorem execFringePllLockLoss_stays (d : Die) (i : Fin 2) (s : State) : Stays s.held (execFringePllLockLoss d i s) := by
  unfold execFringePllLockLoss; (try dsimp only); (repeat' (first | (refine stays_kept ?_) | split)); (repeat' (first | (simp; done) | (simp [answerRead]; done) | split | (dsimp only; split) | (simp; split)))
theorem execFioRailLoss_stays (d : Die) (s : State) : Stays s.held (execFioRailLoss d s) := by
  unfold execFioRailLoss; (try dsimp only); (repeat' (first | (refine stays_kept ?_) | split)); (repeat' (first | (simp; done) | (simp [answerRead]; done) | split | (dsimp only; split) | (simp; split)))
theorem execSerTxdWrite_stays (_rq : Requester) (d : Die) (c : Fin 8) (v : Word) (s : State) : Stays s.held (execSerTxdWrite _rq d c v s) := by
  unfold execSerTxdWrite; (try dsimp only); (repeat' (first | (refine stays_kept ?_) | split)); (repeat' (first | (simp; done) | (simp [answerRead]; done) | split | (dsimp only; split) | (simp; split)))
theorem execSerRxdRead_stays (rq : Requester) (d : Die) (c : Fin 8) (inspect : Bool) (s : State) : Stays s.held (execSerRxdRead rq d c inspect s) := by
  unfold execSerRxdRead; (try dsimp only); (repeat' (first | (refine stays_kept ?_) | split)); (repeat' (first | (simp; done) | (simp [answerRead]; done) | split | (dsimp only; split) | (simp; split)))
theorem execSerByteReceive_stays (d : Die) (c : Fin 8) (b : Byte) (bad : Bool) (s : State) : Stays s.held (execSerByteReceive d c b bad s) := by
  unfold execSerByteReceive; (try dsimp only); (repeat' (first | (refine stays_kept ?_) | split)); (repeat' (first | (simp; done) | (simp [answerRead]; done) | split | (dsimp only; split) | (simp; split)))
theorem execRoCountWindow_stays (d : Die) (i : Fin 4) (count : BitVec 16) (s : State) : Stays s.held (execRoCountWindow d i count s) := by
  unfold execRoCountWindow; (try dsimp only); (repeat' (first | (refine stays_kept ?_) | split)); (repeat' (first | (simp; done) | (simp [answerRead]; done) | split | (dsimp only; split) | (simp; split)))
theorem execResetSourceAssert_stays (d : Die) (src : Fin 13) (s : State) : Stays s.held (execResetSourceAssert d src s) := by
  unfold execResetSourceAssert; (try dsimp only); (repeat' (first | (refine stays_kept ?_) | split)); (repeat' (first | (simp; done) | (simp [answerRead]; done) | split | (refine Kept.trans ?_ (sourceAssert_kept ..)) | (refine Kept.trans ?_ (kept_foldl _ (fun _ _ => sourceAssert_kept ..) _ _)) | (dsimp only; split) | (simp; split) | (simp; refine Kept.trans ?_ (sourceAssert_kept ..)) | (simp; refine Kept.trans ?_ (kept_foldl _ (fun _ _ => sourceAssert_kept ..) _ _))))
theorem execResetSourceRelease_stays (d : Die) (src : Fin 13) (s : State) : Stays s.held (execResetSourceRelease d src s) := by
  unfold execResetSourceRelease; (try dsimp only); (repeat' (first | (refine stays_kept ?_) | split)); (repeat' (first | (simp; done) | (simp [answerRead]; done) | split | (dsimp only; split) | (simp; split)))
theorem execReleaseStage_stays (d : Die) (cs : Bool) (s : State) : Stays s.held (execReleaseStage d cs s) := by
  unfold execReleaseStage; (try dsimp only); (repeat' (first | (refine stays_kept ?_) | split)); (repeat' (first | (simp; done) | (simp [answerRead]; done) | split | (dsimp only; split) | (simp; split)))
theorem execRstReqGo_stays (rq : Requester) (d : Die) (v : Word) (s : State) : Stays s.held (execRstReqGo rq d v s) := by
  unfold execRstReqGo; (try dsimp only); (repeat' (first | (refine stays_kept ?_) | split)); (repeat' (first | (simp; done) | (simp [answerRead]; done) | split | (refine Kept.trans ?_ (rstReq_kept ..)) | (refine Kept.trans ?_ (kept_foldl _ (fun _ _ => rstReq_kept ..) _ _)) | (dsimp only; split) | (simp; split) | (simp; refine Kept.trans ?_ (rstReq_kept ..)) | (simp; refine Kept.trans ?_ (kept_foldl _ (fun _ _ => rstReq_kept ..) _ _))))
theorem execDieRestore_stays (d : Die) (s : State) : Stays s.held (execDieRestore d s) := by
  unfold execDieRestore; (try dsimp only); (repeat' (first | (refine stays_kept ?_) | split)); (repeat' (first | (simp; done) | (simp [answerRead]; done) | split | (dsimp only; split) | (simp; split)))
theorem execDozeEntry_stays (s : State) : Stays s.held (execDozeEntry s) := by
  unfold execDozeEntry; (try dsimp only); (repeat' (first | (refine stays_kept ?_) | split)); (repeat' (first | (simp; done) | (simp [answerRead]; done) | split | (refine Kept.trans ?_ (dozeEntry_kept ..)) | (refine Kept.trans ?_ (kept_foldl _ (fun _ _ => dozeEntry_kept ..) _ _)) | (dsimp only; split) | (simp; split) | (simp; refine Kept.trans ?_ (dozeEntry_kept ..)) | (simp; refine Kept.trans ?_ (kept_foldl _ (fun _ _ => dozeEntry_kept ..) _ _))))
theorem execVigilEntry_stays (s : State) : Stays s.held (execVigilEntry s) := by
  unfold execVigilEntry; (try dsimp only); (repeat' (first | (refine stays_kept ?_) | split)); (repeat' (first | (simp; done) | (simp [answerRead]; done) | split | (refine Kept.trans ?_ (vigilEntry_kept ..)) | (refine Kept.trans ?_ (kept_foldl _ (fun _ _ => vigilEntry_kept ..) _ _)) | (dsimp only; split) | (simp; split) | (simp; refine Kept.trans ?_ (vigilEntry_kept ..)) | (simp; refine Kept.trans ?_ (kept_foldl _ (fun _ _ => vigilEntry_kept ..) _ _))))
theorem execWake_stays (c : WakeCause) (s : State) : Stays s.held (execWake c s) := by
  unfold execWake; (try dsimp only); (repeat' (first | (refine stays_kept ?_) | split)); (repeat' (first | (simp; done) | (simp [answerRead]; done) | split | (refine Kept.trans ?_ (wakeEvent_kept ..)) | (refine Kept.trans ?_ (kept_foldl _ (fun _ _ => wakeEvent_kept ..) _ _)) | (dsimp only; split) | (simp; split) | (simp; refine Kept.trans ?_ (wakeEvent_kept ..)) | (simp; refine Kept.trans ?_ (kept_foldl _ (fun _ _ => wakeEvent_kept ..) _ _))))
theorem execVigilTick_stays (s : State) : Stays s.held (execVigilTick s) := by
  unfold execVigilTick; (try dsimp only); (repeat' (first | (refine stays_kept ?_) | split)); (repeat' (first | (simp; done) | (simp [answerRead]; done) | split | (refine Kept.trans ?_ (vigilTick_kept ..)) | (refine Kept.trans ?_ (kept_foldl _ (fun _ _ => vigilTick_kept ..) _ _)) | (dsimp only; split) | (simp; split) | (simp; refine Kept.trans ?_ (vigilTick_kept ..)) | (simp; refine Kept.trans ?_ (kept_foldl _ (fun _ _ => vigilTick_kept ..) _ _))))
theorem execVglLoad_stays (rq : Requester) (s : State) : Stays s.held (execVglLoad rq s) := by
  unfold execVglLoad; (try dsimp only); (repeat' (first | (refine stays_kept ?_) | split)); (repeat' (first | (simp; done) | (simp [answerRead]; done) | split | (dsimp only; split) | (simp; split)))
theorem execVglStep_stays (rq : Requester) (v : Word) (s : State) : Stays s.held (execVglStep rq v s) := by
  unfold execVglStep; (try dsimp only); (repeat' (first | (refine stays_kept ?_) | split)); (repeat' (first | (simp; done) | (simp [answerRead]; done) | split | (dsimp only; split) | (simp; split)))
theorem execPpsInEdge_stays (s : State) : Stays s.held (execPpsInEdge s) := by
  unfold execPpsInEdge; (try dsimp only); (repeat' (first | (refine stays_kept ?_) | split)); (repeat' (first | (simp; done) | (simp [answerRead]; done) | split | (dsimp only; split) | (simp; split)))
theorem execPpsHoldover_stays (s : State) : Stays s.held (execPpsHoldover s) := by
  unfold execPpsHoldover; (try dsimp only); (repeat' (first | (refine stays_kept ?_) | split)); (repeat' (first | (simp; done) | (simp [answerRead]; done) | split | (dsimp only; split) | (simp; split)))
theorem execTcxoFail_stays (reference : Bool) (s : State) : Stays s.held (execTcxoFail reference s) := by
  unfold execTcxoFail; (try dsimp only); (repeat' (first | (refine stays_kept ?_) | split)); (repeat' (first | (simp; done) | (simp [answerRead]; done) | split | (refine Kept.trans ?_ (tcxoFail_kept ..)) | (refine Kept.trans ?_ (kept_foldl _ (fun _ _ => tcxoFail_kept ..) _ _)) | (dsimp only; split) | (simp; split) | (simp; refine Kept.trans ?_ (tcxoFail_kept ..)) | (simp; refine Kept.trans ?_ (kept_foldl _ (fun _ _ => tcxoFail_kept ..) _ _))))
theorem execAlarmFire_stays (a : Fin 4) (s : State) : Stays s.held (execAlarmFire a s) := by
  unfold execAlarmFire; (try dsimp only); (repeat' (first | (refine stays_kept ?_) | split)); (repeat' (first | (simp; done) | (simp [answerRead]; done) | split | (refine Kept.trans ?_ (alarmFire_kept ..)) | (refine Kept.trans ?_ (kept_foldl _ (fun _ _ => alarmFire_kept ..) _ _)) | (dsimp only; split) | (simp; split) | (simp; refine Kept.trans ?_ (alarmFire_kept ..)) | (simp; refine Kept.trans ?_ (kept_foldl _ (fun _ _ => alarmFire_kept ..) _ _))))
theorem execComparatorTrip_stays (c : Fin 8) (s : State) : Stays s.held (execComparatorTrip c s) := by
  unfold execComparatorTrip; (try dsimp only); (repeat' (first | (refine stays_kept ?_) | split)); (repeat' (first | (simp; done) | (simp [answerRead]; done) | split | (refine Kept.trans ?_ (comparatorTrip_kept ..)) | (refine Kept.trans ?_ (kept_foldl _ (fun _ _ => comparatorTrip_kept ..) _ _)) | (dsimp only; split) | (simp; split) | (simp; refine Kept.trans ?_ (comparatorTrip_kept ..)) | (simp; refine Kept.trans ?_ (kept_foldl _ (fun _ _ => comparatorTrip_kept ..) _ _))))
theorem execPowerCapTick_stays (milliwatts : Nat) (junction : Int) (s : State) : Stays s.held (execPowerCapTick milliwatts junction s) := by
  unfold execPowerCapTick; (try dsimp only); (repeat' (first | (refine stays_kept ?_) | split)); (repeat' (first | (simp; done) | (simp [answerRead]; done) | split | (dsimp only; split) | (simp; split)))
theorem execNvRetentionScrub_stays (d : Die) (block : Fin 8192) (s : State) : Stays s.held (execNvRetentionScrub d block s) := by
  unfold execNvRetentionScrub; (try dsimp only); (repeat' (first | (refine stays_kept ?_) | split)); (repeat' (first | (simp; done) | (simp [answerRead]; done) | split | (dsimp only; split) | (simp; split)))
theorem execBrk_stays (low : Nat) (s : State) : Stays s.held (execBrk low s) := by
  unfold execBrk; (try dsimp only); (repeat' (first | (refine stays_kept ?_) | split)); (repeat' (first | (simp; done) | (simp [answerRead]; done) | split | (dsimp only; split) | (simp; split)))
theorem execIdent_stays (q : SvReq) (s : State) : Stays s.held (execIdent q s) := by
  unfold execIdent; (try dsimp only); (repeat' (first | (refine stays_kept ?_) | split)); (repeat' (first | (simp; done) | (simp [answerRead]; done) | split | (dsimp only; split) | (simp; split)))
theorem execChallenge_stays (q : SvReq) (s : State) : Stays s.held (execChallenge q s) := by
  unfold execChallenge; (try dsimp only); (repeat' (first | (refine stays_kept ?_) | split)); (repeat' (first | (simp; done) | (simp [answerRead]; done) | split | (dsimp only; split) | (simp; split)))
theorem execUnlock_stays (q : SvReq) (scope : Byte) (slot : Byte) (key : List Byte) (sig : List Byte) (s : State) : Stays s.held (execUnlock q scope slot key sig s) := by
  unfold execUnlock; (try dsimp only); (repeat' (first | (refine stays_kept ?_) | split)); (repeat' (first | (simp; done) | (simp [answerRead]; done) | split | (dsimp only; split) | (simp; split)))
theorem execLock_stays (q : SvReq) (s : State) : Stays s.held (execLock q s) := by
  unfold execLock; (try dsimp only); (repeat' (first | (refine stays_kept ?_) | split)); (repeat' (first | (simp; done) | (simp [answerRead]; done) | split | (dsimp only; split) | (simp; split)))
theorem execHalt_stays (q : SvReq) (d : Die) (t : HaltTarget) (h : Harn) (hard linked : Bool) (s : State) : Stays s.held (execHalt q d t h hard linked s) := by
  unfold execHalt; (try dsimp only); (repeat' (first | (refine stays_kept ?_) | split)); (repeat' (first | (simp; done) | (simp [answerRead]; done) | split | (dsimp only; split) | (simp; split)))
theorem execHaltForced_stays (d : Die) (s : State) : Stays s.held (execHaltForced d s) := by
  unfold execHaltForced; (try dsimp only); (repeat' (first | (refine stays_kept ?_) | split)); (repeat' (first | (simp; done) | (simp [answerRead]; done) | split | (dsimp only; split) | (simp; split)))
theorem execResume_stays (q : SvReq) (d : Die) (t : HaltTarget) (h : Harn) (s : State) : Stays s.held (execResume q d t h s) := by
  unfold execResume; (try dsimp only); (repeat' (first | (refine stays_kept ?_) | split)); (repeat' (first | (simp; done) | (simp [answerRead]; done) | split | (dsimp only; split) | (simp; split)))
theorem execSvStep_stays (q : SvReq) (d : Die) (h : Harn) (cycles : BitVec 16) (s : State) : Stays s.held (execSvStep q d h cycles s) := by
  unfold execSvStep; (try dsimp only); (repeat' (first | (refine stays_kept ?_) | split)); (repeat' (first | (simp; done) | (simp [answerRead]; done) | split | (dsimp only; split) | (simp; split)))
theorem execStepDone_stays (d : Die) (h : Harn) (s : State) : Stays s.held (execStepDone d h s) := by
  unfold execStepDone; (try dsimp only); (repeat' (first | (refine stays_kept ?_) | split)); (repeat' (first | (simp; done) | (simp [answerRead]; done) | split | (dsimp only; split) | (simp; split)))
theorem execRstRelease_stays (q : SvReq) (s : State) : Stays s.held (execRstRelease q s) := by
  unfold execRstRelease; (try dsimp only); (repeat' (first | (refine stays_kept ?_) | split)); (repeat' (first | (simp; done) | (simp [answerRead]; done) | split | (dsimp only; split) | (simp; split)))
theorem execSvStatus_stays (q : SvReq) (s : State) : Stays s.held (execSvStatus q s) := by
  unfold execSvStatus; (try dsimp only); (repeat' (first | (refine stays_kept ?_) | split)); (repeat' (first | (simp; done) | (simp [answerRead]; done) | split | (dsimp only; split) | (simp; split)))
theorem execUnlockLockoutEnd_stays (s : State) : Stays s.held (execUnlockLockoutEnd s) := by
  unfold execUnlockLockoutEnd; (try dsimp only); (repeat' (first | (refine stays_kept ?_) | split)); (repeat' (first | (simp; done) | (simp [answerRead]; done) | split | (dsimp only; split) | (simp; split)))
theorem execNonceExpire_stays (s : State) : Stays s.held (execNonceExpire s) := by
  unfold execNonceExpire; (try dsimp only); (repeat' (first | (refine stays_kept ?_) | split)); (repeat' (first | (simp; done) | (simp [answerRead]; done) | split | (dsimp only; split) | (simp; split)))
theorem execTseqStatRead_stays (rq : Requester) (d : Die) (h : Harn) (inspect : Bool) (s : State) : Stays s.held (execTseqStatRead rq d h inspect s) := by
  unfold execTseqStatRead; (try dsimp only); (repeat' (first | (refine stays_kept ?_) | split)); (repeat' (first | (simp; done) | (simp [answerRead]; done) | split | (dsimp only; split) | (simp; split)))
theorem execBeatNumLoRead_stays (rq : Requester) (d : Die) (cmt inspect : Bool) (s : State) : Stays s.held (execBeatNumLoRead rq d cmt inspect s) := by
  unfold execBeatNumLoRead; (try dsimp only); (repeat' (first | (refine stays_kept ?_) | split)); (repeat' (first | (simp; done) | (simp [answerRead]; done) | split | (dsimp only; split) | (simp; split)))
theorem execDevBeatLoRead_stays (rq : Requester) (inspect : Bool) (s : State) : Stays s.held (execDevBeatLoRead rq inspect s) := by
  unfold execDevBeatLoRead; (try dsimp only); (repeat' (first | (refine stays_kept ?_) | split)); (repeat' (first | (simp; done) | (simp [answerRead]; done) | split | (dsimp only; split) | (simp; split)))
theorem execVglTimeFracRead_stays (rq : Requester) (inspect : Bool) (s : State) : Stays s.held (execVglTimeFracRead rq inspect s) := by
  unfold execVglTimeFracRead; (try dsimp only); (repeat' (first | (refine stays_kept ?_) | split)); (repeat' (first | (simp; done) | (simp [answerRead]; done) | split | (dsimp only; split) | (simp; split)))
theorem execJrnSizeWrite_stays (_rq : Requester) (d : Die) (v : Word) (s : State) : Stays s.held (execJrnSizeWrite _rq d v s) := by
  unfold execJrnSizeWrite; (try dsimp only); (repeat' (first | (refine stays_kept ?_) | split)); (repeat' (first | (simp; done) | (simp [answerRead]; done) | split | (dsimp only; split) | (simp; split)))
theorem execJrnBaseWrite_stays (_rq : Requester) (d : Die) (v : Word) (s : State) : Stays s.held (execJrnBaseWrite _rq d v s) := by
  unfold execJrnBaseWrite; (try dsimp only); (repeat' (first | (refine stays_kept ?_) | split)); (repeat' (first | (simp; done) | (simp [answerRead]; done) | split | (dsimp only; split) | (simp; split)))
theorem execRegisterWrite_stays (rq : Requester) (d : Die) (reg : Reg) (i : Nat) (v : Word) (s : State) : Stays s.held (execRegisterWrite rq d reg i v s) := by
  unfold execRegisterWrite; (try dsimp only); (repeat' (first | (refine stays_kept ?_) | split)); (repeat' (first | (simp; done) | (simp [answerRead]; done) | split | (refine Kept.trans ?_ (regWriteAt_kept ..)) | (refine Kept.trans ?_ (kept_foldl _ (fun _ _ => regWriteAt_kept ..) _ _)) | (dsimp only; split) | (simp; split) | (simp; refine Kept.trans ?_ (regWriteAt_kept ..)) | (simp; refine Kept.trans ?_ (kept_foldl _ (fun _ _ => regWriteAt_kept ..) _ _))))
theorem execBredanLaneAlignmentLoss_stays (d : Die) (lane : Fin 24) (s : State) : Stays s.held (execBredanLaneAlignmentLoss d lane s) := by
  unfold execBredanLaneAlignmentLoss; (try dsimp only); (repeat' (first | (refine stays_kept ?_) | split)); (repeat' (first | (simp; done) | (simp [answerRead]; done) | split | (dsimp only; split) | (simp; split)))
theorem execGateControlListEntryEnd_stays (p : Port) (s : State) : Stays s.held (execGateControlListEntryEnd p s) := by
  unfold execGateControlListEntryEnd; (try dsimp only); (repeat' (first | (refine stays_kept ?_) | split)); (repeat' (first | (simp; done) | (simp [answerRead]; done) | split | (dsimp only; split) | (simp; split)))
theorem execCoalesceIntervalExpire_stays (q : Qp) (s : State) : Stays s.held (execCoalesceIntervalExpire q s) := by
  unfold execCoalesceIntervalExpire; (try dsimp only); (repeat' (first | (refine stays_kept ?_) | split)); (repeat' (first | (simp; done) | (simp [answerRead]; done) | split | (dsimp only; split) | (simp; split)))
theorem execMsixVectorUnmask_stays (v : Fin 64) (s : State) : Stays s.held (execMsixVectorUnmask v s) := by
  unfold execMsixVectorUnmask; (try dsimp only); (repeat' (first | (refine stays_kept ?_) | split)); (repeat' (first | (simp; done) | (simp [answerRead]; done) | split | (dsimp only; split) | (simp; split)))
theorem execNvStoreWriteDone_stays (d : Die) (ok : Bool) (s : State) : Stays s.held (execNvStoreWriteDone d ok s) := by
  unfold execNvStoreWriteDone; (try dsimp only); (repeat' (first | (refine stays_kept ?_) | split)); (repeat' (first | (simp; done) | (simp [answerRead]; done) | split | (dsimp only; split) | (simp; split)))
theorem execSerdesRecalibration_stays (_p : Port) (s : State) : Stays s.held (execSerdesRecalibration _p s) := by
  unfold execSerdesRecalibration; (try dsimp only); (repeat' (first | (refine stays_kept ?_) | split)); (repeat' (first | (simp; done) | (simp [answerRead]; done) | split | (dsimp only; split) | (simp; split)))
theorem execSerdesSupplyLoss_stays (lost : Bool) (s : State) : Stays s.held (execSerdesSupplyLoss lost s) := by
  unfold execSerdesSupplyLoss; (try dsimp only); (repeat' (first | (refine stays_kept ?_) | split)); (repeat' (first | (simp; done) | (simp [answerRead]; done) | split | (refine Kept.trans ?_ (cxlDown_kept ..)) | (refine Kept.trans ?_ (kept_foldl _ (fun _ _ => cxlDown_kept ..) _ _)) | (dsimp only; split) | (simp; split) | (simp; refine Kept.trans ?_ (cxlDown_kept ..)) | (simp; refine Kept.trans ?_ (kept_foldl _ (fun _ _ => cxlDown_kept ..) _ _))))
theorem execQuadReferenceLoss_stays (quad : Fin 24) (lost : Bool) (s : State) : Stays s.held (execQuadReferenceLoss quad lost s) := by
  unfold execQuadReferenceLoss; (try dsimp only); (repeat' (first | (refine stays_kept ?_) | split)); (repeat' (first | (simp; done) | (simp [answerRead]; done) | split | (dsimp only; split) | (simp; split)))
theorem execFioRailReturn_stays (d : Die) (v33 : Bool) (s : State) : Stays s.held (execFioRailReturn d v33 s) := by
  unfold execFioRailReturn; (try dsimp only); (repeat' (first | (refine stays_kept ?_) | split)); (repeat' (first | (simp; done) | (simp [answerRead]; done) | split | (dsimp only; split) | (simp; split)))
theorem execTcxoRecovery_stays (s : State) : Stays s.held (execTcxoRecovery s) := by
  unfold execTcxoRecovery; (try dsimp only); (repeat' (first | (refine stays_kept ?_) | split)); (repeat' (first | (simp; done) | (simp [answerRead]; done) | split | (dsimp only; split) | (simp; split)))
theorem execFringeClockEdge_stays (d : Die) (net : Fin 8) (level : BitVec 32) (rx : BitVec 256) (s : State) : Stays s.held (execFringeClockEdge d net level rx s) := by
  unfold execFringeClockEdge; (try dsimp only); (repeat' (first | (refine stays_kept ?_) | split)); (repeat' (first | (simp; done) | (simp [answerRead]; done) | split | (dsimp only; split) | (simp; split)))
theorem execFringePllRelock_stays (d : Die) (i : Fin 2) (s : State) : Stays s.held (execFringePllRelock d i s) := by
  unfold execFringePllRelock; (try dsimp only); (repeat' (first | (refine stays_kept ?_) | split)); (repeat' (first | (simp; done) | (simp [answerRead]; done) | split | (dsimp only; split) | (simp; split)))
theorem execSerByteSent_stays (d : Die) (c : Fin 8) (nack : Bool) (s : State) : Stays s.held (execSerByteSent d c nack s) := by
  unfold execSerByteSent; (try dsimp only); (repeat' (first | (refine stays_kept ?_) | split)); (repeat' (first | (simp; done) | (simp [answerRead]; done) | split | (dsimp only; split) | (simp; split)))
theorem execComparatorClear_stays (c : Fin 8) (s : State) : Stays s.held (execComparatorClear c s) := by
  unfold execComparatorClear; (try dsimp only); (repeat' (first | (refine stays_kept ?_) | split)); (repeat' (first | (simp; done) | (simp [answerRead]; done) | split | (dsimp only; split) | (simp; split)))
theorem execSelvedgeIdleTimeout_stays (s : State) : Stays s.held (execSelvedgeIdleTimeout s) := by
  unfold execSelvedgeIdleTimeout; (try dsimp only); (repeat' (first | (refine stays_kept ?_) | split)); (repeat' (first | (simp; done) | (simp [answerRead]; done) | split | (dsimp only; split) | (simp; split)))
theorem execSelvedgeFramingError_stays (s : State) : Stays s.held (execSelvedgeFramingError s) := by
  unfold execSelvedgeFramingError; (try dsimp only); (repeat' (first | (refine stays_kept ?_) | split)); (repeat' (first | (simp; done) | (simp [answerRead]; done) | split | (dsimp only; split) | (simp; split)))
theorem execSemaphoreRelease_stays (d : Die) (i : Fin 64) (s : State) : Stays s.held (execSemaphoreRelease d i s) := by
  unfold execSemaphoreRelease; (try dsimp only); (repeat' (first | (refine stays_kept ?_) | split)); (repeat' (first | (simp; done) | (simp [answerRead]; done) | split | (dsimp only; split) | (simp; split)))
theorem execQpDisableTimeout_stays (q : Qp) (s : State) : Stays s.held (execQpDisableTimeout q s) := by
  unfold execQpDisableTimeout; (try dsimp only); (repeat' (first | (refine stays_kept ?_) | split)); (repeat' (first | (simp; done) | (simp [answerRead]; done) | split | (dsimp only; split) | (simp; split)))
theorem execCxlLinkRetrain_stays (up : Bool) (status : Word) (s : State) : Stays s.held (execCxlLinkRetrain up status s) := by
  unfold execCxlLinkRetrain; (try dsimp only); (repeat' (first | (refine stays_kept ?_) | split)); (repeat' (first | (simp; done) | (simp [answerRead]; done) | split | (refine Kept.trans ?_ (cxlDown_kept ..)) | (refine Kept.trans ?_ (kept_foldl _ (fun _ _ => cxlDown_kept ..) _ _)) | (dsimp only; split) | (simp; split) | (simp; refine Kept.trans ?_ (cxlDown_kept ..)) | (simp; refine Kept.trans ?_ (kept_foldl _ (fun _ _ => cxlDown_kept ..) _ _))))

theorem exec_stays (i : Instr) (s : State) : Stays s.held (exec i s) :=
  match i with
  | .cellCycle d h r c u => execCellCycle_stays d h r c u s
  | .reedCycle d h n => execReedCycle_stays d h n s
  | .harnessGateTransfer d vertical h k both => execHarnessGateTransfer_stays d vertical h k both s
  | .gatewayLaneCycle d h lane => execGatewayLaneCycle_stays d h lane s
  | .treadleStep d h => execTreadleStep_stays d h s
  | .swapArm rq d h => execSwapArm_stays rq d h s
  | .swapCancel rq d h => execSwapCancel_stays rq d h s
  | .bankExchange d bad => execBankExchange_stays d bad s
  | .swapTimeout d => execSwapTimeout_stays d s
  | .darning d h r c why spareFaulty => execDarning_stays d h r c why spareFaulty s
  | .overflowReport d => execOverflowReport_stays d s
  | .itemAdmit d h idx u => execItemAdmit_stays d h idx u s
  | .markTake d y input => execMarkTake_stays d y input s
  | .bobbinWordWrite b src flip => execBobbinWordWrite_stays b src flip s
  | .bobbinSpill b flip u => execBobbinSpill_stays b flip u s
  | .bobbinRefill b flip out => execBobbinRefill_stays b flip out s
  | .bobbinWordRead b flip u => execBobbinWordRead_stays b flip u s
  | .egressStallTimeout b => execEgressStallTimeout_stays b s
  | .beatBoundary d => execBeatBoundary_stays d s
  | .checkpointWritten d y => execCheckpointWritten_stays d y s
  | .ready => execReady_stays s
  | .commit d => execCommit_stays d s
  | .replayStart d => execReplayStart_stays d s
  | .replayRestoreDone d rd => execReplayRestoreDone_stays d rd s
  | .dieLostDeclare d => execDieLostDeclare_stays d s
  | .yarnMigrateDone y => execYarnMigrateDone_stays y s
  | .dieReload d => execDieReload_stays d s
  | .harnessClockFail d h => execHarnessClockFail_stays d h s
  | .harnessClockRelock d h ok => execHarnessClockRelock_stays d h ok s
  | .clkFreqWrite rq d h v => execClkFreqWrite_stays rq d h v s
  | .clkSlewDone d h => execClkSlewDone_stays d h s
  | .avsLoopTick d h margin headroom => execAvsLoopTick_stays d h margin headroom s
  | .clockStretch d h cycles => execClockStretch_stays d h cycles s
  | .agingMeasure d h fRef fStressed => execAgingMeasure_stays d h fRef fStressed s
  | .domTargetWrite rq d n v => execDomTargetWrite_stays rq d n v s
  | .domainStepComplete d n ok f => execDomainStepComplete_stays d n ok f s
  | .domainPrechargeTimeout d n => execDomainPrechargeTimeout_stays d n s
  | .proxyPacket d n p => execProxyPacket_stays d n p s
  | .networkPacketReceive p errs f => execNetworkPacketReceive_stays p errs f s
  | .eventReceive d e taken => execEventReceive_stays d e taken s
  | .requestTimeout d ep token => execRequestTimeout_stays d ep token s
  | .networkLockup d => execNetworkLockup_stays d s
  | .genSwitchStart rq d => execGenSwitchStart_stays rq d s
  | .genSwitchRouter d r => execGenSwitchRouter_stays d r s
  | .genSwitchComplete d => execGenSwitchComplete_stays d s
  | .genSwitchLate d => execGenSwitchLate_stays d s
  | .bredanFrameReceive d frame errs f => execBredanFrameReceive_stays d frame errs f s
  | .bredanNoFrame d => execBredanNoFrame_stays d s
  | .brdRetrain rq d => execBrdRetrain_stays rq d s
  | .brdHoldDown rq d v => execBrdHoldDown_stays rq d v s
  | .bredanRetrainDone d near far => execBredanRetrainDone_stays d near far s
  | .bredanTrainAttempt d near far => execBredanTrainAttempt_stays d near far s
  | .rejoinEvent => execRejoinEvent_stays s
  | .bankCollClear rq d h => execBankCollClear_stays rq d h s
  | .hbmTempRead d temp => execHbmTempRead_stays d temp s
  | .hbmRateGroupDone d bad => execHbmRateGroupDone_stays d bad s
  | .hbmPatrolScrub d granule out => execHbmPatrolScrub_stays d granule out s
  | .hbmRetireCopyDone d => execHbmRetireCopyDone_stays d s
  | .mtStart rq d v => execMtStart_stays rq d v s
  | .mtAbort rq d => execMtAbort_stays rq d s
  | .marchChunkDone d touched bad => execMarchChunkDone_stays d touched bad s
  | .mtPassDone d bad => execMtPassDone_stays d bad s
  | .ethFrameReceive p bytes fcsOk => execEthFrameReceive_stays p bytes fcsOk s
  | .ethFrameTransmit p due => execEthFrameTransmit_stays p due s
  | .qbvChange rq p => execQbvChange_stays rq p s
  | .qbvCycleStart p => execQbvCycleStart_stays p s
  | .portLinkChange p l => execPortLinkChange_stays p l s
  | .plFrameBuild k => execPlFrameBuild_stays k s
  | .plCycleStart k => execPlCycleStart_stays k s
  | .plFrameReturn k odd blocks => execPlFrameReturn_stays k odd blocks s
  | .plPickInstant k => execPlPickInstant_stays k s
  | .plCycleEnd k => execPlCycleEnd_stays k s
  | .dly k odd got x => execDly_stays k odd got x s
  | .plDiscover rq k => execPlDiscover_stays rq k s
  | .plRunWrite rq k v => execPlRunWrite_stays rq k v s
  | .plGridWrite rq k reg v => execPlGridWrite_stays rq k reg v s
  | .portCfgWrite rq p v => execPortCfgWrite_stays rq p v s
  | .sqTailDoorbell q v => execSqTailDoorbell_stays q v s
  | .cqHeadDoorbell q v => execCqHeadDoorbell_stays q v s
  | .commandFetch q entry ok buf bufOk => execCommandFetch_stays q entry ok buf bufOk s
  | .completionWrite q ok => execCompletionWrite_stays q ok s
  | .qpEnable q v => execQpEnable_stays q v s
  | .qpDisable q v => execQpDisable_stays q v s
  | .nop c => execNop_stays c s
  | .eventSub c => execEventSub_stays c s
  | .resetCmd c => execResetCmd_stays c s
  | .yarnCreate c => execYarnCreate_stays c s
  | .yarnStart c => execYarnStart_stays c s
  | .yarnHold c => execYarnHold_stays c s
  | .yarnResume c => execYarnResume_stays c s
  | .yarnRestart c => execYarnRestart_stays c s
  | .yarnDelete c => execYarnDelete_stays c s
  | .yarnModify c => execYarnModify_stays c s
  | .yarnQuery c => execYarnQuery_stays c s
  | .bobCreate c => execBobCreate_stays c s
  | .bobDelete c => execBobDelete_stays c s
  | .bobFlush c => execBobFlush_stays c s
  | .bobCtlFlush rq d => execBobCtlFlush_stays rq d s
  | .bobResize c => execBobResize_stays c s
  | .bobQuotaWrite rq d v => execBobQuotaWrite_stays rq d v s
  | .bobQuery c => execBobQuery_stays c s
  | .bobPop rq d inspect => execBobPop_stays rq d inspect s
  | .bobPush rq d v => execBobPush_stays rq d v s
  | .itemPush c => execItemPush_stays c s
  | .regionMap c => execRegionMap_stays c s
  | .regionDoorbell j v => execRegionDoorbell_stays j v s
  | .regionInputRead j out => execRegionInputRead_stays j out s
  | .regionOutputWrite j => execRegionOutputWrite_stays j s
  | .draftLoad c => execDraftLoad_stays c s
  | .draftSwap c => execDraftSwap_stays c s
  | .darn c => execDarn_stays c s
  | .harnessCfg c => execHarnessCfg_stays c s
  | .beatSet c => execBeatSet_stays c s
  | .beatPeriodWrite rq d v => execBeatPeriodWrite_stays rq d v s
  | .domainSet c => execDomainSet_stays c s
  | .memTest c => execMemTest_stays c s
  | .windowSet c => execWindowSet_stays c s
  | .beatwinSet c => execBeatwinSet_stays c s
  | .beatwinPub c => execBeatwinPub_stays c s
  | .beatwinAreaWrite => execBeatwinAreaWrite_stays s
  | .portCfg c => execPortCfg_stays c s
  | .portTable c => execPortTable_stays c s
  | .ringCfg c => execRingCfg_stays c s
  | .nodeSet c => execNodeSet_stays c s
  | .nvWrite c => execNvWrite_stays c s
  | .dieUpdate c => execDieUpdate_stays c s
  | .fwSwapDone d res => execFwSwapDone_stays d res s
  | .hdmAccess line wr poison out => execHdmAccess_stays line wr poison out s
  | .diagRead sp off width f => execDiagRead_stays sp off width f s
  | .diagWrite sp off width v f => execDiagWrite_stays sp off width v f s
  | .hostReset kind => execHostReset_stays kind s
  | .mailboxMessage d => execMailboxMessage_stays d s
  | .eventLinePending d line => execEventLinePending_stays d line s
  | .handlerYield d acts ce ue => execHandlerYield_stays d acts ce ue s
  | .lockstepMismatch d => execLockstepMismatch_stays d s
  | .windowOverflowTrap d bank free => execWindowOverflowTrap_stays d bank free s
  | .wdtKick rq d v => execWdtKick_stays rq d v s
  | .wdtPrewarn d => execWdtPrewarn_stays d s
  | .wdtExpire d => execWdtExpire_stays d s
  | .renturRestartDone d version => execRenturRestartDone_stays d version s
  | .semAcquire d n owner level => execSemAcquire_stays d n owner level s
  | .imageLoad d src => execImageLoad_stays d src s
  | .segmentLoad d bytes nvBad => execSegmentLoad_stays d bytes nvBad s
  | .startupStep d => execStartupStep_stays d s
  | .startupClockTimeout d => execStartupClockTimeout_stays d s
  | .fioRailWaitTimeout d => execFioRailWaitTimeout_stays d s
  | .cfgCsDeassert => execCfgCsDeassert_stays s
  | .imagePush d head => execImagePush_stays d head s
  | .masterCopyReload d h => execMasterCopyReload_stays d h s
  | .scrubFrameCheck d frame bad stillBad => execScrubFrameCheck_stays d frame bad stillBad s
  | .scrubRepairDone d stillBad => execScrubRepairDone_stays d stillBad s
  | .gateInWord d g w => execGateInWord_stays d g w s
  | .gateOutWord d g ready => execGateOutWord_stays d g ready s
  | .fringePllLockLoss d n => execFringePllLockLoss_stays d n s
  | .fioRailLoss d => execFioRailLoss_stays d s
  | .serTxdWrite rq d c v => execSerTxdWrite_stays rq d c v s
  | .serRxdRead rq d c inspect => execSerRxdRead_stays rq d c inspect s
  | .serByteReceive d c b bad => execSerByteReceive_stays d c b bad s
  | .roCountWindow d n count => execRoCountWindow_stays d n count s
  | .resetSourceAssert d src => execResetSourceAssert_stays d src s
  | .resetSourceRelease d src => execResetSourceRelease_stays d src s
  | .releaseStage d cs => execReleaseStage_stays d cs s
  | .rstReqGo rq d v => execRstReqGo_stays rq d v s
  | .dieRestore d => execDieRestore_stays d s
  | .dozeEntry => execDozeEntry_stays s
  | .vigilEntry => execVigilEntry_stays s
  | .wake cause => execWake_stays cause s
  | .vigilTick => execVigilTick_stays s
  | .vglLoad rq => execVglLoad_stays rq s
  | .vglStep rq v => execVglStep_stays rq v s
  | .ppsInEdge => execPpsInEdge_stays s
  | .ppsHoldover => execPpsHoldover_stays s
  | .tcxoFail reference => execTcxoFail_stays reference s
  | .alarmFire a => execAlarmFire_stays a s
  | .comparatorTrip c => execComparatorTrip_stays c s
  | .powerCapTick milliwatts junction => execPowerCapTick_stays milliwatts junction s
  | .nvRetentionScrub d block => execNvRetentionScrub_stays d block s
  | .brk low => execBrk_stays low s
  | .ident q => execIdent_stays q s
  | .svRead q addr count attr f => execSvRead_stays q addr count attr f s
  | .svWrite q addr words f => execSvWrite_stays q addr words f s
  | .challenge q => execChallenge_stays q s
  | .unlock q scope slot key sig => execUnlock_stays q scope slot key sig s
  | .lock q => execLock_stays q s
  | .halt q d t h hard linked => execHalt_stays q d t h hard linked s
  | .haltForced d => execHaltForced_stays d s
  | .resume q d t h => execResume_stays q d t h s
  | .svStep q d h cycles => execSvStep_stays q d h cycles s
  | .stepDone d h => execStepDone_stays d h s
  | .rstAssert q level d h => execRstAssert_stays q level d h s
  | .rstRelease q => execRstRelease_stays q s
  | .svStatus q => execSvStatus_stays q s
  | .unlockLockoutEnd => execUnlockLockoutEnd_stays s
  | .nonceExpire => execNonceExpire_stays s
  | .tseqStatRead rq d h inspect => execTseqStatRead_stays rq d h inspect s
  | .beatNumLoRead rq d cmt inspect => execBeatNumLoRead_stays rq d cmt inspect s
  | .devBeatLoRead rq inspect => execDevBeatLoRead_stays rq inspect s
  | .vglTimeFracRead rq inspect => execVglTimeFracRead_stays rq inspect s
  | .jrnSizeWrite rq d v => execJrnSizeWrite_stays rq d v s
  | .jrnBaseWrite rq d v => execJrnBaseWrite_stays rq d v s
  | .registerWrite rq d reg n v => execRegisterWrite_stays rq d reg n v s
  | .bredanLaneAlignmentLoss d lane => execBredanLaneAlignmentLoss_stays d lane s
  | .gateControlListEntryEnd p => execGateControlListEntryEnd_stays p s
  | .coalesceIntervalExpire q => execCoalesceIntervalExpire_stays q s
  | .msixVectorUnmask v => execMsixVectorUnmask_stays v s
  | .nvStoreWriteDone d ok => execNvStoreWriteDone_stays d ok s
  | .serdesRecalibration p => execSerdesRecalibration_stays p s
  | .serdesSupplyLoss lost => execSerdesSupplyLoss_stays lost s
  | .quadReferenceLoss quad lost => execQuadReferenceLoss_stays quad lost s
  | .fioRailReturn d v33 => execFioRailReturn_stays d v33 s
  | .tcxoRecovery => execTcxoRecovery_stays s
  | .d3hotEntry d0 => execD3hotEntry_stays d0 s
  | .fringeClockEdge d net level rx => execFringeClockEdge_stays d net level rx s
  | .fringePllRelock d n => execFringePllRelock_stays d n s
  | .serByteSent d c nack => execSerByteSent_stays d c nack s
  | .comparatorClear c => execComparatorClear_stays c s
  | .selvedgeIdleTimeout => execSelvedgeIdleTimeout_stays s
  | .selvedgeFramingError => execSelvedgeFramingError_stays s
  | .semaphoreRelease d n => execSemaphoreRelease_stays d n s
  | .qpDisableTimeout q => execQpDisableTimeout_stays q s
  | .cxlLinkRetrain up status => execCxlLinkRetrain_stays up status s

end Sys2Proof.Machine
end

