-- ==== Sys2Proof/Laws/Sparse.lean ====
section
/-! SUPPORT. The laws of the stores: reading after writing, the canonical form is kept by every operation, and for the
byte memories the same byte by byte. -/

namespace Sys2Proof.Machine

variable {α : Type} {d : Nat → α} {m : Sparse α} {k j lo : Nat} {v : α}

/-- Forgetting a key makes it read as unlisted and leaves every other key alone. -/
theorem sparseGet_erase : sparseGet d (sparseErase m k) j = if j = k then d k else sparseGet d m j := by
  induction m with
  | nil => by_cases h : j = k <;> simp [sparseErase, sparseGet, h]
  | cons e m ih =>
    obtain ⟨k', v'⟩ := e
    unfold sparseErase at ih ⊢
    by_cases h : k' = k
    · subst h
      rw [List.filter_cons_of_neg (by simp), ih]
      by_cases h2 : j = k' <;> simp [sparseGet, h2]
    · rw [List.filter_cons_of_pos (by simp [h])]
      simp only [sparseGet, ih]
      by_cases h2 : j = k'
      · subst h2; simp [h]
      · simp [h2]

/-- Reading after writing: the key written reads as the value, and every other key as before. -/
@[simp] theorem sparseGet_sparseSet [DecidableEq α] :
    sparseGet d (sparseSet d m k v) j = if j = k then v else sparseGet d m j := by
  induction m with
  | nil =>
    unfold sparseSet
    split
    · rename_i h
      by_cases hj : j = k <;> simp [sparseGet, hj, h]
    · simp [sparseGet]
  | cons e m ih =>
    obtain ⟨k', v'⟩ := e
    unfold sparseSet
    split
    · rename_i h
      subst h
      split
      · rename_i hv
        rw [sparseGet_erase, hv]
        by_cases hj : j = k <;> simp [sparseGet, hj]
      · by_cases hj : j = k <;> simp [sparseGet, hj]
    · rename_i h
      split
      · split
        · rename_i hv
          simp only [sparseGet, sparseGet_erase, hv]
          by_cases hj : j = k
          · subst hj; simp [h]
          · simp [hj]
        · simp [sparseGet]
      · simp only [sparseGet, ih]
        by_cases hj : j = k
        · subst hj; simp [h]
        · simp [hj]

theorem sparseWfFrom_mono [DecidableEq α] {lo' : Nat} (h : lo' ≤ lo) (w : sparseWfFrom d lo m = true) :
    sparseWfFrom d lo' m = true := by
  cases m with
  | nil => rfl
  | cons e m =>
    simp only [sparseWfFrom, Bool.and_eq_true, decide_eq_true_eq] at w ⊢
    exact ⟨⟨h.trans w.1.1, w.1.2⟩, w.2⟩

theorem sparseWfFrom_filter [DecidableEq α] (p : Nat × α → Bool) (w : sparseWfFrom d lo m = true) :
    sparseWfFrom d lo (m.filter p) = true := by
  induction m generalizing lo with
  | nil => rfl
  | cons e m ih =>
    simp only [sparseWfFrom, Bool.and_eq_true, decide_eq_true_eq] at w
    rw [List.filter_cons]
    split
    · simp only [sparseWfFrom, Bool.and_eq_true, decide_eq_true_eq]
      exact ⟨w.1, ih w.2⟩
    · exact sparseWfFrom_mono (by omega) (ih w.2)

theorem sparseWfFrom_set [DecidableEq α] (hk : lo ≤ k) (w : sparseWfFrom d lo m = true) :
    sparseWfFrom d lo (sparseSet d m k v) = true := by
  induction m generalizing lo with
  | nil =>
    unfold sparseSet
    split
    · rfl
    · rename_i h; simp [sparseWfFrom, hk, h]
  | cons e m ih =>
    obtain ⟨k', v'⟩ := e
    have w' := w
    simp only [sparseWfFrom, Bool.and_eq_true, decide_eq_true_eq] at w
    unfold sparseSet
    split
    · rename_i h
      subst h
      split
      · exact sparseWfFrom_mono (by omega) (sparseWfFrom_filter _ w.2)
      · rename_i hv; simp [sparseWfFrom, hk, hv, w.2]
    · split
      · split
        · simp only [sparseWfFrom, Bool.and_eq_true, decide_eq_true_eq]
          exact ⟨w.1, sparseWfFrom_filter _ w.2⟩
        · rename_i h1 h2 hv
          simp only [sparseWfFrom, Bool.and_eq_true, decide_eq_true_eq]
          refine ⟨⟨hk, by simp [hv]⟩, ⟨by omega, w.1.2⟩, w.2⟩
      · rename_i h1 h2
        simp only [sparseWfFrom, Bool.and_eq_true, decide_eq_true_eq]
        exact ⟨w.1, ih (by omega) w.2⟩

/-- A write keeps the canonical form. -/
theorem sparseWf_set [DecidableEq α] (w : sparseWf d m = true) : sparseWf d (sparseSet d m k v) = true :=
  sparseWfFrom_set (Nat.zero_le _) w

/-- Forgetting keys keeps the canonical form. -/
theorem sparseWf_drop [DecidableEq α] (p : Nat → Bool) (w : sparseWf d m = true) : sparseWf d (sparseDrop m p) = true :=
  sparseWfFrom_filter _ w

/-! ## Byte memories -/

/-- Reading a byte after writing one. -/
@[simp] theorem memByte_memSetByte (m : Mem) (a b : Nat) (v : Byte) :
    memByte (memSetByte m a v) b = if b = a then v else memByte m b := sparseGet_sparseSet

/-- Writing bytes changes no byte outside the range written. -/
theorem memByte_memWrite_out (m : Mem) (a b : Nat) (bs : List Byte) (h : b < a ∨ a + bs.length ≤ b) :
    memByte (memWrite m a bs) b = memByte m b := by
  induction bs generalizing m a with
  | nil => rfl
  | cons x xs ih =>
    simp only [List.length_cons] at h
    rw [memWrite, ih _ _ (by omega), memByte_memSetByte, if_neg (by omega)]

/-- Writing bytes makes each byte of the range read as the byte written there. -/
theorem memByte_memWrite_in (m : Mem) (a i : Nat) (bs : List Byte) (h : i < bs.length) :
    memByte (memWrite m a bs) (a + i) = bs.getD i 0 := by
  induction bs generalizing m a i with
  | nil => simp at h
  | cons x xs ih =>
    cases i with
    | zero => rw [memWrite, memByte_memWrite_out _ _ _ _ (by omega)]; simp
    | succ i =>
      rw [memWrite, show a + (i + 1) = a + 1 + i by omega, ih _ _ _ (by simpa using h)]
      simp

/-- The bytes read from where bytes were written are those bytes. -/
theorem memRead_memWrite (m : Mem) (a : Nat) (bs : List Byte) : memRead (memWrite m a bs) a bs.length = bs := by
  have key : ∀ n b, (∀ i, i < n → memByte (memWrite m a bs) (b + i) = (bs.drop (b - a)).getD i 0) → a ≤ b →
      b - a + n = bs.length → memRead (memWrite m a bs) b n = bs.drop (b - a) := by
    intro n
    induction n with
    | zero =>
      intro b _ _ hn
      rw [memRead, List.drop_eq_nil_of_le (by omega)]
    | succ n ih =>
      intro b hb hab hn
      have hlt : b - a < bs.length := by omega
      rw [memRead, ih (b + 1) ?_ (by omega) (by omega)]
      · have h0 := hb 0 (by omega)
        rw [Nat.add_zero] at h0
        rw [h0, show b + 1 - a = b - a + 1 by omega]
        simp [List.getElem?_eq_getElem hlt]
      · intro i hi
        have := hb (i + 1) (by omega)
        rw [show b + 1 + i = b + (i + 1) by omega, this, show b + 1 - a = b - a + 1 by omega]
        rw [List.getD_eq_getElem?_getD, List.getD_eq_getElem?_getD, List.getElem?_drop, List.getElem?_drop]
        congr 2
        omega
  have := key bs.length a (fun i hi => ?_) le_rfl (by omega)
  · simpa using this
  · rw [memByte_memWrite_in _ _ _ _ hi]
    simp

theorem memRead_length (m : Mem) (a n : Nat) : (memRead m a n).length = n := by
  induction n generalizing a with
  | zero => rfl
  | succ n ih => simp [memRead, ih]

/-- A read is the read of its first bytes and then of the others. -/
theorem memRead_add (m : Mem) (a n k : Nat) : memRead m a (n + k) = memRead m a n ++ memRead m (a + n) k := by
  induction n generalizing a with
  | zero => simp [memRead]
  | succ n ih =>
    rw [show n + 1 + k = n + k + 1 by omega, memRead, memRead, ih (a + 1), List.cons_append, show a + 1 + n = a + (n + 1) by omega]

/-- Reading some of the bytes that have just been written. -/
theorem memRead_memWrite_within (m : Mem) (a o n : Nat) (bs : List Byte) (h : o + n ≤ bs.length) :
    memRead (memWrite m a bs) (a + o) n = (bs.drop o).take n := by
  have key := memRead_memWrite m a bs
  obtain ⟨k, hk⟩ := Nat.exists_eq_add_of_le h
  rw [hk, memRead_add, memRead_add, List.append_assoc] at key
  have hx := congrArg (fun l => (l.drop o).take n) key
  rwa [List.drop_left' (memRead_length _ _ _), List.take_left' (memRead_length _ _ _)] at hx

theorem memRead_getD (m : Mem) (a n i : Nat) (h : i < n) : (memRead m a n).getD i 0 = memByte m (a + i) := by
  induction n generalizing a i with
  | zero => omega
  | succ n ih =>
    cases i with
    | zero => simp [memRead]
    | succ i =>
      rw [memRead, List.getD_cons_succ, ih (a + 1) i (by omega), show a + 1 + i = a + (i + 1) by omega]

/-- Writing back what a range holds changes no byte. -/
theorem memByte_rewrite (m : Mem) (a n b : Nat) : memByte (memWrite m a (memRead m a n)) b = memByte m b := by
  by_cases h : b < a ∨ a + n ≤ b
  · exact memByte_memWrite_out _ _ _ _ (by rwa [memRead_length])
  · obtain ⟨i, rfl⟩ : ∃ i, b = a + i := ⟨b - a, by omega⟩
    rw [memByte_memWrite_in _ _ _ _ (by rw [memRead_length]; omega), memRead_getD _ _ _ _ (by omega)]

/-- A byte write keeps the canonical form. -/
theorem memory_wf_setByte (m : Mem) (a : Nat) (v : Byte) (w : Memory.wf m = true) : Memory.wf (memSetByte m a v) = true :=
  sparseWf_set w

/-- A write of bytes keeps the canonical form. -/
theorem memory_wf_write (m : Mem) (a : Nat) (bs : List Byte) (w : Memory.wf m = true) :
    Memory.wf (memWrite m a bs) = true := by
  induction bs generalizing m a with
  | nil => exact w
  | cons b bs ih => exact ih _ _ (memory_wf_setByte _ _ _ w)

/-- Clearing a range keeps the canonical form. -/
theorem memory_wf_clear (m : Mem) (a n : Nat) (w : Memory.wf m = true) : Memory.wf (memClear m a n) = true :=
  sparseWfFrom_filter _ w

end Sys2Proof.Machine
end

