-- ==== Sys2Proof/Laws/State.lean ====
section
/-! SUPPORT. What each write of the state changes and leaves alone: for every setter one lemma per field of `State`, and
what its getter reads after it. -/

namespace Sys2Proof.Machine

/-! ### setCell -/

@[simp] theorem setCell_flow (s : State) (k : Nat) (v : CellSt) : (setCell s k v).flow = s.flow := Eq.trans rfl rfl
@[simp] theorem setCell_beats (s : State) (k : Nat) (v : CellSt) : (setCell s k v).beats = s.beats := Eq.trans rfl rfl
@[simp] theorem setCell_doms (s : State) (k : Nat) (v : CellSt) : (setCell s k v).doms = s.doms := Eq.trans rfl rfl
@[simp] theorem setCell_net (s : State) (k : Nat) (v : CellSt) : (setCell s k v).net = s.net := Eq.trans rfl rfl
@[simp] theorem setCell_brd (s : State) (k : Nat) (v : CellSt) : (setCell s k v).brd = s.brd := Eq.trans rfl rfl
@[simp] theorem setCell_mem (s : State) (k : Nat) (v : CellSt) : (setCell s k v).mem = s.mem := Eq.trans rfl rfl
@[simp] theorem setCell_ports (s : State) (k : Nat) (v : CellSt) : (setCell s k v).ports = s.ports := Eq.trans rfl rfl
@[simp] theorem setCell_host (s : State) (k : Nat) (v : CellSt) : (setCell s k v).host = s.host := Eq.trans rfl rfl
@[simp] theorem setCell_rt (s : State) (k : Nat) (v : CellSt) : (setCell s k v).rt = s.rt := Eq.trans rfl rfl
@[simp] theorem setCell_img (s : State) (k : Nat) (v : CellSt) : (setCell s k v).img = s.img := Eq.trans rfl rfl
@[simp] theorem setCell_fringe (s : State) (k : Nat) (v : CellSt) : (setCell s k v).fringe = s.fringe := Eq.trans rfl rfl
@[simp] theorem setCell_rst (s : State) (k : Nat) (v : CellSt) : (setCell s k v).rst = s.rst := Eq.trans rfl rfl
@[simp] theorem setCell_vigil (s : State) (k : Nat) (v : CellSt) : (setCell s k v).vigil = s.vigil := Eq.trans rfl rfl
@[simp] theorem setCell_dbg (s : State) (k : Nat) (v : CellSt) : (setCell s k v).dbg = s.dbg := Eq.trans rfl rfl
@[simp] theorem setCell_cap (s : State) (k : Nat) (v : CellSt) : (setCell s k v).cap = s.cap := Eq.trans rfl rfl
@[simp] theorem setCell_fuses (s : State) (k : Nat) (v : CellSt) : (setCell s k v).fuses = s.fuses := Eq.trans rfl rfl
@[simp] theorem setCell_regs (s : State) (k : Nat) (v : CellSt) : (setCell s k v).regs = s.regs := Eq.trans rfl rfl
@[simp] theorem setCell_pending (s : State) (k : Nat) (v : CellSt) : (setCell s k v).pending = s.pending := Eq.trans rfl rfl
@[simp] theorem setCell_outbox (s : State) (k : Nat) (v : CellSt) : (setCell s k v).outbox = s.outbox := Eq.trans rfl rfl
@[simp] theorem setCell_free (s : State) (k : Nat) (v : CellSt) : (setCell s k v).free = s.free := Eq.trans rfl rfl
/-- Reading after `setCell`. -/
@[simp] theorem getCell_setCell (s : State) (k : Nat) (v : CellSt) (other : Nat) :
    getCell (setCell s k v) other = if other = k then v else getCell s other := by
  simp [getCell, setCell, Fin.ext_iff]

/-! ### setHar -/

@[simp] theorem setHar_flow (s : State) (d : Die) (h : Nat) (v : HarSt) : (setHar s d h v).flow = s.flow := Eq.trans rfl rfl
@[simp] theorem setHar_beats (s : State) (d : Die) (h : Nat) (v : HarSt) : (setHar s d h v).beats = s.beats := Eq.trans rfl rfl
@[simp] theorem setHar_doms (s : State) (d : Die) (h : Nat) (v : HarSt) : (setHar s d h v).doms = s.doms := Eq.trans rfl rfl
@[simp] theorem setHar_net (s : State) (d : Die) (h : Nat) (v : HarSt) : (setHar s d h v).net = s.net := Eq.trans rfl rfl
@[simp] theorem setHar_brd (s : State) (d : Die) (h : Nat) (v : HarSt) : (setHar s d h v).brd = s.brd := Eq.trans rfl rfl
@[simp] theorem setHar_mem (s : State) (d : Die) (h : Nat) (v : HarSt) : (setHar s d h v).mem = s.mem := Eq.trans rfl rfl
@[simp] theorem setHar_ports (s : State) (d : Die) (h : Nat) (v : HarSt) : (setHar s d h v).ports = s.ports := Eq.trans rfl rfl
@[simp] theorem setHar_host (s : State) (d : Die) (h : Nat) (v : HarSt) : (setHar s d h v).host = s.host := Eq.trans rfl rfl
@[simp] theorem setHar_rt (s : State) (d : Die) (h : Nat) (v : HarSt) : (setHar s d h v).rt = s.rt := Eq.trans rfl rfl
@[simp] theorem setHar_img (s : State) (d : Die) (h : Nat) (v : HarSt) : (setHar s d h v).img = s.img := Eq.trans rfl rfl
@[simp] theorem setHar_fringe (s : State) (d : Die) (h : Nat) (v : HarSt) : (setHar s d h v).fringe = s.fringe := Eq.trans rfl rfl
@[simp] theorem setHar_rst (s : State) (d : Die) (h : Nat) (v : HarSt) : (setHar s d h v).rst = s.rst := Eq.trans rfl rfl
@[simp] theorem setHar_vigil (s : State) (d : Die) (h : Nat) (v : HarSt) : (setHar s d h v).vigil = s.vigil := Eq.trans rfl rfl
@[simp] theorem setHar_dbg (s : State) (d : Die) (h : Nat) (v : HarSt) : (setHar s d h v).dbg = s.dbg := Eq.trans rfl rfl
@[simp] theorem setHar_cap (s : State) (d : Die) (h : Nat) (v : HarSt) : (setHar s d h v).cap = s.cap := Eq.trans rfl rfl
@[simp] theorem setHar_fuses (s : State) (d : Die) (h : Nat) (v : HarSt) : (setHar s d h v).fuses = s.fuses := Eq.trans rfl rfl
@[simp] theorem setHar_regs (s : State) (d : Die) (h : Nat) (v : HarSt) : (setHar s d h v).regs = s.regs := Eq.trans rfl rfl
@[simp] theorem setHar_pending (s : State) (d : Die) (h : Nat) (v : HarSt) : (setHar s d h v).pending = s.pending := Eq.trans rfl rfl
@[simp] theorem setHar_outbox (s : State) (d : Die) (h : Nat) (v : HarSt) : (setHar s d h v).outbox = s.outbox := Eq.trans rfl rfl
@[simp] theorem setHar_free (s : State) (d : Die) (h : Nat) (v : HarSt) : (setHar s d h v).free = s.free := Eq.trans rfl rfl
/-- Reading after `setHar` at the place written. -/
@[simp] theorem getHar_setHar (s : State) (d : Die) (h : Nat) (v : HarSt) :
    getHar (setHar s d h v) d h = v := by
  simp [getHar, setHar]

/-! ### setReedIn -/

@[simp] theorem setReedIn_flow (s : State) (k : Nat) (w : Option Wire) : (setReedIn s k w).flow = s.flow := Eq.trans rfl rfl
@[simp] theorem setReedIn_beats (s : State) (k : Nat) (w : Option Wire) : (setReedIn s k w).beats = s.beats := Eq.trans rfl rfl
@[simp] theorem setReedIn_doms (s : State) (k : Nat) (w : Option Wire) : (setReedIn s k w).doms = s.doms := Eq.trans rfl rfl
@[simp] theorem setReedIn_net (s : State) (k : Nat) (w : Option Wire) : (setReedIn s k w).net = s.net := Eq.trans rfl rfl
@[simp] theorem setReedIn_brd (s : State) (k : Nat) (w : Option Wire) : (setReedIn s k w).brd = s.brd := Eq.trans rfl rfl
@[simp] theorem setReedIn_mem (s : State) (k : Nat) (w : Option Wire) : (setReedIn s k w).mem = s.mem := Eq.trans rfl rfl
@[simp] theorem setReedIn_ports (s : State) (k : Nat) (w : Option Wire) : (setReedIn s k w).ports = s.ports := Eq.trans rfl rfl
@[simp] theorem setReedIn_host (s : State) (k : Nat) (w : Option Wire) : (setReedIn s k w).host = s.host := Eq.trans rfl rfl
@[simp] theorem setReedIn_rt (s : State) (k : Nat) (w : Option Wire) : (setReedIn s k w).rt = s.rt := Eq.trans rfl rfl
@[simp] theorem setReedIn_img (s : State) (k : Nat) (w : Option Wire) : (setReedIn s k w).img = s.img := Eq.trans rfl rfl
@[simp] theorem setReedIn_fringe (s : State) (k : Nat) (w : Option Wire) : (setReedIn s k w).fringe = s.fringe := Eq.trans rfl rfl
@[simp] theorem setReedIn_rst (s : State) (k : Nat) (w : Option Wire) : (setReedIn s k w).rst = s.rst := Eq.trans rfl rfl
@[simp] theorem setReedIn_vigil (s : State) (k : Nat) (w : Option Wire) : (setReedIn s k w).vigil = s.vigil := Eq.trans rfl rfl
@[simp] theorem setReedIn_dbg (s : State) (k : Nat) (w : Option Wire) : (setReedIn s k w).dbg = s.dbg := Eq.trans rfl rfl
@[simp] theorem setReedIn_cap (s : State) (k : Nat) (w : Option Wire) : (setReedIn s k w).cap = s.cap := Eq.trans rfl rfl
@[simp] theorem setReedIn_fuses (s : State) (k : Nat) (w : Option Wire) : (setReedIn s k w).fuses = s.fuses := Eq.trans rfl rfl
@[simp] theorem setReedIn_regs (s : State) (k : Nat) (w : Option Wire) : (setReedIn s k w).regs = s.regs := Eq.trans rfl rfl
@[simp] theorem setReedIn_pending (s : State) (k : Nat) (w : Option Wire) : (setReedIn s k w).pending = s.pending := Eq.trans rfl rfl
@[simp] theorem setReedIn_outbox (s : State) (k : Nat) (w : Option Wire) : (setReedIn s k w).outbox = s.outbox := Eq.trans rfl rfl
@[simp] theorem setReedIn_free (s : State) (k : Nat) (w : Option Wire) : (setReedIn s k w).free = s.free := Eq.trans rfl rfl
/-- Reading after `setReedIn`. -/
@[simp] theorem getReedIn_setReedIn (s : State) (k : Nat) (w : Option Wire) (other : Nat) :
    getReedIn (setReedIn s k w) other = if other = k then w else getReedIn s other := by
  simp [getReedIn, setReedIn, Fin.ext_iff]

/-! ### setGate -/

@[simp] theorem setGate_flow (s : State) (k : Nat) (v : GateSt) : (setGate s k v).flow = s.flow := Eq.trans rfl rfl
@[simp] theorem setGate_beats (s : State) (k : Nat) (v : GateSt) : (setGate s k v).beats = s.beats := Eq.trans rfl rfl
@[simp] theorem setGate_doms (s : State) (k : Nat) (v : GateSt) : (setGate s k v).doms = s.doms := Eq.trans rfl rfl
@[simp] theorem setGate_net (s : State) (k : Nat) (v : GateSt) : (setGate s k v).net = s.net := Eq.trans rfl rfl
@[simp] theorem setGate_brd (s : State) (k : Nat) (v : GateSt) : (setGate s k v).brd = s.brd := Eq.trans rfl rfl
@[simp] theorem setGate_mem (s : State) (k : Nat) (v : GateSt) : (setGate s k v).mem = s.mem := Eq.trans rfl rfl
@[simp] theorem setGate_ports (s : State) (k : Nat) (v : GateSt) : (setGate s k v).ports = s.ports := Eq.trans rfl rfl
@[simp] theorem setGate_host (s : State) (k : Nat) (v : GateSt) : (setGate s k v).host = s.host := Eq.trans rfl rfl
@[simp] theorem setGate_rt (s : State) (k : Nat) (v : GateSt) : (setGate s k v).rt = s.rt := Eq.trans rfl rfl
@[simp] theorem setGate_img (s : State) (k : Nat) (v : GateSt) : (setGate s k v).img = s.img := Eq.trans rfl rfl
@[simp] theorem setGate_fringe (s : State) (k : Nat) (v : GateSt) : (setGate s k v).fringe = s.fringe := Eq.trans rfl rfl
@[simp] theorem setGate_rst (s : State) (k : Nat) (v : GateSt) : (setGate s k v).rst = s.rst := Eq.trans rfl rfl
@[simp] theorem setGate_vigil (s : State) (k : Nat) (v : GateSt) : (setGate s k v).vigil = s.vigil := Eq.trans rfl rfl
@[simp] theorem setGate_dbg (s : State) (k : Nat) (v : GateSt) : (setGate s k v).dbg = s.dbg := Eq.trans rfl rfl
@[simp] theorem setGate_cap (s : State) (k : Nat) (v : GateSt) : (setGate s k v).cap = s.cap := Eq.trans rfl rfl
@[simp] theorem setGate_fuses (s : State) (k : Nat) (v : GateSt) : (setGate s k v).fuses = s.fuses := Eq.trans rfl rfl
@[simp] theorem setGate_regs (s : State) (k : Nat) (v : GateSt) : (setGate s k v).regs = s.regs := Eq.trans rfl rfl
@[simp] theorem setGate_pending (s : State) (k : Nat) (v : GateSt) : (setGate s k v).pending = s.pending := Eq.trans rfl rfl
@[simp] theorem setGate_outbox (s : State) (k : Nat) (v : GateSt) : (setGate s k v).outbox = s.outbox := Eq.trans rfl rfl
@[simp] theorem setGate_free (s : State) (k : Nat) (v : GateSt) : (setGate s k v).free = s.free := Eq.trans rfl rfl
/-- Reading after `setGate`. -/
@[simp] theorem getGate_setGate (s : State) (k : Nat) (v : GateSt) (other : Nat) :
    getGate (setGate s k v) other = if other = k then v else getGate s other := by
  simp [getGate, setGate, Fin.ext_iff]

/-! ### setScratch -/

@[simp] theorem setScratch_flow (s : State) (ck a : Nat) (w : Word) : (setScratch s ck a w).flow = s.flow := Eq.trans rfl rfl
@[simp] theorem setScratch_beats (s : State) (ck a : Nat) (w : Word) : (setScratch s ck a w).beats = s.beats := Eq.trans rfl rfl
@[simp] theorem setScratch_doms (s : State) (ck a : Nat) (w : Word) : (setScratch s ck a w).doms = s.doms := Eq.trans rfl rfl
@[simp] theorem setScratch_net (s : State) (ck a : Nat) (w : Word) : (setScratch s ck a w).net = s.net := Eq.trans rfl rfl
@[simp] theorem setScratch_brd (s : State) (ck a : Nat) (w : Word) : (setScratch s ck a w).brd = s.brd := Eq.trans rfl rfl
@[simp] theorem setScratch_mem (s : State) (ck a : Nat) (w : Word) : (setScratch s ck a w).mem = s.mem := Eq.trans rfl rfl
@[simp] theorem setScratch_ports (s : State) (ck a : Nat) (w : Word) : (setScratch s ck a w).ports = s.ports := Eq.trans rfl rfl
@[simp] theorem setScratch_host (s : State) (ck a : Nat) (w : Word) : (setScratch s ck a w).host = s.host := Eq.trans rfl rfl
@[simp] theorem setScratch_rt (s : State) (ck a : Nat) (w : Word) : (setScratch s ck a w).rt = s.rt := Eq.trans rfl rfl
@[simp] theorem setScratch_img (s : State) (ck a : Nat) (w : Word) : (setScratch s ck a w).img = s.img := Eq.trans rfl rfl
@[simp] theorem setScratch_fringe (s : State) (ck a : Nat) (w : Word) : (setScratch s ck a w).fringe = s.fringe := Eq.trans rfl rfl
@[simp] theorem setScratch_rst (s : State) (ck a : Nat) (w : Word) : (setScratch s ck a w).rst = s.rst := Eq.trans rfl rfl
@[simp] theorem setScratch_vigil (s : State) (ck a : Nat) (w : Word) : (setScratch s ck a w).vigil = s.vigil := Eq.trans rfl rfl
@[simp] theorem setScratch_dbg (s : State) (ck a : Nat) (w : Word) : (setScratch s ck a w).dbg = s.dbg := Eq.trans rfl rfl
@[simp] theorem setScratch_cap (s : State) (ck a : Nat) (w : Word) : (setScratch s ck a w).cap = s.cap := Eq.trans rfl rfl
@[simp] theorem setScratch_fuses (s : State) (ck a : Nat) (w : Word) : (setScratch s ck a w).fuses = s.fuses := Eq.trans rfl rfl
@[simp] theorem setScratch_regs (s : State) (ck a : Nat) (w : Word) : (setScratch s ck a w).regs = s.regs := Eq.trans rfl rfl
@[simp] theorem setScratch_pending (s : State) (ck a : Nat) (w : Word) : (setScratch s ck a w).pending = s.pending := Eq.trans rfl rfl
@[simp] theorem setScratch_outbox (s : State) (ck a : Nat) (w : Word) : (setScratch s ck a w).outbox = s.outbox := Eq.trans rfl rfl
@[simp] theorem setScratch_free (s : State) (ck a : Nat) (w : Word) : (setScratch s ck a w).free = s.free := Eq.trans rfl rfl
/-- Reading after `setScratch` at the place written. -/
@[simp] theorem getScratch_setScratch (s : State) (ck a : Nat) (w : Word) :
    getScratch (setScratch s ck a w) ck a = w := by
  simp [getScratch, setScratch]

/-! ### setShared -/

@[simp] theorem setShared_flow (s : State) (ck g : Nat) (w : Word) : (setShared s ck g w).flow = s.flow := Eq.trans rfl rfl
@[simp] theorem setShared_beats (s : State) (ck g : Nat) (w : Word) : (setShared s ck g w).beats = s.beats := Eq.trans rfl rfl
@[simp] theorem setShared_doms (s : State) (ck g : Nat) (w : Word) : (setShared s ck g w).doms = s.doms := Eq.trans rfl rfl
@[simp] theorem setShared_net (s : State) (ck g : Nat) (w : Word) : (setShared s ck g w).net = s.net := Eq.trans rfl rfl
@[simp] theorem setShared_brd (s : State) (ck g : Nat) (w : Word) : (setShared s ck g w).brd = s.brd := Eq.trans rfl rfl
@[simp] theorem setShared_mem (s : State) (ck g : Nat) (w : Word) : (setShared s ck g w).mem = s.mem := Eq.trans rfl rfl
@[simp] theorem setShared_ports (s : State) (ck g : Nat) (w : Word) : (setShared s ck g w).ports = s.ports := Eq.trans rfl rfl
@[simp] theorem setShared_host (s : State) (ck g : Nat) (w : Word) : (setShared s ck g w).host = s.host := Eq.trans rfl rfl
@[simp] theorem setShared_rt (s : State) (ck g : Nat) (w : Word) : (setShared s ck g w).rt = s.rt := Eq.trans rfl rfl
@[simp] theorem setShared_img (s : State) (ck g : Nat) (w : Word) : (setShared s ck g w).img = s.img := Eq.trans rfl rfl
@[simp] theorem setShared_fringe (s : State) (ck g : Nat) (w : Word) : (setShared s ck g w).fringe = s.fringe := Eq.trans rfl rfl
@[simp] theorem setShared_rst (s : State) (ck g : Nat) (w : Word) : (setShared s ck g w).rst = s.rst := Eq.trans rfl rfl
@[simp] theorem setShared_vigil (s : State) (ck g : Nat) (w : Word) : (setShared s ck g w).vigil = s.vigil := Eq.trans rfl rfl
@[simp] theorem setShared_dbg (s : State) (ck g : Nat) (w : Word) : (setShared s ck g w).dbg = s.dbg := Eq.trans rfl rfl
@[simp] theorem setShared_cap (s : State) (ck g : Nat) (w : Word) : (setShared s ck g w).cap = s.cap := Eq.trans rfl rfl
@[simp] theorem setShared_fuses (s : State) (ck g : Nat) (w : Word) : (setShared s ck g w).fuses = s.fuses := Eq.trans rfl rfl
@[simp] theorem setShared_regs (s : State) (ck g : Nat) (w : Word) : (setShared s ck g w).regs = s.regs := Eq.trans rfl rfl
@[simp] theorem setShared_pending (s : State) (ck g : Nat) (w : Word) : (setShared s ck g w).pending = s.pending := Eq.trans rfl rfl
@[simp] theorem setShared_outbox (s : State) (ck g : Nat) (w : Word) : (setShared s ck g w).outbox = s.outbox := Eq.trans rfl rfl
@[simp] theorem setShared_free (s : State) (ck g : Nat) (w : Word) : (setShared s ck g w).free = s.free := Eq.trans rfl rfl
/-- Reading after `setShared` at the place written. -/
@[simp] theorem getShared_setShared (s : State) (ck g : Nat) (w : Word) :
    getShared (setShared s ck g w) ck g = w := by
  simp [getShared, setShared]

/-! ### setCellDraft -/

@[simp] theorem setCellDraft_flow (s : State) (ck : Nat) (bank : Bool) (slot : Nat) (w : BitVec 192) : (setCellDraft s ck bank slot w).flow = s.flow := Eq.trans rfl rfl
@[simp] theorem setCellDraft_beats (s : State) (ck : Nat) (bank : Bool) (slot : Nat) (w : BitVec 192) : (setCellDraft s ck bank slot w).beats = s.beats := Eq.trans rfl rfl
@[simp] theorem setCellDraft_doms (s : State) (ck : Nat) (bank : Bool) (slot : Nat) (w : BitVec 192) : (setCellDraft s ck bank slot w).doms = s.doms := Eq.trans rfl rfl
@[simp] theorem setCellDraft_net (s : State) (ck : Nat) (bank : Bool) (slot : Nat) (w : BitVec 192) : (setCellDraft s ck bank slot w).net = s.net := Eq.trans rfl rfl
@[simp] theorem setCellDraft_brd (s : State) (ck : Nat) (bank : Bool) (slot : Nat) (w : BitVec 192) : (setCellDraft s ck bank slot w).brd = s.brd := Eq.trans rfl rfl
@[simp] theorem setCellDraft_mem (s : State) (ck : Nat) (bank : Bool) (slot : Nat) (w : BitVec 192) : (setCellDraft s ck bank slot w).mem = s.mem := Eq.trans rfl rfl
@[simp] theorem setCellDraft_ports (s : State) (ck : Nat) (bank : Bool) (slot : Nat) (w : BitVec 192) : (setCellDraft s ck bank slot w).ports = s.ports := Eq.trans rfl rfl
@[simp] theorem setCellDraft_host (s : State) (ck : Nat) (bank : Bool) (slot : Nat) (w : BitVec 192) : (setCellDraft s ck bank slot w).host = s.host := Eq.trans rfl rfl
@[simp] theorem setCellDraft_rt (s : State) (ck : Nat) (bank : Bool) (slot : Nat) (w : BitVec 192) : (setCellDraft s ck bank slot w).rt = s.rt := Eq.trans rfl rfl
@[simp] theorem setCellDraft_img (s : State) (ck : Nat) (bank : Bool) (slot : Nat) (w : BitVec 192) : (setCellDraft s ck bank slot w).img = s.img := Eq.trans rfl rfl
@[simp] theorem setCellDraft_fringe (s : State) (ck : Nat) (bank : Bool) (slot : Nat) (w : BitVec 192) : (setCellDraft s ck bank slot w).fringe = s.fringe := Eq.trans rfl rfl
@[simp] theorem setCellDraft_rst (s : State) (ck : Nat) (bank : Bool) (slot : Nat) (w : BitVec 192) : (setCellDraft s ck bank slot w).rst = s.rst := Eq.trans rfl rfl
@[simp] theorem setCellDraft_vigil (s : State) (ck : Nat) (bank : Bool) (slot : Nat) (w : BitVec 192) : (setCellDraft s ck bank slot w).vigil = s.vigil := Eq.trans rfl rfl
@[simp] theorem setCellDraft_dbg (s : State) (ck : Nat) (bank : Bool) (slot : Nat) (w : BitVec 192) : (setCellDraft s ck bank slot w).dbg = s.dbg := Eq.trans rfl rfl
@[simp] theorem setCellDraft_cap (s : State) (ck : Nat) (bank : Bool) (slot : Nat) (w : BitVec 192) : (setCellDraft s ck bank slot w).cap = s.cap := Eq.trans rfl rfl
@[simp] theorem setCellDraft_fuses (s : State) (ck : Nat) (bank : Bool) (slot : Nat) (w : BitVec 192) : (setCellDraft s ck bank slot w).fuses = s.fuses := Eq.trans rfl rfl
@[simp] theorem setCellDraft_regs (s : State) (ck : Nat) (bank : Bool) (slot : Nat) (w : BitVec 192) : (setCellDraft s ck bank slot w).regs = s.regs := Eq.trans rfl rfl
@[simp] theorem setCellDraft_pending (s : State) (ck : Nat) (bank : Bool) (slot : Nat) (w : BitVec 192) : (setCellDraft s ck bank slot w).pending = s.pending := Eq.trans rfl rfl
@[simp] theorem setCellDraft_outbox (s : State) (ck : Nat) (bank : Bool) (slot : Nat) (w : BitVec 192) : (setCellDraft s ck bank slot w).outbox = s.outbox := Eq.trans rfl rfl
@[simp] theorem setCellDraft_free (s : State) (ck : Nat) (bank : Bool) (slot : Nat) (w : BitVec 192) : (setCellDraft s ck bank slot w).free = s.free := Eq.trans rfl rfl
/-- Reading after `setCellDraft` at the place written. -/
@[simp] theorem getCellDraft_setCellDraft (s : State) (ck : Nat) (bank : Bool) (slot : Nat) (w : BitVec 192) :
    getCellDraft (setCellDraft s ck bank slot w) ck bank slot = w := by
  simp [getCellDraft, setCellDraft]

/-! ### setReedDraft -/

@[simp] theorem setReedDraft_flow (s : State) (d : Die) (h i : Nat) (bank : Bool) (slot : Nat) (w : BitVec 96) : (setReedDraft s d h i bank slot w).flow = s.flow := Eq.trans rfl rfl
@[simp] theorem setReedDraft_beats (s : State) (d : Die) (h i : Nat) (bank : Bool) (slot : Nat) (w : BitVec 96) : (setReedDraft s d h i bank slot w).beats = s.beats := Eq.trans rfl rfl
@[simp] theorem setReedDraft_doms (s : State) (d : Die) (h i : Nat) (bank : Bool) (slot : Nat) (w : BitVec 96) : (setReedDraft s d h i bank slot w).doms = s.doms := Eq.trans rfl rfl
@[simp] theorem setReedDraft_net (s : State) (d : Die) (h i : Nat) (bank : Bool) (slot : Nat) (w : BitVec 96) : (setReedDraft s d h i bank slot w).net = s.net := Eq.trans rfl rfl
@[simp] theorem setReedDraft_brd (s : State) (d : Die) (h i : Nat) (bank : Bool) (slot : Nat) (w : BitVec 96) : (setReedDraft s d h i bank slot w).brd = s.brd := Eq.trans rfl rfl
@[simp] theorem setReedDraft_mem (s : State) (d : Die) (h i : Nat) (bank : Bool) (slot : Nat) (w : BitVec 96) : (setReedDraft s d h i bank slot w).mem = s.mem := Eq.trans rfl rfl
@[simp] theorem setReedDraft_ports (s : State) (d : Die) (h i : Nat) (bank : Bool) (slot : Nat) (w : BitVec 96) : (setReedDraft s d h i bank slot w).ports = s.ports := Eq.trans rfl rfl
@[simp] theorem setReedDraft_host (s : State) (d : Die) (h i : Nat) (bank : Bool) (slot : Nat) (w : BitVec 96) : (setReedDraft s d h i bank slot w).host = s.host := Eq.trans rfl rfl
@[simp] theorem setReedDraft_rt (s : State) (d : Die) (h i : Nat) (bank : Bool) (slot : Nat) (w : BitVec 96) : (setReedDraft s d h i bank slot w).rt = s.rt := Eq.trans rfl rfl
@[simp] theorem setReedDraft_img (s : State) (d : Die) (h i : Nat) (bank : Bool) (slot : Nat) (w : BitVec 96) : (setReedDraft s d h i bank slot w).img = s.img := Eq.trans rfl rfl
@[simp] theorem setReedDraft_fringe (s : State) (d : Die) (h i : Nat) (bank : Bool) (slot : Nat) (w : BitVec 96) : (setReedDraft s d h i bank slot w).fringe = s.fringe := Eq.trans rfl rfl
@[simp] theorem setReedDraft_rst (s : State) (d : Die) (h i : Nat) (bank : Bool) (slot : Nat) (w : BitVec 96) : (setReedDraft s d h i bank slot w).rst = s.rst := Eq.trans rfl rfl
@[simp] theorem setReedDraft_vigil (s : State) (d : Die) (h i : Nat) (bank : Bool) (slot : Nat) (w : BitVec 96) : (setReedDraft s d h i bank slot w).vigil = s.vigil := Eq.trans rfl rfl
@[simp] theorem setReedDraft_dbg (s : State) (d : Die) (h i : Nat) (bank : Bool) (slot : Nat) (w : BitVec 96) : (setReedDraft s d h i bank slot w).dbg = s.dbg := Eq.trans rfl rfl
@[simp] theorem setReedDraft_cap (s : State) (d : Die) (h i : Nat) (bank : Bool) (slot : Nat) (w : BitVec 96) : (setReedDraft s d h i bank slot w).cap = s.cap := Eq.trans rfl rfl
@[simp] theorem setReedDraft_fuses (s : State) (d : Die) (h i : Nat) (bank : Bool) (slot : Nat) (w : BitVec 96) : (setReedDraft s d h i bank slot w).fuses = s.fuses := Eq.trans rfl rfl
@[simp] theorem setReedDraft_regs (s : State) (d : Die) (h i : Nat) (bank : Bool) (slot : Nat) (w : BitVec 96) : (setReedDraft s d h i bank slot w).regs = s.regs := Eq.trans rfl rfl
@[simp] theorem setReedDraft_pending (s : State) (d : Die) (h i : Nat) (bank : Bool) (slot : Nat) (w : BitVec 96) : (setReedDraft s d h i bank slot w).pending = s.pending := Eq.trans rfl rfl
@[simp] theorem setReedDraft_outbox (s : State) (d : Die) (h i : Nat) (bank : Bool) (slot : Nat) (w : BitVec 96) : (setReedDraft s d h i bank slot w).outbox = s.outbox := Eq.trans rfl rfl
@[simp] theorem setReedDraft_free (s : State) (d : Die) (h i : Nat) (bank : Bool) (slot : Nat) (w : BitVec 96) : (setReedDraft s d h i bank slot w).free = s.free := Eq.trans rfl rfl
/-- Reading after `setReedDraft` at the place written. -/
@[simp] theorem getReedDraft_setReedDraft (s : State) (d : Die) (h i : Nat) (bank : Bool) (slot : Nat) (w : BitVec 96) :
    getReedDraft (setReedDraft s d h i bank slot w) d h i bank slot = w := by
  simp [getReedDraft, setReedDraft]

/-! ### setTable -/

@[simp] theorem setTable_flow (s : State) (d : Die) (h : Nat) (bank : Bool) (e : Nat) (w : Word) : (setTable s d h bank e w).flow = s.flow := Eq.trans rfl rfl
@[simp] theorem setTable_beats (s : State) (d : Die) (h : Nat) (bank : Bool) (e : Nat) (w : Word) : (setTable s d h bank e w).beats = s.beats := Eq.trans rfl rfl
@[simp] theorem setTable_doms (s : State) (d : Die) (h : Nat) (bank : Bool) (e : Nat) (w : Word) : (setTable s d h bank e w).doms = s.doms := Eq.trans rfl rfl
@[simp] theorem setTable_net (s : State) (d : Die) (h : Nat) (bank : Bool) (e : Nat) (w : Word) : (setTable s d h bank e w).net = s.net := Eq.trans rfl rfl
@[simp] theorem setTable_brd (s : State) (d : Die) (h : Nat) (bank : Bool) (e : Nat) (w : Word) : (setTable s d h bank e w).brd = s.brd := Eq.trans rfl rfl
@[simp] theorem setTable_mem (s : State) (d : Die) (h : Nat) (bank : Bool) (e : Nat) (w : Word) : (setTable s d h bank e w).mem = s.mem := Eq.trans rfl rfl
@[simp] theorem setTable_ports (s : State) (d : Die) (h : Nat) (bank : Bool) (e : Nat) (w : Word) : (setTable s d h bank e w).ports = s.ports := Eq.trans rfl rfl
@[simp] theorem setTable_host (s : State) (d : Die) (h : Nat) (bank : Bool) (e : Nat) (w : Word) : (setTable s d h bank e w).host = s.host := Eq.trans rfl rfl
@[simp] theorem setTable_rt (s : State) (d : Die) (h : Nat) (bank : Bool) (e : Nat) (w : Word) : (setTable s d h bank e w).rt = s.rt := Eq.trans rfl rfl
@[simp] theorem setTable_img (s : State) (d : Die) (h : Nat) (bank : Bool) (e : Nat) (w : Word) : (setTable s d h bank e w).img = s.img := Eq.trans rfl rfl
@[simp] theorem setTable_fringe (s : State) (d : Die) (h : Nat) (bank : Bool) (e : Nat) (w : Word) : (setTable s d h bank e w).fringe = s.fringe := Eq.trans rfl rfl
@[simp] theorem setTable_rst (s : State) (d : Die) (h : Nat) (bank : Bool) (e : Nat) (w : Word) : (setTable s d h bank e w).rst = s.rst := Eq.trans rfl rfl
@[simp] theorem setTable_vigil (s : State) (d : Die) (h : Nat) (bank : Bool) (e : Nat) (w : Word) : (setTable s d h bank e w).vigil = s.vigil := Eq.trans rfl rfl
@[simp] theorem setTable_dbg (s : State) (d : Die) (h : Nat) (bank : Bool) (e : Nat) (w : Word) : (setTable s d h bank e w).dbg = s.dbg := Eq.trans rfl rfl
@[simp] theorem setTable_cap (s : State) (d : Die) (h : Nat) (bank : Bool) (e : Nat) (w : Word) : (setTable s d h bank e w).cap = s.cap := Eq.trans rfl rfl
@[simp] theorem setTable_fuses (s : State) (d : Die) (h : Nat) (bank : Bool) (e : Nat) (w : Word) : (setTable s d h bank e w).fuses = s.fuses := Eq.trans rfl rfl
@[simp] theorem setTable_regs (s : State) (d : Die) (h : Nat) (bank : Bool) (e : Nat) (w : Word) : (setTable s d h bank e w).regs = s.regs := Eq.trans rfl rfl
@[simp] theorem setTable_pending (s : State) (d : Die) (h : Nat) (bank : Bool) (e : Nat) (w : Word) : (setTable s d h bank e w).pending = s.pending := Eq.trans rfl rfl
@[simp] theorem setTable_outbox (s : State) (d : Die) (h : Nat) (bank : Bool) (e : Nat) (w : Word) : (setTable s d h bank e w).outbox = s.outbox := Eq.trans rfl rfl
@[simp] theorem setTable_free (s : State) (d : Die) (h : Nat) (bank : Bool) (e : Nat) (w : Word) : (setTable s d h bank e w).free = s.free := Eq.trans rfl rfl
/-- Reading after `setTable` at the place written. -/
@[simp] theorem getTable_setTable (s : State) (d : Die) (h : Nat) (bank : Bool) (e : Nat) (w : Word) :
    getTable (setTable s d h bank e w) d h bank e = w := by
  simp [getTable, setTable]

/-! ### setYarn -/

@[simp] theorem setYarn_arr (s : State) (d : Die) (y : Nat) (v : Yarn) : (setYarn s d y v).arr = s.arr := Eq.trans rfl rfl
@[simp] theorem setYarn_beats (s : State) (d : Die) (y : Nat) (v : Yarn) : (setYarn s d y v).beats = s.beats := Eq.trans rfl rfl
@[simp] theorem setYarn_doms (s : State) (d : Die) (y : Nat) (v : Yarn) : (setYarn s d y v).doms = s.doms := Eq.trans rfl rfl
@[simp] theorem setYarn_net (s : State) (d : Die) (y : Nat) (v : Yarn) : (setYarn s d y v).net = s.net := Eq.trans rfl rfl
@[simp] theorem setYarn_brd (s : State) (d : Die) (y : Nat) (v : Yarn) : (setYarn s d y v).brd = s.brd := Eq.trans rfl rfl
@[simp] theorem setYarn_mem (s : State) (d : Die) (y : Nat) (v : Yarn) : (setYarn s d y v).mem = s.mem := Eq.trans rfl rfl
@[simp] theorem setYarn_ports (s : State) (d : Die) (y : Nat) (v : Yarn) : (setYarn s d y v).ports = s.ports := Eq.trans rfl rfl
@[simp] theorem setYarn_host (s : State) (d : Die) (y : Nat) (v : Yarn) : (setYarn s d y v).host = s.host := Eq.trans rfl rfl
@[simp] theorem setYarn_rt (s : State) (d : Die) (y : Nat) (v : Yarn) : (setYarn s d y v).rt = s.rt := Eq.trans rfl rfl
@[simp] theorem setYarn_img (s : State) (d : Die) (y : Nat) (v : Yarn) : (setYarn s d y v).img = s.img := Eq.trans rfl rfl
@[simp] theorem setYarn_fringe (s : State) (d : Die) (y : Nat) (v : Yarn) : (setYarn s d y v).fringe = s.fringe := Eq.trans rfl rfl
@[simp] theorem setYarn_rst (s : State) (d : Die) (y : Nat) (v : Yarn) : (setYarn s d y v).rst = s.rst := Eq.trans rfl rfl
@[simp] theorem setYarn_vigil (s : State) (d : Die) (y : Nat) (v : Yarn) : (setYarn s d y v).vigil = s.vigil := Eq.trans rfl rfl
@[simp] theorem setYarn_dbg (s : State) (d : Die) (y : Nat) (v : Yarn) : (setYarn s d y v).dbg = s.dbg := Eq.trans rfl rfl
@[simp] theorem setYarn_cap (s : State) (d : Die) (y : Nat) (v : Yarn) : (setYarn s d y v).cap = s.cap := Eq.trans rfl rfl
@[simp] theorem setYarn_fuses (s : State) (d : Die) (y : Nat) (v : Yarn) : (setYarn s d y v).fuses = s.fuses := Eq.trans rfl rfl
@[simp] theorem setYarn_regs (s : State) (d : Die) (y : Nat) (v : Yarn) : (setYarn s d y v).regs = s.regs := Eq.trans rfl rfl
@[simp] theorem setYarn_pending (s : State) (d : Die) (y : Nat) (v : Yarn) : (setYarn s d y v).pending = s.pending := Eq.trans rfl rfl
@[simp] theorem setYarn_outbox (s : State) (d : Die) (y : Nat) (v : Yarn) : (setYarn s d y v).outbox = s.outbox := Eq.trans rfl rfl
@[simp] theorem setYarn_free (s : State) (d : Die) (y : Nat) (v : Yarn) : (setYarn s d y v).free = s.free := Eq.trans rfl rfl
/-- Reading after `setYarn` at the place written. -/
@[simp] theorem getYarn_setYarn (s : State) (d : Die) (y : Nat) (v : Yarn) :
    getYarn (setYarn s d y v) d y = v := by
  simp [getYarn, setYarn]

/-! ### setBob -/

@[simp] theorem setBob_arr (s : State) (b : Nat) (v : Bob) : (setBob s b v).arr = s.arr := Eq.trans rfl rfl
@[simp] theorem setBob_beats (s : State) (b : Nat) (v : Bob) : (setBob s b v).beats = s.beats := Eq.trans rfl rfl
@[simp] theorem setBob_doms (s : State) (b : Nat) (v : Bob) : (setBob s b v).doms = s.doms := Eq.trans rfl rfl
@[simp] theorem setBob_net (s : State) (b : Nat) (v : Bob) : (setBob s b v).net = s.net := Eq.trans rfl rfl
@[simp] theorem setBob_brd (s : State) (b : Nat) (v : Bob) : (setBob s b v).brd = s.brd := Eq.trans rfl rfl
@[simp] theorem setBob_mem (s : State) (b : Nat) (v : Bob) : (setBob s b v).mem = s.mem := Eq.trans rfl rfl
@[simp] theorem setBob_ports (s : State) (b : Nat) (v : Bob) : (setBob s b v).ports = s.ports := Eq.trans rfl rfl
@[simp] theorem setBob_host (s : State) (b : Nat) (v : Bob) : (setBob s b v).host = s.host := Eq.trans rfl rfl
@[simp] theorem setBob_rt (s : State) (b : Nat) (v : Bob) : (setBob s b v).rt = s.rt := Eq.trans rfl rfl
@[simp] theorem setBob_img (s : State) (b : Nat) (v : Bob) : (setBob s b v).img = s.img := Eq.trans rfl rfl
@[simp] theorem setBob_fringe (s : State) (b : Nat) (v : Bob) : (setBob s b v).fringe = s.fringe := Eq.trans rfl rfl
@[simp] theorem setBob_rst (s : State) (b : Nat) (v : Bob) : (setBob s b v).rst = s.rst := Eq.trans rfl rfl
@[simp] theorem setBob_vigil (s : State) (b : Nat) (v : Bob) : (setBob s b v).vigil = s.vigil := Eq.trans rfl rfl
@[simp] theorem setBob_dbg (s : State) (b : Nat) (v : Bob) : (setBob s b v).dbg = s.dbg := Eq.trans rfl rfl
@[simp] theorem setBob_cap (s : State) (b : Nat) (v : Bob) : (setBob s b v).cap = s.cap := Eq.trans rfl rfl
@[simp] theorem setBob_fuses (s : State) (b : Nat) (v : Bob) : (setBob s b v).fuses = s.fuses := Eq.trans rfl rfl
@[simp] theorem setBob_regs (s : State) (b : Nat) (v : Bob) : (setBob s b v).regs = s.regs := Eq.trans rfl rfl
@[simp] theorem setBob_pending (s : State) (b : Nat) (v : Bob) : (setBob s b v).pending = s.pending := Eq.trans rfl rfl
@[simp] theorem setBob_outbox (s : State) (b : Nat) (v : Bob) : (setBob s b v).outbox = s.outbox := Eq.trans rfl rfl
@[simp] theorem setBob_free (s : State) (b : Nat) (v : Bob) : (setBob s b v).free = s.free := Eq.trans rfl rfl
/-- Reading after `setBob`. -/
@[simp] theorem getBob_setBob (s : State) (b : Nat) (v : Bob) (other : Nat) :
    getBob (setBob s b v) other = if other = b then v else getBob s other := by
  simp [getBob, setBob, Fin.ext_iff]

/-! ### setBeat -/

@[simp] theorem setBeat_arr (s : State) (d : Die) (v : BeatSt) : (setBeat s d v).arr = s.arr := Eq.trans rfl rfl
@[simp] theorem setBeat_flow (s : State) (d : Die) (v : BeatSt) : (setBeat s d v).flow = s.flow := Eq.trans rfl rfl
@[simp] theorem setBeat_doms (s : State) (d : Die) (v : BeatSt) : (setBeat s d v).doms = s.doms := Eq.trans rfl rfl
@[simp] theorem setBeat_net (s : State) (d : Die) (v : BeatSt) : (setBeat s d v).net = s.net := Eq.trans rfl rfl
@[simp] theorem setBeat_brd (s : State) (d : Die) (v : BeatSt) : (setBeat s d v).brd = s.brd := Eq.trans rfl rfl
@[simp] theorem setBeat_mem (s : State) (d : Die) (v : BeatSt) : (setBeat s d v).mem = s.mem := Eq.trans rfl rfl
@[simp] theorem setBeat_ports (s : State) (d : Die) (v : BeatSt) : (setBeat s d v).ports = s.ports := Eq.trans rfl rfl
@[simp] theorem setBeat_host (s : State) (d : Die) (v : BeatSt) : (setBeat s d v).host = s.host := Eq.trans rfl rfl
@[simp] theorem setBeat_rt (s : State) (d : Die) (v : BeatSt) : (setBeat s d v).rt = s.rt := Eq.trans rfl rfl
@[simp] theorem setBeat_img (s : State) (d : Die) (v : BeatSt) : (setBeat s d v).img = s.img := Eq.trans rfl rfl
@[simp] theorem setBeat_fringe (s : State) (d : Die) (v : BeatSt) : (setBeat s d v).fringe = s.fringe := Eq.trans rfl rfl
@[simp] theorem setBeat_rst (s : State) (d : Die) (v : BeatSt) : (setBeat s d v).rst = s.rst := Eq.trans rfl rfl
@[simp] theorem setBeat_vigil (s : State) (d : Die) (v : BeatSt) : (setBeat s d v).vigil = s.vigil := Eq.trans rfl rfl
@[simp] theorem setBeat_dbg (s : State) (d : Die) (v : BeatSt) : (setBeat s d v).dbg = s.dbg := Eq.trans rfl rfl
@[simp] theorem setBeat_cap (s : State) (d : Die) (v : BeatSt) : (setBeat s d v).cap = s.cap := Eq.trans rfl rfl
@[simp] theorem setBeat_fuses (s : State) (d : Die) (v : BeatSt) : (setBeat s d v).fuses = s.fuses := Eq.trans rfl rfl
@[simp] theorem setBeat_regs (s : State) (d : Die) (v : BeatSt) : (setBeat s d v).regs = s.regs := Eq.trans rfl rfl
@[simp] theorem setBeat_pending (s : State) (d : Die) (v : BeatSt) : (setBeat s d v).pending = s.pending := Eq.trans rfl rfl
@[simp] theorem setBeat_outbox (s : State) (d : Die) (v : BeatSt) : (setBeat s d v).outbox = s.outbox := Eq.trans rfl rfl
@[simp] theorem setBeat_free (s : State) (d : Die) (v : BeatSt) : (setBeat s d v).free = s.free := Eq.trans rfl rfl
/-- Reading after `setBeat`. -/
@[simp] theorem getBeat_setBeat (s : State) (d : Die) (v : BeatSt) (other : Die) :
    getBeat (setBeat s d v) other = if other = d then v else getBeat s other := by
  simp [getBeat, setBeat, Fin.ext_iff]

/-! ### setDom -/

@[simp] theorem setDom_arr (s : State) (d : Die) (i : Nat) (v : DomSt) : (setDom s d i v).arr = s.arr := Eq.trans rfl rfl
@[simp] theorem setDom_flow (s : State) (d : Die) (i : Nat) (v : DomSt) : (setDom s d i v).flow = s.flow := Eq.trans rfl rfl
@[simp] theorem setDom_beats (s : State) (d : Die) (i : Nat) (v : DomSt) : (setDom s d i v).beats = s.beats := Eq.trans rfl rfl
@[simp] theorem setDom_net (s : State) (d : Die) (i : Nat) (v : DomSt) : (setDom s d i v).net = s.net := Eq.trans rfl rfl
@[simp] theorem setDom_brd (s : State) (d : Die) (i : Nat) (v : DomSt) : (setDom s d i v).brd = s.brd := Eq.trans rfl rfl
@[simp] theorem setDom_mem (s : State) (d : Die) (i : Nat) (v : DomSt) : (setDom s d i v).mem = s.mem := Eq.trans rfl rfl
@[simp] theorem setDom_ports (s : State) (d : Die) (i : Nat) (v : DomSt) : (setDom s d i v).ports = s.ports := Eq.trans rfl rfl
@[simp] theorem setDom_host (s : State) (d : Die) (i : Nat) (v : DomSt) : (setDom s d i v).host = s.host := Eq.trans rfl rfl
@[simp] theorem setDom_rt (s : State) (d : Die) (i : Nat) (v : DomSt) : (setDom s d i v).rt = s.rt := Eq.trans rfl rfl
@[simp] theorem setDom_img (s : State) (d : Die) (i : Nat) (v : DomSt) : (setDom s d i v).img = s.img := Eq.trans rfl rfl
@[simp] theorem setDom_fringe (s : State) (d : Die) (i : Nat) (v : DomSt) : (setDom s d i v).fringe = s.fringe := Eq.trans rfl rfl
@[simp] theorem setDom_rst (s : State) (d : Die) (i : Nat) (v : DomSt) : (setDom s d i v).rst = s.rst := Eq.trans rfl rfl
@[simp] theorem setDom_vigil (s : State) (d : Die) (i : Nat) (v : DomSt) : (setDom s d i v).vigil = s.vigil := Eq.trans rfl rfl
@[simp] theorem setDom_dbg (s : State) (d : Die) (i : Nat) (v : DomSt) : (setDom s d i v).dbg = s.dbg := Eq.trans rfl rfl
@[simp] theorem setDom_cap (s : State) (d : Die) (i : Nat) (v : DomSt) : (setDom s d i v).cap = s.cap := Eq.trans rfl rfl
@[simp] theorem setDom_fuses (s : State) (d : Die) (i : Nat) (v : DomSt) : (setDom s d i v).fuses = s.fuses := Eq.trans rfl rfl
@[simp] theorem setDom_regs (s : State) (d : Die) (i : Nat) (v : DomSt) : (setDom s d i v).regs = s.regs := Eq.trans rfl rfl
@[simp] theorem setDom_pending (s : State) (d : Die) (i : Nat) (v : DomSt) : (setDom s d i v).pending = s.pending := Eq.trans rfl rfl
@[simp] theorem setDom_outbox (s : State) (d : Die) (i : Nat) (v : DomSt) : (setDom s d i v).outbox = s.outbox := Eq.trans rfl rfl
@[simp] theorem setDom_free (s : State) (d : Die) (i : Nat) (v : DomSt) : (setDom s d i v).free = s.free := Eq.trans rfl rfl
/-- Reading after `setDom` at the place written. -/
@[simp] theorem getDom_setDom (s : State) (d : Die) (i : Nat) (v : DomSt) :
    getDom (setDom s d i v) d i = v := by
  simp [getDom, setDom]

/-! ### setBrd -/

@[simp] theorem setBrd_arr (s : State) (d : Die) (v : BrdSt) : (setBrd s d v).arr = s.arr := Eq.trans rfl rfl
@[simp] theorem setBrd_flow (s : State) (d : Die) (v : BrdSt) : (setBrd s d v).flow = s.flow := Eq.trans rfl rfl
@[simp] theorem setBrd_beats (s : State) (d : Die) (v : BrdSt) : (setBrd s d v).beats = s.beats := Eq.trans rfl rfl
@[simp] theorem setBrd_doms (s : State) (d : Die) (v : BrdSt) : (setBrd s d v).doms = s.doms := Eq.trans rfl rfl
@[simp] theorem setBrd_net (s : State) (d : Die) (v : BrdSt) : (setBrd s d v).net = s.net := Eq.trans rfl rfl
@[simp] theorem setBrd_mem (s : State) (d : Die) (v : BrdSt) : (setBrd s d v).mem = s.mem := Eq.trans rfl rfl
@[simp] theorem setBrd_ports (s : State) (d : Die) (v : BrdSt) : (setBrd s d v).ports = s.ports := Eq.trans rfl rfl
@[simp] theorem setBrd_host (s : State) (d : Die) (v : BrdSt) : (setBrd s d v).host = s.host := Eq.trans rfl rfl
@[simp] theorem setBrd_rt (s : State) (d : Die) (v : BrdSt) : (setBrd s d v).rt = s.rt := Eq.trans rfl rfl
@[simp] theorem setBrd_img (s : State) (d : Die) (v : BrdSt) : (setBrd s d v).img = s.img := Eq.trans rfl rfl
@[simp] theorem setBrd_fringe (s : State) (d : Die) (v : BrdSt) : (setBrd s d v).fringe = s.fringe := Eq.trans rfl rfl
@[simp] theorem setBrd_rst (s : State) (d : Die) (v : BrdSt) : (setBrd s d v).rst = s.rst := Eq.trans rfl rfl
@[simp] theorem setBrd_vigil (s : State) (d : Die) (v : BrdSt) : (setBrd s d v).vigil = s.vigil := Eq.trans rfl rfl
@[simp] theorem setBrd_dbg (s : State) (d : Die) (v : BrdSt) : (setBrd s d v).dbg = s.dbg := Eq.trans rfl rfl
@[simp] theorem setBrd_cap (s : State) (d : Die) (v : BrdSt) : (setBrd s d v).cap = s.cap := Eq.trans rfl rfl
@[simp] theorem setBrd_fuses (s : State) (d : Die) (v : BrdSt) : (setBrd s d v).fuses = s.fuses := Eq.trans rfl rfl
@[simp] theorem setBrd_regs (s : State) (d : Die) (v : BrdSt) : (setBrd s d v).regs = s.regs := Eq.trans rfl rfl
@[simp] theorem setBrd_pending (s : State) (d : Die) (v : BrdSt) : (setBrd s d v).pending = s.pending := Eq.trans rfl rfl
@[simp] theorem setBrd_outbox (s : State) (d : Die) (v : BrdSt) : (setBrd s d v).outbox = s.outbox := Eq.trans rfl rfl
@[simp] theorem setBrd_free (s : State) (d : Die) (v : BrdSt) : (setBrd s d v).free = s.free := Eq.trans rfl rfl
/-- Reading after `setBrd`. -/
@[simp] theorem getBrd_setBrd (s : State) (d : Die) (v : BrdSt) (other : Die) :
    getBrd (setBrd s d v) other = if other = d then v else getBrd s other := by
  simp [getBrd, setBrd, Fin.ext_iff]

/-! ### setHbm -/

@[simp] theorem setHbm_arr (s : State) (d : Die) (v : HbmSt) : (setHbm s d v).arr = s.arr := Eq.trans rfl rfl
@[simp] theorem setHbm_flow (s : State) (d : Die) (v : HbmSt) : (setHbm s d v).flow = s.flow := Eq.trans rfl rfl
@[simp] theorem setHbm_beats (s : State) (d : Die) (v : HbmSt) : (setHbm s d v).beats = s.beats := Eq.trans rfl rfl
@[simp] theorem setHbm_doms (s : State) (d : Die) (v : HbmSt) : (setHbm s d v).doms = s.doms := Eq.trans rfl rfl
@[simp] theorem setHbm_net (s : State) (d : Die) (v : HbmSt) : (setHbm s d v).net = s.net := Eq.trans rfl rfl
@[simp] theorem setHbm_brd (s : State) (d : Die) (v : HbmSt) : (setHbm s d v).brd = s.brd := Eq.trans rfl rfl
@[simp] theorem setHbm_ports (s : State) (d : Die) (v : HbmSt) : (setHbm s d v).ports = s.ports := Eq.trans rfl rfl
@[simp] theorem setHbm_host (s : State) (d : Die) (v : HbmSt) : (setHbm s d v).host = s.host := Eq.trans rfl rfl
@[simp] theorem setHbm_rt (s : State) (d : Die) (v : HbmSt) : (setHbm s d v).rt = s.rt := Eq.trans rfl rfl
@[simp] theorem setHbm_img (s : State) (d : Die) (v : HbmSt) : (setHbm s d v).img = s.img := Eq.trans rfl rfl
@[simp] theorem setHbm_fringe (s : State) (d : Die) (v : HbmSt) : (setHbm s d v).fringe = s.fringe := Eq.trans rfl rfl
@[simp] theorem setHbm_rst (s : State) (d : Die) (v : HbmSt) : (setHbm s d v).rst = s.rst := Eq.trans rfl rfl
@[simp] theorem setHbm_vigil (s : State) (d : Die) (v : HbmSt) : (setHbm s d v).vigil = s.vigil := Eq.trans rfl rfl
@[simp] theorem setHbm_dbg (s : State) (d : Die) (v : HbmSt) : (setHbm s d v).dbg = s.dbg := Eq.trans rfl rfl
@[simp] theorem setHbm_cap (s : State) (d : Die) (v : HbmSt) : (setHbm s d v).cap = s.cap := Eq.trans rfl rfl
@[simp] theorem setHbm_fuses (s : State) (d : Die) (v : HbmSt) : (setHbm s d v).fuses = s.fuses := Eq.trans rfl rfl
@[simp] theorem setHbm_regs (s : State) (d : Die) (v : HbmSt) : (setHbm s d v).regs = s.regs := Eq.trans rfl rfl
@[simp] theorem setHbm_pending (s : State) (d : Die) (v : HbmSt) : (setHbm s d v).pending = s.pending := Eq.trans rfl rfl
@[simp] theorem setHbm_outbox (s : State) (d : Die) (v : HbmSt) : (setHbm s d v).outbox = s.outbox := Eq.trans rfl rfl
@[simp] theorem setHbm_free (s : State) (d : Die) (v : HbmSt) : (setHbm s d v).free = s.free := Eq.trans rfl rfl
/-- Reading after `setHbm`. -/
@[simp] theorem getHbm_setHbm (s : State) (d : Die) (v : HbmSt) (other : Die) :
    getHbm (setHbm s d v) other = if other = d then v else getHbm s other := by
  simp [getHbm, setHbm, Fin.ext_iff]

/-! ### setMarch -/

@[simp] theorem setMarch_arr (s : State) (d : Die) (v : MarchSt) : (setMarch s d v).arr = s.arr := Eq.trans rfl rfl
@[simp] theorem setMarch_flow (s : State) (d : Die) (v : MarchSt) : (setMarch s d v).flow = s.flow := Eq.trans rfl rfl
@[simp] theorem setMarch_beats (s : State) (d : Die) (v : MarchSt) : (setMarch s d v).beats = s.beats := Eq.trans rfl rfl
@[simp] theorem setMarch_doms (s : State) (d : Die) (v : MarchSt) : (setMarch s d v).doms = s.doms := Eq.trans rfl rfl
@[simp] theorem setMarch_net (s : State) (d : Die) (v : MarchSt) : (setMarch s d v).net = s.net := Eq.trans rfl rfl
@[simp] theorem setMarch_brd (s : State) (d : Die) (v : MarchSt) : (setMarch s d v).brd = s.brd := Eq.trans rfl rfl
@[simp] theorem setMarch_ports (s : State) (d : Die) (v : MarchSt) : (setMarch s d v).ports = s.ports := Eq.trans rfl rfl
@[simp] theorem setMarch_host (s : State) (d : Die) (v : MarchSt) : (setMarch s d v).host = s.host := Eq.trans rfl rfl
@[simp] theorem setMarch_rt (s : State) (d : Die) (v : MarchSt) : (setMarch s d v).rt = s.rt := Eq.trans rfl rfl
@[simp] theorem setMarch_img (s : State) (d : Die) (v : MarchSt) : (setMarch s d v).img = s.img := Eq.trans rfl rfl
@[simp] theorem setMarch_fringe (s : State) (d : Die) (v : MarchSt) : (setMarch s d v).fringe = s.fringe := Eq.trans rfl rfl
@[simp] theorem setMarch_rst (s : State) (d : Die) (v : MarchSt) : (setMarch s d v).rst = s.rst := Eq.trans rfl rfl
@[simp] theorem setMarch_vigil (s : State) (d : Die) (v : MarchSt) : (setMarch s d v).vigil = s.vigil := Eq.trans rfl rfl
@[simp] theorem setMarch_dbg (s : State) (d : Die) (v : MarchSt) : (setMarch s d v).dbg = s.dbg := Eq.trans rfl rfl
@[simp] theorem setMarch_cap (s : State) (d : Die) (v : MarchSt) : (setMarch s d v).cap = s.cap := Eq.trans rfl rfl
@[simp] theorem setMarch_fuses (s : State) (d : Die) (v : MarchSt) : (setMarch s d v).fuses = s.fuses := Eq.trans rfl rfl
@[simp] theorem setMarch_regs (s : State) (d : Die) (v : MarchSt) : (setMarch s d v).regs = s.regs := Eq.trans rfl rfl
@[simp] theorem setMarch_pending (s : State) (d : Die) (v : MarchSt) : (setMarch s d v).pending = s.pending := Eq.trans rfl rfl
@[simp] theorem setMarch_outbox (s : State) (d : Die) (v : MarchSt) : (setMarch s d v).outbox = s.outbox := Eq.trans rfl rfl
@[simp] theorem setMarch_free (s : State) (d : Die) (v : MarchSt) : (setMarch s d v).free = s.free := Eq.trans rfl rfl
/-- Reading after `setMarch`. -/
@[simp] theorem getMarch_setMarch (s : State) (d : Die) (v : MarchSt) (other : Die) :
    getMarch (setMarch s d v) other = if other = d then v else getMarch s other := by
  simp [getMarch, setMarch, Fin.ext_iff]

/-! ### setPort -/

@[simp] theorem setPort_arr (s : State) (p : Nat) (v : PortSt) : (setPort s p v).arr = s.arr := Eq.trans rfl rfl
@[simp] theorem setPort_flow (s : State) (p : Nat) (v : PortSt) : (setPort s p v).flow = s.flow := Eq.trans rfl rfl
@[simp] theorem setPort_beats (s : State) (p : Nat) (v : PortSt) : (setPort s p v).beats = s.beats := Eq.trans rfl rfl
@[simp] theorem setPort_doms (s : State) (p : Nat) (v : PortSt) : (setPort s p v).doms = s.doms := Eq.trans rfl rfl
@[simp] theorem setPort_net (s : State) (p : Nat) (v : PortSt) : (setPort s p v).net = s.net := Eq.trans rfl rfl
@[simp] theorem setPort_brd (s : State) (p : Nat) (v : PortSt) : (setPort s p v).brd = s.brd := Eq.trans rfl rfl
@[simp] theorem setPort_mem (s : State) (p : Nat) (v : PortSt) : (setPort s p v).mem = s.mem := Eq.trans rfl rfl
@[simp] theorem setPort_host (s : State) (p : Nat) (v : PortSt) : (setPort s p v).host = s.host := Eq.trans rfl rfl
@[simp] theorem setPort_rt (s : State) (p : Nat) (v : PortSt) : (setPort s p v).rt = s.rt := Eq.trans rfl rfl
@[simp] theorem setPort_img (s : State) (p : Nat) (v : PortSt) : (setPort s p v).img = s.img := Eq.trans rfl rfl
@[simp] theorem setPort_fringe (s : State) (p : Nat) (v : PortSt) : (setPort s p v).fringe = s.fringe := Eq.trans rfl rfl
@[simp] theorem setPort_rst (s : State) (p : Nat) (v : PortSt) : (setPort s p v).rst = s.rst := Eq.trans rfl rfl
@[simp] theorem setPort_vigil (s : State) (p : Nat) (v : PortSt) : (setPort s p v).vigil = s.vigil := Eq.trans rfl rfl
@[simp] theorem setPort_dbg (s : State) (p : Nat) (v : PortSt) : (setPort s p v).dbg = s.dbg := Eq.trans rfl rfl
@[simp] theorem setPort_cap (s : State) (p : Nat) (v : PortSt) : (setPort s p v).cap = s.cap := Eq.trans rfl rfl
@[simp] theorem setPort_fuses (s : State) (p : Nat) (v : PortSt) : (setPort s p v).fuses = s.fuses := Eq.trans rfl rfl
@[simp] theorem setPort_regs (s : State) (p : Nat) (v : PortSt) : (setPort s p v).regs = s.regs := Eq.trans rfl rfl
@[simp] theorem setPort_pending (s : State) (p : Nat) (v : PortSt) : (setPort s p v).pending = s.pending := Eq.trans rfl rfl
@[simp] theorem setPort_outbox (s : State) (p : Nat) (v : PortSt) : (setPort s p v).outbox = s.outbox := Eq.trans rfl rfl
@[simp] theorem setPort_free (s : State) (p : Nat) (v : PortSt) : (setPort s p v).free = s.free := Eq.trans rfl rfl
/-- Reading after `setPort`. -/
@[simp] theorem getPort_setPort (s : State) (p : Nat) (v : PortSt) (other : Nat) :
    getPort (setPort s p v) other = if other = p then v else getPort s other := by
  simp [getPort, setPort, Fin.ext_iff]

/-! ### setRing -/

@[simp] theorem setRing_arr (s : State) (k : Nat) (v : RingSt) : (setRing s k v).arr = s.arr := Eq.trans rfl rfl
@[simp] theorem setRing_flow (s : State) (k : Nat) (v : RingSt) : (setRing s k v).flow = s.flow := Eq.trans rfl rfl
@[simp] theorem setRing_beats (s : State) (k : Nat) (v : RingSt) : (setRing s k v).beats = s.beats := Eq.trans rfl rfl
@[simp] theorem setRing_doms (s : State) (k : Nat) (v : RingSt) : (setRing s k v).doms = s.doms := Eq.trans rfl rfl
@[simp] theorem setRing_net (s : State) (k : Nat) (v : RingSt) : (setRing s k v).net = s.net := Eq.trans rfl rfl
@[simp] theorem setRing_brd (s : State) (k : Nat) (v : RingSt) : (setRing s k v).brd = s.brd := Eq.trans rfl rfl
@[simp] theorem setRing_mem (s : State) (k : Nat) (v : RingSt) : (setRing s k v).mem = s.mem := Eq.trans rfl rfl
@[simp] theorem setRing_host (s : State) (k : Nat) (v : RingSt) : (setRing s k v).host = s.host := Eq.trans rfl rfl
@[simp] theorem setRing_rt (s : State) (k : Nat) (v : RingSt) : (setRing s k v).rt = s.rt := Eq.trans rfl rfl
@[simp] theorem setRing_img (s : State) (k : Nat) (v : RingSt) : (setRing s k v).img = s.img := Eq.trans rfl rfl
@[simp] theorem setRing_fringe (s : State) (k : Nat) (v : RingSt) : (setRing s k v).fringe = s.fringe := Eq.trans rfl rfl
@[simp] theorem setRing_rst (s : State) (k : Nat) (v : RingSt) : (setRing s k v).rst = s.rst := Eq.trans rfl rfl
@[simp] theorem setRing_vigil (s : State) (k : Nat) (v : RingSt) : (setRing s k v).vigil = s.vigil := Eq.trans rfl rfl
@[simp] theorem setRing_dbg (s : State) (k : Nat) (v : RingSt) : (setRing s k v).dbg = s.dbg := Eq.trans rfl rfl
@[simp] theorem setRing_cap (s : State) (k : Nat) (v : RingSt) : (setRing s k v).cap = s.cap := Eq.trans rfl rfl
@[simp] theorem setRing_fuses (s : State) (k : Nat) (v : RingSt) : (setRing s k v).fuses = s.fuses := Eq.trans rfl rfl
@[simp] theorem setRing_regs (s : State) (k : Nat) (v : RingSt) : (setRing s k v).regs = s.regs := Eq.trans rfl rfl
@[simp] theorem setRing_pending (s : State) (k : Nat) (v : RingSt) : (setRing s k v).pending = s.pending := Eq.trans rfl rfl
@[simp] theorem setRing_outbox (s : State) (k : Nat) (v : RingSt) : (setRing s k v).outbox = s.outbox := Eq.trans rfl rfl
@[simp] theorem setRing_free (s : State) (k : Nat) (v : RingSt) : (setRing s k v).free = s.free := Eq.trans rfl rfl
/-- Reading after `setRing`. -/
@[simp] theorem getRing_setRing (s : State) (k : Nat) (v : RingSt) (other : Nat) :
    getRing (setRing s k v) other = if other = k then v else getRing s other := by
  simp [getRing, setRing, Fin.ext_iff]

/-! ### setQp -/

@[simp] theorem setQp_arr (s : State) (q : Nat) (v : QpSt) : (setQp s q v).arr = s.arr := Eq.trans rfl rfl
@[simp] theorem setQp_flow (s : State) (q : Nat) (v : QpSt) : (setQp s q v).flow = s.flow := Eq.trans rfl rfl
@[simp] theorem setQp_beats (s : State) (q : Nat) (v : QpSt) : (setQp s q v).beats = s.beats := Eq.trans rfl rfl
@[simp] theorem setQp_doms (s : State) (q : Nat) (v : QpSt) : (setQp s q v).doms = s.doms := Eq.trans rfl rfl
@[simp] theorem setQp_net (s : State) (q : Nat) (v : QpSt) : (setQp s q v).net = s.net := Eq.trans rfl rfl
@[simp] theorem setQp_brd (s : State) (q : Nat) (v : QpSt) : (setQp s q v).brd = s.brd := Eq.trans rfl rfl
@[simp] theorem setQp_mem (s : State) (q : Nat) (v : QpSt) : (setQp s q v).mem = s.mem := Eq.trans rfl rfl
@[simp] theorem setQp_ports (s : State) (q : Nat) (v : QpSt) : (setQp s q v).ports = s.ports := Eq.trans rfl rfl
@[simp] theorem setQp_rt (s : State) (q : Nat) (v : QpSt) : (setQp s q v).rt = s.rt := Eq.trans rfl rfl
@[simp] theorem setQp_img (s : State) (q : Nat) (v : QpSt) : (setQp s q v).img = s.img := Eq.trans rfl rfl
@[simp] theorem setQp_fringe (s : State) (q : Nat) (v : QpSt) : (setQp s q v).fringe = s.fringe := Eq.trans rfl rfl
@[simp] theorem setQp_rst (s : State) (q : Nat) (v : QpSt) : (setQp s q v).rst = s.rst := Eq.trans rfl rfl
@[simp] theorem setQp_vigil (s : State) (q : Nat) (v : QpSt) : (setQp s q v).vigil = s.vigil := Eq.trans rfl rfl
@[simp] theorem setQp_dbg (s : State) (q : Nat) (v : QpSt) : (setQp s q v).dbg = s.dbg := Eq.trans rfl rfl
@[simp] theorem setQp_cap (s : State) (q : Nat) (v : QpSt) : (setQp s q v).cap = s.cap := Eq.trans rfl rfl
@[simp] theorem setQp_fuses (s : State) (q : Nat) (v : QpSt) : (setQp s q v).fuses = s.fuses := Eq.trans rfl rfl
@[simp] theorem setQp_regs (s : State) (q : Nat) (v : QpSt) : (setQp s q v).regs = s.regs := Eq.trans rfl rfl
@[simp] theorem setQp_pending (s : State) (q : Nat) (v : QpSt) : (setQp s q v).pending = s.pending := Eq.trans rfl rfl
@[simp] theorem setQp_outbox (s : State) (q : Nat) (v : QpSt) : (setQp s q v).outbox = s.outbox := Eq.trans rfl rfl
@[simp] theorem setQp_free (s : State) (q : Nat) (v : QpSt) : (setQp s q v).free = s.free := Eq.trans rfl rfl
/-- Reading after `setQp`. -/
@[simp] theorem getQp_setQp (s : State) (q : Nat) (v : QpSt) (other : Nat) :
    getQp (setQp s q v) other = if other = q then v else getQp s other := by
  simp [getQp, setQp, Fin.ext_iff]

/-! ### setRegion -/

@[simp] theorem setRegion_arr (s : State) (j : Nat) (v : HostReg) : (setRegion s j v).arr = s.arr := Eq.trans rfl rfl
@[simp] theorem setRegion_flow (s : State) (j : Nat) (v : HostReg) : (setRegion s j v).flow = s.flow := Eq.trans rfl rfl
@[simp] theorem setRegion_beats (s : State) (j : Nat) (v : HostReg) : (setRegion s j v).beats = s.beats := Eq.trans rfl rfl
@[simp] theorem setRegion_doms (s : State) (j : Nat) (v : HostReg) : (setRegion s j v).doms = s.doms := Eq.trans rfl rfl
@[simp] theorem setRegion_net (s : State) (j : Nat) (v : HostReg) : (setRegion s j v).net = s.net := Eq.trans rfl rfl
@[simp] theorem setRegion_brd (s : State) (j : Nat) (v : HostReg) : (setRegion s j v).brd = s.brd := Eq.trans rfl rfl
@[simp] theorem setRegion_mem (s : State) (j : Nat) (v : HostReg) : (setRegion s j v).mem = s.mem := Eq.trans rfl rfl
@[simp] theorem setRegion_ports (s : State) (j : Nat) (v : HostReg) : (setRegion s j v).ports = s.ports := Eq.trans rfl rfl
@[simp] theorem setRegion_rt (s : State) (j : Nat) (v : HostReg) : (setRegion s j v).rt = s.rt := Eq.trans rfl rfl
@[simp] theorem setRegion_img (s : State) (j : Nat) (v : HostReg) : (setRegion s j v).img = s.img := Eq.trans rfl rfl
@[simp] theorem setRegion_fringe (s : State) (j : Nat) (v : HostReg) : (setRegion s j v).fringe = s.fringe := Eq.trans rfl rfl
@[simp] theorem setRegion_rst (s : State) (j : Nat) (v : HostReg) : (setRegion s j v).rst = s.rst := Eq.trans rfl rfl
@[simp] theorem setRegion_vigil (s : State) (j : Nat) (v : HostReg) : (setRegion s j v).vigil = s.vigil := Eq.trans rfl rfl
@[simp] theorem setRegion_dbg (s : State) (j : Nat) (v : HostReg) : (setRegion s j v).dbg = s.dbg := Eq.trans rfl rfl
@[simp] theorem setRegion_cap (s : State) (j : Nat) (v : HostReg) : (setRegion s j v).cap = s.cap := Eq.trans rfl rfl
@[simp] theorem setRegion_fuses (s : State) (j : Nat) (v : HostReg) : (setRegion s j v).fuses = s.fuses := Eq.trans rfl rfl
@[simp] theorem setRegion_regs (s : State) (j : Nat) (v : HostReg) : (setRegion s j v).regs = s.regs := Eq.trans rfl rfl
@[simp] theorem setRegion_pending (s : State) (j : Nat) (v : HostReg) : (setRegion s j v).pending = s.pending := Eq.trans rfl rfl
@[simp] theorem setRegion_outbox (s : State) (j : Nat) (v : HostReg) : (setRegion s j v).outbox = s.outbox := Eq.trans rfl rfl
@[simp] theorem setRegion_free (s : State) (j : Nat) (v : HostReg) : (setRegion s j v).free = s.free := Eq.trans rfl rfl
/-- Reading after `setRegion`. -/
@[simp] theorem getRegion_setRegion (s : State) (j : Nat) (v : HostReg) (other : Nat) :
    getRegion (setRegion s j v) other = if other = j then v else getRegion s other := by
  simp [getRegion, setRegion, Fin.ext_iff]

/-! ### setRt -/

@[simp] theorem setRt_arr (s : State) (d : Die) (v : RtSt) : (setRt s d v).arr = s.arr := Eq.trans rfl rfl
@[simp] theorem setRt_flow (s : State) (d : Die) (v : RtSt) : (setRt s d v).flow = s.flow := Eq.trans rfl rfl
@[simp] theorem setRt_beats (s : State) (d : Die) (v : RtSt) : (setRt s d v).beats = s.beats := Eq.trans rfl rfl
@[simp] theorem setRt_doms (s : State) (d : Die) (v : RtSt) : (setRt s d v).doms = s.doms := Eq.trans rfl rfl
@[simp] theorem setRt_net (s : State) (d : Die) (v : RtSt) : (setRt s d v).net = s.net := Eq.trans rfl rfl
@[simp] theorem setRt_brd (s : State) (d : Die) (v : RtSt) : (setRt s d v).brd = s.brd := Eq.trans rfl rfl
@[simp] theorem setRt_mem (s : State) (d : Die) (v : RtSt) : (setRt s d v).mem = s.mem := Eq.trans rfl rfl
@[simp] theorem setRt_ports (s : State) (d : Die) (v : RtSt) : (setRt s d v).ports = s.ports := Eq.trans rfl rfl
@[simp] theorem setRt_host (s : State) (d : Die) (v : RtSt) : (setRt s d v).host = s.host := Eq.trans rfl rfl
@[simp] theorem setRt_img (s : State) (d : Die) (v : RtSt) : (setRt s d v).img = s.img := Eq.trans rfl rfl
@[simp] theorem setRt_fringe (s : State) (d : Die) (v : RtSt) : (setRt s d v).fringe = s.fringe := Eq.trans rfl rfl
@[simp] theorem setRt_rst (s : State) (d : Die) (v : RtSt) : (setRt s d v).rst = s.rst := Eq.trans rfl rfl
@[simp] theorem setRt_vigil (s : State) (d : Die) (v : RtSt) : (setRt s d v).vigil = s.vigil := Eq.trans rfl rfl
@[simp] theorem setRt_dbg (s : State) (d : Die) (v : RtSt) : (setRt s d v).dbg = s.dbg := Eq.trans rfl rfl
@[simp] theorem setRt_cap (s : State) (d : Die) (v : RtSt) : (setRt s d v).cap = s.cap := Eq.trans rfl rfl
@[simp] theorem setRt_fuses (s : State) (d : Die) (v : RtSt) : (setRt s d v).fuses = s.fuses := Eq.trans rfl rfl
@[simp] theorem setRt_regs (s : State) (d : Die) (v : RtSt) : (setRt s d v).regs = s.regs := Eq.trans rfl rfl
@[simp] theorem setRt_pending (s : State) (d : Die) (v : RtSt) : (setRt s d v).pending = s.pending := Eq.trans rfl rfl
@[simp] theorem setRt_outbox (s : State) (d : Die) (v : RtSt) : (setRt s d v).outbox = s.outbox := Eq.trans rfl rfl
@[simp] theorem setRt_free (s : State) (d : Die) (v : RtSt) : (setRt s d v).free = s.free := Eq.trans rfl rfl
/-- Reading after `setRt`. -/
@[simp] theorem getRt_setRt (s : State) (d : Die) (v : RtSt) (other : Die) :
    getRt (setRt s d v) other = if other = d then v else getRt s other := by
  simp [getRt, setRt, Fin.ext_iff]

/-! ### setImg -/

@[simp] theorem setImg_arr (s : State) (d : Die) (v : ImgSt) : (setImg s d v).arr = s.arr := Eq.trans rfl rfl
@[simp] theorem setImg_flow (s : State) (d : Die) (v : ImgSt) : (setImg s d v).flow = s.flow := Eq.trans rfl rfl
@[simp] theorem setImg_beats (s : State) (d : Die) (v : ImgSt) : (setImg s d v).beats = s.beats := Eq.trans rfl rfl
@[simp] theorem setImg_doms (s : State) (d : Die) (v : ImgSt) : (setImg s d v).doms = s.doms := Eq.trans rfl rfl
@[simp] theorem setImg_net (s : State) (d : Die) (v : ImgSt) : (setImg s d v).net = s.net := Eq.trans rfl rfl
@[simp] theorem setImg_brd (s : State) (d : Die) (v : ImgSt) : (setImg s d v).brd = s.brd := Eq.trans rfl rfl
@[simp] theorem setImg_mem (s : State) (d : Die) (v : ImgSt) : (setImg s d v).mem = s.mem := Eq.trans rfl rfl
@[simp] theorem setImg_ports (s : State) (d : Die) (v : ImgSt) : (setImg s d v).ports = s.ports := Eq.trans rfl rfl
@[simp] theorem setImg_host (s : State) (d : Die) (v : ImgSt) : (setImg s d v).host = s.host := Eq.trans rfl rfl
@[simp] theorem setImg_rt (s : State) (d : Die) (v : ImgSt) : (setImg s d v).rt = s.rt := Eq.trans rfl rfl
@[simp] theorem setImg_fringe (s : State) (d : Die) (v : ImgSt) : (setImg s d v).fringe = s.fringe := Eq.trans rfl rfl
@[simp] theorem setImg_rst (s : State) (d : Die) (v : ImgSt) : (setImg s d v).rst = s.rst := Eq.trans rfl rfl
@[simp] theorem setImg_vigil (s : State) (d : Die) (v : ImgSt) : (setImg s d v).vigil = s.vigil := Eq.trans rfl rfl
@[simp] theorem setImg_dbg (s : State) (d : Die) (v : ImgSt) : (setImg s d v).dbg = s.dbg := Eq.trans rfl rfl
@[simp] theorem setImg_cap (s : State) (d : Die) (v : ImgSt) : (setImg s d v).cap = s.cap := Eq.trans rfl rfl
@[simp] theorem setImg_fuses (s : State) (d : Die) (v : ImgSt) : (setImg s d v).fuses = s.fuses := Eq.trans rfl rfl
@[simp] theorem setImg_regs (s : State) (d : Die) (v : ImgSt) : (setImg s d v).regs = s.regs := Eq.trans rfl rfl
@[simp] theorem setImg_pending (s : State) (d : Die) (v : ImgSt) : (setImg s d v).pending = s.pending := Eq.trans rfl rfl
@[simp] theorem setImg_outbox (s : State) (d : Die) (v : ImgSt) : (setImg s d v).outbox = s.outbox := Eq.trans rfl rfl
@[simp] theorem setImg_free (s : State) (d : Die) (v : ImgSt) : (setImg s d v).free = s.free := Eq.trans rfl rfl
/-- Reading after `setImg`. -/
@[simp] theorem getImg_setImg (s : State) (d : Die) (v : ImgSt) (other : Die) :
    getImg (setImg s d v) other = if other = d then v else getImg s other := by
  simp [getImg, setImg, Fin.ext_iff]

/-! ### setOpts -/

@[simp] theorem setOpts_arr (s : State) (d : Die) (v : Opts) : (setOpts s d v).arr = s.arr := Eq.trans rfl rfl
@[simp] theorem setOpts_flow (s : State) (d : Die) (v : Opts) : (setOpts s d v).flow = s.flow := Eq.trans rfl rfl
@[simp] theorem setOpts_beats (s : State) (d : Die) (v : Opts) : (setOpts s d v).beats = s.beats := Eq.trans rfl rfl
@[simp] theorem setOpts_doms (s : State) (d : Die) (v : Opts) : (setOpts s d v).doms = s.doms := Eq.trans rfl rfl
@[simp] theorem setOpts_net (s : State) (d : Die) (v : Opts) : (setOpts s d v).net = s.net := Eq.trans rfl rfl
@[simp] theorem setOpts_brd (s : State) (d : Die) (v : Opts) : (setOpts s d v).brd = s.brd := Eq.trans rfl rfl
@[simp] theorem setOpts_mem (s : State) (d : Die) (v : Opts) : (setOpts s d v).mem = s.mem := Eq.trans rfl rfl
@[simp] theorem setOpts_ports (s : State) (d : Die) (v : Opts) : (setOpts s d v).ports = s.ports := Eq.trans rfl rfl
@[simp] theorem setOpts_host (s : State) (d : Die) (v : Opts) : (setOpts s d v).host = s.host := Eq.trans rfl rfl
@[simp] theorem setOpts_rt (s : State) (d : Die) (v : Opts) : (setOpts s d v).rt = s.rt := Eq.trans rfl rfl
@[simp] theorem setOpts_img (s : State) (d : Die) (v : Opts) : (setOpts s d v).img = s.img := Eq.trans rfl rfl
@[simp] theorem setOpts_fringe (s : State) (d : Die) (v : Opts) : (setOpts s d v).fringe = s.fringe := Eq.trans rfl rfl
@[simp] theorem setOpts_vigil (s : State) (d : Die) (v : Opts) : (setOpts s d v).vigil = s.vigil := Eq.trans rfl rfl
@[simp] theorem setOpts_dbg (s : State) (d : Die) (v : Opts) : (setOpts s d v).dbg = s.dbg := Eq.trans rfl rfl
@[simp] theorem setOpts_cap (s : State) (d : Die) (v : Opts) : (setOpts s d v).cap = s.cap := Eq.trans rfl rfl
@[simp] theorem setOpts_fuses (s : State) (d : Die) (v : Opts) : (setOpts s d v).fuses = s.fuses := Eq.trans rfl rfl
@[simp] theorem setOpts_regs (s : State) (d : Die) (v : Opts) : (setOpts s d v).regs = s.regs := Eq.trans rfl rfl
@[simp] theorem setOpts_pending (s : State) (d : Die) (v : Opts) : (setOpts s d v).pending = s.pending := Eq.trans rfl rfl
@[simp] theorem setOpts_outbox (s : State) (d : Die) (v : Opts) : (setOpts s d v).outbox = s.outbox := Eq.trans rfl rfl
@[simp] theorem setOpts_free (s : State) (d : Die) (v : Opts) : (setOpts s d v).free = s.free := Eq.trans rfl rfl
/-- Reading after `setOpts`. -/
@[simp] theorem getOpts_setOpts (s : State) (d : Die) (v : Opts) (other : Die) :
    getOpts (setOpts s d v) other = if other = d then v else getOpts s other := by
  simp [getOpts, setOpts, Fin.ext_iff]

/-! ### setSer -/

@[simp] theorem setSer_arr (s : State) (d : Die) (c : Nat) (v : SerSt) : (setSer s d c v).arr = s.arr := Eq.trans rfl rfl
@[simp] theorem setSer_flow (s : State) (d : Die) (c : Nat) (v : SerSt) : (setSer s d c v).flow = s.flow := Eq.trans rfl rfl
@[simp] theorem setSer_beats (s : State) (d : Die) (c : Nat) (v : SerSt) : (setSer s d c v).beats = s.beats := Eq.trans rfl rfl
@[simp] theorem setSer_doms (s : State) (d : Die) (c : Nat) (v : SerSt) : (setSer s d c v).doms = s.doms := Eq.trans rfl rfl
@[simp] theorem setSer_net (s : State) (d : Die) (c : Nat) (v : SerSt) : (setSer s d c v).net = s.net := Eq.trans rfl rfl
@[simp] theorem setSer_brd (s : State) (d : Die) (c : Nat) (v : SerSt) : (setSer s d c v).brd = s.brd := Eq.trans rfl rfl
@[simp] theorem setSer_mem (s : State) (d : Die) (c : Nat) (v : SerSt) : (setSer s d c v).mem = s.mem := Eq.trans rfl rfl
@[simp] theorem setSer_ports (s : State) (d : Die) (c : Nat) (v : SerSt) : (setSer s d c v).ports = s.ports := Eq.trans rfl rfl
@[simp] theorem setSer_host (s : State) (d : Die) (c : Nat) (v : SerSt) : (setSer s d c v).host = s.host := Eq.trans rfl rfl
@[simp] theorem setSer_rt (s : State) (d : Die) (c : Nat) (v : SerSt) : (setSer s d c v).rt = s.rt := Eq.trans rfl rfl
@[simp] theorem setSer_img (s : State) (d : Die) (c : Nat) (v : SerSt) : (setSer s d c v).img = s.img := Eq.trans rfl rfl
@[simp] theorem setSer_rst (s : State) (d : Die) (c : Nat) (v : SerSt) : (setSer s d c v).rst = s.rst := Eq.trans rfl rfl
@[simp] theorem setSer_vigil (s : State) (d : Die) (c : Nat) (v : SerSt) : (setSer s d c v).vigil = s.vigil := Eq.trans rfl rfl
@[simp] theorem setSer_dbg (s : State) (d : Die) (c : Nat) (v : SerSt) : (setSer s d c v).dbg = s.dbg := Eq.trans rfl rfl
@[simp] theorem setSer_cap (s : State) (d : Die) (c : Nat) (v : SerSt) : (setSer s d c v).cap = s.cap := Eq.trans rfl rfl
@[simp] theorem setSer_fuses (s : State) (d : Die) (c : Nat) (v : SerSt) : (setSer s d c v).fuses = s.fuses := Eq.trans rfl rfl
@[simp] theorem setSer_regs (s : State) (d : Die) (c : Nat) (v : SerSt) : (setSer s d c v).regs = s.regs := Eq.trans rfl rfl
@[simp] theorem setSer_pending (s : State) (d : Die) (c : Nat) (v : SerSt) : (setSer s d c v).pending = s.pending := Eq.trans rfl rfl
@[simp] theorem setSer_outbox (s : State) (d : Die) (c : Nat) (v : SerSt) : (setSer s d c v).outbox = s.outbox := Eq.trans rfl rfl
@[simp] theorem setSer_free (s : State) (d : Die) (c : Nat) (v : SerSt) : (setSer s d c v).free = s.free := Eq.trans rfl rfl
/-- Reading after `setSer` at the place written. -/
@[simp] theorem getSer_setSer (s : State) (d : Die) (c : Nat) (v : SerSt) :
    getSer (setSer s d c v) d c = v := by
  simp [getSer, setSer]

/-! ### setFGate -/

@[simp] theorem setFGate_arr (s : State) (d : Die) (g : Nat) (v : FGate) : (setFGate s d g v).arr = s.arr := Eq.trans rfl rfl
@[simp] theorem setFGate_flow (s : State) (d : Die) (g : Nat) (v : FGate) : (setFGate s d g v).flow = s.flow := Eq.trans rfl rfl
@[simp] theorem setFGate_beats (s : State) (d : Die) (g : Nat) (v : FGate) : (setFGate s d g v).beats = s.beats := Eq.trans rfl rfl
@[simp] theorem setFGate_doms (s : State) (d : Die) (g : Nat) (v : FGate) : (setFGate s d g v).doms = s.doms := Eq.trans rfl rfl
@[simp] theorem setFGate_net (s : State) (d : Die) (g : Nat) (v : FGate) : (setFGate s d g v).net = s.net := Eq.trans rfl rfl
@[simp] theorem setFGate_brd (s : State) (d : Die) (g : Nat) (v : FGate) : (setFGate s d g v).brd = s.brd := Eq.trans rfl rfl
@[simp] theorem setFGate_mem (s : State) (d : Die) (g : Nat) (v : FGate) : (setFGate s d g v).mem = s.mem := Eq.trans rfl rfl
@[simp] theorem setFGate_ports (s : State) (d : Die) (g : Nat) (v : FGate) : (setFGate s d g v).ports = s.ports := Eq.trans rfl rfl
@[simp] theorem setFGate_host (s : State) (d : Die) (g : Nat) (v : FGate) : (setFGate s d g v).host = s.host := Eq.trans rfl rfl
@[simp] theorem setFGate_rt (s : State) (d : Die) (g : Nat) (v : FGate) : (setFGate s d g v).rt = s.rt := Eq.trans rfl rfl
@[simp] theorem setFGate_img (s : State) (d : Die) (g : Nat) (v : FGate) : (setFGate s d g v).img = s.img := Eq.trans rfl rfl
@[simp] theorem setFGate_rst (s : State) (d : Die) (g : Nat) (v : FGate) : (setFGate s d g v).rst = s.rst := Eq.trans rfl rfl
@[simp] theorem setFGate_vigil (s : State) (d : Die) (g : Nat) (v : FGate) : (setFGate s d g v).vigil = s.vigil := Eq.trans rfl rfl
@[simp] theorem setFGate_dbg (s : State) (d : Die) (g : Nat) (v : FGate) : (setFGate s d g v).dbg = s.dbg := Eq.trans rfl rfl
@[simp] theorem setFGate_cap (s : State) (d : Die) (g : Nat) (v : FGate) : (setFGate s d g v).cap = s.cap := Eq.trans rfl rfl
@[simp] theorem setFGate_fuses (s : State) (d : Die) (g : Nat) (v : FGate) : (setFGate s d g v).fuses = s.fuses := Eq.trans rfl rfl
@[simp] theorem setFGate_regs (s : State) (d : Die) (g : Nat) (v : FGate) : (setFGate s d g v).regs = s.regs := Eq.trans rfl rfl
@[simp] theorem setFGate_pending (s : State) (d : Die) (g : Nat) (v : FGate) : (setFGate s d g v).pending = s.pending := Eq.trans rfl rfl
@[simp] theorem setFGate_outbox (s : State) (d : Die) (g : Nat) (v : FGate) : (setFGate s d g v).outbox = s.outbox := Eq.trans rfl rfl
@[simp] theorem setFGate_free (s : State) (d : Die) (g : Nat) (v : FGate) : (setFGate s d g v).free = s.free := Eq.trans rfl rfl
/-- Reading after `setFGate` at the place written. -/
@[simp] theorem getFGate_setFGate (s : State) (d : Die) (g : Nat) (v : FGate) :
    getFGate (setFGate s d g v) d g = v := by
  simp [getFGate, setFGate]

/-! ### setStage -/

@[simp] theorem setStage_arr (s : State) (d : Die) (v : Nat) : (setStage s d v).arr = s.arr := Eq.trans rfl rfl
@[simp] theorem setStage_flow (s : State) (d : Die) (v : Nat) : (setStage s d v).flow = s.flow := Eq.trans rfl rfl
@[simp] theorem setStage_beats (s : State) (d : Die) (v : Nat) : (setStage s d v).beats = s.beats := Eq.trans rfl rfl
@[simp] theorem setStage_doms (s : State) (d : Die) (v : Nat) : (setStage s d v).doms = s.doms := Eq.trans rfl rfl
@[simp] theorem setStage_net (s : State) (d : Die) (v : Nat) : (setStage s d v).net = s.net := Eq.trans rfl rfl
@[simp] theorem setStage_brd (s : State) (d : Die) (v : Nat) : (setStage s d v).brd = s.brd := Eq.trans rfl rfl
@[simp] theorem setStage_mem (s : State) (d : Die) (v : Nat) : (setStage s d v).mem = s.mem := Eq.trans rfl rfl
@[simp] theorem setStage_ports (s : State) (d : Die) (v : Nat) : (setStage s d v).ports = s.ports := Eq.trans rfl rfl
@[simp] theorem setStage_host (s : State) (d : Die) (v : Nat) : (setStage s d v).host = s.host := Eq.trans rfl rfl
@[simp] theorem setStage_rt (s : State) (d : Die) (v : Nat) : (setStage s d v).rt = s.rt := Eq.trans rfl rfl
@[simp] theorem setStage_img (s : State) (d : Die) (v : Nat) : (setStage s d v).img = s.img := Eq.trans rfl rfl
@[simp] theorem setStage_fringe (s : State) (d : Die) (v : Nat) : (setStage s d v).fringe = s.fringe := Eq.trans rfl rfl
@[simp] theorem setStage_vigil (s : State) (d : Die) (v : Nat) : (setStage s d v).vigil = s.vigil := Eq.trans rfl rfl
@[simp] theorem setStage_dbg (s : State) (d : Die) (v : Nat) : (setStage s d v).dbg = s.dbg := Eq.trans rfl rfl
@[simp] theorem setStage_cap (s : State) (d : Die) (v : Nat) : (setStage s d v).cap = s.cap := Eq.trans rfl rfl
@[simp] theorem setStage_fuses (s : State) (d : Die) (v : Nat) : (setStage s d v).fuses = s.fuses := Eq.trans rfl rfl
@[simp] theorem setStage_regs (s : State) (d : Die) (v : Nat) : (setStage s d v).regs = s.regs := Eq.trans rfl rfl
@[simp] theorem setStage_pending (s : State) (d : Die) (v : Nat) : (setStage s d v).pending = s.pending := Eq.trans rfl rfl
@[simp] theorem setStage_outbox (s : State) (d : Die) (v : Nat) : (setStage s d v).outbox = s.outbox := Eq.trans rfl rfl
@[simp] theorem setStage_free (s : State) (d : Die) (v : Nat) : (setStage s d v).free = s.free := Eq.trans rfl rfl
/-- Reading after `setStage`. -/
@[simp] theorem getStage_setStage (s : State) (d : Die) (v : Nat) (other : Die) :
    getStage (setStage s d v) other = if other = d then v else getStage s other := by
  simp [getStage, setStage, Fin.ext_iff]

/-! ### setReg -/

@[simp] theorem setReg_arr (s : State) (r : Reg) (d : Die) (i : Nat) (v : Word) : (setReg s r d i v).arr = s.arr := Eq.trans rfl rfl
@[simp] theorem setReg_flow (s : State) (r : Reg) (d : Die) (i : Nat) (v : Word) : (setReg s r d i v).flow = s.flow := Eq.trans rfl rfl
@[simp] theorem setReg_beats (s : State) (r : Reg) (d : Die) (i : Nat) (v : Word) : (setReg s r d i v).beats = s.beats := Eq.trans rfl rfl
@[simp] theorem setReg_doms (s : State) (r : Reg) (d : Die) (i : Nat) (v : Word) : (setReg s r d i v).doms = s.doms := Eq.trans rfl rfl
@[simp] theorem setReg_net (s : State) (r : Reg) (d : Die) (i : Nat) (v : Word) : (setReg s r d i v).net = s.net := Eq.trans rfl rfl
@[simp] theorem setReg_brd (s : State) (r : Reg) (d : Die) (i : Nat) (v : Word) : (setReg s r d i v).brd = s.brd := Eq.trans rfl rfl
@[simp] theorem setReg_mem (s : State) (r : Reg) (d : Die) (i : Nat) (v : Word) : (setReg s r d i v).mem = s.mem := Eq.trans rfl rfl
@[simp] theorem setReg_ports (s : State) (r : Reg) (d : Die) (i : Nat) (v : Word) : (setReg s r d i v).ports = s.ports := Eq.trans rfl rfl
@[simp] theorem setReg_host (s : State) (r : Reg) (d : Die) (i : Nat) (v : Word) : (setReg s r d i v).host = s.host := Eq.trans rfl rfl
@[simp] theorem setReg_rt (s : State) (r : Reg) (d : Die) (i : Nat) (v : Word) : (setReg s r d i v).rt = s.rt := Eq.trans rfl rfl
@[simp] theorem setReg_img (s : State) (r : Reg) (d : Die) (i : Nat) (v : Word) : (setReg s r d i v).img = s.img := Eq.trans rfl rfl
@[simp] theorem setReg_fringe (s : State) (r : Reg) (d : Die) (i : Nat) (v : Word) : (setReg s r d i v).fringe = s.fringe := Eq.trans rfl rfl
@[simp] theorem setReg_rst (s : State) (r : Reg) (d : Die) (i : Nat) (v : Word) : (setReg s r d i v).rst = s.rst := Eq.trans rfl rfl
@[simp] theorem setReg_vigil (s : State) (r : Reg) (d : Die) (i : Nat) (v : Word) : (setReg s r d i v).vigil = s.vigil := Eq.trans rfl rfl
@[simp] theorem setReg_dbg (s : State) (r : Reg) (d : Die) (i : Nat) (v : Word) : (setReg s r d i v).dbg = s.dbg := Eq.trans rfl rfl
@[simp] theorem setReg_cap (s : State) (r : Reg) (d : Die) (i : Nat) (v : Word) : (setReg s r d i v).cap = s.cap := Eq.trans rfl rfl
@[simp] theorem setReg_fuses (s : State) (r : Reg) (d : Die) (i : Nat) (v : Word) : (setReg s r d i v).fuses = s.fuses := Eq.trans rfl rfl
@[simp] theorem setReg_pending (s : State) (r : Reg) (d : Die) (i : Nat) (v : Word) : (setReg s r d i v).pending = s.pending := Eq.trans rfl rfl
@[simp] theorem setReg_outbox (s : State) (r : Reg) (d : Die) (i : Nat) (v : Word) : (setReg s r d i v).outbox = s.outbox := Eq.trans rfl rfl
@[simp] theorem setReg_free (s : State) (r : Reg) (d : Die) (i : Nat) (v : Word) : (setReg s r d i v).free = s.free := Eq.trans rfl rfl
/-- Reading after `setReg` at the place written. -/
@[simp] theorem regRaw_setReg (s : State) (r : Reg) (d : Die) (i : Nat) (v : Word) :
    regRaw (setReg s r d i v) r d i = v := by
  simp [regRaw, setReg]

/-! ### Registers and outputs -/


@[simp] theorem setF_arr (s : State) (f : Fld) (d : Die) (i : Nat) (v : Nat) : (setF s f d i v).arr = s.arr := Eq.trans rfl rfl
@[simp] theorem setF_flow (s : State) (f : Fld) (d : Die) (i : Nat) (v : Nat) : (setF s f d i v).flow = s.flow := Eq.trans rfl rfl
@[simp] theorem setF_beats (s : State) (f : Fld) (d : Die) (i : Nat) (v : Nat) : (setF s f d i v).beats = s.beats := Eq.trans rfl rfl
@[simp] theorem setF_doms (s : State) (f : Fld) (d : Die) (i : Nat) (v : Nat) : (setF s f d i v).doms = s.doms := Eq.trans rfl rfl
@[simp] theorem setF_net (s : State) (f : Fld) (d : Die) (i : Nat) (v : Nat) : (setF s f d i v).net = s.net := Eq.trans rfl rfl
@[simp] theorem setF_brd (s : State) (f : Fld) (d : Die) (i : Nat) (v : Nat) : (setF s f d i v).brd = s.brd := Eq.trans rfl rfl
@[simp] theorem setF_mem (s : State) (f : Fld) (d : Die) (i : Nat) (v : Nat) : (setF s f d i v).mem = s.mem := Eq.trans rfl rfl
@[simp] theorem setF_ports (s : State) (f : Fld) (d : Die) (i : Nat) (v : Nat) : (setF s f d i v).ports = s.ports := Eq.trans rfl rfl
@[simp] theorem setF_host (s : State) (f : Fld) (d : Die) (i : Nat) (v : Nat) : (setF s f d i v).host = s.host := Eq.trans rfl rfl
@[simp] theorem setF_rt (s : State) (f : Fld) (d : Die) (i : Nat) (v : Nat) : (setF s f d i v).rt = s.rt := Eq.trans rfl rfl
@[simp] theorem setF_img (s : State) (f : Fld) (d : Die) (i : Nat) (v : Nat) : (setF s f d i v).img = s.img := Eq.trans rfl rfl
@[simp] theorem setF_fringe (s : State) (f : Fld) (d : Die) (i : Nat) (v : Nat) : (setF s f d i v).fringe = s.fringe := Eq.trans rfl rfl
@[simp] theorem setF_rst (s : State) (f : Fld) (d : Die) (i : Nat) (v : Nat) : (setF s f d i v).rst = s.rst := Eq.trans rfl rfl
@[simp] theorem setF_vigil (s : State) (f : Fld) (d : Die) (i : Nat) (v : Nat) : (setF s f d i v).vigil = s.vigil := Eq.trans rfl rfl
@[simp] theorem setF_dbg (s : State) (f : Fld) (d : Die) (i : Nat) (v : Nat) : (setF s f d i v).dbg = s.dbg := Eq.trans rfl rfl
@[simp] theorem setF_cap (s : State) (f : Fld) (d : Die) (i : Nat) (v : Nat) : (setF s f d i v).cap = s.cap := Eq.trans rfl rfl
@[simp] theorem setF_fuses (s : State) (f : Fld) (d : Die) (i : Nat) (v : Nat) : (setF s f d i v).fuses = s.fuses := Eq.trans rfl rfl
@[simp] theorem setF_pending (s : State) (f : Fld) (d : Die) (i : Nat) (v : Nat) : (setF s f d i v).pending = s.pending := Eq.trans rfl rfl
@[simp] theorem setF_outbox (s : State) (f : Fld) (d : Die) (i : Nat) (v : Nat) : (setF s f d i v).outbox = s.outbox := Eq.trans rfl rfl
@[simp] theorem setF_free (s : State) (f : Fld) (d : Die) (i : Nat) (v : Nat) : (setF s f d i v).free = s.free := Eq.trans rfl rfl

@[simp] theorem emit_arr (s : State) (o : Output) : (emit s o).arr = s.arr := Eq.trans rfl rfl
@[simp] theorem emit_flow (s : State) (o : Output) : (emit s o).flow = s.flow := Eq.trans rfl rfl
@[simp] theorem emit_beats (s : State) (o : Output) : (emit s o).beats = s.beats := Eq.trans rfl rfl
@[simp] theorem emit_doms (s : State) (o : Output) : (emit s o).doms = s.doms := Eq.trans rfl rfl
@[simp] theorem emit_net (s : State) (o : Output) : (emit s o).net = s.net := Eq.trans rfl rfl
@[simp] theorem emit_brd (s : State) (o : Output) : (emit s o).brd = s.brd := Eq.trans rfl rfl
@[simp] theorem emit_mem (s : State) (o : Output) : (emit s o).mem = s.mem := Eq.trans rfl rfl
@[simp] theorem emit_ports (s : State) (o : Output) : (emit s o).ports = s.ports := Eq.trans rfl rfl
@[simp] theorem emit_host (s : State) (o : Output) : (emit s o).host = s.host := Eq.trans rfl rfl
@[simp] theorem emit_rt (s : State) (o : Output) : (emit s o).rt = s.rt := Eq.trans rfl rfl
@[simp] theorem emit_img (s : State) (o : Output) : (emit s o).img = s.img := Eq.trans rfl rfl
@[simp] theorem emit_fringe (s : State) (o : Output) : (emit s o).fringe = s.fringe := Eq.trans rfl rfl
@[simp] theorem emit_rst (s : State) (o : Output) : (emit s o).rst = s.rst := Eq.trans rfl rfl
@[simp] theorem emit_vigil (s : State) (o : Output) : (emit s o).vigil = s.vigil := Eq.trans rfl rfl
@[simp] theorem emit_dbg (s : State) (o : Output) : (emit s o).dbg = s.dbg := Eq.trans rfl rfl
@[simp] theorem emit_cap (s : State) (o : Output) : (emit s o).cap = s.cap := Eq.trans rfl rfl
@[simp] theorem emit_fuses (s : State) (o : Output) : (emit s o).fuses = s.fuses := Eq.trans rfl rfl
@[simp] theorem emit_regs (s : State) (o : Output) : (emit s o).regs = s.regs := Eq.trans rfl rfl
@[simp] theorem emit_pending (s : State) (o : Output) : (emit s o).pending = s.pending := Eq.trans rfl rfl
@[simp] theorem emit_free (s : State) (o : Output) : (emit s o).free = s.free := Eq.trans rfl rfl

@[simp] theorem countF_arr (s : State) (f : Fld) (d : Die) (i : Nat) : (countF s f d i).arr = s.arr := Eq.trans rfl rfl
@[simp] theorem countF_flow (s : State) (f : Fld) (d : Die) (i : Nat) : (countF s f d i).flow = s.flow := Eq.trans rfl rfl
@[simp] theorem countF_beats (s : State) (f : Fld) (d : Die) (i : Nat) : (countF s f d i).beats = s.beats := Eq.trans rfl rfl
@[simp] theorem countF_doms (s : State) (f : Fld) (d : Die) (i : Nat) : (countF s f d i).doms = s.doms := Eq.trans rfl rfl
@[simp] theorem countF_net (s : State) (f : Fld) (d : Die) (i : Nat) : (countF s f d i).net = s.net := Eq.trans rfl rfl
@[simp] theorem countF_brd (s : State) (f : Fld) (d : Die) (i : Nat) : (countF s f d i).brd = s.brd := Eq.trans rfl rfl
@[simp] theorem countF_mem (s : State) (f : Fld) (d : Die) (i : Nat) : (countF s f d i).mem = s.mem := Eq.trans rfl rfl
@[simp] theorem countF_ports (s : State) (f : Fld) (d : Die) (i : Nat) : (countF s f d i).ports = s.ports := Eq.trans rfl rfl
@[simp] theorem countF_host (s : State) (f : Fld) (d : Die) (i : Nat) : (countF s f d i).host = s.host := Eq.trans rfl rfl
@[simp] theorem countF_rt (s : State) (f : Fld) (d : Die) (i : Nat) : (countF s f d i).rt = s.rt := Eq.trans rfl rfl
@[simp] theorem countF_img (s : State) (f : Fld) (d : Die) (i : Nat) : (countF s f d i).img = s.img := Eq.trans rfl rfl
@[simp] theorem countF_fringe (s : State) (f : Fld) (d : Die) (i : Nat) : (countF s f d i).fringe = s.fringe := Eq.trans rfl rfl
@[simp] theorem countF_rst (s : State) (f : Fld) (d : Die) (i : Nat) : (countF s f d i).rst = s.rst := Eq.trans rfl rfl
@[simp] theorem countF_vigil (s : State) (f : Fld) (d : Die) (i : Nat) : (countF s f d i).vigil = s.vigil := Eq.trans rfl rfl
@[simp] theorem countF_dbg (s : State) (f : Fld) (d : Die) (i : Nat) : (countF s f d i).dbg = s.dbg := Eq.trans rfl rfl
@[simp] theorem countF_cap (s : State) (f : Fld) (d : Die) (i : Nat) : (countF s f d i).cap = s.cap := Eq.trans rfl rfl
@[simp] theorem countF_fuses (s : State) (f : Fld) (d : Die) (i : Nat) : (countF s f d i).fuses = s.fuses := Eq.trans rfl rfl
@[simp] theorem countF_pending (s : State) (f : Fld) (d : Die) (i : Nat) : (countF s f d i).pending = s.pending := Eq.trans rfl rfl
@[simp] theorem countF_outbox (s : State) (f : Fld) (d : Die) (i : Nat) : (countF s f d i).outbox = s.outbox := Eq.trans rfl rfl
@[simp] theorem countF_free (s : State) (f : Fld) (d : Die) (i : Nat) : (countF s f d i).free = s.free := Eq.trans rfl rfl

@[simp] theorem wrapF_arr (s : State) (f : Fld) (d : Die) (i : Nat) : (wrapF s f d i).arr = s.arr := Eq.trans rfl rfl
@[simp] theorem wrapF_flow (s : State) (f : Fld) (d : Die) (i : Nat) : (wrapF s f d i).flow = s.flow := Eq.trans rfl rfl
@[simp] theorem wrapF_beats (s : State) (f : Fld) (d : Die) (i : Nat) : (wrapF s f d i).beats = s.beats := Eq.trans rfl rfl
@[simp] theorem wrapF_doms (s : State) (f : Fld) (d : Die) (i : Nat) : (wrapF s f d i).doms = s.doms := Eq.trans rfl rfl
@[simp] theorem wrapF_net (s : State) (f : Fld) (d : Die) (i : Nat) : (wrapF s f d i).net = s.net := Eq.trans rfl rfl
@[simp] theorem wrapF_brd (s : State) (f : Fld) (d : Die) (i : Nat) : (wrapF s f d i).brd = s.brd := Eq.trans rfl rfl
@[simp] theorem wrapF_mem (s : State) (f : Fld) (d : Die) (i : Nat) : (wrapF s f d i).mem = s.mem := Eq.trans rfl rfl
@[simp] theorem wrapF_ports (s : State) (f : Fld) (d : Die) (i : Nat) : (wrapF s f d i).ports = s.ports := Eq.trans rfl rfl
@[simp] theorem wrapF_host (s : State) (f : Fld) (d : Die) (i : Nat) : (wrapF s f d i).host = s.host := Eq.trans rfl rfl
@[simp] theorem wrapF_rt (s : State) (f : Fld) (d : Die) (i : Nat) : (wrapF s f d i).rt = s.rt := Eq.trans rfl rfl
@[simp] theorem wrapF_img (s : State) (f : Fld) (d : Die) (i : Nat) : (wrapF s f d i).img = s.img := Eq.trans rfl rfl
@[simp] theorem wrapF_fringe (s : State) (f : Fld) (d : Die) (i : Nat) : (wrapF s f d i).fringe = s.fringe := Eq.trans rfl rfl
@[simp] theorem wrapF_rst (s : State) (f : Fld) (d : Die) (i : Nat) : (wrapF s f d i).rst = s.rst := Eq.trans rfl rfl
@[simp] theorem wrapF_vigil (s : State) (f : Fld) (d : Die) (i : Nat) : (wrapF s f d i).vigil = s.vigil := Eq.trans rfl rfl
@[simp] theorem wrapF_dbg (s : State) (f : Fld) (d : Die) (i : Nat) : (wrapF s f d i).dbg = s.dbg := Eq.trans rfl rfl
@[simp] theorem wrapF_cap (s : State) (f : Fld) (d : Die) (i : Nat) : (wrapF s f d i).cap = s.cap := Eq.trans rfl rfl
@[simp] theorem wrapF_fuses (s : State) (f : Fld) (d : Die) (i : Nat) : (wrapF s f d i).fuses = s.fuses := Eq.trans rfl rfl
@[simp] theorem wrapF_pending (s : State) (f : Fld) (d : Die) (i : Nat) : (wrapF s f d i).pending = s.pending := Eq.trans rfl rfl
@[simp] theorem wrapF_outbox (s : State) (f : Fld) (d : Die) (i : Nat) : (wrapF s f d i).outbox = s.outbox := Eq.trans rfl rfl
@[simp] theorem wrapF_free (s : State) (f : Fld) (d : Die) (i : Nat) : (wrapF s f d i).free = s.free := Eq.trans rfl rfl

/-- Reading any register after a register is written. -/
theorem regRaw_setReg_any (s : State) (r r' : Reg) (d d' : Die) (i i' : Nat) (v : Word) :
    regRaw (setReg s r d i v) r' d' i' = if regKey r' d' i' = regKey r d i then v else regRaw s r' d' i' := by
  simp [regRaw, setReg]

end Sys2Proof.Machine
end

