-- ==== Sys2Proof/Laws/Events.lean ====
section
/-! SUPPORT. Raising an event, completing a command and ending a wait change the host interface, registers and outputs
and nothing else: for each of these shared operations one lemma per other field of `State`. -/

namespace Sys2Proof.Machine

@[simp] theorem sendMsi_arr (s : State) (v : Nat) : (sendMsi s v).arr = s.arr := by
  unfold sendMsi; split <;> rfl
@[simp] theorem sendMsi_flow (s : State) (v : Nat) : (sendMsi s v).flow = s.flow := by
  unfold sendMsi; split <;> rfl
@[simp] theorem sendMsi_beats (s : State) (v : Nat) : (sendMsi s v).beats = s.beats := by
  unfold sendMsi; split <;> rfl
@[simp] theorem sendMsi_doms (s : State) (v : Nat) : (sendMsi s v).doms = s.doms := by
  unfold sendMsi; split <;> rfl
@[simp] theorem sendMsi_net (s : State) (v : Nat) : (sendMsi s v).net = s.net := by
  unfold sendMsi; split <;> rfl
@[simp] theorem sendMsi_brd (s : State) (v : Nat) : (sendMsi s v).brd = s.brd := by
  unfold sendMsi; split <;> rfl
@[simp] theorem sendMsi_mem (s : State) (v : Nat) : (sendMsi s v).mem = s.mem := by
  unfold sendMsi; split <;> rfl
@[simp] theorem sendMsi_ports (s : State) (v : Nat) : (sendMsi s v).ports = s.ports := by
  unfold sendMsi; split <;> rfl
@[simp] theorem sendMsi_rt (s : State) (v : Nat) : (sendMsi s v).rt = s.rt := by
  unfold sendMsi; split <;> rfl
@[simp] theorem sendMsi_img (s : State) (v : Nat) : (sendMsi s v).img = s.img := by
  unfold sendMsi; split <;> rfl
@[simp] theorem sendMsi_fringe (s : State) (v : Nat) : (sendMsi s v).fringe = s.fringe := by
  unfold sendMsi; split <;> rfl
@[simp] theorem sendMsi_rst (s : State) (v : Nat) : (sendMsi s v).rst = s.rst := by
  unfold sendMsi; split <;> rfl
@[simp] theorem sendMsi_vigil (s : State) (v : Nat) : (sendMsi s v).vigil = s.vigil := by
  unfold sendMsi; split <;> rfl
@[simp] theorem sendMsi_dbg (s : State) (v : Nat) : (sendMsi s v).dbg = s.dbg := by
  unfold sendMsi; split <;> rfl
@[simp] theorem sendMsi_cap (s : State) (v : Nat) : (sendMsi s v).cap = s.cap := by
  unfold sendMsi; split <;> rfl
@[simp] theorem sendMsi_fuses (s : State) (v : Nat) : (sendMsi s v).fuses = s.fuses := by
  unfold sendMsi; split <;> rfl
@[simp] theorem sendMsi_pending (s : State) (v : Nat) : (sendMsi s v).pending = s.pending := by
  unfold sendMsi; split <;> rfl
@[simp] theorem sendMsi_free (s : State) (v : Nat) : (sendMsi s v).free = s.free := by
  unfold sendMsi; split <;> rfl
@[simp] theorem sendMsi_host (s : State) (v : Nat) : (sendMsi s v).host = s.host := by
  unfold sendMsi; split <;> rfl

@[simp] theorem endQp_arr (s : State) (q : Nat) : (endQp s q).arr = s.arr := by
  exact Eq.trans rfl rfl
@[simp] theorem endQp_flow (s : State) (q : Nat) : (endQp s q).flow = s.flow := by
  exact Eq.trans rfl rfl
@[simp] theorem endQp_beats (s : State) (q : Nat) : (endQp s q).beats = s.beats := by
  exact Eq.trans rfl rfl
@[simp] theorem endQp_doms (s : State) (q : Nat) : (endQp s q).doms = s.doms := by
  exact Eq.trans rfl rfl
@[simp] theorem endQp_net (s : State) (q : Nat) : (endQp s q).net = s.net := by
  exact Eq.trans rfl rfl
@[simp] theorem endQp_brd (s : State) (q : Nat) : (endQp s q).brd = s.brd := by
  exact Eq.trans rfl rfl
@[simp] theorem endQp_mem (s : State) (q : Nat) : (endQp s q).mem = s.mem := by
  exact Eq.trans rfl rfl
@[simp] theorem endQp_ports (s : State) (q : Nat) : (endQp s q).ports = s.ports := by
  exact Eq.trans rfl rfl
@[simp] theorem endQp_rt (s : State) (q : Nat) : (endQp s q).rt = s.rt := by
  exact Eq.trans rfl rfl
@[simp] theorem endQp_img (s : State) (q : Nat) : (endQp s q).img = s.img := by
  exact Eq.trans rfl rfl
@[simp] theorem endQp_fringe (s : State) (q : Nat) : (endQp s q).fringe = s.fringe := by
  exact Eq.trans rfl rfl
@[simp] theorem endQp_rst (s : State) (q : Nat) : (endQp s q).rst = s.rst := by
  exact Eq.trans rfl rfl
@[simp] theorem endQp_vigil (s : State) (q : Nat) : (endQp s q).vigil = s.vigil := by
  exact Eq.trans rfl rfl
@[simp] theorem endQp_dbg (s : State) (q : Nat) : (endQp s q).dbg = s.dbg := by
  exact Eq.trans rfl rfl
@[simp] theorem endQp_cap (s : State) (q : Nat) : (endQp s q).cap = s.cap := by
  exact Eq.trans rfl rfl
@[simp] theorem endQp_fuses (s : State) (q : Nat) : (endQp s q).fuses = s.fuses := by
  exact Eq.trans rfl rfl
@[simp] theorem endQp_pending (s : State) (q : Nat) : (endQp s q).pending = s.pending := by
  exact Eq.trans rfl rfl
@[simp] theorem endQp_free (s : State) (q : Nat) : (endQp s q).free = s.free := by
  exact Eq.trans rfl rfl

@[simp] theorem drainQp_arr (s : State) (q : Nat) : (drainQp s q).arr = s.arr := by
  unfold drainQp; split <;> rfl
@[simp] theorem drainQp_flow (s : State) (q : Nat) : (drainQp s q).flow = s.flow := by
  unfold drainQp; split <;> rfl
@[simp] theorem drainQp_beats (s : State) (q : Nat) : (drainQp s q).beats = s.beats := by
  unfold drainQp; split <;> rfl
@[simp] theorem drainQp_doms (s : State) (q : Nat) : (drainQp s q).doms = s.doms := by
  unfold drainQp; split <;> rfl
@[simp] theorem drainQp_net (s : State) (q : Nat) : (drainQp s q).net = s.net := by
  unfold drainQp; split <;> rfl
@[simp] theorem drainQp_brd (s : State) (q : Nat) : (drainQp s q).brd = s.brd := by
  unfold drainQp; split <;> rfl
@[simp] theorem drainQp_mem (s : State) (q : Nat) : (drainQp s q).mem = s.mem := by
  unfold drainQp; split <;> rfl
@[simp] theorem drainQp_ports (s : State) (q : Nat) : (drainQp s q).ports = s.ports := by
  unfold drainQp; split <;> rfl
@[simp] theorem drainQp_rt (s : State) (q : Nat) : (drainQp s q).rt = s.rt := by
  unfold drainQp; split <;> rfl
@[simp] theorem drainQp_img (s : State) (q : Nat) : (drainQp s q).img = s.img := by
  unfold drainQp; split <;> rfl
@[simp] theorem drainQp_fringe (s : State) (q : Nat) : (drainQp s q).fringe = s.fringe := by
  unfold drainQp; split <;> rfl
@[simp] theorem drainQp_rst (s : State) (q : Nat) : (drainQp s q).rst = s.rst := by
  unfold drainQp; split <;> rfl
@[simp] theorem drainQp_vigil (s : State) (q : Nat) : (drainQp s q).vigil = s.vigil := by
  unfold drainQp; split <;> rfl
@[simp] theorem drainQp_dbg (s : State) (q : Nat) : (drainQp s q).dbg = s.dbg := by
  unfold drainQp; split <;> rfl
@[simp] theorem drainQp_cap (s : State) (q : Nat) : (drainQp s q).cap = s.cap := by
  unfold drainQp; split <;> rfl
@[simp] theorem drainQp_fuses (s : State) (q : Nat) : (drainQp s q).fuses = s.fuses := by
  unfold drainQp; split <;> rfl
@[simp] theorem drainQp_pending (s : State) (q : Nat) : (drainQp s q).pending = s.pending := by
  unfold drainQp; split <;> rfl
@[simp] theorem drainQp_free (s : State) (q : Nat) : (drainQp s q).free = s.free := by
  unfold drainQp; split <;> rfl

@[simp] theorem eventToQp_arr (s : State) (code : Nat) (d : Die) (src data : Word) (q : Nat) : (eventToQp s code d src data q).1.arr = s.arr := by
  unfold eventToQp; dsimp only; split
  · rfl
  · split <;> rfl
@[simp] theorem eventToQp_flow (s : State) (code : Nat) (d : Die) (src data : Word) (q : Nat) : (eventToQp s code d src data q).1.flow = s.flow := by
  unfold eventToQp; dsimp only; split
  · rfl
  · split <;> rfl
@[simp] theorem eventToQp_beats (s : State) (code : Nat) (d : Die) (src data : Word) (q : Nat) : (eventToQp s code d src data q).1.beats = s.beats := by
  unfold eventToQp; dsimp only; split
  · rfl
  · split <;> rfl
@[simp] theorem eventToQp_doms (s : State) (code : Nat) (d : Die) (src data : Word) (q : Nat) : (eventToQp s code d src data q).1.doms = s.doms := by
  unfold eventToQp; dsimp only; split
  · rfl
  · split <;> rfl
@[simp] theorem eventToQp_net (s : State) (code : Nat) (d : Die) (src data : Word) (q : Nat) : (eventToQp s code d src data q).1.net = s.net := by
  unfold eventToQp; dsimp only; split
  · rfl
  · split <;> rfl
@[simp] theorem eventToQp_brd (s : State) (code : Nat) (d : Die) (src data : Word) (q : Nat) : (eventToQp s code d src data q).1.brd = s.brd := by
  unfold eventToQp; dsimp only; split
  · rfl
  · split <;> rfl
@[simp] theorem eventToQp_mem (s : State) (code : Nat) (d : Die) (src data : Word) (q : Nat) : (eventToQp s code d src data q).1.mem = s.mem := by
  unfold eventToQp; dsimp only; split
  · rfl
  · split <;> rfl
@[simp] theorem eventToQp_ports (s : State) (code : Nat) (d : Die) (src data : Word) (q : Nat) : (eventToQp s code d src data q).1.ports = s.ports := by
  unfold eventToQp; dsimp only; split
  · rfl
  · split <;> rfl
@[simp] theorem eventToQp_rt (s : State) (code : Nat) (d : Die) (src data : Word) (q : Nat) : (eventToQp s code d src data q).1.rt = s.rt := by
  unfold eventToQp; dsimp only; split
  · rfl
  · split <;> rfl
@[simp] theorem eventToQp_img (s : State) (code : Nat) (d : Die) (src data : Word) (q : Nat) : (eventToQp s code d src data q).1.img = s.img := by
  unfold eventToQp; dsimp only; split
  · rfl
  · split <;> rfl
@[simp] theorem eventToQp_fringe (s : State) (code : Nat) (d : Die) (src data : Word) (q : Nat) : (eventToQp s code d src data q).1.fringe = s.fringe := by
  unfold eventToQp; dsimp only; split
  · rfl
  · split <;> rfl
@[simp] theorem eventToQp_rst (s : State) (code : Nat) (d : Die) (src data : Word) (q : Nat) : (eventToQp s code d src data q).1.rst = s.rst := by
  unfold eventToQp; dsimp only; split
  · rfl
  · split <;> rfl
@[simp] theorem eventToQp_vigil (s : State) (code : Nat) (d : Die) (src data : Word) (q : Nat) : (eventToQp s code d src data q).1.vigil = s.vigil := by
  unfold eventToQp; dsimp only; split
  · rfl
  · split <;> rfl
@[simp] theorem eventToQp_dbg (s : State) (code : Nat) (d : Die) (src data : Word) (q : Nat) : (eventToQp s code d src data q).1.dbg = s.dbg := by
  unfold eventToQp; dsimp only; split
  · rfl
  · split <;> rfl
@[simp] theorem eventToQp_cap (s : State) (code : Nat) (d : Die) (src data : Word) (q : Nat) : (eventToQp s code d src data q).1.cap = s.cap := by
  unfold eventToQp; dsimp only; split
  · rfl
  · split <;> rfl
@[simp] theorem eventToQp_fuses (s : State) (code : Nat) (d : Die) (src data : Word) (q : Nat) : (eventToQp s code d src data q).1.fuses = s.fuses := by
  unfold eventToQp; dsimp only; split
  · rfl
  · split <;> rfl
@[simp] theorem eventToQp_pending (s : State) (code : Nat) (d : Die) (src data : Word) (q : Nat) : (eventToQp s code d src data q).1.pending = s.pending := by
  unfold eventToQp; dsimp only; split
  · rfl
  · split <;> rfl
@[simp] theorem eventToQp_free (s : State) (code : Nat) (d : Die) (src data : Word) (q : Nat) : (eventToQp s code d src data q).1.free = s.free := by
  unfold eventToQp; dsimp only; split
  · rfl
  · split <;> rfl

@[simp] theorem eventToQps_arr (code : Nat) (d : Die) (src data : Word) (l : List Nat) (r : State × Bool × Bool) : (eventToQps code d src data l r).1.arr = r.1.arr := by
  induction l generalizing r with
  | nil => rfl
  | cons q qs ih =>
    simp only [eventToQps]
    split <;> simp [ih]
@[simp] theorem eventToQps_flow (code : Nat) (d : Die) (src data : Word) (l : List Nat) (r : State × Bool × Bool) : (eventToQps code d src data l r).1.flow = r.1.flow := by
  induction l generalizing r with
  | nil => rfl
  | cons q qs ih =>
    simp only [eventToQps]
    split <;> simp [ih]
@[simp] theorem eventToQps_beats (code : Nat) (d : Die) (src data : Word) (l : List Nat) (r : State × Bool × Bool) : (eventToQps code d src data l r).1.beats = r.1.beats := by
  induction l generalizing r with
  | nil => rfl
  | cons q qs ih =>
    simp only [eventToQps]
    split <;> simp [ih]
@[simp] theorem eventToQps_doms (code : Nat) (d : Die) (src data : Word) (l : List Nat) (r : State × Bool × Bool) : (eventToQps code d src data l r).1.doms = r.1.doms := by
  induction l generalizing r with
  | nil => rfl
  | cons q qs ih =>
    simp only [eventToQps]
    split <;> simp [ih]
@[simp] theorem eventToQps_net (code : Nat) (d : Die) (src data : Word) (l : List Nat) (r : State × Bool × Bool) : (eventToQps code d src data l r).1.net = r.1.net := by
  induction l generalizing r with
  | nil => rfl
  | cons q qs ih =>
    simp only [eventToQps]
    split <;> simp [ih]
@[simp] theorem eventToQps_brd (code : Nat) (d : Die) (src data : Word) (l : List Nat) (r : State × Bool × Bool) : (eventToQps code d src data l r).1.brd = r.1.brd := by
  induction l generalizing r with
  | nil => rfl
  | cons q qs ih =>
    simp only [eventToQps]
    split <;> simp [ih]
@[simp] theorem eventToQps_mem (code : Nat) (d : Die) (src data : Word) (l : List Nat) (r : State × Bool × Bool) : (eventToQps code d src data l r).1.mem = r.1.mem := by
  induction l generalizing r with
  | nil => rfl
  | cons q qs ih =>
    simp only [eventToQps]
    split <;> simp [ih]
@[simp] theorem eventToQps_ports (code : Nat) (d : Die) (src data : Word) (l : List Nat) (r : State × Bool × Bool) : (eventToQps code d src data l r).1.ports = r.1.ports := by
  induction l generalizing r with
  | nil => rfl
  | cons q qs ih =>
    simp only [eventToQps]
    split <;> simp [ih]
@[simp] theorem eventToQps_rt (code : Nat) (d : Die) (src data : Word) (l : List Nat) (r : State × Bool × Bool) : (eventToQps code d src data l r).1.rt = r.1.rt := by
  induction l generalizing r with
  | nil => rfl
  | cons q qs ih =>
    simp only [eventToQps]
    split <;> simp [ih]
@[simp] theorem eventToQps_img (code : Nat) (d : Die) (src data : Word) (l : List Nat) (r : State × Bool × Bool) : (eventToQps code d src data l r).1.img = r.1.img := by
  induction l generalizing r with
  | nil => rfl
  | cons q qs ih =>
    simp only [eventToQps]
    split <;> simp [ih]
@[simp] theorem eventToQps_fringe (code : Nat) (d : Die) (src data : Word) (l : List Nat) (r : State × Bool × Bool) : (eventToQps code d src data l r).1.fringe = r.1.fringe := by
  induction l generalizing r with
  | nil => rfl
  | cons q qs ih =>
    simp only [eventToQps]
    split <;> simp [ih]
@[simp] theorem eventToQps_rst (code : Nat) (d : Die) (src data : Word) (l : List Nat) (r : State × Bool × Bool) : (eventToQps code d src data l r).1.rst = r.1.rst := by
  induction l generalizing r with
  | nil => rfl
  | cons q qs ih =>
    simp only [eventToQps]
    split <;> simp [ih]
@[simp] theorem eventToQps_vigil (code : Nat) (d : Die) (src data : Word) (l : List Nat) (r : State × Bool × Bool) : (eventToQps code d src data l r).1.vigil = r.1.vigil := by
  induction l generalizing r with
  | nil => rfl
  | cons q qs ih =>
    simp only [eventToQps]
    split <;> simp [ih]
@[simp] theorem eventToQps_dbg (code : Nat) (d : Die) (src data : Word) (l : List Nat) (r : State × Bool × Bool) : (eventToQps code d src data l r).1.dbg = r.1.dbg := by
  induction l generalizing r with
  | nil => rfl
  | cons q qs ih =>
    simp only [eventToQps]
    split <;> simp [ih]
@[simp] theorem eventToQps_cap (code : Nat) (d : Die) (src data : Word) (l : List Nat) (r : State × Bool × Bool) : (eventToQps code d src data l r).1.cap = r.1.cap := by
  induction l generalizing r with
  | nil => rfl
  | cons q qs ih =>
    simp only [eventToQps]
    split <;> simp [ih]
@[simp] theorem eventToQps_fuses (code : Nat) (d : Die) (src data : Word) (l : List Nat) (r : State × Bool × Bool) : (eventToQps code d src data l r).1.fuses = r.1.fuses := by
  induction l generalizing r with
  | nil => rfl
  | cons q qs ih =>
    simp only [eventToQps]
    split <;> simp [ih]
@[simp] theorem eventToQps_pending (code : Nat) (d : Die) (src data : Word) (l : List Nat) (r : State × Bool × Bool) : (eventToQps code d src data l r).1.pending = r.1.pending := by
  induction l generalizing r with
  | nil => rfl
  | cons q qs ih =>
    simp only [eventToQps]
    split <;> simp [ih]
@[simp] theorem eventToQps_free (code : Nat) (d : Die) (src data : Word) (l : List Nat) (r : State × Bool × Bool) : (eventToQps code d src data l r).1.free = r.1.free := by
  induction l generalizing r with
  | nil => rfl
  | cons q qs ih =>
    simp only [eventToQps]
    split <;> simp [ih]

@[simp] theorem raiseEvent_arr (s : State) (code : Nat) (d : Die) (src data : Word) : (raiseEvent s code d src data).arr = s.arr := by
  unfold raiseEvent; dsimp only
  split <;> split <;> simp
@[simp] theorem raiseEvent_flow (s : State) (code : Nat) (d : Die) (src data : Word) : (raiseEvent s code d src data).flow = s.flow := by
  unfold raiseEvent; dsimp only
  split <;> split <;> simp
@[simp] theorem raiseEvent_beats (s : State) (code : Nat) (d : Die) (src data : Word) : (raiseEvent s code d src data).beats = s.beats := by
  unfold raiseEvent; dsimp only
  split <;> split <;> simp
@[simp] theorem raiseEvent_doms (s : State) (code : Nat) (d : Die) (src data : Word) : (raiseEvent s code d src data).doms = s.doms := by
  unfold raiseEvent; dsimp only
  split <;> split <;> simp
@[simp] theorem raiseEvent_net (s : State) (code : Nat) (d : Die) (src data : Word) : (raiseEvent s code d src data).net = s.net := by
  unfold raiseEvent; dsimp only
  split <;> split <;> simp
@[simp] theorem raiseEvent_brd (s : State) (code : Nat) (d : Die) (src data : Word) : (raiseEvent s code d src data).brd = s.brd := by
  unfold raiseEvent; dsimp only
  split <;> split <;> simp
@[simp] theorem raiseEvent_mem (s : State) (code : Nat) (d : Die) (src data : Word) : (raiseEvent s code d src data).mem = s.mem := by
  unfold raiseEvent; dsimp only
  split <;> split <;> simp
@[simp] theorem raiseEvent_ports (s : State) (code : Nat) (d : Die) (src data : Word) : (raiseEvent s code d src data).ports = s.ports := by
  unfold raiseEvent; dsimp only
  split <;> split <;> simp
@[simp] theorem raiseEvent_rt (s : State) (code : Nat) (d : Die) (src data : Word) : (raiseEvent s code d src data).rt = s.rt := by
  unfold raiseEvent; dsimp only
  split <;> split <;> simp
@[simp] theorem raiseEvent_img (s : State) (code : Nat) (d : Die) (src data : Word) : (raiseEvent s code d src data).img = s.img := by
  unfold raiseEvent; dsimp only
  split <;> split <;> simp
@[simp] theorem raiseEvent_fringe (s : State) (code : Nat) (d : Die) (src data : Word) : (raiseEvent s code d src data).fringe = s.fringe := by
  unfold raiseEvent; dsimp only
  split <;> split <;> simp
@[simp] theorem raiseEvent_rst (s : State) (code : Nat) (d : Die) (src data : Word) : (raiseEvent s code d src data).rst = s.rst := by
  unfold raiseEvent; dsimp only
  split <;> split <;> simp
@[simp] theorem raiseEvent_vigil (s : State) (code : Nat) (d : Die) (src data : Word) : (raiseEvent s code d src data).vigil = s.vigil := by
  unfold raiseEvent; dsimp only
  split <;> split <;> simp
@[simp] theorem raiseEvent_dbg (s : State) (code : Nat) (d : Die) (src data : Word) : (raiseEvent s code d src data).dbg = s.dbg := by
  unfold raiseEvent; dsimp only
  split <;> split <;> simp
@[simp] theorem raiseEvent_cap (s : State) (code : Nat) (d : Die) (src data : Word) : (raiseEvent s code d src data).cap = s.cap := by
  unfold raiseEvent; dsimp only
  split <;> split <;> simp
@[simp] theorem raiseEvent_fuses (s : State) (code : Nat) (d : Die) (src data : Word) : (raiseEvent s code d src data).fuses = s.fuses := by
  unfold raiseEvent; dsimp only
  split <;> split <;> simp
@[simp] theorem raiseEvent_pending (s : State) (code : Nat) (d : Die) (src data : Word) : (raiseEvent s code d src data).pending = s.pending := by
  unfold raiseEvent; dsimp only
  split <;> split <;> simp
@[simp] theorem raiseEvent_free (s : State) (code : Nat) (d : Die) (src data : Word) : (raiseEvent s code d src data).free = s.free := by
  unfold raiseEvent; dsimp only
  split <;> split <;> simp

@[simp] theorem postCompletion_arr (s : State) (q : Qp) (c : Completion) (mute : Bool) : (postCompletion s q c mute).arr = s.arr := by
  unfold postCompletion; dsimp only; split <;> simp
@[simp] theorem postCompletion_flow (s : State) (q : Qp) (c : Completion) (mute : Bool) : (postCompletion s q c mute).flow = s.flow := by
  unfold postCompletion; dsimp only; split <;> simp
@[simp] theorem postCompletion_beats (s : State) (q : Qp) (c : Completion) (mute : Bool) : (postCompletion s q c mute).beats = s.beats := by
  unfold postCompletion; dsimp only; split <;> simp
@[simp] theorem postCompletion_doms (s : State) (q : Qp) (c : Completion) (mute : Bool) : (postCompletion s q c mute).doms = s.doms := by
  unfold postCompletion; dsimp only; split <;> simp
@[simp] theorem postCompletion_net (s : State) (q : Qp) (c : Completion) (mute : Bool) : (postCompletion s q c mute).net = s.net := by
  unfold postCompletion; dsimp only; split <;> simp
@[simp] theorem postCompletion_brd (s : State) (q : Qp) (c : Completion) (mute : Bool) : (postCompletion s q c mute).brd = s.brd := by
  unfold postCompletion; dsimp only; split <;> simp
@[simp] theorem postCompletion_mem (s : State) (q : Qp) (c : Completion) (mute : Bool) : (postCompletion s q c mute).mem = s.mem := by
  unfold postCompletion; dsimp only; split <;> simp
@[simp] theorem postCompletion_ports (s : State) (q : Qp) (c : Completion) (mute : Bool) : (postCompletion s q c mute).ports = s.ports := by
  unfold postCompletion; dsimp only; split <;> simp
@[simp] theorem postCompletion_rt (s : State) (q : Qp) (c : Completion) (mute : Bool) : (postCompletion s q c mute).rt = s.rt := by
  unfold postCompletion; dsimp only; split <;> simp
@[simp] theorem postCompletion_img (s : State) (q : Qp) (c : Completion) (mute : Bool) : (postCompletion s q c mute).img = s.img := by
  unfold postCompletion; dsimp only; split <;> simp
@[simp] theorem postCompletion_fringe (s : State) (q : Qp) (c : Completion) (mute : Bool) : (postCompletion s q c mute).fringe = s.fringe := by
  unfold postCompletion; dsimp only; split <;> simp
@[simp] theorem postCompletion_rst (s : State) (q : Qp) (c : Completion) (mute : Bool) : (postCompletion s q c mute).rst = s.rst := by
  unfold postCompletion; dsimp only; split <;> simp
@[simp] theorem postCompletion_vigil (s : State) (q : Qp) (c : Completion) (mute : Bool) : (postCompletion s q c mute).vigil = s.vigil := by
  unfold postCompletion; dsimp only; split <;> simp
@[simp] theorem postCompletion_dbg (s : State) (q : Qp) (c : Completion) (mute : Bool) : (postCompletion s q c mute).dbg = s.dbg := by
  unfold postCompletion; dsimp only; split <;> simp
@[simp] theorem postCompletion_cap (s : State) (q : Qp) (c : Completion) (mute : Bool) : (postCompletion s q c mute).cap = s.cap := by
  unfold postCompletion; dsimp only; split <;> simp
@[simp] theorem postCompletion_fuses (s : State) (q : Qp) (c : Completion) (mute : Bool) : (postCompletion s q c mute).fuses = s.fuses := by
  unfold postCompletion; dsimp only; split <;> simp
@[simp] theorem postCompletion_pending (s : State) (q : Qp) (c : Completion) (mute : Bool) : (postCompletion s q c mute).pending = s.pending := by
  unfold postCompletion; dsimp only; split <;> simp
@[simp] theorem postCompletion_free (s : State) (q : Qp) (c : Completion) (mute : Bool) : (postCompletion s q c mute).free = s.free := by
  unfold postCompletion; dsimp only; split <;> simp

@[simp] theorem finish_arr (s : State) (c : HostCmd) (status r0 : Nat) : (finish s c status r0).arr = s.arr := by
  simp [finish]
@[simp] theorem finish_flow (s : State) (c : HostCmd) (status r0 : Nat) : (finish s c status r0).flow = s.flow := by
  simp [finish]
@[simp] theorem finish_beats (s : State) (c : HostCmd) (status r0 : Nat) : (finish s c status r0).beats = s.beats := by
  simp [finish]
@[simp] theorem finish_doms (s : State) (c : HostCmd) (status r0 : Nat) : (finish s c status r0).doms = s.doms := by
  simp [finish]
@[simp] theorem finish_net (s : State) (c : HostCmd) (status r0 : Nat) : (finish s c status r0).net = s.net := by
  simp [finish]
@[simp] theorem finish_brd (s : State) (c : HostCmd) (status r0 : Nat) : (finish s c status r0).brd = s.brd := by
  simp [finish]
@[simp] theorem finish_mem (s : State) (c : HostCmd) (status r0 : Nat) : (finish s c status r0).mem = s.mem := by
  simp [finish]
@[simp] theorem finish_ports (s : State) (c : HostCmd) (status r0 : Nat) : (finish s c status r0).ports = s.ports := by
  simp [finish]
@[simp] theorem finish_rt (s : State) (c : HostCmd) (status r0 : Nat) : (finish s c status r0).rt = s.rt := by
  simp [finish]
@[simp] theorem finish_img (s : State) (c : HostCmd) (status r0 : Nat) : (finish s c status r0).img = s.img := by
  simp [finish]
@[simp] theorem finish_fringe (s : State) (c : HostCmd) (status r0 : Nat) : (finish s c status r0).fringe = s.fringe := by
  simp [finish]
@[simp] theorem finish_rst (s : State) (c : HostCmd) (status r0 : Nat) : (finish s c status r0).rst = s.rst := by
  simp [finish]
@[simp] theorem finish_vigil (s : State) (c : HostCmd) (status r0 : Nat) : (finish s c status r0).vigil = s.vigil := by
  simp [finish]
@[simp] theorem finish_dbg (s : State) (c : HostCmd) (status r0 : Nat) : (finish s c status r0).dbg = s.dbg := by
  simp [finish]
@[simp] theorem finish_cap (s : State) (c : HostCmd) (status r0 : Nat) : (finish s c status r0).cap = s.cap := by
  simp [finish]
@[simp] theorem finish_fuses (s : State) (c : HostCmd) (status r0 : Nat) : (finish s c status r0).fuses = s.fuses := by
  simp [finish]
@[simp] theorem finish_pending (s : State) (c : HostCmd) (status r0 : Nat) : (finish s c status r0).pending = s.pending := by
  simp [finish]
@[simp] theorem finish_free (s : State) (c : HostCmd) (status r0 : Nat) : (finish s c status r0).free = s.free := by
  simp [finish]

@[simp] theorem recordLast_arr (s : State) (c : HostCmd) : (recordLast s c).arr = s.arr := by
  exact Eq.trans rfl rfl
@[simp] theorem recordLast_flow (s : State) (c : HostCmd) : (recordLast s c).flow = s.flow := by
  exact Eq.trans rfl rfl
@[simp] theorem recordLast_beats (s : State) (c : HostCmd) : (recordLast s c).beats = s.beats := by
  exact Eq.trans rfl rfl
@[simp] theorem recordLast_doms (s : State) (c : HostCmd) : (recordLast s c).doms = s.doms := by
  exact Eq.trans rfl rfl
@[simp] theorem recordLast_net (s : State) (c : HostCmd) : (recordLast s c).net = s.net := by
  exact Eq.trans rfl rfl
@[simp] theorem recordLast_brd (s : State) (c : HostCmd) : (recordLast s c).brd = s.brd := by
  exact Eq.trans rfl rfl
@[simp] theorem recordLast_mem (s : State) (c : HostCmd) : (recordLast s c).mem = s.mem := by
  exact Eq.trans rfl rfl
@[simp] theorem recordLast_ports (s : State) (c : HostCmd) : (recordLast s c).ports = s.ports := by
  exact Eq.trans rfl rfl
@[simp] theorem recordLast_rt (s : State) (c : HostCmd) : (recordLast s c).rt = s.rt := by
  exact Eq.trans rfl rfl
@[simp] theorem recordLast_img (s : State) (c : HostCmd) : (recordLast s c).img = s.img := by
  exact Eq.trans rfl rfl
@[simp] theorem recordLast_fringe (s : State) (c : HostCmd) : (recordLast s c).fringe = s.fringe := by
  exact Eq.trans rfl rfl
@[simp] theorem recordLast_rst (s : State) (c : HostCmd) : (recordLast s c).rst = s.rst := by
  exact Eq.trans rfl rfl
@[simp] theorem recordLast_vigil (s : State) (c : HostCmd) : (recordLast s c).vigil = s.vigil := by
  exact Eq.trans rfl rfl
@[simp] theorem recordLast_dbg (s : State) (c : HostCmd) : (recordLast s c).dbg = s.dbg := by
  exact Eq.trans rfl rfl
@[simp] theorem recordLast_cap (s : State) (c : HostCmd) : (recordLast s c).cap = s.cap := by
  exact Eq.trans rfl rfl
@[simp] theorem recordLast_fuses (s : State) (c : HostCmd) : (recordLast s c).fuses = s.fuses := by
  exact Eq.trans rfl rfl
@[simp] theorem recordLast_pending (s : State) (c : HostCmd) : (recordLast s c).pending = s.pending := by
  exact Eq.trans rfl rfl
@[simp] theorem recordLast_free (s : State) (c : HostCmd) : (recordLast s c).free = s.free := by
  exact Eq.trans rfl rfl
@[simp] theorem recordLast_host (s : State) (c : HostCmd) : (recordLast s c).host = s.host := by
  exact Eq.trans rfl rfl

@[simp] theorem failStaged_arr (s : State) (c : HostCmd) (status r0 : Nat) : (failStaged s c status r0).arr = s.arr := by
  simp [failStaged]
@[simp] theorem failStaged_flow (s : State) (c : HostCmd) (status r0 : Nat) : (failStaged s c status r0).flow = s.flow := by
  simp [failStaged]
@[simp] theorem failStaged_beats (s : State) (c : HostCmd) (status r0 : Nat) : (failStaged s c status r0).beats = s.beats := by
  simp [failStaged]
@[simp] theorem failStaged_doms (s : State) (c : HostCmd) (status r0 : Nat) : (failStaged s c status r0).doms = s.doms := by
  simp [failStaged]
@[simp] theorem failStaged_net (s : State) (c : HostCmd) (status r0 : Nat) : (failStaged s c status r0).net = s.net := by
  simp [failStaged]
@[simp] theorem failStaged_brd (s : State) (c : HostCmd) (status r0 : Nat) : (failStaged s c status r0).brd = s.brd := by
  simp [failStaged]
@[simp] theorem failStaged_mem (s : State) (c : HostCmd) (status r0 : Nat) : (failStaged s c status r0).mem = s.mem := by
  simp [failStaged]
@[simp] theorem failStaged_ports (s : State) (c : HostCmd) (status r0 : Nat) : (failStaged s c status r0).ports = s.ports := by
  simp [failStaged]
@[simp] theorem failStaged_rt (s : State) (c : HostCmd) (status r0 : Nat) : (failStaged s c status r0).rt = s.rt := by
  simp [failStaged]
@[simp] theorem failStaged_img (s : State) (c : HostCmd) (status r0 : Nat) : (failStaged s c status r0).img = s.img := by
  simp [failStaged]
@[simp] theorem failStaged_fringe (s : State) (c : HostCmd) (status r0 : Nat) : (failStaged s c status r0).fringe = s.fringe := by
  simp [failStaged]
@[simp] theorem failStaged_rst (s : State) (c : HostCmd) (status r0 : Nat) : (failStaged s c status r0).rst = s.rst := by
  simp [failStaged]
@[simp] theorem failStaged_vigil (s : State) (c : HostCmd) (status r0 : Nat) : (failStaged s c status r0).vigil = s.vigil := by
  simp [failStaged]
@[simp] theorem failStaged_dbg (s : State) (c : HostCmd) (status r0 : Nat) : (failStaged s c status r0).dbg = s.dbg := by
  simp [failStaged]
@[simp] theorem failStaged_cap (s : State) (c : HostCmd) (status r0 : Nat) : (failStaged s c status r0).cap = s.cap := by
  simp [failStaged]
@[simp] theorem failStaged_fuses (s : State) (c : HostCmd) (status r0 : Nat) : (failStaged s c status r0).fuses = s.fuses := by
  simp [failStaged]
@[simp] theorem failStaged_pending (s : State) (c : HostCmd) (status r0 : Nat) : (failStaged s c status r0).pending = s.pending := by
  simp [failStaged]
@[simp] theorem failStaged_free (s : State) (c : HostCmd) (status r0 : Nat) : (failStaged s c status r0).free = s.free := by
  simp [failStaged]

@[simp] theorem waitFor_arr (s : State) (c : HostCmd) (op : WaitOp) : (waitFor s c op).arr = s.arr := by
  exact Eq.trans rfl rfl
@[simp] theorem waitFor_flow (s : State) (c : HostCmd) (op : WaitOp) : (waitFor s c op).flow = s.flow := by
  exact Eq.trans rfl rfl
@[simp] theorem waitFor_beats (s : State) (c : HostCmd) (op : WaitOp) : (waitFor s c op).beats = s.beats := by
  exact Eq.trans rfl rfl
@[simp] theorem waitFor_doms (s : State) (c : HostCmd) (op : WaitOp) : (waitFor s c op).doms = s.doms := by
  exact Eq.trans rfl rfl
@[simp] theorem waitFor_net (s : State) (c : HostCmd) (op : WaitOp) : (waitFor s c op).net = s.net := by
  exact Eq.trans rfl rfl
@[simp] theorem waitFor_brd (s : State) (c : HostCmd) (op : WaitOp) : (waitFor s c op).brd = s.brd := by
  exact Eq.trans rfl rfl
@[simp] theorem waitFor_mem (s : State) (c : HostCmd) (op : WaitOp) : (waitFor s c op).mem = s.mem := by
  exact Eq.trans rfl rfl
@[simp] theorem waitFor_ports (s : State) (c : HostCmd) (op : WaitOp) : (waitFor s c op).ports = s.ports := by
  exact Eq.trans rfl rfl
@[simp] theorem waitFor_rt (s : State) (c : HostCmd) (op : WaitOp) : (waitFor s c op).rt = s.rt := by
  exact Eq.trans rfl rfl
@[simp] theorem waitFor_img (s : State) (c : HostCmd) (op : WaitOp) : (waitFor s c op).img = s.img := by
  exact Eq.trans rfl rfl
@[simp] theorem waitFor_fringe (s : State) (c : HostCmd) (op : WaitOp) : (waitFor s c op).fringe = s.fringe := by
  exact Eq.trans rfl rfl
@[simp] theorem waitFor_rst (s : State) (c : HostCmd) (op : WaitOp) : (waitFor s c op).rst = s.rst := by
  exact Eq.trans rfl rfl
@[simp] theorem waitFor_vigil (s : State) (c : HostCmd) (op : WaitOp) : (waitFor s c op).vigil = s.vigil := by
  exact Eq.trans rfl rfl
@[simp] theorem waitFor_dbg (s : State) (c : HostCmd) (op : WaitOp) : (waitFor s c op).dbg = s.dbg := by
  exact Eq.trans rfl rfl
@[simp] theorem waitFor_cap (s : State) (c : HostCmd) (op : WaitOp) : (waitFor s c op).cap = s.cap := by
  exact Eq.trans rfl rfl
@[simp] theorem waitFor_fuses (s : State) (c : HostCmd) (op : WaitOp) : (waitFor s c op).fuses = s.fuses := by
  exact Eq.trans rfl rfl
@[simp] theorem waitFor_pending (s : State) (c : HostCmd) (op : WaitOp) : (waitFor s c op).pending = s.pending := by
  exact Eq.trans rfl rfl
@[simp] theorem waitFor_free (s : State) (c : HostCmd) (op : WaitOp) : (waitFor s c op).free = s.free := by
  exact Eq.trans rfl rfl

@[simp] theorem stagedOk_arr (s : State) (c : HostCmd) (r0 : Nat) (op : WaitOp) : (stagedOk s c r0 op).arr = s.arr := by
  exact Eq.trans rfl rfl
@[simp] theorem stagedOk_flow (s : State) (c : HostCmd) (r0 : Nat) (op : WaitOp) : (stagedOk s c r0 op).flow = s.flow := by
  exact Eq.trans rfl rfl
@[simp] theorem stagedOk_beats (s : State) (c : HostCmd) (r0 : Nat) (op : WaitOp) : (stagedOk s c r0 op).beats = s.beats := by
  exact Eq.trans rfl rfl
@[simp] theorem stagedOk_doms (s : State) (c : HostCmd) (r0 : Nat) (op : WaitOp) : (stagedOk s c r0 op).doms = s.doms := by
  exact Eq.trans rfl rfl
@[simp] theorem stagedOk_net (s : State) (c : HostCmd) (r0 : Nat) (op : WaitOp) : (stagedOk s c r0 op).net = s.net := by
  exact Eq.trans rfl rfl
@[simp] theorem stagedOk_brd (s : State) (c : HostCmd) (r0 : Nat) (op : WaitOp) : (stagedOk s c r0 op).brd = s.brd := by
  exact Eq.trans rfl rfl
@[simp] theorem stagedOk_mem (s : State) (c : HostCmd) (r0 : Nat) (op : WaitOp) : (stagedOk s c r0 op).mem = s.mem := by
  exact Eq.trans rfl rfl
@[simp] theorem stagedOk_ports (s : State) (c : HostCmd) (r0 : Nat) (op : WaitOp) : (stagedOk s c r0 op).ports = s.ports := by
  exact Eq.trans rfl rfl
@[simp] theorem stagedOk_rt (s : State) (c : HostCmd) (r0 : Nat) (op : WaitOp) : (stagedOk s c r0 op).rt = s.rt := by
  exact Eq.trans rfl rfl
@[simp] theorem stagedOk_img (s : State) (c : HostCmd) (r0 : Nat) (op : WaitOp) : (stagedOk s c r0 op).img = s.img := by
  exact Eq.trans rfl rfl
@[simp] theorem stagedOk_fringe (s : State) (c : HostCmd) (r0 : Nat) (op : WaitOp) : (stagedOk s c r0 op).fringe = s.fringe := by
  exact Eq.trans rfl rfl
@[simp] theorem stagedOk_rst (s : State) (c : HostCmd) (r0 : Nat) (op : WaitOp) : (stagedOk s c r0 op).rst = s.rst := by
  exact Eq.trans rfl rfl
@[simp] theorem stagedOk_vigil (s : State) (c : HostCmd) (r0 : Nat) (op : WaitOp) : (stagedOk s c r0 op).vigil = s.vigil := by
  exact Eq.trans rfl rfl
@[simp] theorem stagedOk_dbg (s : State) (c : HostCmd) (r0 : Nat) (op : WaitOp) : (stagedOk s c r0 op).dbg = s.dbg := by
  exact Eq.trans rfl rfl
@[simp] theorem stagedOk_cap (s : State) (c : HostCmd) (r0 : Nat) (op : WaitOp) : (stagedOk s c r0 op).cap = s.cap := by
  exact Eq.trans rfl rfl
@[simp] theorem stagedOk_fuses (s : State) (c : HostCmd) (r0 : Nat) (op : WaitOp) : (stagedOk s c r0 op).fuses = s.fuses := by
  exact Eq.trans rfl rfl
@[simp] theorem stagedOk_pending (s : State) (c : HostCmd) (r0 : Nat) (op : WaitOp) : (stagedOk s c r0 op).pending = s.pending := by
  exact Eq.trans rfl rfl
@[simp] theorem stagedOk_free (s : State) (c : HostCmd) (r0 : Nat) (op : WaitOp) : (stagedOk s c r0 op).free = s.free := by
  exact Eq.trans rfl rfl

/-- Completing commands one after another changes a field of the state only if completing one does. -/
theorem foldl_post {β : Type} (p : State → β) (h : ∀ (s : State) (q : Qp) (c : Completion) (m : Bool),
    p (postCompletion s q c m) = p s) (l : List Waiting) (s : State) :
    p (l.foldl (fun s w => postCompletion s w.qp w.cpl w.mute) s) = p s := by
  induction l generalizing s with
  | nil => rfl
  | cons w ws ih => simp [List.foldl_cons, ih, h]

@[simp] theorem settleWaits_arr (s : State) : (settleWaits s).arr = s.arr := by
  exact foldl_post (fun s => s.arr) (fun s q c m => postCompletion_arr s q c m) _ _
@[simp] theorem settleWaits_flow (s : State) : (settleWaits s).flow = s.flow := by
  exact foldl_post (fun s => s.flow) (fun s q c m => postCompletion_flow s q c m) _ _
@[simp] theorem settleWaits_beats (s : State) : (settleWaits s).beats = s.beats := by
  exact foldl_post (fun s => s.beats) (fun s q c m => postCompletion_beats s q c m) _ _
@[simp] theorem settleWaits_doms (s : State) : (settleWaits s).doms = s.doms := by
  exact foldl_post (fun s => s.doms) (fun s q c m => postCompletion_doms s q c m) _ _
@[simp] theorem settleWaits_net (s : State) : (settleWaits s).net = s.net := by
  exact foldl_post (fun s => s.net) (fun s q c m => postCompletion_net s q c m) _ _
@[simp] theorem settleWaits_brd (s : State) : (settleWaits s).brd = s.brd := by
  exact foldl_post (fun s => s.brd) (fun s q c m => postCompletion_brd s q c m) _ _
@[simp] theorem settleWaits_mem (s : State) : (settleWaits s).mem = s.mem := by
  exact foldl_post (fun s => s.mem) (fun s q c m => postCompletion_mem s q c m) _ _
@[simp] theorem settleWaits_ports (s : State) : (settleWaits s).ports = s.ports := by
  exact foldl_post (fun s => s.ports) (fun s q c m => postCompletion_ports s q c m) _ _
@[simp] theorem settleWaits_rt (s : State) : (settleWaits s).rt = s.rt := by
  exact foldl_post (fun s => s.rt) (fun s q c m => postCompletion_rt s q c m) _ _
@[simp] theorem settleWaits_img (s : State) : (settleWaits s).img = s.img := by
  exact foldl_post (fun s => s.img) (fun s q c m => postCompletion_img s q c m) _ _
@[simp] theorem settleWaits_fringe (s : State) : (settleWaits s).fringe = s.fringe := by
  exact foldl_post (fun s => s.fringe) (fun s q c m => postCompletion_fringe s q c m) _ _
@[simp] theorem settleWaits_rst (s : State) : (settleWaits s).rst = s.rst := by
  exact foldl_post (fun s => s.rst) (fun s q c m => postCompletion_rst s q c m) _ _
@[simp] theorem settleWaits_vigil (s : State) : (settleWaits s).vigil = s.vigil := by
  exact foldl_post (fun s => s.vigil) (fun s q c m => postCompletion_vigil s q c m) _ _
@[simp] theorem settleWaits_dbg (s : State) : (settleWaits s).dbg = s.dbg := by
  exact foldl_post (fun s => s.dbg) (fun s q c m => postCompletion_dbg s q c m) _ _
@[simp] theorem settleWaits_cap (s : State) : (settleWaits s).cap = s.cap := by
  exact foldl_post (fun s => s.cap) (fun s q c m => postCompletion_cap s q c m) _ _
@[simp] theorem settleWaits_fuses (s : State) : (settleWaits s).fuses = s.fuses := by
  exact foldl_post (fun s => s.fuses) (fun s q c m => postCompletion_fuses s q c m) _ _
@[simp] theorem settleWaits_pending (s : State) : (settleWaits s).pending = s.pending := by
  exact foldl_post (fun s => s.pending) (fun s q c m => postCompletion_pending s q c m) _ _
@[simp] theorem settleWaits_free (s : State) : (settleWaits s).free = s.free := by
  exact foldl_post (fun s => s.free) (fun s q c m => postCompletion_free s q c m) _ _

@[simp] theorem endWait_arr (s : State) (op : WaitOp) (status : Nat) (r0 r1 : Nat) : (endWait s op status r0 r1).arr = s.arr := by
  simp [endWait]
@[simp] theorem endWait_flow (s : State) (op : WaitOp) (status : Nat) (r0 r1 : Nat) : (endWait s op status r0 r1).flow = s.flow := by
  simp [endWait]
@[simp] theorem endWait_beats (s : State) (op : WaitOp) (status : Nat) (r0 r1 : Nat) : (endWait s op status r0 r1).beats = s.beats := by
  simp [endWait]
@[simp] theorem endWait_doms (s : State) (op : WaitOp) (status : Nat) (r0 r1 : Nat) : (endWait s op status r0 r1).doms = s.doms := by
  simp [endWait]
@[simp] theorem endWait_net (s : State) (op : WaitOp) (status : Nat) (r0 r1 : Nat) : (endWait s op status r0 r1).net = s.net := by
  simp [endWait]
@[simp] theorem endWait_brd (s : State) (op : WaitOp) (status : Nat) (r0 r1 : Nat) : (endWait s op status r0 r1).brd = s.brd := by
  simp [endWait]
@[simp] theorem endWait_mem (s : State) (op : WaitOp) (status : Nat) (r0 r1 : Nat) : (endWait s op status r0 r1).mem = s.mem := by
  simp [endWait]
@[simp] theorem endWait_ports (s : State) (op : WaitOp) (status : Nat) (r0 r1 : Nat) : (endWait s op status r0 r1).ports = s.ports := by
  simp [endWait]
@[simp] theorem endWait_rt (s : State) (op : WaitOp) (status : Nat) (r0 r1 : Nat) : (endWait s op status r0 r1).rt = s.rt := by
  simp [endWait]
@[simp] theorem endWait_img (s : State) (op : WaitOp) (status : Nat) (r0 r1 : Nat) : (endWait s op status r0 r1).img = s.img := by
  simp [endWait]
@[simp] theorem endWait_fringe (s : State) (op : WaitOp) (status : Nat) (r0 r1 : Nat) : (endWait s op status r0 r1).fringe = s.fringe := by
  simp [endWait]
@[simp] theorem endWait_rst (s : State) (op : WaitOp) (status : Nat) (r0 r1 : Nat) : (endWait s op status r0 r1).rst = s.rst := by
  simp [endWait]
@[simp] theorem endWait_vigil (s : State) (op : WaitOp) (status : Nat) (r0 r1 : Nat) : (endWait s op status r0 r1).vigil = s.vigil := by
  simp [endWait]
@[simp] theorem endWait_dbg (s : State) (op : WaitOp) (status : Nat) (r0 r1 : Nat) : (endWait s op status r0 r1).dbg = s.dbg := by
  simp [endWait]
@[simp] theorem endWait_cap (s : State) (op : WaitOp) (status : Nat) (r0 r1 : Nat) : (endWait s op status r0 r1).cap = s.cap := by
  simp [endWait]
@[simp] theorem endWait_fuses (s : State) (op : WaitOp) (status : Nat) (r0 r1 : Nat) : (endWait s op status r0 r1).fuses = s.fuses := by
  simp [endWait]
@[simp] theorem endWait_pending (s : State) (op : WaitOp) (status : Nat) (r0 r1 : Nat) : (endWait s op status r0 r1).pending = s.pending := by
  simp [endWait]
@[simp] theorem endWait_free (s : State) (op : WaitOp) (status : Nat) (r0 r1 : Nat) : (endWait s op status r0 r1).free = s.free := by
  simp [endWait]

@[simp] theorem svSend_arr (s : State) (status : Byte) (data : List Byte) : (svSend s status data).arr = s.arr := by
  exact Eq.trans rfl rfl
@[simp] theorem svSend_flow (s : State) (status : Byte) (data : List Byte) : (svSend s status data).flow = s.flow := by
  exact Eq.trans rfl rfl
@[simp] theorem svSend_beats (s : State) (status : Byte) (data : List Byte) : (svSend s status data).beats = s.beats := by
  exact Eq.trans rfl rfl
@[simp] theorem svSend_doms (s : State) (status : Byte) (data : List Byte) : (svSend s status data).doms = s.doms := by
  exact Eq.trans rfl rfl
@[simp] theorem svSend_net (s : State) (status : Byte) (data : List Byte) : (svSend s status data).net = s.net := by
  exact Eq.trans rfl rfl
@[simp] theorem svSend_brd (s : State) (status : Byte) (data : List Byte) : (svSend s status data).brd = s.brd := by
  exact Eq.trans rfl rfl
@[simp] theorem svSend_mem (s : State) (status : Byte) (data : List Byte) : (svSend s status data).mem = s.mem := by
  exact Eq.trans rfl rfl
@[simp] theorem svSend_ports (s : State) (status : Byte) (data : List Byte) : (svSend s status data).ports = s.ports := by
  exact Eq.trans rfl rfl
@[simp] theorem svSend_rt (s : State) (status : Byte) (data : List Byte) : (svSend s status data).rt = s.rt := by
  exact Eq.trans rfl rfl
@[simp] theorem svSend_img (s : State) (status : Byte) (data : List Byte) : (svSend s status data).img = s.img := by
  exact Eq.trans rfl rfl
@[simp] theorem svSend_fringe (s : State) (status : Byte) (data : List Byte) : (svSend s status data).fringe = s.fringe := by
  exact Eq.trans rfl rfl
@[simp] theorem svSend_rst (s : State) (status : Byte) (data : List Byte) : (svSend s status data).rst = s.rst := by
  exact Eq.trans rfl rfl
@[simp] theorem svSend_vigil (s : State) (status : Byte) (data : List Byte) : (svSend s status data).vigil = s.vigil := by
  exact Eq.trans rfl rfl
@[simp] theorem svSend_dbg (s : State) (status : Byte) (data : List Byte) : (svSend s status data).dbg = s.dbg := by
  exact Eq.trans rfl rfl
@[simp] theorem svSend_cap (s : State) (status : Byte) (data : List Byte) : (svSend s status data).cap = s.cap := by
  exact Eq.trans rfl rfl
@[simp] theorem svSend_fuses (s : State) (status : Byte) (data : List Byte) : (svSend s status data).fuses = s.fuses := by
  exact Eq.trans rfl rfl
@[simp] theorem svSend_pending (s : State) (status : Byte) (data : List Byte) : (svSend s status data).pending = s.pending := by
  exact Eq.trans rfl rfl
@[simp] theorem svSend_free (s : State) (status : Byte) (data : List Byte) : (svSend s status data).free = s.free := by
  exact Eq.trans rfl rfl
@[simp] theorem svSend_host (s : State) (status : Byte) (data : List Byte) : (svSend s status data).host = s.host := by
  exact Eq.trans rfl rfl
@[simp] theorem svSend_regs (s : State) (status : Byte) (data : List Byte) : (svSend s status data).regs = s.regs := by
  exact Eq.trans rfl rfl

@[simp] theorem freeValue_arr (s : State) : (freeValue s).2.arr = s.arr := by
  exact Eq.trans rfl rfl
@[simp] theorem freeValue_flow (s : State) : (freeValue s).2.flow = s.flow := by
  exact Eq.trans rfl rfl
@[simp] theorem freeValue_beats (s : State) : (freeValue s).2.beats = s.beats := by
  exact Eq.trans rfl rfl
@[simp] theorem freeValue_doms (s : State) : (freeValue s).2.doms = s.doms := by
  exact Eq.trans rfl rfl
@[simp] theorem freeValue_net (s : State) : (freeValue s).2.net = s.net := by
  exact Eq.trans rfl rfl
@[simp] theorem freeValue_brd (s : State) : (freeValue s).2.brd = s.brd := by
  exact Eq.trans rfl rfl
@[simp] theorem freeValue_mem (s : State) : (freeValue s).2.mem = s.mem := by
  exact Eq.trans rfl rfl
@[simp] theorem freeValue_ports (s : State) : (freeValue s).2.ports = s.ports := by
  exact Eq.trans rfl rfl
@[simp] theorem freeValue_rt (s : State) : (freeValue s).2.rt = s.rt := by
  exact Eq.trans rfl rfl
@[simp] theorem freeValue_img (s : State) : (freeValue s).2.img = s.img := by
  exact Eq.trans rfl rfl
@[simp] theorem freeValue_fringe (s : State) : (freeValue s).2.fringe = s.fringe := by
  exact Eq.trans rfl rfl
@[simp] theorem freeValue_rst (s : State) : (freeValue s).2.rst = s.rst := by
  exact Eq.trans rfl rfl
@[simp] theorem freeValue_vigil (s : State) : (freeValue s).2.vigil = s.vigil := by
  exact Eq.trans rfl rfl
@[simp] theorem freeValue_dbg (s : State) : (freeValue s).2.dbg = s.dbg := by
  exact Eq.trans rfl rfl
@[simp] theorem freeValue_cap (s : State) : (freeValue s).2.cap = s.cap := by
  exact Eq.trans rfl rfl
@[simp] theorem freeValue_fuses (s : State) : (freeValue s).2.fuses = s.fuses := by
  exact Eq.trans rfl rfl
@[simp] theorem freeValue_pending (s : State) : (freeValue s).2.pending = s.pending := by
  exact Eq.trans rfl rfl
@[simp] theorem freeValue_host (s : State) : (freeValue s).2.host = s.host := by
  exact Eq.trans rfl rfl
@[simp] theorem freeValue_regs (s : State) : (freeValue s).2.regs = s.regs := by
  exact Eq.trans rfl rfl
@[simp] theorem freeValue_outbox (s : State) : (freeValue s).2.outbox = s.outbox := by
  exact Eq.trans rfl rfl

end Sys2Proof.Machine
end

