-- ==== Sys2Proof/Laws/Ports.lean ====
section
/-! SUPPORT. What a frame that arrives and a turn of the transmitter do, case by case (R278 to R285). They say it through
`Option.elim`, so that no proof has to evaluate the search that finds the rule or the binding. And the descrambler of the line
undoes the scrambler (R290). -/

namespace Sys2Proof.Machine

theorem elim_of_some {α β : Type} {o : Option α} {x : α} (h : o = some x) (a : β) (f : α → β) : o.elim a f = f x := by
  subst h; rfl

theorem elim_of_none {α β : Type} {o : Option α} (h : o = none) (a : β) (f : α → β) : o.elim a f = a := by
  subst h; rfl

theorem transmit_of_none (s : State) (p : Nat) (due : Option Nat)
    (h : choose (skipBindings s p) p (bindings s p) = none) : transmit s p due = resumeFrame (skipBindings s p) p due := by
  unfold transmit
  exact elim_of_none h _ _

theorem transmit_of_some (s : State) (p : Nat) (due : Option Nat) (x : TxItem ⊕ (Nat × Nat × Nat))
    (h : choose (skipBindings s p) p (bindings s p) = some x) : transmit s p due = sendChosen (skipBindings s p) p due x := by
  unfold transmit
  exact elim_of_some h _ _

/-- With no preempted frame there is nothing to go on with. -/
theorem resumeFrame_idle (s : State) (p : Nat) (due : Option Nat) (h : (getPort s p).frag = none) : resumeFrame s p due = s := by
  unfold resumeFrame
  rw [h]

/-- A preempted frame goes on while its gate is open, and otherwise waits. -/
theorem resumeFrame_frag (s : State) (p : Nat) (due : Option Nat) (x : TxFrame) (h : (getPort s p).frag = some x) :
    resumeFrame s p due = if gateOpen s p x.tc then sendPart s p x due else s := by
  unfold resumeFrame
  rw [h]

/-- A frame of an express class, or without verified preemption, is never preempted. -/
theorem preemptAt_none (s : State) (p tc left : Nat) (due : Option Nat)
    (h : Config.express p tc = true ∨ (getPort s p).verified = false) : preemptAt s p tc left due = none := by
  unfold preemptAt
  exact if_pos (by rcases h with h | h <;> simp [h])

/-- A frame that is not preempted leaves whole. -/
theorem sendPart_whole (s : State) (p : Nat) (x : TxFrame) (due : Option Nat) (h0 : x.sent = 0)
    (h : preemptAt s p x.tc (x.bytes.length - x.sent) due = none) : sendPart s p x due = sendEth s p x.bytes (egressTime s p) := by
  unfold sendPart
  rw [h]
  exact if_pos h0

theorem frameArrives_bad (s : State) (p : Nat) (bs : List Byte) (ok : Bool) (h : ok = false ∨ bs.length < 64 ∨ 9216 < bs.length) :
    frameArrives s p bs ok = countF s fRX_DROP_bad (portDie p) (portIx p) := by
  unfold frameArrives
  exact if_pos (by rcases h with h | h | h <;> simp [h])

theorem frameArrives_good (s : State) (p : Nat) (bs : List Byte) (h1 : 64 ≤ bs.length) (h2 : bs.length ≤ 9216) :
    frameArrives s p bs true =
      if (ethParse bs).etype = 0x8808 then countF s fRX_DROP_no_match (portDie p) (portIx p)
      else if flagF s fPCFG_ptp_en (portDie p) (portIx p) && isPtp (ethParse bs) then emit s (.ptp p bs (ingressTime s p))
      else ((List.range 64).find? (ruleTakes s p (ethParse bs))).elim (countF s fRX_DROP_no_match (portDie p) (portIx p))
        (ruleItem s p (ethParse bs)) := by
  have e1 : ¬ bs.length < 64 := by omega
  have e2 : ¬ 9216 < bs.length := by omega
  unfold frameArrives
  exact if_neg (by simp [e1, e2])

theorem frameArrives_rule (s : State) (p : Nat) (bs : List Byte) (r : Nat) (h1 : 64 ≤ bs.length) (h2 : bs.length ≤ 9216)
    (h3 : (ethParse bs).etype ≠ 0x8808) (h4 : flagF s fPCFG_ptp_en (portDie p) (portIx p) = false)
    (h5 : (List.range 64).find? (ruleTakes s p (ethParse bs)) = some r) :
    frameArrives s p bs true = ruleItem s p (ethParse bs) r := by
  rw [frameArrives_good s p bs h1 h2, if_neg h3, if_neg (by simp [h4]), elim_of_some h5]

theorem frameArrives_unmatched (s : State) (p : Nat) (bs : List Byte) (h1 : 64 ≤ bs.length) (h2 : bs.length ≤ 9216)
    (h3 : (ethParse bs).etype ≠ 0x8808) (h4 : flagF s fPCFG_ptp_en (portDie p) (portIx p) = false)
    (h5 : (List.range 64).find? (ruleTakes s p (ethParse bs)) = none) :
    frameArrives s p bs true = countF s fRX_DROP_no_match (portDie p) (portIx p) := by
  rw [frameArrives_good s p bs h1 h2, if_neg h3, if_neg (by simp [h4]), elim_of_none h5]

@[simp] theorem plDescramble_plScramble (st : BitVec 58) (bs : List Bool) : plDescramble st (plScramble st bs) = bs := by
  induction bs generalizing st with
  | nil => rfl
  | cons b bs ih =>
    have h : (plDescrambleBit st (plScrambleBit st b).2).2 = b := by
      simp only [plDescrambleBit, plScrambleBit]
      cases b <;> cases st.getLsbD 38 <;> cases st.getLsbD 57 <;> rfl
    have h2 : (plDescrambleBit st (plScrambleBit st b).2).1 = (plScrambleBit st b).1 := rfl
    simp only [plScramble, plDescramble, h, h2, ih]

@[simp] theorem plScramble_length (st : BitVec 58) (bs : List Bool) : (plScramble st bs).length = bs.length := by
  induction bs generalizing st with
  | nil => rfl
  | cons b bs ih => simp [plScramble, ih]

end Sys2Proof.Machine
end

