-- ==== Sys2Proof/Laws/Reads.lean ====
section
/-! SUPPORT. A write of one store leaves what every other store reads as it was: for each setter and each getter of another
store one lemma. -/

namespace Sys2Proof.Machine

@[simp] theorem getHar_setCell (s : State) (k : Nat) (v : CellSt) (d_ : Die) (h_ : Nat) : getHar (setCell s k v) d_ h_ = getHar s d_ h_ := Eq.trans rfl rfl
@[simp] theorem getReedIn_setCell (s : State) (k : Nat) (v : CellSt) (k_ : Nat) : getReedIn (setCell s k v) k_ = getReedIn s k_ := Eq.trans rfl rfl
@[simp] theorem getGate_setCell (s : State) (k : Nat) (v : CellSt) (k_ : Nat) : getGate (setCell s k v) k_ = getGate s k_ := Eq.trans rfl rfl
@[simp] theorem getScratch_setCell (s : State) (k : Nat) (v : CellSt) (ck_ : Nat) (a_ : Nat) : getScratch (setCell s k v) ck_ a_ = getScratch s ck_ a_ := Eq.trans rfl rfl
@[simp] theorem getShared_setCell (s : State) (k : Nat) (v : CellSt) (ck_ : Nat) (g_ : Nat) : getShared (setCell s k v) ck_ g_ = getShared s ck_ g_ := Eq.trans rfl rfl
@[simp] theorem getCellDraft_setCell (s : State) (k : Nat) (v : CellSt) (ck_ : Nat) (bank_ : Bool) (slot_ : Nat) : getCellDraft (setCell s k v) ck_ bank_ slot_ = getCellDraft s ck_ bank_ slot_ := Eq.trans rfl rfl
@[simp] theorem getReedDraft_setCell (s : State) (k : Nat) (v : CellSt) (d_ : Die) (h_ : Nat) (i_ : Nat) (bank_ : Bool) (slot_ : Nat) : getReedDraft (setCell s k v) d_ h_ i_ bank_ slot_ = getReedDraft s d_ h_ i_ bank_ slot_ := Eq.trans rfl rfl
@[simp] theorem getTable_setCell (s : State) (k : Nat) (v : CellSt) (d_ : Die) (h_ : Nat) (bank_ : Bool) (e_ : Nat) : getTable (setCell s k v) d_ h_ bank_ e_ = getTable s d_ h_ bank_ e_ := Eq.trans rfl rfl
@[simp] theorem getYarn_setCell (s : State) (k : Nat) (v : CellSt) (d_ : Die) (y_ : Nat) : getYarn (setCell s k v) d_ y_ = getYarn s d_ y_ := Eq.trans rfl rfl
@[simp] theorem getBob_setCell (s : State) (k : Nat) (v : CellSt) (b_ : Nat) : getBob (setCell s k v) b_ = getBob s b_ := Eq.trans rfl rfl
@[simp] theorem getBeat_setCell (s : State) (k : Nat) (v : CellSt) (d_ : Die) : getBeat (setCell s k v) d_ = getBeat s d_ := Eq.trans rfl rfl
@[simp] theorem getDom_setCell (s : State) (k : Nat) (v : CellSt) (d_ : Die) (i_ : Nat) : getDom (setCell s k v) d_ i_ = getDom s d_ i_ := Eq.trans rfl rfl
@[simp] theorem getBrd_setCell (s : State) (k : Nat) (v : CellSt) (d_ : Die) : getBrd (setCell s k v) d_ = getBrd s d_ := Eq.trans rfl rfl
@[simp] theorem getHbm_setCell (s : State) (k : Nat) (v : CellSt) (d_ : Die) : getHbm (setCell s k v) d_ = getHbm s d_ := Eq.trans rfl rfl
@[simp] theorem getMarch_setCell (s : State) (k : Nat) (v : CellSt) (d_ : Die) : getMarch (setCell s k v) d_ = getMarch s d_ := Eq.trans rfl rfl
@[simp] theorem getPort_setCell (s : State) (k : Nat) (v : CellSt) (p_ : Nat) : getPort (setCell s k v) p_ = getPort s p_ := Eq.trans rfl rfl
@[simp] theorem getRing_setCell (s : State) (k : Nat) (v : CellSt) (k_ : Nat) : getRing (setCell s k v) k_ = getRing s k_ := Eq.trans rfl rfl
@[simp] theorem getQp_setCell (s : State) (k : Nat) (v : CellSt) (q_ : Nat) : getQp (setCell s k v) q_ = getQp s q_ := Eq.trans rfl rfl
@[simp] theorem getRegion_setCell (s : State) (k : Nat) (v : CellSt) (j_ : Nat) : getRegion (setCell s k v) j_ = getRegion s j_ := Eq.trans rfl rfl
@[simp] theorem getRt_setCell (s : State) (k : Nat) (v : CellSt) (d_ : Die) : getRt (setCell s k v) d_ = getRt s d_ := Eq.trans rfl rfl
@[simp] theorem getImg_setCell (s : State) (k : Nat) (v : CellSt) (d_ : Die) : getImg (setCell s k v) d_ = getImg s d_ := Eq.trans rfl rfl
@[simp] theorem getOpts_setCell (s : State) (k : Nat) (v : CellSt) (d_ : Die) : getOpts (setCell s k v) d_ = getOpts s d_ := Eq.trans rfl rfl
@[simp] theorem getSer_setCell (s : State) (k : Nat) (v : CellSt) (d_ : Die) (c_ : Nat) : getSer (setCell s k v) d_ c_ = getSer s d_ c_ := Eq.trans rfl rfl
@[simp] theorem getFGate_setCell (s : State) (k : Nat) (v : CellSt) (d_ : Die) (g_ : Nat) : getFGate (setCell s k v) d_ g_ = getFGate s d_ g_ := Eq.trans rfl rfl
@[simp] theorem getStage_setCell (s : State) (k : Nat) (v : CellSt) (d_ : Die) : getStage (setCell s k v) d_ = getStage s d_ := Eq.trans rfl rfl
@[simp] theorem regRaw_setCell (s : State) (k : Nat) (v : CellSt) (r_ : Reg) (d_ : Die) (i_ : Nat) : regRaw (setCell s k v) r_ d_ i_ = regRaw s r_ d_ i_ := Eq.trans rfl rfl

@[simp] theorem getCell_setHar (s : State) (d : Die) (h : Nat) (v : HarSt) (k_ : Nat) : getCell (setHar s d h v) k_ = getCell s k_ := Eq.trans rfl rfl
@[simp] theorem getReedIn_setHar (s : State) (d : Die) (h : Nat) (v : HarSt) (k_ : Nat) : getReedIn (setHar s d h v) k_ = getReedIn s k_ := Eq.trans rfl rfl
@[simp] theorem getGate_setHar (s : State) (d : Die) (h : Nat) (v : HarSt) (k_ : Nat) : getGate (setHar s d h v) k_ = getGate s k_ := Eq.trans rfl rfl
@[simp] theorem getScratch_setHar (s : State) (d : Die) (h : Nat) (v : HarSt) (ck_ : Nat) (a_ : Nat) : getScratch (setHar s d h v) ck_ a_ = getScratch s ck_ a_ := Eq.trans rfl rfl
@[simp] theorem getShared_setHar (s : State) (d : Die) (h : Nat) (v : HarSt) (ck_ : Nat) (g_ : Nat) : getShared (setHar s d h v) ck_ g_ = getShared s ck_ g_ := Eq.trans rfl rfl
@[simp] theorem getCellDraft_setHar (s : State) (d : Die) (h : Nat) (v : HarSt) (ck_ : Nat) (bank_ : Bool) (slot_ : Nat) : getCellDraft (setHar s d h v) ck_ bank_ slot_ = getCellDraft s ck_ bank_ slot_ := Eq.trans rfl rfl
@[simp] theorem getReedDraft_setHar (s : State) (d : Die) (h : Nat) (v : HarSt) (d_ : Die) (h_ : Nat) (i_ : Nat) (bank_ : Bool) (slot_ : Nat) : getReedDraft (setHar s d h v) d_ h_ i_ bank_ slot_ = getReedDraft s d_ h_ i_ bank_ slot_ := Eq.trans rfl rfl
@[simp] theorem getTable_setHar (s : State) (d : Die) (h : Nat) (v : HarSt) (d_ : Die) (h_ : Nat) (bank_ : Bool) (e_ : Nat) : getTable (setHar s d h v) d_ h_ bank_ e_ = getTable s d_ h_ bank_ e_ := Eq.trans rfl rfl
@[simp] theorem getYarn_setHar (s : State) (d : Die) (h : Nat) (v : HarSt) (d_ : Die) (y_ : Nat) : getYarn (setHar s d h v) d_ y_ = getYarn s d_ y_ := Eq.trans rfl rfl
@[simp] theorem getBob_setHar (s : State) (d : Die) (h : Nat) (v : HarSt) (b_ : Nat) : getBob (setHar s d h v) b_ = getBob s b_ := Eq.trans rfl rfl
@[simp] theorem getBeat_setHar (s : State) (d : Die) (h : Nat) (v : HarSt) (d_ : Die) : getBeat (setHar s d h v) d_ = getBeat s d_ := Eq.trans rfl rfl
@[simp] theorem getDom_setHar (s : State) (d : Die) (h : Nat) (v : HarSt) (d_ : Die) (i_ : Nat) : getDom (setHar s d h v) d_ i_ = getDom s d_ i_ := Eq.trans rfl rfl
@[simp] theorem getBrd_setHar (s : State) (d : Die) (h : Nat) (v : HarSt) (d_ : Die) : getBrd (setHar s d h v) d_ = getBrd s d_ := Eq.trans rfl rfl
@[simp] theorem getHbm_setHar (s : State) (d : Die) (h : Nat) (v : HarSt) (d_ : Die) : getHbm (setHar s d h v) d_ = getHbm s d_ := Eq.trans rfl rfl
@[simp] theorem getMarch_setHar (s : State) (d : Die) (h : Nat) (v : HarSt) (d_ : Die) : getMarch (setHar s d h v) d_ = getMarch s d_ := Eq.trans rfl rfl
@[simp] theorem getPort_setHar (s : State) (d : Die) (h : Nat) (v : HarSt) (p_ : Nat) : getPort (setHar s d h v) p_ = getPort s p_ := Eq.trans rfl rfl
@[simp] theorem getRing_setHar (s : State) (d : Die) (h : Nat) (v : HarSt) (k_ : Nat) : getRing (setHar s d h v) k_ = getRing s k_ := Eq.trans rfl rfl
@[simp] theorem getQp_setHar (s : State) (d : Die) (h : Nat) (v : HarSt) (q_ : Nat) : getQp (setHar s d h v) q_ = getQp s q_ := Eq.trans rfl rfl
@[simp] theorem getRegion_setHar (s : State) (d : Die) (h : Nat) (v : HarSt) (j_ : Nat) : getRegion (setHar s d h v) j_ = getRegion s j_ := Eq.trans rfl rfl
@[simp] theorem getRt_setHar (s : State) (d : Die) (h : Nat) (v : HarSt) (d_ : Die) : getRt (setHar s d h v) d_ = getRt s d_ := Eq.trans rfl rfl
@[simp] theorem getImg_setHar (s : State) (d : Die) (h : Nat) (v : HarSt) (d_ : Die) : getImg (setHar s d h v) d_ = getImg s d_ := Eq.trans rfl rfl
@[simp] theorem getOpts_setHar (s : State) (d : Die) (h : Nat) (v : HarSt) (d_ : Die) : getOpts (setHar s d h v) d_ = getOpts s d_ := Eq.trans rfl rfl
@[simp] theorem getSer_setHar (s : State) (d : Die) (h : Nat) (v : HarSt) (d_ : Die) (c_ : Nat) : getSer (setHar s d h v) d_ c_ = getSer s d_ c_ := Eq.trans rfl rfl
@[simp] theorem getFGate_setHar (s : State) (d : Die) (h : Nat) (v : HarSt) (d_ : Die) (g_ : Nat) : getFGate (setHar s d h v) d_ g_ = getFGate s d_ g_ := Eq.trans rfl rfl
@[simp] theorem getStage_setHar (s : State) (d : Die) (h : Nat) (v : HarSt) (d_ : Die) : getStage (setHar s d h v) d_ = getStage s d_ := Eq.trans rfl rfl
@[simp] theorem regRaw_setHar (s : State) (d : Die) (h : Nat) (v : HarSt) (r_ : Reg) (d_ : Die) (i_ : Nat) : regRaw (setHar s d h v) r_ d_ i_ = regRaw s r_ d_ i_ := Eq.trans rfl rfl

@[simp] theorem getCell_setReedIn (s : State) (k : Nat) (w : Option Wire) (k_ : Nat) : getCell (setReedIn s k w) k_ = getCell s k_ := Eq.trans rfl rfl
@[simp] theorem getHar_setReedIn (s : State) (k : Nat) (w : Option Wire) (d_ : Die) (h_ : Nat) : getHar (setReedIn s k w) d_ h_ = getHar s d_ h_ := Eq.trans rfl rfl
@[simp] theorem getGate_setReedIn (s : State) (k : Nat) (w : Option Wire) (k_ : Nat) : getGate (setReedIn s k w) k_ = getGate s k_ := Eq.trans rfl rfl
@[simp] theorem getScratch_setReedIn (s : State) (k : Nat) (w : Option Wire) (ck_ : Nat) (a_ : Nat) : getScratch (setReedIn s k w) ck_ a_ = getScratch s ck_ a_ := Eq.trans rfl rfl
@[simp] theorem getShared_setReedIn (s : State) (k : Nat) (w : Option Wire) (ck_ : Nat) (g_ : Nat) : getShared (setReedIn s k w) ck_ g_ = getShared s ck_ g_ := Eq.trans rfl rfl
@[simp] theorem getCellDraft_setReedIn (s : State) (k : Nat) (w : Option Wire) (ck_ : Nat) (bank_ : Bool) (slot_ : Nat) : getCellDraft (setReedIn s k w) ck_ bank_ slot_ = getCellDraft s ck_ bank_ slot_ := Eq.trans rfl rfl
@[simp] theorem getReedDraft_setReedIn (s : State) (k : Nat) (w : Option Wire) (d_ : Die) (h_ : Nat) (i_ : Nat) (bank_ : Bool) (slot_ : Nat) : getReedDraft (setReedIn s k w) d_ h_ i_ bank_ slot_ = getReedDraft s d_ h_ i_ bank_ slot_ := Eq.trans rfl rfl
@[simp] theorem getTable_setReedIn (s : State) (k : Nat) (w : Option Wire) (d_ : Die) (h_ : Nat) (bank_ : Bool) (e_ : Nat) : getTable (setReedIn s k w) d_ h_ bank_ e_ = getTable s d_ h_ bank_ e_ := Eq.trans rfl rfl
@[simp] theorem getYarn_setReedIn (s : State) (k : Nat) (w : Option Wire) (d_ : Die) (y_ : Nat) : getYarn (setReedIn s k w) d_ y_ = getYarn s d_ y_ := Eq.trans rfl rfl
@[simp] theorem getBob_setReedIn (s : State) (k : Nat) (w : Option Wire) (b_ : Nat) : getBob (setReedIn s k w) b_ = getBob s b_ := Eq.trans rfl rfl
@[simp] theorem getBeat_setReedIn (s : State) (k : Nat) (w : Option Wire) (d_ : Die) : getBeat (setReedIn s k w) d_ = getBeat s d_ := Eq.trans rfl rfl
@[simp] theorem getDom_setReedIn (s : State) (k : Nat) (w : Option Wire) (d_ : Die) (i_ : Nat) : getDom (setReedIn s k w) d_ i_ = getDom s d_ i_ := Eq.trans rfl rfl
@[simp] theorem getBrd_setReedIn (s : State) (k : Nat) (w : Option Wire) (d_ : Die) : getBrd (setReedIn s k w) d_ = getBrd s d_ := Eq.trans rfl rfl
@[simp] theorem getHbm_setReedIn (s : State) (k : Nat) (w : Option Wire) (d_ : Die) : getHbm (setReedIn s k w) d_ = getHbm s d_ := Eq.trans rfl rfl
@[simp] theorem getMarch_setReedIn (s : State) (k : Nat) (w : Option Wire) (d_ : Die) : getMarch (setReedIn s k w) d_ = getMarch s d_ := Eq.trans rfl rfl
@[simp] theorem getPort_setReedIn (s : State) (k : Nat) (w : Option Wire) (p_ : Nat) : getPort (setReedIn s k w) p_ = getPort s p_ := Eq.trans rfl rfl
@[simp] theorem getRing_setReedIn (s : State) (k : Nat) (w : Option Wire) (k_ : Nat) : getRing (setReedIn s k w) k_ = getRing s k_ := Eq.trans rfl rfl
@[simp] theorem getQp_setReedIn (s : State) (k : Nat) (w : Option Wire) (q_ : Nat) : getQp (setReedIn s k w) q_ = getQp s q_ := Eq.trans rfl rfl
@[simp] theorem getRegion_setReedIn (s : State) (k : Nat) (w : Option Wire) (j_ : Nat) : getRegion (setReedIn s k w) j_ = getRegion s j_ := Eq.trans rfl rfl
@[simp] theorem getRt_setReedIn (s : State) (k : Nat) (w : Option Wire) (d_ : Die) : getRt (setReedIn s k w) d_ = getRt s d_ := Eq.trans rfl rfl
@[simp] theorem getImg_setReedIn (s : State) (k : Nat) (w : Option Wire) (d_ : Die) : getImg (setReedIn s k w) d_ = getImg s d_ := Eq.trans rfl rfl
@[simp] theorem getOpts_setReedIn (s : State) (k : Nat) (w : Option Wire) (d_ : Die) : getOpts (setReedIn s k w) d_ = getOpts s d_ := Eq.trans rfl rfl
@[simp] theorem getSer_setReedIn (s : State) (k : Nat) (w : Option Wire) (d_ : Die) (c_ : Nat) : getSer (setReedIn s k w) d_ c_ = getSer s d_ c_ := Eq.trans rfl rfl
@[simp] theorem getFGate_setReedIn (s : State) (k : Nat) (w : Option Wire) (d_ : Die) (g_ : Nat) : getFGate (setReedIn s k w) d_ g_ = getFGate s d_ g_ := Eq.trans rfl rfl
@[simp] theorem getStage_setReedIn (s : State) (k : Nat) (w : Option Wire) (d_ : Die) : getStage (setReedIn s k w) d_ = getStage s d_ := Eq.trans rfl rfl
@[simp] theorem regRaw_setReedIn (s : State) (k : Nat) (w : Option Wire) (r_ : Reg) (d_ : Die) (i_ : Nat) : regRaw (setReedIn s k w) r_ d_ i_ = regRaw s r_ d_ i_ := Eq.trans rfl rfl

@[simp] theorem getCell_setGate (s : State) (k : Nat) (v : GateSt) (k_ : Nat) : getCell (setGate s k v) k_ = getCell s k_ := Eq.trans rfl rfl
@[simp] theorem getHar_setGate (s : State) (k : Nat) (v : GateSt) (d_ : Die) (h_ : Nat) : getHar (setGate s k v) d_ h_ = getHar s d_ h_ := Eq.trans rfl rfl
@[simp] theorem getReedIn_setGate (s : State) (k : Nat) (v : GateSt) (k_ : Nat) : getReedIn (setGate s k v) k_ = getReedIn s k_ := Eq.trans rfl rfl
@[simp] theorem getScratch_setGate (s : State) (k : Nat) (v : GateSt) (ck_ : Nat) (a_ : Nat) : getScratch (setGate s k v) ck_ a_ = getScratch s ck_ a_ := Eq.trans rfl rfl
@[simp] theorem getShared_setGate (s : State) (k : Nat) (v : GateSt) (ck_ : Nat) (g_ : Nat) : getShared (setGate s k v) ck_ g_ = getShared s ck_ g_ := Eq.trans rfl rfl
@[simp] theorem getCellDraft_setGate (s : State) (k : Nat) (v : GateSt) (ck_ : Nat) (bank_ : Bool) (slot_ : Nat) : getCellDraft (setGate s k v) ck_ bank_ slot_ = getCellDraft s ck_ bank_ slot_ := Eq.trans rfl rfl
@[simp] theorem getReedDraft_setGate (s : State) (k : Nat) (v : GateSt) (d_ : Die) (h_ : Nat) (i_ : Nat) (bank_ : Bool) (slot_ : Nat) : getReedDraft (setGate s k v) d_ h_ i_ bank_ slot_ = getReedDraft s d_ h_ i_ bank_ slot_ := Eq.trans rfl rfl
@[simp] theorem getTable_setGate (s : State) (k : Nat) (v : GateSt) (d_ : Die) (h_ : Nat) (bank_ : Bool) (e_ : Nat) : getTable (setGate s k v) d_ h_ bank_ e_ = getTable s d_ h_ bank_ e_ := Eq.trans rfl rfl
@[simp] theorem getYarn_setGate (s : State) (k : Nat) (v : GateSt) (d_ : Die) (y_ : Nat) : getYarn (setGate s k v) d_ y_ = getYarn s d_ y_ := Eq.trans rfl rfl
@[simp] theorem getBob_setGate (s : State) (k : Nat) (v : GateSt) (b_ : Nat) : getBob (setGate s k v) b_ = getBob s b_ := Eq.trans rfl rfl
@[simp] theorem getBeat_setGate (s : State) (k : Nat) (v : GateSt) (d_ : Die) : getBeat (setGate s k v) d_ = getBeat s d_ := Eq.trans rfl rfl
@[simp] theorem getDom_setGate (s : State) (k : Nat) (v : GateSt) (d_ : Die) (i_ : Nat) : getDom (setGate s k v) d_ i_ = getDom s d_ i_ := Eq.trans rfl rfl
@[simp] theorem getBrd_setGate (s : State) (k : Nat) (v : GateSt) (d_ : Die) : getBrd (setGate s k v) d_ = getBrd s d_ := Eq.trans rfl rfl
@[simp] theorem getHbm_setGate (s : State) (k : Nat) (v : GateSt) (d_ : Die) : getHbm (setGate s k v) d_ = getHbm s d_ := Eq.trans rfl rfl
@[simp] theorem getMarch_setGate (s : State) (k : Nat) (v : GateSt) (d_ : Die) : getMarch (setGate s k v) d_ = getMarch s d_ := Eq.trans rfl rfl
@[simp] theorem getPort_setGate (s : State) (k : Nat) (v : GateSt) (p_ : Nat) : getPort (setGate s k v) p_ = getPort s p_ := Eq.trans rfl rfl
@[simp] theorem getRing_setGate (s : State) (k : Nat) (v : GateSt) (k_ : Nat) : getRing (setGate s k v) k_ = getRing s k_ := Eq.trans rfl rfl
@[simp] theorem getQp_setGate (s : State) (k : Nat) (v : GateSt) (q_ : Nat) : getQp (setGate s k v) q_ = getQp s q_ := Eq.trans rfl rfl
@[simp] theorem getRegion_setGate (s : State) (k : Nat) (v : GateSt) (j_ : Nat) : getRegion (setGate s k v) j_ = getRegion s j_ := Eq.trans rfl rfl
@[simp] theorem getRt_setGate (s : State) (k : Nat) (v : GateSt) (d_ : Die) : getRt (setGate s k v) d_ = getRt s d_ := Eq.trans rfl rfl
@[simp] theorem getImg_setGate (s : State) (k : Nat) (v : GateSt) (d_ : Die) : getImg (setGate s k v) d_ = getImg s d_ := Eq.trans rfl rfl
@[simp] theorem getOpts_setGate (s : State) (k : Nat) (v : GateSt) (d_ : Die) : getOpts (setGate s k v) d_ = getOpts s d_ := Eq.trans rfl rfl
@[simp] theorem getSer_setGate (s : State) (k : Nat) (v : GateSt) (d_ : Die) (c_ : Nat) : getSer (setGate s k v) d_ c_ = getSer s d_ c_ := Eq.trans rfl rfl
@[simp] theorem getFGate_setGate (s : State) (k : Nat) (v : GateSt) (d_ : Die) (g_ : Nat) : getFGate (setGate s k v) d_ g_ = getFGate s d_ g_ := Eq.trans rfl rfl
@[simp] theorem getStage_setGate (s : State) (k : Nat) (v : GateSt) (d_ : Die) : getStage (setGate s k v) d_ = getStage s d_ := Eq.trans rfl rfl
@[simp] theorem regRaw_setGate (s : State) (k : Nat) (v : GateSt) (r_ : Reg) (d_ : Die) (i_ : Nat) : regRaw (setGate s k v) r_ d_ i_ = regRaw s r_ d_ i_ := Eq.trans rfl rfl

@[simp] theorem getCell_setScratch (s : State) (ck a : Nat) (w : Word) (k_ : Nat) : getCell (setScratch s ck a w) k_ = getCell s k_ := Eq.trans rfl rfl
@[simp] theorem getHar_setScratch (s : State) (ck a : Nat) (w : Word) (d_ : Die) (h_ : Nat) : getHar (setScratch s ck a w) d_ h_ = getHar s d_ h_ := Eq.trans rfl rfl
@[simp] theorem getReedIn_setScratch (s : State) (ck a : Nat) (w : Word) (k_ : Nat) : getReedIn (setScratch s ck a w) k_ = getReedIn s k_ := Eq.trans rfl rfl
@[simp] theorem getGate_setScratch (s : State) (ck a : Nat) (w : Word) (k_ : Nat) : getGate (setScratch s ck a w) k_ = getGate s k_ := Eq.trans rfl rfl
@[simp] theorem getShared_setScratch (s : State) (ck a : Nat) (w : Word) (ck_ : Nat) (g_ : Nat) : getShared (setScratch s ck a w) ck_ g_ = getShared s ck_ g_ := Eq.trans rfl rfl
@[simp] theorem getCellDraft_setScratch (s : State) (ck a : Nat) (w : Word) (ck_ : Nat) (bank_ : Bool) (slot_ : Nat) : getCellDraft (setScratch s ck a w) ck_ bank_ slot_ = getCellDraft s ck_ bank_ slot_ := Eq.trans rfl rfl
@[simp] theorem getReedDraft_setScratch (s : State) (ck a : Nat) (w : Word) (d_ : Die) (h_ : Nat) (i_ : Nat) (bank_ : Bool) (slot_ : Nat) : getReedDraft (setScratch s ck a w) d_ h_ i_ bank_ slot_ = getReedDraft s d_ h_ i_ bank_ slot_ := Eq.trans rfl rfl
@[simp] theorem getTable_setScratch (s : State) (ck a : Nat) (w : Word) (d_ : Die) (h_ : Nat) (bank_ : Bool) (e_ : Nat) : getTable (setScratch s ck a w) d_ h_ bank_ e_ = getTable s d_ h_ bank_ e_ := Eq.trans rfl rfl
@[simp] theorem getYarn_setScratch (s : State) (ck a : Nat) (w : Word) (d_ : Die) (y_ : Nat) : getYarn (setScratch s ck a w) d_ y_ = getYarn s d_ y_ := Eq.trans rfl rfl
@[simp] theorem getBob_setScratch (s : State) (ck a : Nat) (w : Word) (b_ : Nat) : getBob (setScratch s ck a w) b_ = getBob s b_ := Eq.trans rfl rfl
@[simp] theorem getBeat_setScratch (s : State) (ck a : Nat) (w : Word) (d_ : Die) : getBeat (setScratch s ck a w) d_ = getBeat s d_ := Eq.trans rfl rfl
@[simp] theorem getDom_setScratch (s : State) (ck a : Nat) (w : Word) (d_ : Die) (i_ : Nat) : getDom (setScratch s ck a w) d_ i_ = getDom s d_ i_ := Eq.trans rfl rfl
@[simp] theorem getBrd_setScratch (s : State) (ck a : Nat) (w : Word) (d_ : Die) : getBrd (setScratch s ck a w) d_ = getBrd s d_ := Eq.trans rfl rfl
@[simp] theorem getHbm_setScratch (s : State) (ck a : Nat) (w : Word) (d_ : Die) : getHbm (setScratch s ck a w) d_ = getHbm s d_ := Eq.trans rfl rfl
@[simp] theorem getMarch_setScratch (s : State) (ck a : Nat) (w : Word) (d_ : Die) : getMarch (setScratch s ck a w) d_ = getMarch s d_ := Eq.trans rfl rfl
@[simp] theorem getPort_setScratch (s : State) (ck a : Nat) (w : Word) (p_ : Nat) : getPort (setScratch s ck a w) p_ = getPort s p_ := Eq.trans rfl rfl
@[simp] theorem getRing_setScratch (s : State) (ck a : Nat) (w : Word) (k_ : Nat) : getRing (setScratch s ck a w) k_ = getRing s k_ := Eq.trans rfl rfl
@[simp] theorem getQp_setScratch (s : State) (ck a : Nat) (w : Word) (q_ : Nat) : getQp (setScratch s ck a w) q_ = getQp s q_ := Eq.trans rfl rfl
@[simp] theorem getRegion_setScratch (s : State) (ck a : Nat) (w : Word) (j_ : Nat) : getRegion (setScratch s ck a w) j_ = getRegion s j_ := Eq.trans rfl rfl
@[simp] theorem getRt_setScratch (s : State) (ck a : Nat) (w : Word) (d_ : Die) : getRt (setScratch s ck a w) d_ = getRt s d_ := Eq.trans rfl rfl
@[simp] theorem getImg_setScratch (s : State) (ck a : Nat) (w : Word) (d_ : Die) : getImg (setScratch s ck a w) d_ = getImg s d_ := Eq.trans rfl rfl
@[simp] theorem getOpts_setScratch (s : State) (ck a : Nat) (w : Word) (d_ : Die) : getOpts (setScratch s ck a w) d_ = getOpts s d_ := Eq.trans rfl rfl
@[simp] theorem getSer_setScratch (s : State) (ck a : Nat) (w : Word) (d_ : Die) (c_ : Nat) : getSer (setScratch s ck a w) d_ c_ = getSer s d_ c_ := Eq.trans rfl rfl
@[simp] theorem getFGate_setScratch (s : State) (ck a : Nat) (w : Word) (d_ : Die) (g_ : Nat) : getFGate (setScratch s ck a w) d_ g_ = getFGate s d_ g_ := Eq.trans rfl rfl
@[simp] theorem getStage_setScratch (s : State) (ck a : Nat) (w : Word) (d_ : Die) : getStage (setScratch s ck a w) d_ = getStage s d_ := Eq.trans rfl rfl
@[simp] theorem regRaw_setScratch (s : State) (ck a : Nat) (w : Word) (r_ : Reg) (d_ : Die) (i_ : Nat) : regRaw (setScratch s ck a w) r_ d_ i_ = regRaw s r_ d_ i_ := Eq.trans rfl rfl

@[simp] theorem getCell_setShared (s : State) (ck g : Nat) (w : Word) (k_ : Nat) : getCell (setShared s ck g w) k_ = getCell s k_ := Eq.trans rfl rfl
@[simp] theorem getHar_setShared (s : State) (ck g : Nat) (w : Word) (d_ : Die) (h_ : Nat) : getHar (setShared s ck g w) d_ h_ = getHar s d_ h_ := Eq.trans rfl rfl
@[simp] theorem getReedIn_setShared (s : State) (ck g : Nat) (w : Word) (k_ : Nat) : getReedIn (setShared s ck g w) k_ = getReedIn s k_ := Eq.trans rfl rfl
@[simp] theorem getGate_setShared (s : State) (ck g : Nat) (w : Word) (k_ : Nat) : getGate (setShared s ck g w) k_ = getGate s k_ := Eq.trans rfl rfl
@[simp] theorem getScratch_setShared (s : State) (ck g : Nat) (w : Word) (ck_ : Nat) (a_ : Nat) : getScratch (setShared s ck g w) ck_ a_ = getScratch s ck_ a_ := Eq.trans rfl rfl
@[simp] theorem getCellDraft_setShared (s : State) (ck g : Nat) (w : Word) (ck_ : Nat) (bank_ : Bool) (slot_ : Nat) : getCellDraft (setShared s ck g w) ck_ bank_ slot_ = getCellDraft s ck_ bank_ slot_ := Eq.trans rfl rfl
@[simp] theorem getReedDraft_setShared (s : State) (ck g : Nat) (w : Word) (d_ : Die) (h_ : Nat) (i_ : Nat) (bank_ : Bool) (slot_ : Nat) : getReedDraft (setShared s ck g w) d_ h_ i_ bank_ slot_ = getReedDraft s d_ h_ i_ bank_ slot_ := Eq.trans rfl rfl
@[simp] theorem getTable_setShared (s : State) (ck g : Nat) (w : Word) (d_ : Die) (h_ : Nat) (bank_ : Bool) (e_ : Nat) : getTable (setShared s ck g w) d_ h_ bank_ e_ = getTable s d_ h_ bank_ e_ := Eq.trans rfl rfl
@[simp] theorem getYarn_setShared (s : State) (ck g : Nat) (w : Word) (d_ : Die) (y_ : Nat) : getYarn (setShared s ck g w) d_ y_ = getYarn s d_ y_ := Eq.trans rfl rfl
@[simp] theorem getBob_setShared (s : State) (ck g : Nat) (w : Word) (b_ : Nat) : getBob (setShared s ck g w) b_ = getBob s b_ := Eq.trans rfl rfl
@[simp] theorem getBeat_setShared (s : State) (ck g : Nat) (w : Word) (d_ : Die) : getBeat (setShared s ck g w) d_ = getBeat s d_ := Eq.trans rfl rfl
@[simp] theorem getDom_setShared (s : State) (ck g : Nat) (w : Word) (d_ : Die) (i_ : Nat) : getDom (setShared s ck g w) d_ i_ = getDom s d_ i_ := Eq.trans rfl rfl
@[simp] theorem getBrd_setShared (s : State) (ck g : Nat) (w : Word) (d_ : Die) : getBrd (setShared s ck g w) d_ = getBrd s d_ := Eq.trans rfl rfl
@[simp] theorem getHbm_setShared (s : State) (ck g : Nat) (w : Word) (d_ : Die) : getHbm (setShared s ck g w) d_ = getHbm s d_ := Eq.trans rfl rfl
@[simp] theorem getMarch_setShared (s : State) (ck g : Nat) (w : Word) (d_ : Die) : getMarch (setShared s ck g w) d_ = getMarch s d_ := Eq.trans rfl rfl
@[simp] theorem getPort_setShared (s : State) (ck g : Nat) (w : Word) (p_ : Nat) : getPort (setShared s ck g w) p_ = getPort s p_ := Eq.trans rfl rfl
@[simp] theorem getRing_setShared (s : State) (ck g : Nat) (w : Word) (k_ : Nat) : getRing (setShared s ck g w) k_ = getRing s k_ := Eq.trans rfl rfl
@[simp] theorem getQp_setShared (s : State) (ck g : Nat) (w : Word) (q_ : Nat) : getQp (setShared s ck g w) q_ = getQp s q_ := Eq.trans rfl rfl
@[simp] theorem getRegion_setShared (s : State) (ck g : Nat) (w : Word) (j_ : Nat) : getRegion (setShared s ck g w) j_ = getRegion s j_ := Eq.trans rfl rfl
@[simp] theorem getRt_setShared (s : State) (ck g : Nat) (w : Word) (d_ : Die) : getRt (setShared s ck g w) d_ = getRt s d_ := Eq.trans rfl rfl
@[simp] theorem getImg_setShared (s : State) (ck g : Nat) (w : Word) (d_ : Die) : getImg (setShared s ck g w) d_ = getImg s d_ := Eq.trans rfl rfl
@[simp] theorem getOpts_setShared (s : State) (ck g : Nat) (w : Word) (d_ : Die) : getOpts (setShared s ck g w) d_ = getOpts s d_ := Eq.trans rfl rfl
@[simp] theorem getSer_setShared (s : State) (ck g : Nat) (w : Word) (d_ : Die) (c_ : Nat) : getSer (setShared s ck g w) d_ c_ = getSer s d_ c_ := Eq.trans rfl rfl
@[simp] theorem getFGate_setShared (s : State) (ck g : Nat) (w : Word) (d_ : Die) (g_ : Nat) : getFGate (setShared s ck g w) d_ g_ = getFGate s d_ g_ := Eq.trans rfl rfl
@[simp] theorem getStage_setShared (s : State) (ck g : Nat) (w : Word) (d_ : Die) : getStage (setShared s ck g w) d_ = getStage s d_ := Eq.trans rfl rfl
@[simp] theorem regRaw_setShared (s : State) (ck g : Nat) (w : Word) (r_ : Reg) (d_ : Die) (i_ : Nat) : regRaw (setShared s ck g w) r_ d_ i_ = regRaw s r_ d_ i_ := Eq.trans rfl rfl

@[simp] theorem getCell_setCellDraft (s : State) (ck : Nat) (bank : Bool) (slot : Nat) (w : BitVec 192) (k_ : Nat) : getCell (setCellDraft s ck bank slot w) k_ = getCell s k_ := Eq.trans rfl rfl
@[simp] theorem getHar_setCellDraft (s : State) (ck : Nat) (bank : Bool) (slot : Nat) (w : BitVec 192) (d_ : Die) (h_ : Nat) : getHar (setCellDraft s ck bank slot w) d_ h_ = getHar s d_ h_ := Eq.trans rfl rfl
@[simp] theorem getReedIn_setCellDraft (s : State) (ck : Nat) (bank : Bool) (slot : Nat) (w : BitVec 192) (k_ : Nat) : getReedIn (setCellDraft s ck bank slot w) k_ = getReedIn s k_ := Eq.trans rfl rfl
@[simp] theorem getGate_setCellDraft (s : State) (ck : Nat) (bank : Bool) (slot : Nat) (w : BitVec 192) (k_ : Nat) : getGate (setCellDraft s ck bank slot w) k_ = getGate s k_ := Eq.trans rfl rfl
@[simp] theorem getScratch_setCellDraft (s : State) (ck : Nat) (bank : Bool) (slot : Nat) (w : BitVec 192) (ck_ : Nat) (a_ : Nat) : getScratch (setCellDraft s ck bank slot w) ck_ a_ = getScratch s ck_ a_ := Eq.trans rfl rfl
@[simp] theorem getShared_setCellDraft (s : State) (ck : Nat) (bank : Bool) (slot : Nat) (w : BitVec 192) (ck_ : Nat) (g_ : Nat) : getShared (setCellDraft s ck bank slot w) ck_ g_ = getShared s ck_ g_ := Eq.trans rfl rfl
@[simp] theorem getReedDraft_setCellDraft (s : State) (ck : Nat) (bank : Bool) (slot : Nat) (w : BitVec 192) (d_ : Die) (h_ : Nat) (i_ : Nat) (bank_ : Bool) (slot_ : Nat) : getReedDraft (setCellDraft s ck bank slot w) d_ h_ i_ bank_ slot_ = getReedDraft s d_ h_ i_ bank_ slot_ := Eq.trans rfl rfl
@[simp] theorem getTable_setCellDraft (s : State) (ck : Nat) (bank : Bool) (slot : Nat) (w : BitVec 192) (d_ : Die) (h_ : Nat) (bank_ : Bool) (e_ : Nat) : getTable (setCellDraft s ck bank slot w) d_ h_ bank_ e_ = getTable s d_ h_ bank_ e_ := Eq.trans rfl rfl
@[simp] theorem getYarn_setCellDraft (s : State) (ck : Nat) (bank : Bool) (slot : Nat) (w : BitVec 192) (d_ : Die) (y_ : Nat) : getYarn (setCellDraft s ck bank slot w) d_ y_ = getYarn s d_ y_ := Eq.trans rfl rfl
@[simp] theorem getBob_setCellDraft (s : State) (ck : Nat) (bank : Bool) (slot : Nat) (w : BitVec 192) (b_ : Nat) : getBob (setCellDraft s ck bank slot w) b_ = getBob s b_ := Eq.trans rfl rfl
@[simp] theorem getBeat_setCellDraft (s : State) (ck : Nat) (bank : Bool) (slot : Nat) (w : BitVec 192) (d_ : Die) : getBeat (setCellDraft s ck bank slot w) d_ = getBeat s d_ := Eq.trans rfl rfl
@[simp] theorem getDom_setCellDraft (s : State) (ck : Nat) (bank : Bool) (slot : Nat) (w : BitVec 192) (d_ : Die) (i_ : Nat) : getDom (setCellDraft s ck bank slot w) d_ i_ = getDom s d_ i_ := Eq.trans rfl rfl
@[simp] theorem getBrd_setCellDraft (s : State) (ck : Nat) (bank : Bool) (slot : Nat) (w : BitVec 192) (d_ : Die) : getBrd (setCellDraft s ck bank slot w) d_ = getBrd s d_ := Eq.trans rfl rfl
@[simp] theorem getHbm_setCellDraft (s : State) (ck : Nat) (bank : Bool) (slot : Nat) (w : BitVec 192) (d_ : Die) : getHbm (setCellDraft s ck bank slot w) d_ = getHbm s d_ := Eq.trans rfl rfl
@[simp] theorem getMarch_setCellDraft (s : State) (ck : Nat) (bank : Bool) (slot : Nat) (w : BitVec 192) (d_ : Die) : getMarch (setCellDraft s ck bank slot w) d_ = getMarch s d_ := Eq.trans rfl rfl
@[simp] theorem getPort_setCellDraft (s : State) (ck : Nat) (bank : Bool) (slot : Nat) (w : BitVec 192) (p_ : Nat) : getPort (setCellDraft s ck bank slot w) p_ = getPort s p_ := Eq.trans rfl rfl
@[simp] theorem getRing_setCellDraft (s : State) (ck : Nat) (bank : Bool) (slot : Nat) (w : BitVec 192) (k_ : Nat) : getRing (setCellDraft s ck bank slot w) k_ = getRing s k_ := Eq.trans rfl rfl
@[simp] theorem getQp_setCellDraft (s : State) (ck : Nat) (bank : Bool) (slot : Nat) (w : BitVec 192) (q_ : Nat) : getQp (setCellDraft s ck bank slot w) q_ = getQp s q_ := Eq.trans rfl rfl
@[simp] theorem getRegion_setCellDraft (s : State) (ck : Nat) (bank : Bool) (slot : Nat) (w : BitVec 192) (j_ : Nat) : getRegion (setCellDraft s ck bank slot w) j_ = getRegion s j_ := Eq.trans rfl rfl
@[simp] theorem getRt_setCellDraft (s : State) (ck : Nat) (bank : Bool) (slot : Nat) (w : BitVec 192) (d_ : Die) : getRt (setCellDraft s ck bank slot w) d_ = getRt s d_ := Eq.trans rfl rfl
@[simp] theorem getImg_setCellDraft (s : State) (ck : Nat) (bank : Bool) (slot : Nat) (w : BitVec 192) (d_ : Die) : getImg (setCellDraft s ck bank slot w) d_ = getImg s d_ := Eq.trans rfl rfl
@[simp] theorem getOpts_setCellDraft (s : State) (ck : Nat) (bank : Bool) (slot : Nat) (w : BitVec 192) (d_ : Die) : getOpts (setCellDraft s ck bank slot w) d_ = getOpts s d_ := Eq.trans rfl rfl
@[simp] theorem getSer_setCellDraft (s : State) (ck : Nat) (bank : Bool) (slot : Nat) (w : BitVec 192) (d_ : Die) (c_ : Nat) : getSer (setCellDraft s ck bank slot w) d_ c_ = getSer s d_ c_ := Eq.trans rfl rfl
@[simp] theorem getFGate_setCellDraft (s : State) (ck : Nat) (bank : Bool) (slot : Nat) (w : BitVec 192) (d_ : Die) (g_ : Nat) : getFGate (setCellDraft s ck bank slot w) d_ g_ = getFGate s d_ g_ := Eq.trans rfl rfl
@[simp] theorem getStage_setCellDraft (s : State) (ck : Nat) (bank : Bool) (slot : Nat) (w : BitVec 192) (d_ : Die) : getStage (setCellDraft s ck bank slot w) d_ = getStage s d_ := Eq.trans rfl rfl
@[simp] theorem regRaw_setCellDraft (s : State) (ck : Nat) (bank : Bool) (slot : Nat) (w : BitVec 192) (r_ : Reg) (d_ : Die) (i_ : Nat) : regRaw (setCellDraft s ck bank slot w) r_ d_ i_ = regRaw s r_ d_ i_ := Eq.trans rfl rfl

@[simp] theorem getCell_setReedDraft (s : State) (d : Die) (h i : Nat) (bank : Bool) (slot : Nat) (w : BitVec 96) (k_ : Nat) : getCell (setReedDraft s d h i bank slot w) k_ = getCell s k_ := Eq.trans rfl rfl
@[simp] theorem getHar_setReedDraft (s : State) (d : Die) (h i : Nat) (bank : Bool) (slot : Nat) (w : BitVec 96) (d_ : Die) (h_ : Nat) : getHar (setReedDraft s d h i bank slot w) d_ h_ = getHar s d_ h_ := Eq.trans rfl rfl
@[simp] theorem getReedIn_setReedDraft (s : State) (d : Die) (h i : Nat) (bank : Bool) (slot : Nat) (w : BitVec 96) (k_ : Nat) : getReedIn (setReedDraft s d h i bank slot w) k_ = getReedIn s k_ := Eq.trans rfl rfl
@[simp] theorem getGate_setReedDraft (s : State) (d : Die) (h i : Nat) (bank : Bool) (slot : Nat) (w : BitVec 96) (k_ : Nat) : getGate (setReedDraft s d h i bank slot w) k_ = getGate s k_ := Eq.trans rfl rfl
@[simp] theorem getScratch_setReedDraft (s : State) (d : Die) (h i : Nat) (bank : Bool) (slot : Nat) (w : BitVec 96) (ck_ : Nat) (a_ : Nat) : getScratch (setReedDraft s d h i bank slot w) ck_ a_ = getScratch s ck_ a_ := Eq.trans rfl rfl
@[simp] theorem getShared_setReedDraft (s : State) (d : Die) (h i : Nat) (bank : Bool) (slot : Nat) (w : BitVec 96) (ck_ : Nat) (g_ : Nat) : getShared (setReedDraft s d h i bank slot w) ck_ g_ = getShared s ck_ g_ := Eq.trans rfl rfl
@[simp] theorem getCellDraft_setReedDraft (s : State) (d : Die) (h i : Nat) (bank : Bool) (slot : Nat) (w : BitVec 96) (ck_ : Nat) (bank_ : Bool) (slot_ : Nat) : getCellDraft (setReedDraft s d h i bank slot w) ck_ bank_ slot_ = getCellDraft s ck_ bank_ slot_ := Eq.trans rfl rfl
@[simp] theorem getTable_setReedDraft (s : State) (d : Die) (h i : Nat) (bank : Bool) (slot : Nat) (w : BitVec 96) (d_ : Die) (h_ : Nat) (bank_ : Bool) (e_ : Nat) : getTable (setReedDraft s d h i bank slot w) d_ h_ bank_ e_ = getTable s d_ h_ bank_ e_ := Eq.trans rfl rfl
@[simp] theorem getYarn_setReedDraft (s : State) (d : Die) (h i : Nat) (bank : Bool) (slot : Nat) (w : BitVec 96) (d_ : Die) (y_ : Nat) : getYarn (setReedDraft s d h i bank slot w) d_ y_ = getYarn s d_ y_ := Eq.trans rfl rfl
@[simp] theorem getBob_setReedDraft (s : State) (d : Die) (h i : Nat) (bank : Bool) (slot : Nat) (w : BitVec 96) (b_ : Nat) : getBob (setReedDraft s d h i bank slot w) b_ = getBob s b_ := Eq.trans rfl rfl
@[simp] theorem getBeat_setReedDraft (s : State) (d : Die) (h i : Nat) (bank : Bool) (slot : Nat) (w : BitVec 96) (d_ : Die) : getBeat (setReedDraft s d h i bank slot w) d_ = getBeat s d_ := Eq.trans rfl rfl
@[simp] theorem getDom_setReedDraft (s : State) (d : Die) (h i : Nat) (bank : Bool) (slot : Nat) (w : BitVec 96) (d_ : Die) (i_ : Nat) : getDom (setReedDraft s d h i bank slot w) d_ i_ = getDom s d_ i_ := Eq.trans rfl rfl
@[simp] theorem getBrd_setReedDraft (s : State) (d : Die) (h i : Nat) (bank : Bool) (slot : Nat) (w : BitVec 96) (d_ : Die) : getBrd (setReedDraft s d h i bank slot w) d_ = getBrd s d_ := Eq.trans rfl rfl
@[simp] theorem getHbm_setReedDraft (s : State) (d : Die) (h i : Nat) (bank : Bool) (slot : Nat) (w : BitVec 96) (d_ : Die) : getHbm (setReedDraft s d h i bank slot w) d_ = getHbm s d_ := Eq.trans rfl rfl
@[simp] theorem getMarch_setReedDraft (s : State) (d : Die) (h i : Nat) (bank : Bool) (slot : Nat) (w : BitVec 96) (d_ : Die) : getMarch (setReedDraft s d h i bank slot w) d_ = getMarch s d_ := Eq.trans rfl rfl
@[simp] theorem getPort_setReedDraft (s : State) (d : Die) (h i : Nat) (bank : Bool) (slot : Nat) (w : BitVec 96) (p_ : Nat) : getPort (setReedDraft s d h i bank slot w) p_ = getPort s p_ := Eq.trans rfl rfl
@[simp] theorem getRing_setReedDraft (s : State) (d : Die) (h i : Nat) (bank : Bool) (slot : Nat) (w : BitVec 96) (k_ : Nat) : getRing (setReedDraft s d h i bank slot w) k_ = getRing s k_ := Eq.trans rfl rfl
@[simp] theorem getQp_setReedDraft (s : State) (d : Die) (h i : Nat) (bank : Bool) (slot : Nat) (w : BitVec 96) (q_ : Nat) : getQp (setReedDraft s d h i bank slot w) q_ = getQp s q_ := Eq.trans rfl rfl
@[simp] theorem getRegion_setReedDraft (s : State) (d : Die) (h i : Nat) (bank : Bool) (slot : Nat) (w : BitVec 96) (j_ : Nat) : getRegion (setReedDraft s d h i bank slot w) j_ = getRegion s j_ := Eq.trans rfl rfl
@[simp] theorem getRt_setReedDraft (s : State) (d : Die) (h i : Nat) (bank : Bool) (slot : Nat) (w : BitVec 96) (d_ : Die) : getRt (setReedDraft s d h i bank slot w) d_ = getRt s d_ := Eq.trans rfl rfl
@[simp] theorem getImg_setReedDraft (s : State) (d : Die) (h i : Nat) (bank : Bool) (slot : Nat) (w : BitVec 96) (d_ : Die) : getImg (setReedDraft s d h i bank slot w) d_ = getImg s d_ := Eq.trans rfl rfl
@[simp] theorem getOpts_setReedDraft (s : State) (d : Die) (h i : Nat) (bank : Bool) (slot : Nat) (w : BitVec 96) (d_ : Die) : getOpts (setReedDraft s d h i bank slot w) d_ = getOpts s d_ := Eq.trans rfl rfl
@[simp] theorem getSer_setReedDraft (s : State) (d : Die) (h i : Nat) (bank : Bool) (slot : Nat) (w : BitVec 96) (d_ : Die) (c_ : Nat) : getSer (setReedDraft s d h i bank slot w) d_ c_ = getSer s d_ c_ := Eq.trans rfl rfl
@[simp] theorem getFGate_setReedDraft (s : State) (d : Die) (h i : Nat) (bank : Bool) (slot : Nat) (w : BitVec 96) (d_ : Die) (g_ : Nat) : getFGate (setReedDraft s d h i bank slot w) d_ g_ = getFGate s d_ g_ := Eq.trans rfl rfl
@[simp] theorem getStage_setReedDraft (s : State) (d : Die) (h i : Nat) (bank : Bool) (slot : Nat) (w : BitVec 96) (d_ : Die) : getStage (setReedDraft s d h i bank slot w) d_ = getStage s d_ := Eq.trans rfl rfl
@[simp] theorem regRaw_setReedDraft (s : State) (d : Die) (h i : Nat) (bank : Bool) (slot : Nat) (w : BitVec 96) (r_ : Reg) (d_ : Die) (i_ : Nat) : regRaw (setReedDraft s d h i bank slot w) r_ d_ i_ = regRaw s r_ d_ i_ := Eq.trans rfl rfl

@[simp] theorem getCell_setTable (s : State) (d : Die) (h : Nat) (bank : Bool) (e : Nat) (w : Word) (k_ : Nat) : getCell (setTable s d h bank e w) k_ = getCell s k_ := Eq.trans rfl rfl
@[simp] theorem getHar_setTable (s : State) (d : Die) (h : Nat) (bank : Bool) (e : Nat) (w : Word) (d_ : Die) (h_ : Nat) : getHar (setTable s d h bank e w) d_ h_ = getHar s d_ h_ := Eq.trans rfl rfl
@[simp] theorem getReedIn_setTable (s : State) (d : Die) (h : Nat) (bank : Bool) (e : Nat) (w : Word) (k_ : Nat) : getReedIn (setTable s d h bank e w) k_ = getReedIn s k_ := Eq.trans rfl rfl
@[simp] theorem getGate_setTable (s : State) (d : Die) (h : Nat) (bank : Bool) (e : Nat) (w : Word) (k_ : Nat) : getGate (setTable s d h bank e w) k_ = getGate s k_ := Eq.trans rfl rfl
@[simp] theorem getScratch_setTable (s : State) (d : Die) (h : Nat) (bank : Bool) (e : Nat) (w : Word) (ck_ : Nat) (a_ : Nat) : getScratch (setTable s d h bank e w) ck_ a_ = getScratch s ck_ a_ := Eq.trans rfl rfl
@[simp] theorem getShared_setTable (s : State) (d : Die) (h : Nat) (bank : Bool) (e : Nat) (w : Word) (ck_ : Nat) (g_ : Nat) : getShared (setTable s d h bank e w) ck_ g_ = getShared s ck_ g_ := Eq.trans rfl rfl
@[simp] theorem getCellDraft_setTable (s : State) (d : Die) (h : Nat) (bank : Bool) (e : Nat) (w : Word) (ck_ : Nat) (bank_ : Bool) (slot_ : Nat) : getCellDraft (setTable s d h bank e w) ck_ bank_ slot_ = getCellDraft s ck_ bank_ slot_ := Eq.trans rfl rfl
@[simp] theorem getReedDraft_setTable (s : State) (d : Die) (h : Nat) (bank : Bool) (e : Nat) (w : Word) (d_ : Die) (h_ : Nat) (i_ : Nat) (bank_ : Bool) (slot_ : Nat) : getReedDraft (setTable s d h bank e w) d_ h_ i_ bank_ slot_ = getReedDraft s d_ h_ i_ bank_ slot_ := Eq.trans rfl rfl
@[simp] theorem getYarn_setTable (s : State) (d : Die) (h : Nat) (bank : Bool) (e : Nat) (w : Word) (d_ : Die) (y_ : Nat) : getYarn (setTable s d h bank e w) d_ y_ = getYarn s d_ y_ := Eq.trans rfl rfl
@[simp] theorem getBob_setTable (s : State) (d : Die) (h : Nat) (bank : Bool) (e : Nat) (w : Word) (b_ : Nat) : getBob (setTable s d h bank e w) b_ = getBob s b_ := Eq.trans rfl rfl
@[simp] theorem getBeat_setTable (s : State) (d : Die) (h : Nat) (bank : Bool) (e : Nat) (w : Word) (d_ : Die) : getBeat (setTable s d h bank e w) d_ = getBeat s d_ := Eq.trans rfl rfl
@[simp] theorem getDom_setTable (s : State) (d : Die) (h : Nat) (bank : Bool) (e : Nat) (w : Word) (d_ : Die) (i_ : Nat) : getDom (setTable s d h bank e w) d_ i_ = getDom s d_ i_ := Eq.trans rfl rfl
@[simp] theorem getBrd_setTable (s : State) (d : Die) (h : Nat) (bank : Bool) (e : Nat) (w : Word) (d_ : Die) : getBrd (setTable s d h bank e w) d_ = getBrd s d_ := Eq.trans rfl rfl
@[simp] theorem getHbm_setTable (s : State) (d : Die) (h : Nat) (bank : Bool) (e : Nat) (w : Word) (d_ : Die) : getHbm (setTable s d h bank e w) d_ = getHbm s d_ := Eq.trans rfl rfl
@[simp] theorem getMarch_setTable (s : State) (d : Die) (h : Nat) (bank : Bool) (e : Nat) (w : Word) (d_ : Die) : getMarch (setTable s d h bank e w) d_ = getMarch s d_ := Eq.trans rfl rfl
@[simp] theorem getPort_setTable (s : State) (d : Die) (h : Nat) (bank : Bool) (e : Nat) (w : Word) (p_ : Nat) : getPort (setTable s d h bank e w) p_ = getPort s p_ := Eq.trans rfl rfl
@[simp] theorem getRing_setTable (s : State) (d : Die) (h : Nat) (bank : Bool) (e : Nat) (w : Word) (k_ : Nat) : getRing (setTable s d h bank e w) k_ = getRing s k_ := Eq.trans rfl rfl
@[simp] theorem getQp_setTable (s : State) (d : Die) (h : Nat) (bank : Bool) (e : Nat) (w : Word) (q_ : Nat) : getQp (setTable s d h bank e w) q_ = getQp s q_ := Eq.trans rfl rfl
@[simp] theorem getRegion_setTable (s : State) (d : Die) (h : Nat) (bank : Bool) (e : Nat) (w : Word) (j_ : Nat) : getRegion (setTable s d h bank e w) j_ = getRegion s j_ := Eq.trans rfl rfl
@[simp] theorem getRt_setTable (s : State) (d : Die) (h : Nat) (bank : Bool) (e : Nat) (w : Word) (d_ : Die) : getRt (setTable s d h bank e w) d_ = getRt s d_ := Eq.trans rfl rfl
@[simp] theorem getImg_setTable (s : State) (d : Die) (h : Nat) (bank : Bool) (e : Nat) (w : Word) (d_ : Die) : getImg (setTable s d h bank e w) d_ = getImg s d_ := Eq.trans rfl rfl
@[simp] theorem getOpts_setTable (s : State) (d : Die) (h : Nat) (bank : Bool) (e : Nat) (w : Word) (d_ : Die) : getOpts (setTable s d h bank e w) d_ = getOpts s d_ := Eq.trans rfl rfl
@[simp] theorem getSer_setTable (s : State) (d : Die) (h : Nat) (bank : Bool) (e : Nat) (w : Word) (d_ : Die) (c_ : Nat) : getSer (setTable s d h bank e w) d_ c_ = getSer s d_ c_ := Eq.trans rfl rfl
@[simp] theorem getFGate_setTable (s : State) (d : Die) (h : Nat) (bank : Bool) (e : Nat) (w : Word) (d_ : Die) (g_ : Nat) : getFGate (setTable s d h bank e w) d_ g_ = getFGate s d_ g_ := Eq.trans rfl rfl
@[simp] theorem getStage_setTable (s : State) (d : Die) (h : Nat) (bank : Bool) (e : Nat) (w : Word) (d_ : Die) : getStage (setTable s d h bank e w) d_ = getStage s d_ := Eq.trans rfl rfl
@[simp] theorem regRaw_setTable (s : State) (d : Die) (h : Nat) (bank : Bool) (e : Nat) (w : Word) (r_ : Reg) (d_ : Die) (i_ : Nat) : regRaw (setTable s d h bank e w) r_ d_ i_ = regRaw s r_ d_ i_ := Eq.trans rfl rfl

@[simp] theorem getCell_setYarn (s : State) (d : Die) (y : Nat) (v : Yarn) (k_ : Nat) : getCell (setYarn s d y v) k_ = getCell s k_ := Eq.trans rfl rfl
@[simp] theorem getHar_setYarn (s : State) (d : Die) (y : Nat) (v : Yarn) (d_ : Die) (h_ : Nat) : getHar (setYarn s d y v) d_ h_ = getHar s d_ h_ := Eq.trans rfl rfl
@[simp] theorem getReedIn_setYarn (s : State) (d : Die) (y : Nat) (v : Yarn) (k_ : Nat) : getReedIn (setYarn s d y v) k_ = getReedIn s k_ := Eq.trans rfl rfl
@[simp] theorem getGate_setYarn (s : State) (d : Die) (y : Nat) (v : Yarn) (k_ : Nat) : getGate (setYarn s d y v) k_ = getGate s k_ := Eq.trans rfl rfl
@[simp] theorem getScratch_setYarn (s : State) (d : Die) (y : Nat) (v : Yarn) (ck_ : Nat) (a_ : Nat) : getScratch (setYarn s d y v) ck_ a_ = getScratch s ck_ a_ := Eq.trans rfl rfl
@[simp] theorem getShared_setYarn (s : State) (d : Die) (y : Nat) (v : Yarn) (ck_ : Nat) (g_ : Nat) : getShared (setYarn s d y v) ck_ g_ = getShared s ck_ g_ := Eq.trans rfl rfl
@[simp] theorem getCellDraft_setYarn (s : State) (d : Die) (y : Nat) (v : Yarn) (ck_ : Nat) (bank_ : Bool) (slot_ : Nat) : getCellDraft (setYarn s d y v) ck_ bank_ slot_ = getCellDraft s ck_ bank_ slot_ := Eq.trans rfl rfl
@[simp] theorem getReedDraft_setYarn (s : State) (d : Die) (y : Nat) (v : Yarn) (d_ : Die) (h_ : Nat) (i_ : Nat) (bank_ : Bool) (slot_ : Nat) : getReedDraft (setYarn s d y v) d_ h_ i_ bank_ slot_ = getReedDraft s d_ h_ i_ bank_ slot_ := Eq.trans rfl rfl
@[simp] theorem getTable_setYarn (s : State) (d : Die) (y : Nat) (v : Yarn) (d_ : Die) (h_ : Nat) (bank_ : Bool) (e_ : Nat) : getTable (setYarn s d y v) d_ h_ bank_ e_ = getTable s d_ h_ bank_ e_ := Eq.trans rfl rfl
@[simp] theorem getBob_setYarn (s : State) (d : Die) (y : Nat) (v : Yarn) (b_ : Nat) : getBob (setYarn s d y v) b_ = getBob s b_ := Eq.trans rfl rfl
@[simp] theorem getBeat_setYarn (s : State) (d : Die) (y : Nat) (v : Yarn) (d_ : Die) : getBeat (setYarn s d y v) d_ = getBeat s d_ := Eq.trans rfl rfl
@[simp] theorem getDom_setYarn (s : State) (d : Die) (y : Nat) (v : Yarn) (d_ : Die) (i_ : Nat) : getDom (setYarn s d y v) d_ i_ = getDom s d_ i_ := Eq.trans rfl rfl
@[simp] theorem getBrd_setYarn (s : State) (d : Die) (y : Nat) (v : Yarn) (d_ : Die) : getBrd (setYarn s d y v) d_ = getBrd s d_ := Eq.trans rfl rfl
@[simp] theorem getHbm_setYarn (s : State) (d : Die) (y : Nat) (v : Yarn) (d_ : Die) : getHbm (setYarn s d y v) d_ = getHbm s d_ := Eq.trans rfl rfl
@[simp] theorem getMarch_setYarn (s : State) (d : Die) (y : Nat) (v : Yarn) (d_ : Die) : getMarch (setYarn s d y v) d_ = getMarch s d_ := Eq.trans rfl rfl
@[simp] theorem getPort_setYarn (s : State) (d : Die) (y : Nat) (v : Yarn) (p_ : Nat) : getPort (setYarn s d y v) p_ = getPort s p_ := Eq.trans rfl rfl
@[simp] theorem getRing_setYarn (s : State) (d : Die) (y : Nat) (v : Yarn) (k_ : Nat) : getRing (setYarn s d y v) k_ = getRing s k_ := Eq.trans rfl rfl
@[simp] theorem getQp_setYarn (s : State) (d : Die) (y : Nat) (v : Yarn) (q_ : Nat) : getQp (setYarn s d y v) q_ = getQp s q_ := Eq.trans rfl rfl
@[simp] theorem getRegion_setYarn (s : State) (d : Die) (y : Nat) (v : Yarn) (j_ : Nat) : getRegion (setYarn s d y v) j_ = getRegion s j_ := Eq.trans rfl rfl
@[simp] theorem getRt_setYarn (s : State) (d : Die) (y : Nat) (v : Yarn) (d_ : Die) : getRt (setYarn s d y v) d_ = getRt s d_ := Eq.trans rfl rfl
@[simp] theorem getImg_setYarn (s : State) (d : Die) (y : Nat) (v : Yarn) (d_ : Die) : getImg (setYarn s d y v) d_ = getImg s d_ := Eq.trans rfl rfl
@[simp] theorem getOpts_setYarn (s : State) (d : Die) (y : Nat) (v : Yarn) (d_ : Die) : getOpts (setYarn s d y v) d_ = getOpts s d_ := Eq.trans rfl rfl
@[simp] theorem getSer_setYarn (s : State) (d : Die) (y : Nat) (v : Yarn) (d_ : Die) (c_ : Nat) : getSer (setYarn s d y v) d_ c_ = getSer s d_ c_ := Eq.trans rfl rfl
@[simp] theorem getFGate_setYarn (s : State) (d : Die) (y : Nat) (v : Yarn) (d_ : Die) (g_ : Nat) : getFGate (setYarn s d y v) d_ g_ = getFGate s d_ g_ := Eq.trans rfl rfl
@[simp] theorem getStage_setYarn (s : State) (d : Die) (y : Nat) (v : Yarn) (d_ : Die) : getStage (setYarn s d y v) d_ = getStage s d_ := Eq.trans rfl rfl
@[simp] theorem regRaw_setYarn (s : State) (d : Die) (y : Nat) (v : Yarn) (r_ : Reg) (d_ : Die) (i_ : Nat) : regRaw (setYarn s d y v) r_ d_ i_ = regRaw s r_ d_ i_ := Eq.trans rfl rfl

@[simp] theorem getCell_setBob (s : State) (b : Nat) (v : Bob) (k_ : Nat) : getCell (setBob s b v) k_ = getCell s k_ := Eq.trans rfl rfl
@[simp] theorem getHar_setBob (s : State) (b : Nat) (v : Bob) (d_ : Die) (h_ : Nat) : getHar (setBob s b v) d_ h_ = getHar s d_ h_ := Eq.trans rfl rfl
@[simp] theorem getReedIn_setBob (s : State) (b : Nat) (v : Bob) (k_ : Nat) : getReedIn (setBob s b v) k_ = getReedIn s k_ := Eq.trans rfl rfl
@[simp] theorem getGate_setBob (s : State) (b : Nat) (v : Bob) (k_ : Nat) : getGate (setBob s b v) k_ = getGate s k_ := Eq.trans rfl rfl
@[simp] theorem getScratch_setBob (s : State) (b : Nat) (v : Bob) (ck_ : Nat) (a_ : Nat) : getScratch (setBob s b v) ck_ a_ = getScratch s ck_ a_ := Eq.trans rfl rfl
@[simp] theorem getShared_setBob (s : State) (b : Nat) (v : Bob) (ck_ : Nat) (g_ : Nat) : getShared (setBob s b v) ck_ g_ = getShared s ck_ g_ := Eq.trans rfl rfl
@[simp] theorem getCellDraft_setBob (s : State) (b : Nat) (v : Bob) (ck_ : Nat) (bank_ : Bool) (slot_ : Nat) : getCellDraft (setBob s b v) ck_ bank_ slot_ = getCellDraft s ck_ bank_ slot_ := Eq.trans rfl rfl
@[simp] theorem getReedDraft_setBob (s : State) (b : Nat) (v : Bob) (d_ : Die) (h_ : Nat) (i_ : Nat) (bank_ : Bool) (slot_ : Nat) : getReedDraft (setBob s b v) d_ h_ i_ bank_ slot_ = getReedDraft s d_ h_ i_ bank_ slot_ := Eq.trans rfl rfl
@[simp] theorem getTable_setBob (s : State) (b : Nat) (v : Bob) (d_ : Die) (h_ : Nat) (bank_ : Bool) (e_ : Nat) : getTable (setBob s b v) d_ h_ bank_ e_ = getTable s d_ h_ bank_ e_ := Eq.trans rfl rfl
@[simp] theorem getYarn_setBob (s : State) (b : Nat) (v : Bob) (d_ : Die) (y_ : Nat) : getYarn (setBob s b v) d_ y_ = getYarn s d_ y_ := Eq.trans rfl rfl
@[simp] theorem getBeat_setBob (s : State) (b : Nat) (v : Bob) (d_ : Die) : getBeat (setBob s b v) d_ = getBeat s d_ := Eq.trans rfl rfl
@[simp] theorem getDom_setBob (s : State) (b : Nat) (v : Bob) (d_ : Die) (i_ : Nat) : getDom (setBob s b v) d_ i_ = getDom s d_ i_ := Eq.trans rfl rfl
@[simp] theorem getBrd_setBob (s : State) (b : Nat) (v : Bob) (d_ : Die) : getBrd (setBob s b v) d_ = getBrd s d_ := Eq.trans rfl rfl
@[simp] theorem getHbm_setBob (s : State) (b : Nat) (v : Bob) (d_ : Die) : getHbm (setBob s b v) d_ = getHbm s d_ := Eq.trans rfl rfl
@[simp] theorem getMarch_setBob (s : State) (b : Nat) (v : Bob) (d_ : Die) : getMarch (setBob s b v) d_ = getMarch s d_ := Eq.trans rfl rfl
@[simp] theorem getPort_setBob (s : State) (b : Nat) (v : Bob) (p_ : Nat) : getPort (setBob s b v) p_ = getPort s p_ := Eq.trans rfl rfl
@[simp] theorem getRing_setBob (s : State) (b : Nat) (v : Bob) (k_ : Nat) : getRing (setBob s b v) k_ = getRing s k_ := Eq.trans rfl rfl
@[simp] theorem getQp_setBob (s : State) (b : Nat) (v : Bob) (q_ : Nat) : getQp (setBob s b v) q_ = getQp s q_ := Eq.trans rfl rfl
@[simp] theorem getRegion_setBob (s : State) (b : Nat) (v : Bob) (j_ : Nat) : getRegion (setBob s b v) j_ = getRegion s j_ := Eq.trans rfl rfl
@[simp] theorem getRt_setBob (s : State) (b : Nat) (v : Bob) (d_ : Die) : getRt (setBob s b v) d_ = getRt s d_ := Eq.trans rfl rfl
@[simp] theorem getImg_setBob (s : State) (b : Nat) (v : Bob) (d_ : Die) : getImg (setBob s b v) d_ = getImg s d_ := Eq.trans rfl rfl
@[simp] theorem getOpts_setBob (s : State) (b : Nat) (v : Bob) (d_ : Die) : getOpts (setBob s b v) d_ = getOpts s d_ := Eq.trans rfl rfl
@[simp] theorem getSer_setBob (s : State) (b : Nat) (v : Bob) (d_ : Die) (c_ : Nat) : getSer (setBob s b v) d_ c_ = getSer s d_ c_ := Eq.trans rfl rfl
@[simp] theorem getFGate_setBob (s : State) (b : Nat) (v : Bob) (d_ : Die) (g_ : Nat) : getFGate (setBob s b v) d_ g_ = getFGate s d_ g_ := Eq.trans rfl rfl
@[simp] theorem getStage_setBob (s : State) (b : Nat) (v : Bob) (d_ : Die) : getStage (setBob s b v) d_ = getStage s d_ := Eq.trans rfl rfl
@[simp] theorem regRaw_setBob (s : State) (b : Nat) (v : Bob) (r_ : Reg) (d_ : Die) (i_ : Nat) : regRaw (setBob s b v) r_ d_ i_ = regRaw s r_ d_ i_ := Eq.trans rfl rfl

@[simp] theorem getCell_setBeat (s : State) (d : Die) (v : BeatSt) (k_ : Nat) : getCell (setBeat s d v) k_ = getCell s k_ := Eq.trans rfl rfl
@[simp] theorem getHar_setBeat (s : State) (d : Die) (v : BeatSt) (d_ : Die) (h_ : Nat) : getHar (setBeat s d v) d_ h_ = getHar s d_ h_ := Eq.trans rfl rfl
@[simp] theorem getReedIn_setBeat (s : State) (d : Die) (v : BeatSt) (k_ : Nat) : getReedIn (setBeat s d v) k_ = getReedIn s k_ := Eq.trans rfl rfl
@[simp] theorem getGate_setBeat (s : State) (d : Die) (v : BeatSt) (k_ : Nat) : getGate (setBeat s d v) k_ = getGate s k_ := Eq.trans rfl rfl
@[simp] theorem getScratch_setBeat (s : State) (d : Die) (v : BeatSt) (ck_ : Nat) (a_ : Nat) : getScratch (setBeat s d v) ck_ a_ = getScratch s ck_ a_ := Eq.trans rfl rfl
@[simp] theorem getShared_setBeat (s : State) (d : Die) (v : BeatSt) (ck_ : Nat) (g_ : Nat) : getShared (setBeat s d v) ck_ g_ = getShared s ck_ g_ := Eq.trans rfl rfl
@[simp] theorem getCellDraft_setBeat (s : State) (d : Die) (v : BeatSt) (ck_ : Nat) (bank_ : Bool) (slot_ : Nat) : getCellDraft (setBeat s d v) ck_ bank_ slot_ = getCellDraft s ck_ bank_ slot_ := Eq.trans rfl rfl
@[simp] theorem getReedDraft_setBeat (s : State) (d : Die) (v : BeatSt) (d_ : Die) (h_ : Nat) (i_ : Nat) (bank_ : Bool) (slot_ : Nat) : getReedDraft (setBeat s d v) d_ h_ i_ bank_ slot_ = getReedDraft s d_ h_ i_ bank_ slot_ := Eq.trans rfl rfl
@[simp] theorem getTable_setBeat (s : State) (d : Die) (v : BeatSt) (d_ : Die) (h_ : Nat) (bank_ : Bool) (e_ : Nat) : getTable (setBeat s d v) d_ h_ bank_ e_ = getTable s d_ h_ bank_ e_ := Eq.trans rfl rfl
@[simp] theorem getYarn_setBeat (s : State) (d : Die) (v : BeatSt) (d_ : Die) (y_ : Nat) : getYarn (setBeat s d v) d_ y_ = getYarn s d_ y_ := Eq.trans rfl rfl
@[simp] theorem getBob_setBeat (s : State) (d : Die) (v : BeatSt) (b_ : Nat) : getBob (setBeat s d v) b_ = getBob s b_ := Eq.trans rfl rfl
@[simp] theorem getDom_setBeat (s : State) (d : Die) (v : BeatSt) (d_ : Die) (i_ : Nat) : getDom (setBeat s d v) d_ i_ = getDom s d_ i_ := Eq.trans rfl rfl
@[simp] theorem getBrd_setBeat (s : State) (d : Die) (v : BeatSt) (d_ : Die) : getBrd (setBeat s d v) d_ = getBrd s d_ := Eq.trans rfl rfl
@[simp] theorem getHbm_setBeat (s : State) (d : Die) (v : BeatSt) (d_ : Die) : getHbm (setBeat s d v) d_ = getHbm s d_ := Eq.trans rfl rfl
@[simp] theorem getMarch_setBeat (s : State) (d : Die) (v : BeatSt) (d_ : Die) : getMarch (setBeat s d v) d_ = getMarch s d_ := Eq.trans rfl rfl
@[simp] theorem getPort_setBeat (s : State) (d : Die) (v : BeatSt) (p_ : Nat) : getPort (setBeat s d v) p_ = getPort s p_ := Eq.trans rfl rfl
@[simp] theorem getRing_setBeat (s : State) (d : Die) (v : BeatSt) (k_ : Nat) : getRing (setBeat s d v) k_ = getRing s k_ := Eq.trans rfl rfl
@[simp] theorem getQp_setBeat (s : State) (d : Die) (v : BeatSt) (q_ : Nat) : getQp (setBeat s d v) q_ = getQp s q_ := Eq.trans rfl rfl
@[simp] theorem getRegion_setBeat (s : State) (d : Die) (v : BeatSt) (j_ : Nat) : getRegion (setBeat s d v) j_ = getRegion s j_ := Eq.trans rfl rfl
@[simp] theorem getRt_setBeat (s : State) (d : Die) (v : BeatSt) (d_ : Die) : getRt (setBeat s d v) d_ = getRt s d_ := Eq.trans rfl rfl
@[simp] theorem getImg_setBeat (s : State) (d : Die) (v : BeatSt) (d_ : Die) : getImg (setBeat s d v) d_ = getImg s d_ := Eq.trans rfl rfl
@[simp] theorem getOpts_setBeat (s : State) (d : Die) (v : BeatSt) (d_ : Die) : getOpts (setBeat s d v) d_ = getOpts s d_ := Eq.trans rfl rfl
@[simp] theorem getSer_setBeat (s : State) (d : Die) (v : BeatSt) (d_ : Die) (c_ : Nat) : getSer (setBeat s d v) d_ c_ = getSer s d_ c_ := Eq.trans rfl rfl
@[simp] theorem getFGate_setBeat (s : State) (d : Die) (v : BeatSt) (d_ : Die) (g_ : Nat) : getFGate (setBeat s d v) d_ g_ = getFGate s d_ g_ := Eq.trans rfl rfl
@[simp] theorem getStage_setBeat (s : State) (d : Die) (v : BeatSt) (d_ : Die) : getStage (setBeat s d v) d_ = getStage s d_ := Eq.trans rfl rfl
@[simp] theorem regRaw_setBeat (s : State) (d : Die) (v : BeatSt) (r_ : Reg) (d_ : Die) (i_ : Nat) : regRaw (setBeat s d v) r_ d_ i_ = regRaw s r_ d_ i_ := Eq.trans rfl rfl

@[simp] theorem getCell_setDom (s : State) (d : Die) (i : Nat) (v : DomSt) (k_ : Nat) : getCell (setDom s d i v) k_ = getCell s k_ := Eq.trans rfl rfl
@[simp] theorem getHar_setDom (s : State) (d : Die) (i : Nat) (v : DomSt) (d_ : Die) (h_ : Nat) : getHar (setDom s d i v) d_ h_ = getHar s d_ h_ := Eq.trans rfl rfl
@[simp] theorem getReedIn_setDom (s : State) (d : Die) (i : Nat) (v : DomSt) (k_ : Nat) : getReedIn (setDom s d i v) k_ = getReedIn s k_ := Eq.trans rfl rfl
@[simp] theorem getGate_setDom (s : State) (d : Die) (i : Nat) (v : DomSt) (k_ : Nat) : getGate (setDom s d i v) k_ = getGate s k_ := Eq.trans rfl rfl
@[simp] theorem getScratch_setDom (s : State) (d : Die) (i : Nat) (v : DomSt) (ck_ : Nat) (a_ : Nat) : getScratch (setDom s d i v) ck_ a_ = getScratch s ck_ a_ := Eq.trans rfl rfl
@[simp] theorem getShared_setDom (s : State) (d : Die) (i : Nat) (v : DomSt) (ck_ : Nat) (g_ : Nat) : getShared (setDom s d i v) ck_ g_ = getShared s ck_ g_ := Eq.trans rfl rfl
@[simp] theorem getCellDraft_setDom (s : State) (d : Die) (i : Nat) (v : DomSt) (ck_ : Nat) (bank_ : Bool) (slot_ : Nat) : getCellDraft (setDom s d i v) ck_ bank_ slot_ = getCellDraft s ck_ bank_ slot_ := Eq.trans rfl rfl
@[simp] theorem getReedDraft_setDom (s : State) (d : Die) (i : Nat) (v : DomSt) (d_ : Die) (h_ : Nat) (i_ : Nat) (bank_ : Bool) (slot_ : Nat) : getReedDraft (setDom s d i v) d_ h_ i_ bank_ slot_ = getReedDraft s d_ h_ i_ bank_ slot_ := Eq.trans rfl rfl
@[simp] theorem getTable_setDom (s : State) (d : Die) (i : Nat) (v : DomSt) (d_ : Die) (h_ : Nat) (bank_ : Bool) (e_ : Nat) : getTable (setDom s d i v) d_ h_ bank_ e_ = getTable s d_ h_ bank_ e_ := Eq.trans rfl rfl
@[simp] theorem getYarn_setDom (s : State) (d : Die) (i : Nat) (v : DomSt) (d_ : Die) (y_ : Nat) : getYarn (setDom s d i v) d_ y_ = getYarn s d_ y_ := Eq.trans rfl rfl
@[simp] theorem getBob_setDom (s : State) (d : Die) (i : Nat) (v : DomSt) (b_ : Nat) : getBob (setDom s d i v) b_ = getBob s b_ := Eq.trans rfl rfl
@[simp] theorem getBeat_setDom (s : State) (d : Die) (i : Nat) (v : DomSt) (d_ : Die) : getBeat (setDom s d i v) d_ = getBeat s d_ := Eq.trans rfl rfl
@[simp] theorem getBrd_setDom (s : State) (d : Die) (i : Nat) (v : DomSt) (d_ : Die) : getBrd (setDom s d i v) d_ = getBrd s d_ := Eq.trans rfl rfl
@[simp] theorem getHbm_setDom (s : State) (d : Die) (i : Nat) (v : DomSt) (d_ : Die) : getHbm (setDom s d i v) d_ = getHbm s d_ := Eq.trans rfl rfl
@[simp] theorem getMarch_setDom (s : State) (d : Die) (i : Nat) (v : DomSt) (d_ : Die) : getMarch (setDom s d i v) d_ = getMarch s d_ := Eq.trans rfl rfl
@[simp] theorem getPort_setDom (s : State) (d : Die) (i : Nat) (v : DomSt) (p_ : Nat) : getPort (setDom s d i v) p_ = getPort s p_ := Eq.trans rfl rfl
@[simp] theorem getRing_setDom (s : State) (d : Die) (i : Nat) (v : DomSt) (k_ : Nat) : getRing (setDom s d i v) k_ = getRing s k_ := Eq.trans rfl rfl
@[simp] theorem getQp_setDom (s : State) (d : Die) (i : Nat) (v : DomSt) (q_ : Nat) : getQp (setDom s d i v) q_ = getQp s q_ := Eq.trans rfl rfl
@[simp] theorem getRegion_setDom (s : State) (d : Die) (i : Nat) (v : DomSt) (j_ : Nat) : getRegion (setDom s d i v) j_ = getRegion s j_ := Eq.trans rfl rfl
@[simp] theorem getRt_setDom (s : State) (d : Die) (i : Nat) (v : DomSt) (d_ : Die) : getRt (setDom s d i v) d_ = getRt s d_ := Eq.trans rfl rfl
@[simp] theorem getImg_setDom (s : State) (d : Die) (i : Nat) (v : DomSt) (d_ : Die) : getImg (setDom s d i v) d_ = getImg s d_ := Eq.trans rfl rfl
@[simp] theorem getOpts_setDom (s : State) (d : Die) (i : Nat) (v : DomSt) (d_ : Die) : getOpts (setDom s d i v) d_ = getOpts s d_ := Eq.trans rfl rfl
@[simp] theorem getSer_setDom (s : State) (d : Die) (i : Nat) (v : DomSt) (d_ : Die) (c_ : Nat) : getSer (setDom s d i v) d_ c_ = getSer s d_ c_ := Eq.trans rfl rfl
@[simp] theorem getFGate_setDom (s : State) (d : Die) (i : Nat) (v : DomSt) (d_ : Die) (g_ : Nat) : getFGate (setDom s d i v) d_ g_ = getFGate s d_ g_ := Eq.trans rfl rfl
@[simp] theorem getStage_setDom (s : State) (d : Die) (i : Nat) (v : DomSt) (d_ : Die) : getStage (setDom s d i v) d_ = getStage s d_ := Eq.trans rfl rfl
@[simp] theorem regRaw_setDom (s : State) (d : Die) (i : Nat) (v : DomSt) (r_ : Reg) (d_ : Die) (i_ : Nat) : regRaw (setDom s d i v) r_ d_ i_ = regRaw s r_ d_ i_ := Eq.trans rfl rfl

@[simp] theorem getCell_setBrd (s : State) (d : Die) (v : BrdSt) (k_ : Nat) : getCell (setBrd s d v) k_ = getCell s k_ := Eq.trans rfl rfl
@[simp] theorem getHar_setBrd (s : State) (d : Die) (v : BrdSt) (d_ : Die) (h_ : Nat) : getHar (setBrd s d v) d_ h_ = getHar s d_ h_ := Eq.trans rfl rfl
@[simp] theorem getReedIn_setBrd (s : State) (d : Die) (v : BrdSt) (k_ : Nat) : getReedIn (setBrd s d v) k_ = getReedIn s k_ := Eq.trans rfl rfl
@[simp] theorem getGate_setBrd (s : State) (d : Die) (v : BrdSt) (k_ : Nat) : getGate (setBrd s d v) k_ = getGate s k_ := Eq.trans rfl rfl
@[simp] theorem getScratch_setBrd (s : State) (d : Die) (v : BrdSt) (ck_ : Nat) (a_ : Nat) : getScratch (setBrd s d v) ck_ a_ = getScratch s ck_ a_ := Eq.trans rfl rfl
@[simp] theorem getShared_setBrd (s : State) (d : Die) (v : BrdSt) (ck_ : Nat) (g_ : Nat) : getShared (setBrd s d v) ck_ g_ = getShared s ck_ g_ := Eq.trans rfl rfl
@[simp] theorem getCellDraft_setBrd (s : State) (d : Die) (v : BrdSt) (ck_ : Nat) (bank_ : Bool) (slot_ : Nat) : getCellDraft (setBrd s d v) ck_ bank_ slot_ = getCellDraft s ck_ bank_ slot_ := Eq.trans rfl rfl
@[simp] theorem getReedDraft_setBrd (s : State) (d : Die) (v : BrdSt) (d_ : Die) (h_ : Nat) (i_ : Nat) (bank_ : Bool) (slot_ : Nat) : getReedDraft (setBrd s d v) d_ h_ i_ bank_ slot_ = getReedDraft s d_ h_ i_ bank_ slot_ := Eq.trans rfl rfl
@[simp] theorem getTable_setBrd (s : State) (d : Die) (v : BrdSt) (d_ : Die) (h_ : Nat) (bank_ : Bool) (e_ : Nat) : getTable (setBrd s d v) d_ h_ bank_ e_ = getTable s d_ h_ bank_ e_ := Eq.trans rfl rfl
@[simp] theorem getYarn_setBrd (s : State) (d : Die) (v : BrdSt) (d_ : Die) (y_ : Nat) : getYarn (setBrd s d v) d_ y_ = getYarn s d_ y_ := Eq.trans rfl rfl
@[simp] theorem getBob_setBrd (s : State) (d : Die) (v : BrdSt) (b_ : Nat) : getBob (setBrd s d v) b_ = getBob s b_ := Eq.trans rfl rfl
@[simp] theorem getBeat_setBrd (s : State) (d : Die) (v : BrdSt) (d_ : Die) : getBeat (setBrd s d v) d_ = getBeat s d_ := Eq.trans rfl rfl
@[simp] theorem getDom_setBrd (s : State) (d : Die) (v : BrdSt) (d_ : Die) (i_ : Nat) : getDom (setBrd s d v) d_ i_ = getDom s d_ i_ := Eq.trans rfl rfl
@[simp] theorem getHbm_setBrd (s : State) (d : Die) (v : BrdSt) (d_ : Die) : getHbm (setBrd s d v) d_ = getHbm s d_ := Eq.trans rfl rfl
@[simp] theorem getMarch_setBrd (s : State) (d : Die) (v : BrdSt) (d_ : Die) : getMarch (setBrd s d v) d_ = getMarch s d_ := Eq.trans rfl rfl
@[simp] theorem getPort_setBrd (s : State) (d : Die) (v : BrdSt) (p_ : Nat) : getPort (setBrd s d v) p_ = getPort s p_ := Eq.trans rfl rfl
@[simp] theorem getRing_setBrd (s : State) (d : Die) (v : BrdSt) (k_ : Nat) : getRing (setBrd s d v) k_ = getRing s k_ := Eq.trans rfl rfl
@[simp] theorem getQp_setBrd (s : State) (d : Die) (v : BrdSt) (q_ : Nat) : getQp (setBrd s d v) q_ = getQp s q_ := Eq.trans rfl rfl
@[simp] theorem getRegion_setBrd (s : State) (d : Die) (v : BrdSt) (j_ : Nat) : getRegion (setBrd s d v) j_ = getRegion s j_ := Eq.trans rfl rfl
@[simp] theorem getRt_setBrd (s : State) (d : Die) (v : BrdSt) (d_ : Die) : getRt (setBrd s d v) d_ = getRt s d_ := Eq.trans rfl rfl
@[simp] theorem getImg_setBrd (s : State) (d : Die) (v : BrdSt) (d_ : Die) : getImg (setBrd s d v) d_ = getImg s d_ := Eq.trans rfl rfl
@[simp] theorem getOpts_setBrd (s : State) (d : Die) (v : BrdSt) (d_ : Die) : getOpts (setBrd s d v) d_ = getOpts s d_ := Eq.trans rfl rfl
@[simp] theorem getSer_setBrd (s : State) (d : Die) (v : BrdSt) (d_ : Die) (c_ : Nat) : getSer (setBrd s d v) d_ c_ = getSer s d_ c_ := Eq.trans rfl rfl
@[simp] theorem getFGate_setBrd (s : State) (d : Die) (v : BrdSt) (d_ : Die) (g_ : Nat) : getFGate (setBrd s d v) d_ g_ = getFGate s d_ g_ := Eq.trans rfl rfl
@[simp] theorem getStage_setBrd (s : State) (d : Die) (v : BrdSt) (d_ : Die) : getStage (setBrd s d v) d_ = getStage s d_ := Eq.trans rfl rfl
@[simp] theorem regRaw_setBrd (s : State) (d : Die) (v : BrdSt) (r_ : Reg) (d_ : Die) (i_ : Nat) : regRaw (setBrd s d v) r_ d_ i_ = regRaw s r_ d_ i_ := Eq.trans rfl rfl

@[simp] theorem getCell_setHbm (s : State) (d : Die) (v : HbmSt) (k_ : Nat) : getCell (setHbm s d v) k_ = getCell s k_ := Eq.trans rfl rfl
@[simp] theorem getHar_setHbm (s : State) (d : Die) (v : HbmSt) (d_ : Die) (h_ : Nat) : getHar (setHbm s d v) d_ h_ = getHar s d_ h_ := Eq.trans rfl rfl
@[simp] theorem getReedIn_setHbm (s : State) (d : Die) (v : HbmSt) (k_ : Nat) : getReedIn (setHbm s d v) k_ = getReedIn s k_ := Eq.trans rfl rfl
@[simp] theorem getGate_setHbm (s : State) (d : Die) (v : HbmSt) (k_ : Nat) : getGate (setHbm s d v) k_ = getGate s k_ := Eq.trans rfl rfl
@[simp] theorem getScratch_setHbm (s : State) (d : Die) (v : HbmSt) (ck_ : Nat) (a_ : Nat) : getScratch (setHbm s d v) ck_ a_ = getScratch s ck_ a_ := Eq.trans rfl rfl
@[simp] theorem getShared_setHbm (s : State) (d : Die) (v : HbmSt) (ck_ : Nat) (g_ : Nat) : getShared (setHbm s d v) ck_ g_ = getShared s ck_ g_ := Eq.trans rfl rfl
@[simp] theorem getCellDraft_setHbm (s : State) (d : Die) (v : HbmSt) (ck_ : Nat) (bank_ : Bool) (slot_ : Nat) : getCellDraft (setHbm s d v) ck_ bank_ slot_ = getCellDraft s ck_ bank_ slot_ := Eq.trans rfl rfl
@[simp] theorem getReedDraft_setHbm (s : State) (d : Die) (v : HbmSt) (d_ : Die) (h_ : Nat) (i_ : Nat) (bank_ : Bool) (slot_ : Nat) : getReedDraft (setHbm s d v) d_ h_ i_ bank_ slot_ = getReedDraft s d_ h_ i_ bank_ slot_ := Eq.trans rfl rfl
@[simp] theorem getTable_setHbm (s : State) (d : Die) (v : HbmSt) (d_ : Die) (h_ : Nat) (bank_ : Bool) (e_ : Nat) : getTable (setHbm s d v) d_ h_ bank_ e_ = getTable s d_ h_ bank_ e_ := Eq.trans rfl rfl
@[simp] theorem getYarn_setHbm (s : State) (d : Die) (v : HbmSt) (d_ : Die) (y_ : Nat) : getYarn (setHbm s d v) d_ y_ = getYarn s d_ y_ := Eq.trans rfl rfl
@[simp] theorem getBob_setHbm (s : State) (d : Die) (v : HbmSt) (b_ : Nat) : getBob (setHbm s d v) b_ = getBob s b_ := Eq.trans rfl rfl
@[simp] theorem getBeat_setHbm (s : State) (d : Die) (v : HbmSt) (d_ : Die) : getBeat (setHbm s d v) d_ = getBeat s d_ := Eq.trans rfl rfl
@[simp] theorem getDom_setHbm (s : State) (d : Die) (v : HbmSt) (d_ : Die) (i_ : Nat) : getDom (setHbm s d v) d_ i_ = getDom s d_ i_ := Eq.trans rfl rfl
@[simp] theorem getBrd_setHbm (s : State) (d : Die) (v : HbmSt) (d_ : Die) : getBrd (setHbm s d v) d_ = getBrd s d_ := Eq.trans rfl rfl
@[simp] theorem getMarch_setHbm (s : State) (d : Die) (v : HbmSt) (d_ : Die) : getMarch (setHbm s d v) d_ = getMarch s d_ := Eq.trans rfl rfl
@[simp] theorem getPort_setHbm (s : State) (d : Die) (v : HbmSt) (p_ : Nat) : getPort (setHbm s d v) p_ = getPort s p_ := Eq.trans rfl rfl
@[simp] theorem getRing_setHbm (s : State) (d : Die) (v : HbmSt) (k_ : Nat) : getRing (setHbm s d v) k_ = getRing s k_ := Eq.trans rfl rfl
@[simp] theorem getQp_setHbm (s : State) (d : Die) (v : HbmSt) (q_ : Nat) : getQp (setHbm s d v) q_ = getQp s q_ := Eq.trans rfl rfl
@[simp] theorem getRegion_setHbm (s : State) (d : Die) (v : HbmSt) (j_ : Nat) : getRegion (setHbm s d v) j_ = getRegion s j_ := Eq.trans rfl rfl
@[simp] theorem getRt_setHbm (s : State) (d : Die) (v : HbmSt) (d_ : Die) : getRt (setHbm s d v) d_ = getRt s d_ := Eq.trans rfl rfl
@[simp] theorem getImg_setHbm (s : State) (d : Die) (v : HbmSt) (d_ : Die) : getImg (setHbm s d v) d_ = getImg s d_ := Eq.trans rfl rfl
@[simp] theorem getOpts_setHbm (s : State) (d : Die) (v : HbmSt) (d_ : Die) : getOpts (setHbm s d v) d_ = getOpts s d_ := Eq.trans rfl rfl
@[simp] theorem getSer_setHbm (s : State) (d : Die) (v : HbmSt) (d_ : Die) (c_ : Nat) : getSer (setHbm s d v) d_ c_ = getSer s d_ c_ := Eq.trans rfl rfl
@[simp] theorem getFGate_setHbm (s : State) (d : Die) (v : HbmSt) (d_ : Die) (g_ : Nat) : getFGate (setHbm s d v) d_ g_ = getFGate s d_ g_ := Eq.trans rfl rfl
@[simp] theorem getStage_setHbm (s : State) (d : Die) (v : HbmSt) (d_ : Die) : getStage (setHbm s d v) d_ = getStage s d_ := Eq.trans rfl rfl
@[simp] theorem regRaw_setHbm (s : State) (d : Die) (v : HbmSt) (r_ : Reg) (d_ : Die) (i_ : Nat) : regRaw (setHbm s d v) r_ d_ i_ = regRaw s r_ d_ i_ := Eq.trans rfl rfl

@[simp] theorem getCell_setMarch (s : State) (d : Die) (v : MarchSt) (k_ : Nat) : getCell (setMarch s d v) k_ = getCell s k_ := Eq.trans rfl rfl
@[simp] theorem getHar_setMarch (s : State) (d : Die) (v : MarchSt) (d_ : Die) (h_ : Nat) : getHar (setMarch s d v) d_ h_ = getHar s d_ h_ := Eq.trans rfl rfl
@[simp] theorem getReedIn_setMarch (s : State) (d : Die) (v : MarchSt) (k_ : Nat) : getReedIn (setMarch s d v) k_ = getReedIn s k_ := Eq.trans rfl rfl
@[simp] theorem getGate_setMarch (s : State) (d : Die) (v : MarchSt) (k_ : Nat) : getGate (setMarch s d v) k_ = getGate s k_ := Eq.trans rfl rfl
@[simp] theorem getScratch_setMarch (s : State) (d : Die) (v : MarchSt) (ck_ : Nat) (a_ : Nat) : getScratch (setMarch s d v) ck_ a_ = getScratch s ck_ a_ := Eq.trans rfl rfl
@[simp] theorem getShared_setMarch (s : State) (d : Die) (v : MarchSt) (ck_ : Nat) (g_ : Nat) : getShared (setMarch s d v) ck_ g_ = getShared s ck_ g_ := Eq.trans rfl rfl
@[simp] theorem getCellDraft_setMarch (s : State) (d : Die) (v : MarchSt) (ck_ : Nat) (bank_ : Bool) (slot_ : Nat) : getCellDraft (setMarch s d v) ck_ bank_ slot_ = getCellDraft s ck_ bank_ slot_ := Eq.trans rfl rfl
@[simp] theorem getReedDraft_setMarch (s : State) (d : Die) (v : MarchSt) (d_ : Die) (h_ : Nat) (i_ : Nat) (bank_ : Bool) (slot_ : Nat) : getReedDraft (setMarch s d v) d_ h_ i_ bank_ slot_ = getReedDraft s d_ h_ i_ bank_ slot_ := Eq.trans rfl rfl
@[simp] theorem getTable_setMarch (s : State) (d : Die) (v : MarchSt) (d_ : Die) (h_ : Nat) (bank_ : Bool) (e_ : Nat) : getTable (setMarch s d v) d_ h_ bank_ e_ = getTable s d_ h_ bank_ e_ := Eq.trans rfl rfl
@[simp] theorem getYarn_setMarch (s : State) (d : Die) (v : MarchSt) (d_ : Die) (y_ : Nat) : getYarn (setMarch s d v) d_ y_ = getYarn s d_ y_ := Eq.trans rfl rfl
@[simp] theorem getBob_setMarch (s : State) (d : Die) (v : MarchSt) (b_ : Nat) : getBob (setMarch s d v) b_ = getBob s b_ := Eq.trans rfl rfl
@[simp] theorem getBeat_setMarch (s : State) (d : Die) (v : MarchSt) (d_ : Die) : getBeat (setMarch s d v) d_ = getBeat s d_ := Eq.trans rfl rfl
@[simp] theorem getDom_setMarch (s : State) (d : Die) (v : MarchSt) (d_ : Die) (i_ : Nat) : getDom (setMarch s d v) d_ i_ = getDom s d_ i_ := Eq.trans rfl rfl
@[simp] theorem getBrd_setMarch (s : State) (d : Die) (v : MarchSt) (d_ : Die) : getBrd (setMarch s d v) d_ = getBrd s d_ := Eq.trans rfl rfl
@[simp] theorem getHbm_setMarch (s : State) (d : Die) (v : MarchSt) (d_ : Die) : getHbm (setMarch s d v) d_ = getHbm s d_ := Eq.trans rfl rfl
@[simp] theorem getPort_setMarch (s : State) (d : Die) (v : MarchSt) (p_ : Nat) : getPort (setMarch s d v) p_ = getPort s p_ := Eq.trans rfl rfl
@[simp] theorem getRing_setMarch (s : State) (d : Die) (v : MarchSt) (k_ : Nat) : getRing (setMarch s d v) k_ = getRing s k_ := Eq.trans rfl rfl
@[simp] theorem getQp_setMarch (s : State) (d : Die) (v : MarchSt) (q_ : Nat) : getQp (setMarch s d v) q_ = getQp s q_ := Eq.trans rfl rfl
@[simp] theorem getRegion_setMarch (s : State) (d : Die) (v : MarchSt) (j_ : Nat) : getRegion (setMarch s d v) j_ = getRegion s j_ := Eq.trans rfl rfl
@[simp] theorem getRt_setMarch (s : State) (d : Die) (v : MarchSt) (d_ : Die) : getRt (setMarch s d v) d_ = getRt s d_ := Eq.trans rfl rfl
@[simp] theorem getImg_setMarch (s : State) (d : Die) (v : MarchSt) (d_ : Die) : getImg (setMarch s d v) d_ = getImg s d_ := Eq.trans rfl rfl
@[simp] theorem getOpts_setMarch (s : State) (d : Die) (v : MarchSt) (d_ : Die) : getOpts (setMarch s d v) d_ = getOpts s d_ := Eq.trans rfl rfl
@[simp] theorem getSer_setMarch (s : State) (d : Die) (v : MarchSt) (d_ : Die) (c_ : Nat) : getSer (setMarch s d v) d_ c_ = getSer s d_ c_ := Eq.trans rfl rfl
@[simp] theorem getFGate_setMarch (s : State) (d : Die) (v : MarchSt) (d_ : Die) (g_ : Nat) : getFGate (setMarch s d v) d_ g_ = getFGate s d_ g_ := Eq.trans rfl rfl
@[simp] theorem getStage_setMarch (s : State) (d : Die) (v : MarchSt) (d_ : Die) : getStage (setMarch s d v) d_ = getStage s d_ := Eq.trans rfl rfl
@[simp] theorem regRaw_setMarch (s : State) (d : Die) (v : MarchSt) (r_ : Reg) (d_ : Die) (i_ : Nat) : regRaw (setMarch s d v) r_ d_ i_ = regRaw s r_ d_ i_ := Eq.trans rfl rfl

@[simp] theorem getCell_setPort (s : State) (p : Nat) (v : PortSt) (k_ : Nat) : getCell (setPort s p v) k_ = getCell s k_ := Eq.trans rfl rfl
@[simp] theorem getHar_setPort (s : State) (p : Nat) (v : PortSt) (d_ : Die) (h_ : Nat) : getHar (setPort s p v) d_ h_ = getHar s d_ h_ := Eq.trans rfl rfl
@[simp] theorem getReedIn_setPort (s : State) (p : Nat) (v : PortSt) (k_ : Nat) : getReedIn (setPort s p v) k_ = getReedIn s k_ := Eq.trans rfl rfl
@[simp] theorem getGate_setPort (s : State) (p : Nat) (v : PortSt) (k_ : Nat) : getGate (setPort s p v) k_ = getGate s k_ := Eq.trans rfl rfl
@[simp] theorem getScratch_setPort (s : State) (p : Nat) (v : PortSt) (ck_ : Nat) (a_ : Nat) : getScratch (setPort s p v) ck_ a_ = getScratch s ck_ a_ := Eq.trans rfl rfl
@[simp] theorem getShared_setPort (s : State) (p : Nat) (v : PortSt) (ck_ : Nat) (g_ : Nat) : getShared (setPort s p v) ck_ g_ = getShared s ck_ g_ := Eq.trans rfl rfl
@[simp] theorem getCellDraft_setPort (s : State) (p : Nat) (v : PortSt) (ck_ : Nat) (bank_ : Bool) (slot_ : Nat) : getCellDraft (setPort s p v) ck_ bank_ slot_ = getCellDraft s ck_ bank_ slot_ := Eq.trans rfl rfl
@[simp] theorem getReedDraft_setPort (s : State) (p : Nat) (v : PortSt) (d_ : Die) (h_ : Nat) (i_ : Nat) (bank_ : Bool) (slot_ : Nat) : getReedDraft (setPort s p v) d_ h_ i_ bank_ slot_ = getReedDraft s d_ h_ i_ bank_ slot_ := Eq.trans rfl rfl
@[simp] theorem getTable_setPort (s : State) (p : Nat) (v : PortSt) (d_ : Die) (h_ : Nat) (bank_ : Bool) (e_ : Nat) : getTable (setPort s p v) d_ h_ bank_ e_ = getTable s d_ h_ bank_ e_ := Eq.trans rfl rfl
@[simp] theorem getYarn_setPort (s : State) (p : Nat) (v : PortSt) (d_ : Die) (y_ : Nat) : getYarn (setPort s p v) d_ y_ = getYarn s d_ y_ := Eq.trans rfl rfl
@[simp] theorem getBob_setPort (s : State) (p : Nat) (v : PortSt) (b_ : Nat) : getBob (setPort s p v) b_ = getBob s b_ := Eq.trans rfl rfl
@[simp] theorem getBeat_setPort (s : State) (p : Nat) (v : PortSt) (d_ : Die) : getBeat (setPort s p v) d_ = getBeat s d_ := Eq.trans rfl rfl
@[simp] theorem getDom_setPort (s : State) (p : Nat) (v : PortSt) (d_ : Die) (i_ : Nat) : getDom (setPort s p v) d_ i_ = getDom s d_ i_ := Eq.trans rfl rfl
@[simp] theorem getBrd_setPort (s : State) (p : Nat) (v : PortSt) (d_ : Die) : getBrd (setPort s p v) d_ = getBrd s d_ := Eq.trans rfl rfl
@[simp] theorem getHbm_setPort (s : State) (p : Nat) (v : PortSt) (d_ : Die) : getHbm (setPort s p v) d_ = getHbm s d_ := Eq.trans rfl rfl
@[simp] theorem getMarch_setPort (s : State) (p : Nat) (v : PortSt) (d_ : Die) : getMarch (setPort s p v) d_ = getMarch s d_ := Eq.trans rfl rfl
@[simp] theorem getRing_setPort (s : State) (p : Nat) (v : PortSt) (k_ : Nat) : getRing (setPort s p v) k_ = getRing s k_ := Eq.trans rfl rfl
@[simp] theorem getQp_setPort (s : State) (p : Nat) (v : PortSt) (q_ : Nat) : getQp (setPort s p v) q_ = getQp s q_ := Eq.trans rfl rfl
@[simp] theorem getRegion_setPort (s : State) (p : Nat) (v : PortSt) (j_ : Nat) : getRegion (setPort s p v) j_ = getRegion s j_ := Eq.trans rfl rfl
@[simp] theorem getRt_setPort (s : State) (p : Nat) (v : PortSt) (d_ : Die) : getRt (setPort s p v) d_ = getRt s d_ := Eq.trans rfl rfl
@[simp] theorem getImg_setPort (s : State) (p : Nat) (v : PortSt) (d_ : Die) : getImg (setPort s p v) d_ = getImg s d_ := Eq.trans rfl rfl
@[simp] theorem getOpts_setPort (s : State) (p : Nat) (v : PortSt) (d_ : Die) : getOpts (setPort s p v) d_ = getOpts s d_ := Eq.trans rfl rfl
@[simp] theorem getSer_setPort (s : State) (p : Nat) (v : PortSt) (d_ : Die) (c_ : Nat) : getSer (setPort s p v) d_ c_ = getSer s d_ c_ := Eq.trans rfl rfl
@[simp] theorem getFGate_setPort (s : State) (p : Nat) (v : PortSt) (d_ : Die) (g_ : Nat) : getFGate (setPort s p v) d_ g_ = getFGate s d_ g_ := Eq.trans rfl rfl
@[simp] theorem getStage_setPort (s : State) (p : Nat) (v : PortSt) (d_ : Die) : getStage (setPort s p v) d_ = getStage s d_ := Eq.trans rfl rfl
@[simp] theorem regRaw_setPort (s : State) (p : Nat) (v : PortSt) (r_ : Reg) (d_ : Die) (i_ : Nat) : regRaw (setPort s p v) r_ d_ i_ = regRaw s r_ d_ i_ := Eq.trans rfl rfl

@[simp] theorem getCell_setRing (s : State) (k : Nat) (v : RingSt) (k_ : Nat) : getCell (setRing s k v) k_ = getCell s k_ := Eq.trans rfl rfl
@[simp] theorem getHar_setRing (s : State) (k : Nat) (v : RingSt) (d_ : Die) (h_ : Nat) : getHar (setRing s k v) d_ h_ = getHar s d_ h_ := Eq.trans rfl rfl
@[simp] theorem getReedIn_setRing (s : State) (k : Nat) (v : RingSt) (k_ : Nat) : getReedIn (setRing s k v) k_ = getReedIn s k_ := Eq.trans rfl rfl
@[simp] theorem getGate_setRing (s : State) (k : Nat) (v : RingSt) (k_ : Nat) : getGate (setRing s k v) k_ = getGate s k_ := Eq.trans rfl rfl
@[simp] theorem getScratch_setRing (s : State) (k : Nat) (v : RingSt) (ck_ : Nat) (a_ : Nat) : getScratch (setRing s k v) ck_ a_ = getScratch s ck_ a_ := Eq.trans rfl rfl
@[simp] theorem getShared_setRing (s : State) (k : Nat) (v : RingSt) (ck_ : Nat) (g_ : Nat) : getShared (setRing s k v) ck_ g_ = getShared s ck_ g_ := Eq.trans rfl rfl
@[simp] theorem getCellDraft_setRing (s : State) (k : Nat) (v : RingSt) (ck_ : Nat) (bank_ : Bool) (slot_ : Nat) : getCellDraft (setRing s k v) ck_ bank_ slot_ = getCellDraft s ck_ bank_ slot_ := Eq.trans rfl rfl
@[simp] theorem getReedDraft_setRing (s : State) (k : Nat) (v : RingSt) (d_ : Die) (h_ : Nat) (i_ : Nat) (bank_ : Bool) (slot_ : Nat) : getReedDraft (setRing s k v) d_ h_ i_ bank_ slot_ = getReedDraft s d_ h_ i_ bank_ slot_ := Eq.trans rfl rfl
@[simp] theorem getTable_setRing (s : State) (k : Nat) (v : RingSt) (d_ : Die) (h_ : Nat) (bank_ : Bool) (e_ : Nat) : getTable (setRing s k v) d_ h_ bank_ e_ = getTable s d_ h_ bank_ e_ := Eq.trans rfl rfl
@[simp] theorem getYarn_setRing (s : State) (k : Nat) (v : RingSt) (d_ : Die) (y_ : Nat) : getYarn (setRing s k v) d_ y_ = getYarn s d_ y_ := Eq.trans rfl rfl
@[simp] theorem getBob_setRing (s : State) (k : Nat) (v : RingSt) (b_ : Nat) : getBob (setRing s k v) b_ = getBob s b_ := Eq.trans rfl rfl
@[simp] theorem getBeat_setRing (s : State) (k : Nat) (v : RingSt) (d_ : Die) : getBeat (setRing s k v) d_ = getBeat s d_ := Eq.trans rfl rfl
@[simp] theorem getDom_setRing (s : State) (k : Nat) (v : RingSt) (d_ : Die) (i_ : Nat) : getDom (setRing s k v) d_ i_ = getDom s d_ i_ := Eq.trans rfl rfl
@[simp] theorem getBrd_setRing (s : State) (k : Nat) (v : RingSt) (d_ : Die) : getBrd (setRing s k v) d_ = getBrd s d_ := Eq.trans rfl rfl
@[simp] theorem getHbm_setRing (s : State) (k : Nat) (v : RingSt) (d_ : Die) : getHbm (setRing s k v) d_ = getHbm s d_ := Eq.trans rfl rfl
@[simp] theorem getMarch_setRing (s : State) (k : Nat) (v : RingSt) (d_ : Die) : getMarch (setRing s k v) d_ = getMarch s d_ := Eq.trans rfl rfl
@[simp] theorem getPort_setRing (s : State) (k : Nat) (v : RingSt) (p_ : Nat) : getPort (setRing s k v) p_ = getPort s p_ := Eq.trans rfl rfl
@[simp] theorem getQp_setRing (s : State) (k : Nat) (v : RingSt) (q_ : Nat) : getQp (setRing s k v) q_ = getQp s q_ := Eq.trans rfl rfl
@[simp] theorem getRegion_setRing (s : State) (k : Nat) (v : RingSt) (j_ : Nat) : getRegion (setRing s k v) j_ = getRegion s j_ := Eq.trans rfl rfl
@[simp] theorem getRt_setRing (s : State) (k : Nat) (v : RingSt) (d_ : Die) : getRt (setRing s k v) d_ = getRt s d_ := Eq.trans rfl rfl
@[simp] theorem getImg_setRing (s : State) (k : Nat) (v : RingSt) (d_ : Die) : getImg (setRing s k v) d_ = getImg s d_ := Eq.trans rfl rfl
@[simp] theorem getOpts_setRing (s : State) (k : Nat) (v : RingSt) (d_ : Die) : getOpts (setRing s k v) d_ = getOpts s d_ := Eq.trans rfl rfl
@[simp] theorem getSer_setRing (s : State) (k : Nat) (v : RingSt) (d_ : Die) (c_ : Nat) : getSer (setRing s k v) d_ c_ = getSer s d_ c_ := Eq.trans rfl rfl
@[simp] theorem getFGate_setRing (s : State) (k : Nat) (v : RingSt) (d_ : Die) (g_ : Nat) : getFGate (setRing s k v) d_ g_ = getFGate s d_ g_ := Eq.trans rfl rfl
@[simp] theorem getStage_setRing (s : State) (k : Nat) (v : RingSt) (d_ : Die) : getStage (setRing s k v) d_ = getStage s d_ := Eq.trans rfl rfl
@[simp] theorem regRaw_setRing (s : State) (k : Nat) (v : RingSt) (r_ : Reg) (d_ : Die) (i_ : Nat) : regRaw (setRing s k v) r_ d_ i_ = regRaw s r_ d_ i_ := Eq.trans rfl rfl

@[simp] theorem getCell_setQp (s : State) (q : Nat) (v : QpSt) (k_ : Nat) : getCell (setQp s q v) k_ = getCell s k_ := Eq.trans rfl rfl
@[simp] theorem getHar_setQp (s : State) (q : Nat) (v : QpSt) (d_ : Die) (h_ : Nat) : getHar (setQp s q v) d_ h_ = getHar s d_ h_ := Eq.trans rfl rfl
@[simp] theorem getReedIn_setQp (s : State) (q : Nat) (v : QpSt) (k_ : Nat) : getReedIn (setQp s q v) k_ = getReedIn s k_ := Eq.trans rfl rfl
@[simp] theorem getGate_setQp (s : State) (q : Nat) (v : QpSt) (k_ : Nat) : getGate (setQp s q v) k_ = getGate s k_ := Eq.trans rfl rfl
@[simp] theorem getScratch_setQp (s : State) (q : Nat) (v : QpSt) (ck_ : Nat) (a_ : Nat) : getScratch (setQp s q v) ck_ a_ = getScratch s ck_ a_ := Eq.trans rfl rfl
@[simp] theorem getShared_setQp (s : State) (q : Nat) (v : QpSt) (ck_ : Nat) (g_ : Nat) : getShared (setQp s q v) ck_ g_ = getShared s ck_ g_ := Eq.trans rfl rfl
@[simp] theorem getCellDraft_setQp (s : State) (q : Nat) (v : QpSt) (ck_ : Nat) (bank_ : Bool) (slot_ : Nat) : getCellDraft (setQp s q v) ck_ bank_ slot_ = getCellDraft s ck_ bank_ slot_ := Eq.trans rfl rfl
@[simp] theorem getReedDraft_setQp (s : State) (q : Nat) (v : QpSt) (d_ : Die) (h_ : Nat) (i_ : Nat) (bank_ : Bool) (slot_ : Nat) : getReedDraft (setQp s q v) d_ h_ i_ bank_ slot_ = getReedDraft s d_ h_ i_ bank_ slot_ := Eq.trans rfl rfl
@[simp] theorem getTable_setQp (s : State) (q : Nat) (v : QpSt) (d_ : Die) (h_ : Nat) (bank_ : Bool) (e_ : Nat) : getTable (setQp s q v) d_ h_ bank_ e_ = getTable s d_ h_ bank_ e_ := Eq.trans rfl rfl
@[simp] theorem getYarn_setQp (s : State) (q : Nat) (v : QpSt) (d_ : Die) (y_ : Nat) : getYarn (setQp s q v) d_ y_ = getYarn s d_ y_ := Eq.trans rfl rfl
@[simp] theorem getBob_setQp (s : State) (q : Nat) (v : QpSt) (b_ : Nat) : getBob (setQp s q v) b_ = getBob s b_ := Eq.trans rfl rfl
@[simp] theorem getBeat_setQp (s : State) (q : Nat) (v : QpSt) (d_ : Die) : getBeat (setQp s q v) d_ = getBeat s d_ := Eq.trans rfl rfl
@[simp] theorem getDom_setQp (s : State) (q : Nat) (v : QpSt) (d_ : Die) (i_ : Nat) : getDom (setQp s q v) d_ i_ = getDom s d_ i_ := Eq.trans rfl rfl
@[simp] theorem getBrd_setQp (s : State) (q : Nat) (v : QpSt) (d_ : Die) : getBrd (setQp s q v) d_ = getBrd s d_ := Eq.trans rfl rfl
@[simp] theorem getHbm_setQp (s : State) (q : Nat) (v : QpSt) (d_ : Die) : getHbm (setQp s q v) d_ = getHbm s d_ := Eq.trans rfl rfl
@[simp] theorem getMarch_setQp (s : State) (q : Nat) (v : QpSt) (d_ : Die) : getMarch (setQp s q v) d_ = getMarch s d_ := Eq.trans rfl rfl
@[simp] theorem getPort_setQp (s : State) (q : Nat) (v : QpSt) (p_ : Nat) : getPort (setQp s q v) p_ = getPort s p_ := Eq.trans rfl rfl
@[simp] theorem getRing_setQp (s : State) (q : Nat) (v : QpSt) (k_ : Nat) : getRing (setQp s q v) k_ = getRing s k_ := Eq.trans rfl rfl
@[simp] theorem getRegion_setQp (s : State) (q : Nat) (v : QpSt) (j_ : Nat) : getRegion (setQp s q v) j_ = getRegion s j_ := Eq.trans rfl rfl
@[simp] theorem getRt_setQp (s : State) (q : Nat) (v : QpSt) (d_ : Die) : getRt (setQp s q v) d_ = getRt s d_ := Eq.trans rfl rfl
@[simp] theorem getImg_setQp (s : State) (q : Nat) (v : QpSt) (d_ : Die) : getImg (setQp s q v) d_ = getImg s d_ := Eq.trans rfl rfl
@[simp] theorem getOpts_setQp (s : State) (q : Nat) (v : QpSt) (d_ : Die) : getOpts (setQp s q v) d_ = getOpts s d_ := Eq.trans rfl rfl
@[simp] theorem getSer_setQp (s : State) (q : Nat) (v : QpSt) (d_ : Die) (c_ : Nat) : getSer (setQp s q v) d_ c_ = getSer s d_ c_ := Eq.trans rfl rfl
@[simp] theorem getFGate_setQp (s : State) (q : Nat) (v : QpSt) (d_ : Die) (g_ : Nat) : getFGate (setQp s q v) d_ g_ = getFGate s d_ g_ := Eq.trans rfl rfl
@[simp] theorem getStage_setQp (s : State) (q : Nat) (v : QpSt) (d_ : Die) : getStage (setQp s q v) d_ = getStage s d_ := Eq.trans rfl rfl
@[simp] theorem regRaw_setQp (s : State) (q : Nat) (v : QpSt) (r_ : Reg) (d_ : Die) (i_ : Nat) : regRaw (setQp s q v) r_ d_ i_ = regRaw s r_ d_ i_ := Eq.trans rfl rfl

@[simp] theorem getCell_setRegion (s : State) (j : Nat) (v : HostReg) (k_ : Nat) : getCell (setRegion s j v) k_ = getCell s k_ := Eq.trans rfl rfl
@[simp] theorem getHar_setRegion (s : State) (j : Nat) (v : HostReg) (d_ : Die) (h_ : Nat) : getHar (setRegion s j v) d_ h_ = getHar s d_ h_ := Eq.trans rfl rfl
@[simp] theorem getReedIn_setRegion (s : State) (j : Nat) (v : HostReg) (k_ : Nat) : getReedIn (setRegion s j v) k_ = getReedIn s k_ := Eq.trans rfl rfl
@[simp] theorem getGate_setRegion (s : State) (j : Nat) (v : HostReg) (k_ : Nat) : getGate (setRegion s j v) k_ = getGate s k_ := Eq.trans rfl rfl
@[simp] theorem getScratch_setRegion (s : State) (j : Nat) (v : HostReg) (ck_ : Nat) (a_ : Nat) : getScratch (setRegion s j v) ck_ a_ = getScratch s ck_ a_ := Eq.trans rfl rfl
@[simp] theorem getShared_setRegion (s : State) (j : Nat) (v : HostReg) (ck_ : Nat) (g_ : Nat) : getShared (setRegion s j v) ck_ g_ = getShared s ck_ g_ := Eq.trans rfl rfl
@[simp] theorem getCellDraft_setRegion (s : State) (j : Nat) (v : HostReg) (ck_ : Nat) (bank_ : Bool) (slot_ : Nat) : getCellDraft (setRegion s j v) ck_ bank_ slot_ = getCellDraft s ck_ bank_ slot_ := Eq.trans rfl rfl
@[simp] theorem getReedDraft_setRegion (s : State) (j : Nat) (v : HostReg) (d_ : Die) (h_ : Nat) (i_ : Nat) (bank_ : Bool) (slot_ : Nat) : getReedDraft (setRegion s j v) d_ h_ i_ bank_ slot_ = getReedDraft s d_ h_ i_ bank_ slot_ := Eq.trans rfl rfl
@[simp] theorem getTable_setRegion (s : State) (j : Nat) (v : HostReg) (d_ : Die) (h_ : Nat) (bank_ : Bool) (e_ : Nat) : getTable (setRegion s j v) d_ h_ bank_ e_ = getTable s d_ h_ bank_ e_ := Eq.trans rfl rfl
@[simp] theorem getYarn_setRegion (s : State) (j : Nat) (v : HostReg) (d_ : Die) (y_ : Nat) : getYarn (setRegion s j v) d_ y_ = getYarn s d_ y_ := Eq.trans rfl rfl
@[simp] theorem getBob_setRegion (s : State) (j : Nat) (v : HostReg) (b_ : Nat) : getBob (setRegion s j v) b_ = getBob s b_ := Eq.trans rfl rfl
@[simp] theorem getBeat_setRegion (s : State) (j : Nat) (v : HostReg) (d_ : Die) : getBeat (setRegion s j v) d_ = getBeat s d_ := Eq.trans rfl rfl
@[simp] theorem getDom_setRegion (s : State) (j : Nat) (v : HostReg) (d_ : Die) (i_ : Nat) : getDom (setRegion s j v) d_ i_ = getDom s d_ i_ := Eq.trans rfl rfl
@[simp] theorem getBrd_setRegion (s : State) (j : Nat) (v : HostReg) (d_ : Die) : getBrd (setRegion s j v) d_ = getBrd s d_ := Eq.trans rfl rfl
@[simp] theorem getHbm_setRegion (s : State) (j : Nat) (v : HostReg) (d_ : Die) : getHbm (setRegion s j v) d_ = getHbm s d_ := Eq.trans rfl rfl
@[simp] theorem getMarch_setRegion (s : State) (j : Nat) (v : HostReg) (d_ : Die) : getMarch (setRegion s j v) d_ = getMarch s d_ := Eq.trans rfl rfl
@[simp] theorem getPort_setRegion (s : State) (j : Nat) (v : HostReg) (p_ : Nat) : getPort (setRegion s j v) p_ = getPort s p_ := Eq.trans rfl rfl
@[simp] theorem getRing_setRegion (s : State) (j : Nat) (v : HostReg) (k_ : Nat) : getRing (setRegion s j v) k_ = getRing s k_ := Eq.trans rfl rfl
@[simp] theorem getQp_setRegion (s : State) (j : Nat) (v : HostReg) (q_ : Nat) : getQp (setRegion s j v) q_ = getQp s q_ := Eq.trans rfl rfl
@[simp] theorem getRt_setRegion (s : State) (j : Nat) (v : HostReg) (d_ : Die) : getRt (setRegion s j v) d_ = getRt s d_ := Eq.trans rfl rfl
@[simp] theorem getImg_setRegion (s : State) (j : Nat) (v : HostReg) (d_ : Die) : getImg (setRegion s j v) d_ = getImg s d_ := Eq.trans rfl rfl
@[simp] theorem getOpts_setRegion (s : State) (j : Nat) (v : HostReg) (d_ : Die) : getOpts (setRegion s j v) d_ = getOpts s d_ := Eq.trans rfl rfl
@[simp] theorem getSer_setRegion (s : State) (j : Nat) (v : HostReg) (d_ : Die) (c_ : Nat) : getSer (setRegion s j v) d_ c_ = getSer s d_ c_ := Eq.trans rfl rfl
@[simp] theorem getFGate_setRegion (s : State) (j : Nat) (v : HostReg) (d_ : Die) (g_ : Nat) : getFGate (setRegion s j v) d_ g_ = getFGate s d_ g_ := Eq.trans rfl rfl
@[simp] theorem getStage_setRegion (s : State) (j : Nat) (v : HostReg) (d_ : Die) : getStage (setRegion s j v) d_ = getStage s d_ := Eq.trans rfl rfl
@[simp] theorem regRaw_setRegion (s : State) (j : Nat) (v : HostReg) (r_ : Reg) (d_ : Die) (i_ : Nat) : regRaw (setRegion s j v) r_ d_ i_ = regRaw s r_ d_ i_ := Eq.trans rfl rfl

@[simp] theorem getCell_setRt (s : State) (d : Die) (v : RtSt) (k_ : Nat) : getCell (setRt s d v) k_ = getCell s k_ := Eq.trans rfl rfl
@[simp] theorem getHar_setRt (s : State) (d : Die) (v : RtSt) (d_ : Die) (h_ : Nat) : getHar (setRt s d v) d_ h_ = getHar s d_ h_ := Eq.trans rfl rfl
@[simp] theorem getReedIn_setRt (s : State) (d : Die) (v : RtSt) (k_ : Nat) : getReedIn (setRt s d v) k_ = getReedIn s k_ := Eq.trans rfl rfl
@[simp] theorem getGate_setRt (s : State) (d : Die) (v : RtSt) (k_ : Nat) : getGate (setRt s d v) k_ = getGate s k_ := Eq.trans rfl rfl
@[simp] theorem getScratch_setRt (s : State) (d : Die) (v : RtSt) (ck_ : Nat) (a_ : Nat) : getScratch (setRt s d v) ck_ a_ = getScratch s ck_ a_ := Eq.trans rfl rfl
@[simp] theorem getShared_setRt (s : State) (d : Die) (v : RtSt) (ck_ : Nat) (g_ : Nat) : getShared (setRt s d v) ck_ g_ = getShared s ck_ g_ := Eq.trans rfl rfl
@[simp] theorem getCellDraft_setRt (s : State) (d : Die) (v : RtSt) (ck_ : Nat) (bank_ : Bool) (slot_ : Nat) : getCellDraft (setRt s d v) ck_ bank_ slot_ = getCellDraft s ck_ bank_ slot_ := Eq.trans rfl rfl
@[simp] theorem getReedDraft_setRt (s : State) (d : Die) (v : RtSt) (d_ : Die) (h_ : Nat) (i_ : Nat) (bank_ : Bool) (slot_ : Nat) : getReedDraft (setRt s d v) d_ h_ i_ bank_ slot_ = getReedDraft s d_ h_ i_ bank_ slot_ := Eq.trans rfl rfl
@[simp] theorem getTable_setRt (s : State) (d : Die) (v : RtSt) (d_ : Die) (h_ : Nat) (bank_ : Bool) (e_ : Nat) : getTable (setRt s d v) d_ h_ bank_ e_ = getTable s d_ h_ bank_ e_ := Eq.trans rfl rfl
@[simp] theorem getYarn_setRt (s : State) (d : Die) (v : RtSt) (d_ : Die) (y_ : Nat) : getYarn (setRt s d v) d_ y_ = getYarn s d_ y_ := Eq.trans rfl rfl
@[simp] theorem getBob_setRt (s : State) (d : Die) (v : RtSt) (b_ : Nat) : getBob (setRt s d v) b_ = getBob s b_ := Eq.trans rfl rfl
@[simp] theorem getBeat_setRt (s : State) (d : Die) (v : RtSt) (d_ : Die) : getBeat (setRt s d v) d_ = getBeat s d_ := Eq.trans rfl rfl
@[simp] theorem getDom_setRt (s : State) (d : Die) (v : RtSt) (d_ : Die) (i_ : Nat) : getDom (setRt s d v) d_ i_ = getDom s d_ i_ := Eq.trans rfl rfl
@[simp] theorem getBrd_setRt (s : State) (d : Die) (v : RtSt) (d_ : Die) : getBrd (setRt s d v) d_ = getBrd s d_ := Eq.trans rfl rfl
@[simp] theorem getHbm_setRt (s : State) (d : Die) (v : RtSt) (d_ : Die) : getHbm (setRt s d v) d_ = getHbm s d_ := Eq.trans rfl rfl
@[simp] theorem getMarch_setRt (s : State) (d : Die) (v : RtSt) (d_ : Die) : getMarch (setRt s d v) d_ = getMarch s d_ := Eq.trans rfl rfl
@[simp] theorem getPort_setRt (s : State) (d : Die) (v : RtSt) (p_ : Nat) : getPort (setRt s d v) p_ = getPort s p_ := Eq.trans rfl rfl
@[simp] theorem getRing_setRt (s : State) (d : Die) (v : RtSt) (k_ : Nat) : getRing (setRt s d v) k_ = getRing s k_ := Eq.trans rfl rfl
@[simp] theorem getQp_setRt (s : State) (d : Die) (v : RtSt) (q_ : Nat) : getQp (setRt s d v) q_ = getQp s q_ := Eq.trans rfl rfl
@[simp] theorem getRegion_setRt (s : State) (d : Die) (v : RtSt) (j_ : Nat) : getRegion (setRt s d v) j_ = getRegion s j_ := Eq.trans rfl rfl
@[simp] theorem getImg_setRt (s : State) (d : Die) (v : RtSt) (d_ : Die) : getImg (setRt s d v) d_ = getImg s d_ := Eq.trans rfl rfl
@[simp] theorem getOpts_setRt (s : State) (d : Die) (v : RtSt) (d_ : Die) : getOpts (setRt s d v) d_ = getOpts s d_ := Eq.trans rfl rfl
@[simp] theorem getSer_setRt (s : State) (d : Die) (v : RtSt) (d_ : Die) (c_ : Nat) : getSer (setRt s d v) d_ c_ = getSer s d_ c_ := Eq.trans rfl rfl
@[simp] theorem getFGate_setRt (s : State) (d : Die) (v : RtSt) (d_ : Die) (g_ : Nat) : getFGate (setRt s d v) d_ g_ = getFGate s d_ g_ := Eq.trans rfl rfl
@[simp] theorem getStage_setRt (s : State) (d : Die) (v : RtSt) (d_ : Die) : getStage (setRt s d v) d_ = getStage s d_ := Eq.trans rfl rfl
@[simp] theorem regRaw_setRt (s : State) (d : Die) (v : RtSt) (r_ : Reg) (d_ : Die) (i_ : Nat) : regRaw (setRt s d v) r_ d_ i_ = regRaw s r_ d_ i_ := Eq.trans rfl rfl

@[simp] theorem getCell_setImg (s : State) (d : Die) (v : ImgSt) (k_ : Nat) : getCell (setImg s d v) k_ = getCell s k_ := Eq.trans rfl rfl
@[simp] theorem getHar_setImg (s : State) (d : Die) (v : ImgSt) (d_ : Die) (h_ : Nat) : getHar (setImg s d v) d_ h_ = getHar s d_ h_ := Eq.trans rfl rfl
@[simp] theorem getReedIn_setImg (s : State) (d : Die) (v : ImgSt) (k_ : Nat) : getReedIn (setImg s d v) k_ = getReedIn s k_ := Eq.trans rfl rfl
@[simp] theorem getGate_setImg (s : State) (d : Die) (v : ImgSt) (k_ : Nat) : getGate (setImg s d v) k_ = getGate s k_ := Eq.trans rfl rfl
@[simp] theorem getScratch_setImg (s : State) (d : Die) (v : ImgSt) (ck_ : Nat) (a_ : Nat) : getScratch (setImg s d v) ck_ a_ = getScratch s ck_ a_ := Eq.trans rfl rfl
@[simp] theorem getShared_setImg (s : State) (d : Die) (v : ImgSt) (ck_ : Nat) (g_ : Nat) : getShared (setImg s d v) ck_ g_ = getShared s ck_ g_ := Eq.trans rfl rfl
@[simp] theorem getCellDraft_setImg (s : State) (d : Die) (v : ImgSt) (ck_ : Nat) (bank_ : Bool) (slot_ : Nat) : getCellDraft (setImg s d v) ck_ bank_ slot_ = getCellDraft s ck_ bank_ slot_ := Eq.trans rfl rfl
@[simp] theorem getReedDraft_setImg (s : State) (d : Die) (v : ImgSt) (d_ : Die) (h_ : Nat) (i_ : Nat) (bank_ : Bool) (slot_ : Nat) : getReedDraft (setImg s d v) d_ h_ i_ bank_ slot_ = getReedDraft s d_ h_ i_ bank_ slot_ := Eq.trans rfl rfl
@[simp] theorem getTable_setImg (s : State) (d : Die) (v : ImgSt) (d_ : Die) (h_ : Nat) (bank_ : Bool) (e_ : Nat) : getTable (setImg s d v) d_ h_ bank_ e_ = getTable s d_ h_ bank_ e_ := Eq.trans rfl rfl
@[simp] theorem getYarn_setImg (s : State) (d : Die) (v : ImgSt) (d_ : Die) (y_ : Nat) : getYarn (setImg s d v) d_ y_ = getYarn s d_ y_ := Eq.trans rfl rfl
@[simp] theorem getBob_setImg (s : State) (d : Die) (v : ImgSt) (b_ : Nat) : getBob (setImg s d v) b_ = getBob s b_ := Eq.trans rfl rfl
@[simp] theorem getBeat_setImg (s : State) (d : Die) (v : ImgSt) (d_ : Die) : getBeat (setImg s d v) d_ = getBeat s d_ := Eq.trans rfl rfl
@[simp] theorem getDom_setImg (s : State) (d : Die) (v : ImgSt) (d_ : Die) (i_ : Nat) : getDom (setImg s d v) d_ i_ = getDom s d_ i_ := Eq.trans rfl rfl
@[simp] theorem getBrd_setImg (s : State) (d : Die) (v : ImgSt) (d_ : Die) : getBrd (setImg s d v) d_ = getBrd s d_ := Eq.trans rfl rfl
@[simp] theorem getHbm_setImg (s : State) (d : Die) (v : ImgSt) (d_ : Die) : getHbm (setImg s d v) d_ = getHbm s d_ := Eq.trans rfl rfl
@[simp] theorem getMarch_setImg (s : State) (d : Die) (v : ImgSt) (d_ : Die) : getMarch (setImg s d v) d_ = getMarch s d_ := Eq.trans rfl rfl
@[simp] theorem getPort_setImg (s : State) (d : Die) (v : ImgSt) (p_ : Nat) : getPort (setImg s d v) p_ = getPort s p_ := Eq.trans rfl rfl
@[simp] theorem getRing_setImg (s : State) (d : Die) (v : ImgSt) (k_ : Nat) : getRing (setImg s d v) k_ = getRing s k_ := Eq.trans rfl rfl
@[simp] theorem getQp_setImg (s : State) (d : Die) (v : ImgSt) (q_ : Nat) : getQp (setImg s d v) q_ = getQp s q_ := Eq.trans rfl rfl
@[simp] theorem getRegion_setImg (s : State) (d : Die) (v : ImgSt) (j_ : Nat) : getRegion (setImg s d v) j_ = getRegion s j_ := Eq.trans rfl rfl
@[simp] theorem getRt_setImg (s : State) (d : Die) (v : ImgSt) (d_ : Die) : getRt (setImg s d v) d_ = getRt s d_ := Eq.trans rfl rfl
@[simp] theorem getOpts_setImg (s : State) (d : Die) (v : ImgSt) (d_ : Die) : getOpts (setImg s d v) d_ = getOpts s d_ := Eq.trans rfl rfl
@[simp] theorem getSer_setImg (s : State) (d : Die) (v : ImgSt) (d_ : Die) (c_ : Nat) : getSer (setImg s d v) d_ c_ = getSer s d_ c_ := Eq.trans rfl rfl
@[simp] theorem getFGate_setImg (s : State) (d : Die) (v : ImgSt) (d_ : Die) (g_ : Nat) : getFGate (setImg s d v) d_ g_ = getFGate s d_ g_ := Eq.trans rfl rfl
@[simp] theorem getStage_setImg (s : State) (d : Die) (v : ImgSt) (d_ : Die) : getStage (setImg s d v) d_ = getStage s d_ := Eq.trans rfl rfl
@[simp] theorem regRaw_setImg (s : State) (d : Die) (v : ImgSt) (r_ : Reg) (d_ : Die) (i_ : Nat) : regRaw (setImg s d v) r_ d_ i_ = regRaw s r_ d_ i_ := Eq.trans rfl rfl

@[simp] theorem getCell_setOpts (s : State) (d : Die) (v : Opts) (k_ : Nat) : getCell (setOpts s d v) k_ = getCell s k_ := Eq.trans rfl rfl
@[simp] theorem getHar_setOpts (s : State) (d : Die) (v : Opts) (d_ : Die) (h_ : Nat) : getHar (setOpts s d v) d_ h_ = getHar s d_ h_ := Eq.trans rfl rfl
@[simp] theorem getReedIn_setOpts (s : State) (d : Die) (v : Opts) (k_ : Nat) : getReedIn (setOpts s d v) k_ = getReedIn s k_ := Eq.trans rfl rfl
@[simp] theorem getGate_setOpts (s : State) (d : Die) (v : Opts) (k_ : Nat) : getGate (setOpts s d v) k_ = getGate s k_ := Eq.trans rfl rfl
@[simp] theorem getScratch_setOpts (s : State) (d : Die) (v : Opts) (ck_ : Nat) (a_ : Nat) : getScratch (setOpts s d v) ck_ a_ = getScratch s ck_ a_ := Eq.trans rfl rfl
@[simp] theorem getShared_setOpts (s : State) (d : Die) (v : Opts) (ck_ : Nat) (g_ : Nat) : getShared (setOpts s d v) ck_ g_ = getShared s ck_ g_ := Eq.trans rfl rfl
@[simp] theorem getCellDraft_setOpts (s : State) (d : Die) (v : Opts) (ck_ : Nat) (bank_ : Bool) (slot_ : Nat) : getCellDraft (setOpts s d v) ck_ bank_ slot_ = getCellDraft s ck_ bank_ slot_ := Eq.trans rfl rfl
@[simp] theorem getReedDraft_setOpts (s : State) (d : Die) (v : Opts) (d_ : Die) (h_ : Nat) (i_ : Nat) (bank_ : Bool) (slot_ : Nat) : getReedDraft (setOpts s d v) d_ h_ i_ bank_ slot_ = getReedDraft s d_ h_ i_ bank_ slot_ := Eq.trans rfl rfl
@[simp] theorem getTable_setOpts (s : State) (d : Die) (v : Opts) (d_ : Die) (h_ : Nat) (bank_ : Bool) (e_ : Nat) : getTable (setOpts s d v) d_ h_ bank_ e_ = getTable s d_ h_ bank_ e_ := Eq.trans rfl rfl
@[simp] theorem getYarn_setOpts (s : State) (d : Die) (v : Opts) (d_ : Die) (y_ : Nat) : getYarn (setOpts s d v) d_ y_ = getYarn s d_ y_ := Eq.trans rfl rfl
@[simp] theorem getBob_setOpts (s : State) (d : Die) (v : Opts) (b_ : Nat) : getBob (setOpts s d v) b_ = getBob s b_ := Eq.trans rfl rfl
@[simp] theorem getBeat_setOpts (s : State) (d : Die) (v : Opts) (d_ : Die) : getBeat (setOpts s d v) d_ = getBeat s d_ := Eq.trans rfl rfl
@[simp] theorem getDom_setOpts (s : State) (d : Die) (v : Opts) (d_ : Die) (i_ : Nat) : getDom (setOpts s d v) d_ i_ = getDom s d_ i_ := Eq.trans rfl rfl
@[simp] theorem getBrd_setOpts (s : State) (d : Die) (v : Opts) (d_ : Die) : getBrd (setOpts s d v) d_ = getBrd s d_ := Eq.trans rfl rfl
@[simp] theorem getHbm_setOpts (s : State) (d : Die) (v : Opts) (d_ : Die) : getHbm (setOpts s d v) d_ = getHbm s d_ := Eq.trans rfl rfl
@[simp] theorem getMarch_setOpts (s : State) (d : Die) (v : Opts) (d_ : Die) : getMarch (setOpts s d v) d_ = getMarch s d_ := Eq.trans rfl rfl
@[simp] theorem getPort_setOpts (s : State) (d : Die) (v : Opts) (p_ : Nat) : getPort (setOpts s d v) p_ = getPort s p_ := Eq.trans rfl rfl
@[simp] theorem getRing_setOpts (s : State) (d : Die) (v : Opts) (k_ : Nat) : getRing (setOpts s d v) k_ = getRing s k_ := Eq.trans rfl rfl
@[simp] theorem getQp_setOpts (s : State) (d : Die) (v : Opts) (q_ : Nat) : getQp (setOpts s d v) q_ = getQp s q_ := Eq.trans rfl rfl
@[simp] theorem getRegion_setOpts (s : State) (d : Die) (v : Opts) (j_ : Nat) : getRegion (setOpts s d v) j_ = getRegion s j_ := Eq.trans rfl rfl
@[simp] theorem getRt_setOpts (s : State) (d : Die) (v : Opts) (d_ : Die) : getRt (setOpts s d v) d_ = getRt s d_ := Eq.trans rfl rfl
@[simp] theorem getImg_setOpts (s : State) (d : Die) (v : Opts) (d_ : Die) : getImg (setOpts s d v) d_ = getImg s d_ := Eq.trans rfl rfl
@[simp] theorem getSer_setOpts (s : State) (d : Die) (v : Opts) (d_ : Die) (c_ : Nat) : getSer (setOpts s d v) d_ c_ = getSer s d_ c_ := Eq.trans rfl rfl
@[simp] theorem getFGate_setOpts (s : State) (d : Die) (v : Opts) (d_ : Die) (g_ : Nat) : getFGate (setOpts s d v) d_ g_ = getFGate s d_ g_ := Eq.trans rfl rfl
@[simp] theorem getStage_setOpts (s : State) (d : Die) (v : Opts) (d_ : Die) : getStage (setOpts s d v) d_ = getStage s d_ := Eq.trans rfl rfl
@[simp] theorem regRaw_setOpts (s : State) (d : Die) (v : Opts) (r_ : Reg) (d_ : Die) (i_ : Nat) : regRaw (setOpts s d v) r_ d_ i_ = regRaw s r_ d_ i_ := Eq.trans rfl rfl

@[simp] theorem getCell_setSer (s : State) (d : Die) (c : Nat) (v : SerSt) (k_ : Nat) : getCell (setSer s d c v) k_ = getCell s k_ := Eq.trans rfl rfl
@[simp] theorem getHar_setSer (s : State) (d : Die) (c : Nat) (v : SerSt) (d_ : Die) (h_ : Nat) : getHar (setSer s d c v) d_ h_ = getHar s d_ h_ := Eq.trans rfl rfl
@[simp] theorem getReedIn_setSer (s : State) (d : Die) (c : Nat) (v : SerSt) (k_ : Nat) : getReedIn (setSer s d c v) k_ = getReedIn s k_ := Eq.trans rfl rfl
@[simp] theorem getGate_setSer (s : State) (d : Die) (c : Nat) (v : SerSt) (k_ : Nat) : getGate (setSer s d c v) k_ = getGate s k_ := Eq.trans rfl rfl
@[simp] theorem getScratch_setSer (s : State) (d : Die) (c : Nat) (v : SerSt) (ck_ : Nat) (a_ : Nat) : getScratch (setSer s d c v) ck_ a_ = getScratch s ck_ a_ := Eq.trans rfl rfl
@[simp] theorem getShared_setSer (s : State) (d : Die) (c : Nat) (v : SerSt) (ck_ : Nat) (g_ : Nat) : getShared (setSer s d c v) ck_ g_ = getShared s ck_ g_ := Eq.trans rfl rfl
@[simp] theorem getCellDraft_setSer (s : State) (d : Die) (c : Nat) (v : SerSt) (ck_ : Nat) (bank_ : Bool) (slot_ : Nat) : getCellDraft (setSer s d c v) ck_ bank_ slot_ = getCellDraft s ck_ bank_ slot_ := Eq.trans rfl rfl
@[simp] theorem getReedDraft_setSer (s : State) (d : Die) (c : Nat) (v : SerSt) (d_ : Die) (h_ : Nat) (i_ : Nat) (bank_ : Bool) (slot_ : Nat) : getReedDraft (setSer s d c v) d_ h_ i_ bank_ slot_ = getReedDraft s d_ h_ i_ bank_ slot_ := Eq.trans rfl rfl
@[simp] theorem getTable_setSer (s : State) (d : Die) (c : Nat) (v : SerSt) (d_ : Die) (h_ : Nat) (bank_ : Bool) (e_ : Nat) : getTable (setSer s d c v) d_ h_ bank_ e_ = getTable s d_ h_ bank_ e_ := Eq.trans rfl rfl
@[simp] theorem getYarn_setSer (s : State) (d : Die) (c : Nat) (v : SerSt) (d_ : Die) (y_ : Nat) : getYarn (setSer s d c v) d_ y_ = getYarn s d_ y_ := Eq.trans rfl rfl
@[simp] theorem getBob_setSer (s : State) (d : Die) (c : Nat) (v : SerSt) (b_ : Nat) : getBob (setSer s d c v) b_ = getBob s b_ := Eq.trans rfl rfl
@[simp] theorem getBeat_setSer (s : State) (d : Die) (c : Nat) (v : SerSt) (d_ : Die) : getBeat (setSer s d c v) d_ = getBeat s d_ := Eq.trans rfl rfl
@[simp] theorem getDom_setSer (s : State) (d : Die) (c : Nat) (v : SerSt) (d_ : Die) (i_ : Nat) : getDom (setSer s d c v) d_ i_ = getDom s d_ i_ := Eq.trans rfl rfl
@[simp] theorem getBrd_setSer (s : State) (d : Die) (c : Nat) (v : SerSt) (d_ : Die) : getBrd (setSer s d c v) d_ = getBrd s d_ := Eq.trans rfl rfl
@[simp] theorem getHbm_setSer (s : State) (d : Die) (c : Nat) (v : SerSt) (d_ : Die) : getHbm (setSer s d c v) d_ = getHbm s d_ := Eq.trans rfl rfl
@[simp] theorem getMarch_setSer (s : State) (d : Die) (c : Nat) (v : SerSt) (d_ : Die) : getMarch (setSer s d c v) d_ = getMarch s d_ := Eq.trans rfl rfl
@[simp] theorem getPort_setSer (s : State) (d : Die) (c : Nat) (v : SerSt) (p_ : Nat) : getPort (setSer s d c v) p_ = getPort s p_ := Eq.trans rfl rfl
@[simp] theorem getRing_setSer (s : State) (d : Die) (c : Nat) (v : SerSt) (k_ : Nat) : getRing (setSer s d c v) k_ = getRing s k_ := Eq.trans rfl rfl
@[simp] theorem getQp_setSer (s : State) (d : Die) (c : Nat) (v : SerSt) (q_ : Nat) : getQp (setSer s d c v) q_ = getQp s q_ := Eq.trans rfl rfl
@[simp] theorem getRegion_setSer (s : State) (d : Die) (c : Nat) (v : SerSt) (j_ : Nat) : getRegion (setSer s d c v) j_ = getRegion s j_ := Eq.trans rfl rfl
@[simp] theorem getRt_setSer (s : State) (d : Die) (c : Nat) (v : SerSt) (d_ : Die) : getRt (setSer s d c v) d_ = getRt s d_ := Eq.trans rfl rfl
@[simp] theorem getImg_setSer (s : State) (d : Die) (c : Nat) (v : SerSt) (d_ : Die) : getImg (setSer s d c v) d_ = getImg s d_ := Eq.trans rfl rfl
@[simp] theorem getOpts_setSer (s : State) (d : Die) (c : Nat) (v : SerSt) (d_ : Die) : getOpts (setSer s d c v) d_ = getOpts s d_ := Eq.trans rfl rfl
@[simp] theorem getFGate_setSer (s : State) (d : Die) (c : Nat) (v : SerSt) (d_ : Die) (g_ : Nat) : getFGate (setSer s d c v) d_ g_ = getFGate s d_ g_ := Eq.trans rfl rfl
@[simp] theorem getStage_setSer (s : State) (d : Die) (c : Nat) (v : SerSt) (d_ : Die) : getStage (setSer s d c v) d_ = getStage s d_ := Eq.trans rfl rfl
@[simp] theorem regRaw_setSer (s : State) (d : Die) (c : Nat) (v : SerSt) (r_ : Reg) (d_ : Die) (i_ : Nat) : regRaw (setSer s d c v) r_ d_ i_ = regRaw s r_ d_ i_ := Eq.trans rfl rfl

@[simp] theorem getCell_setFGate (s : State) (d : Die) (g : Nat) (v : FGate) (k_ : Nat) : getCell (setFGate s d g v) k_ = getCell s k_ := Eq.trans rfl rfl
@[simp] theorem getHar_setFGate (s : State) (d : Die) (g : Nat) (v : FGate) (d_ : Die) (h_ : Nat) : getHar (setFGate s d g v) d_ h_ = getHar s d_ h_ := Eq.trans rfl rfl
@[simp] theorem getReedIn_setFGate (s : State) (d : Die) (g : Nat) (v : FGate) (k_ : Nat) : getReedIn (setFGate s d g v) k_ = getReedIn s k_ := Eq.trans rfl rfl
@[simp] theorem getGate_setFGate (s : State) (d : Die) (g : Nat) (v : FGate) (k_ : Nat) : getGate (setFGate s d g v) k_ = getGate s k_ := Eq.trans rfl rfl
@[simp] theorem getScratch_setFGate (s : State) (d : Die) (g : Nat) (v : FGate) (ck_ : Nat) (a_ : Nat) : getScratch (setFGate s d g v) ck_ a_ = getScratch s ck_ a_ := Eq.trans rfl rfl
@[simp] theorem getShared_setFGate (s : State) (d : Die) (g : Nat) (v : FGate) (ck_ : Nat) (g_ : Nat) : getShared (setFGate s d g v) ck_ g_ = getShared s ck_ g_ := Eq.trans rfl rfl
@[simp] theorem getCellDraft_setFGate (s : State) (d : Die) (g : Nat) (v : FGate) (ck_ : Nat) (bank_ : Bool) (slot_ : Nat) : getCellDraft (setFGate s d g v) ck_ bank_ slot_ = getCellDraft s ck_ bank_ slot_ := Eq.trans rfl rfl
@[simp] theorem getReedDraft_setFGate (s : State) (d : Die) (g : Nat) (v : FGate) (d_ : Die) (h_ : Nat) (i_ : Nat) (bank_ : Bool) (slot_ : Nat) : getReedDraft (setFGate s d g v) d_ h_ i_ bank_ slot_ = getReedDraft s d_ h_ i_ bank_ slot_ := Eq.trans rfl rfl
@[simp] theorem getTable_setFGate (s : State) (d : Die) (g : Nat) (v : FGate) (d_ : Die) (h_ : Nat) (bank_ : Bool) (e_ : Nat) : getTable (setFGate s d g v) d_ h_ bank_ e_ = getTable s d_ h_ bank_ e_ := Eq.trans rfl rfl
@[simp] theorem getYarn_setFGate (s : State) (d : Die) (g : Nat) (v : FGate) (d_ : Die) (y_ : Nat) : getYarn (setFGate s d g v) d_ y_ = getYarn s d_ y_ := Eq.trans rfl rfl
@[simp] theorem getBob_setFGate (s : State) (d : Die) (g : Nat) (v : FGate) (b_ : Nat) : getBob (setFGate s d g v) b_ = getBob s b_ := Eq.trans rfl rfl
@[simp] theorem getBeat_setFGate (s : State) (d : Die) (g : Nat) (v : FGate) (d_ : Die) : getBeat (setFGate s d g v) d_ = getBeat s d_ := Eq.trans rfl rfl
@[simp] theorem getDom_setFGate (s : State) (d : Die) (g : Nat) (v : FGate) (d_ : Die) (i_ : Nat) : getDom (setFGate s d g v) d_ i_ = getDom s d_ i_ := Eq.trans rfl rfl
@[simp] theorem getBrd_setFGate (s : State) (d : Die) (g : Nat) (v : FGate) (d_ : Die) : getBrd (setFGate s d g v) d_ = getBrd s d_ := Eq.trans rfl rfl
@[simp] theorem getHbm_setFGate (s : State) (d : Die) (g : Nat) (v : FGate) (d_ : Die) : getHbm (setFGate s d g v) d_ = getHbm s d_ := Eq.trans rfl rfl
@[simp] theorem getMarch_setFGate (s : State) (d : Die) (g : Nat) (v : FGate) (d_ : Die) : getMarch (setFGate s d g v) d_ = getMarch s d_ := Eq.trans rfl rfl
@[simp] theorem getPort_setFGate (s : State) (d : Die) (g : Nat) (v : FGate) (p_ : Nat) : getPort (setFGate s d g v) p_ = getPort s p_ := Eq.trans rfl rfl
@[simp] theorem getRing_setFGate (s : State) (d : Die) (g : Nat) (v : FGate) (k_ : Nat) : getRing (setFGate s d g v) k_ = getRing s k_ := Eq.trans rfl rfl
@[simp] theorem getQp_setFGate (s : State) (d : Die) (g : Nat) (v : FGate) (q_ : Nat) : getQp (setFGate s d g v) q_ = getQp s q_ := Eq.trans rfl rfl
@[simp] theorem getRegion_setFGate (s : State) (d : Die) (g : Nat) (v : FGate) (j_ : Nat) : getRegion (setFGate s d g v) j_ = getRegion s j_ := Eq.trans rfl rfl
@[simp] theorem getRt_setFGate (s : State) (d : Die) (g : Nat) (v : FGate) (d_ : Die) : getRt (setFGate s d g v) d_ = getRt s d_ := Eq.trans rfl rfl
@[simp] theorem getImg_setFGate (s : State) (d : Die) (g : Nat) (v : FGate) (d_ : Die) : getImg (setFGate s d g v) d_ = getImg s d_ := Eq.trans rfl rfl
@[simp] theorem getOpts_setFGate (s : State) (d : Die) (g : Nat) (v : FGate) (d_ : Die) : getOpts (setFGate s d g v) d_ = getOpts s d_ := Eq.trans rfl rfl
@[simp] theorem getSer_setFGate (s : State) (d : Die) (g : Nat) (v : FGate) (d_ : Die) (c_ : Nat) : getSer (setFGate s d g v) d_ c_ = getSer s d_ c_ := Eq.trans rfl rfl
@[simp] theorem getStage_setFGate (s : State) (d : Die) (g : Nat) (v : FGate) (d_ : Die) : getStage (setFGate s d g v) d_ = getStage s d_ := Eq.trans rfl rfl
@[simp] theorem regRaw_setFGate (s : State) (d : Die) (g : Nat) (v : FGate) (r_ : Reg) (d_ : Die) (i_ : Nat) : regRaw (setFGate s d g v) r_ d_ i_ = regRaw s r_ d_ i_ := Eq.trans rfl rfl

@[simp] theorem getCell_setStage (s : State) (d : Die) (v : Nat) (k_ : Nat) : getCell (setStage s d v) k_ = getCell s k_ := Eq.trans rfl rfl
@[simp] theorem getHar_setStage (s : State) (d : Die) (v : Nat) (d_ : Die) (h_ : Nat) : getHar (setStage s d v) d_ h_ = getHar s d_ h_ := Eq.trans rfl rfl
@[simp] theorem getReedIn_setStage (s : State) (d : Die) (v : Nat) (k_ : Nat) : getReedIn (setStage s d v) k_ = getReedIn s k_ := Eq.trans rfl rfl
@[simp] theorem getGate_setStage (s : State) (d : Die) (v : Nat) (k_ : Nat) : getGate (setStage s d v) k_ = getGate s k_ := Eq.trans rfl rfl
@[simp] theorem getScratch_setStage (s : State) (d : Die) (v : Nat) (ck_ : Nat) (a_ : Nat) : getScratch (setStage s d v) ck_ a_ = getScratch s ck_ a_ := Eq.trans rfl rfl
@[simp] theorem getShared_setStage (s : State) (d : Die) (v : Nat) (ck_ : Nat) (g_ : Nat) : getShared (setStage s d v) ck_ g_ = getShared s ck_ g_ := Eq.trans rfl rfl
@[simp] theorem getCellDraft_setStage (s : State) (d : Die) (v : Nat) (ck_ : Nat) (bank_ : Bool) (slot_ : Nat) : getCellDraft (setStage s d v) ck_ bank_ slot_ = getCellDraft s ck_ bank_ slot_ := Eq.trans rfl rfl
@[simp] theorem getReedDraft_setStage (s : State) (d : Die) (v : Nat) (d_ : Die) (h_ : Nat) (i_ : Nat) (bank_ : Bool) (slot_ : Nat) : getReedDraft (setStage s d v) d_ h_ i_ bank_ slot_ = getReedDraft s d_ h_ i_ bank_ slot_ := Eq.trans rfl rfl
@[simp] theorem getTable_setStage (s : State) (d : Die) (v : Nat) (d_ : Die) (h_ : Nat) (bank_ : Bool) (e_ : Nat) : getTable (setStage s d v) d_ h_ bank_ e_ = getTable s d_ h_ bank_ e_ := Eq.trans rfl rfl
@[simp] theorem getYarn_setStage (s : State) (d : Die) (v : Nat) (d_ : Die) (y_ : Nat) : getYarn (setStage s d v) d_ y_ = getYarn s d_ y_ := Eq.trans rfl rfl
@[simp] theorem getBob_setStage (s : State) (d : Die) (v : Nat) (b_ : Nat) : getBob (setStage s d v) b_ = getBob s b_ := Eq.trans rfl rfl
@[simp] theorem getBeat_setStage (s : State) (d : Die) (v : Nat) (d_ : Die) : getBeat (setStage s d v) d_ = getBeat s d_ := Eq.trans rfl rfl
@[simp] theorem getDom_setStage (s : State) (d : Die) (v : Nat) (d_ : Die) (i_ : Nat) : getDom (setStage s d v) d_ i_ = getDom s d_ i_ := Eq.trans rfl rfl
@[simp] theorem getBrd_setStage (s : State) (d : Die) (v : Nat) (d_ : Die) : getBrd (setStage s d v) d_ = getBrd s d_ := Eq.trans rfl rfl
@[simp] theorem getHbm_setStage (s : State) (d : Die) (v : Nat) (d_ : Die) : getHbm (setStage s d v) d_ = getHbm s d_ := Eq.trans rfl rfl
@[simp] theorem getMarch_setStage (s : State) (d : Die) (v : Nat) (d_ : Die) : getMarch (setStage s d v) d_ = getMarch s d_ := Eq.trans rfl rfl
@[simp] theorem getPort_setStage (s : State) (d : Die) (v : Nat) (p_ : Nat) : getPort (setStage s d v) p_ = getPort s p_ := Eq.trans rfl rfl
@[simp] theorem getRing_setStage (s : State) (d : Die) (v : Nat) (k_ : Nat) : getRing (setStage s d v) k_ = getRing s k_ := Eq.trans rfl rfl
@[simp] theorem getQp_setStage (s : State) (d : Die) (v : Nat) (q_ : Nat) : getQp (setStage s d v) q_ = getQp s q_ := Eq.trans rfl rfl
@[simp] theorem getRegion_setStage (s : State) (d : Die) (v : Nat) (j_ : Nat) : getRegion (setStage s d v) j_ = getRegion s j_ := Eq.trans rfl rfl
@[simp] theorem getRt_setStage (s : State) (d : Die) (v : Nat) (d_ : Die) : getRt (setStage s d v) d_ = getRt s d_ := Eq.trans rfl rfl
@[simp] theorem getImg_setStage (s : State) (d : Die) (v : Nat) (d_ : Die) : getImg (setStage s d v) d_ = getImg s d_ := Eq.trans rfl rfl
@[simp] theorem getOpts_setStage (s : State) (d : Die) (v : Nat) (d_ : Die) : getOpts (setStage s d v) d_ = getOpts s d_ := Eq.trans rfl rfl
@[simp] theorem getSer_setStage (s : State) (d : Die) (v : Nat) (d_ : Die) (c_ : Nat) : getSer (setStage s d v) d_ c_ = getSer s d_ c_ := Eq.trans rfl rfl
@[simp] theorem getFGate_setStage (s : State) (d : Die) (v : Nat) (d_ : Die) (g_ : Nat) : getFGate (setStage s d v) d_ g_ = getFGate s d_ g_ := Eq.trans rfl rfl
@[simp] theorem regRaw_setStage (s : State) (d : Die) (v : Nat) (r_ : Reg) (d_ : Die) (i_ : Nat) : regRaw (setStage s d v) r_ d_ i_ = regRaw s r_ d_ i_ := Eq.trans rfl rfl

@[simp] theorem getCell_setReg (s : State) (r : Reg) (d : Die) (i : Nat) (v : Word) (k_ : Nat) : getCell (setReg s r d i v) k_ = getCell s k_ := Eq.trans rfl rfl
@[simp] theorem getHar_setReg (s : State) (r : Reg) (d : Die) (i : Nat) (v : Word) (d_ : Die) (h_ : Nat) : getHar (setReg s r d i v) d_ h_ = getHar s d_ h_ := Eq.trans rfl rfl
@[simp] theorem getReedIn_setReg (s : State) (r : Reg) (d : Die) (i : Nat) (v : Word) (k_ : Nat) : getReedIn (setReg s r d i v) k_ = getReedIn s k_ := Eq.trans rfl rfl
@[simp] theorem getGate_setReg (s : State) (r : Reg) (d : Die) (i : Nat) (v : Word) (k_ : Nat) : getGate (setReg s r d i v) k_ = getGate s k_ := Eq.trans rfl rfl
@[simp] theorem getScratch_setReg (s : State) (r : Reg) (d : Die) (i : Nat) (v : Word) (ck_ : Nat) (a_ : Nat) : getScratch (setReg s r d i v) ck_ a_ = getScratch s ck_ a_ := Eq.trans rfl rfl
@[simp] theorem getShared_setReg (s : State) (r : Reg) (d : Die) (i : Nat) (v : Word) (ck_ : Nat) (g_ : Nat) : getShared (setReg s r d i v) ck_ g_ = getShared s ck_ g_ := Eq.trans rfl rfl
@[simp] theorem getCellDraft_setReg (s : State) (r : Reg) (d : Die) (i : Nat) (v : Word) (ck_ : Nat) (bank_ : Bool) (slot_ : Nat) : getCellDraft (setReg s r d i v) ck_ bank_ slot_ = getCellDraft s ck_ bank_ slot_ := Eq.trans rfl rfl
@[simp] theorem getReedDraft_setReg (s : State) (r : Reg) (d : Die) (i : Nat) (v : Word) (d_ : Die) (h_ : Nat) (i_ : Nat) (bank_ : Bool) (slot_ : Nat) : getReedDraft (setReg s r d i v) d_ h_ i_ bank_ slot_ = getReedDraft s d_ h_ i_ bank_ slot_ := Eq.trans rfl rfl
@[simp] theorem getTable_setReg (s : State) (r : Reg) (d : Die) (i : Nat) (v : Word) (d_ : Die) (h_ : Nat) (bank_ : Bool) (e_ : Nat) : getTable (setReg s r d i v) d_ h_ bank_ e_ = getTable s d_ h_ bank_ e_ := Eq.trans rfl rfl
@[simp] theorem getYarn_setReg (s : State) (r : Reg) (d : Die) (i : Nat) (v : Word) (d_ : Die) (y_ : Nat) : getYarn (setReg s r d i v) d_ y_ = getYarn s d_ y_ := Eq.trans rfl rfl
@[simp] theorem getBob_setReg (s : State) (r : Reg) (d : Die) (i : Nat) (v : Word) (b_ : Nat) : getBob (setReg s r d i v) b_ = getBob s b_ := Eq.trans rfl rfl
@[simp] theorem getBeat_setReg (s : State) (r : Reg) (d : Die) (i : Nat) (v : Word) (d_ : Die) : getBeat (setReg s r d i v) d_ = getBeat s d_ := Eq.trans rfl rfl
@[simp] theorem getDom_setReg (s : State) (r : Reg) (d : Die) (i : Nat) (v : Word) (d_ : Die) (i_ : Nat) : getDom (setReg s r d i v) d_ i_ = getDom s d_ i_ := Eq.trans rfl rfl
@[simp] theorem getBrd_setReg (s : State) (r : Reg) (d : Die) (i : Nat) (v : Word) (d_ : Die) : getBrd (setReg s r d i v) d_ = getBrd s d_ := Eq.trans rfl rfl
@[simp] theorem getHbm_setReg (s : State) (r : Reg) (d : Die) (i : Nat) (v : Word) (d_ : Die) : getHbm (setReg s r d i v) d_ = getHbm s d_ := Eq.trans rfl rfl
@[simp] theorem getMarch_setReg (s : State) (r : Reg) (d : Die) (i : Nat) (v : Word) (d_ : Die) : getMarch (setReg s r d i v) d_ = getMarch s d_ := Eq.trans rfl rfl
@[simp] theorem getPort_setReg (s : State) (r : Reg) (d : Die) (i : Nat) (v : Word) (p_ : Nat) : getPort (setReg s r d i v) p_ = getPort s p_ := Eq.trans rfl rfl
@[simp] theorem getRing_setReg (s : State) (r : Reg) (d : Die) (i : Nat) (v : Word) (k_ : Nat) : getRing (setReg s r d i v) k_ = getRing s k_ := Eq.trans rfl rfl
@[simp] theorem getQp_setReg (s : State) (r : Reg) (d : Die) (i : Nat) (v : Word) (q_ : Nat) : getQp (setReg s r d i v) q_ = getQp s q_ := Eq.trans rfl rfl
@[simp] theorem getRegion_setReg (s : State) (r : Reg) (d : Die) (i : Nat) (v : Word) (j_ : Nat) : getRegion (setReg s r d i v) j_ = getRegion s j_ := Eq.trans rfl rfl
@[simp] theorem getRt_setReg (s : State) (r : Reg) (d : Die) (i : Nat) (v : Word) (d_ : Die) : getRt (setReg s r d i v) d_ = getRt s d_ := Eq.trans rfl rfl
@[simp] theorem getImg_setReg (s : State) (r : Reg) (d : Die) (i : Nat) (v : Word) (d_ : Die) : getImg (setReg s r d i v) d_ = getImg s d_ := Eq.trans rfl rfl
@[simp] theorem getOpts_setReg (s : State) (r : Reg) (d : Die) (i : Nat) (v : Word) (d_ : Die) : getOpts (setReg s r d i v) d_ = getOpts s d_ := Eq.trans rfl rfl
@[simp] theorem getSer_setReg (s : State) (r : Reg) (d : Die) (i : Nat) (v : Word) (d_ : Die) (c_ : Nat) : getSer (setReg s r d i v) d_ c_ = getSer s d_ c_ := Eq.trans rfl rfl
@[simp] theorem getFGate_setReg (s : State) (r : Reg) (d : Die) (i : Nat) (v : Word) (d_ : Die) (g_ : Nat) : getFGate (setReg s r d i v) d_ g_ = getFGate s d_ g_ := Eq.trans rfl rfl
@[simp] theorem getStage_setReg (s : State) (r : Reg) (d : Die) (i : Nat) (v : Word) (d_ : Die) : getStage (setReg s r d i v) d_ = getStage s d_ := Eq.trans rfl rfl

@[simp] theorem getCell_emit (s : State) (o : Output) (k_ : Nat) : getCell (emit s o) k_ = getCell s k_ := Eq.trans rfl rfl
@[simp] theorem getHar_emit (s : State) (o : Output) (d_ : Die) (h_ : Nat) : getHar (emit s o) d_ h_ = getHar s d_ h_ := Eq.trans rfl rfl
@[simp] theorem getReedIn_emit (s : State) (o : Output) (k_ : Nat) : getReedIn (emit s o) k_ = getReedIn s k_ := Eq.trans rfl rfl
@[simp] theorem getGate_emit (s : State) (o : Output) (k_ : Nat) : getGate (emit s o) k_ = getGate s k_ := Eq.trans rfl rfl
@[simp] theorem getScratch_emit (s : State) (o : Output) (ck_ : Nat) (a_ : Nat) : getScratch (emit s o) ck_ a_ = getScratch s ck_ a_ := Eq.trans rfl rfl
@[simp] theorem getShared_emit (s : State) (o : Output) (ck_ : Nat) (g_ : Nat) : getShared (emit s o) ck_ g_ = getShared s ck_ g_ := Eq.trans rfl rfl
@[simp] theorem getCellDraft_emit (s : State) (o : Output) (ck_ : Nat) (bank_ : Bool) (slot_ : Nat) : getCellDraft (emit s o) ck_ bank_ slot_ = getCellDraft s ck_ bank_ slot_ := Eq.trans rfl rfl
@[simp] theorem getReedDraft_emit (s : State) (o : Output) (d_ : Die) (h_ : Nat) (i_ : Nat) (bank_ : Bool) (slot_ : Nat) : getReedDraft (emit s o) d_ h_ i_ bank_ slot_ = getReedDraft s d_ h_ i_ bank_ slot_ := Eq.trans rfl rfl
@[simp] theorem getTable_emit (s : State) (o : Output) (d_ : Die) (h_ : Nat) (bank_ : Bool) (e_ : Nat) : getTable (emit s o) d_ h_ bank_ e_ = getTable s d_ h_ bank_ e_ := Eq.trans rfl rfl
@[simp] theorem getYarn_emit (s : State) (o : Output) (d_ : Die) (y_ : Nat) : getYarn (emit s o) d_ y_ = getYarn s d_ y_ := Eq.trans rfl rfl
@[simp] theorem getBob_emit (s : State) (o : Output) (b_ : Nat) : getBob (emit s o) b_ = getBob s b_ := Eq.trans rfl rfl
@[simp] theorem getBeat_emit (s : State) (o : Output) (d_ : Die) : getBeat (emit s o) d_ = getBeat s d_ := Eq.trans rfl rfl
@[simp] theorem getDom_emit (s : State) (o : Output) (d_ : Die) (i_ : Nat) : getDom (emit s o) d_ i_ = getDom s d_ i_ := Eq.trans rfl rfl
@[simp] theorem getBrd_emit (s : State) (o : Output) (d_ : Die) : getBrd (emit s o) d_ = getBrd s d_ := Eq.trans rfl rfl
@[simp] theorem getHbm_emit (s : State) (o : Output) (d_ : Die) : getHbm (emit s o) d_ = getHbm s d_ := Eq.trans rfl rfl
@[simp] theorem getMarch_emit (s : State) (o : Output) (d_ : Die) : getMarch (emit s o) d_ = getMarch s d_ := Eq.trans rfl rfl
@[simp] theorem getPort_emit (s : State) (o : Output) (p_ : Nat) : getPort (emit s o) p_ = getPort s p_ := Eq.trans rfl rfl
@[simp] theorem getRing_emit (s : State) (o : Output) (k_ : Nat) : getRing (emit s o) k_ = getRing s k_ := Eq.trans rfl rfl
@[simp] theorem getQp_emit (s : State) (o : Output) (q_ : Nat) : getQp (emit s o) q_ = getQp s q_ := Eq.trans rfl rfl
@[simp] theorem getRegion_emit (s : State) (o : Output) (j_ : Nat) : getRegion (emit s o) j_ = getRegion s j_ := Eq.trans rfl rfl
@[simp] theorem getRt_emit (s : State) (o : Output) (d_ : Die) : getRt (emit s o) d_ = getRt s d_ := Eq.trans rfl rfl
@[simp] theorem getImg_emit (s : State) (o : Output) (d_ : Die) : getImg (emit s o) d_ = getImg s d_ := Eq.trans rfl rfl
@[simp] theorem getOpts_emit (s : State) (o : Output) (d_ : Die) : getOpts (emit s o) d_ = getOpts s d_ := Eq.trans rfl rfl
@[simp] theorem getSer_emit (s : State) (o : Output) (d_ : Die) (c_ : Nat) : getSer (emit s o) d_ c_ = getSer s d_ c_ := Eq.trans rfl rfl
@[simp] theorem getFGate_emit (s : State) (o : Output) (d_ : Die) (g_ : Nat) : getFGate (emit s o) d_ g_ = getFGate s d_ g_ := Eq.trans rfl rfl
@[simp] theorem getStage_emit (s : State) (o : Output) (d_ : Die) : getStage (emit s o) d_ = getStage s d_ := Eq.trans rfl rfl
@[simp] theorem regRaw_emit (s : State) (o : Output) (r_ : Reg) (d_ : Die) (i_ : Nat) : regRaw (emit s o) r_ d_ i_ = regRaw s r_ d_ i_ := Eq.trans rfl rfl

@[simp] theorem getCell_setF (s : State) (f : Fld) (d : Die) (i : Nat) (v : Nat) (k_ : Nat) : getCell (setF s f d i v) k_ = getCell s k_ := Eq.trans rfl rfl
@[simp] theorem getHar_setF (s : State) (f : Fld) (d : Die) (i : Nat) (v : Nat) (d_ : Die) (h_ : Nat) : getHar (setF s f d i v) d_ h_ = getHar s d_ h_ := Eq.trans rfl rfl
@[simp] theorem getReedIn_setF (s : State) (f : Fld) (d : Die) (i : Nat) (v : Nat) (k_ : Nat) : getReedIn (setF s f d i v) k_ = getReedIn s k_ := Eq.trans rfl rfl
@[simp] theorem getGate_setF (s : State) (f : Fld) (d : Die) (i : Nat) (v : Nat) (k_ : Nat) : getGate (setF s f d i v) k_ = getGate s k_ := Eq.trans rfl rfl
@[simp] theorem getScratch_setF (s : State) (f : Fld) (d : Die) (i : Nat) (v : Nat) (ck_ : Nat) (a_ : Nat) : getScratch (setF s f d i v) ck_ a_ = getScratch s ck_ a_ := Eq.trans rfl rfl
@[simp] theorem getShared_setF (s : State) (f : Fld) (d : Die) (i : Nat) (v : Nat) (ck_ : Nat) (g_ : Nat) : getShared (setF s f d i v) ck_ g_ = getShared s ck_ g_ := Eq.trans rfl rfl
@[simp] theorem getCellDraft_setF (s : State) (f : Fld) (d : Die) (i : Nat) (v : Nat) (ck_ : Nat) (bank_ : Bool) (slot_ : Nat) : getCellDraft (setF s f d i v) ck_ bank_ slot_ = getCellDraft s ck_ bank_ slot_ := Eq.trans rfl rfl
@[simp] theorem getReedDraft_setF (s : State) (f : Fld) (d : Die) (i : Nat) (v : Nat) (d_ : Die) (h_ : Nat) (i_ : Nat) (bank_ : Bool) (slot_ : Nat) : getReedDraft (setF s f d i v) d_ h_ i_ bank_ slot_ = getReedDraft s d_ h_ i_ bank_ slot_ := Eq.trans rfl rfl
@[simp] theorem getTable_setF (s : State) (f : Fld) (d : Die) (i : Nat) (v : Nat) (d_ : Die) (h_ : Nat) (bank_ : Bool) (e_ : Nat) : getTable (setF s f d i v) d_ h_ bank_ e_ = getTable s d_ h_ bank_ e_ := Eq.trans rfl rfl
@[simp] theorem getYarn_setF (s : State) (f : Fld) (d : Die) (i : Nat) (v : Nat) (d_ : Die) (y_ : Nat) : getYarn (setF s f d i v) d_ y_ = getYarn s d_ y_ := Eq.trans rfl rfl
@[simp] theorem getBob_setF (s : State) (f : Fld) (d : Die) (i : Nat) (v : Nat) (b_ : Nat) : getBob (setF s f d i v) b_ = getBob s b_ := Eq.trans rfl rfl
@[simp] theorem getBeat_setF (s : State) (f : Fld) (d : Die) (i : Nat) (v : Nat) (d_ : Die) : getBeat (setF s f d i v) d_ = getBeat s d_ := Eq.trans rfl rfl
@[simp] theorem getDom_setF (s : State) (f : Fld) (d : Die) (i : Nat) (v : Nat) (d_ : Die) (i_ : Nat) : getDom (setF s f d i v) d_ i_ = getDom s d_ i_ := Eq.trans rfl rfl
@[simp] theorem getBrd_setF (s : State) (f : Fld) (d : Die) (i : Nat) (v : Nat) (d_ : Die) : getBrd (setF s f d i v) d_ = getBrd s d_ := Eq.trans rfl rfl
@[simp] theorem getHbm_setF (s : State) (f : Fld) (d : Die) (i : Nat) (v : Nat) (d_ : Die) : getHbm (setF s f d i v) d_ = getHbm s d_ := Eq.trans rfl rfl
@[simp] theorem getMarch_setF (s : State) (f : Fld) (d : Die) (i : Nat) (v : Nat) (d_ : Die) : getMarch (setF s f d i v) d_ = getMarch s d_ := Eq.trans rfl rfl
@[simp] theorem getPort_setF (s : State) (f : Fld) (d : Die) (i : Nat) (v : Nat) (p_ : Nat) : getPort (setF s f d i v) p_ = getPort s p_ := Eq.trans rfl rfl
@[simp] theorem getRing_setF (s : State) (f : Fld) (d : Die) (i : Nat) (v : Nat) (k_ : Nat) : getRing (setF s f d i v) k_ = getRing s k_ := Eq.trans rfl rfl
@[simp] theorem getQp_setF (s : State) (f : Fld) (d : Die) (i : Nat) (v : Nat) (q_ : Nat) : getQp (setF s f d i v) q_ = getQp s q_ := Eq.trans rfl rfl
@[simp] theorem getRegion_setF (s : State) (f : Fld) (d : Die) (i : Nat) (v : Nat) (j_ : Nat) : getRegion (setF s f d i v) j_ = getRegion s j_ := Eq.trans rfl rfl
@[simp] theorem getRt_setF (s : State) (f : Fld) (d : Die) (i : Nat) (v : Nat) (d_ : Die) : getRt (setF s f d i v) d_ = getRt s d_ := Eq.trans rfl rfl
@[simp] theorem getImg_setF (s : State) (f : Fld) (d : Die) (i : Nat) (v : Nat) (d_ : Die) : getImg (setF s f d i v) d_ = getImg s d_ := Eq.trans rfl rfl
@[simp] theorem getOpts_setF (s : State) (f : Fld) (d : Die) (i : Nat) (v : Nat) (d_ : Die) : getOpts (setF s f d i v) d_ = getOpts s d_ := Eq.trans rfl rfl
@[simp] theorem getSer_setF (s : State) (f : Fld) (d : Die) (i : Nat) (v : Nat) (d_ : Die) (c_ : Nat) : getSer (setF s f d i v) d_ c_ = getSer s d_ c_ := Eq.trans rfl rfl
@[simp] theorem getFGate_setF (s : State) (f : Fld) (d : Die) (i : Nat) (v : Nat) (d_ : Die) (g_ : Nat) : getFGate (setF s f d i v) d_ g_ = getFGate s d_ g_ := Eq.trans rfl rfl
@[simp] theorem getStage_setF (s : State) (f : Fld) (d : Die) (i : Nat) (v : Nat) (d_ : Die) : getStage (setF s f d i v) d_ = getStage s d_ := Eq.trans rfl rfl

end Sys2Proof.Machine
end

