-- ==== Sys2Proof/Laws/Registers.lean ====
section
/-! SUPPORT. The fields of a register: no two fields of a register overlap, and what a write by the access codes leaves in each
field (R8, R10, R11). -/

namespace Sys2Proof.Machine

/-- A field fits its width. -/
theorem bitsOf_lt (v hi lo : Nat) : bitsOf v hi lo < 2 ^ (hi + 1 - lo) := Nat.mod_lt _ (by positivity)

/-- The bits of a field. -/
theorem testBit_bitsOf (v hi lo i : Nat) : (bitsOf v hi lo).testBit i = (decide (lo + i ≤ hi) && v.testBit (lo + i)) := by
  unfold bitsOf
  rw [Nat.testBit_mod_two_pow, Nat.testBit_div_two_pow]
  congr 1
  · simp; omega
  · rw [Nat.add_comm]

/-- Fields that do not overlap: what is stored for each reads back as it. -/
theorem getLsbD_fields (g : FieldSpec → Nat) (fs : List FieldSpec) (hfs : ∀ f ∈ fs, f.lo ≤ f.hi ∧ f.hi < 32 ∧ g f < 2 ^ (f.hi +
    1 - f.lo))
    (hd : fs.Pairwise (fun f g => f.hi < g.lo ∨ g.hi < f.lo)) (n : Nat)
    (hn : ∀ f ∈ fs, ∀ i, f.lo ≤ i → i ≤ f.hi → (BitVec.ofNat 32 n).getLsbD i = false) (i : Nat) :
    (BitVec.ofNat 32 (fs.foldl (fun n f => n + g f * 2 ^ f.lo) n)).getLsbD i =
      ((BitVec.ofNat 32 n).getLsbD i || fs.any (fun f => decide (f.lo ≤ i) && decide (i ≤ f.hi) && (g f).testBit (i - f.lo)))
          := by
  induction fs generalizing n with
  | nil => simp
  | cons f fs ih =>
    have hf := hfs f (by simp)
    have key : ∀ j, (BitVec.ofNat 32 (n + g f * 2 ^ f.lo)).getLsbD j =
        ((BitVec.ofNat 32 n).getLsbD j || (decide (f.lo ≤ j) && decide (j ≤ f.hi) && (g f).testBit (j - f.lo))) := by
      have sh : ∀ j, (BitVec.ofNat 32 (g f * 2 ^ f.lo)).getLsbD j = (decide (f.lo ≤ j) && decide (j ≤ f.hi) && (g f).testBit (j
          - f.lo)) := by
        intro j
        rw [BitVec.getLsbD_ofNat, Nat.testBit_mul_two_pow]
        by_cases h1 : f.lo ≤ j
        · by_cases h2 : j ≤ f.hi
          · simp [h1, h2]; omega
          · have : (g f).testBit (j - f.lo) = false := Nat.testBit_lt_two_pow (lt_of_lt_of_le hf.2.2 (Nat.pow_le_pow_right (by
              decide) (by omega)))
            simp [this]
        · simp [h1]
      intro j
      have e : BitVec.ofNat 32 (n + g f * 2 ^ f.lo) = BitVec.ofNat 32 n ||| BitVec.ofNat 32 (g f * 2 ^ f.lo) := by
        rw [BitVec.ofNat_add, BitVec.add_eq_or_of_and_eq_zero]
        ext k hk
        have h1 := hn f (by simp) k
        have h2 := sh k
        rw [BitVec.getElem_and, ← BitVec.getLsbD_eq_getElem, ← BitVec.getLsbD_eq_getElem, h2]
        by_cases ab : f.lo ≤ k ∧ k ≤ f.hi
        · rw [h1 ab.1 ab.2]; simp
        · have : (decide (f.lo ≤ k) && decide (k ≤ f.hi)) = false := by simpa using ab
          rw [this]; simp
      rw [e, BitVec.getLsbD_or, sh]
    rw [List.foldl_cons, ih (fun x hx => hfs x (by simp [hx])) (List.pairwise_cons.mp hd).2]
    · rw [key, List.any_cons, Bool.or_assoc]
    · intro x hx j h1 h2
      rw [key, hn x (by simp [hx]) j h1 h2]
      have := (List.pairwise_cons.mp hd).1 x hx
      have : ¬ (f.lo ≤ j ∧ j ≤ f.hi) := by omega
      by_cases a : f.lo ≤ j <;> by_cases b : j ≤ f.hi <;> simp_all

/-- Two fields of a register do not overlap. -/
theorem fields_apart {fs : List FieldSpec} (hd : fs.Pairwise (fun f g => f.hi < g.lo ∨ g.hi < f.lo)) {a b : FieldSpec}
    (ha : a ∈ fs) (hb : b ∈ fs) (hne : a ≠ b) : a.hi < b.lo ∨ b.hi < a.lo := by
  induction fs with
  | nil => cases ha
  | cons f fs ih =>
    obtain ⟨h1, h2⟩ := List.pairwise_cons.mp hd
    rcases List.mem_cons.mp ha with rfl | ka <;> rcases List.mem_cons.mp hb with rfl | kb
    · exact absurd rfl hne
    · exact h1 _ kb
    · exact (h1 _ ka).symm
    · exact ih h2 ka kb

/-- What is stored for a field reads back as it. -/
theorem bitsOf_fields (g : FieldSpec → Nat) (fs : List FieldSpec) (hfs : ∀ f ∈ fs, f.lo ≤ f.hi ∧ f.hi < 32 ∧ g f < 2 ^ (f.hi +
    1 - f.lo))
    (hd : fs.Pairwise (fun f g => f.hi < g.lo ∨ g.hi < f.lo)) (f : FieldSpec) (h : f ∈ fs) :
    bitsOf (BitVec.ofNat 32 (fs.foldl (fun n f => n + g f * 2 ^ f.lo) 0)).toNat f.hi f.lo = g f := by
  apply Nat.eq_of_testBit_eq
  intro i
  rw [testBit_bitsOf]
  have e := getLsbD_fields g fs hfs hd 0 (by simp) (f.lo + i)
  rw [BitVec.getLsbD] at e
  rw [e]
  by_cases hi : f.lo + i ≤ f.hi
  · have : fs.any (fun x => decide (x.lo ≤ f.lo + i) && decide (f.lo + i ≤ x.hi) && (g x).testBit (f.lo + i - x.lo)) = (g
      f).testBit i := by
      rw [Bool.eq_iff_iff, List.any_eq_true]
      constructor
      · rintro ⟨x, hx, hb⟩
        have : x = f := by
          by_contra hne
          simp at hb
          have := fields_apart hd hx h hne
          omega
        subst this
        simp at hb
        exact hb.2
      · intro hb
        exact ⟨f, h, by simp [hi, hb]⟩
    simp [hi, this]
  · have := Nat.testBit_lt_two_pow (x := g f) (i := i) (lt_of_lt_of_le (hfs f h).2.2 (Nat.pow_le_pow_right (by decide) (by
      omega)))
    simp [hi, this]

/-- The fields of each register lie in its 32 bits and do not overlap. -/
theorem regFields_ok (r : Reg) : (∀ f ∈ (regSpec r).fields, f.lo ≤ f.hi ∧ f.hi < 32) ∧
    (regSpec r).fields.Pairwise (fun f g => f.hi < g.lo ∨ g.hi < f.lo) := by
  have h : ((regSpec r).fields.all (fun f => decide (f.lo ≤ f.hi) && decide (f.hi < 32)) &&
      decide ((regSpec r).fields.Pairwise (fun f g => f.hi < g.lo ∨ g.hi < f.lo))) = true := by
    cases r <;> rfl
  simp only [Bool.and_eq_true, List.all_eq_true, decide_eq_true_eq] at h
  exact ⟨fun f hf => h.1 f hf, h.2⟩

/-- What a write leaves in a field fits its width. -/
theorem fieldWrite_lt (f : FieldSpec) (l : Bool) (w old v : Nat) (ho : old < 2 ^ w) (hv : v < 2 ^ w) : fieldWrite f l old v < 2
    ^ w := by
  unfold fieldWrite
  split
  · split <;> assumption
  · split <;> assumption
  · exact Nat.xor_lt_two_pow ho (lt_of_le_of_lt Nat.and_le_left ho)
  · split
    · positivity
    · exact ho
  all_goals exact ho

/-- Each field of a register after a write by its access codes. -/
theorem bitsOf_regWritten (r : Reg) (old v : Word) (f : FieldSpec) (h : f ∈ (regSpec r).fields) :
    bitsOf (regWritten r old v).toNat f.hi f.lo = fieldWrite f (bitOf old.toNat 31) (bitsOf old.toNat f.hi f.lo) (bitsOf
        v.toNat f.hi f.lo) := by
  unfold regWritten
  exact bitsOf_fields (fun f => fieldWrite f (bitOf old.toNat 31) (bitsOf old.toNat f.hi f.lo) (bitsOf v.toNat f.hi f.lo)) _
    (fun x hx => ⟨((regFields_ok r).1 x hx).1, ((regFields_ok r).1 x hx).2, fieldWrite_lt _ _ _ _ _ (bitsOf_lt _ _ _)
        (bitsOf_lt _ _ _)⟩)
    (regFields_ok r).2 f h
/-- A field that is replaced reads as what was put there. -/
theorem bitsOf_putBits (v hi lo x : Nat) (h : lo ≤ hi) : bitsOf (putBits v hi lo x) hi lo = x % 2 ^ (hi + 1 - lo) := by
  unfold bitsOf putBits
  have e : 2 ^ (hi + 1) = 2 ^ (hi + 1 - lo) * 2 ^ lo := by rw [← pow_add]; congr 1; omega
  rw [e, ← Nat.mul_assoc, Nat.add_assoc, ← Nat.add_mul, Nat.add_mul_div_right _ _ (by positivity),
    Nat.div_eq_of_lt (Nat.mod_lt _ (by positivity)),
    Nat.zero_add, Nat.add_mul_mod_self_right, Nat.mod_mod]

/-- A field of a register value that is cut to 32 bits. -/
theorem bitsOf_ofNat (v hi lo : Nat) (h : hi < 32) : bitsOf (BitVec.ofNat 32 v).toNat hi lo = bitsOf v hi lo := by
  apply Nat.eq_of_testBit_eq
  intro i
  rw [testBit_bitsOf, testBit_bitsOf, BitVec.toNat_ofNat, Nat.testBit_mod_two_pow]
  by_cases hi' : lo + i ≤ hi
  · simp [hi']; omega
  · simp [hi']

/-- A field that is stored reads as what was stored, cut to its width. -/
theorem getF_setF (s : State) (f : Fld) (d : Die) (i v : Nat) (h : f.lo ≤ f.hi) (h2 : f.hi < 32) :
    getF (setF s f d i v) f d i = v % 2 ^ (f.hi + 1 - f.lo) := by
  have e : regRaw (setF s f d i v) f.reg d i = BitVec.ofNat 32 (putBits (regRaw s f.reg d i).toNat f.hi f.lo v) := by
    simp [setF, setReg, regRaw]
  rw [getF, e, bitsOf_ofNat _ _ _ h2, bitsOf_putBits _ _ _ _ h]

/-- Registers of different kinds are stored apart. -/
theorem regKey_ne {a b : Reg} (d e : Die) {i j : Nat} (h : regNo a ≠ regNo b) (hi : i < 65536) (hj : j < 65536) :
    regKey a d i ≠ regKey b e j := by
  unfold regKey
  have := d.isLt
  have := e.isLt
  omega

/-- A field of another register keeps its value. -/
theorem getF_setF_apart (s : State) (f g : Fld) (d e : Die) (i j v : Nat) (h : regNo g.reg ≠ regNo f.reg) (hi : i < 65536)
    (hj : j < 65536) : getF (setF s f d i v) g e j = getF s g e j := by
  simp [getF, setF, setReg, regRaw, regKey_ne e d h hj hi]

/-- A count goes up by one, and stops at the largest value of its field. -/
theorem getF_countF (s : State) (f : Fld) (d : Die) (i : Nat) (h : f.lo ≤ f.hi) (h2 : f.hi < 32) :
    getF (countF s f d i) f d i = stopAt (2 ^ (f.hi + 1 - f.lo) - 1) (getF s f d i) := by
  rw [countF, getF_setF _ _ _ _ _ h h2, Nat.mod_eq_of_lt]
  have := bitsOf_lt (regRaw s f.reg d i).toNat f.hi f.lo
  unfold stopAt getF
  split <;> omega

/-- Which yarns share bobbins is a matter of the yarn and bobbin tables alone. -/
theorem groupsOf_congr {s t : State} (h : t.flow = s.flow) (k : Nat) (cs : List Nat) : groupsOf k t cs = groupsOf k s cs := by
  have hj : joined t = joined s := by
    funext c
    have e1 : codeYarn t = codeYarn s := by funext x; unfold codeYarn; rw [h]
    have e2 : getBob t = getBob s := by funext b; unfold getBob; rw [h]
    have e3 : codeFrom t = codeFrom s := by funext d n; unfold codeFrom getYarn; rw [h]
    unfold joined
    rw [e1, e2, e3]
  induction k generalizing cs with
  | zero => rfl
  | succ k ih => simp only [groupsOf, hj, ih]

theorem groupsReplaying_congr {s t : State} (h : t.flow = s.flow) (d : Die) : groupsReplaying t d = groupsReplaying s d := by
  simp only [groupsReplaying, h, groupsOf_congr h]

/-- RPL_STAT is a matter of the yarn and bobbin tables, its register and the beat engine. -/
theorem rplStat_congr {s t : State} (h : t.flow = s.flow) (h2 : t.regs = s.regs) (h3 : t.beats = s.beats) (d : Die) :
    rplStat t d = rplStat s d := by
  unfold rplStat regRaw getBeat
  rw [groupsReplaying_congr h, h2, h3]

/-- An output changes no register as it is read. -/
theorem regWord_emit (s : State) (x : Output) (o : Requester) (e : Die) (r : Reg) (i : Nat) (h : r ≠ .BOB_POP_TAG) :
    regWord (emit s x) o e r i = regWord s o e r i := by
  cases r
  case BOB_POP_TAG => exact absurd rfl h
  case SER_RXD =>
    have : getSer (emit s x) e i = getSer s e i := rfl
    simp only [regWord, serRxdRead, this]
    split <;> rfl
  case RPL_STAT =>
    simp only [regWord, rplStat_congr (emit_flow s x) (emit_regs s x) (emit_beats s x)]
    rfl
  all_goals rfl

/-- A latch of one key leaves the others. -/
theorem latched_latch_other (s : State) (o rq : Requester) (j v k : Nat) (h : latchKey o k ≠ latchKey rq j) :
    latched (latch s rq j v) o k = latched s o k := by
  simp only [latched, latch, sparseGet_sparseSet, if_neg h]

/-- A latch changes no register as a requester reads it who has none of its keys. -/
theorem regWord_latch (s : State) (o rq : Requester) (j v : Nat) (e : Die) (r : Reg) (i : Nat)
   (h : ∀ k < 16, latchKey o k ≠ latchKey rq j) (hr : r ≠ .BOB_POP_TAG) : regWord (latch s rq j v) o e r i = regWord s o e r i := by
  cases r
  case BOB_POP_TAG => exact absurd rfl hr
  case SER_RXD =>
    have : getSer (latch s rq j v) e i = getSer s e i := rfl
    simp only [regWord, serRxdRead, this]
    split <;> rfl
  case RPL_STAT =>
    have e : rplStat (latch s rq j v) e = rplStat s e := rplStat_congr (t := latch s rq j v) (s := s) rfl rfl rfl e
    simp only [regWord, e]
    rfl
  all_goals first | rfl | exact latched_latch_other s o rq j v _ (h _ (by omega))

end Sys2Proof.Machine
end

