-- ==== Sys2Proof/Laws/Selvedge.lean ====
section
/-! SUPPORT. What a request frame of the Selvedge wire does, case by case (R449 to R454, R459), so that no proof about a request has
to unfold `svRequest`. -/

namespace Sys2Proof.Machine

/-- Is a request a new one that the probe may make: its frame is whole and its CRC right, it is not the last one sent again, its
length is right, and the scopes it needs are in force? -/
def svNew (s : State) (q : SvReq) (need : Nat) : Bool :=
  svOn s && s.dbg.framed && decide (crc8 q.frame = q.crc.toNat) && !svRepeat s q && q.lenOk && scopesHeld s need

/-- The state in which a new request is executed. -/
def svKept (s : State) (q : SvReq) : State :=
  { s with dbg := { s.dbg with framed := false, last := some q, haltFor := none } }

theorem svRequest_new {s : State} {q : SvReq} {need : Nat} (f : State → State) (h : svNew s q need = true) :
    svRequest s q need f = f (svKept s q) := by
  simp only [svNew, Bool.and_eq_true, decide_eq_true_eq] at h
  obtain ⟨⟨⟨⟨⟨h1, h2⟩, h3⟩, h4⟩, h5⟩, h6⟩ := h
  have r : svRepeat { s with dbg.framed := false } q = false := by
    have : svRepeat { s with dbg.framed := false } q = svRepeat s q := rfl
    rw [this]
    simpa using h4
  have g : scopesHeld { s with dbg := { s.dbg with framed := false, last := some q, haltFor := none } } need = true := h6
  simp only [svRequest, h1, h2, h3, r, h5, Bool.not_true, Bool.or_self, Bool.false_eq_true, if_false, ne_eq, not_true_eq_false]
  rw [if_neg]
  · rfl
  · exact fun hc => by
      have : scopesHeld (svKept s q) need = true := g
      unfold svKept at this
      simp only [this] at hc
      cases hc

theorem svRequest_off {s : State} {q : SvReq} {need : Nat} (f : State → State) (h : svOn s = false ∨ s.dbg.framed = false) :
    svRequest s q need f = s := by
  unfold svRequest
  rw [if_pos]
  rcases h with h | h <;> simp [h]

theorem svRequest_crc {s : State} {q : SvReq} {need : Nat} (f : State → State) (h1 : svOn s = true) (h2 : s.dbg.framed = true)
    (h3 : crc8 q.frame ≠ q.crc.toNat) : svRequest s q need f = svSend { s with dbg.framed := false } 1 [] := by
  simp only [svRequest, h1, h2, Bool.not_true, Bool.or_self, Bool.false_eq_true, if_false, if_pos h3]

theorem svRequest_again {s : State} {q : SvReq} {need : Nat} (f : State → State) (h1 : svOn s = true) (h2 : s.dbg.framed = true)
    (h3 : crc8 q.frame = q.crc.toNat) (h4 : svRepeat s q = true) (h5 : s.dbg.haltFor = none) :
    svRequest s q need f = svSend { s with dbg.framed := false } s.dbg.status s.dbg.resp := by
  have r : svRepeat { s with dbg.framed := false } q = true := h4
  unfold svRequest
  rw [if_neg (by simp [h1, h2])]
  dsimp only
  rw [if_neg (by simp [h3]), if_pos r, if_neg (by simp [h5])]

theorem svRequest_wait {s : State} {q : SvReq} {need : Nat} (f : State → State) (h1 : svOn s = true) (h2 : s.dbg.framed = true)
    (h3 : crc8 q.frame = q.crc.toNat) (h4 : svRepeat s q = true) (h5 : s.dbg.haltFor ≠ none) :
    svRequest s q need f = { s with dbg.framed := false } := by
  have r : svRepeat { s with dbg.framed := false } q = true := h4
  unfold svRequest
  rw [if_neg (by simp [h1, h2])]
  dsimp only
  rw [if_neg (by simp [h3]), if_pos r, if_pos (Option.isSome_iff_ne_none.mpr h5)]

theorem svRequest_length {s : State} {q : SvReq} {need : Nat} (f : State → State) (h1 : svOn s = true) (h2 : s.dbg.framed = true)
    (h3 : crc8 q.frame = q.crc.toNat) (h4 : svRepeat s q = false) (h5 : q.lenOk = false) :
    svRequest s q need f = svAnswer (svKept s q) 2 [] := by
  have r : svRepeat { s with dbg.framed := false } q = false := h4
  simp only [svRequest, h1, h2, h3, r, h5, Bool.not_true, Bool.or_self, Bool.false_eq_true, if_false, if_true, ne_eq,
    not_true_eq_false, Bool.not_false]
  rfl

theorem svRequest_denied {s : State} {q : SvReq} {need : Nat} (f : State → State) (h1 : svOn s = true) (h2 : s.dbg.framed = true)
    (h3 : crc8 q.frame = q.crc.toNat) (h4 : svRepeat s q = false) (h5 : q.lenOk = true) (h6 : scopesHeld s need = false) :
    svRequest s q need f = svAnswer (svKept s q) 3 [] := by
  have r : svRepeat { s with dbg.framed := false } q = false := h4
  simp only [svRequest, h1, h2, h3, r, h5, Bool.not_true, Bool.or_self, Bool.false_eq_true, if_false, ne_eq, not_true_eq_false]
  rw [if_pos]
  · rfl
  · have : scopesHeld (svKept s q) need = false := h6
    unfold svKept at this
    rw [this]
    rfl

end Sys2Proof.Machine
end

