-- ==== Sys2Proof/Safety.lean ====
section
/-! DEFINITION. What counts as a safe run: a step that answers a next state. -/

namespace Sys2Proof

/-- A step is safe when the device goes on: it neither faults nor is refused. -/
def stepSafe (s : Machine.State) : Prop := ∃ t, Machine.step s = .next t

end Sys2Proof
end

