-- ==== Sys2Proof/Tests/Slice0.lean ====
section
/-! SUPPORT. Tests of the model on small inputs: the checks of well-formedness with a command that each of them refuses, worked
examples of the manual, and for each statement with hypotheses a state and operands that meet them together. -/

namespace Sys2Proof.Tests

open Sys2Proof Sys2Proof.Machine

-- The kernel evaluates one theorem after the other: evaluations in progress at once would each hold a thread.
set_option Elab.async false

/-! ## Well-formed commands -/

/-- A command of the host with an opcode, with operands missing and with bytes beyond its buffer. -/
def cmdOf (op missing extra : Nat) : HostCmd where
  qp := 0
  cid := 7
  atBeat := false
  fence := false
  opcode := BitVec.ofNat 8 op
  beat := 0
  bufLen := 0
  ops := List.replicate (9 - missing) 0
  buf := List.replicate extra 0
  bufOk := true

/-- A Selvedge request of a frame. -/
def reqOf (frame : List Byte) (lenOk : Bool) : SvReq :=
  { seq := false, crc := BitVec.ofNat 8 (crc8 frame), lenOk := lenOk, frame := frame }

theorem test_wf_opcode_own :
    (Instr.wf (.nop (cmdOf 0x00 0 0)) = true) ∧ (Instr.wf (.eventSub (cmdOf 0x01 0 0)) = true) ∧
    (Instr.wf (.resetCmd (cmdOf 0x02 0 0)) = true) ∧ (Instr.wf (.yarnCreate (cmdOf 0x10 0 0)) = true) ∧
    (Instr.wf (.yarnStart (cmdOf 0x11 0 0)) = true) ∧ (Instr.wf (.yarnHold (cmdOf 0x12 0 0)) = true) ∧
    (Instr.wf (.yarnResume (cmdOf 0x13 0 0)) = true) ∧ (Instr.wf (.yarnRestart (cmdOf 0x14 0 0)) = true) ∧
    (Instr.wf (.yarnDelete (cmdOf 0x15 0 0)) = true) ∧ (Instr.wf (.yarnModify (cmdOf 0x16 0 0)) = true) ∧
    (Instr.wf (.yarnQuery (cmdOf 0x17 0 0)) = true) ∧ (Instr.wf (.bobCreate (cmdOf 0x20 0 0)) = true) ∧
    (Instr.wf (.bobDelete (cmdOf 0x21 0 0)) = true) ∧ (Instr.wf (.bobFlush (cmdOf 0x22 0 0)) = true) ∧
    (Instr.wf (.bobResize (cmdOf 0x23 0 0)) = true) ∧ (Instr.wf (.bobQuery (cmdOf 0x24 0 0)) = true) ∧
    (Instr.wf (.itemPush (cmdOf 0x28 0 0)) = true) ∧ (Instr.wf (.regionMap (cmdOf 0x29 0 0)) = true) ∧
    (Instr.wf (.draftLoad (cmdOf 0x30 0 0)) = true) ∧ (Instr.wf (.draftSwap (cmdOf 0x31 0 0)) = true) ∧
    (Instr.wf (.darn (cmdOf 0x32 0 0)) = true) ∧ (Instr.wf (.harnessCfg (cmdOf 0x33 0 0)) = true) ∧
    (Instr.wf (.beatSet (cmdOf 0x40 0 0)) = true) ∧ (Instr.wf (.domainSet (cmdOf 0x41 0 0)) = true) ∧
    (Instr.wf (.memTest (cmdOf 0x42 0 0)) = true) ∧ (Instr.wf (.windowSet (cmdOf 0x43 0 0)) = true) ∧
    (Instr.wf (.beatwinSet (cmdOf 0x44 0 0)) = true) ∧ (Instr.wf (.beatwinPub (cmdOf 0x45 0 0)) = true) ∧
    (Instr.wf (.portCfg (cmdOf 0x50 0 0)) = true) ∧ (Instr.wf (.portTable (cmdOf 0x51 0 0)) = true) ∧
    (Instr.wf (.ringCfg (cmdOf 0x52 0 0)) = true) ∧ (Instr.wf (.nodeSet (cmdOf 0x53 0 0)) = true) ∧
    (Instr.wf (.nvWrite (cmdOf 0x60 0 0)) = true) ∧ (Instr.wf (.dieUpdate (cmdOf 0x61 0 0)) = true) := by decide

theorem test_wf_opcode_other :
    (Instr.wf (.nop (cmdOf 0xFF 0 0)) = false) ∧ (Instr.wf (.eventSub (cmdOf 0xFF 0 0)) = false) ∧
    (Instr.wf (.resetCmd (cmdOf 0xFF 0 0)) = false) ∧ (Instr.wf (.yarnCreate (cmdOf 0xFF 0 0)) = false) ∧
    (Instr.wf (.yarnStart (cmdOf 0xFF 0 0)) = false) ∧ (Instr.wf (.yarnHold (cmdOf 0xFF 0 0)) = false) ∧
    (Instr.wf (.yarnResume (cmdOf 0xFF 0 0)) = false) ∧ (Instr.wf (.yarnRestart (cmdOf 0xFF 0 0)) = false) ∧
    (Instr.wf (.yarnDelete (cmdOf 0xFF 0 0)) = false) ∧ (Instr.wf (.yarnModify (cmdOf 0xFF 0 0)) = false) ∧
    (Instr.wf (.yarnQuery (cmdOf 0xFF 0 0)) = false) ∧ (Instr.wf (.bobCreate (cmdOf 0xFF 0 0)) = false) ∧
    (Instr.wf (.bobDelete (cmdOf 0xFF 0 0)) = false) ∧ (Instr.wf (.bobFlush (cmdOf 0xFF 0 0)) = false) ∧
    (Instr.wf (.bobResize (cmdOf 0xFF 0 0)) = false) ∧ (Instr.wf (.bobQuery (cmdOf 0xFF 0 0)) = false) ∧
    (Instr.wf (.itemPush (cmdOf 0xFF 0 0)) = false) ∧ (Instr.wf (.regionMap (cmdOf 0xFF 0 0)) = false) ∧
    (Instr.wf (.draftLoad (cmdOf 0xFF 0 0)) = false) ∧ (Instr.wf (.draftSwap (cmdOf 0xFF 0 0)) = false) ∧
    (Instr.wf (.darn (cmdOf 0xFF 0 0)) = false) ∧ (Instr.wf (.harnessCfg (cmdOf 0xFF 0 0)) = false) ∧
    (Instr.wf (.beatSet (cmdOf 0xFF 0 0)) = false) ∧ (Instr.wf (.domainSet (cmdOf 0xFF 0 0)) = false) ∧
    (Instr.wf (.memTest (cmdOf 0xFF 0 0)) = false) ∧ (Instr.wf (.windowSet (cmdOf 0xFF 0 0)) = false) ∧
    (Instr.wf (.beatwinSet (cmdOf 0xFF 0 0)) = false) ∧ (Instr.wf (.beatwinPub (cmdOf 0xFF 0 0)) = false) ∧
    (Instr.wf (.portCfg (cmdOf 0xFF 0 0)) = false) ∧ (Instr.wf (.portTable (cmdOf 0xFF 0 0)) = false) ∧
    (Instr.wf (.ringCfg (cmdOf 0xFF 0 0)) = false) ∧ (Instr.wf (.nodeSet (cmdOf 0xFF 0 0)) = false) ∧
    (Instr.wf (.nvWrite (cmdOf 0xFF 0 0)) = false) ∧ (Instr.wf (.dieUpdate (cmdOf 0xFF 0 0)) = false) := by decide

theorem test_wf_operands_missing : Instr.wf (.nop (cmdOf 0x00 1 0)) = false ∧ Instr.wf (.dieUpdate (cmdOf 0x61 1 0)) = false := by
  decide

theorem test_wf_buffer_too_long : Instr.wf (.nop (cmdOf 0x00 0 1)) = false ∧ Instr.wf (.nvWrite (cmdOf 0x60 0 1)) = false := by
  decide

theorem test_wf_selvedge_own :
    Instr.wf (.ident (reqOf [0x01, 0x00] true)) = true ∧ Instr.wf (.challenge (reqOf [0x04, 0x00] true)) = true ∧
    Instr.wf (.lock (reqOf [0x06, 0x00] true)) = true ∧ Instr.wf (.svStatus (reqOf [0x0C, 0x00] true)) = true ∧
    Instr.wf (.rstRelease (reqOf [0x0B, 0x00] true)) = true ∧
    Instr.wf (.svRead (reqOf [0x02, 0x08, 0x78, 0x56, 0x34, 0x12, 0x00, 0x00, 0x01, 0x00] true) 0x12345678 1 0 cleanFinds) = true ∧
    Instr.wf (.svWrite (reqOf [0x03, 0x0A, 0x00, 0x00, 0x00, 0x40, 0x00, 0x00, 0xEF, 0xCD, 0xAB, 0x89] true) 0x40000000
      [0x89ABCDEF] cleanFinds) = true ∧
    Instr.wf (.halt (reqOf [0x07, 0x04, 0x01, 0x01, 0x11, 0x00] true) 1 .harness 17 false true) = true ∧
    Instr.wf (.resume (reqOf [0x08, 0x03, 0x00, 0x02, 0x00] true) 0 .all 0) = true ∧
    Instr.wf (.svStep (reqOf [0x09, 0x04, 0x00, 0x05, 0x2C, 0x01] true) 0 5 300) = true ∧
    Instr.wf (.rstAssert (reqOf [0x0A, 0x03, 0x05, 0x01, 0x02] true) 5 1 2) = true := by decide

theorem test_wf_selvedge_other_code :
    Instr.wf (.ident (reqOf [0x02, 0x00] true)) = false ∧ Instr.wf (.challenge (reqOf [0x05, 0x00] false)) = false ∧
    Instr.wf (.lock (reqOf [0x06] false)) = false ∧ Instr.wf (.svStatus (reqOf [0x0C, 0x01, 0x00] true)) = false ∧
    Instr.wf (.rstRelease (reqOf [0x8B, 0x00] true)) = false ∧
    Instr.wf (.svRead (reqOf [0x02, 0x08, 0x78, 0x56, 0x34, 0x12, 0x00, 0x00, 0x02, 0x00] true) 0x12345678 1 0 cleanFinds) = false ∧
    Instr.wf (.halt (reqOf [0x07, 0x04, 0x01, 0x01, 0x11, 0x01] true) 1 .harness 17 false true) = false ∧
    Instr.wf (.resume (reqOf [0x08, 0x03, 0x00, 0x01, 0x00] true) 0 .all 0) = false ∧
    Instr.wf (.svStep (reqOf [0x09, 0x04, 0x00, 0x05, 0x01, 0x2C] true) 0 5 300) = false ∧
    Instr.wf (.rstAssert (reqOf [0x0A, 0x03, 0x01, 0x05, 0x02] true) 5 1 2) = false := by decide

theorem test_wf_write_too_long :
    Instr.wf (.svWrite (reqOf [0x03, 0x00] false) 0 (List.replicate 49 0) cleanFinds) = false := by decide

theorem test_wf_unlock_key_short :
    Instr.wf (.unlock (reqOf [0x05, 0x02, 0x01, 0x00] true) 1 0 [] []) = false := by decide

theorem test_wf_register_instance :
    Instr.wf (.registerWrite .host 0 .RST_CAUSE 1 0) = false ∧ Instr.wf (.registerWrite .host 0 .RST_CAUSE 0 0) = true := by decide

theorem test_wf_byte_counts :
    Instr.wf (.hdmAccess 0 (some [0]) false .clean) = false ∧ Instr.wf (.diagRead .diag 0 0 cleanFinds) = false ∧
    Instr.wf (.diagWrite .diag 0 0 0 cleanFinds) = false := by decide

/-! ## Worked examples of the manual -/

/-- R76: the widths that the rule names. -/
theorem test_width : widthOf 0 = 1 ∧ widthOf (-1) = 1 ∧ widthOf 1 = 2 ∧ widthOf 32767 = 16 ∧ widthOf (-32768) = 16 := by decide

/-- The butterfly of Weave cells: the product of each of its four words. -/
theorem test_butterfly_products :
    macProduct 0 false 0xF4482EE0 0x00008000 0 = (-393216000, 98304000) ∧
    macProduct 0 false 0x13881F40 0x5A825A82 0 = (69510000, 301210000) ∧
    macProduct 0 false 0x1B58E890 0x80000000 0 = (229376000, 196608000) ∧
    macProduct 0 false 0xDCD807D0 0x5A82A57E 0 = (162190000, 254870000) := by decide

/-- The butterfly's output word, with rnd 0 and 1, and its headroom. -/
theorem test_butterfly_move :
    scaledMove 0 false false 15 1 (-67860000, -850992000) = (0xCD46FBF4, false, 16) ∧
    scaledMove 0 false true 15 1 (-67860000, -850992000) = (0xCD47FBF5, false, 16) := by decide

/-- The butterfly with a sum four times larger: the lane saturates. -/
theorem test_butterfly_saturates :
    (scaledMove 0 false false 15 1 (0, -3403968000)).1 = 0x80000000 ∧ (scaledMove 0 false false 15 1 (0, -3403968000)).2.1 = true ∧
    (scaledMove 0 false false 15 1 (0, -3403968000)).2.2 = 18 := by decide

/-- R80: an element equal to the best does not replace it, and the first one does. -/
theorem test_search_min :
    searchElem 1 { val := 412, count := 5120, idx := 3077, valid := true, wrap := false } 412 =
      { val := 412, count := 5121, idx := 3077, valid := true, wrap := false } ∧
    (searchElem 1 { val := 500, count := 65535, idx := 9, valid := true, wrap := false } 412).wrap = true := by decide

/-- Register map: TSEQ_CTL of harness 17 at its offset in the die's register space. -/
theorem test_place_tseq : placeAt (0x400000 + 17 * 0x10000) = .reg .TSEQ_CTL 17 := by decide

/-- R452: the check of the frames of two commands without arguments. -/
theorem test_crc8 : crc8 [0x01, 0x00] = 0x15 ∧ crc8 [] = 0 := by decide

/-- FIPS 180-4: the digest of "abc". -/
theorem test_sha384 :
    sha384Nat [0x61, 0x62, 0x63] =
      0xcb00753f45a35e8bb5a03d699ac65007272c32ab0eded1631a8b605a43ff5bed8086072ba1e7cc2358baeca134c825a7 := by decide +kernel

/-- AES-256 of a block of zeros under a key of zeros. -/
theorem test_aes : aesEncrypt (roundKeys 0) (List.replicate 16 0) = beBytes 16 0xdc95c078a2408989ad48a21492842087 := by decide +kernel

/-- SP 800-38D, test case 14: a block of zeros under a key and an iv of zeros. -/
theorem test_gcm :
    openGcm 0 [] (List.replicate 12 0) (beBytes 16 0xcea7403d4d606b6e074ec5d3baf39d18) (beBytes 16 0xd0d1c8a799996bf0265b98b5d48ab919) =
      some (List.replicate 16 0) := by decide +kernel

/-! ## States that meet the hypotheses of the statements -/

/-- The device after start-up: every stage of both dies is passed and every domain is ON. -/
def up : State :=
  { State.reset with
    doms := (List.range 130).map (fun k => (k, { domInit with state := .on }))
    rst := { State.reset.rst with stage := [(0, 8), (1, 8)], opened := true } }

/-- The firmware of both dies runs. -/
def run (s : State) : State := setF (setF (setF (setF s fRT_STAT_run 0 0 1) fRT_STAT_run 1 0 1) fRT_STAT_in_reset 0 0 0) fRT_STAT_in_reset 1 0 0

/-- A word of a harness. -/
def aWire : Wire := { data := 5, tag := 0, idx := 3, fl := 0 }

/-- An idle word of a harness. -/
def noWire : Wire := idleWire 0 3

/-- A harness's cell with an idle word on IA. -/
def idleCell : State := setCell up (cellKey 0 0 0 0) { cellInit with ia := some noWire }

theorem witness_StepTakesFrontOfQueue :
    (State.reset.withFront .vigilTick).pending = .vigilTick :: [] ∧
    State.reset.pending = [] := by
  decide

theorem witness_StagedCommandsStayWithinBound :
    State.reset.host.staged.length ≤ 1024 ∧
    step State.reset = .next State.reset := by
  exact ⟨by decide, rfl⟩

theorem witness_StepPopsOneCommand :
    (State.reset.withFront .nonceExpire).pending = .nonceExpire :: [] ∧
    step (State.reset.withFront .nonceExpire) = .next State.reset := by
  exact ⟨rfl, rfl⟩

theorem witness_CellCycleConsumesIdleWord :
    cellRuns idleCell 0 0 0 0 = true ∧
    getCell (beginCycle idleCell 0 0 0) (cellKey 0 0 0 0) = { cellInit with ia := some noWire } ∧
    cellRuns (beginCycle idleCell 0 0 0) 0 0 0 0 = true ∧
    tagIdle noWire.tag = true ∧
    inMask (beginCycle idleCell 0 0 0) .TSEQ_SRC_LO .TSEQ_SRC_HI 0 0 0 = false ∧
    (getHar (beginCycle idleCell 0 0 0) 0 0).wbs = [] ∧
    cellParityOk (getCellDraft (beginCycle idleCell 0 0 0) (cellKey 0 0 0 0) (getHar (beginCycle idleCell 0 0 0) 0 0).flip noWire.idx.toNat) = true := by
  decide

/-- A reed with a word on its input of code 2, and a draft for it. -/
def reedAt (draft : BitVec 96) : State :=
  let s := setReedIn up (reedKey 0 0 0 2) (some aWire)
  { s with arr.reedDraft := [(reedDraftKey 0 0 0 false 3, draft)] }

/-- The gate between harnesses 0 and 1, with a word at one end. -/
def gateAt (a b : List Wire) : State := setGate up (gateKey 0 false 0 0) { gateInit with fromA := a, fromB := b }

theorem witness_ReedAndGateMoveWords :
    harRuns (reedAt 0) 0 0 = true ∧
    reedClaims (reedAt 0) 0 0 0 = [{ code := 2, w := aWire, outs := [] }] ∧
    reedParityOk (getReedDraft (reedAt 0) 0 0 0 (getHar (reedAt 0) 0 0).flip 3) = true ∧
    tagIdle aWire.tag = false ∧
    reedClaims (reedAt 5) 0 0 0 = [{ code := 2, w := aWire, outs := [.ia] }] ∧
    reedParityOk (getReedDraft (reedAt 5) 0 0 0 false 3) = true ∧
    outReady (reedAt 5) 0 0 0 .ia = true ∧
    outReady (setCell (reedAt 5) (cellKey 0 0 0 0) { cellInit with ia := some aWire }) 0 0 0 .ia = false ∧
    reedClaims up 0 0 0 = [] ∧
    gateFar false 0 = some 1 ∧
    canCarry (gateAt [aWire] []) 0 false 0 1 0 true = true ∧
    canCarry (gateAt [aWire] []) 0 false 0 1 0 false = false ∧
    canCarry (gateAt [] [aWire]) 0 false 0 1 0 false = true ∧
    canCarry (gateAt [] [aWire]) 0 false 0 1 0 true = false ∧
    gateFar false 5 = none ∧
    gateFar true 35 = none := by
  decide

/-- An item at the gateway of harness 0 with a word for its lane. -/
def gwItem (t : TWord) : GwItem :=
  { flight := 0, yarn := 0, stage := 0, idx := 3, ready := [t, t], sent := 1, closed := false, bubbles := 0, age := 5 }

/-- Harness 0 with these words in the buffer of its input lane 0. -/
def laneAt (ws : List Wire) : State := setHar up 0 0 { harInit with gwIn := setLaneWords [] 0 ws }

/-- A harness whose gateway holds an item. -/
def gwAt : State := setHar up 0 0 { harInit with gw := [gwItem { data := 9, tag := 0 }] }

/-- A harness whose table is enabled and runs, with entry 0. -/
def tableAt (e : Word) : State :=
  let s := setF (setF up fTSEQ_CTL_tbl_en 0 0 1) fTSEQ_CTL_run 0 0 1
  { s with arr.table := if e = 0 then [] else [(tableKey 0 0 false 0, e)] }

theorem witness_LaneAndTableOfferWords :
    harRuns gwAt 0 0 = true ∧
    laneOf gwAt 0 0 3 = 0 ∧
    getReedIn gwAt (reedKey 0 0 0 16) = none ∧
    (getReedIn (setReedIn gwAt (reedKey 0 0 0 16) (some aWire)) (reedKey 0 0 0 16)).isSome = true ∧
    headsOf (getHar gwAt 0 0).gw = [gwItem { data := 9, tag := 0 }] ∧
    laneReady gwAt 0 0 (gwItem { data := 9, tag := 0 }) = true ∧
    laneChoice gwAt 0 15 [gwItem { data := 9, tag := 0 }] = some (gwItem { data := 9, tag := 0 }) ∧
    (laneWords (getHar gwAt 0 0).gwIn 0).length < 32 ∧
    32 ≤ (laneWords (getHar (laneAt (List.replicate 32 aWire)) 0 0).gwIn 0).length ∧
    laneWords (getHar (laneAt [aWire]) 0 0).gwIn 0 = aWire :: [] ∧
    tagLast aWire.tag = false ∧
    liveWire (getReedIn (laneAt [aWire]) (reedKey 0 0 0 16)) = false ∧
    liveWire (getReedIn (setReedIn (laneAt [aWire]) (reedKey 0 0 0 16) (some aWire)) (reedKey 0 0 0 16)) = true ∧
    harRuns (tableAt 0) 0 0 = true ∧
    flagF (tableAt 0) fTSEQ_CTL_tbl_en 0 0 = true ∧
    seqRuns (tableAt 0) 0 0 = true ∧
    (getHar (tableAt 0) 0 0).tHold = none ∧
    (getHar (tableAt 0) 0 0).tDone = [] ∧
    (getHar (tableAt 0) 0 0).tOffered = false ∧
    (getHar (tableAt 0) 0 0).draining = false ∧
    (getHar (tableAt 0) 0 0).flip = false ∧
    bitOf (getTable (tableAt 0) 0 0 false 0).toNat 31 = false ∧
    bitOf (getTable (tableAt 0x80030005) 0 0 false 0).toNat 31 = true ∧
    ownerOf (tableAt 0x80030005) 0 0 (tableWire 0x80030005).idx = none := by
  decide

theorem witness_LaneAndTableOfferWords_no_word_outside :
    ∀ g : Nat, (getHar gwAt 0 g).gwOut = [] := by
  intro g
  by_cases h : g = 0
  · subst h; decide
  · have : getHar gwAt 0 g = getHar up 0 g := by
      unfold gwAt getHar setHar
      dsimp only
      rw [sparseGet_sparseSet, if_neg (by simp [harKey, h])]
    rw [this]; rfl

/-- Harness 0 armed for a swap, or draining for it. -/
def swapAt (draining : Bool) : State := setHar up 0 0 { harInit with armTick := some 0, draining := draining }

/-- A harness that drains while a cell still holds a word of an item. -/
def notDrained : State := setCell (swapAt true) (cellKey 0 0 0 0) { cellInit with ia := some aWire }

/-- Reeds 7 of row 0 of harnesses 0 and 1 that would both drive their long line. -/
def clashAt : State :=
  { up with arr.reedDraft := [(reedDraftKey 0 0 (weftCol 0) true 3, 0x4000000000000000000001), (reedDraftKey 0 1 (weftCol 0) false 3, 0x4000000000000000000001)] }

theorem witness_SwapsArmCancelAndEnd :
    armed (swapAt false) 0 0 = true ∧
    armed up 0 0 = false ∧
    swapClash up 0 0 = false ∧
    (getHar (swapAt false) 0 0).draining = false ∧
    drainingHars (swapAt true) 0 = [0] ∧
    drained (swapAt true) 0 0 = true ∧
    drainingHars notDrained 0 = [0] ∧
    drained notDrained 0 0 = false := by
  decide

theorem witness_SwapsArmCancelAndEnd_clash :
    armed clashAt 0 0 = false ∧
    swapClash clashAt 0 0 = true := by
  decide

/-- A harness that reports two faults of one kind of cell (0, 0), with the spare of row 0 free or in use. -/
def faultyAt (used : Bool) : State :=
  let s := setHar (run up) 0 0 { harInit with faultAt := [{ cell := 0, slot := 0, kind := 1, beat := 0 }, { cell := 0, slot := 0, kind := 1, beat := 3 }] }
  if used then setF s ⟨.DARN_MAP, 3, 0⟩ 0 0 9 else s

/-- A host request to darn cell (0, 0) of harness 0. -/
def hostDarn : State := setF (faultyAt true) fDARN_STAT_busy 0 0 1

theorem witness_DarningReportsItemsAndMarks_darn :
    darnDue (faultyAt false) 0 0 0 0 .secondFault = true ∧
    spareUsed (faultyAt false) 0 0 0 = false ∧
    (faultyAt false).mem.spareBad.contains (harKey 0 0, 0) = false ∧
    (getHar (faultyAt false) 0 0).halted = false ∧
    fwAt (faultyAt false) 0 2 = true ∧
    fwAt (faultyAt true) 0 2 = true ∧
    fwAt hostDarn 0 2 = true ∧
    darnDue (faultyAt true) 0 0 0 0 .secondFault = true ∧
    spareUsed (faultyAt true) 0 0 0 = true ∧
    DarnWhy.secondFault ≠ .host ∧
    darnDue hostDarn 0 0 0 0 .host = true ∧
    spareUsed hostDarn 0 0 0 = true := by
  decide

/-- A yarn that runs from bobbin 7 at harness 0, index 2. -/
def yarnA : Yarn :=
  { yarnFree with state := .run, stages := [{ harness := 0, idx := 2, images := 0, frame := 0 }], ins := [some 7], entry := 0 }

/-- A closed item of two words, or a beat mark. -/
def itemA (kind : BitVec 2) : ItemRec := { start := 0, n := 2, kind := kind, exp := 0, ord := 0, jrn := false, side := none }

/-- A bobbin of the host with one closed item in it. -/
def bobA (items : List ItemRec) : Bob :=
  { bobFree with
    state := .active, prod := .host, cons := .yarn, quota := 1, wmark := 64, items := items, wp := 2, wp2 := 2
    head := [{ pos := 0, w := { data := 1, tag := 0x800 } }, { pos := 1, w := { data := 2, tag := 0x400 } }] }

/-- Yarn 4 of die 0 and bobbin 7. -/
def flowAt (y : Yarn) (b : Bob) : State := setF (setBob (setYarn up 0 4 y) 7 b) fTSEQ_CTL_run 0 0 1

/-- The same with a report of an overflow in the yarn's first item. -/
def reportAt : State := { flowAt yarnA (bobA []) with flow.reports := [(0, 4, 0)] }

theorem witness_DarningReportsItemsAndMarks_flow :
    reportAt.flow.reports.find? (fun r => r.1 = 0) = some (0, 4, 0) ∧
    (getYarn reportAt 0 4).state ≠ .free ∧
    (getYarn reportAt 0 4).ovfPolicy = 0 ∧
    chosenYarn (flowAt yarnA (bobA [itemA 0])) 0 0 2 = some 4 ∧
    (getYarn (flowAt yarnA (bobA [itemA 3])) 0 4).state ≠ .free ∧
    domWorks (flowAt yarnA (bobA [itemA 3])) 0 56 = true ∧
    restoring (flowAt yarnA (bobA [itemA 3])) 0 4 = false ∧
    (getYarn (flowAt yarnA (bobA [itemA 3])) 0 4).ins.getD 0 none = some 7 ∧
    (getYarn (flowAt yarnA (bobA [itemA 3])) 0 4).reinject.getD 0 [] = [] ∧
    headItem (getBob (flowAt yarnA (bobA [itemA 3])) (inputBob (flowAt yarnA (bobA [itemA 3])) 0 (getYarn (flowAt yarnA (bobA [itemA 3])) 0 4) 7)) =
      some (itemA 3) ∧
    (itemA 3).kind = 3 ∧
    undelivered (flowAt yarnA (bobA [itemA 3])) (inputBob (flowAt yarnA (bobA [itemA 3])) 0 (getYarn (flowAt yarnA (bobA [itemA 3])) 0 4) 7) = 0 := by
  decide

theorem witness_ReservedEncodingsLeaveFieldsUnchanged :
    (⟨16, 0, .rw, 250, .device, [(10, 100000)]⟩ : FieldSpec) ∈ (regSpec .BEAT_CTL).fields ∧
    fieldOk ⟨16, 0, .rw, 250, .device, [(10, 100000)]⟩ (bitsOf (9 : Word).toNat 16 0) = false ∧
    fieldOk ⟨16, 0, .rw, 250, .device, [(10, 100000)]⟩ (bitsOf (10 : Word).toNat 16 0) = true ∧
    fieldOk ⟨16, 0, .rw, 250, .device, [(10, 100000)]⟩ (bitsOf (100000 : Word).toNat 16 0) = true ∧
    fieldOk ⟨16, 0, .rw, 250, .device, [(10, 100000)]⟩ (bitsOf (100001 : Word).toNat 16 0) = false ∧
    ((regSpec .RST_REACH).fields.any (fun f => decide (f.acc = .rwl)) || allRegs.any (fun r => (regSpec r).fields.any (fun f => decide (f.acc =
      .rwl)))) = true := by
  decide

/-- A bobbin with eight words in its tail and a block in its spool, a bobbin with two words in its head, one whose port is down. -/
def spoolBob : Bob :=
  { bobA [] with
    wp := 16, wp2 := 16, wseq := 1, wpos := 1, spoolPos := [0, 1, 2, 3, 4, 5, 6, 7], head := []
    tail := (List.range 8).map (fun k => { pos := BitVec.ofNat 32 (8 + k), w := { data := 3, tag := 0 } }) }

def portBob : Bob := { bobA [itemA 0] with cons := .port, stall := 1 }

theorem witness_BobbinWordsMove :
    (getBob (flowAt yarnA (bobA [])) 7).state ≠ .free ∧
    (getBob (flowAt yarnA (bobA [])) 7).prod ≠ .yarn ∧
    domWorks (flowAt yarnA (bobA [])) (getBob (flowAt yarnA (bobA [])) 7).die 56 = true ∧
    domWorks (flowAt yarnA spoolBob) spoolBob.die 56 = true ∧
    spoolBob.state = .active ∧
    spoolBob.wp = spoolBob.wp2 ∧
    spoolBob.rp = spoolBob.rp2 ∧
    (getBob (flowAt yarnA spoolBob) (7 + 65536)).state ≠ .active ∧
    maySpill spoolBob = true ∧
    ringFull (bobRing spoolBob) = false ∧
    8 ≤ spoolBob.tail.length ∧
    maySpill (bobA []) = false ∧
    (getBob (refillBlock (setBob (flowAt yarnA spoolBob) 7 spoolBob) 7 .uncorrectable) (7 + 65536)).state ≠ .active ∧
    (bobA [itemA 0]).cons = .yarn ∧
    (getBob (yarnRead (setBob (flowAt yarnA (bobA [itemA 0])) 7 (bobA [itemA 0])) 7) (7 + 65536)).state ≠ .active ∧
    portBob.cons ≠ .yarn ∧
    (getBob (flowAt yarnA portBob) 7).stall ≠ 0 ∧
    (getBob (flowAt yarnA portBob) 7).state = .active ∧
    egressShut (flowAt yarnA portBob) 7 = true := by
  decide

/-- Both beat engines of the device in step: ordinal 5 is the current beat 12, and beat 3 has committed. -/
def beatB : BeatSt := { beatInit with started := true, ord := 5, nums := [(5, 12), (4, 11)], cmt := 3 }

def beatsAt (a b : BeatSt) : State := setBeat (setBeat up 0 a) 1 b

/-- A cut of yarn 4 whose items are all written back, and one that waits for its output mark. -/
def cutA : CutRec :=
  { ord := 5, itemsIn := 0, ovf := 0, inNext := 0, rps := [], mwps := [], toCopy := [], copied := [], tpos := [], twin := 0 }

/-- The yarn with such a cut while its harness runs or is halted. -/
def cutAt (halted : Bool) : State := setHar (flowAt { yarnA with cuts := [cutA] } (bobA [])) 0 0 { harInit with halted := halted }

/-- The dies apart: each commits alone. -/
def aloneAt (a : BeatSt) : State := setF (beatsAt a a) fBRD_STAT_split 0 0 1

theorem witness_BeatsBeginAndCommit :
    beatsRun up = true ∧
    boundaryDies up 0 = [] ∧
    boundaryDies (beatsAt beatB beatB) 0 = [0, 1] ∧
    (getBeat (beatsAt beatB beatB) 0).nums = [(5, 12), (4, 11)] ∧
    beatsRun (beatsAt beatB beatB) = true ∧
    boundaryDies (beatsAt { beatB with nums := [] } beatB) 0 = [0, 1] ∧
    (getBeat (beatsAt { beatB with nums := [] } beatB) 0).nums = [] ∧
    (∀ x ∈ [0, 1], domWorks (beatsAt beatB beatB) x 56 = true) ∧
    (∀ x ∈ [0, 1], domWorks (beatsAt { beatB with nums := [] } beatB) x 56 = true) ∧
    (getBeat (beatsAt beatB { beatB with commitMsg := [11] }) 1).started = true ∧
    domWorks (beatsAt beatB { beatB with commitMsg := [11] }) 1 56 = true ∧
    (getBeat (aloneAt beatB) 0).started = true ∧
    domWorks (aloneAt beatB) 0 56 = true ∧
    domWorks (aloneAt { beatB with ord := 4 }) 0 56 = true ∧
    domWorks (beatsAt { beatB with readyMsg := [11] } beatB) 0 56 = true ∧
    (getYarn (cutAt false) 0 4).cuts = [cutA] ∧
    cutReady (cutAt false) 0 4 cutA = true ∧
    (getYarn (cutAt true) 0 4).cuts = [cutA] ∧
    cutReady (cutAt true) 0 4 cutA = false ∧
    numOfOrd (beatsAt beatB beatB) 1 ((getBeat (beatsAt beatB beatB) 1).cmt + 1) = 11 ∧
    (getBeat (beatsAt beatB beatB) 1).started = true ∧
    commitsAlone (beatsAt beatB beatB) 1 4 = false ∧
    dieReady (beatsAt beatB beatB) 1 4 = true ∧
    11 ∉ (getBeat (beatsAt beatB beatB) 0).readyMsg ∧
    11 ∈ (getBeat (beatsAt beatB { beatB with commitMsg := [11] }) 1).commitMsg ∧
    commitsAlone (beatsAt beatB { beatB with commitMsg := [11] }) 1 4 = false ∧
    4 < (getBeat (beatsAt beatB { beatB with commitMsg := [11] }) 1).ord ∧
    commitsAlone (aloneAt beatB) 0 4 = true ∧
    dieReady (aloneAt beatB) 0 4 = true ∧
    commitsAlone (aloneAt { beatB with ord := 4 }) 0 4 = true ∧
    dieReady (aloneAt { beatB with ord := 4 }) 0 4 = false ∧
    commitsAlone (beatsAt { beatB with readyMsg := [11] } beatB) 0 4 = false ∧
    dieReady (beatsAt { beatB with readyMsg := [11] } beatB) 0 4 = true ∧
    11 ∈ (getBeat (beatsAt { beatB with readyMsg := [11] } beatB) 0).readyMsg ∧
    (getYarn (setYarn up 1 4 { yarnA with state := .migrate }) 0 4).state ≠ .migrate ∧
    (getYarn (setYarn up 1 4 { yarnA with state := .migrate }) 1 4).state = .migrate ∧
    (getYarn (setYarn up 1 4 { yarnA with state := .migrate }) 1 4).cuts = [] ∧
    atBoundary (setYarn up 1 4 { yarnA with state := .migrate }) 1 4 = true := by
  and_intros <;> decide

/-- A fault of yarn 4 that names no harness, and a replay of it. -/
def faultA : FaultRec := { cls := 1, id := 7, har := none, bob := some 7 }
def replayA : Replay := { fault := faultA, yarns := [8], restored := false, result := 0, silent := false }

def faultState : State := setBeat (flowAt yarnA { bobA [] with consId := 4 }) 0 { beatB with faults := [faultA] }
def replayState : State := setBeat (flowAt { yarnA with state := .replay } (bobA [])) 0 { beatB with replays := [replayA] }
/-- The replay of a yarn whose checkpoint needs an entry that has been released. -/
def goneState : State :=
  setBeat (flowAt { yarnA with state := .replay, written := [3] } { bobA [] with jrnGone := 2 }) 0 { beatB with replays := [replayA] }

/-- The complex of die 1 is OFF and the link is down. -/
def deadDie : State := setF (setDom up 1 59 { domInit with state := .off }) fBRD_STAT_lstate 0 0 0

def updateState : State :=
  setBeat up 0 { beatB with update := some { phase := .moving, fw := false, img := true, fwSlot := false, imSlot := true, moving := [] } }

theorem witness_ReplayAndLossRun :
    (getBeat faultState 0).faults = [faultA] ∧
    faultA.har = none ∧
    faultA.cls ≠ 6 ∧
    (faultGroup (setBeat faultState 0 { getBeat faultState 0 with faults := [] }) 0 faultA).filter (fun c => replayable (codeYarn (setBeat faultState 0
      { getBeat faultState 0 with faults := [] }) c)) = [8] ∧
    (∀ c ∈ [8], (codeYarn (setBeat faultState 0 { getBeat faultState 0 with faults := [] }) c).replay ≠ 2 ∧ (codeYarn (setBeat faultState 0
      { getBeat faultState 0 with faults := [] }) c).replays < 2) ∧
    (getBeat up 0).faults = [] ∧
    (getBeat replayState 0).replays.find? (fun r => !r.restored) = some replayA ∧
    egressBusy replayState replayA = false ∧
    haltedHars replayState replayA = false ∧
    restoreFinds replayState replayA .good = .good ∧
    restoreFinds replayState replayA .corrected = .corrected ∧
    restoreFinds replayState replayA .lastBad = .lastBad ∧
    restoreFinds replayState replayA .bothBad = .bothBad ∧
    restoreFinds replayState replayA .entryBad = .entryBad ∧
    ((replayVals replayState replayA 0).filter (fun e => decide ((codeYarn replayState e.1).replay = 0))).any (entryGone replayState) = false ∧
    ((replayVals goneState replayA 0).filter (fun e => decide ((codeYarn goneState e.1).replay = 0))).any (entryGone goneState) = true ∧
    domOn deadDie 1 59 = false ∧
    getF deadDie fBRD_STAT_lstate 0 0 = 0 ∧
    flagF deadDie fBEAT_STAT_peer_lost 0 0 = false ∧
    deadDie.rst.dozing = false ∧
    getF deadDie fVGL_PWR_state 0 0 = 0 ∧
    (getBeat updateState 0).update.isSome = true ∧
    updateMoved updateState 0 = true := by
  decide

/-- A harness whose clock has failed, a first or a second time. -/
def clockAt (relocks : Nat) : State :=
  setHar { up with rst.asserted := [{ src := 8, level := .harness, die := 0, har := 0 }] } 0 0 { harInit with relocks := relocks }

/-- A clock that slews from one frequency to another. -/
def slewAt (now freq : Nat) : State :=
  setF (setF (setF up fCLK_STAT_slewing 0 0 1) fCLK_STAT_freq_now 0 0 now) fCLK_CTL_freq 0 0 freq

/-- The voltage loop of harness 0 on or off. -/
def loopAt (en v : Nat) : State := setF (setF up fAVS_CTL_en 0 0 en) fAVS_STAT_vnow 0 0 v

theorem witness_HarnessClocksFailAndSlew :
    domWorks up 0 0 = true ∧
    (getHar up 0 0).inReset = false ∧
    (getHar up 0 0).halted = false ∧
    (clockHeld (clockAt 0) 0 0).isSome = true ∧
    (getHar (clockAt 0) 0 0).relocks = 0 ∧
    (clockHeld (clockAt 1) 0 0).isSome = true ∧
    (getHar (clockAt 1) 0 0).relocks ≠ 0 ∧
    flagF (slewAt 2 9) fCLK_STAT_slewing 0 0 = true ∧
    getF (slewAt 2 9) fCLK_STAT_freq_now 0 0 < getF (slewAt 2 9) fCLK_CTL_freq 0 0 ∧
    marginOf (setF (slewAt 2 9) fAVS_STAT_margin 0 0 255) 0 0 < marginTarget (setF (slewAt 2 9) fAVS_STAT_margin 0 0 255) ∧
    getF (slewAt 9 2) fCLK_CTL_freq 0 0 ≤ getF (slewAt 9 2) fCLK_STAT_freq_now 0 0 ∧
    marginTarget up = 0 ∧
    flagF (setF (loopAt 0 0) fAVS_STAT_margin 0 0 0) fAVS_CTL_en 0 0 = false ∧
    flagF (setF (loopAt 1 0) fAVS_STAT_margin 0 0 0) fAVS_CTL_en 0 0 = true ∧
    signed 8 (255 : BitVec 8).toNat < marginTarget (loopAt 1 0) ∧
    getF (setF (loopAt 1 0) fAVS_STAT_margin 0 0 0) fAVS_STAT_vnow 0 0 < min 63 (getF (setF (loopAt 1 0) fAVS_STAT_margin 0 0 0) fAVS_CTL_vmax 0 0) ∧
    marginTarget (loopAt 1 0) ≤ signed 8 0 ∧
    signed 8 4 ≤ marginTarget (loopAt 1 0) + 4 ∧
    domWorks (run (loopAt 0 0)) 0 0 = true ∧
    fwAt (run (loopAt 0 0)) 0 5 = true ∧
    flagF (wrapF (setF (run (loopAt 0 0)) fAGE_STAT_shift 0 0 3) fAGE_STAT_meas 0 0) fAVS_CTL_en 0 0 = false := by
  decide

/-- Domain 3 of die 0 in a step of its sequence. -/
def stepAt (st : DStep) (goal fall : DState) : State :=
  setDom up 0 3 { domInit with state := .off, step := st, goal := goal, fall := fall }

/-- A packet to harness 3 of die 0. -/
def packetA (cls : MsgClass) : Packet :=
  { cls := cls, gen := false, dst := 3, src := 64, op := 0x18, len := 0, token := 5, addr := 0, status := 0, write := false, inspect := false, data := [] }

/-- Domain 3 OFF, with or without its wake-on-access bit. -/
def asleepAt (woa : Nat) : State := setF (setDom up 0 3 { domInit with goal := .off }) fDOM_CTL_woa 0 3 woa

theorem witness_DomainsStepAndAnswer :
    Requester.fwOwn ≠ .host ∧
    domWritable 0 3 = true ∧
    targetOf 2 = some .on ∧
    domSupports 3 .on = true ∧
    targetOf 1 = some .ret ∧
    domSupports 36 .ret = false ∧
    domWritable 0 36 = true ∧
    (getDom (stepAt .u2 .on .off) 0 3).step = .u2 ∧
    (getDom (stepAt .u3 .on .off) 0 3).step = .u3 ∧
    (getDom (stepAt .d4 .off .off) 0 3).step = .d4 ∧
    (getDom (stepAt .u4 .on .off) 0 3).step = .u4 ∧
    (getDom (stepAt .u4 .on .off) 0 3).locks = 0 ∧
    (getDom (stepAt .d2 .off .off) 0 3).step = .d2 ∧
    (getDom (stepAt .d2 .off .off) 0 3).goal ≠ .on ∧
    (getDom (stepAt .d3 .off .ret) 0 3).step = .d3 ∧
    (getDom (stepAt .u1 .on .off) 0 3).step = .u1 ∧
    domExists 0 3 = true ∧
    proxied (asleepAt 0) 0 3 = true ∧
    (packetA .request).cls = .request ∧
    flagF (asleepAt 0) fDOM_CTL_woa 0 3 = false ∧
    proxied (asleepAt 1) 0 3 = true ∧
    flagF (asleepAt 1) fDOM_CTL_woa 0 3 = true ∧
    (packetA .event).cls = .event ∧
    (3 : Nat) ≠ 57 ∧
    (3 : Nat) ≠ 63 := by
  decide

/-- An event packet to the Rentur complex of die 0, and a request in progress. -/
def eventA : Packet := { packetA .event with dst := BitVec.ofNat 9 (19 * 4), src := BitVec.ofNat 9 (19 * 4 + 1) }
def awaitA : Await := { die := 0, ep := 9, token := 5, cross := false }

/-- The device whose tables bring a packet of router 19 to its own ports. -/
def routedAt : State := { up with net.routes := [(routeKey 0 0 19 19, 7)] }

/-- A generation switch in progress, with the routers that have switched. -/
def switchAt (done : Nat) : State :=
  { setF up fNOC_STAT_switching 0 0 1 with net := { State.reset.net with
      awaits := [awaitA], switched := (List.range done).map (fun r => (0, r)) } }

theorem witness_NetworkEventsAndGenerations :
    eventA.cls = .event ∧
    eventA.op = 0x18 ∧
    eventA.poison = false ∧
    epDie eventA.dst = 0 ∧
    epDie eventA.src = 0 ∧
    noRouter 0 eventA = false ∧
    epDomain eventA.dst = some 59 ∧
    (∀ e ∈ [((3 : Fin 42), FlitErr.none)], e.2 = FlitErr.none) ∧
    routed (passStray routedAt 0) 0 eventA = true ∧
    proxied (passStray routedAt 0) 0 59 = false ∧
    flagF (passStray routedAt 0) fNOC_STAT_switching 0 0 = false ∧
    dieHeld routedAt 0 = false ∧
    domOn routedAt 0 57 = true ∧
    (switchAt 0).net.awaits.find? (fun a => a.die = 0 ∧ a.ep = 9 ∧ a.token = 5) = some awaitA ∧
    flagF (switchAt 0) fNOC_STAT_switching 0 0 = true ∧
    ((0 : Nat), (41 : Nat)) ∉ (switchAt 41).net.switched ∧
    strayAt (switchAt 41) 0 41 (flagF (switchAt 41) fNOC_STAT_gen 0 0) = false ∧
    heldPackets (switchAt 42) 132 = [] ∧
    allSwitched (switchAt 42) 0 = true ∧
    heldPackets (switchAt 42) 130 = [] ∧
    (List.range 42).find? (fun r => !(switchAt 0).net.switched.contains (0, r)) = some 0 ∧
    (List.range 42).find? (fun r => !(switchAt 41).net.switched.contains (0, r)) = some 41 := by
  decide

/-- The Bredan link in a state of both its halves. -/
def linkAt (st : Nat) : State := setF (setF up fBRD_STAT_lstate 0 0 st) fBRD_STAT_lstate 1 0 st

/-- The link up with a rejoin pending, whose event die 0 has to send. -/
def rejoinAt : State :=
  setBrd (setF (setF (linkAt 2) fBRD_STAT_rejoin_pend 0 0 1) fBRD_STAT_rejoin_pend 1 0 1) 0 { getBrd (linkAt 2) 0 with rejoinEv := some 12 }

/-- A frame of idle flits in sequence, with its check. -/
def frameA : BitVec 4320 := BitVec.ofNat 4320 (frameCrc 0 * 2 ^ 4288)

theorem witness_BredanLinkFramesAndTraining :
    linkUp (linkAt 2) 0 = true ∧
    laneUsed (linkAt 2) 0 23 = true ∧
    laneUsed (linkAt 3) 0 0 = true ∧
    linkUp (linkAt 3) 0 = true ∧
    linkState (linkAt 4) 0 = 4 ∧
    linkState (linkAt 4) 1 = 4 ∧
    widthFor (0xFFFFFF &&& 0xFFFFFF) (getBrd (linkAt 4) 0).width12 = some (false, false) ∧
    widthFor 0x000FFF false = some (true, false) ∧
    linkState (linkAt 1) 0 ≤ 1 ∧
    linkState (linkAt 0) 1 ≤ 1 ∧
    mayTrain (linkAt 1) 0 = true ∧
    mayTrain (linkAt 1) 1 = true ∧
    widthFor (0x7FF7FF &&& 0xFFFFFF) ((getBrd (showLanes (linkAt 1) 0 0x7FF7FF 0xFFFFFF) 0).width12 && (getBrd (showLanes (linkAt 1) 0 0x7FF7FF
      0xFFFFFF) 1).width12) = none ∧
    widthFor (0xFFF000 &&& 0xFFFFFF) ((getBrd (showLanes (linkAt 1) 0 0xFFF000 0xFFFFFF) 0).width12 && (getBrd (showLanes (linkAt 1) 0 0xFFF000
      0xFFFFFF) 1).width12) = some (true, true) ∧
    widthFor (0xFFFFFF &&& 0xFFFFFF) ((getBrd (showLanes (linkAt 1) 0 0xFFFFFF 0xFFFFFF) 0).width12 && (getBrd (showLanes (linkAt 1) 0 0xFFFFFF
      0xFFFFFF) 1).width12) = some (false, false) ∧
    apart (showLanes (linkAt 1) 0 0xFFFFFF 0xFFFFFF) = false ∧
    flagF (showLanes (linkAt 1) 0 0xFFFFFF 0xFFFFFF) fBRD_STAT_split 0 0 = false ∧
    flagF (showLanes (linkAt 1) 0 0xFFFFFF 0xFFFFFF) fBRD_STAT_split 1 0 = false ∧
    flagF rejoinAt fBRD_STAT_rejoin_pend 0 0 = true ∧
    flagF rejoinAt fBRD_STAT_rejoin_pend 1 0 = true ∧
    linkUp rejoinAt 1 = true ∧
    (getBrd rejoinAt 0).rejoinEv.isSome = true := by
  decide

theorem witness_BredanLinkFramesAndTraining_crc :
    frameOk frameA = true := by
  set_option maxRecDepth 100000 in
  decide +kernel

theorem witness_BredanLinkFramesAndTraining_seq :
    trailer frameA 11 0 = (getBrd (linkAt 2) 0).nextSeq.toNat := by
  set_option maxRecDepth 100000 in
  decide +kernel

/-- A stack whose data rate changes, with some channel groups done. -/
def rateAt (groups : Nat) : State := setHbm (setF up fHBM_STAT_changing 0 0 1) 0 { hbmInit with groups := groups }

theorem witness_HbmTemperatureScrubAndRetire :
    signed 9 (128 : BitVec 9).toNat = 128 ∧
    signed 9 (127 : BitVec 9).toNat = 127 ∧
    signed 9 (384 : BitVec 9).toNat = -128 ∧
    (getHbm up 0).band ≤ bandOf 127 ∧
    ¬ (getHbm (setHbm up 0 { hbmInit with band := 4 }) 0).band ≤ bandOf (-128) ∧
    flagF (rateAt 6) fHBM_STAT_changing 0 0 = true ∧
    (getHbm (rateAt 6) 0).groups < 7 ∧
    flagF (rateAt 7) fHBM_STAT_changing 0 0 = true ∧
    7 ≤ (getHbm (rateAt 7) 0).groups ∧
    0 ∉ (getHbm up 0).poison := by
  decide

/-- A pass of the memory test that is asked for, runs, or has chunks left. -/
def marchReg (mode tgt : Nat) : Word := BitVec.ofNat 32 (2 ^ 31 + mode * 2 ^ (fMT_CTL_mode.lo) + tgt * 2 ^ (fMT_CTL_tgt.lo))
def marchRun (mode : Nat) (cs : List Chunk) : State :=
  setMarch (setF (setF up fMT_STAT_busy 0 0 1) fMT_CTL_mode 0 0 mode) 0 { marchInit with total := 2, chunks := cs }
def chunkA (tries : Nat) : Chunk := { mem := 0, har := 0, unit := 0, row := 0, first := 0, tries := tries }

/-- The beat engine of die 0 runs, so that its stack is in use. -/
def marchBusy : State := setBeat up 0 { beatInit with started := true }

theorem witness_MarchTestsRun :
    flagF up fMT_STAT_busy 0 0 = false ∧
    bitOf (marchReg 0 4).toNat 31 = true ∧
    domTakes (regWrite up .MT_CTL 0 0 (marchReg 0 4)) 0 60 = true ∧
    flagF (regWrite marchBusy .MT_CTL 0 0 (marchReg 0 4)) fMT_CTL_mode 0 0 = false ∧
    marchInUse (regWrite marchBusy .MT_CTL 0 0 (marchReg 0 4)) 0 (getF (regWrite marchBusy .MT_CTL 0 0 (marchReg 0 4)) fMT_CTL_tgt 0 0) = true ∧
    flagF marchBusy fMT_STAT_busy 0 0 = false ∧
    domTakes (regWrite marchBusy .MT_CTL 0 0 (marchReg 0 4)) 0 60 = true ∧
    marchInUse (regWrite up .MT_CTL 0 0 (marchReg 0 4)) 0 (getF (regWrite up .MT_CTL 0 0 (marchReg 0 4)) fMT_CTL_tgt 0 0) = false ∧
    flagF (regWrite up .MT_CTL 0 0 (marchReg 1 4)) fMT_CTL_mode 0 0 = true ∧
    flagF (marchRun 1 []) fMT_STAT_busy 0 0 = true ∧
    flagF (marchRun 1 []) fMT_CTL_mode 0 0 = true ∧
    flagF (marchRun 0 []) fMT_STAT_busy 0 0 = true ∧
    flagF (marchRun 0 []) fMT_CTL_mode 0 0 = false ∧
    (getMarch (marchRun 1 [chunkA 2]) 0).chunks = [chunkA 2] ∧
    (chunkA 2).tries < 3 ∧
    3 ≤ (chunkA 3).tries ∧
    (getMarch (marchRun 1 [chunkA 3]) 0).chunks = [chunkA 3] ∧
    (getMarch (marchRun 1 []) 0).chunks = [] ∧
    flagF (setF (marchRun 1 []) fMT_STAT_pct 0 0 100) fMT_CTL_mode 0 0 = true := by
  decide

/-- Port 0 as an Ethernet port, with its link up, and with a rule for each frame, or none. -/
def portAt (fields : Nat) (word : Word) : State :=
  let s := setF (setF (setF up fPCFG_en 0 0 1) fPCFG_mode 0 0 1) fPCS_STAT_link 0 0 1
  let s := setF s fPCFG_ptp_en 0 0 fields
  if word = 0 then s else setPortWord s 0 0xC08 word

/-- Frames: of 64 bytes with an EtherType of two bytes, and one too short. -/
def frameOf (hi lo : Byte) : List Byte := List.replicate 12 0x11 ++ [hi, lo] ++ List.replicate 50 0

/-- Port 0 with a binding of bobbin 7 and an item that may start. -/
def sendAt (items : List ItemRec) : State :=
  let s := setBob (portAt 0 0) 7 { bobA items with cons := .port }
  setPortWord (setPortWord s 0 0x208 0x00100000) 0 0x20C 7

/-- Port 0 with a frame of class 0 that is preempted, its gates open or shut, and with the rest of an item to send. -/
def partA : TxFrame := { tc := 0, bytes := List.replicate 128 0, sent := 64, count := 1 }
def partAt (isOpen : Bool) : State :=
  setPort (setPortWord (setF (portAt 0 0) fQBV_CTL_en 0 0 1) 0 0x400 0)
    0 { portInit with frag := some partA, started := !isOpen, olen := if isOpen then 0 else 1 }
def restA : TxItem := { tc := 0, frames := [List.replicate 64 0] }
def restAt : State := setPort (portAt 0 0) 0 { portInit with txq := [restA] }

/-- Port 0 with a gate control list. -/
def listAt (started : Bool) (entry olen : Nat) : State := setPort (portAt 0 0) 0 { portInit with started := started, entry := entry, olen := olen }

theorem witness_EthernetFramesAndGates :
    ethLive (portAt 0 0) 0 = true ∧
    portUp (portAt 0 0) 0 = true ∧
    (List.replicate 63 (0 : Byte)).length < 64 ∧
    64 ≤ (frameOf 0x88 0x08).length ∧
    (frameOf 0x88 0x08).length ≤ 9216 ∧
    (ethParse (frameOf 0x88 0x08)).etype = 0x8808 ∧
    (ethParse (frameOf 0x88 0xF7)).etype ≠ 0x8808 ∧
    flagF (portAt 1 0) fPCFG_ptp_en 0 0 = true ∧
    isPtp (ethParse (frameOf 0x88 0xF7)) = true ∧
    (ethParse (frameOf 0x08 0x00)).etype ≠ 0x8808 ∧
    flagF (portAt 0 0) fPCFG_ptp_en 0 0 = false ∧
    ethLive (portAt 1 0) 0 = true ∧
    portUp (portAt 1 0) 0 = true ∧
    ethLive (portAt 0 0x8000) 0 = true ∧
    portUp (portAt 0 0x8000) 0 = true ∧
    flagF (portAt 0 0x8000) fPCFG_ptp_en 0 0 = false ∧
    (List.range 64).find? (ruleTakes (portAt 0 0x8000) 0 (ethParse (frameOf 0x08 0x00))) = some 0 ∧
    (List.range 64).find? (ruleTakes (portAt 0 0) 0 (ethParse (frameOf 0x08 0x00))) = none ∧
    choose (skipBindings (portAt 0 0) 0) 0 (bindings (portAt 0 0) 0) = none ∧
    (getPort (skipBindings (portAt 0 0) 0) 0).frag = none ∧
    ((choose (skipBindings (sendAt [itemA 0]) 0) 0 (bindings (sendAt [itemA 0]) 0)).bind (fun c => c.getRight?)).isSome = true ∧
    (getPort (skipBindings (partAt true) 0) 0).frag = some partA ∧
    gateOpen (skipBindings (partAt true) 0) 0 partA.tc = true ∧
    ethLive (partAt true) 0 = true ∧
    portUp (partAt true) 0 = true ∧
    (getPort (skipBindings (partAt false) 0) 0).frag = some partA ∧
    gateOpen (skipBindings (partAt false) 0) 0 partA.tc = false ∧
    choose (skipBindings restAt 0) 0 (bindings restAt 0) = some (.inl restA) ∧
    ethLive restAt 0 = true ∧
    portUp restAt 0 = true ∧
    flagF (partAt true) fPCFG_lpbk (portDie 0) (portIx 0) = false ∧
    partA.sent ≠ 0 ∧
    { partA with sent := 0 }.sent = 0 ∧
    (getPort (partAt true) 0).verified = false ∧
    ethLive (sendAt [itemA 0]) 0 = true ∧
    portUp (sendAt [itemA 0]) 0 = true ∧
    ethLive (listAt true 0 2) 0 = true ∧
    (getPort (listAt true 0 2) 0).started = true ∧
    (getPort (listAt false 0 0) 0).started = false ∧
    ethLive (listAt false 0 0) 0 = true ∧
    (getPort (listAt true 0 2) 0).entry + 1 < (getPort (listAt true 0 2) 0).olen ∧
    ethLive (listAt true 1 2) 0 = true ∧
    (getPort (listAt true 1 2) 0).started = true ∧
    (getPort (listAt true 1 2) 0).olen ≤ (getPort (listAt true 1 2) 0).entry + 1 ∧
    flagF (setF (listAt true 0 2) fQBV_CTL_pend 0 0 1) fQBV_CTL_pend 0 0 = true ∧
    adminBase (setF (listAt true 0 2) fQBV_CTL_pend 0 0 1) 0 ≤ vigilNow (setF (listAt true 0 2) fQBV_CTL_pend 0 0 1) := by
  and_intros <;> decide

theorem witness_EthernetFramesAndGates_part :
    (∀ o : Bool, choose (skipBindings (partAt o) 0) 0 (bindings (partAt o) 0) = none) ∧
    preemptAt (partAt true) 0 partA.tc (partA.bytes.length - partA.sent) none = none := by
  refine ⟨?_, ?_⟩
  · intro o
    unfold choose
    rw [List.findSome?_eq_none_iff]
    intro x hx
    have hx := List.mem_of_mem_filter hx
    simp only [List.mem_cons, List.not_mem_nil, or_false] at hx
    rcases hx with rfl | rfl | rfl | rfl | rfl | rfl | rfl | rfl <;> cases o <;> decide
  · have h : (getPort (partAt true) 0).verified = false := by decide
    simp [preemptAt, h]

theorem witness_EthernetFramesAndGates_long :
    9216 < (List.replicate 9217 (0 : Byte)).length := by
  rw [List.length_replicate]
  decide

/-- A line without link. -/
def lineA : LineState where
  link := false
  blkLock := true
  hiBer := false
  remFault := false
  fecLock := true
  anDone := true
  verified := false
  fecCe := 3
  headers := []
  rxOk := [false, false, false, false]

/-- Port 0 in a mode with or without FEC, and its bit fec. -/
def fecAt (mode fec : Nat) : State := setF (setF up fPCFG_mode 0 0 mode) fPCFG_fec 0 0 fec

/-- What such a report shows. -/
def shownA (up : Bool) : LineShown := { link := up, blkLock := true, hiBer := false, remFault := false, fecLock := true }

/-- Port 0 with its link up or down in PCS_STAT. -/
def linkBit (v : Nat) : State := setF (portAt 0 0) fPCS_STAT_link 0 0 v

/-- Ring 0 with both its ports in the same Pickline mode, their links up or not, and its run bit. -/
def ringAt (link runs : Nat) (r : RingSt) : State :=
  let s := setF (setF (setF (setF up fPCFG_en 0 0 1) fPCFG_en 0 1 1) fPCFG_mode 0 0 4) fPCFG_mode 0 1 4
  let s := setF (setF (setF s fPCS_STAT_link 0 0 link) fPCS_STAT_link 0 1 link) fPL_CTL_run 0 0 runs
  setRing (setF (setF s fDEV_STATE_die0 0 0 2) fCFG_STAT_done 0 0 1) 0 r

/-- A ring that is not silent, and the same ring with its receivers in block lock. -/
def liveInit : RingSt := { ringInit with silent := false }
def lockedAt : State := setF (ringAt 1 0 ringInit) fPCS_STAT_blk_lock 0 0 1

/-- A write of PCFG, with its bit en. -/
def cfgWord (en : Bool) : Word := if en then 0x84000000 else 0x04000000

theorem witness_PortsAreConfiguredAndLost :
    Requester.fwOwn ≠ .host ∧
    bitOf (regRaw up .PCFG (portDie 0) (portIx 0)).toNat 31 = false ∧
    bitOf (regRaw (portAt 0 0) .PCFG (portDie 0) (portIx 0)).toNat 31 = true ∧
    flagF (regWrite (ringAt 0 0 ringInit) .PCFG 0 0 (cfgWord true)) fPCFG_en 0 0 = true ∧
    portMode (regWrite (ringAt 0 0 ringInit) .PCFG 0 0 (cfgWord true)) 0 ≠ 0 ∧
    ringPaired (regWrite (ringAt 0 0 ringInit) .PCFG 0 0 (cfgWord true)) 0 = true ∧
    flagF (regWrite up .PCFG 0 0 (cfgWord true)) fPCFG_en 0 0 = true ∧
    portMode (regWrite up .PCFG 0 0 (cfgWord true)) 0 ≠ 0 ∧
    ringPaired (regWrite up .PCFG 0 0 (cfgWord true)) 0 = false ∧
    flagF (regWrite up .PCFG 0 0 (cfgWord false)) fPCFG_en 0 0 = false ∧
    ringPaired (loseLine (regWrite up .PCFG 0 0 (cfgWord false)) 0) 0 = false ∧
    (linkBit 0).ports.supply = true ∧
    (linkBit 0).ports.quadLost = [] ∧
    flagF (linkBit 0) fPCFG_en 0 0 = true ∧
    portMode (linkBit 0) 0 ≠ 0 ∧
    portPowered (linkBit 0) 0 = true ∧
    isPickline (portMode (linkBit 0) 0) = false ∧
    isPickline (portMode (ringAt 1 0 ringInit) 0) = true ∧
    portPowered (ringAt 1 0 ringInit) 0 = true ∧
    flagF (ringAt 1 0 ringInit) fPCFG_en 0 0 = true ∧
    portMode (ringAt 1 0 ringInit) 0 ≠ 0 ∧
    flagF (linkBit 0) fPCS_STAT_link 0 0 = (shownA false).link ∧
    flagF (linkBit 1) fPCS_STAT_link 0 0 = true ∧
    (shownA false).link = false ∧
    flagF (linkBit 0) fPCS_STAT_link 0 0 = false ∧
    (shownA true).link = true ∧
    fecOn (fecAt 3 1) 0 = true ∧
    fecOn (fecAt 3 0) 0 = false ∧
    fecOn (fecAt 1 1) 0 = false ∧
    lineA.headers = [] ∧
    flagF lockedAt fPCS_STAT_blk_lock (portDie 0) (portIx 0) = true ∧
    ringLive lockedAt 0 = false ∧
    ringLive (showLine (setPort lockedAt 0 { getPort lockedAt 0 with idles := lineA.rxOk }) 0
      { link := false, blkLock := true, hiBer := false, remFault := true, fecLock := false }) 0 = false ∧
    portDie 0 = 0 ∧
    portIx 95 = 47 ∧
    portDie 95 = 1 := by
  decide

/-- A cycle of the ring under way. -/
def cycleA : RingSt := { liveInit with running := true, ended := false, period := 100000, lead := 2000, mode := 1, cmdOut := [true] }

/-- The ring as the start of its next cycle finds it. -/
def freshRingOf (s : State) : State :=
  let r := nextGrid (cycleEnd s 0) 0
  let prev := if (getRing (cycleEnd s 0) 0).running then pickAt (getRing (cycleEnd s 0) 0) else r.start + r.lead - r.period
  let r := { r with ended := false, built := false, picked := false, cmdOut := [], colOut := [], sending := [], evenReach := [] }
  setRing (cycleEnd s 0) 0 { r with oddReach := [], whole := false, taken := [], found := [], prevPick := prev }

theorem witness_PicklineCyclesRun :
    ringLive (ringAt 1 1 liveInit) 0 = true ∧
    (getRing (ringAt 1 1 liveInit) 0).built = false ∧
    (getRing (cycleEnd (ringAt 1 1 { liveInit with built := true }) 0) 0).built = true ∧
    holdReason (freshRingOf (ringAt 1 1 { liveInit with built := true })) 0 = 0 ∧
    ringTooLong (freshRingOf (ringAt 1 1 { liveInit with built := true })) 0 = false ∧
    holdReason (freshRingOf (ringAt 1 0 { liveInit with built := true })) 0 = 4 ∧
    (nextGrid (cycleEnd (ringAt 1 1 { liveInit with built := true, discPend := true }) 0) 0).discPend = true ∧
    holdReason (freshRingOf (ringAt 1 1 { liveInit with built := true, discPend := true })) 0 = 0 ∧
    (nextGrid (cycleEnd (ringAt 1 1 { liveInit with built := true }) 0) 0).discPend = false ∧
    portUp (freshRingOf (ringAt 0 1 { liveInit with built := true })) 0 = false ∧
    portUp (freshRingOf (ringAt 0 1 { liveInit with built := true })) 1 = false ∧
    holdReason (freshRingOf (ringAt 0 1 { liveInit with built := true })) 0 = 0 ∧
    ringTooLong (freshRingOf (ringAt 0 1 { liveInit with built := true })) 0 = false ∧
    portUp (freshRingOf (ringAt 1 1 { liveInit with built := true })) 0 = true ∧
    portUp (freshRingOf (ringAt 1 1 { liveInit with built := true })) 1 = true ∧
    (nextGrid (cycleEnd (ringAt 1 1 { liveInit with built := true, prev := some (1, 0, 1) }) 0) 0).prev = some (1, 0, 1) ∧
    (nextGrid (cycleEnd (ringAt 1 1 { liveInit with built := true }) 0) 0).prev = none ∧
    ringLive (ringAt 1 1 cycleA) 0 = true ∧
    (getRing (ringAt 1 1 cycleA) 0) = cycleA ∧
    cycleA.running = true ∧
    cycleA.ended = false ∧
    cycleA.picked = false ∧
    cycleA.mode ≠ 4 ∧
    cycleA.prev = none ∧
    cycleA.mode = 1 ∧
    { cycleA with mode := 4 }.mode = 4 ∧
    (getRing (ringAt 1 1 { cycleA with mode := 4 }) 0).ended = false ∧
    sameFinding (1, 0, 1) (1, 0, 1) = true ∧
    sameFinding (1, 0, 1) (finding (countLost (ringAt 0 1 { cycleA with prev := some (1, 0, 1) }) 0 1) 0 { cycleA with prev := some (1, 0, 1) }) = false := by
  decide

/-- A frame without slots of ring 0 or 5 and cycle 0, as its blocks, and as it is read. -/
def blocksA (sof eof : BitVec 64) : List PlBlock := [{ sync := 0b10, data := sof }, { sync := 0b10, data := eof }]
def frameP (ftype ring : Nat) (good : Bool) : PlFrame :=
  { ring := ring, cycle := 0, turnAddr := 0, origin := true, turned := false, ver := 1, ftype := ftype, slots := [], good := good }

/-- Ring 0 with a request of its even port that waits for its response. -/
def askedAt : State := setPort (ringAt 1 1 liveInit) 0 { portInit with dlyReq := some (7, 5) }

/-- Ring 0 after its pick instant. -/
def pickedA : State := ringAt 1 1 { cycleA with picked := true }

theorem witness_PicklineFramesReturnAndGrid_frames :
    plParse [] = none ∧
    plParse (blocksA 0x9266 0x917ec9c000000099) = some (frameP 2 0 true) ∧
    plParse (blocksA 0x9166 0x297bbc9800000099) = some (frameP 1 0 true) ∧
    plParse (blocksA 0x9166 0x99) = some (frameP 1 0 false) ∧
    plParse (blocksA 0x5000000009166 0x7453453300000099) = some (frameP 1 5 true) := by
  decide +kernel

theorem witness_PicklineFramesReturnAndGrid :
    ringLive (ringAt 1 1 cycleA) 0 = true ∧
    getRing (ringAt 1 1 cycleA) 0 = cycleA ∧
    cycleA.running = true ∧
    cycleA.ended = false ∧
    (frameP 1 5 true).ring ≠ 0 ∧
    (frameP 1 0 true).ring = 0 ∧
    (frameP 1 0 true).cycle = cycleA.cycle.toNat ∧
    (frameP 1 0 false).good = false ∧
    (frameP 1 0 true).good = true ∧
    leadLate pickedA (getRing pickedA 0) (frameP 1 0 true) = false ∧
    (frameP 1 0 true).ftype ≠ 2 ∧
    leadLate (ringAt 1 1 cycleA) cycleA (frameP 2 0 true) = false ∧
    (frameP 2 0 true).ftype = 2 ∧
    flagF (ringAt 1 1 cycleA) fPL_CTL_run (ringDie 0) (ringIx 0) = true ∧
    ringLive (ringAt 1 1 liveInit) 0 = true ∧
    (getRing (ringAt 1 1 liveInit) 0).running = false ∧
    (getRing (ringAt 1 1 { cycleA with ended := true }) 0).ended = true ∧
    ringLive (ringAt 1 1 { cycleA with ended := true }) 0 = true ∧
    isDly (idleBlock true) = false ∧
    isDly (dlyBlock false 7 0) = true ∧
    bitOf (dlyBlock false 7 0).data.toNat 8 = false ∧
    isDly (dlyBlock true 7 100) = true ∧
    bitOf (dlyBlock true 7 100).data.toNat 8 = true ∧
    (getPort askedAt 0).dlyReq = some (BitVec.ofNat 16 (bitsOf (dlyBlock true 7 100).data.toNat 31 16), 5) ∧
    looped askedAt (ringPort 0 false) = false ∧
    ringLive askedAt 0 = true ∧
    ringPort 0 false = 0 ∧
    flagF (ringAt 1 0 cycleA) fPL_CTL_run (ringDie 0) (ringIx 0) = false ∧
    bitsOf (1999 : Word).toNat 20 0 < 2000 ∧
    2000 ≤ bitsOf (2000 : Word).toNat 20 0 ∧
    bitsOf (2000 : Word).toNat 20 0 + 2000 ≤ getF (setF up fPL_PERIOD_value (ringDie 0) (ringIx 0) 4000) fPL_PERIOD_value (ringDie 0) (ringIx 0) ∧
    getF (setF up fPL_PERIOD_value (ringDie 0) (ringIx 0) 4000) fPL_PERIOD_value (ringDie 0) (ringIx 0) < bitsOf (2001 : Word).toNat 20 0 + 2000 := by
  decide

theorem witness_PicklineFramesReturnAndGrid_other :
    ∀ sent, (getPort askedAt 0).dlyReq ≠ some (BitVec.ofNat 16 (bitsOf (dlyBlock true 8 100).data.toNat 31 16), sent) := by
  intro sent h
  have h7 : (getPort askedAt 0).dlyReq = some (7, 5) := by decide
  rw [h7] at h
  have h8 := congrArg (fun o => o.map (fun e => e.1)) h
  have hn : ¬ (some (7 : BitVec 16) = some (BitVec.ofNat 16 (bitsOf (dlyBlock true 8 100).data.toNat 31 16))) := by decide
  exact hn h8

theorem witness_ReturnedFramesNotOfTheCycleAreDiscarded :
    ringLive pickedA 0 = true ∧
    (getRing (ringAt 1 1 liveInit) 0).running = false ∧
    (getRing pickedA 0).running = true ∧
    (getRing pickedA 0).ended = false ∧
    (frameP 1 0 false).good = false ∧
    (frameP 1 5 true).ring ≠ 0 ∧
    (frameP 1 0 true).cycle ≠ 65535 ∧
    (frameP 1 0 true).good = true ∧
    (frameP 1 0 true).ring = 0 ∧
    (frameP 1 0 true).cycle = (getRing pickedA 0).cycle.toNat ∧
    leadLate pickedA (getRing pickedA 0) (frameP 1 0 true) = false ∧
    (frameP 1 0 true).ftype ≠ 2 := by
  decide

/-- Queue pair 2, enabled or not, with queues of four entries. -/
def queueAt (en : Nat) (p : QpSt) : State :=
  let s := setF (setF (setF up fQP_CTL_en 0 2 en) fQP_STAT_ready 0 2 en) fQP_SIZE_sq_size 0 2 3
  setQp (setF s fQP_SIZE_cq_size 0 2 3) 2 p

theorem witness_QueueDoorbellsAndEnable :
    (queueAt 1 qpInit).host.d3hot = false ∧
    (queueAt 1 qpInit).rst.dozing = false ∧
    flagF (queueAt 0 qpInit) fQP_CTL_en 0 2 = false ∧
    flagF (queueAt 1 qpInit) fQP_CTL_en 0 2 = true ∧
    (3 : BitVec 16).toNat < sqDepth (queueAt 1 qpInit) 2 ∧
    sqDepth (queueAt 1 qpInit) 2 ≤ (4 : BitVec 16).toNat ∧
    (3 : BitVec 16).toNat < cqDepth (queueAt 1 qpInit) 2 ∧
    cqDepth (queueAt 1 qpInit) 2 ≤ (4 : BitVec 16).toNat ∧
    (queueAt 0 qpInit).host.d3hot = false ∧
    (getQp (queueAt 1 { qpInit with draining := true }) 2).draining = true ∧
    (getQp (queueAt 1 qpInit) 2).draining = false := by
  decide

/-- A completion that waits, without a buffer. -/
def complA : Completion := { result0 := 0, result1 := 0, result2 := 0, beat := 0, status := 0, cid := 7, event := none, buf := [] }

/-- A completion of an event of beat ordinal 5, which is the current beat. -/
def complE : Completion := { complA with event := some (0x14, 0, 0, 5) }

theorem witness_CompletionsAndMessagesReachTheHost :
    (queueAt 1 { qpInit with waiting := [complA] }).host.d3hot = false ∧
    flagF (queueAt 1 { qpInit with waiting := [complA] }) fQP_STAT_ready 0 2 = true ∧
    (getQp (queueAt 1 { qpInit with waiting := [complA] }) 2).waiting = [complA] ∧
    cqFree (queueAt 1 { qpInit with waiting := [complA] }) 2 ≠ 0 ∧
    cqFree (queueAt 1 { qpInit with waiting := [complA], cqHead := 1, cqTail := 0 }) 2 = 0 ∧
    complA.buf = [] ∧
    (getQp (queueAt 1 { qpInit with waiting := [complA] }) 2).cqTail + 1 ≠ cqDepth (queueAt 1 { qpInit with waiting := [complA] }) 2 ∧
    (getQp (queueAt 1 { qpInit with waiting := [complA], cqTail := 3, cqHead := 1 }) 2).cqTail + 1 = cqDepth (queueAt 1
      { qpInit with waiting := [complA], cqTail := 3, cqHead := 1 }) 2 ∧
    cqFree (queueAt 1 { qpInit with waiting := [complA], cqTail := 3, cqHead := 1 }) 2 ≠ 0 ∧
    (getQp (queueAt 1 qpInit) 2).coalBusy = false ∧
    (getQp (queueAt 1 { qpInit with coalBusy := true, msgDue := true }) 2).coalBusy = true ∧
    (getQp (queueAt 1 { qpInit with coalBusy := true, msgDue := true }) 2).msgDue = true ∧
    (getQp (queueAt 1 { qpInit with coalBusy := true }) 2).msgDue = false ∧
    bitOf (regRaw (setF up fMSIX_CTL_mask 0 63 0) .MSIX_PBA 0 1).toNat 31 = false ∧
    bitOf (regRaw (setF (setReg up .MSIX_PBA 0 1 0x80000000) fMSIX_CTL_mask 0 63 0) .MSIX_PBA 0 1).toNat 31 = true ∧
    HostResetKind.linkDown = .linkDown ∧
    flagF (setF up fCXL_LINK_STAT_up 0 0 1) fCXL_LINK_STAT_up 0 0 = true ∧
    nextCompletion (queueAt 1 { qpInit with waiting := [complA] }) [complA] = some (complA, []) ∧
    writeStopped (queueAt 1 { qpInit with waiting := [complA] }) 2 = false ∧
    heldEvent (beatsAt beatB beatB) complA = false ∧
    heldEvent (beatsAt beatB beatB) complE = true ∧
    heldEvent (beatsAt { beatB with ord := 6 } beatB) complE = false ∧
    nextCompletion (beatsAt beatB beatB) [complE, complA] = some (complA, [complE]) := by
  decide

/-- A command of the host with its operands and its buffer. -/
def hc (op : Nat) (ops : List Word) (buf : List Byte) : HostCmd :=
  { cmdOf op 0 0 with ops := ops ++ List.replicate (9 - ops.length) 0, buf := buf, bufLen := BitVec.ofNat 32 buf.length }

/-- The entry of a submission queue that spells a command with one operand. -/
def entryA (op fence op0 : Nat) : BitVec 512 := BitVec.ofNat 512 (op + fence * 256 + 7 * 65536 + op0 * 2 ^ (8 * 0x1C))

/-- Queue pair 2 with an entry to fetch, and with commands in flight. -/
def fetchAt (n : Nat) : State := queueAt 1 { qpInit with sqTail := 2, inFlight := n }

/-- A command that waits in the mailbox of die 0. -/
def mailAt (mute : Bool) : State := setRt (run up) 0 { getRt (run up) 0 with mailbox := [{ cmd := hc 0 [] [], mute := mute }] }

theorem witness_CommandsAreFetchedAndServed :
    canFetch up 2 = false ∧
    canFetch (fetchAt 0) 2 = true ∧
    (parseEntry 2 (entryA 0 1 0) [] true).fence = true ∧
    canFetch (fetchAt 1) 2 = true ∧
    0 < (getQp (fetchAt 1) 2).inFlight ∧
    (parseEntry 2 (entryA 0 0 0) [] true).fence = false ∧
    (getQp (fetchAt 0) 2).inFlight = 0 ∧
    fetchCheck (entryA 0xFE 0 0) (parseEntry 2 (entryA 0xFE 0 0) [] true) = some 1 ∧
    fetchCheck (entryA 0 0 1) (parseEntry 2 (entryA 0 0 1) [] true) = some 2 ∧
    fetchCheck (entryA 0 0 0) (parseEntry 2 (entryA 0 0 0) [] true) = none ∧
    turnedAway (fetchAt 0) (parseEntry 2 (entryA 0 0 0) [] true) = none ∧
    isStaged (parseEntry 2 (entryA 0 0 0) [] true).opcode.toNat = false ∧
    fetchCheck (entryA 0x40 0 250) (parseEntry 2 (entryA 0x40 0 250) [] true) = none ∧
    isStaged (parseEntry 2 (entryA 0x40 0 250) [] true).opcode.toNat = true ∧
    turnedAway (fetchAt 0) (parseEntry 2 (entryA 0x40 0 250) [] true) = none ∧
    fetchCheck (entryA 0x41 0 0x200) (parseEntry 2 (entryA 0x41 0 0x200) [] true) = none ∧
    turnedAway (setBeat (fetchAt 0) 0 (getBeat updateState 0)) (parseEntry 2 (entryA 0x41 0 0x200) [] true) = some 10 ∧
    ((getRt (mailAt false) 0).mailbox).length = 1 ∧
    fwRuns (mailAt false) 0 = true ∧
    ((getRt (mailAt true) 0).mailbox.map (fun m => m.mute)) = [true] ∧
    apart (mailAt false) = false := by
  decide +kernel

theorem witness_CommandsAreFetchedAndServed_full :
    1024 ≤ { up with host.staged := List.replicate 1024 { cmd := hc 0 [] [], tick := 0 } }.host.staged.length := by
  show 1024 ≤ (List.replicate 1024 _).length
  rw [List.length_replicate]

theorem witness_HostCommandsNopSubscribeResetAndLoad :
    bitsOf (opOf (hc 1 [1] []) 0) 2 0 = 1 ∧
    bitsOf (opOf (hc 1 [2] []) 0) 2 0 = 2 ∧
    bitsOf (opOf (hc 1 [3] []) 0) 2 0 = 3 ∧
    bitsOf (opOf (hc 1 [4] []) 0) 2 0 = 4 ∧
    bitsOf (opOf (hc 1 [5, 35] []) 0) 2 0 = 5 ∧
    opHar (hc 1 [5, 35] []) 1 < 36 ∧
    36 ≤ opHar (hc 1 [5, 36] []) 1 ∧
    bitsOf (opOf (hc 1 [0] []) 0) 2 0 = 0 ∧
    6 ≤ bitsOf (opOf (hc 1 [6] []) 0) 2 0 ∧
    36 ≤ opHar (hc 0x30 [36] []) 0 ∧
    opHar (hc 0x30 [35] []) 0 < 36 ∧
    (loadPackage up 0 35 []).2 ≠ 0 ∧
    bitOf (opOf (hc 0x31 [0, 0] []) 1) 0 = false ∧
    (armSwap (swapAt false) 0 0).2 ≠ none ∨ (armSwap (swapAt false) 0 0).2 = none ∧
    (armSwap up 0 0).2 = none ∧
    (armSwap clashAt 0 0).2.isSome = true ∧
    bitOf (opOf (hc 0x31 [0, 1] []) 1) 0 = true ∧
    (getHar up 0 0).armTick = none ∧
    (getHar (swapAt false) 0 0).armTick = some 0 ∧
    (getHar (swapAt false) 0 0).draining = false := by
  decide

theorem witness_HostCommandsOfHarnessesBeatsAndDomains :
    36 ≤ opHar (hc 0x32 [36] []) 0 ∧
    opHar (hc 0x32 [0] []) 0 < 36 ∧
    flagF hostDarn fDARN_STAT_busy 0 0 = true ∧
    flagF (faultyAt true) fDARN_STAT_busy 0 0 = false ∧
    spareUsed (faultyAt true) 0 0 (bitsOf (opOf (hc 0x32 [0] []) 0) 10 8) = true ∧
    spareUsed (faultyAt false) 0 0 (bitsOf (opOf (hc 0x32 [0] []) 0) 10 8) = false ∧
    flagF (faultyAt false) fDARN_STAT_busy 0 0 = false ∧
    bitsOf (opOf (hc 0x33 [0] []) 8) 6 0 = 0 ∧
    bitsOf (opOf (hc 0x33 [0, 0, 0, 0, 0, 0, 0, 0, 20] []) 8) 6 0 ≠ 0 ∧
    domExists 1 (bitsOf (opOf (hc 0x41 [0x1003E] []) 0) 6 0) = false ∧
    opDie (hc 0x41 [0x1003E] []) 0 = 1 ∧
    domExists 0 (bitsOf (opOf (hc 0x41 [0x203] []) 0) 6 0) = true ∧
    targetOf (bitsOf (opOf (hc 0x41 [0x203] []) 0) 9 8) = some .on ∧
    domSupports 3 .on = true ∧
    domWritable 0 3 = true ∧
    targetAllowed (asleepAt 0) 0 3 .on = true ∧
    (getHar (asleepAt 0) 0 3).halted = false ∧
    (getDom (setF (asleepAt 0) fDOM_CTL_woa 0 3 0) 0 3).state ≠ .on ∧
    targetOf (bitsOf (opOf (hc 0x41 [0x124] []) 0) 9 8) = some .ret ∧
    domSupports 36 .ret = false ∧
    targetOf (bitsOf (opOf (hc 0x41 [0x30] []) 0) 9 8) = some .off ∧
    domSupports 48 .off = true ∧
    targetAllowed up 0 48 .off = false ∧
    flagF (marchRun 1 []) fMT_STAT_busy (opDie (hc 0x42 [0] []) 0) 0 = true ∧
    flagF up fMT_STAT_busy (opDie (hc 0x42 [0] []) 0) 0 = false ∧
    bitsOf (opOf (hc 0x42 [0x1800] []) 0) 12 11 = 3 ∧
    bitsOf (opOf (hc 0x42 [0] []) 0) 10 7 = 0 ∧
    bitsOf (opOf (hc 0x42 [0x200] []) 0) 12 11 ≠ 3 ∧
    bitsOf (opOf (hc 0x42 [0x200] []) 0) 10 7 ≠ 0 ∧
    flagF (mtStart (regWrite (regWrite up .MT_HSEL_LO 0 0 0) .MT_HSEL_HI 0 0 0) 0 (BitVec.ofNat 32 (2 ^ 31 + bitsOf (opOf (hc 0x42 [0x200] []) 0) 13
      0))) fMT_STAT_busy 0 0 = true ∧
    flagF (mtStart (regWrite (regWrite marchBusy .MT_HSEL_LO 0 0 0) .MT_HSEL_HI 0 0 0) 0 (BitVec.ofNat 32 (2 ^ 31 + bitsOf (opOf (hc 0x42 [0x204] [])
      0) 13 0))) fMT_STAT_busy 0 0 = false := by
  decide

/-- A ring of port 94 (ring 47) with its registers as a RING_CFG sets them: one node of 2 command words from a bobbin of yarn 4. -/
def nodeRing (per : Word) (words : Nat) : State :=
  let s := setNodeWord (setNodeWord (setNodeWord (flowAt yarnA { bobA [] with prod := .yarn, prodId := 4 }) 1 0 0 0x80000000) 1 0 3 (7 * 65536)) 1 0 4 words
  setReg (setReg (setReg s .PL_PERIOD 1 46 per) .PL_LEAD 1 46 (per / 2)) .PL_NODES 1 46 0x10000

/-- The ring's state when a NODE_SET writes one entry. -/
def nodeAfter (s : State) (a : Nat) (e : List Byte) : State :=
  (List.range 5).foldl (fun s w => setNodeWord s 1 a w (fieldAt e (4 * w) 4)) s

/-- The entry of the ring's node. -/
def nodeBytes : List Byte := leBytes 4 0x80000000 ++ List.replicate 8 0 ++ leBytes 4 (7 * 65536) ++ leBytes 4 2 ++ List.replicate 12 0

/-- A ring that its lead does not allow to reach its node. -/
def ringShort : State := setReg (nodeRing 8000 2) .PL_LEAD 1 46 2000

/-- The same while the yarn holds. -/
def ringHeld : State := setYarn (nodeRing 100000 2) 0 4 { yarnA with state := .hold }

/-- The operands of RING_CFG for a ring with a period and a lead. -/
def ringCmd (k per lead : Word) : HostCmd := hc 0x52 [k, 0x80000000, per, lead, 0, 0, 0x10000] []

theorem witness_HostCommandsOfPortsRingsAndNodes :
    96 ≤ opPort (hc 0x50 [96] []) ∧
    opPort (hc 0x50 [95, 0] []) < 96 ∧
    regValueOk .PCFG (opOf (hc 0x50 [95, 0] []) 1) = true ∧
    regValueOk .PCFG (opOf (hc 0x50 [95, 0x06000000] []) 1) = false ∧
    bitsOf (regRaw (portAt 0 0) .PCFG (portDie 0) (portIx 0)).toNat 26 22 ≠ bitsOf (opOf (hc 0x50 [0, 0x02000000] []) 1) 26 22 ∧
    regValueOk .PCFG (opOf (hc 0x50 [0, 0x02000000] []) 1) = true ∧
    96 ≤ opPort (hc 0x51 [96] []) ∧
    bitsOf (opOf (hc 0x51 [96] []) 0) 9 8 = 0 ∧
    opPort (hc 0x51 [95, 0x10040] (List.replicate 16 0)) < 96 ∧
    64 < bitsOf (opOf (hc 0x51 [95, 0x10040] (List.replicate 16 0)) 1) 15 0 + bitsOf (opOf (hc 0x51 [95, 0x10040] (List.replicate 16 0)) 1) 31 16 ∧
    (hc 0x51 [95, 0x1003F] (List.replicate 15 0)).bufLen.toNat < 1 * 16 ∧
    bitsOf (opOf (hc 0x51 [95, 0x1003F] (List.replicate 16 0)) 1) 15 0 + bitsOf (opOf (hc 0x51 [95, 0x1003F] (List.replicate 16 0)) 1) 31 16 ≤ 64 ∧
    1 * 16 ≤ (hc 0x51 [95, 0x1003F] (List.replicate 16 0)).bufLen.toNat ∧
    portEntryOk 0 (((hc 0x51 [95, 0x1003F] (List.replicate 16 0)).buf.drop 0).take 16) = true ∧
    portEntryOk 0 (((hc 0x51 [95, 0x1003F] (List.replicate 16 0xFF)).buf.drop 0).take 16) = false ∧
    48 ≤ bitsOf (opOf (ringCmd 48 100000 50000) 0) 5 0 ∧
    bitsOf (opOf (ringCmd 47 100000 50000) 0) 5 0 < 48 ∧
    ringOpsOk (ringCmd 47 100000 1999) = false ∧
    ringOpsOk (ringCmd 47 100000 98001) = false ∧
    ringOpsOk (ringCmd 47 100000 98000) = true ∧
    ringOpsOk (ringCmd 47 100000 2000) = true ∧
    ringFits (setReg (nodeRing 8000 2) .PL_LEAD 1 46 2000) 47 = false ∧
    ringFits (nodeRing 100000 2) 47 = true ∧
    bitOf (opOf (ringCmd 47 100000 50000) 1) 31 = true ∧
    ringWaits ringHeld 47 = true ∧
    ringFits ringHeld 47 = true ∧
    ringWaits (nodeRing 100000 2) 47 = false ∧
    3072 < bitsOf (opOf (hc 0x53 [3071, 2] []) 0) 11 0 + bitsOf (opOf (hc 0x53 [3071, 2] []) 1) 11 0 ∧
    (hc 0x53 [3071, 1] (List.replicate 31 0)).bufLen.toNat < 1 * 32 ∧
    bitsOf (opOf (hc 0x53 [0x10BFF, 1] (List.replicate 32 0)) 0) 11 0 + bitsOf (opOf (hc 0x53 [0x10BFF, 1] (List.replicate 32 0)) 1) 11 0 ≤ 3072 ∧
    1 * 32 ≤ (hc 0x53 [0x10BFF, 1] (List.replicate 32 0)).bufLen.toNat ∧
    nodeEntryOk (((hc 0x53 [0x10BFF, 1] (List.replicate 32 0)).buf.drop 0).take 32) = true ∧
    (List.range 24).all (fun i => ringFits (nodeRing 100000 2) (24 + i)) = true ∧
    bitsOf (opOf (hc 0x51 [0x35F] []) 0) 9 8 = 3 ∧
    (0, 0xC00, 64, 16) ∈ [(0, 0xC00, 64, 16), (1, 0x200, 32, 16), (2, 0x800, 256, 4)] ∧
    bitsOf (opOf (hc 0x51 [0x160] []) 0) 9 8 = 1 ∧ 96 ≤ opPort (hc 0x51 [0x160] []) ∧
    bitsOf (opOf (hc 0x51 [0x15F, 0x1001F] []) 0) 9 8 = 1 ∧
    (1, 0x200, 32, 16) ∈ [(0, 0xC00, 64, 16), (1, 0x200, 32, 16), (2, 0x800, 256, 4)] ∧
    32 < bitsOf (opOf (hc 0x51 [0x15F, 0x10020] []) 1) 15 0 + bitsOf (opOf (hc 0x51 [0x15F, 0x10020] []) 1) 31 16 ∧
    bitsOf (opOf (hc 0x51 [0x15F, 0x1001F] []) 1) 15 0 + bitsOf (opOf (hc 0x51 [0x15F, 0x1001F] []) 1) 31 16 ≤ 32 ∧
    portEntryOk 1 (((hc 0x51 [0x15F, 0x1001F] (List.replicate 16 0)).buf.drop 0).take 16) = true ∧
    portEntryOk 1 (((hc 0x51 [0x15F, 0x1001F] (List.replicate 16 0xFF)).buf.drop 0).take 16) = false ∧
    bitsOf (opOf (hc 0x51 [0x25F, 0x100FF, 1, 0, 0, 1000] []) 0) 9 8 = 2 ∧
    (2, 0x800, 256, 4) ∈ [(0, 0xC00, 64, 16), (1, 0x200, 32, 16), (2, 0x800, 256, 4)] ∧
    256 < bitsOf (opOf (hc 0x51 [0x25F, 0x10100] []) 1) 15 0 + bitsOf (opOf (hc 0x51 [0x25F, 0x10100] []) 1) 31 16 ∧
    bitsOf (opOf (hc 0x51 [0x25F, 0x100FF] []) 1) 15 0 + bitsOf (opOf (hc 0x51 [0x25F, 0x100FF] []) 1) 31 16 ≤ 256 ∧
    (regValueOk .QBV_BASE_NS (opOf (hc 0x51 [0x25F, 0x100FF, 1, 0, 0, 1000] []) 3) && regValueOk .QBV_CYCLE (opOf (hc 0x51 [0x25F, 0x100FF, 1, 0, 0,
      1000] []) 5)) = true ∧
    (regValueOk .QBV_BASE_NS (opOf (hc 0x51 [0x25F, 0x100FF, 1, 0, 0, 1000000000] []) 3) && regValueOk .QBV_CYCLE (opOf (hc 0x51 [0x25F, 0x100FF, 1, 0,
      0, 1000000000] []) 5)) = false ∧
    portEntryOk 2 (List.replicate 4 0xFF) = true ∧
    1 * 4 ≤ (hc 0x51 [0x25F, 0x100FF, 1, 0, 0, 1000] (List.replicate 4 0)).bufLen.toNat ∧
    nodeEntryOk (List.replicate 32 0xFF) = false ∧
    nodeEntryOk nodeBytes = true ∧
    (∀ k : Fin 48, 24 ≤ k.val → ringFits (nodeAfter (nodeRing 100000 2) 0xBFF (List.replicate 32 0)) k.val = true) ∧
    0 < ringCount ringShort 47 ∧ getF ringShort fPL_NODES_base 1 (ringIx 47) < 0 + 1 ∧ 0 < getF ringShort fPL_NODES_base 1 (ringIx 47) + ringCount
      ringShort 47 ∧
    ringFits (nodeAfter ringShort 0 nodeBytes) 47 = false := by
  and_intros <;> decide +kernel

/-- The descriptor of yarn `n` in replay class `c`, with one stage at harness 0, index 2, and one input bobbin. -/
def descA (n c bob : Nat) : List Byte :=
  leBytes 4 (2 * 65536 + c * 2 ^ 23) ++ leBytes 4 n ++ leBytes 4 (2 ^ 31 + 2 * 2 ^ 21) ++ List.replicate 12 0 ++ leBytes 4 (2 ^ 31 + bob) ++ List.replicate 100 0

/-- Yarn 4 in a state. -/
def yarnIs (st : YState) : State := flowAt { yarnA with state := st } (bobA [])

/-- Yarn 4 writes bobbin 7 in replay class 1. -/
def outYarn : State := flowAt { yarnA with ins := [], outs := [some { bob := 7, idx := 0, lane := 0 }], replay := 1 } (bobA [])

theorem witness_YarnCommandsChangeState :
    createYarn up [] = .inr 2 ∧
    (createYarn up (descA 5 0 7)).isLeft = true ∧
    descOk [] = false ∧
    descOk (descA 4 0 7) = true ∧
    yarnDies (yarnIs .idle) (bitsOf (descWord (descA 4 0 7) 4) 14 0) ≠ [] ∧
    yarnDies outYarn (bitsOf (descWord (descA 5 0 7) 4) 14 0) = [] ∧
    classClash outYarn (yarnOfDesc (descA 5 0 7)) = true ∧
    32768 ≤ opYarn (hc 0x11 [32768] []) ∧
    yarnDies up (opYarn (hc 0x11 [4] [])) = [] ∧
    opYarn (hc 0x11 [4] []) < 32768 ∧
    yarnDies (yarnIs .idle) (opYarn (hc 0x11 [4] [])) = [0] ∧
    (getYarn (yarnIs .idle) 0 4).state = .idle ∧
    yarnDies (yarnIs .run) (opYarn (hc 0x11 [4] [])) = [0] ∧
    (getYarn (yarnIs .run) 0 4).state ≠ .idle ∧
    (getYarn (yarnIs .run) 0 4).state = .run ∧
    yarnDies (yarnIs .hold) (opYarn (hc 0x11 [4] [])) = [0] ∧
    (getYarn (yarnIs .hold) 0 4).state = .hold ∧
    (getYarn (yarnIs .run) 0 4).state ≠ .hold ∧
    (getYarn (yarnIs .hold) 0 4).state ≠ .run ∧
    descOk (descA 32767 0 7) = true ∧
    (createYarn up (descA 32767 0 7)).isLeft = true := by
  decide +kernel

theorem witness_YarnCommandsRestartDeleteAndAsk :
    32768 ≤ opYarn (hc 0x14 [65535] []) ∧
    opYarn (hc 0x14 [4] []) < 32768 ∧
    yarnDies (yarnIs .stopped) (opYarn (hc 0x14 [4] [])) = [0] ∧
    (getYarn (yarnIs .stopped) 0 4).state = .stopped ∧
    (getYarn (yarnIs .run) 0 4).state ≠ .stopped ∧
    (getYarn (yarnIs .stopped) 0 4).state ∈ [YState.idle, .hold, .stopped, .split] ∧
    (getYarn (yarnIs .run) 0 4).state ∉ [YState.idle, .hold, .stopped, .split] ∧
    (getYarn (yarnIs .replay) 0 4).state ∉ [YState.idle, .hold, .stopped, .split] ∧
    (getYarn (yarnIs .run) 0 4).state ≠ .free ∧
    yarnHome up (opYarn (hc 0x16 [4] [])) = none ∧
    yarnHome (yarnIs .run) (opYarn (hc 0x16 [4] [])) = some 0 ∧
    committedDesc (yarnIs .run) 0 4 = none ∧
    committedDesc (flowAt { yarnA with snaps := [(0, descA 4 0 7)] } (bobA [])) 0 4 = some (descA 4 0 7) ∧
    yarnHome (flowAt { yarnA with snaps := [(0, descA 4 0 7)] } (bobA [])) 4 = some 0 ∧
    goneDesc up 4 = none ∧
    goneDesc { up with flow.gone := [{ die := 0, yarn := 4, cut := 3, snaps := [(0, descA 4 0 7)] }] } 4 = some (descA 4 0 7) ∧
    (yarnHome { up with flow.gone := [{ die := 0, yarn := 4, cut := 3, snaps := [(0, descA 4 0 7)] }] } 4) = none := by
  decide +kernel

/-- The device with a spool region of 16 granules in stack 0. -/
def spoolUp : State := { up with mem.sys := memWrite [] 36 (leBytes 4 16) }

/-- BOB_CREATE of bobbin 9 from host ring 15 to a consumer, with a quota. -/
def bobCmd (cons id q : Word) : HostCmd := hc 0x20 [0x900C0 + cons * 16, 15 + id * 65536, q] []

/-- Bobbin 7 between yarns of two replay classes. -/
def twoClasses : State := setYarn (setYarn up 0 4 { yarnA with replay := 1 }) 0 5 { yarnA with replay := 2 }

/-- All bobbins of yarn 4 and a bobbin that nothing names. -/
def bobFreeOf (b : Bob) : State := setBob up 7 b

theorem witness_BobbinCommandsOfTheHost :
    endTypeOf (bitsOf (opOf (bobCmd 0 32767 4) 0) 7 6) = .host ∧
    endTypeOf (bitsOf (opOf (bobCmd 0 32767 4) 0) 5 4) = .yarn ∧
    bitsOf (opOf (bobCmd 0 32767 4) 0) 31 16 = 9 ∧
    bitsOf (opOf (bobCmd 0 32767 4) 1) 15 0 = 15 ∧
    bitsOf (opOf (bobCmd 0 32767 4) 1) 31 16 = 32767 ∧
    endOk .host 16 = false ∧
    endOk .host 15 = true ∧
    endOk .yarn 32768 = false ∧
    endOk .yarn 32767 = true ∧
    endOk .port 96 = false ∧
    endOk .port 95 = true ∧
    endOk .gate 127 = true ∧
    endOk .gate 128 = false ∧
    bitsOf (opOf (bobCmd 0 4 0) 2) 16 0 = 0 ∧
    65536 < bitsOf (opOf (bobCmd 0 4 65537) 2) 16 0 ∧
    bitsOf (opOf (bobCmd 0 4 65536) 2) 16 0 ≤ 65536 ∧
    1 ≤ bitsOf (opOf (bobCmd 0 4 1) 2) 16 0 ∧
    2 ≤ bitsOf (opOf (hc 0x20 [0x900C2] []) 0) 1 0 ∧
    bitsOf (opOf (bobCmd 0 4 1) 0) 1 0 < 2 ∧
    (getBob (bobFreeOf (bobA [])) 7).state ≠ .free ∧
    (getBob (bobFreeOf (bobA [])) 9).state = .free ∧
    joinClash twoClasses .yarn .yarn 4 5 = true ∧
    joinClash twoClasses .host .yarn 15 5 = false ∧
    dieFor up .port .port 95 0 = .inr 6 ∧
    dieFor up .host .yarn 15 4 = .inr 4 ∧
    dieFor spoolUp .host .host 15 3 = .inl 0 ∧
    freeEntry (bobEntries spoolUp 0) 32768 = some 0 ∧
    allocFit spoolUp 0 0 (spoolRegion spoolUp 0) 16 = some 0 ∧
    (makeTwinBob (setBob (allocTake spoolUp { stack := 0, base := 0, len := 16, kind := .spool 9 }) 9 (bobA [])) 9).isSome = true ∧
    (getBob up (opBob (hc 0x21 [7] []))).state = .free ∧
    (getBob (flowAt yarnA (bobA [])) (opBob (hc 0x21 [7] []))).state ≠ .free ∧
    bobNamed (flowAt yarnA (bobA [])) 7 = true ∧
    bobNamed (bobFreeOf (bobA [])) 7 = false ∧
    bitsOf (opOf (hc 0x23 [7, 0] []) 1) 16 0 = 0 ∧
    65536 < bitsOf (opOf (hc 0x23 [7, 0x1FFFF] []) 1) 16 0 ∧
    bitsOf (opOf (hc 0x23 [7, 65536] []) 1) 16 0 ≤ 65536 ∧
    (resizeBob (bobFreeOf (bobA [])) 7 65536).2.1 = true ∧
    (resizeBob (bobFreeOf (bobA [])) 7 1).2.1 = false := by
  and_intros <;> decide +kernel

theorem witness_BobbinCommandsOfTheHost_full :
    freeEntry (List.range 3) 3 = none ∧
    (List.range 3).all (fun e => (bobEntries (setBob (setBob (setBob up 7 { bobA [] with entry := 0 }) 8 { bobA [] with entry := 1 }) 9
      { bobA [] with entry := 2 }) 0).contains e) = true := by
  decide

/-- BOB_SEL of the host selects the entry of bobbin 7. -/
def selAt (b : Bob) : State := bobFreeOf b

/-- ITEM_PUSH of a buffer of n bytes to bobbin 7 as host ring `qp`. -/
def pushCmd (kind n : Nat) : HostCmd := hc 0x24 [BitVec.ofNat 32 (7 * 65536 + kind * 32)] (List.replicate n 0)

theorem witness_ItemsPushedAndSelectedBobbin :
    pushStatus up (pushCmd 0 8) = some 4 ∧
    (getBob up (bitsOf (opOf (pushCmd 0 8) 0) 31 16)).state = .free ∧
    pushStatus (bobFreeOf (bobA [])) (pushCmd 3 4) = some 2 ∧
    pushStatus (bobFreeOf (bobA [])) (pushCmd 0 16388) = some 2 ∧
    pushStatus (bobFreeOf portBob) (pushCmd 0 8) ≠ some 4 ∧
    pushStatus (bobFreeOf (bobA [])) (pushCmd 0 4) = none ∧
    pushStatus (bobFreeOf (bobA [])) (pushCmd 0 16384) = none ∧
    pushStatus (bobFreeOf { bobA [] with prodId := 1 }) (pushCmd 0 8) = some 6 ∧
    selectedBob up .host 0 = none ∧
    selectedBob (selAt (bobA [])) .host 0 = some 7 ∧
    (getBob (selAt (bobA [])) 7).prod = .host ∧
    (getBob (selAt { bobA [] with prod := .yarn }) 7).prod ≠ .host ∧
    selectedBob (selAt { bobA [] with prod := .yarn }) .host 0 = some 7 ∧
    (getBob (modBob (pointerCheck (selAt (bobA [])) 7 0).1 7 (fun b => { b with inspected := false })) 7).cons ≠ .host ∧
    (getBob (modBob (pointerCheck (selAt { bobA [itemA 0] with cons := .host }) 7 0).1 7 (fun b => { b with inspected := false })) 7).cons = .host ∧
    selectedBob (selAt { bobA [itemA 0] with cons := .host }) .host 0 = some 7 := by
  decide +kernel

/-- A signed firmware image with one segment that holds one frame of zeros. -/
def fwImage : List Byte :=
  beBytes 64 0x4550494d010002009648b0ff04030201c0020000010000ff000102030405060708090a0b0c0d0e0f000000000000000000000000000000000000000000000000 ++
  beBytes 64 0x00000000000000000000000000000000000000000000000000000000000000000000000000000000000000000000000000000000000000000000000000000000 ++
  beBytes 64 0x00000000000000000000000000000000000000000000000000000000000000000000000000000000000000000000000000000000000000000000000000000000 ++
  beBytes 64 0x00000000000000000000000000000000000000000000000000000000000000000000000000000000000000000000000000000000000000000000000032bb8517 ++
  beBytes 64 0x400100007800000007000000000000000100000000000000464eb0ac000000000000000000000000000000000000000000000000000000000000000000000000 ++
  beBytes 64 0x534547540000000048000000000102030405060708090a0b000000004412cd76b83e46333237ebbf7e94b3954396d381f59dd2d06035ad5fd8c37069bd0e6509 ++
  beBytes 64 0x9d1a5b4822999b2a5f1f0d7f3c0cdbc805e0040e5db61cb5b25a019682fad6feb41dbfc7bb0e397042fc1db66ff3a0cd295cc514b1e534980000000000000000 ++
  beBytes 64 0x5349474e000000000435039fc630c72e9c0ca27627d4d03ce99b9efdc9d724bcf79058b70242cde0ba72ce437606d72378544bcffa69a49782766a399f0f7778 ++
  beBytes 64 0xd62c3e2e68dcce6db8ed19e080ae91a6b950cf5a5b7a4d65e11d33cfc7ae4bcc6306633c9a3db25be500000000000000eee5e57e5bfe6c54ce747c5fa3511768 ++
  beBytes 64 0xfeaedccccc4dce956e128f17582cdc997bc9540502e9eafad5f07d9542f000b3699bd2835340701c64d9ad83c9c58fd9827f5b5d22562e9ea6fd16dff00e0ae2 ++
  beBytes 64 0x2c5c413fde322100f0b4297eba689f8e00000000000000000000000000000000000000000000000000000000000000000000000000000000000000004fbc9e87

/-- The digest of its signer's key. -/
def fwKey : Nat := 0x22ab567e2df05c0a469a351885cd6fef6205efe7a94ce6032dd9bdb3fa94a6d806f1b9f7a64f17232d098b741e5c223a

/-- The same, with zeros up to the longest head of an image. -/
def fwBytes : List Byte := fwImage ++ List.replicate 5696 0

/-- A NV store with that image in firmware slot 0 of die 0. -/
def fwNv : Mem := memWrite [] (nvAddr 0 (fwBase false)) fwBytes

/-- A state with such a NV store and such public keys. -/
def withStore (s : State) (nv : Mem) (keys : List (Option Nat)) : State := { s with mem.nv := nv, fuses.pubKeys := keys }

/-- A state with the image in firmware slot 0 of die 0, whose key is fused. -/
def signedFw (s : State) : State := withStore s fwNv [some fwKey]

/-- The length of the image. -/
theorem fwBytes_length : fwBytes.length = 6400 := by
  have h : fwImage.length = 704 := by decide +kernel
  exact (List.length_append).trans (by rw [h, List.length_replicate])

/-- Reading the image in its slot. -/
theorem signed_read (s : State) (o n : Nat) (h : o + n ≤ 6400) : fwRead (signedFw s) 0 false o n = (fwBytes.drop o).take n := by
  have e : nvAddr 0 (fwBase false + o) = nvAddr 0 (fwBase false) + o := by simp only [nvAddr]; omega
  have hl : o + n ≤ fwBytes.length := h.trans_eq fwBytes_length.symm
  have hm : ∀ nv k, (withStore s nv k).mem.nv = nv := fun _ _ => rfl
  unfold fwRead signedFw
  rw [e, hm, fwNv]
  generalize nvAddr 0 (fwBase false) = a
  exact memRead_memWrite_within [] a o n fwBytes hl

/-- What the checks of an image of one segment leave. -/
theorem fwFrames_single {s : State} {b : Bool} {head : List Byte} {e : SegEnt} {key : Nat} {o : SegOut} (h1 : fwHead s 0 b = head)
    (h2 : headerCodeOf true 0xFF head = 0) (h3 : tableCodeOf true 0x180000 head = 0) (h4 : head.length = (segAt head 0).off)
    (h5 : imageKey s head = some key)
    (h6 : signatureOk s true (fwRead s 0 b (imageLen head - 256) 256) (sha384Nat (fwRead s 0 b 0 (imageLen head - 256))) = true)
    (h7 : segTable head = [e]) (h8 : segDecode head 0 e key (fwRead s 0 b e.off e.len) = .inl o) (h9 : o.last = true) (h10 : o.next = none) :
    fwFrames s 0 b = some o.frames := by
  unfold fwFrames
  dsimp only
  rw [h1, if_neg (by simp [h2]), if_neg (by simp [h3, h4]), h5]
  dsimp only
  rw [if_pos h6, h7, decodeAll, h8]
  dsimp only
  rw [h9, h10]
  rfl

/-- The head of the image. -/
theorem fw_head (s : State) : fwHead (signedFw s) 0 false = fwBytes.take 320 := by
  have e0 : fwRead (signedFw s) 0 false 0 0x1900 = fwBytes := by
    rw [signed_read s 0 0x1900 (by decide), List.drop_zero]
    exact List.take_of_length_le (le_of_eq fwBytes_length)
  have e1 : max (0x100 + 24 * segCount fwBytes + 4) (min (segAt fwBytes 0).off 0x180000) = 320 := by decide +kernel
  unfold fwHead
  dsimp only
  rw [e0, e1, signed_read s 0 320 (by decide), List.drop_zero]

/-- An HMAC in its two steps. -/
theorem hmac_of {key msg inner out : List Byte}
    (h1 : sha384 ((key ++ List.replicate (128 - key.length) 0).map (fun b => b ^^^ 0x36) ++ msg) = inner)
    (h2 : sha384 ((key ++ List.replicate (128 - key.length) 0).map (fun b => b ^^^ 0x5C) ++ inner) = out) : hmac384 key msg = out := by
  unfold hmac384
  dsimp only
  rw [h1, h2]

/-- What the image's key is derived from. -/
def fwContext : List Byte := beBytes 20 0x04030201000102030405060708090a0b0c0d0e0f

/-- The image's key. -/
theorem fw_derived : deriveKey 0 fwContext = 0x65dda6d21e10299d5c50ea81edd0f40ef434399f584dc5255bbaf237f2edbdca := by
  have h := hmac_of (key := beBytes 32 0) (msg := beBytes 4 1 ++ kdfLabel ++ [0] ++ fwContext ++ beBytes 4 256)
    (inner := beBytes 48 0x985a582474629a9868531280192ab8ef8daf438dc655cde27ad2e6be172a9354e483855529b04237e6f3c5d1dab0b65e)
    (out := beBytes 48 0x65dda6d21e10299d5c50ea81edd0f40ef434399f584dc5255bbaf237f2edbdca2057dca14a980da9c9844e6604a9fee0)
    (by decide +kernel) (by decide +kernel)
  unfold deriveKey
  rw [h]
  decide +kernel

/-- A key derived from the key of the device. -/
theorem imageKey_fused {s : State} {l c : List Byte} {n : Nat} (hk : s.fuses.deviceKey = n) (h : fieldAt l 0x16 1 = 0)
    (hc : (l.drop 0x0C).take 4 ++ (l.drop 0x18).take 16 = c) : imageKey s l = some (deriveKey n c) := by
  unfold imageKey
  rw [h, hc, hk]
  rfl

/-- The key that the state derives. -/
theorem fw_key (s : State) (hk : s.fuses.deviceKey = 0) : imageKey (signedFw s) (fwBytes.take 320) =
    some 0x65dda6d21e10299d5c50ea81edd0f40ef434399f584dc5255bbaf237f2edbdca := by
  have hs : ∀ nv k, (withStore s nv k).fuses.deviceKey = 0 := fun _ _ => hk
  exact (imageKey_fused (hs _ _) (by decide +kernel) (by decide +kernel)).trans (congrArg some fw_derived)

/-- The signature of the image verifies. -/
theorem fw_signed (s : State) (hr : s.fuses.revoked = List.replicate 4 false) :
    signatureOk (signedFw s) true ((fwBytes.drop 448).take 256) (sha384Nat ((fwBytes.drop 0).take 448)) = true := by
  have hs : ∀ (nv : Mem) (k : List (Option Nat)) (b : List Byte) (n : Nat), signatureOk (withStore s nv k) true b n =
      signatureOk (withStore State.reset nv k) true b n := by
    intro nv k b n
    have h0 : State.reset.fuses.revoked = List.replicate 4 false := rfl
    unfold signatureOk
    dsimp only [withStore]
    rw [h0, hr]
    rfl
  unfold signedFw
  rw [hs]
  decide +kernel

/-- The checks of the image's header, tables and segment. -/
theorem fw_header : headerCodeOf true 0xFF (fwBytes.take 320) = 0 := by decide +kernel
theorem fw_table : tableCodeOf true 0x180000 (fwBytes.take 320) = 0 := by decide +kernel
theorem fw_offset : (fwBytes.take 320).length = (segAt (fwBytes.take 320) 0).off := by decide +kernel
theorem fw_segments : segTable (fwBytes.take 320) = [⟨320, 120, 7, 0, 1⟩] := by decide +kernel
theorem fw_segment :
    segDecode (fwBytes.take 320) 0 ⟨320, 120, 7, 0, 1⟩ 0x65dda6d21e10299d5c50ea81edd0f40ef434399f584dc5255bbaf237f2edbdca ((fwBytes.drop 320).take 120) =
      .inl { frames := [(0, List.replicate 128 0)], last := true, next := none } := by
  decide +kernel

/-- The image passes every check, whatever else the state holds. -/
theorem signed_frames (s : State) (hk : s.fuses.deviceKey = 0) (hr : s.fuses.revoked = List.replicate 4 false) :
    fwFrames (signedFw s) 0 false = some [(0, List.replicate 128 0)] := by
  have e2 : imageLen (fwBytes.take 320) = 704 := by decide +kernel
  refine fwFrames_single (o := { frames := [(0, List.replicate 128 0)], last := true, next := none }) (fw_head s) fw_header
    fw_table fw_offset (fw_key s hk) ?_ (e := ⟨320, 120, 7, 0, 1⟩) fw_segments ?_ rfl rfl
  · rw [e2, signed_read s _ 256 (by decide), signed_read s 0 _ (by decide)]
    exact fw_signed s hr
  · rw [signed_read s _ _ (by decide)]
    exact fw_segment

/-- A complex whose boot ROM finds such an image starts it. -/
theorem fw_loads {s : State} {b : Bool} {fs : List (Nat × List Byte)} (h : fwFrames s 0 b = some fs) (v : Nat) :
    (getRt (startIfOk (loadFirmware s 0 b v) 0) 0).fwOk = true := by
  have h1 : (getRt (loadItcm s 0 b) 0).fwOk = true := by
    unfold loadItcm
    rw [h]
    dsimp only [modRt]
    rw [getRt_setRt, if_pos rfl]
  have h2 : (getRt (loadFirmware s 0 b v) 0).fwOk = true := by simp [loadFirmware, h1]
  simp [startIfOk, startCores, wdtReload, modRt, h2]

/-- One whose boot ROM finds none does not. -/
theorem fw_fails {s : State} {b : Bool} (h : fwFrames s 0 b = none) (v : Nat) :
    (getRt (startIfOk (loadFirmware s 0 b v) 0) 0).fwOk = false := by
  have h1 : (getRt (loadItcm s 0 b) 0).fwOk = false := by
    unfold loadItcm
    rw [h]
    dsimp only [modRt]
    rw [getRt_setRt, if_pos rfl]
  simp [startIfOk, loadFirmware, h1]

/-- The slot that the boot ROM wants is the one it loads where that one holds an image. -/
theorem fw_slot {s : State} {b : Bool} {fs : List (Nat × List Byte)} (hb : fwSlotFor s 0 = b) (h : fwFrames s 0 b = some fs) :
    fwSlotUsed s 0 = b := by simp [fwSlotUsed, hb, h]

/-- The host reaches the memory of the device, and a window of stack 0 covers its first 8192 granules. -/
def hdmAt : State :=
  let s := setF up fCXL_LINK_STAT_mem_en 0 0 1
  { s with mem := { s.mem with allocs := [{ stack := 0, base := 0, len := 8192, kind := .window }] } }

/-- A region of bobbin 7 with 64 blocks, for input or output. -/
def regA (out : Bool) (dev host : BitVec 16) : HostReg := { mapped := true, out := out, bob := 7, base := 0, log2 := 6, dev := dev, host := host, stop := false }

/-- Region 63 and bobbin 7. -/
def regAt (g : HostReg) (b : Bob) : State := setRegion (setBob hdmAt 7 b) 63 g

/-- REGION_MAP of region 63 to bobbin 7 with 2 ^ log2 blocks. -/
def mapCmd (out : Bool) (log2 : Word) : HostCmd := hc 0x28 [BitVec.ofNat 32 (63 + 256 * bitN out), 7, 0, log2] []

/-- A bobbin whose consumer is the host. -/
def toHost (items : List ItemRec) : Bob := { bobA items with prod := .yarn, cons := .host }

theorem witness_HostRegionsMoveItems :
    hdmReachable up = false ∧
    hdmReachable hdmAt = true ∧
    opRegion (mapCmd false 6) = 63 ∧
    bitOf (opOf (hc 0x28 [0x8000003F] []) 0) 31 = true ∧
    (getRegion hdmAt (opRegion (hc 0x28 [0x8000003F] []))).mapped = false ∧
    (getRegion (regAt (regA false 0 0) (bobA [])) 63).mapped = true ∧
    hdmReachable (regAt (regA false 0 0) (bobA [])) = true ∧
    bitOf (opOf (mapCmd true 16) 0) 31 = false ∧
    mapStatus (setBob hdmAt 7 (bobA [])) (mapCmd false 5) = some 2 ∧
    mapStatus (setBob hdmAt 7 (bobA [])) (mapCmd false 17) = some 2 ∧
    mapStatus (setBob hdmAt 7 (bobA [])) (mapCmd false 6) = none ∧
    mapStatus (setBob hdmAt 7 (bobA [])) (mapCmd false 16) = none ∧
    mapStatus (setBob hdmAt 7 (toHost [])) (mapCmd true 16) = none ∧
    mapStatus (setBob hdmAt 7 (toHost [])) (mapCmd false 16) = some 6 ∧
    bitOf (opOf (mapCmd true 16) 0) 8 = true ∧
    bitOf (opOf (mapCmd false 16) 0) 8 = false ∧
    (regAt (regA false 0 0) (bobA [])).host.d3hot = false ∧
    (regAt (regA false 0 0) (bobA [])).rst.dozing = false ∧
    doorbellOk (regA false 1 0) 0 = false ∧
    doorbellOk (regA false 1 0) 64 = true ∧
    doorbellOk (regA false 1 0) 65 = false ∧
    getRegion (regAt (regA false 1 2) (bobA [])) 63 = regA false 1 2 ∧
    (regA false 1 1).dev = (regA false 1 1).host ∧
    (regA false 1 2).dev ≠ (regA false 1 2).host ∧
    (inputWords 7 false (blockWords (readHdm (regAt (regA false 1 2) (bobA [])) (regionBlock (regA false 1 2) 1) 64)) ((pointerCheck (regAt (regA false
      1 2) (bobA [])) 7 0).1, none)).2 = none ∧
    (regA true 0 0).out = true ∧
    2 ^ 6 ≤ blocksFrom 0 63 + ((peekItem (regAt (regA true 63 0) (toHost [itemA 0])) 7).length + 7) / 8 ∧
    blocksFrom 0 62 + ((peekItem (regAt (regA true 62 0) (toHost [itemA 0])) 7).length + 7) / 8 < 2 ^ 6 ∧
    (egressItem (pointerCheck (regAt (regA true 62 0) (toHost [itemA 0])) 7 0).1 7).2 ≠ [] ∧
    (stackCheck (regAt (regA false 1 2) (bobA [])) (hdmStack (regionBlock (regA false 1 2) 1)) (hdmOff (regionBlock (regA false 1 2) 1)) 64 .clean 0).2
      = false ∧
    (stackCheck (regAt (regA false 1 2) (bobA [])) (hdmStack (regionBlock (regA false 1 2) 1)) (hdmOff (regionBlock (regA false 1 2) 1)) 64
      .uncorrectable 0).2 = true ∧
    (inputWords 7 false ((blockWords (readHdm (stackCheck (regAt (regA false 1 2) (bobA [])) (hdmStack (regionBlock (regA false 1 2) 1)) (hdmOff
      (regionBlock (regA false 1 2) 1)) 64 .uncorrectable 0).1 (regionBlock (regA false 1 2) 1) 64)).map (fun w => { w with tag := w.tag ||| 0x080 }))
      ((pointerCheck (stackCheck (regAt (regA false 1 2) (bobA [])) (hdmStack (regionBlock (regA false 1 2) 1)) (hdmOff (regionBlock (regA false 1 2)
      1)) 64 .uncorrectable 0).1 7 0).1, none)).2 = none := by
  decide +kernel

/-- The same with a poisoned granule in the last line of the window. -/
def badLine : State := setHbm hdmAt 0 { getHbm hdmAt 0 with poison := [8192 * 128 - 1] }

/-- The channel group of the first lines sleeps, with or without its wake-on-access bit. -/
def hdmSleep (woa : Nat) : State := setF (setDom hdmAt 0 48 { domInit with goal := .off }) fDOM_CTL_woa 0 48 woa

/-- The beat window is on, with areas of 1 granule, and yarn 4 is published. -/
def winAt (pubs : Sparse (BitVec 4)) (b : BeatSt) : State :=
  let s := setBeat (setYarn hdmAt 0 4 yarnA) 0 b
  { s with host := { s.host with win := { s.host.win with base := 0, area := 1, pubs := pubs, next := 4 } } }

theorem witness_WindowsOfTheHost :
    hdmReachable up = false ∧
    hdmReachable hdmAt = true ∧
    windowGranule hdmAt (524287 * 64 / 4096) = true ∧
    windowGranule hdmAt (524288 * 64 / 4096) = false ∧
    windowGranule hdmAt (738197503 * 64 / 4096) = false ∧
    poisoned hdmAt (hdmStack (524287 * 64)) (hdmOff (524287 * 64)) 64 = false ∧
    windowGranule badLine (524287 * 64 / 4096) = true ∧
    hdmReachable badLine = true ∧
    poisoned badLine (hdmStack (524287 * 64)) (hdmOff (524287 * 64)) 64 = true ∧
    (getHbm badLine (hdmStack (524287 * 64))).poison.find? (fun g => decide (hdmOff (524287 * 64) < g * 32 + 32) && decide (g * 32 < hdmOff (524287 *
      64) + 64)) = some (8192 * 128 - 1) ∧
    (windowSize hdmAt 0 (bitsOf (opOf (hc 0x29 [0, 8192] []) 1) 22 0)).map (fun r => r.2) = some 0 ∧
    windowSize hdmAt 0 (bitsOf (opOf (hc 0x29 [0, 0x7FFFFF] []) 1) 22 0) = none ∧
    (if bitOf (opOf (hc 0x29 [1, 4] []) 0) 0 then (1 : Die) else 0) = 1 ∧
    bitsOf (opOf (hc 0x2A [0, 0] []) 1) 15 0 = 0 ∧
    bitsOf (opOf (hc 0x2A [0, 2730] []) 1) 15 0 ≠ 0 ∧
    windowRange hdmAt (bitsOf (opOf (hc 0x2A [0, 2730] []) 0) 23 0) (1 + 3 * 2730) = true ∧
    windowRange hdmAt (bitsOf (opOf (hc 0x2A [0, 2731] []) 0) 23 0) (1 + 3 * 2731) = false ∧
    bitOf (opOf (hc 0x2B [0x80000004] []) 0) 31 = true ∧
    (([(4, 1)] : Sparse (BitVec 4)).filter (fun e => decide (e.1 ≠ bitsOf (opOf (hc 0x2B [0x80000004] []) 0) 15 0))).length < ([(4, 1)] : Sparse
      (BitVec 4)).length ∧
    (winAt [] beatB).host.win.pubs.length ≤ ((winAt [] beatB).host.win.pubs.filter (fun e => decide (e.1 ≠ 4))).length ∧
    bitOf (opOf (hc 0x2B [4, 1] []) 0) 31 = false ∧
    yarnHome hdmAt 4 = none ∧
    yarnHome (winAt [] beatB) 4 = some 0 ∧
    winOn (setYarn hdmAt 0 4 yarnA) = false ∧
    yarnHome (setYarn hdmAt 0 4 yarnA) 4 = some 0 ∧
    winOn (winAt [] beatB) = true ∧
    64 + (([] : Sparse (BitVec 4)).map (fun e => entryLen (winAt [] beatB) e.1 e.2)).sum + entryLen (winAt [] beatB) 4 1 ≤ winArea (winAt [] beatB) ∧
    winOn hdmAt = false ∧
    nextArea (winAt [(4, 1)] beatB) = 4 ∧
    4 ≤ (getBeat (winAt [(4, 1)] beatB) 0).ord ∧
    4 ≤ (getBeat (winAt [(4, 1)] beatB) 0).cmt + 3 ∧
    (pubsAt (winAt [(4, 1)] beatB).host.win 4).all (fun e => entryReady (setYarn (winAt [(4, 1)] beatB) 0 4 { yarnA with cut := 4 }) e.1 4) = true ∧
    (pubsAt (winAt [(4, 1)] beatB).host.win 4).all (fun e => entryReady (winAt [(4, 1)] beatB) e.1 4) = false ∧
    proxied hdmAt (hdmStack (524287 * 64)) (48 + pcOf (hdmOff (524287 * 64)) / 4) = false ∧
    proxied badLine (hdmStack (524287 * 64)) (48 + pcOf (hdmOff (524287 * 64)) / 4) = false ∧
    hdmReachable (hdmSleep 0) = true ∧
    windowGranule (hdmSleep 0) (0 * 64 / 4096) = true ∧
    hdmStack (0 * 64) = 0 ∧
    48 + pcOf (hdmOff (0 * 64)) / 4 = 48 ∧
    proxied (hdmSleep 0) 0 48 = true ∧
    flagF (hdmSleep 0) fDOM_CTL_woa 0 48 = false ∧
    proxied (hdmSleep 1) 0 48 = true ∧
    flagF (hdmSleep 1) fDOM_CTL_woa 0 48 = true ∧
    hdmReachable (hdmSleep 1) = true ∧
    windowGranule (hdmSleep 1) (0 * 64 / 4096) = true ∧
    hdmAt.mem.allocs.any (fun a => decide (a.stack = 0) && decide (a.kind = .window)) = true ∧
    hdmAt.mem.allocs.any (fun a => decide (a.stack = 1) && decide (a.kind = .window)) = false ∧
    windowSize hdmAt 1 (bitsOf (opOf (hc 0x29 [1, 0x7FFFFF] []) 1) 22 0) = none := by
  and_intros <;> decide +kernel

/-- The image state of die 0, with its NV store busy or an update waiting. -/
def nvAt (busy : Option Nat) : State := setImg up 0 { getImg up 0 with nvBusy := busy }

/-- An update of the firmware of die 0. -/
def updA : Update := { phase := .firmware, fw := true, img := false, fwSlot := true, imSlot := false, moving := [] }

/-- The same in progress, for firmware slot 1 or 0. -/
def updAt : State := setBeat (run up) 0 { getBeat up 0 with update := some updA }
def updTo0 : State := setBeat (run up) 0 { getBeat up 0 with update := some { updA with fwSlot := false } }

theorem witness_NvWritesAndDieUpdates :
    5 ≤ bitsOf (opOf (hc 0x60 [5, 0] []) 0) 2 0 ∧
    nvTarget (bitsOf (opOf (hc 0x60 [4, 192] []) 0) 2 0) = some (0x1F80000, 256) ∧
    256 < opOf (hc 0x60 [4, 193] (List.replicate 64 0)) 1 + (hc 0x60 [4, 193] (List.replicate 64 0)).buf.length ∧
    opOf (hc 0x60 [4, 192] (List.replicate 64 0)) 1 + (hc 0x60 [4, 192] (List.replicate 64 0)).buf.length ≤ 256 ∧
    runsFrom up 0 4 = false ∧
    runsFrom (setRt up 0 { getRt up 0 with fwOk := true }) 0 2 = true ∧
    nvTarget 2 = some (0x1C00000, 0x180000) ∧
    (getImg (nvAt (some 4)) 0).nvBusy ≠ none ∧
    runsFrom (nvAt (some 4)) 0 4 = false ∧
    (getImg (nvAt none) 0).nvBusy = none ∧
    (getBeat (nvAt none) 0).update = none ∧
    (getBeat updAt 0).update ≠ none ∧
    (getImg (nvAt (some 3)) 0).nvBusy = some 3 ∧
    3 < 8 ∧
    (getImg (nvAt (some 12)) 0).nvBusy = some 12 ∧
    4 ≤ 12 % 8 ∧
    (getImg (nvAt (some 11)) 0).nvBusy = some 11 ∧
    8 ≤ 11 ∧ 11 % 8 < 4 ∧
    bitOf (opOf (hc 0x61 [0] []) 0) 2 = false ∧ bitOf (opOf (hc 0x61 [0] []) 0) 3 = false ∧
    updateStatus updAt 0 updA = some 10 ∧
    updateStatus up 0 { updA with fw := false, img := true, phase := .moving } = none ∧
    updateStatus (setF up fBRD_STAT_split 0 0 1) 0 { updA with fw := false, img := true, phase := .moving } = some 9 ∧
    (getBeat updAt 0).update = some updA ∧
    controlHeld updAt 0 = false ∧
    domOn updAt 0 59 = true ∧
    6 ≤ getStage updAt 0 ∧
    slotSigned up 0 (11 % 8) = false ∧
    fwFrames (setBeat updAt 0 { getBeat updAt 0 with update := none }) 0 true = none ∧
    (getBeat (signedFw updTo0) 0).update = some { updA with fwSlot := false } ∧
    controlHeld (signedFw updTo0) 0 = false ∧
    domOn (signedFw updTo0) 0 59 = true ∧
    6 ≤ getStage (signedFw updTo0) 0 := by
  decide +kernel

theorem witness_NvWritesAndDieUpdates_image :
    fwFrames (setBeat (signedFw updTo0) 0 { getBeat (signedFw updTo0) 0 with update := none }) 0 false ≠ none := by
  have h : ∀ s nv k b, setBeat (withStore s nv k) 0 b = withStore (setBeat s 0 b) nv k := fun _ _ _ _ => rfl
  unfold signedFw
  rw [h]
  exact fun e => by simpa using (signed_frames _ rfl rfl).symm.trans e

theorem witness_NvWritesAndDieUpdates_firmware :
    ∀ h : Config.mailboxFits (memRead up.mem.nv (nvAddr 0 (fwBase true)) 0x100) (regRaw up .FW_VER 0 (otherDie 0).val).toNat = true, updateStatus up 0
      updA = none := by
  intro h
  have e : longOn up 0 = false := by decide +kernel
  have f : updating up = false := by decide +kernel
  have g : (getImg up 0).nvBusy = none := by decide +kernel
  simp only [updateStatus, updA, e, f, g]
  simp [h]

/-- Die 0 runs from NV slot `slot` and its scrubber is on. -/
def scrubAt (slot : Byte) (got : Option (BitVec 24)) : State :=
  let s := setF (setF (run up) fSCRUB_CTL_en 0 0 1) fCFG_STAT_done 0 0 1
  setImg s 0 { getImg s 0 with loading := false, starting := false, nvSlot := slot, scrubGot := got }

theorem witness_ScrubbingChecksAndRepairs :
    (8388608#24 : BitVec 24).toNat ≠ 8406801 ∧
    scrubs (scrubAt 0 none) 0 (8388608#24 : BitVec 24).toNat = true ∧
    (8388608#24 : BitVec 24).toNat / 2 ^ 20 = 8 ∧
    scrubs (scrubAt 0 none) 0 (8388608 + 274) = false ∧
    scrubs (scrubAt 0 none) 0 (8388608 + 273) = true ∧
    scrubs up 0 0 = false ∧
    flagF (scrubAt 0 none) fSCRUB_CTL_en 0 0 = true ∧
    flagF (scrubAt 0 none) fCFG_STAT_done 0 0 = true ∧
    scrubs (scrubAt 2 none) 0 (24831#24 : BitVec 24).toNat = true ∧
    scrubs (scrubAt 2 none) 0 (24832#24 : BitVec 24).toNat = false ∧
    (24831#24 : BitVec 24).toNat < 1048576 ∧
    (getImg (scrubAt 2 none) 0).scrubGot = none ∧
    2 ≤ (getImg (scrubAt 2 none) 0).nvSlot.toNat ∧
    (getImg (scrubAt 1 none) 0).nvSlot.toNat < 2 ∧
    (getImg (scrubAt 1 (some 5)) 0).scrubGot = some 5 ∧
    storedFrames (setImg (scrubAt 2 (some 5)) 0 { getImg (scrubAt 2 (some 5)) 0 with scrubGot := none }) 0 0 5 1 = none ∧
    (getImg (scrubAt 2 (some 5)) 0).scrubGot = some 5 ∧
    storedFrames (setImg (scrubAt 1 (some 5)) 0 { getImg (scrubAt 1 (some 5)) 0 with scrubGot := none }) 0 0 5 1 = some [] ∧
    fwAt up 0 5 = false ∧
    fwAt (run up) 0 5 = true ∧
    caseTemp 85 0 ≤ 85000 ∧
    caseTemp 86 0 > 85000 ∧
    caseTemp 111 240000 ≤ 85000 ∧
    flagF (run up) fDEV_STATE_pwr_cap 0 0 = false := by
  decide +kernel

/-- Die 0 with its handlers. -/
def rtAt (r : RtSt) : State := setRt (run up) 0 r

/-- Die 0 runs level 3, whose bank has no window free and no room left in its region. -/
def spillRt (level : Nat) : State := rtAt { rtInit with level := some level, filled := List.replicate 8 8 }

/-- The same in the handler of a fault entry. -/
def faultRt : State := setF (rtAt { rtInit with level := some 0 }) fRT_STAT_fault_entry 0 0 1

/-- Semaphore 63 of die 0 is held by a level of a die. -/
def semAt (owner : Nat) (r : RtSt) : State := setF (setF (rtAt r) fSEM_held 0 63 1) fSEM_owner_die 0 63 owner

/-- The boot ROM of die 0 runs. -/
def bootAt (booted : Bool) (u : Option Update) : State :=
  setBeat (setRt (setF (run up) fRT_STAT_in_reset 0 0 1) 0 { rtInit with booted := booted }) 0 { getBeat up 0 with update := u }

/-- The same with the firmware still in the ITCM. -/
def restartAt : State := setRt (setF (run up) fRT_STAT_in_reset 0 0 1) 0 { rtInit with fwOk := true, digest := itcmDigest [] 0 }

/-- An update whose yarns move. -/
def moveA : Update := { phase := .moving, fw := false, img := true, fwSlot := false, imSlot := true, moving := [] }

theorem witness_ComplexesServeLinesAndFault :
    coresRun (run up) 0 = true ∧
    flagF (run up) fRT_STAT_fault_entry 0 0 = false ∧
    flagF faultRt fRT_STAT_fault_entry 0 0 = true ∧
    coresRun faultRt 0 = true ∧
    (0 : Fin 8).val = 0 ∧
    (7 : Fin 8).val ≠ 0 ∧
    0 < (1 : BitVec 16).toNat ∧
    (0 : BitVec 16).toNat = 0 ∧
    domOn (run up) 0 59 = true ∧
    flagF (run up) fRT_STAT_in_reset 0 0 = false ∧
    flagF (setF up fRT_STAT_in_reset 0 0 1) fRT_STAT_in_reset 0 0 = true ∧
    (getRt (rtAt { rtInit with level := some 3 }) 0).level = some 3 ∧
    coresRun (rtAt { rtInit with level := some 3 }) 0 = true ∧
    flagF (addF (rtAt { rtInit with level := some 3 }) fRT_ERR_ce 0 0 255) fRT_STAT_fault_entry 0 0 = false ∧
    flagF (addF faultRt fRT_ERR_ce 0 0 0) fRT_STAT_fault_entry 0 0 = true ∧
    (getRt faultRt 0).level = some 0 ∧
    (getRt (spillRt 3) 0).level.getD 7 = 3 ∧
    spillBlocked (spillRt 3) 0 3 = true ∧
    coresRun (spillRt 3) 0 = true ∧
    flagF (spillRt 3) fRT_STAT_fault_entry 0 0 = false ∧
    (getRt (spillRt 0) 0).level.getD 7 = 0 ∧
    spillBlocked (spillRt 0) 0 0 = true ∧
    coresRun (spillRt 0) 0 = true ∧
    flagF (setF (spillRt 3) fRT_STAT_fault_entry 0 0 1) fRT_STAT_fault_entry 0 0 = true ∧
    spillBlocked (setF (spillRt 3) fRT_STAT_fault_entry 0 0 1) 0 3 = true ∧
    bootRuns (bootAt false none) 0 = true ∧
    bootRuns (run up) 0 = false ∧
    bootRuns (rtAt { rtInit with level := some 3 }) 0 = false ∧
    bootRuns faultRt 0 = false ∧
    lineFaults 0 (getRt (rtAt { rtInit with lineSet := [(127, some (some 3, true))] }) 0) (127 : Fin 128).val = true ∧
    lineFaults 0 (getRt (rtAt { rtInit with lineSet := [(127, some (some 3, false))] }) 0) (127 : Fin 128).val = false ∧
    sparseGet (fun _ => none) ({ rtInit with lineSet := [(127, some (some 3, true))] }).lineSet (127 : Fin 128).val = some (some 3, true) ∧
    ([] : List CoreAct).foldl (coreAct 0) (rtAt { rtInit with level := some 3 }) = rtAt { rtInit with level := some 3 } ∧
    coresRun ([CoreAct.call, .setReg 15 7, .ret, .line 127 (some 7) true, .timer 7 (some 100)].foldl (coreAct 0) (rtAt
      { rtInit with level := some 3 })) 0 = true := by
  decide +kernel

theorem witness_WatchdogsAndSemaphores :
    (0x1234C1A5 : Word).toNat % 65536 = 0xC1A5 ∧
    (0x1234C1A4 : Word).toNat % 65536 ≠ 0xC1A5 ∧
    Requester.fwOwn ≠ .host ∧
    coresRun (run up) 0 = true ∧
    reachOf (run up) 0 (if secondExpiry (run up) 0 then 13 else 4) = .control ∧
    (getRt restartAt 0).fwOk = true ∧
    flagF (semAt 0 rtInit) fSEM_held 0 63 = true ∧
    coresRun (semAt 0 rtInit) 0 = true ∧
    flagF (run up) fSEM_held 0 63 = false ∧
    (if flagF (semAt 1 rtInit) fSEM_owner_die 0 63 then (1 : Die) else 0) = 1 ∧
    coresRun (semAt 1 rtInit) 1 = true ∧
    (getRt (setF (semAt 0 rtInit) fSEM_held 0 63 0) 0).haltWait = none ∧
    (getRt (setF (semAt 0 { rtInit with haltWait := some true }) fSEM_held 0 63 0) 0).haltWait = some true ∧
    (getRt (setF (semAt 0 { rtInit with haltWait := some true }) fSEM_held 0 63 0) 0).linked = false ∧
    holdsSem (setF (semAt 0 { rtInit with haltWait := some true }) fSEM_held 0 63 0) 0 = false ∧
    holdsSem (semAt 0 rtInit) 0 = true ∧
    (getRt (run up) 0).haltWait = none ∧
    (getRt (rtAt { rtInit with haltWait := some false }) 0).haltWait = some false ∧
    bootRuns restartAt 0 = true ∧
    (getBeat restartAt 0).update = none ∧
    bootRuns (signedFw (bootAt false none)) 0 = true ∧
    (getRt (signedFw (bootAt false none)) 0).booted = false ∧
    (getRt (signedFw (bootAt false none)) 0).fwOk = false ∧
    bootRuns (signedFw (bootAt true none)) 0 = true ∧
    (getRt (signedFw (bootAt true none)) 0).booted = true ∧
    (getBeat (signedFw (bootAt true none)) 0).update = none ∧
    bootRuns (signedFw (bootAt true (some moveA))) 0 = true ∧
    (getRt (signedFw (bootAt true (some moveA))) 0).booted = true ∧
    (getBeat (signedFw (bootAt true (some moveA))) 0).update = some moveA ∧
    moveA.phase ≠ .firmware ∧
    bootRuns (bootAt true none) 0 = true ∧
    (getRt (bootAt true none) 0).fwOk = false := by
  decide +kernel

theorem witness_WatchdogsAndSemaphores_digest :
    itcmDigest restartAt.mem.itcm 0 = (getRt restartAt 0).digest := by
  have h : (getRt restartAt 0).digest = itcmDigest [] 0 := by simp [restartAt]
  rw [h]
  rfl

theorem witness_WatchdogsAndSemaphores_loads :
    (∀ v, (getRt (startIfOk (loadFirmware (signedFw (bootAt false none)) 0 (fwSlotUsed (signedFw (bootAt false none)) 0) v) 0) 0).fwOk = true) ∧
    (∀ v, (getRt (startIfOk (loadFirmware (signedFw (bootAt true none)) 0 (fwSlotUsed (signedFw (bootAt true none)) 0) v) 0) 0).fwOk = true) ∧
    (∀ v, (getRt (startIfOk (loadFirmware (signedFw (bootAt true (some moveA))) 0 (fwSlotUsed (signedFw (bootAt true (some moveA))) 0) v) 0) 0).fwOk =
      true) ∧
    (∀ v, (getRt (startIfOk (loadFirmware (bootAt true none) 0 (fwSlotUsed (bootAt true none) 0) v) 0) 0).fwOk = false) := by
  have h : ∀ s, s.fuses.deviceKey = 0 → s.fuses.revoked = List.replicate 4 false → fwSlotFor (signedFw s) 0 = false →
      ∀ v, (getRt (startIfOk (loadFirmware (signedFw s) 0 (fwSlotUsed (signedFw s) 0) v) 0) 0).fwOk = true := by
    intro s hk hr hb v
    rw [fw_slot hb (signed_frames s hk hr)]
    exact fw_loads (signed_frames s hk hr) v
  have hn : fwFrames (bootAt true none) 0 (fwSlotUsed (bootAt true none) 0) = none := by decide +kernel
  exact ⟨h _ rfl rfl (by decide), h _ rfl rfl (by decide), h _ rfl rfl (by decide), fun v => fw_fails hn v⟩

theorem witness_WatchdogsAndSemaphores_second :
    secondExpiry (rtAt { rtInit with lastExp := some 0 }) 0 = true ∧
    reachOf (rtAt { rtInit with lastExp := some 0 }) 0 13 = .die := by
  decide +kernel

/-- The header and segment table of an image of die 0 with one segment for each class that must be covered. -/
def headA : List Byte :=
  let seg (off cls count : Nat) : List Byte := leBytes 4 off ++ leBytes 4 48 ++ leBytes 4 cls ++ leBytes 4 0 ++ leBytes 4 count ++ leBytes 4 0
  let tbl := seg 0x180 0 24832 ++ seg 0x1C0 1 97344 ++ seg 0x200 5 32 ++ seg 0x240 6 776
  let hd := leBytes 4 0x4D495045 ++ leBytes 4 1 ++ leBytes 4 0xB04896 ++ leBytes 4 0 ++ leBytes 4 0x380 ++ leBytes 4 0xFF000004 ++ List.replicate 228 0
  hd ++ leBytes 4 (crc32c hd) ++ tbl ++ leBytes 4 (crc32c tbl) ++ List.replicate 28 0

/-- Die 0 with its configuration engine in a state, and its rail up or not. -/
def imgAt (rail : Nat) (m : ImgSt) : State := setF (setImg (run up) 0 m) fFIO_STAT_rail_ok 0 0 rail

/-- A die that waits for an image. -/
def waitImg : ImgSt := { imgInit with waiting := true }

/-- Die 0 waits for the slave port, and a die whose NV slots have both failed. -/
def pinsAt : State := setOpts (imgAt 1 waitImg) 0 { optsFactory with boot := 1 }
def pushImg : ImgSt := { imgInit with failed := true, nvFailed := true }

/-- A segment under key 1 that holds one frame of zeros and says that it is the last one, or gives the next key. -/
def lastSeg : List Byte :=
  beBytes 64 0x534547540000000048000000000102030405060708090a0b000000004412cd76ee7810c107f8598bb06cc28535cde424692381a9916aae8c718f3b5ff050f628 ++
  beBytes 64 0xecee2ae3e3fdbecf93a852c01164e40a9c7045f5715b0d5f54d3edcb52437c4000053f3a6a2423a43196ca5618536a3ba70451d6414bb3630000000000000000
def rollSeg : List Byte :=
  beBytes 64 0x534547540000000048000000000102030405060708090a0b000000004412cd76ee7810c106f8598b21f3a4caaa4dbbcbeeefd343953a5f81c5a3b2e6ae78511d ++
  beBytes 64 0x80ae9ec6f6eb33c806f6720099cb914d9c7045f5715b0d5f54d3edcb52437c4000053f3a6a2423a43f38430ec8b856335542f8a86795b1710000000000000000

/-- A load in progress whose next segment is to come from the pins. -/
def loadImg : ImgSt :=
  { imgInit with
    loading := true, src := some (.pins [] []), table := [⟨0, 120, 0, 0, 1⟩, ⟨128, 64, 1, 0, 1⟩, ⟨192, 64, 1, 1, 1⟩]
    key := some 1 }

theorem witness_ImagesAreLoaded :
    domTakes (setDom (run up) 0 60 { domInit with state := .off }) 0 60 = false ∧
    flagF (imgAt 0 waitImg) fFIO_STAT_rail_ok 0 0 = false ∧
    (getImg (imgAt 1 loadImg) 0).loading = true ∧
    (getImg (imgAt 1 { imgInit with starting := true }) 0).starting = true ∧
    sourceDue (imgAt 1 imgInit) 0 (.pins syncBytes headA) = false ∧
    domTakes (imgAt 1 waitImg) 0 60 = true ∧
    domTakes (imgAt 1 waitImg) 0 58 = true ∧
    flagF (imgAt 1 waitImg) fFIO_STAT_rail_ok 0 0 = true ∧
    (getImg (imgAt 1 waitImg) 0) = waitImg ∧
    waitImg.retained = false ∧
    sourceDue (imgAt 1 waitImg) 0 (.slot false) = true ∧
    (beginLoad (imgAt 1 waitImg) 0 (.slot false) false false false).2 = some (0x01, 0) ∧
    sourceDue pinsAt 0 (.pins syncBytes headA) = true ∧
    sourceDue pinsAt 0 (.pins [0xA5] headA) = false ∧
    (beginLoad pinsAt 0 (.pins syncBytes headA) false false false).2 = none ∧
    domTakes pinsAt 0 60 = true ∧
    domTakes pinsAt 0 58 = true ∧
    sourceDue (imgAt 1 pushImg) 0 (.pushed headA) = true ∧
    sourceDue (imgAt 1 { pushImg with nvFailed := false }) 0 (.pushed headA) = false ∧
    (beginLoad (imgAt 1 pushImg) 0 (.pushed headA) false false false).2 = none ∧
    getImg (imgAt 1 loadImg) 0 = loadImg ∧
    loadImg.table[loadImg.done]? = some ⟨0, 120, 0, 0, 1⟩ ∧
    loadImg.table[loadImg.done + 1]? = some ⟨128, 64, 1, 0, 1⟩ ∧
    loadImg.key = some 1 ∧
    (List.replicate 127 (0 : Byte)).length ≠ 128 - 0 ∧
    lastSeg.length = 128 - 0 ∧
    rollSeg.length = 128 - 0 ∧
    (List.replicate 128 (0 : Byte)).length = 128 - 0 ∧
    loadImg.done + 1 ≠ loadImg.table.length ∧
    (match segDecode loadImg.header loadImg.done ⟨0, 120, 0, 0, 1⟩ 1 ((List.replicate 128 (0 : Byte)).take 120) with | .inr c => c | .inl _ => 0) = 0x07 ∧
    (getImg (imgAt 1 waitImg) 0).loading = false ∧
    (getImg (imgAt 0 waitImg) 0).waiting = true ∧
    (getImg (run up) 0).waiting = false ∧ (getImg (run up) 0).loading = false ∧ (getImg (run up) 1).waiting = false ∧ (getImg (run up) 1).loading = false := by
  decide +kernel

theorem witness_ImagesAreLoaded_last :
    segDecode loadImg.header loadImg.done ⟨0, 120, 0, 0, 1⟩ 1 (lastSeg.take 120) = .inl
      { frames := [(0, List.replicate 128 0)], last := true, next := none } := by
  set_option maxRecDepth 100000 in
  decide +kernel

theorem witness_ImagesAreLoaded_roll :
    segDecode loadImg.header loadImg.done ⟨0, 120, 0, 0, 1⟩ 1 (rollSeg.take 120) = .inl
      { frames := [(0, List.replicate 128 0)], last := false, next := some 0x000102030405060708090a0b0c0d0e0f101112131415161718191a1b1c1d1e1f } := by
  set_option maxRecDepth 100000 in
  decide +kernel

/-- Die 0 in its start-up, before step `k`, with its clocks locked or not. -/
def startAt (lock k : Nat) : State :=
  let s := setF (setImg (run up) 0 { imgInit with starting := true, stepNo := k }) fREFCLK_STAT_locked 0 0 lock
  setF ((List.range 36).foldl (fun s h => setF s fCLK_STAT_locked 0 h lock) s) fCFG_STAT_done 0 0 1

/-- Die 0 is loaded from NV slot `slot`, and its harness 0 has drafts of its own or not. -/
def loadedAt (slot : Byte) (own : Bool) : State :=
  let s := setF (setImg (run up) 0 { imgInit with nvSlot := slot }) fCFG_STAT_done 0 0 1
  { s with mem := { s.mem with drafted := if own then [harKey 0 0] else [] } }

theorem witness_DiesStartUp :
    (getImg (run up) 0).starting = false ∧
    clocksLocked (startAt 0 0) 0 = false ∧
    (getImg (startAt 0 0) 0).starting = true ∧
    clocksLocked (startAt 1 0) 0 = true ∧
    (getImg (startAt 1 0) 0).stepNo ≠ 3 ∧
    clocksLocked (startAt 1 3) 0 = true ∧
    (getImg (startAt 1 3) 0).stepNo = 3 ∧
    domOn (loadedAt 2 true) 0 60 = true ∧
    flagF (loadedAt 2 true) fCFG_STAT_done 0 0 = true ∧
    flagF (run up) fCFG_STAT_done 0 0 = false ∧
    (getImg (loadedAt 2 true) 0).loading = false ∧
    (loadedAt 2 true).mem.drafted.contains (harKey 0 0) = true ∧
    (loadedAt 2 false).mem.drafted.contains (harKey 0 0) = false ∧
    storedFrames (loadedAt 2 false) 0 1 0 2704 = none ∧
    storedFrames (loadedAt 1 false) 0 1 (2704 * 35) 2704 = some [] := by
  decide +kernel

/-- Die 0 with PLLs enabled or not, locked or not, and with its fringe clock net 0 running or not. -/
def fringeAt (en lock net done : Nat) : State :=
  let s := setF (setF (setF (run up) fFCLK_STAT_pll0_lock 0 0 lock) fFCLK_STAT_pll1_lock 0 0 lock) fFCLK_STAT_net_on 0 0 net
  let s := setF (setF s fFIO_STAT_rail_ok 0 0 1) fCFG_STAT_done 0 0 done
  { s with fringe := { s.fringe with frames := memWrite (memWrite [] (fringeAddr 0 24608 9) [BitVec.ofNat 8 en]) (fringeAddr 0 24608 11) [BitVec.ofNat 8 en] } }

/-- The state after an edge of net 0 on which the pins are low and nothing but the samples may change. -/
def edgeEnd : State :=
  let s := fringeAt 0 0 1 0
  let m := (ioOn s 0 0).map (fun p => (p, ioSample s 0 p (bitOf 0 p) (bitsOf 0 (8 * p + 7) (8 * p))))
  setReg { setFfs s [] with fringe.rx := m.foldl (fun r e => sparseSet (fun _ => 0) r e.1 e.2.2) (setFfs s []).fringe.rx } .FIO_IN 0 0
    (BitVec.ofNat 32 (m.foldl (fun v e => putBits v e.1 e.1 (bitN e.2.1)) (regRaw s .FIO_IN 0 0).toNat))

theorem witness_FringeClocksPinsAndRails :
    pllLocked (fringeAt 0 0 0 0) 0 0 = false ∧
    pllLocked (fringeAt 1 1 0 1) 0 0 = true ∧
    pllLocked (fringeAt 1 1 0 1) 0 1 = true ∧
    flagF (showNets (setF (fringeAt 1 1 0 1) fFCLK_STAT_pll0_lock 0 0 0) 0) fCFG_STAT_done 0 0 = true ∧
    flagF (showNets (setF (fringeAt 1 1 0 0) fFCLK_STAT_pll1_lock 0 0 0) 0) fCFG_STAT_done 0 0 = false ∧
    domOn (fringeAt 1 0 0 0) 0 58 = true ∧
    pllEn (fringeAt 1 0 0 0) 0 0 = true ∧
    pllEn (fringeAt 1 0 0 0) 0 1 = true ∧
    (getImg (fringeAt 1 0 0 0) 0).loading = false ∧
    pllEn (fringeAt 0 0 0 0) 0 1 = false ∧
    bitOf (getF (setF up fFCLK_STAT_ro_run 0 0 8) fFCLK_STAT_ro_run 0 0) 3 = true ∧
    bitOf (getF up fFCLK_STAT_ro_run 0 0) 3 = false ∧
    flagF (setF up fFIO_STAT_rail_ok 0 0 0) fFIO_STAT_rail_ok 0 0 = false ∧
    flagF (fringeAt 0 0 0 0) fFIO_STAT_rail_ok 0 0 = true ∧
    flagF (setF (fringeAt 0 0 0 0) fFIO_STAT_rail_ok 0 0 0) fCFG_STAT_done 0 0 = false ∧
    flagF (setF (fringeAt 0 0 0 1) fFIO_STAT_rail_ok 0 0 0) fCFG_STAT_done 0 0 = true ∧
    netRuns (fringeAt 0 0 0 0) 0 0 = false ∧
    netRuns (fringeAt 0 0 1 0) 0 0 = true ∧
    netRuns (fringeAt 0 0 128 0) 0 7 = true ∧
    (getImg (fringeAt 0 0 1 0) 0).loading = false ∧
    stepDoneOf (fringeAt 0 0 1 0) 0 1 = false ∧
    stepDoneOf (fringeAt 0 0 1 0) 0 2 = false ∧
    stepDoneOf edgeEnd 0 2 = false := by
  decide +kernel

/-- Gate 63 of die 0 works: its net runs and the fringe is past step O; it is bound to bobbin 7 both ways, and holds `n` words. -/
def fgateAt (n : Nat) (items : List ItemRec) : State :=
  let s := setF (setF (fringeAt 0 0 1 1) fCFG_STAT_steps 0 0 15) fGATE_IN_bound 0 63 1
  let s := setF (setF s fGATE_OUT_bound 0 63 1) fGATE_OUT_bobbin 0 63 7
  let s := setFGate (setBob s 7 { bobA items with prod := .host, cons := .gate }) 0 63 { buf := List.replicate n { data := 0, tag := 0 }, inOpen := false }
  { s with fringe := { s.fringe with frames := memWrite s.fringe.frames (fringeAddr 0 24610 63) [0x80] } }

/-- Serial controller 7 of die 0 with bytes in its buffers, in a mode. -/
def serAt (tx : List (BitVec 11)) (rx : List Byte) (mode : Nat) : State :=
  setSer (setF (setF (fgateAt 0 []) fSER_CTL_en 0 7 1) fSER_CTL_mode 0 7 mode) 0 7 { tx := tx, rx := rx }

theorem witness_FringeGatesAndSerialPorts :
    gateReady (fgateAt 32 []) 0 63 = false ∧
    gateReady (fgateAt 31 []) 0 63 = true ∧
    gateReady up 0 63 = false ∧
    tagIdle idleWord.tag = true ∧
    tagIdle (0x400 : BitVec 12) = false ∧
    tagLast (0x400 : BitVec 12) = true ∧
    8 ≤ (getFGate (fgateAt 7 []) 0 63).buf.length + 1 ∧
    gateReady (fgateAt 7 []) 0 63 = true ∧
    tagLast (0 : BitVec 12) = false ∧
    tagIdle (0 : BitVec 12) = false ∧
    (getFGate (fgateAt 6 []) 0 63).buf.length + 1 < 8 ∧
    gateReady (fgateAt 6 []) 0 63 = true ∧
    gateOffers up 0 63 = false ∧
    gateOffers (fgateAt 0 [itemA 0]) 0 63 = true ∧
    getF (fgateAt 0 [itemA 0]) fGATE_OUT_bobbin 0 63 = 7 ∧
    (egressWord (bobWords (getBob (fgateAt 0 [itemA 0]) 7) + 1) (fgateAt 0 [itemA 0]) 7).2.map (fun w => tagLast w.tag) = some false ∧
    (egressWord (bobWords (getBob (egressWord (bobWords (getBob (fgateAt 0 [itemA 0]) 7) + 1) (fgateAt 0 [itemA 0]) 7).1 7) + 1) (egressWord (bobWords
      (getBob (fgateAt 0 [itemA 0]) 7) + 1) (fgateAt 0 [itemA 0]) 7).1 7).2.map (fun w => tagLast w.tag) = some true ∧
    stepDoneOf up 0 3 = false ∧
    stepDoneOf (serAt [] [] 0) 0 3 = true ∧
    64 ≤ (getSer (serAt (List.replicate 64 1) [] 0) 0 7).tx.length ∧
    (getSer (serAt (List.replicate 63 1) [] 0) 0 7).tx.length < 64 ∧
    (getSer (serAt [] [] 0) 0 7).rx = [] ∧
    (getSer (serAt [] [5] 0) 0 7).rx = 5 :: [] ∧
    flagF (serAt [] [] 0) fSER_CTL_en 0 7 = true ∧
    (getSer (serAt [] (List.replicate 63 0) 3) 0 7).rx.length < 64 ∧
    64 ≤ (getSer (serAt [] (List.replicate 64 0) 2) 0 7).rx.length ∧
    getF (serAt [] (List.replicate 64 0) 2) fSER_CTL_mode 0 7 ≠ 3 ∧
    (getSer (serAt [9] [] 0) 0 7).tx = 9 :: [] ∧
    stepDoneOf (serAt [9] [] 0) 0 3 = true := by
  decide +kernel

/-- A reset source that is asserted on die 0. -/
def heldBy (src : Nat) (l : Level) : State := { up with rst := { up.rst with asserted := [{ src := src, level := l, die := 0, har := 0 }] } }

/-- Die 0 with `k` release stages passed. -/
def stageAt (k : Nat) : State := setStage up 0 k

theorem witness_ResetSourcesAndRelease :
    outsideSource 4 = false ∧
    outsideSource 7 = true ∧
    outsideSource 12 = true ∧
    outsideSource 0 = true ∧
    (heldBy 3 .device).rst.asserted.any (fun a => decide (a.src = 3)) = true ∧
    up.rst.asserted.any (fun a => decide (a.src = 7)) = false ∧
    up.rst.asserted.any (fun a => decide (a.src = 12)) = false ∧
    getF up fCXL_LINK_STAT_up 0 0 = 0 ∧
    getF (setF up fCXL_LINK_STAT_up 0 0 1) fCXL_LINK_STAT_up 0 0 ≠ 0 ∧
    Requester.fwOwn ≠ .host ∧
    bitOf (0x00010000 : Word).toNat 31 = false ∧
    bitsOf (0x80000000 : Word).toNat 18 16 = 0 ∧
    bitsOf (0x80060000 : Word).toNat 18 16 = 6 ∧
    bitsOf (0x80010000 : Word).toNat 18 16 = 1 ∧
    bitsOf (0x80020000 : Word).toNat 18 16 = 2 ∧
    bitsOf (0x80030000 : Word).toNat 18 16 = 3 ∧
    bitsOf (0x80040000 : Word).toNat 18 16 = 4 ∧
    bitsOf (0x80050023 : Word).toNat 18 16 = 5 ∧
    bitsOf (0x80050023 : Word).toNat 5 0 = 35 ∧
    bitsOf (0x80050024 : Word).toNat 5 0 = 36 ∧
    bitOf (0x80050024 : Word).toNat 31 = true ∧
    dieHeld (heldBy 3 .device) 0 = true ∧
    dieHeld (heldBy 4 .control) 0 = false ∧
    8 ≤ getStage up 0 ∧
    getStage (stageAt 7) 0 = 7 ∧
    ({ stageAt 0 with rst := { (stageAt 0).rst with dozing := true } } : State).rst.dozing = true ∧
    dieHeld (stageAt 0) 0 = false ∧ (stageAt 0).rst.dozing = false ∧ (stageAt 0).rst.vigil = false ∧ getStage (stageAt 0) 0 = 0 ∧
    getStage (stageAt 1) 0 = 1 ∧
    getStage (stageAt 2) 0 = 2 ∧
    getStage (stageAt 3) 0 = 3 ∧
    getStage (stageAt 4) 0 = 4 ∧
    getStage (stageAt 5) 0 = 5 ∧
    poweringUp (stageAt 5) 0 = false ∧
    poweringUp (setDom (stageAt 5) 0 62 { domInit with waiting := true }) 0 = true ∧
    getStage (stageAt 6) 0 = 6 := by
  decide +kernel

/-- Die 0 is to be restored: its firmware runs, its image is loaded, and DEV_STATE says that it comes back. -/
def restoreAt : State :=
  let s := setF (setF (run up) fCFG_STAT_done 0 0 1) fDEV_STATE_die0 0 0 2
  { s with rst := { s.rst with restore := [0] } }

/-- A sleep request, with a queue pair to be refused or not. -/
def sleepAt (vigil host : Bool) (busy : Bool) : State :=
  let s := if busy then flowAt yarnA (bobA []) else up
  { s with rst := { s.rst with request := some (vigil, host) } }

/-- The device in DOZE with VGL_PWR.state `v`. -/
def dozeAt (v : Nat) : State :=
  let s := setF (setF up fVGL_PWR_state 0 0 v) fVGL_CMP_CTL_act 0 7 2
  let s := setF s fVGL_CMP_STAT_tripped 0 0 128
  { s with rst := { s.rst with dozing := true } }

/-- The device in VIGIL. -/
def vigilAt : State := { dozeAt 2 with rst := { (dozeAt 2).rst with dozing := false, vigil := true } }

theorem witness_DieRestoreAndSleepStates :
    (run up).rst.restore.contains 0 = false ∧
    dieState (run up) 0 ≠ 2 ∧
    restoreAt.rst.restore.contains 0 = true ∧
    restoreAt.rst.opened = true ∧
    dieReadyUp restoreAt 0 = true ∧
    dieState restoreAt 0 = 2 ∧
    savedDescs restoreAt 0 = none ∧
    up.rst.request = none ∧
    (sleepAt true true true).rst.request = some (true, true) ∧
    (sleepAt true true true).rst.dozing = false ∧
    (sleepAt true true true).rst.vigil = false ∧
    getF (sleepAt true true true) fVGL_PWR_state 0 0 = 0 ∧
    sleepRefused { sleepAt true true true with rst := { (sleepAt true true true).rst with request := none } } = true ∧
    sleepRefused { sleepAt false true false with rst := { (sleepAt false true false).rst with request := none } } = false ∧
    allCommitted { sleepAt false true false with rst := { (sleepAt false true false).rst with request := none } } = true ∧
    (sleepAt true false true).rst.request = some (true, false) ∧
    (dozeAt 1).rst.dozing = true ∧
    getF (dozeAt 1) fVGL_PWR_state 0 0 ≠ 3 ∧
    (dozeAt 3).rst.dozing = true ∧
    (dozeAt 3).rst.vigil = false ∧
    getF (dozeAt 3) fVGL_PWR_state 0 0 = 3 ∧
    wakeDue up .doorbell = false ∧
    wakeDue vigilAt .pin = true ∧
    vigilAt.rst.vigil = true ∧
    WakeCause.pin ≠ .doorbell ∧
    wakeDue up .pin = true ∧
    up.rst.vigil = false ∧
    up.rst.dozing = false ∧
    wakeDue (dozeAt 1) (.comparator 7) = true ∧
    getF (dozeAt 1) fVGL_PWR_state 0 0 = 1 ∧
    wakeDue (dozeAt 3) (.comparator 7) = true ∧
    getF (dozeAt 3) fVGL_PWR_state 0 0 ≠ 1 ∧
    (dozeAt 3).rst.heldWake = none ∧
    ({ dozeAt 3 with rst := { (dozeAt 3).rst with heldWake := some .pin } } : State).rst.heldWake ≠ none := by
  decide +kernel

/-- The Vigil domain with its counter, in a mode of discipline. -/
def timeAt (ns : Nat) (disc : Nat) (bad good : Nat) : State :=
  let s := setF up fVGL_CTL_disc 0 0 disc
  { s with vigil := { s.vigil with ns := ns, seconds := 1, ppsBad := bad, ppsGood := good } }

/-- The PPS output is on with a pulse of 2 ms and has this many ticks of a pulse left. -/
def ppsAt (high : Nat) : State :=
  let s := setF (setF up fVGL_CTL_pps_en 0 0 1) fVGL_CTL_pps_w 0 0 2
  { s with vigil := { s.vigil with ppsHigh := high } }

theorem witness_VigilTimeCounts :
    vigilRuns (setDom up 0 63 domInit) = false ∧
    vigilRuns (timeAt 0 0 0 0) = true ∧
    (timeAt 0 0 0 0).vigil.load = false ∧
    (timeAt 0 0 0 0).vigil.step = none ∧
    ({ up with vigil := { up.vigil with step := some 0xFFFFFFFF, load := true } } : State).vigil.step = some 0xFFFFFFFF ∧
    Requester.fwOwn ≠ .host ∧
    vigilRuns (timeAt 50 1 0 7) = true ∧
    getF (timeAt 50 1 0 7) fVGL_CTL_disc 0 0 = 1 ∧
    ppsError (timeAt 50 1 0 7).vigil = 50 ∧
    (ppsError (timeAt 50 1 0 7).vigil).natAbs ≤ 50 ∧
    8 ≤ (timeAt 50 1 0 7).vigil.ppsGood + 1 ∧
    ¬ 8 ≤ (timeAt 50 1 0 6).vigil.ppsGood + 1 ∧
    (ppsError (timeAt 999999950 1 0 0).vigil).natAbs ≤ 50 ∧
    1000 < (ppsError (timeAt 1001 1 2 0).vigil).natAbs ∧
    1000 < (ppsError (timeAt 999998999 1 3 0).vigil).natAbs ∧
    flagF (setF (setF (timeAt 1001 1 2 0) fVGL_PPS_ERR_e 0 0 1001) fVGL_STAT_holdover 0 0 0) fVGL_STAT_pps_lock 0 0 = false ∧
    getF (timeAt 0 2 0 0) fVGL_CTL_disc 0 0 ≠ 1 ∧
    (timeAt 1001 1 2 0).vigil.ppsBad + 1 ≠ 4 ∧
    (timeAt 999998999 1 3 0).vigil.ppsBad + 1 = 4 ∧
    flagF (setF (setF (timeAt 999998999 1 3 0) fVGL_PPS_ERR_e 0 0 (BitVec.ofInt 32 (-1001)).toNat) fVGL_STAT_holdover 0 0 0) fVGL_STAT_pps_lock 0 0 =
      false ∧ 1000 < (ppsError (timeAt 999998999 1 3 0).vigil).natAbs ∧
    flagF (ppsAt 0) fVGL_CTL_pps_en 0 0 = true ∧
    getF (ppsAt 0) fVGL_CTL_pps_w 0 0 * 25000 = 50000 ∧
    (ppsAt 0).vigil.ppsHigh = 0 ∧
    (ppsAt 1).vigil.ppsHigh = 1 ∧
    1 < (ppsAt 2).vigil.ppsHigh := by
  decide +kernel

/-- Both dies after start-up on the TCXO or on their own reference. -/
def refAt (a b : Nat) : State := setF (setF up fREFCLK_STAT_src 0 0 a) fREFCLK_STAT_src 1 0 b

/-- Alarm 3 is armed for second 1, and comparator 7 with an action. -/
def almAt (ns : Nat) (now : Nat) : State :=
  let s := setF (setF (timeAt ns 0 0 0) fVGL_ALM_en 0 3 1) fVGL_ALM_S_LO_s_lo 0 3 1
  setF (setF s fVGL_CMP_CTL_en 0 7 1) fVGL_CMP_STAT_now 0 0 now

theorem witness_VigilMonitorsAlarmsAndComparators :
    onTcxo (switchRef (switchRef { (setF (setF (refAt 0 1) fVGL_STAT_tcxo_ok 0 0 0) fVGL_STAT_tcxo_chk 0 0 0) with vigil.tcxoBad := true } 0) 1) 0 =
      true ∧
    onTcxo (switchRef (switchRef { (setF (setF (refAt 0 1) fVGL_STAT_tcxo_ok 0 0 0) fVGL_STAT_tcxo_chk 0 0 0) with vigil.tcxoBad := true } 0) 1) 1 =
      false ∧
    vigilRuns (setDom up 0 63 domInit) = false ∧
    vigilRuns (refAt 1 1) = true ∧
    onTcxo (switchRef (switchRef { (setF (setF (refAt 1 1) fVGL_STAT_tcxo_ok 0 0 0) fVGL_STAT_tcxo_chk 0 0 1) with vigil.tcxoBad := true } 0) 1) 0 =
      false ∧
    onTcxo (switchRef (switchRef { (setF (setF (refAt 1 1) fVGL_STAT_tcxo_ok 0 0 0) fVGL_STAT_tcxo_chk 0 0 1) with vigil.tcxoBad := true } 0) 1) 1 =
      false ∧
    ({ up with vigil := { up.vigil with tcxoBad := true } } : State).vigil.tcxoBad = true ∧
    up.vigil.tcxoBad = false ∧
    flagF (setF up fVGL_ALM_en 0 3 0) fVGL_ALM_en 0 3 = false ∧
    flagF (almAt 0 0) fVGL_ALM_en 0 3 = true ∧
    vigilTime ({ (almAt 0 0) with vigil := { (almAt 0 0).vigil with seconds := 0, ns := 999999999 } } : State).vigil < alarmTime (almAt 0 0) 3 * 2 ^ 24 ∧
    alarmTime (almAt 0 0) 3 * 2 ^ 24 ≤ vigilTime (almAt 0 0).vigil ∧
    bitOf (getF (almAt 0 128) fVGL_CMP_STAT_now 0 0) 7 = true ∧
    flagF (almAt 0 0) fVGL_CMP_CTL_en 0 7 = true ∧
    bitOf (getF (almAt 0 0) fVGL_CMP_STAT_now 0 0) 7 = false ∧
    bitOf 4 2 = true ∧
    bitOf 0 2 = false ∧
    up.rst.vigil = false := by
  decide +kernel

/-- The Selvedge wire with a frame in progress or not, of a unit low of 4000 ns. -/
def wireAt (framed : Bool) : State := { up with dbg := { up.dbg with framed := framed, t := 4000 } }

/-- The same with scopes in force. -/
def svAt (scopes : Nat) : State := setF (wireAt true) fDBG_STAT_scope 0 0 scopes

/-- The same with the debug domain off, and with the wire closed by the options. -/
def wireOff : State := setDom (wireAt true) 0 64 { domInit with state := .off }
def wireShut : State := setOpts (wireAt true) 0 { optsFactory with debug := 6 }

/-- The frame of a request, one with a bad check, and the state in which it was the last one. -/
def reqA : SvReq := reqOf [0x04, 0x00] true
def reqBad : SvReq := { reqA with crc := reqA.crc + 1 }
def againAt (halting : Option Die) : State := { wireAt true with dbg := { (wireAt true).dbg with last := some reqA, haltFor := halting } }

theorem witness_SelvedgeFramesAndRequests :
    svOn wireOff = false ∧
    svOn wireShut = false ∧
    svOn (wireAt true) = true ∧
    isBreak (wireAt true) 3500 = true ∧
    isBreak (wireAt true) 3499 = false ∧
    isBreak (wireAt false) 3600 = true ∧
    isBreak (wireAt false) 3599 = false ∧
    isBreak (wireAt false) 16000 = true ∧
    isBreak (wireAt false) 16001 = false ∧
    (Instr.halt reqA 1 .all 35 true false, 6) ∈ ([(.halt reqA 1 .all 35 true false, if true then 6 else 4)] : List (Instr × Nat)) ∧
    (wireAt false).dbg.framed = false ∧
    (wireAt true).dbg.framed = true ∧
    crc8 reqBad.frame ≠ reqBad.crc.toNat ∧
    crc8 reqA.frame = reqA.crc.toNat ∧
    svRepeat (againAt none) reqA = true ∧
    (againAt none).dbg.haltFor = none ∧
    (againAt (some 1)).dbg.haltFor ≠ none ∧
    svRepeat (againAt (some 1)) reqA = true ∧
    svRepeat (againAt none) { reqA with seq := true } = false ∧
    svRepeat (wireAt true) reqA = false ∧
    (reqOf [0x04, 0x01] false).lenOk = false ∧
    reqA.lenOk = true ∧
    scopesHeld (svAt 4) 6 = false ∧
    scopesHeld (svAt 6) 6 = true ∧
    scopesHeld (svAt 0) 1 = false ∧
    scopesHeld (svAt 0) 0 = true ∧
    svOn (againAt none) = true := by
  decide +kernel

theorem witness_SelvedgeReadsAndWrites :
    svOn (svAt 1) = true ∧
    (svAt 1).dbg.framed = true ∧
    svRepeat (svAt 1) reqA = false ∧
    scopesHeld (svAt 1) 1 = true ∧
    scopesHeld (svAt 1) 4 = false ∧
    scopesHeld (svAt 5) 4 = true ∧
    32 < (33 : Byte).toNat ∧
    (32 : Byte).toNat ≤ 32 ∧
    2 ≤ (2 : Byte).toNat ∧
    (1 : Byte).toNat < 2 ∧
    (svReadWords (svAt 1) true cleanFinds 0 0x80000000 32).2.1 = 0 ∧
    (svReadWords (svAt 1) false cleanFinds 0 0x8007FFFC 2).2.1 = 0 ∧
    (svReadWords (svAt 1) false cleanFinds 0 0x811FFFFC 2).2.1 = 4 ∧
    (svReadWords (setF (setDom (svAt 1) 0 3 { domInit with state := .off, goal := .off }) fDOM_CTL_woa 0 3 1) false cleanFinds 0 0x80180000 1).2.1 =
      heldStatus ∧
    (netAccess (svAt 1) .selvedge 0x80000000 none true cleanFinds).2.1 = 0 ∧
    bpAddress 0x41C01000 = true ∧
    bpAddress 0x41C00FFC = false ∧
    bpAddress 0x41C057FC = true ∧
    bpAddress 0x41C05800 = false ∧
    bpAddress (0x41C00FFC + 4 * 1) = true ∧
    (svWriteWords (svAt 1) cleanFinds 0 0x80000000 (List.replicate 32 1)).2 = 0 ∧
    (svWriteWords (svAt 1) cleanFinds 0 0x811FFFFC [1, 2]).2 = 4 ∧
    (svWriteWords (setF (setDom (svAt 1) 0 3 { domInit with state := .off, goal := .off }) fDOM_CTL_woa 0 3 1) cleanFinds 0 0x80180000 [1]).2 =
      heldStatus ∧
    (netAccess (svAt 1) .selvedge 0x80000000 (some 9) false cleanFinds).2 = (0, 0) := by
  decide +kernel

/-- A nonce is valid, unlocks are locked out or not, and so many failed in a row. -/
def lockedOut (lock fails : Nat) : State :=
  setF { wireAt true with dbg := { (wireAt true).dbg with nonce := some 5, fails := fails } } fDBG_STAT_lockout 0 0 lock

theorem witness_SelvedgeUnlocks :
    svOn (lockedOut 0 0) = true ∧
    (lockedOut 0 0).dbg.framed = true ∧
    svRepeat (lockedOut 0 0) reqA = false ∧
    8 ≤ (8 : Byte).toNat ∧
    2 ≤ (2 : Byte).toNat ∧
    (7 : Byte).toNat < 8 ∧
    (1 : Byte).toNat < 2 ∧
    flagF (lockedOut 1 0) fDBG_STAT_lockout 0 0 = true ∧
    flagF (lockedOut 0 2) fDBG_STAT_lockout 0 0 = false ∧
    (lockedOut 0 1).dbg.fails < 2 ∧
    ¬ (lockedOut 0 2).dbg.fails < 2 ∧
    scopesGranted (lockedOut 0 0) 7 = 7 ∧
    scopesGranted (lockedOut 0 0) 2 = 0 ∧
    (wireAt true).dbg.nonce = none ∧
    (lockedOut 0 0).dbg.nonce = some 5 := by
  decide +kernel

/-- A harness that is halted, or steps, with scope RUN and HARD in force. -/
def haltedAt (halted : Bool) (steps : Nat) : State := setHar (run (svAt 6)) 0 35 { harInit with halted := halted, stepping := steps }

/-- A complex in a state of halting. -/
def coreAt (r : RtSt) : State := setRt (run (svAt 6)) 0 r

/-- Every harness of die 0 is halted. -/
def allHalted : State := (List.range 36).foldl (fun s h => setHar s 0 h { harInit with halted := true }) (run (svAt 6))

theorem witness_SelvedgeHaltsAndResumes :
    svOn (haltedAt true 0) = true ∧
    (haltedAt true 0).dbg.framed = true ∧
    svRepeat (haltedAt true 0) reqA = false ∧
    scopesHeld (haltedAt true 0) 6 = true ∧
    scopesHeld (haltedAt true 0) 4 = true ∧
    coresRun (svAt 6) 0 = false ∧
    coresRun (coreAt rtInit) 0 = true ∧
    (getRt (coreAt { rtInit with haltWait := some true }) 0).haltWait ≠ none ∧
    (getRt (coreAt { rtInit with halt := .monitor }) 0).halt ≠ .none ∧
    (getRt (coreAt rtInit) 0).haltWait = none ∧
    (getRt (coreAt rtInit) 0).halt = .none ∧
    holdsSem (coreAt rtInit) 0 = false ∧
    holdsSem (setF (coreAt rtInit) fSEM_held 0 63 1) 0 = true ∧
    harBusy (haltedAt true 5) 0 35 = true ∧
    (getHar (haltedAt true 0) 0 35).halted = true ∧
    harBusy (haltedAt false 0) 0 35 = false ∧
    (getHar (haltedAt false 0) 0 35).halted = false ∧
    (List.range 36).all (fun k => (getHar allHalted 0 k).halted) = true ∧
    (List.range 36).all (fun k => !harBusy allHalted 0 k) = true ∧
    (List.range 36).all (fun k => !harBusy (haltedAt true 0) 0 k) = true ∧
    (getHar (haltedAt true 0) 0 0).halted = false ∧
    (getRt (coreAt { rtInit with halt := .hard }) 0).haltWait = none ∧
    dieHalted (setHar up 0 35 { harInit with halted := true }) 0 = false ∧
    dieHalted allHalted 0 = true := by
  decide +kernel

theorem witness_SelvedgeStepsAndResets :
    svOn (haltedAt true 0) = true ∧
    scopesHeld (haltedAt true 0) 4 = true ∧
    (0 : BitVec 16) = 0 ∧
    (65535 : BitVec 16) ≠ 0 ∧
    harBusy (haltedAt true 1) 0 35 = true ∧
    (getHar (haltedAt false 0) 0 35).halted = false ∧
    harBusy (haltedAt true 0) 0 35 = false ∧
    (getHar (haltedAt true 0) 0 35).halted = true ∧
    5 < (6 : Byte).toNat ∧
    ((5 : Byte), Level.harness) ∈ [((1 : Byte), Level.device), (2, .die), (3, .host), (4, .control), (5, .harness)] ∧
    ((1 : Byte), Level.device) ∈ [((1 : Byte), Level.device), (2, .die), (3, .host), (4, .control), (5, .harness)] ∧
    (haltedAt true 0).dbg.rstHeld = none ∧
    ({ svAt 4 with dbg := { (svAt 4).dbg with rstHeld := some ⟨6, .die, 1, 0⟩ } } : State).dbg.rstHeld = some ⟨6, .die, 1, 0⟩ ∧
    0 < (getHar (haltedAt true 1) 0 35).stepping ∧
    (getHar (haltedAt true 0) 0 35).stepping = 0 := by
  decide +kernel

theorem witness_ReadsThatLatchOrClear :
    Instr.beatNumLoRead .host 1 true false ∈ [Instr.beatNumLoRead .host 1 false false, .beatNumLoRead .host 1 true false, .devBeatLoRead .host false,
      .vglTimeFracRead .host false] ∧
    (∃ t, exec (.beatNumLoRead .host 1 true false) up = .next t) ∧
    Requester.selvedge ≠ .host ∧
    Reg.BEAT_NUM_HI ≠ .BOB_POP_TAG := by
  exact ⟨by decide, ⟨_, rfl⟩, by decide, by decide⟩

theorem witness_RegisterWritesReachTheirRegister :
    (regSpec .BEAT_CTL).blk ≠ .bar0 ∧
    windowOpen { up with host.d3hot := true } = false ∧
    unlocked up = false ∧
    (regSpec .QP_CTL).blk = .bar0 ∧
    regExists .SEM 0 64 = false ∧
    (regSpec .BP_CTL).blk = .dbg ∧
    Requester.host ≠ .selvedge ∧
    (regSpec .DOM_CTL).fw = true ∨ (regSpec .PCFG).fw = true ∧
    writeReaches up .fwOwn .DARN_MAP = true ∧
    regExists .DARN_MAP 0 0 = true ∧
    mayWrite .fwOwn .DARN_MAP = true ∧
    Reg.DARN_MAP ∉ [Reg.RST_REQ, .DOM_CTL, .WDT_KICK] ∧
    Reg.QP_SIZE ∈ [Reg.SQ_BASE_LO, .SQ_BASE_HI, .CQ_BASE_LO, .CQ_BASE_HI, .QP_SIZE] ∧
    writeReaches (queueAt 1 qpInit) .host .QP_SIZE = true ∧
    regExists .QP_SIZE 0 2 = true ∧
    mayWrite .host .QP_SIZE = true ∧
    qpEnabled (queueAt 1 qpInit) 2 = true ∧
    qpEnabled (queueAt 0 qpInit) 2 = false ∧
    writeReaches up .fwOwn .SWAP_CTL = true ∧
    regExists .SWAP_CTL 0 35 = true ∧
    mayWrite .fwOwn .SWAP_CTL = true ∧
    bitOf (0x3FFFFFFF : Word).toNat 31 = false ∧
    bitOf (0x3FFFFFFF : Word).toNat 30 = false ∧
    regExists .DOM_CTL 1 61 = true ∧
    mayWrite .fwOwn .DOM_CTL = true ∧
    regExists .SER_TXD 1 7 = true ∧
    writeReaches (setF up fDBG_STAT_scope 0 0 1) .host .DARN_MAP = true ∧
    (regSpec .GATE_IN).blk = .frg ∧
    stepDoneOf up 0 3 = false ∧
    stepDoneOf (fgateAt 0 []) 0 3 = true ∧
    writeReaches up .host .EVT_EN = true ∧
    regExists .EVT_EN 0 0 = true ∧
    mayWrite .host .EVT_EN = true ∧
    (regSpec .EVT_EN).blk ≠ .frg ∧
    (List.range 32).any (fun k => bitOf (regRaw (regWrite (setReg up .EVT_PEND 0 0 0x100000) .EVT_EN 0 0 0x100000) .EVT_EN 0 0).toNat k && !bitOf
      (regRaw (setReg up .EVT_PEND 0 0 0x100000) .EVT_EN 0 0).toNat k && bitOf (regRaw (regWrite (setReg up .EVT_PEND 0 0 0x100000) .EVT_EN 0 0
      0x100000) .EVT_PEND 0 0).toNat k) = true := by
  decide +kernel

/-- Die 0 with a journal ring of 2 granules at base 4, so many entries in use, and a pending size. -/
def jrnAt (len : Nat) (shrink : Option Nat) : State :=
  let s := setF (setF up fJRN_SIZE_granules 0 0 2) fJRN_BASE_granules 0 0 4
  let s := setBeat s 0 { beatInit with jlen := len, jshrink := shrink, jw := len }
  { s with mem := { s.mem with allocs := [{ stack := 0, base := 4, len := 2, kind := .journal }, { stack := 0, base := 8, len := 1, kind := .window }] } }

theorem witness_JournalRingIsSetAndResized :
    0 < (getBeat (jrnAt 1 none) 0).jlen ∧
    (getBeat (jrnAt 0 none) 0).jlen = 0 ∧
    ringMayLie (jrnAt 0 none) 0 (bitsOf (6 : Word).toNat 22 0) (getF (jrnAt 0 none) fJRN_SIZE_granules 0 0) = true ∧
    ringMayLie (jrnAt 0 none) 0 (bitsOf (7 : Word).toNat 22 0) (getF (jrnAt 0 none) fJRN_SIZE_granules 0 0) = false ∧
    ringMayLie (jrnAt 0 none) 0 (getF (jrnAt 0 none) fJRN_BASE_granules 0 0) (bitsOf (4 : Word).toNat 19 0) = true ∧
    ringMayLie (jrnAt 0 none) 0 (getF (jrnAt 0 none) fJRN_BASE_granules 0 0) (bitsOf (5 : Word).toNat 19 0) = false ∧
    ringMayLie (jrnAt 0 none) 0 allocLimit 0 = true ∧
    (getBeat (jrnAt 64 (some 1)) 0).jshrink ≠ none ∧
    (getBeat (jrnAt 64 none) 0).jshrink = none ∧
    getF (jrnAt 64 none) fJRN_SIZE_granules 0 0 = 2 ∧
    allocFree (jrnAt 64 none) 0 (4 + 2) (5 - 2) = false ∧
    allocFree (jrnAt 64 none) 0 (4 + 2) (4 - 2) = true ∧
    4 + 4 ≤ allocLimit ∧
    1 * 64 < (getBeat (jrnAt 65 none) 0).jlen ∧
    (getBeat (jrnAt 64 none) 0).jlen ≤ 1 * 64 := by
  decide +kernel

theorem witness_DiagnosticWindowReadsAndWrites :
    windowOpen { up with host.d3hot := true } = false ∧
    windowOpen up = true ∧
    (16 : Fin 17).val ≠ 4 ∧
    (2 : BitVec 27).toNat % 4 ≠ 0 ∧
    (windowAccess up (0x4000000 : BitVec 27).toNat none false cleanFinds).2.1 = 0 ∧
    (windowAccess up (0x3FFFFFC : BitVec 27).toNat none false cleanFinds).2.1 ≠ heldStatus ∧
    (windowAccess (setStage up 0 3) (0 : BitVec 27).toNat none false cleanFinds).2.1 = 2 ∧
    (windowAccess (setF (setDom up 0 3 { domInit with state := .off, goal := .off }) fDOM_CTL_woa 0 3 1) (0x4180000 : BitVec 27).toNat none false
      cleanFinds).2.1 = heldStatus ∧
    unlocked up = false ∧
    unlocked (setF up fDBG_STAT_scope 0 0 1) = true ∧
    (windowAccess (setF up fDBG_STAT_scope 0 0 1) (0x51FFFFC : BitVec 27).toNat (some 7) false cleanFinds).2.1 = 0 ∧
    (windowAccess (setStage (setF up fDBG_STAT_scope 0 0 1) 0 3) (0 : BitVec 27).toNat (some 7) false cleanFinds).2.1 = 2 ∧
    bitOf (0x2000000 : BitVec 27).toNat 25 = true ∧
    (0x3FFFFFF : BitVec 27).toNat < 0x4000000 ∧
    0x4000000 ≤ (0x4000000 : BitVec 27).toNat ∧
    (0x51FFFFF : BitVec 27).toNat % 0x2000000 < 0x1200000 ∧
    0x1200000 ≤ (0x5200000 : BitVec 27).toNat % 0x2000000 ∧
    HostSpace.diag ≠ .config ∧
    (8 : Fin 17).val ≠ 4 ∧
    (8 : Fin 17).val = 8 ∧
    (4 : BitVec 27).toNat % (8 : Fin 17).val ≠ 0 ∧
    (2 : BitVec 27).toNat % (4 : Fin 17).val ≠ 0 ∧
    (0x10 : BitVec 27).toNat % 65536 % 8 = 0 ∧
    (0x14 : BitVec 27).toNat % 65536 % 4 = 0 ∧
    (Machine.regAt .bar0 0x1000).isSome = true ∧
    Machine.regAt .bar0 0xFFFC = none ∧
    (0 : BitVec 27).toNat % 4096 / 4 * 4 = 0 ∧
    (0xB : BitVec 27).toNat % 4096 / 4 * 4 = 8 ∧
    (0x2C : BitVec 27).toNat % 4096 / 4 * 4 = 0x2C := by
  decide +kernel

theorem witness_WidthIsTheShortestForm :
    1 ≤ 16 ∧
    -(2 ^ (16 - 1) : Int) ≤ -32768 ∧
    (32767 : Int) ≤ 2 ^ (16 - 1) - 1 ∧
    widthOf 32768 = 17 := by
  decide

theorem witness_HdmReadsBackWhatWasWritten :
    hdmReachable hdmAt = true ∧
    windowGranule hdmAt (524287 * 64 / 4096) = true ∧
    (List.replicate 64 (7 : Byte)).length = 64 ∧
    proxied hdmAt (hdmStack (524287 * 64)) (48 + pcOf (hdmOff (524287 * 64)) / 4) = false := by
  decide +kernel

theorem witness_WireEventsComplete :
    domOn (wireAt true) 0 64 = true ∧
    (getOpts (wireAt true) 0).debug % 2 = 1 ∧
    (wireAt false).dbg.framed = false ∧
    7 * (wireAt true).dbg.t ≤ 8 * 3500 ∧
    8 * 3499 < 7 * (wireAt true).dbg.t ∧
    domOn wireOff 0 64 = false ∧
    (getOpts wireShut 0).debug % 2 ≠ 1 ∧
    ((getImg (setOpts (imgAt 1 waitImg) 0 { optsFactory with boot := 1 }) 0).waiting && !(getImg (setOpts (imgAt 1 waitImg) 0
      { optsFactory with boot := 1 }) 0).update && !(getImg (setOpts (imgAt 1 waitImg) 0 { optsFactory with boot := 1 }) 0).retained && bitOf (getOpts
      (setOpts (imgAt 1 waitImg) 0 { optsFactory with boot := 1 }) 0).boot 0) = true ∧
    (getImg (imgAt 1 loadImg) 0).loading = true ∧
    (getImg (imgAt 1 loadImg) 0).src = some (.pins [] []) ∧
    (getImg (imgAt 1 loadImg) 0).waiting = false ∧
    (getImg (imgAt 1 imgInit) 0).loading = false := by
  decide +kernel

end Sys2Proof.Tests
end

section
/-! PROOFS. Writes of registers: what reserved encodings leave in a field (R8, R11), who may write a register, and what a write
of each does (R325, R384, R456, R478). The case lemmas on `fieldWrite`, `regWriteAt` and `writeReaches` come first; the
statements follow from them by name. -/

namespace Sys2Proof.Machine

/-! ## A write by the access codes, field by field (R8, R11) -/

/-- A reserved encoding leaves a field that takes values as it was (R11). -/
theorem fieldWrite_reserved (f : FieldSpec) (locked : Bool) (old v : Nat) (hacc : f.acc = .rw ∨ f.acc = .rwl)
    (hv : fieldOk f v = false) : fieldWrite f locked old v = old := by
  rcases hacc with hacc | hacc <;> simp [fieldWrite, hacc, hv]

/-- A value that is no reserved encoding is taken where no lock bit stands against it (R8). -/
theorem fieldWrite_taken (f : FieldSpec) (locked : Bool) (old v : Nat)
    (hacc : f.acc = .rw ∨ (f.acc = .rwl ∧ locked = false)) (hv : fieldOk f v = true) : fieldWrite f locked old v = v := by
  rcases hacc with hacc | ⟨hacc, hl⟩
  · simp [fieldWrite, hacc, hv]
  · simp [fieldWrite, hacc, hl, hv]

/-- Each field of the register that a write by the access codes has stored. -/
theorem bitsOf_regWrite (s : State) (r : Reg) (d : Die) (i : Nat) (v : Word) (f : FieldSpec) (hf : f ∈ (regSpec r).fields) :
    bitsOf (regRaw (regWrite s r d i v) r d i).toNat f.hi f.lo =
      fieldWrite f (bitOf (regRaw s r d i).toNat 31) (bitsOf (regRaw s r d i).toNat f.hi f.lo) (bitsOf v.toNat f.hi f.lo) := by
  rw [regWrite, regRaw_setReg, bitsOf_regWritten r _ v f hf]

/-- The period field of BEAT_CTL, whose values below 10 and above 100,000 are reserved (R196). -/
def beatPeriodSpec : FieldSpec := ⟨16, 0, .rw, 0xFA, .device, [(10, 100000)]⟩

theorem beatPeriodSpec_mem : beatPeriodSpec ∈ (regSpec .BEAT_CTL).fields := by decide

theorem fieldOk_beatPeriodSpec (v : Nat) : fieldOk beatPeriodSpec v = true ↔ 10 ≤ v ∧ v ≤ 100000 := by
  simp [fieldOk, beatPeriodSpec]

/-- The beat period after a write of BEAT_CTL. -/
theorem getF_setPeriod (s : State) (v : Word) : getF (setPeriod s v) fBEAT_CTL_period 0 0 =
    fieldWrite beatPeriodSpec (bitOf (regRaw s .BEAT_CTL 0 0).toNat 31) (getF s fBEAT_CTL_period 0 0) (bitsOf v.toNat 16 0) :=
  bitsOf_regWrite s .BEAT_CTL 0 0 v beatPeriodSpec beatPeriodSpec_mem

theorem getF_setPeriod_reserved (s : State) (v : Word) (h : bitsOf v.toNat 16 0 < 10 ∨ 100000 < bitsOf v.toNat 16 0) :
    getF (setPeriod s v) fBEAT_CTL_period 0 0 = getF s fBEAT_CTL_period 0 0 := by
  have hv : fieldOk beatPeriodSpec (bitsOf v.toNat 16 0) = false := by
    rw [← Bool.not_eq_true, fieldOk_beatPeriodSpec]
    omega
  rw [getF_setPeriod, fieldWrite_reserved _ _ _ _ (.inl rfl) hv]

theorem getF_setPeriod_taken (s : State) (v : Word) (h1 : 10 ≤ bitsOf v.toNat 16 0) (h2 : bitsOf v.toNat 16 0 ≤ 100000) :
    getF (setPeriod s v) fBEAT_CTL_period 0 0 = bitsOf v.toNat 16 0 := by
  rw [getF_setPeriod, fieldWrite_taken _ _ _ _ (.inl rfl) ((fieldOk_beatPeriodSpec _).mpr ⟨h1, h2⟩)]

/-- BEAT_CTL of die 0 takes a write as its period. -/
theorem exec_beatPeriodWrite_die0 (s : State) (rq : Requester) (v : Word) :
    exec (.beatPeriodWrite rq 0 v) s = .next (setPeriod s v) := rfl

/-- Settles O10: every field of the register written is what `fieldWrite` makes of it, and that keeps the old value at a
reserved encoding and takes the value written otherwise. -/
theorem reservedEncodingsLeaveFieldsUnchanged : Obligations.ReservedEncodingsLeaveFieldsUnchanged := by
  refine ⟨fun s r d i v f hf => ⟨fun hacc hv => ?_, fun hacc hv => ?_, bitsOf_regWrite s r d i v f hf⟩, fun s rq v => ?_⟩
  · rw [bitsOf_regWrite s r d i v f hf, fieldWrite_reserved f _ _ _ hacc hv]
  · rw [bitsOf_regWrite s r d i v f hf, fieldWrite_taken f _ _ _ hacc hv]
  · exact ⟨setPeriod s v, exec_beatPeriodWrite_die0 s rq v, getF_setPeriod_reserved s v, getF_setPeriod_taken s v⟩

/-! ## Who may write a register, and what a write of it does (R8, R325, R384, R456, R478) -/

/-- Does a register take a write that has reached it: the die has it, the requester may write it, and no hold of the start-up
stands against it? -/
def writeTaken (s : State) (rq : Requester) (d : Die) (r : Reg) (i : Nat) : Bool :=
  regExists r d i && mayWrite rq r && !writesHeld s d r

theorem writeTaken_of (s : State) (rq : Requester) (d : Die) (r : Reg) (i : Nat) (hex : regExists r d i = true)
    (hmay : mayWrite rq r = true) (hfrg : (regSpec r).blk = .frg → stepDoneOf s d 3 = true) :
    writeTaken s rq d r i = true := by
  by_cases hb : (regSpec r).blk = .frg
  · simp [writeTaken, writesHeld, hex, hmay, hfrg hb]
  · simp [writeTaken, writesHeld, hex, hmay, hb]

/-- A write that is taken passes the test that stands before `regWriteAt`'s rows. -/
theorem writeTaken_iff {s : State} {rq : Requester} {d : Die} {r : Reg} {i : Nat} :
    writeTaken s rq d r i = true ↔ ¬ (!regExists r d i || !mayWrite rq r || writesHeld s d r) = true := by
  simp [writeTaken, and_assoc]

theorem regWriteAt_ignored (s : State) (rq : Requester) (d : Die) (r : Reg) (i : Nat) (v : Word)
    (h : writeTaken s rq d r i = false) : regWriteAt s rq d r i v = s := by
  rw [← Bool.not_eq_true, writeTaken_iff, not_not] at h
  exact if_pos h

theorem exec_registerWrite (rq : Requester) (d : Die) (r : Reg) (i : Nat) (v : Word) (s : State) :
    exec (.registerWrite rq d r i v) s = .next (if writeReaches s rq r then regWriteAt s rq d r i v else s) := rfl

theorem exec_registerWrite_unreached (s : State) (rq : Requester) (d : Die) (r : Reg) (i : Nat) (v : Word)
    (h : writeReaches s rq r = false) : exec (.registerWrite rq d r i v) s = .next s := by
  rw [exec_registerWrite, h, if_neg Bool.false_ne_true]

theorem exec_registerWrite_reached (s : State) (rq : Requester) (d : Die) (r : Reg) (i : Nat) (v : Word)
    (h : writeReaches s rq r = true) : exec (.registerWrite rq d r i v) s = .next (regWriteAt s rq d r i v) := by
  rw [exec_registerWrite, if_pos h]

/-- A write that the register does not take changes nothing, whether it reaches it or not. -/
theorem exec_registerWrite_ignored (s : State) (rq : Requester) (d : Die) (r : Reg) (i : Nat) (v : Word)
    (h : writeTaken s rq d r i = false) : exec (.registerWrite rq d r i v) s = .next s := by
  cases hr : writeReaches s rq r
  · exact exec_registerWrite_unreached s rq d r i v hr
  · rw [exec_registerWrite_reached s rq d r i v hr, regWriteAt_ignored s rq d r i v h]

theorem mayWrite_dbg (rq : Requester) (r : Reg) (hb : (regSpec r).blk = .dbg) (hrq : rq ≠ .selvedge) :
    mayWrite rq r = false := by
  simp [mayWrite, hb, hrq]

/-- What only the firmware writes, the host does not, but for its own window (R478). -/
theorem mayWrite_host_fw (r : Reg) (hfw : (regSpec r).fw = true) (hb : (regSpec r).blk ≠ .bar0) :
    mayWrite .host r = false := by
  unfold mayWrite
  split
  · contradiction
  · rfl
  · rw [hfw]; rfl

section
variable {s : State} {rq : Requester} {d : Die} {r : Reg} {i : Nat} {v : Word}

/-- The registers whose write has an effect of its own. -/
def ownEffect : List Reg := [Reg.RST_REQ, .DOM_CTL, .WDT_KICK, .VGL_CTL, .VGL_STEP, .NOC_CTL, .NOC_RT_DATA, .YARN_SEL, .BOB_SEL,
  .BOB_PUSH_TAG, .NOC_RT_SEL, .CELL_CSEL, .SWAP_CTL, .CLK_CTL, .AVS_CTL, .BANK_CTL, .YARN_OVF, .BEAT_CTL, .JRN_BASE, .JRN_SIZE,
  .BOB_QUOTA, .BOB_CTL, .BOB_PUSH, .PCFG, .QBV_CTL, .PL_CTL, .PL_PERIOD, .PL_BASE_NS, .PL_BASE_S, .PL_LEAD, .BRD_CTL, .GATE_IN,
  .GATE_OUT, .SER_TXD, .SER_CTL, .SER_STAT, .BP_CTL, .BP_SEL, .BP_VAL, .BP_MASK, .BP_TAG, .BP_HITS, .MT_CTL, .QP_DB_SQ,
  .QP_DB_CQ, .REGION_DB, .SQ_BASE_LO, .SQ_BASE_HI, .CQ_BASE_LO, .CQ_BASE_HI, .QP_SIZE, .QP_CTL, .MSIX_CTL, .EVT_EN]

/-- A plain register takes a write by its access codes. -/
theorem regWriteAt_plain (hw : writeTaken s rq d r i = true) (hr : r ∉ ownEffect) :
    regWriteAt s rq d r i v = regWrite s r d i v := by
  unfold regWriteAt
  rw [if_neg (writeTaken_iff.mp hw)]
  split
  case h_55 => rfl
  all_goals exact absurd (by decide) hr

/-- The base and size registers of the queue pairs. -/
def queueSetup : List Reg := [Reg.SQ_BASE_LO, .SQ_BASE_HI, .CQ_BASE_LO, .CQ_BASE_HI, .QP_SIZE]

/-- Each of them takes a write while its queue pair is not enabled (R326). -/
theorem regWriteAt_queue (hw : writeTaken s rq d r i = true) (hr : r ∈ queueSetup) :
    regWriteAt s rq d r i v = queueWrite s r i v := by
  unfold regWriteAt
  rw [if_neg (writeTaken_iff.mp hw)]
  simp only [queueSetup, List.mem_cons, List.not_mem_nil, or_false] at hr
  rcases hr with rfl | rfl | rfl | rfl | rfl <;> rfl

theorem regWriteAt_EVT_EN (hw : writeTaken s rq d .EVT_EN i = true) : regWriteAt s rq d .EVT_EN i v = evtEnWrite s v :=
  if_neg (writeTaken_iff.mp hw)

theorem regWriteAt_SWAP_CTL (hw : writeTaken s rq d .SWAP_CTL i = true) :
    regWriteAt s rq d .SWAP_CTL i v = swapCtlWrite s d i v :=
  if_neg (writeTaken_iff.mp hw)

/-- A write of SWAP_CTL with neither of its two bits asks for nothing (R120). -/
theorem swapCtlWrite_none (h31 : bitOf v.toNat 31 = false) (h30 : bitOf v.toNat 30 = false) : swapCtlWrite s d i v = s := by
  simp only [swapCtlWrite, h31, h30, Bool.false_eq_true, if_false]

/-- The registers whose write is a command of its own: the register, its die, its number there, and the command. -/
def ownCommands (rq : Requester) (d : Die) (h : Harn) (j : DomIx) (n : Fin 8) (v : Word) : List (Reg × Die × Nat × Instr) :=
  [(Reg.BEAT_CTL, d, 0, Instr.beatPeriodWrite rq d v), (.JRN_BASE, d, 0, .jrnBaseWrite rq d v),
    (.JRN_SIZE, d, 0, .jrnSizeWrite rq d v), (.BOB_QUOTA, d, 0, .bobQuotaWrite rq d v), (.BOB_PUSH, d, 0, .bobPush rq d v),
    (.WDT_KICK, d, 0, .wdtKick rq d v), (.RST_REQ, d, 0, .rstReqGo rq d v), (.CLK_CTL, d, h.val, .clkFreqWrite rq d h v),
    (.DOM_CTL, d, j.val, .domTargetWrite rq d j v), (.SER_TXD, d, n.val, .serTxdWrite rq d n v)]

theorem regWriteAt_command (hw : writeTaken s rq d r i = true) (h : Harn) (j : DomIx) (n : Fin 8) (c : Instr)
    (hc : (r, d, i, c) ∈ ownCommands rq d h j n v) : .next (regWriteAt s rq d r i v) = exec c s := by
  unfold regWriteAt
  rw [if_neg (writeTaken_iff.mp hw)]
  simp only [ownCommands, List.mem_cons, List.not_mem_nil, or_false, Prod.mk.injEq, true_and] at hc
  rcases hc with ⟨rfl, rfl, rfl⟩ | ⟨rfl, rfl, rfl⟩ | ⟨rfl, rfl, rfl⟩ | ⟨rfl, rfl, rfl⟩ | ⟨rfl, rfl, rfl⟩ | ⟨rfl, rfl, rfl⟩ |
    ⟨rfl, rfl, rfl⟩ | ⟨rfl, rfl, rfl⟩ | ⟨rfl, rfl, rfl⟩ | ⟨rfl, rfl, rfl⟩ <;> rfl

/-- The host's writes reach no register of the device without the debug unlock (R325). -/
theorem writeReaches_host_shut (hb : (regSpec r).blk ≠ .bar0) (h : windowOpen s = false ∨ unlocked s = false) :
    writeReaches s .host r = false := by
  rcases h with h | h <;> simp [writeReaches, hb, h]

theorem writeReaches_window_shut (hb : (regSpec r).blk = .bar0) (h : windowOpen s = false) : writeReaches s rq r = false := by
  simp [writeReaches, hb, h]

end

/-- Settles O55: a write that does not reach its register or that the register does not take leaves the state, and one that
is taken does what the row of the register says. -/
theorem registerWritesReachTheirRegister : Obligations.RegisterWritesReachTheirRegister := by
  refine ⟨fun s rq d r i v => ⟨?_, ?_, ?_, ?_, ?_, ?_⟩, fun s rq d r i v hreach hex hmay hfrg => ?_⟩
  · rintro hb rfl h
    exact exec_registerWrite_unreached s _ d r i v (writeReaches_host_shut hb h)
  · intro hb h
    exact exec_registerWrite_unreached s rq d r i v (writeReaches_window_shut hb h)
  · intro hex
    exact exec_registerWrite_ignored s rq d r i v (by simp [writeTaken, hex])
  · intro hb hrq
    exact exec_registerWrite_ignored s rq d r i v (by simp [writeTaken, mayWrite_dbg rq r hb hrq])
  · rintro hfw rfl hb
    exact exec_registerWrite_ignored s _ d r i v (by simp [writeTaken, mayWrite_host_fw r hfw hb])
  · intro hb hE
    exact exec_registerWrite_ignored s rq d r i v (by simp [writeTaken, writesHeld, hb, hE])
  · have hw := writeTaken_of s rq d r i hex hmay hfrg
    rw [exec_registerWrite_reached s rq d r i v hreach]
    refine ⟨fun hr => ?_, fun hr => ⟨fun hq => ?_, fun hq => ?_⟩, ?_, ?_, regWriteAt_command hw⟩
    · rw [regWriteAt_plain hw hr]
    · rw [regWriteAt_queue hw hr, queueWrite, if_pos hq]
    · rw [regWriteAt_queue hw hr, queueWrite, if_neg (by simp [hq])]
    · rintro rfl old t rfl rfl
      rw [regWriteAt_EVT_EN hw]
      rfl
    · rintro rfl h31 h30
      rw [regWriteAt_SWAP_CTL hw, swapCtlWrite_none h31 h30]

end Sys2Proof.Machine
end

section
/-! PROOFS. The accesses of the host through its windows and to the configuration space (R316, R318, R322, R324, R325): each
definition on their way has its case lemmas, and the statement follows from them by name. -/

namespace Sys2Proof.Machine

section
variable {s : State} {sp : HostSpace} {off w : Nat} {v : BitVec 64} {f : Finds}

/-- In D3hot the windows are gone: nothing is read. -/
theorem hostRead_shut (h : windowOpen s = false) (hsp : sp ≠ .config) : hostRead s sp off w f = s := by
  cases sp
  case config => exact absurd rfl hsp
  all_goals simp only [hostRead, h, Bool.false_eq_true, if_false]

theorem hostWrite_shut (h : windowOpen s = false) (hsp : sp ≠ .config) : hostWrite s sp off w v f = s := by
  cases sp
  case config => exact absurd rfl hsp
  all_goals simp only [hostWrite, h, Bool.false_eq_true, if_false]

theorem hostRead_diag (h : windowOpen s = true) : hostRead s .diag off w f = diagRead s off w f := if_pos h

theorem hostRead_window (h : windowOpen s = true) : hostRead s .window off w f = windowRead s (off % 65536) w := if_pos h

theorem hostWrite_diag (h : windowOpen s = true) : hostWrite s .diag off w v f = diagWrite s off w (v.setWidth 32) f := if_pos h

theorem hostWrite_window (h : windowOpen s = true) : hostWrite s .window off w v f = windowWrite s (off % 65536) w v := if_pos h

/-! ## Size and alignment (R322) -/

theorem diagAligned_word (h : off % 4 = 0) : diagAligned off 4 = true := by simp [diagAligned, h]

theorem diagAligned_bad (h : w ≠ 4 ∨ off % 4 ≠ 0) : diagAligned off w = false := by
  rcases h with h | h <;> simp [diagAligned, h]

/-- The Host Window repeats every 64 KiB, so an offset in it is aligned where the offset given is. -/
theorem windowAligned_bad (h : w ≠ 4 ∧ w ≠ 8 ∨ off % w ≠ 0) : windowAligned (off % 65536) w = false := by
  by_cases hw : w = 4 ∨ w = 8
  · have ho : off % 65536 % w ≠ 0 := by rcases hw with rfl | rfl <;> omega
    simp [windowAligned, ho]
  · simp [windowAligned, hw]

theorem windowAligned_four (h : off % 4 = 0) : windowAligned off 4 = true := by simp [windowAligned, h]

theorem windowAligned_eight (h : off % 8 = 0) : windowAligned off 8 = true := by simp [windowAligned, h]

theorem diagRead_bad (h : diagAligned off w = false) : diagRead s off w f = diagBadRead s w := by
  rw [diagRead, if_pos (by simp [h])]

theorem diagWrite_bad {x : Word} (h : diagAligned off w = false) : diagWrite s off w x f = countF s fHOST_ERR_acc_err 0 0 := by
  rw [diagWrite, if_pos (by simp [h])]

theorem windowRead_bad (h : windowAligned off w = false) : windowRead s off w = diagBadRead s w := by
  rw [windowRead, if_pos (by simp [h])]

theorem windowWrite_bad (h : windowAligned off w = false) : windowWrite s off w v = countF s fHOST_ERR_acc_err 0 0 := by
  rw [windowWrite, if_pos (by simp [h])]

/-! ## The Diagnostic Window (R325) -/

theorem diagRecord_kept {t : State} {st : Nat} (h : st = 0 ∨ st = heldStatus) : diagRecord t off st = t := if_pos h

theorem diagRecord_failed {t : State} {st : Nat} (h0 : st ≠ 0) (h1 : st ≠ heldStatus) :
    diagRecord t off st = setReg t .DIAG_STAT 0 0 (BitVec.ofNat 32 (2 ^ 31 + st * 2 ^ 25 + off / 4)) :=
  if_neg (by simp [h0, h1])

/-- What a word access reads, records and answers. -/
theorem diagRead_word (h : off % 4 = 0) {t : State} {st : Nat} {x : Word}
    (ha : windowAccess s off none (flagF s fDIAG_CTL_inspect 0 0) f = (t, st, x)) :
    diagRead s off 4 f = diagValue (diagRecord t off st) st x := by
  rw [diagRead, if_neg (by simp [diagAligned_word h]), ha]

theorem diagWrite_locked {x : Word} (h : off % 4 = 0) (hu : unlocked s = false) : diagWrite s off 4 x f = s := by
  rw [diagWrite, if_neg (by simp [diagAligned_word h]), if_pos (by simp [hu])]

theorem diagWrite_word {y : Word} (h : off % 4 = 0) (hu : unlocked s = true) {t : State} {st : Nat} {x : Word}
    (ha : windowAccess s off (some y) false f = (t, st, x)) : diagWrite s off 4 y f = diagRecord t off st := by
  rw [diagWrite, if_neg (by simp [diagAligned_word h]), if_neg (by simp [hu]), ha]

theorem diagValue_ok {t : State} {x : Word} : diagValue t 0 x = emit t (.value .host x) := rfl

theorem diagValue_waiting {t : State} {x : Word} : diagValue t heldStatus x = t := rfl

theorem diagValue_failed {t : State} {st : Nat} {x : Word} (h0 : st ≠ 0) (h1 : st ≠ heldStatus) :
    diagValue t st x = emit t (.value .host 0xFFFFFFFF) := by
  rw [diagValue, if_neg h1, if_neg h0]

/-! ## The Host Window (R322) -/

theorem windowRead_four (h : off % 4 = 0) {t : State} {x : Word} (hr : placeRead s .host 0 false (.window off) = (t, x)) :
    windowRead s off 4 = emit t (.value .host x) := by
  rw [windowRead, if_neg (by simp [windowAligned_four h])]
  exact congrArg (fun p => emit p.1 (.value .host p.2)) hr

/-- A read of 8 bytes is two of a word, the lower address first. -/
theorem windowRead_two (h : off % 8 = 0) : windowRead s off 8 = windowRead (windowRead s off 4) (off + 4) 4 := by
  have hlow : windowAligned off 4 = true := windowAligned_four (by omega)
  have hhigh : windowAligned (off + 4) 4 = true := windowAligned_four (by omega)
  simp only [windowRead, windowAligned_eight h, hlow, hhigh, Bool.not_true, Bool.false_eq_true, if_false]
  rfl

theorem windowRead_eight (h : off % 8 = 0) {t u : State} {x y : Word}
    (hr : placeRead s .host 0 false (.window off) = (t, x))
    (hr2 : placeRead (emit t (.value .host x)) .host 0 false (.window (off + 4)) = (u, y)) :
    windowRead s off 8 = emit u (.value .host y) := by
  rw [windowRead_two h, windowRead_four (by omega) hr, windowRead_four (by omega) hr2]

theorem windowWrite_four (h : off % 4 = 0) : windowWrite s off 4 v = windowWord s off (BitVec.ofNat 32 v.toNat) := by
  rw [windowWrite, if_neg (by simp [windowAligned_four h])]
  simp [List.range_succ]

theorem windowWrite_eight (h : off % 8 = 0) : windowWrite s off 8 v =
    windowWord (windowWord s off (BitVec.ofNat 32 v.toNat)) (off + 4) (BitVec.ofNat 32 (v.toNat / 2 ^ 32)) := by
  rw [windowWrite, if_neg (by simp [windowAligned_eight h])]
  simp [List.range_succ]

theorem windowWord_reg {x : Word} {r : Reg} {k : Nat} (h : regAt .bar0 off = some (r, k)) :
    windowWord s off x = regWriteAt s .host 0 r k x := by
  rw [windowWord, h]

theorem windowWord_nothing {x : Word} (h : regAt .bar0 off = none) : windowWord s off x = s := by
  rw [windowWord, h]

/-! ## Where an offset of the Diagnostic Window lies (R324) -/

theorem windowAccess_regs {x : Option Word} {i : Bool} (h : off < 0x4000000) : windowAccess s off x i f =
    regAccess s .host (if bitOf off 25 then 1 else 0) (off % 0x2000000) x i := if_pos h

theorem windowAccess_bank {x : Option Word} {i : Bool} (h : 0x4000000 ≤ off) (ho : off % 0x2000000 < 0x1200000) :
    windowAccess s off x i f = bankAccess s .host (if bitOf off 25 then 1 else 0) (off % 0x2000000) x f := by
  rw [windowAccess, if_neg (by omega), if_neg (by omega)]

theorem windowAccess_beyond {x : Option Word} {i : Bool} (h : 0x4000000 ≤ off) (ho : 0x1200000 ≤ off % 0x2000000) :
    windowAccess s off x i f = (s, 0, 0) := by
  rw [windowAccess, if_neg (by omega), if_pos ho]

end

/-! ## The commands -/

theorem exec_diagRead (sp : HostSpace) (off : BitVec 27) (w : Fin 17) (f : Finds) (s : State) :
    exec (.diagRead sp off w f) s = .next (hostRead s sp off.toNat w.val f) := rfl

theorem exec_diagWrite (sp : HostSpace) (off : BitVec 27) (w : Fin 17) (v : BitVec 64) (f : Finds) (s : State) :
    exec (.diagWrite sp off w v f) s = .next (hostWrite s sp off.toNat w.val v f) := rfl

section
variable {s : State} {sp : HostSpace} {off : BitVec 27} {w : Fin 17} {v : BitVec 64} {f : Finds}

/-- An access of a size or an alignment that its window does not take (R322). -/
def badAccess (sp : HostSpace) (off w : Nat) : Prop :=
  (sp = .diag ∧ (w ≠ 4 ∨ off % 4 ≠ 0)) ∨ (sp = .window ∧ (w ≠ 4 ∧ w ≠ 8 ∨ off % w ≠ 0))

theorem hostRead_bad (h : windowOpen s = true) {off w : Nat} (hb : badAccess sp off w) :
    hostRead s sp off w f = diagBadRead s w := by
  rcases hb with ⟨rfl, hb⟩ | ⟨rfl, hb⟩
  · rw [hostRead_diag h, diagRead_bad (diagAligned_bad hb)]
  · rw [hostRead_window h, windowRead_bad (windowAligned_bad hb)]

theorem hostWrite_bad (h : windowOpen s = true) {off w : Nat} (hb : badAccess sp off w) :
    hostWrite s sp off w v f = countF s fHOST_ERR_acc_err 0 0 := by
  rcases hb with ⟨rfl, hb⟩ | ⟨rfl, hb⟩
  · rw [hostWrite_diag h, diagWrite_bad (diagAligned_bad hb)]
  · rw [hostWrite_window h, windowWrite_bad (windowAligned_bad hb)]

/-- A word read through the Diagnostic Window. -/
theorem exec_diagRead_diag (h : windowOpen s = true) (ho : off.toNat % 4 = 0) {t : State} {st : Nat} {x : Word}
    (ha : windowAccess s off.toNat none (flagF s fDIAG_CTL_inspect 0 0) f = (t, st, x)) :
    exec (.diagRead .diag off 4 f) s = .next (diagValue (diagRecord t off.toNat st) st x) := by
  rw [exec_diagRead, hostRead_diag h]
  exact congrArg _ (diagRead_word ho ha)

theorem exec_diagWrite_diag (h : windowOpen s = true) (ho : off.toNat % 4 = 0) (hu : unlocked s = true) {t : State} {st : Nat}
    {x : Word} (ha : windowAccess s off.toNat (some (v.setWidth 32)) false f = (t, st, x)) :
    exec (.diagWrite .diag off 4 v f) s = .next (diagRecord t off.toNat st) := by
  rw [exec_diagWrite, hostWrite_diag h]
  exact congrArg _ (diagWrite_word ho hu ha)

end

/-- Settles O57: each access is the one that its window and its size choose, and a failure of one through the Diagnostic Window is
recorded. -/
theorem diagnosticWindowReadsAndWrites : Obligations.DiagnosticWindowReadsAndWrites := by
  refine ⟨?closed, ?size, ?diag, ?window, ?config, ⟨rfl, rfl, rfl, rfl, rfl, rfl⟩, ?place⟩
  case closed =>
    intro s off w v f sp h hsp
    rw [exec_diagRead, exec_diagWrite, hostRead_shut h hsp, hostWrite_shut h hsp]
    exact ⟨rfl, rfl⟩
  case size =>
    intro s off w v f sp h hb
    rw [exec_diagRead, exec_diagWrite, hostRead_bad h hb, hostWrite_bad h hb]
    exact ⟨rfl, rfl⟩
  case diag =>
    intro s off v f h ho
    refine ⟨fun t st x ha => ⟨?_, ?_, fun h0 h1 => ?_⟩, fun hu => ?_, fun hu t st x ha => ⟨fun h0 => ?_, fun h0 h1 => ?_⟩⟩
    · rintro rfl
      rw [exec_diagRead_diag h ho ha, diagRecord_kept (.inl rfl), diagValue_ok]
    · rintro rfl
      rw [exec_diagRead_diag h ho ha, diagRecord_kept (.inr rfl), diagValue_waiting]
    · rw [exec_diagRead_diag h ho ha, diagRecord_failed h0 h1, diagValue_failed h0 h1]
    · rw [exec_diagWrite, hostWrite_diag h]
      exact congrArg _ (diagWrite_locked ho hu)
    · rw [exec_diagWrite_diag h ho hu ha, diagRecord_kept h0]
    · rw [exec_diagWrite_diag h ho hu ha, diagRecord_failed h0 h1]
  case window =>
    rintro s off v f o h rfl ho
    refine ⟨fun t x hr => ⟨?_, fun ho8 u y hr2 => ?_⟩, fun r k hk => ?_, fun hk => ?_, fun ho8 => ?_⟩
    · rw [exec_diagRead, hostRead_window h]
      exact congrArg _ (windowRead_four ho hr)
    · rw [exec_diagRead, hostRead_window h]
      exact congrArg _ (windowRead_eight ho8 hr hr2)
    · rw [exec_diagWrite, hostWrite_window h]
      exact congrArg _ ((windowWrite_four ho).trans (windowWord_reg hk))
    · rw [exec_diagWrite, hostWrite_window h]
      exact congrArg _ ((windowWrite_four ho).trans (windowWord_nothing hk))
    · rw [exec_diagWrite, hostWrite_window h]
      exact congrArg _ (windowWrite_eight ho8)
  case config =>
    rintro s off w v f a rfl
    refine ⟨rfl, configWord s (off.toNat % 4096 / 4 * 4), rfl, fun ha => ?_, fun ha => ?_, fun ha => ?_⟩ <;> rw [ha] <;> rfl
  case place =>
    rintro s off x i f d rfl
    exact ⟨windowAccess_regs, windowAccess_bank, windowAccess_beyond⟩

end Sys2Proof.Machine
end

section
/-! PROOFS. The host's commands on ports, rings and nodes (R276 to R302, R335): each command's checks are written out once, in
the order in which the device makes them, and each answer follows from those that come before it. -/

namespace Sys2Proof.Machine

/-! ## PORT_CFG and PORT_TABLE (R276, R280, R283, R286) -/

section
variable {s : State} {c : HostCmd}

theorem portCfg_noPort (h : 96 ≤ opPort c) : portCfg s c = failStaged s c 4 0 := if_pos h

theorem portCfg_badValue (h : opPort c < 96) (hv : regValueOk .PCFG (opOf c 1) = false) :
    portCfg s c = failStaged s c 2 0 := by
  unfold portCfg
  rw [if_neg (by omega), if_pos (by simp [hv])]

/-- The state in which PORT_CFG writes CFG: the port is disabled first where its mode or fec changes (R276). -/
def portReady (s : State) (p v : Nat) : State :=
  let old := (regRaw s .PCFG (portDie p) (portIx p)).toNat
  if bitsOf old 26 22 ≠ bitsOf v 26 22 then portCfgWrite s .fwOwn p (BitVec.ofNat 32 (old % 2 ^ 31)) else s

/-- A port with the MAC address that PORT_CFG gives it. -/
def withMac (s : State) (p : Nat) (mac : BitVec 48) : State :=
  { s with ports.macs := sparseSet (fun _ => none) s.ports.macs p (some mac) }

theorem portCfg_done (h : opPort c < 96) (hv : regValueOk .PCFG (opOf c 1) = true) {u : State}
    (hu : u = portCfgWrite (portReady s (opPort c) (opOf c 1)) .fwOwn (opPort c) (BitVec.ofNat 32 (opOf c 1))) :
    portCfg s c = stagedOk (withMac u (opPort c) (BitVec.ofNat 48 (opOf c 2 + bitsOf (opOf c 3) 15 0 * 2 ^ 32))) c 0 .none := by
  subst hu
  unfold portCfg
  rw [if_neg (by omega), if_neg (by simp [hv])]
  simp only [decide_eq_true_eq]
  rfl

/-- The table that PORT_TABLE names. -/
def opTable (c : HostCmd) : Nat := bitsOf (opOf c 0) 9 8
/-- The number of entries that it writes. -/
def opCount (c : HostCmd) : Nat := bitsOf (opOf c 1) 31 16
/-- The first of them. -/
def opFirst (c : HostCmd) : Nat := bitsOf (opOf c 1) 15 0
/-- An entry of a size in the buffer of a command. -/
def bufEntry (c : HostCmd) (size i : Nat) : List Byte := (c.buf.drop (i * size)).take size
/-- Are the base and the cycle time of PORT_TABLE values that the registers take? -/
def gatesOk (c : HostCmd) : Bool := regValueOk .QBV_BASE_NS (opOf c 3) && regValueOk .QBV_CYCLE (opOf c 5)

/-- The entries of PORT_TABLE stored word by word. -/
def tableStored (s : State) (c : HostCmd) (base size : Nat) : State :=
  (List.range (opCount c)).foldl (fun s i => (List.range (size / 4)).foldl (fun s j =>
    setPortWord s (opPort c) (base + (opFirst c + i) * size + 4 * j)
      (BitVec.ofNat 32 (fieldAt (bufEntry c size i) (4 * j) 4))) s) s

/-- The base and the cycle of a gate list stored (R286). -/
def gateTimes (s : State) (c : HostCmd) : State :=
  let d := portDie (opPort c)
  let m := portIx (opPort c)
  setReg (setReg (setReg s .QBV_BASE_NS d m (BitVec.ofNat 32 (opOf c 3))) .QBV_BASE_S d m (BitVec.ofNat 32 (opOf c 4)))
    .QBV_CYCLE d m (BitVec.ofNat 32 (opOf c 5))

/-- The length that the entries of a gate list reach. -/
def gateLength (s : State) (c : HostCmd) : State :=
  if opCount c = 0 then s else setF s fQBV_CTL_alen (portDie (opPort c)) (portIx (opPort c)) (opFirst c + opCount c - 1)

/-- The change asked for where PORT_TABLE asks for it. -/
def gateChange (s : State) (c : HostCmd) : State :=
  if bitOf (opOf c 2) 0 then
    setF (setF s fQBV_CTL_en (portDie (opPort c)) (portIx (opPort c)) 1) fQBV_CTL_pend (portDie (opPort c)) (portIx (opPort c)) 1
  else s

theorem portTable_noTable (h : opTable c = 3) : portTable s c = failStaged s c 2 0 := by
  have ht : portTableOf (bitsOf (opOf c 0) 9 8) = none := congrArg portTableOf h
  unfold portTable
  dsimp only
  rw [ht]

theorem portTableOf_of_mem {t base limit size : Nat}
    (h : (t, base, limit, size) ∈ [(0, 0xC00, 64, 16), (1, 0x200, 32, 16), (2, 0x800, 256, 4)]) :
    portTableOf t = some (base, limit, size) := by
  simp only [List.mem_cons, List.not_mem_nil, or_false, Prod.mk.injEq] at h
  rcases h with ⟨rfl, rfl, rfl, rfl⟩ | ⟨rfl, rfl, rfl, rfl⟩ | ⟨rfl, rfl, rfl, rfl⟩ <;> rfl

section
variable {base limit size : Nat} (ht : portTableOf (opTable c) = some (base, limit, size))
include ht

/-- PORT_TABLE of a table that exists, check by check. -/
theorem portTable_eq : portTable s c =
    if 96 ≤ opPort c then failStaged s c 4 0
    else if limit < opFirst c + opCount c ∨ c.bufLen.toNat < opCount c * size then failStaged s c 2 0
    else if !(List.range (opCount c)).all (fun i => portEntryOk (opTable c) (bufEntry c size i)) then failStaged s c 2 0
    else if opTable c = 2 && !gatesOk c then failStaged s c 2 0
    else stagedOk (if opTable c = 2 then gateChange (gateLength (gateTimes (tableStored s c base size) c) c) c
      else tableStored s c base size) c 0 .none := by
  unfold opTable at ht
  unfold portTable
  dsimp only
  rw [ht]
  rfl

theorem portTable_noPort (h : 96 ≤ opPort c) : portTable s c = failStaged s c 4 0 := by
  rw [portTable_eq ht, if_pos h]

theorem portTable_outside (hp : opPort c < 96) (h : limit < opFirst c + opCount c ∨ c.bufLen.toNat < opCount c * size) :
    portTable s c = failStaged s c 2 0 := by
  rw [portTable_eq ht, if_neg (by omega), if_pos h]

variable (hp : opPort c < 96) (hlim : opFirst c + opCount c ≤ limit) (hbuf : opCount c * size ≤ c.bufLen.toNat)
include hp hlim hbuf

theorem portTable_badEntry
    (h : (List.range (opCount c)).all (fun i => portEntryOk (opTable c) (bufEntry c size i)) = false) :
    portTable s c = failStaged s c 2 0 := by
  rw [portTable_eq ht, if_neg (by omega), if_neg (by omega), if_pos (by rw [h]; rfl)]

/-- A gate list with times out of range is refused, whatever its entries hold. -/
theorem portTable_badTimes (h2 : opTable c = 2) (hg : gatesOk c = false) : portTable s c = failStaged s c 2 0 := by
  have h : (decide (opTable c = 2) && !gatesOk c) = true := by simp [h2, hg]
  rw [portTable_eq ht, if_neg (by omega), if_neg (by omega), if_pos h, ite_self]

theorem portTable_stored (h : (List.range (opCount c)).all (fun i => portEntryOk (opTable c) (bufEntry c size i)) = true)
    (h2 : opTable c ≠ 2) : portTable s c = stagedOk (tableStored s c base size) c 0 .none := by
  rw [portTable_eq ht, if_neg (by omega), if_neg (by omega), if_neg (by rw [h]; decide), if_neg (by simp [h2]), if_neg h2]

theorem portTable_gates (h : (List.range (opCount c)).all (fun i => portEntryOk (opTable c) (bufEntry c size i)) = true)
    (h2 : opTable c = 2) (hg : gatesOk c = true) :
    portTable s c = stagedOk (gateChange (gateLength (gateTimes (tableStored s c base size) c) c) c) c 0 .none := by
  rw [portTable_eq ht, if_neg (by omega), if_neg (by omega), if_neg (by rw [h]; decide), if_neg (by simp [hg]), if_pos h2]

end

/-! ## RING_CFG and NODE_SET (R300, R301, R302) -/

/-- The ring that RING_CFG names. -/
def opRing (c : HostCmd) : Nat := bitsOf (opOf c 0) 5 0

/-- A ring with the grid and the nodes of RING_CFG. -/
def ringGrid (s : State) (c : HostCmd) : State :=
  let d := ringDie (opRing c)
  let i := ringIx (opRing c)
  let w (j : Nat) : Word := BitVec.ofNat 32 (opOf c j)
  setReg (setReg (setReg (setReg (setReg s .PL_PERIOD d i (w 2)) .PL_LEAD d i (w 3)) .PL_BASE_NS d i (w 4)) .PL_BASE_S d i (w 5))
    .PL_NODES d i (w 6)

theorem ringCfg_noRing (h : 48 ≤ opRing c) : ringCfg s c = failStaged s c 4 0 := if_pos h

theorem ringCfg_badValue (h : opRing c < 48) (hv : ringOpsOk c = false) : ringCfg s c = failStaged s c 2 0 := by
  unfold opRing at h
  unfold ringCfg
  rw [if_neg (by omega), if_pos (by simp [hv])]

/-- RING_CFG with its values in range: refused, or the grid stored and PL_CTL written. -/
theorem ringCfg_eq (h : opRing c < 48) (hv : ringOpsOk c = true) : ringCfg s c =
    if !ringFits (ringGrid s c) (opRing c) || (bitOf (opOf c 1) 31 && ringWaits (ringGrid s c) (opRing c)) then failStaged s c 6 0
    else stagedOk (plCtlWrite (ringGrid s c) .fwOwn (opRing c) (BitVec.ofNat 32 (opOf c 1))) c 0 .none := by
  unfold opRing at h
  unfold ringCfg
  rw [if_neg (by omega), if_neg (by simp [hv])]
  rfl

theorem ringCfg_refused (h : opRing c < 48) (hv : ringOpsOk c = true) (hr : ringFits (ringGrid s c) (opRing c) = false ∨
    (bitOf (opOf c 1) 31 = true ∧ ringWaits (ringGrid s c) (opRing c) = true)) : ringCfg s c = failStaged s c 6 0 := by
  rw [ringCfg_eq h hv, if_pos]
  rcases hr with hr | ⟨hr, hw⟩
  · simp [hr]
  · simp [hr, hw]

theorem ringCfg_done (h : opRing c < 48) (hv : ringOpsOk c = true) (hf : ringFits (ringGrid s c) (opRing c) = true)
    (hw : bitOf (opOf c 1) 31 = false ∨ ringWaits (ringGrid s c) (opRing c) = false) : ringCfg s c =
    stagedOk (plCtlWrite (ringGrid s c) .fwOwn (opRing c) (BitVec.ofNat 32 (opOf c 1))) c 0 .none := by
  rw [ringCfg_eq h hv, if_neg]
  rcases hw with hw | hw <;> simp [hf, hw]

/-- The first entry that NODE_SET writes. -/
def opNode (c : HostCmd) : Nat := bitsOf (opOf c 0) 11 0
/-- The number of entries that it writes. -/
def opNodes (c : HostCmd) : Nat := bitsOf (opOf c 1) 11 0

/-- The entries of NODE_SET stored. -/
def nodesStored (s : State) (c : HostCmd) : State :=
  (List.range (opNodes c)).foldl (fun s i => (List.range 5).foldl (fun s w =>
    setNodeWord s (opDie c 0) (opNode c + i) w (fieldAt (bufEntry c 32 i) (4 * w) 4)) s) s

/-- Does a ring of the die use one of the entries that NODE_SET writes, and not fit its cycle? -/
def ringUnfit (s : State) (c : HostCmd) (k : Nat) : Prop :=
  (opDie c 0).val * 24 ≤ k ∧ k < (opDie c 0).val * 24 + 24 ∧ 0 < ringCount s k ∧
    getF s fPL_NODES_base (opDie c 0) (ringIx k) < opNode c + opNodes c ∧
    opNode c < getF s fPL_NODES_base (opDie c 0) (ringIx k) + ringCount s k ∧ ringFits (nodesStored s c) k = false

/-- The same as a test of the rings of the die in turn. -/
def someUnfit (s : State) (c : HostCmd) : Bool :=
  ((List.range 24).map (fun k => (opDie c 0).val * 24 + k)).any (fun k =>
    (decide (0 < ringCount s k) && decide (getF s fPL_NODES_base (opDie c 0) (ringIx k) < opNode c + opNodes c) &&
      decide (opNode c < getF s fPL_NODES_base (opDie c 0) (ringIx k) + ringCount s k)) && !ringFits (nodesStored s c) k)

theorem someUnfit_iff : someUnfit s c = true ↔ ∃ k, ringUnfit s c k := by
  simp only [someUnfit, List.any_map, List.any_eq_true, List.mem_range, Function.comp_apply, Bool.and_eq_true, decide_eq_true_eq,
    Bool.not_eq_true']
  constructor
  · rintro ⟨j, hj, ⟨⟨h1, h2⟩, h3⟩, h4⟩
    exact ⟨(opDie c 0).val * 24 + j, by omega, by omega, h1, h2, h3, h4⟩
  · rintro ⟨k, hlo, hhi, h1, h2, h3, h4⟩
    obtain ⟨j, rfl⟩ := Nat.exists_eq_add_of_le hlo
    exact ⟨j, by omega, ⟨⟨h1, h2⟩, h3⟩, h4⟩

/-- NODE_SET, check by check. -/
theorem nodeSet_eq : nodeSet s c =
    if 3072 < opNode c + opNodes c ∨ c.bufLen.toNat < opNodes c * 32 then failStaged s c 2 0
    else if !(List.range (opNodes c)).all (fun i => nodeEntryOk (bufEntry c 32 i)) then failStaged s c 2 0
    else if someUnfit s c then failStaged s c 6 0
    else stagedOk (nodesStored s c) c 0 .none := rfl

theorem nodeSet_outside (h : 3072 < opNode c + opNodes c ∨ c.bufLen.toNat < opNodes c * 32) :
    nodeSet s c = failStaged s c 2 0 := by
  rw [nodeSet_eq, if_pos h]

section
variable (hlim : opNode c + opNodes c ≤ 3072) (hbuf : opNodes c * 32 ≤ c.bufLen.toNat)
include hlim hbuf

theorem nodeSet_badEntry (h : (List.range (opNodes c)).all (fun i => nodeEntryOk (bufEntry c 32 i)) = false) :
    nodeSet s c = failStaged s c 2 0 := by
  rw [nodeSet_eq, if_neg (by omega), if_pos (by rw [h]; rfl)]

variable (hent : (List.range (opNodes c)).all (fun i => nodeEntryOk (bufEntry c 32 i)) = true)
include hent

theorem nodeSet_refused {k : Nat} (hk : ringUnfit s c k) : nodeSet s c = failStaged s c 6 0 := by
  rw [nodeSet_eq, if_neg (by omega), if_neg (by rw [hent]; decide), if_pos (someUnfit_iff.mpr ⟨k, hk⟩)]

theorem nodeSet_done (hall : ∀ k, ¬ ringUnfit s c k) : nodeSet s c = stagedOk (nodesStored s c) c 0 .none := by
  rw [nodeSet_eq, if_neg (by omega), if_neg (by rw [hent]; decide),
    if_neg (fun h => (someUnfit_iff.mp h).elim fun k hk => hall k hk)]

end

end

/-! ## The commands -/

theorem exec_portCfg (c : HostCmd) (s : State) : exec (.portCfg c) s = .next (portCfg s c) := rfl

theorem exec_portTable (c : HostCmd) (s : State) : exec (.portTable c) s = .next (portTable s c) := rfl

theorem exec_ringCfg (c : HostCmd) (s : State) : exec (.ringCfg c) s = .next (ringCfg s c) := rfl

theorem exec_nodeSet (c : HostCmd) (s : State) : exec (.nodeSet c) s = .next (nodeSet s c) := rfl

/-- Settles O30: each command answers what its checks, taken in turn, choose. -/
theorem hostCommandsOfPortsRingsAndNodes : Obligations.HostCommandsOfPortsRingsAndNodes := by
  refine ⟨?noPort, ?cfg, ?noTable, ?table, ?ring, ?node⟩
  case noPort =>
    intro s c h
    rw [exec_portCfg, portCfg_noPort h]
  case cfg =>
    rintro s c p v old rfl rfl hp rfl
    refine ⟨fun hv => ?_, ?_⟩
    · rw [exec_portCfg, portCfg_badValue hp hv]
    · rintro hv t u rfl rfl
      rw [exec_portCfg, portCfg_done hp hv rfl]
      rfl
  case noTable =>
    intro s c h
    rw [exec_portTable, portTable_noTable h]
  case table =>
    rintro s c p n a t base limit size rfl rfl ht rfl rfl
    have ht := portTableOf_of_mem ht
    refine ⟨fun hp => ?_, fun hp h => ?_, ?_⟩
    · rw [exec_portTable, portTable_noPort ht hp]
    · rw [exec_portTable, portTable_outside ht hp h]
    · rintro hp hlim hbuf e gates rfl rfl
      refine ⟨fun hent => ?_, fun h2 hg => ?_, ?_⟩
      · rw [exec_portTable, portTable_badEntry ht hp hlim hbuf hent]
      · rw [exec_portTable, portTable_badTimes ht hp hlim hbuf h2 hg]
      · rintro hent u rfl
        refine ⟨fun h2 => ?_, ?_⟩
        · rw [exec_portTable, portTable_stored ht hp hlim hbuf hent h2]
          rfl
        · rintro h2 hg v w x rfl rfl rfl
          rw [exec_portTable, portTable_gates ht hp hlim hbuf hent h2 hg]
          rfl
  case ring =>
    rintro s c k rfl
    refine ⟨fun hk => ?_, fun hk hv => ?_, ?_⟩
    · rw [exec_ringCfg, ringCfg_noRing hk]
    · rw [exec_ringCfg, ringCfg_badValue hk hv]
    · rintro hk hv w t u rfl rfl rfl
      refine ⟨fun hr => ?_, fun hf hw => ?_⟩
      · rw [exec_ringCfg, ringCfg_refused hk hv hr]
      · rw [exec_ringCfg, ringCfg_done hk hv hf hw]
        rfl
  case node =>
    rintro s c d a n e rfl rfl rfl rfl
    refine ⟨fun h => ?_, fun hlim hbuf => ⟨fun hent => ?_, ?_⟩⟩
    · rw [exec_nodeSet, nodeSet_outside h]
    · rw [exec_nodeSet, nodeSet_badEntry hlim hbuf hent]
    · rintro hent t unfit rfl rfl
      refine ⟨fun hall => ?_, fun k hk => ?_⟩
      · rw [exec_nodeSet, nodeSet_done hlim hbuf hent hall]
        rfl
      · rw [exec_nodeSet, nodeSet_refused hlim hbuf hent hk]

end Sys2Proof.Machine
end

section
/-! PROOFS. The host's commands on yarns (R128, R334, R335): YARN_CREATE answers what creation answers, the commands that change a
yarn are the transitions of `onYarn` in the states that R128 names, and YARN_QUERY reads the descriptor of the last committed
beat (R195). -/

namespace Sys2Proof.Machine

/-! ## Each command as a transition (R128) -/

theorem exec_yarnCreate (c : HostCmd) (s : State) : exec (.yarnCreate c) s = .next (yarnCreate s c) := rfl

theorem exec_yarnStart (c : HostCmd) (s : State) : exec (.yarnStart c) s =
    .next (onYarn s c [.idle] .none (fun s d => enterRun s d (opYarn c))) := rfl

theorem exec_yarnResume (c : HostCmd) (s : State) : exec (.yarnResume c) s =
    .next (onYarn s c [.hold] .none (fun s d => enterRun s d (opYarn c))) := rfl

theorem exec_yarnHold (c : HostCmd) (s : State) : exec (.yarnHold c) s =
    .next (onYarn s c [.run] (.hold (opYarn c)) (fun s d =>
      settleYarn (modYarn s d (opYarn c) (fun y => { y with holdReq := true })) d (opYarn c))) := rfl

theorem exec_yarnRestart (c : HostCmd) (s : State) : exec (.yarnRestart c) s =
    .next (onYarn s c [.stopped] .none (fun s d => restartStopped s d (opYarn c))) := rfl

theorem exec_yarnDelete (c : HostCmd) (s : State) : exec (.yarnDelete c) s =
    .next (onYarn s c [.idle, .hold, .stopped, .split] (.delete (opYarn c)) (fun s d =>
      settleYarn (modYarn s d (opYarn c) (fun y => { y with delReq := true })) d (opYarn c))) := rfl

theorem exec_yarnModify (c : HostCmd) (s : State) : exec (.yarnModify c) s =
    .next (onYarn s c [.idle, .run, .hold, .replay, .migrate, .stopped, .split] .none (fun s d =>
      modYarn s d (opYarn c) (modified (opOf c 1)))) := rfl

theorem exec_yarnQuery (c : HostCmd) (s : State) : exec (.yarnQuery c) s = .next (yarnQuery s c) := rfl

/-- YARN_MODIFY takes every state of a yarn that exists. -/
theorem mem_modifiable_of_ne_free {y : YState} (h : y ≠ .free) :
    y ∈ [YState.idle, .run, .hold, .replay, .migrate, .stopped, .split] := by
  cases y
  case free => exact absurd rfl h
  all_goals decide

/-! ## The query (R28, R195) -/

section
variable {s : State} {c : HostCmd}

theorem yarnQuery_missing (hc : (yarnHome s (opYarn c)).bind (fun d => committedDesc s d (opYarn c)) = none)
    (hg : goneDesc s (opYarn c) = none) : yarnQuery s c = finish s c 4 0 := by
  unfold yarnQuery
  dsimp only
  rw [hc, hg]
  rfl

theorem yarnQuery_found {o : Option (List Byte)} {bs : List Byte}
    (ho : o = (yarnHome s (opYarn c)).bind (fun d => committedDesc s d (opYarn c)))
    (h : o = some bs ∨ (o = none ∧ goneDesc s (opYarn c) = some bs)) :
    yarnQuery s c = postCompletion s c.qp (completionOf s c 0 (fieldAt bs 0 1 % 16) 0 0 bs) false := by
  unfold yarnQuery
  dsimp only
  rw [← ho]
  rcases h with rfl | ⟨rfl, hg⟩
  · rfl
  · rw [hg]
    rfl

end

/-! ## The statements -/

/-- Settles O31: YARN_CREATE answers what `createYarn` answers, and the three other commands are transitions of `onYarn` from one
state each. -/
theorem yarnCommandsChangeState : Obligations.YarnCommandsChangeState := by
  refine ⟨fun s c => ⟨?fails, ?done, ?field, ?used, ?clash⟩, ?missing, ?change⟩
  case fails =>
    intro code h
    rw [exec_yarnCreate, yarnCreate_of_inr h]
  case done =>
    intro t h
    rw [exec_yarnCreate, yarnCreate_of_inl h]
  case field =>
    intro h
    rw [exec_yarnCreate, yarnCreate_of_inr (createYarn_field h)]
  case used =>
    intro h hd
    rw [exec_yarnCreate, yarnCreate_of_inr (createYarn_used h hd)]
  case clash =>
    intro h hd hc
    rw [exec_yarnCreate, yarnCreate_of_inr (createYarn_clash h hd hc)]
  case missing =>
    intro s c h
    rw [exec_yarnStart, exec_yarnHold, exec_yarnResume]
    simp only [onYarn_missing s c _ _ _ h, and_self]
  case change =>
    rintro s c d n rfl hn hd
    refine ⟨fun hs => ?_, fun hs => ?_, fun hs => ?_, fun hs => ?_, fun hs => ?_, fun hs => ?_⟩
    · rw [exec_yarnStart, onYarn_one _ _ _ _ _ d hn hd (List.mem_singleton.mpr hs)]
    · rw [exec_yarnStart, onYarn_wrong _ _ _ _ _ d hn hd (mt List.mem_singleton.mp hs)]
    · rw [exec_yarnResume, onYarn_one _ _ _ _ _ d hn hd (List.mem_singleton.mpr hs)]
    · rw [exec_yarnResume, onYarn_wrong _ _ _ _ _ d hn hd (mt List.mem_singleton.mp hs)]
    · rw [exec_yarnHold, onYarn_one _ _ _ _ _ d hn hd (List.mem_singleton.mpr hs)]
    · rw [exec_yarnHold, onYarn_wrong _ _ _ _ _ d hn hd (mt List.mem_singleton.mp hs)]

/-- Settles O32: the three commands that change a yarn are transitions of `onYarn`, and the query answers the committed descriptor
or the one of a yarn that is gone. -/
theorem yarnCommandsRestartDeleteAndAsk : Obligations.YarnCommandsRestartDeleteAndAsk := by
  refine ⟨?missing, ?change, ?query⟩
  case missing =>
    intro s c h
    rw [exec_yarnRestart, exec_yarnDelete, exec_yarnModify]
    simp only [onYarn_missing s c _ _ _ h, and_self]
  case change =>
    rintro s c d n rfl hn hd
    refine ⟨fun hs => ?_, fun hs => ?_, fun hs => ?_, fun hs => ?_, fun hs => ?_⟩
    · rw [exec_yarnRestart, onYarn_one _ _ _ _ _ d hn hd (List.mem_singleton.mpr hs)]
    · rw [exec_yarnRestart, onYarn_wrong _ _ _ _ _ d hn hd (mt List.mem_singleton.mp hs)]
    · rw [exec_yarnDelete, onYarn_one _ _ _ _ _ d hn hd hs]
    · rw [exec_yarnDelete, onYarn_wrong _ _ _ _ _ d hn hd hs]
    · rw [exec_yarnModify, onYarn_one _ _ _ _ _ d hn hd (mem_modifiable_of_ne_free hs)]
      rfl
  case query =>
    intro s c o ho
    refine ⟨fun hc hg => ?_, fun bs h => ?_⟩
    · rw [exec_yarnQuery, yarnQuery_missing (ho ▸ hc) hg]
    · rw [exec_yarnQuery, yarnQuery_found ho h]

end Sys2Proof.Machine
end

section
/-! PROOFS. The host's commands on bobbins (R21, R138, R150, R152, R153, R335): the checks of BOB_CREATE and BOB_RESIZE are written
out once, in the order in which the device makes them, and each answer follows from those that come before it. -/

namespace Sys2Proof.Machine

/-! ## BOB_CREATE (R21, R138, R181, R335) -/

section
variable {s : State} {c : HostCmd}

/-- The number of the bobbin that BOB_CREATE asks for. -/
def createdNo (c : HostCmd) : Nat := bitsOf (opOf c 0) 31 16
/-- Its kind of producer. -/
def createdProd (c : HostCmd) : EndType := endTypeOf (bitsOf (opOf c 0) 7 6)
/-- Its kind of consumer. -/
def createdCons (c : HostCmd) : EndType := endTypeOf (bitsOf (opOf c 0) 5 4)
/-- The number of its producer. -/
def createdProdId (c : HostCmd) : Nat := bitsOf (opOf c 1) 15 0
/-- The number of its consumer. -/
def createdConsId (c : HostCmd) : Nat := bitsOf (opOf c 1) 31 16
/-- Its quota, in granules. -/
def createdQuota (c : HostCmd) : Nat := bitsOf (opOf c 2) 16 0
/-- Its policy where it is full. -/
def createdPolicy (c : HostCmd) : Nat := bitsOf (opOf c 0) 1 0

/-- Are the producer, consumer, quota and policy of BOB_CREATE in range? -/
structure CreateOk (c : HostCmd) : Prop where
  prod : endOk (createdProd c) (createdProdId c) = true
  cons : endOk (createdCons c) (createdConsId c) = true
  quota_pos : 1 ≤ createdQuota c
  quota_le : createdQuota c ≤ 65536
  policy : createdPolicy c < 2

/-- The test of the same that the command makes. -/
def createBad (c : HostCmd) : Bool :=
  !endOk (createdProd c) (createdProdId c) || !endOk (createdCons c) (createdConsId c) || decide (createdQuota c = 0) ||
    decide (65536 < createdQuota c) || decide (2 ≤ createdPolicy c)

theorem createBad_iff : createBad c = true ↔ endOk (createdProd c) (createdProdId c) = false ∨
    endOk (createdCons c) (createdConsId c) = false ∨ createdQuota c = 0 ∨ 65536 < createdQuota c ∨ 2 ≤ createdPolicy c := by
  simp only [createBad, Bool.or_eq_true, Bool.not_eq_true', decide_eq_true_eq, or_assoc]

theorem CreateOk.not_bad (h : CreateOk c) : ¬ createBad c = true := by
  obtain ⟨hp, hk, hpos, hle, hpol⟩ := h
  rw [createBad_iff, hp, hk]
  simp only [Bool.true_eq_false, false_or]
  omega

/-- Would the bobbin of BOB_CREATE join yarns of two replay classes (R181)? -/
def createdClash (s : State) (c : HostCmd) : Bool :=
  joinClash s (createdProd c) (createdCons c) (createdProdId c) (createdConsId c)

/-- The die that R21 gives it, or the code of the completion. -/
def createdDie (s : State) (c : HostCmd) : Die ⊕ Nat :=
  dieFor s (createdProd c) (createdCons c) (createdProdId c) (createdConsId c)

/-- The descriptor that BOB_CREATE stores: on a die, in a table entry, with its quota of spool at a granule. -/
def createdBob (c : HostCmd) (d : Die) (e b : Nat) : Bob :=
  { bobFree with
    state := .active
    prod := createdProd c
    cons := createdCons c
    dropOld := decide (createdPolicy c = 1)
    consId := BitVec.ofNat 16 (createdConsId c)
    prodId := BitVec.ofNat 16 (createdProdId c)
    die := d
    entry := e
    base := b
    quota := createdQuota c
    wmark := 64 * createdQuota c
    stall := BitVec.ofNat 16 (bitsOf (opOf c 3) 15 0) }

/-- The state in which the bobbin of BOB_CREATE has its entry and its quota of spool. -/
def withCreated (s : State) (c : HostCmd) (d : Die) (e b : Nat) : State :=
  setBob (allocTake s { stack := d, base := b, len := createdQuota c, kind := .spool (createdNo c) }) (createdNo c)
    (createdBob c d e b)

/-- What BOB_CREATE answers on a die: NO_RESOURCE without an entry or spool there, or for the twin copy (R191). -/
def createOn (s : State) (c : HostCmd) (d : Die) : State :=
  match freeEntry (bobEntries s d) 32768, allocFit s d 0 (spoolRegion s d) (createdQuota c) with
  | some e, some b =>
    match makeTwinBob (withCreated s c d e b) (createdNo c) with
    | some u => stagedOk (bindGates u (createdNo c)) c 0 .none
    | none => failStaged s c 5 0
  | _, _ => failStaged s c 5 0

theorem createOn_noEntry {d : Die} (h : freeEntry (bobEntries s d) 32768 = none) : createOn s c d = failStaged s c 5 0 := by
  unfold createOn
  rw [h]

theorem createOn_done {d : Die} {e b : Nat} {u : State} (he : freeEntry (bobEntries s d) 32768 = some e)
    (hb : allocFit s d 0 (spoolRegion s d) (createdQuota c) = some b)
    (hu : makeTwinBob (withCreated s c d e b) (createdNo c) = some u) :
    createOn s c d = stagedOk (bindGates u (createdNo c)) c 0 .none := by
  unfold createOn
  rw [he, hb]
  dsimp only
  rw [hu]

/-- BOB_CREATE, check by check. -/
theorem bobCreate_eq : bobCreate s c =
    if createBad c then failStaged s c 2 0
    else if (getBob s (createdNo c)).state ≠ .free then failStaged s c 3 0
    else if createdClash s c then failStaged s c 6 0
    else match createdDie s c with
      | .inr code => failStaged s c code 0
      | .inl d => createOn s c d := rfl

theorem bobCreate_badValue (h : createBad c = true) : bobCreate s c = failStaged s c 2 0 := by
  rw [bobCreate_eq, if_pos h]

section
variable (hok : CreateOk c)
include hok

theorem bobCreate_used (h : (getBob s (createdNo c)).state ≠ .free) : bobCreate s c = failStaged s c 3 0 := by
  rw [bobCreate_eq, if_neg hok.not_bad, if_pos h]

variable (hfree : (getBob s (createdNo c)).state = .free)
include hfree

theorem bobCreate_clash (h : createdClash s c = true) : bobCreate s c = failStaged s c 6 0 := by
  rw [bobCreate_eq, if_neg hok.not_bad, if_neg (not_not_intro hfree), if_pos h]

variable (hjoin : createdClash s c = false)
include hjoin

theorem bobCreate_noDie {code : Nat} (h : createdDie s c = .inr code) : bobCreate s c = failStaged s c code 0 := by
  rw [bobCreate_eq, if_neg hok.not_bad, if_neg (not_not_intro hfree), if_neg (by rw [hjoin]; decide), h]

theorem bobCreate_onDie {d : Die} (h : createdDie s c = .inl d) : bobCreate s c = createOn s c d := by
  rw [bobCreate_eq, if_neg hok.not_bad, if_neg (not_not_intro hfree), if_neg (by rw [hjoin]; decide), h]

end
end

/-! ## The commands on a bobbin that exists (R150, R152, R153, R335) -/

section
variable {s : State} {c : HostCmd}

section
variable (h : (getBob s (opBob c)).state = .free)
include h

theorem bobDelete_missing : bobDelete s c = failStaged s c 4 0 := if_pos h

theorem bobFlush_missing : bobFlush s c = finish s c 4 0 := if_pos h

theorem bobResize_missing : bobResize s c = finish s c 4 0 := if_pos h

theorem bobQuery_missing : bobQuery s c = finish s c 4 0 := if_pos h

end

/-- The quota that BOB_RESIZE asks for. -/
def askedQuota (c : HostCmd) : Nat := bitsOf (opOf c 1) 16 0

/-- What BOB_RESIZE answers for the outcome of a resize: BOB_QUOTA shows whether it was refused (R153). -/
def resizeAnswer (c : HostCmd) (d : Die) (t : State) (r pend : Bool) : State :=
  let u := setF t fBOB_QUOTA_refused d 0 (bitN r)
  if r then finish u c 6 0 else finish u c 0 (bitN pend)

section
variable (h : (getBob s (opBob c)).state ≠ .free)
include h

theorem bobDelete_named (hn : bobNamed s (opBob c) = true) : bobDelete s c = failStaged s c 6 0 := by
  unfold bobDelete
  rw [if_neg h, if_pos hn]

theorem bobDelete_done (hn : bobNamed s (opBob c) = false) :
    bobDelete s c = stagedOk (freeBob (freeBob s (opBob c)) (opBob c + 65536)) c 0 .none := by
  unfold bobDelete
  rw [if_neg h, if_neg (by rw [hn]; decide)]

theorem bobFlush_done : bobFlush s c = finish (flushBoth s (opBob c)) c 0 0 := if_neg h

theorem bobQuery_done : bobQuery s c = postCompletion s c.qp (completionOf s c 0 ((getBob s (opBob c)).wstat.toNat * 65536) 0 0
    (bobBytes (opBob c) (getBob s (opBob c)))) false := if_neg h

theorem bobResize_range (hq : askedQuota c = 0 ∨ 65536 < askedQuota c) : bobResize s c = finish s c 2 0 := by
  unfold askedQuota at hq
  unfold bobResize
  rw [if_neg h, if_pos hq]

theorem bobResize_tried (hpos : 1 ≤ askedQuota c) (hle : askedQuota c ≤ 65536) {t : State} {r pend : Bool}
    (hr : resizeBob s (opBob c) (askedQuota c) = (t, r, pend)) :
    bobResize s c = resizeAnswer c (getBob s (opBob c)).die t r pend := by
  unfold askedQuota at hpos hle hr
  unfold bobResize
  dsimp only
  rw [if_neg h, if_neg (by omega), hr]
  rfl

end
end

/-! ## The commands -/

theorem exec_bobCreate (c : HostCmd) (s : State) : exec (.bobCreate c) s = .next (bobCreate s c) := rfl

theorem exec_bobDelete (c : HostCmd) (s : State) : exec (.bobDelete c) s = .next (bobDelete s c) := rfl

theorem exec_bobFlush (c : HostCmd) (s : State) : exec (.bobFlush c) s = .next (bobFlush s c) := rfl

theorem exec_bobResize (c : HostCmd) (s : State) : exec (.bobResize c) s = .next (bobResize s c) := rfl

theorem exec_bobQuery (c : HostCmd) (s : State) : exec (.bobQuery c) s = .next (bobQuery s c) := rfl

/-- Settles O33: each command answers what its checks, taken in turn, choose. -/
theorem bobbinCommandsOfTheHost : Obligations.BobbinCommandsOfTheHost := by
  refine ⟨?create, ?others⟩
  case create =>
    rintro s c n q x y p k rfl rfl rfl rfl rfl rfl
    refine ⟨fun h => ?_, fun hp hk hpos hle hpol => ?_⟩
    · rw [exec_bobCreate, bobCreate_badValue (createBad_iff.mpr h)]
    · have hok : CreateOk c := ⟨hp, hk, hpos, hle, hpol⟩
      refine ⟨fun hu => ?_, fun hf hj => ?_, fun hf hj => ⟨fun code hd => ?_, fun d hd => ⟨fun he => ?_, ?_⟩⟩⟩
      · rw [exec_bobCreate, bobCreate_used hok hu]
      · rw [exec_bobCreate, bobCreate_clash hok hf hj]
      · rw [exec_bobCreate, bobCreate_noDie hok hf hj hd]
      · rw [exec_bobCreate, bobCreate_onDie hok hf hj hd, createOn_noEntry he]
      · rintro e b t u he hb rfl hu
        rw [exec_bobCreate, bobCreate_onDie hok hf hj hd, createOn_done he hb hu]
        rfl
  case others =>
    rintro s c n rfl
    refine ⟨fun h => ⟨?_, ?_, ?_, ?_⟩, fun h => ⟨fun hn => ?_, fun hn => ?_, ?_, ?_, ?_⟩⟩
    · rw [exec_bobDelete, bobDelete_missing h]
    · rw [exec_bobFlush, bobFlush_missing h]
    · rw [exec_bobResize, bobResize_missing h]
    · rw [exec_bobQuery, bobQuery_missing h]
    · rw [exec_bobDelete, bobDelete_named h hn]
    · rw [exec_bobDelete, bobDelete_done h hn]
    · rw [exec_bobFlush, bobFlush_done h]
    · rintro q rfl
      refine ⟨fun hq => ?_, ?_⟩
      · rw [exec_bobResize, bobResize_range h hq]
      · rintro hpos hle t u r pend hr rfl
        rw [exec_bobResize, bobResize_tried h hpos hle hr]
        exact ⟨fun h => by rw [h]; rfl, fun h => by rw [h]; rfl⟩
    · rw [exec_bobQuery, bobQuery_done h]

end Sys2Proof.Machine
end

section
/-! PROOFS. The width of a signed integer (R76): `widthOf` is the least number of bits whose two's-complement range holds it. -/

namespace Sys2Proof.Machine

/-- A natural number has at most k bits exactly where it lies below 2ᵏ. -/
theorem bitLen_le_iff (n k : Nat) : bitLen n ≤ k ↔ n < 2 ^ k := by
  by_cases h : n = 0
  · simp [bitLen, h]
  · rw [bitLen, if_neg h, Nat.succ_le_iff, Nat.log2_lt h]

/-- A width of at most m + 1 bits is what the integers of two's-complement form of m + 1 bits have (R76). -/
theorem widthOf_le_succ_iff (v : Int) (m : Nat) : widthOf v ≤ m + 1 ↔ -(2 ^ m : Int) ≤ v ∧ v ≤ 2 ^ m - 1 := by
  have hpow : ((2 ^ m : Nat) : Int) = 2 ^ m := by simp
  by_cases hv : v < 0
  · rw [widthOf, if_pos hv, Nat.add_le_add_iff_right, bitLen_le_iff]
    omega
  · rw [widthOf, if_neg hv, Nat.add_le_add_iff_right, bitLen_le_iff]
    omega

theorem widthOf_pos (v : Int) : 1 ≤ widthOf v := by
  unfold widthOf
  split <;> exact Nat.succ_pos _

/-- Settles O58: n bits hold v exactly where the width of v is at most n, so they do for n the width and for no smaller n. -/
theorem widthIsTheShortestForm : Obligations.WidthIsTheShortestForm := by
  refine ⟨fun v => ?_, by decide⟩
  have hw : widthOf v - 1 + 1 = widthOf v := Nat.sub_add_cancel (widthOf_pos v)
  obtain ⟨hlo, hhi⟩ := (widthOf_le_succ_iff v (widthOf v - 1)).mp hw.ge
  refine ⟨widthOf_pos v, hlo, hhi, fun n hn hlo hhi => ?_⟩
  rw [← Nat.sub_add_cancel hn]
  exact (widthOf_le_succ_iff v (n - 1)).mpr ⟨hlo, hhi⟩

end Sys2Proof.Machine
end

section
/-! PROOFS. The cycle of a weave cell that takes an idle word (R53, R60, R83, R101): each part of the cycle, where nothing is
pending and no write-back runs, changes the cell alone or nothing that can be read; the cycle composes them. -/

namespace Sys2Proof.Machine

/-- The state t is s but for what cell k holds, which is x. The lists of the cells and of the harnesses may hold it in another
form; everything read from them is the same. -/
structure ChangesCell (k : Nat) (s t : State) (x : CellSt) : Prop where
  cell : getCell t k = x
  others : ∀ j, j ≠ k → getCell t j = getCell s j
  hars : ∀ d h, getHar t d h = getHar s d h
  rest : t = { s with arr.cells := t.arr.cells, arr.hars := t.arr.hars }

section
variable {k : Nat} {s t : State} {x : CellSt}

theorem changesCell_refl (k : Nat) (s : State) : ChangesCell k s s (getCell s k) := ⟨rfl, fun _ _ => rfl, fun _ _ => rfl, rfl⟩

theorem changesCell_setCell (h : ChangesCell k s t x) (y : CellSt) : ChangesCell k s (setCell t k y) y where
  cell := by rw [getCell_setCell, if_pos rfl]
  others j hj := by rw [getCell_setCell, if_neg hj, h.others j hj]
  hars := h.hars
  rest := by
    conv_lhs => rw [h.rest]
    rfl

/-- Writing back what a harness holds changes nothing that is read from it. -/
theorem getHar_setHar_own (s : State) (d e : Die) (h g : Nat) : getHar (setHar s d h (getHar s d h)) e g = getHar s e g := by
  unfold getHar setHar
  rw [sparseGet_sparseSet]
  split
  case isTrue hk => rw [hk]
  case isFalse => rfl

theorem changesCell_setHar_own (h : ChangesCell k s t x) (d : Die) (i : Nat) :
    ChangesCell k s (setHar t d i (getHar t d i)) x where
  cell := h.cell
  others := h.others
  hars e g := by rw [getHar_setHar_own, h.hars]
  rest := by
    conv_lhs => rw [h.rest]
    rfl

theorem changesCell_landAll (h : ChangesCell k s t x) (hp : x.pend = []) (d : Die) (i : Nat) :
    ChangesCell k s (landAll t d i k) x := by
  have hland : landAll t d i k = setCell t k x := by
    have hown : { x with pend := [] } = x := by rw [← hp]
    simp only [landAll, h.cell, hp, List.filter_nil, List.map_nil, List.foldl_nil, hown]
  rw [hland]
  exact changesCell_setCell h x

theorem changesCell_tickWriteBacks (h : ChangesCell k s t x) {d : Die} {i : Nat} (hw : (getHar s d i).wbs = []) :
    ChangesCell k s (tickWriteBacks t d i k) x := by
  have htick : tickWriteBacks t d i k = setHar t d i (getHar t d i) := by
    rw [← h.hars] at hw
    have hown : { getHar t d i with wbs := [] } = getHar t d i := by rw [← hw]
    simp only [tickWriteBacks, hw, List.filter_nil, List.map_nil, List.foldl_nil, hown]
  rw [htick]
  exact changesCell_setHar_own h d i

end

/-! ## The parts of a cycle -/

/-- The cell has no word on IB, no result on its way and no word on an input track. -/
structure AtRest (x : CellSt) : Prop where
  ib : x.ib = none
  pend : x.pend = []
  trackA : x.trackA = []
  trackB : x.trackB = []
  trackT : x.trackT = []
  trackU : x.trackU = []

/-- The idle word that a draft sends on for the idle word w (R58, R60). -/
def idleFor (dr : CellDraft) (w : Wire) : Wire := idleWire (bitsOf w.data.toNat 1 0) (outIdxOf dr w.idx)

/-- A cell that is no source and has no urgent word is offered the reed's word (R101, R103). -/
theorem offeredIa_reed {x : CellSt} {w : Wire} (hurg : x.urg = none) (hia : x.ia = some w) :
    offeredIa x false = (.reed, some w) := by
  simp [offeredIa, hurg, hia]

/-- An empty track gives its input nothing and stays empty. -/
theorem shiftTrackIn_empty (input : Option Wire) : shiftTrackIn [] input = ([none, none, none], input) := by
  unfold shiftTrackIn
  cases idleOrNone input <;> simp [stagesOf, idleOrNone]

/-- The cell with its input tracks empty, each of its three stages written out. -/
def clearTracks (x : CellSt) : CellSt :=
  { x with trackA := [none, none, none], trackB := [none, none, none],
           trackT := [none, none, none], trackU := [none, none, none] }

theorem shiftTracksIn_atRest {x : CellSt} (h : AtRest x) : shiftTracksIn x = clearTracks x := by
  simp only [shiftTracksIn, clearTracks, h.trackA, h.trackB, h.trackT, h.trackU, shiftTrackIn_empty]

theorem dropIdleIb_none {x : CellSt} (h : x.ib = none) : dropIdleIb x = x := by
  have hown : { x with ib := none } = x := by rw [← h]
  simp only [dropIdleIb, h, idleOrNone, if_true, hown]

/-- Without a word on IB there is nothing to report of it. -/
theorem ibCheck_none {s : State} {d : Die} {h r c : Nat} (idx : BitVec 4) (hib : (getCell s (cellKey d h r c)).ib = none) :
    ibCheck s d h r c idx = s := by
  simp [ibCheck, hib, ibNotData]

/-- Consuming an idle word under a sound draft empties where it was offered and keeps its index; an idle word of its reason
enters the pipeline (R60). -/
theorem consume_idle {s : State} {d : Die} {h r c : Nat} {src : IaFrom} {w : Wire} {dw : BitVec 192}
    (hdw : getCellDraft s (cellKey d h r c) (getHar s d h).flip w.idx.toNat = dw) (hok : cellParityOk dw = true)
    (hidle : tagIdle w.tag = true) :
    consume s d h r c src w =
      (setCell s (cellKey d h r c) { takeIa (getCell s (cellKey d h r c)) src with lastIdx := w.idx },
        idleFor (cellDraftOf dw) w, reasonClass (bitsOf w.data.toNat 1 0)) := by
  simp only [consume, hdw, hok, hidle, if_true, idleFor]

/-! ## The cycle -/

/-- What follows in a cycle once its word is consumed: the count, the pipeline, the results that land, the write-backs and the
darning tracks. -/
def endCycle (d : Die) (h r c : Nat) (frz : Bool) (y : State × Wire × CycleClass) : State :=
  let ck := cellKey d h r c
  let x := getCell y.1 ck
  let s := landAll (setCell y.1 ck
    (dropIdleIb (pushPipe { x with cnt := countCycle frz y.2.2 x.cnt, ibBad := ibNotData x.ib } y.2.1))) d h ck
  let s := tickWriteBacks s d h ck
  setCell s ck (shiftTracksIn (getCell s ck))

/-- A cell at rest at the end of its cycle: the cycle counted, and the word v in its pipeline (R53, R83). -/
def countedCell (frz : Bool) (v : Wire) (k : CycleClass) (x : CellSt) : CellSt :=
  pushPipe { x with cnt := countCycle frz k x.cnt, ibBad := false } v

section
variable {s t : State} {d : Die} {h r c : Nat} {x : CellSt} {w : Wire}

theorem changesCell_endCycle (ht : ChangesCell (cellKey d h r c) s t x) (hx : AtRest x) (hwb : (getHar s d h).wbs = [])
    (frz : Bool) (v : Wire) (k : CycleClass) :
    ChangesCell (cellKey d h r c) s (endCycle d h r c frz (t, v, k)) (clearTracks (countedCell frz v k x)) := by
  have hrest : AtRest (countedCell frz v k x) := ⟨hx.ib, hx.pend, hx.trackA, hx.trackB, hx.trackT, hx.trackU⟩
  have hcount : dropIdleIb (pushPipe { x with cnt := countCycle frz k x.cnt, ibBad := ibNotData x.ib } v) =
      countedCell frz v k x := by
    have hgood : ibNotData x.ib = false := by rw [hx.ib, ibNotData]
    rw [hgood]
    exact dropIdleIb_none hrest.ib
  have hpushed := changesCell_setCell ht (countedCell frz v k x)
  have hlanded := changesCell_landAll hpushed hrest.pend d h
  have hticked := changesCell_tickWriteBacks hlanded hwb
  unfold endCycle
  dsimp only
  rw [ht.cell, hcount, hticked.cell, shiftTracksIn_atRest hrest]
  exact changesCell_setCell hticked _

/-- A cell of columns 0 to 7 that is no source, has room on OUT and is offered a word on IA consumes it (R53, R101). -/
theorem cellCycleStep_reed (hc : c < 8) (hx : getCell s (cellKey d h r c) = x) (hout : x.out = none) (hurg : x.urg = none)
    (hia : x.ia = some w) (hsrc : inMask s .TSEQ_SRC_LO .TSEQ_SRC_HI d h (8 * r + c) = false) :
    cellCycleStep s d h r c none = endCycle d h r c (flagF s fCELL_CSEL_frz d h)
      (consume (ibCheck (setCell s (cellKey d h r c) x) d h r c w.idx) d h r c .reed w) := by
  have hcol : ¬ (c = 8 ∧ (darnedCol s d h r).isSome = true) := by omega
  simp only [cellCycleStep, logicalOf, if_pos hc, if_neg hcol, hx, hout, liveWire, Bool.false_eq_true, if_false,
    Option.isSome_some, Option.getD_some, Bool.true_and, hsrc, offeredIa_reed hurg hia, upsetFaults, endCycle]

/-- Where such a cell is at rest and the word is idle, its cycle changes the cell alone: IA is empty, the word's index is kept and an
idle word of its reason is sent on (R53, R60, R83). -/
theorem changesCell_cellCycleStep_idle (hc : c < 8) (hx : getCell s (cellKey d h r c) = x) (hrest : AtRest x)
    (hout : x.out = none) (hurg : x.urg = none) (hia : x.ia = some w) (hidle : tagIdle w.tag = true)
    (hsrc : inMask s .TSEQ_SRC_LO .TSEQ_SRC_HI d h (8 * r + c) = false) (hwb : (getHar s d h).wbs = []) {dw : BitVec 192}
    (hdw : getCellDraft s (cellKey d h r c) (getHar s d h).flip w.idx.toNat = dw) (hok : cellParityOk dw = true) :
    ChangesCell (cellKey d h r c) s (cellCycleStep s d h r c none)
      (clearTracks (countedCell (flagF s fCELL_CSEL_frz d h) (idleFor (cellDraftOf dw) w)
        (reasonClass (bitsOf w.data.toNat 1 0)) { x with ia := none, lastIdx := w.idx })) := by
  have hbegun := changesCell_setCell (changesCell_refl (cellKey d h r c) s) x
  have htaken := changesCell_setCell hbegun { x with ia := none, lastIdx := w.idx }
  have hrest' : AtRest { x with ia := none, lastIdx := w.idx } :=
    ⟨hrest.ib, hrest.pend, hrest.trackA, hrest.trackB, hrest.trackT, hrest.trackU⟩
  have hdw' : getCellDraft (setCell s (cellKey d h r c) x) (cellKey d h r c)
      (getHar (setCell s (cellKey d h r c) x) d h).flip w.idx.toNat = dw := by
    rw [getCellDraft_setCell, getHar_setCell, hdw]
  rw [cellCycleStep_reed hc hx hout hurg hia hsrc, ibCheck_none _ (by rw [hbegun.cell, hrest.ib]), consume_idle hdw' hok hidle,
    hbegun.cell]
  exact changesCell_endCycle htaken hrest' hwb _ _ _

end

/-- CELL_CYCLE of a cell that is clocked before and after its harness cycle has begun. -/
theorem exec_cellCycle_clocked {u s : State} {d : Die} {h : Harn} {r : Row} {c : Col}
    (hu : cellRuns u d h.val r.val c.val = true) (hs : s = beginCycle u d h.val (9 * r.val + c.val))
    (hrun : cellRuns s d h.val r.val c.val = true) (e : Option CellUpset) :
    exec (.cellCycle d h r c e) u = .next (cellCycleStep s d h.val r.val c.val e) := by
  have hexec : exec (.cellCycle d h r c e) u = execCellCycle d h r c e u := rfl
  rw [hexec, execCellCycle, if_pos hu, ← hs, cellGoesOn, if_pos hrun]

/-- Settles O5: the cycle of a cell at rest changes that cell alone, as `changesCell_cellCycleStep_idle` says. -/
theorem cellCycleConsumesIdleWord : Obligations.CellCycleConsumesIdleWord := by
  intro u s d h r c w x hc hu hs hx hrun hout hurg hia hib hpend htA htB htT htU hidle hsrc hwb hok
  have hrest : AtRest x := ⟨hib, hpend, htA, htB, htT, htU⟩
  obtain ⟨hcell, hothers, hhars, hsame⟩ :=
    changesCell_cellCycleStep_idle hc hx hrest hout hurg hia hidle hsrc hwb rfl hok
  exact ⟨_, exec_cellCycle_clocked hu hs hrun none, hcell, hothers, hhars, hsame⟩

end Sys2Proof.Machine
end

section
/-! PROOFS. The reads that latch or clear (R120, R196, R323, R445, R468, R474, R477): what each read leaves, and which registers a
requester then reads differently. -/

namespace Sys2Proof.Machine

/-! ## What each read answers and leaves -/

section
variable {s : State} {rq : Requester}

theorem exec_tseqStatRead (d : Die) (h : Harn) (inspect : Bool) : exec (.tseqStatRead rq d h inspect) s =
    .next (emit (if inspect then s else setF s fTSEQ_STAT_dead_cnt d h 0) (.value rq (tseqStat s d h))) := rfl

theorem exec_beatNumLoRead (d : Die) (cmt inspect : Bool) {n : BitVec 48} (hn : n = if cmt then cmtNum s d else beatNum s d) :
    exec (.beatNumLoRead rq d cmt inspect) s =
      .next (emit (if inspect then s else latch s rq (bitN cmt * 2 + d.val) (n.toNat / 2 ^ 32))
        (.value rq (BitVec.ofNat 32 n.toNat))) := by
  subst hn
  rfl

theorem exec_devBeatLoRead (inspect : Bool) : exec (.devBeatLoRead rq inspect) s =
    .next (emit (if inspect then s else latch s rq 4 ((cmtNum s 0).toNat / 2 ^ 32))
      (.value rq (BitVec.ofNat 32 (cmtNum s 0).toNat))) := rfl

/-- The three time registers latched for a requester. -/
def latchTime (s : State) (rq : Requester) : State :=
  latch (latch (latch s rq 5 s.vigil.ns) rq 6 (s.vigil.seconds.toNat % 2 ^ 32)) rq 7 (s.vigil.seconds.toNat / 2 ^ 32)

theorem exec_vglTimeFracRead (inspect : Bool) : exec (.vglTimeFracRead rq inspect) s =
    .next (emit (if inspect then s else latchTime s rq) (.value rq (BitVec.ofNat 32 (s.vigil.frac / 256)))) := rfl

/-- The latching reads of the two beat numbers, and the latch that each takes. -/
theorem exec_beatNumLoRead_latch (d : Die) : exec (.beatNumLoRead rq d false false) s =
    .next (emit (latch s rq d.val ((beatNum s d).toNat / 2 ^ 32)) (.value rq (BitVec.ofNat 32 (beatNum s d).toNat))) := by
  have hkey : bitN false * 2 + d.val = d.val := Nat.zero_add _
  rw [exec_beatNumLoRead d false false rfl, hkey]
  rfl

theorem exec_beatCmtLoRead_latch (d : Die) : exec (.beatNumLoRead rq d true false) s =
    .next (emit (latch s rq (2 + d.val) ((cmtNum s d).toNat / 2 ^ 32)) (.value rq (BitVec.ofNat 32 (cmtNum s d).toNat))) := rfl

/-- A count that is cleared reads 0, whatever is put out beside it. -/
theorem getF_emit_setF_zero (f : Fld) (d : Die) (i : Nat) (x : Output) (hlo : f.lo ≤ f.hi) (hhi : f.hi < 32) :
    getF (emit (setF s f d i 0) x) f d i = 0 :=
  (getF_setF s f d i 0 hlo hhi).trans (Nat.zero_mod _)

/-! ## The latches (R474, R477) -/

theorem requesterNo_injective : Function.Injective requesterNo := by
  intro a b h
  cases a <;> cases b <;> simp_all [requesterNo]

/-- The latches of two requesters are apart. -/
theorem latchKey_ne {o : Requester} (ho : o ≠ rq) {j k : Nat} (hj : j < 16) (hk : k < 16) : latchKey o k ≠ latchKey rq j := by
  have hno : requesterNo o ≠ requesterNo rq := requesterNo_injective.ne ho
  unfold latchKey
  omega

/-- Another requester reads no register differently after a latch. -/
theorem regWord_latch_of_ne {o : Requester} (ho : o ≠ rq) {j : Nat} (hj : j < 16) (v : Nat) (e : Die) (r : Reg) (i : Nat)
    (hr : r ≠ .BOB_POP_TAG) : regWord (latch s rq j v) o e r i = regWord s o e r i :=
  regWord_latch s o rq j v e r i (fun _ hk => latchKey_ne ho hj hk) hr

theorem regWord_emit_latch_of_ne {o : Requester} (ho : o ≠ rq) {j : Nat} (hj : j < 16) (v : Nat) (x : Output) (e : Die) (r : Reg)
    (i : Nat) (hr : r ≠ .BOB_POP_TAG) : regWord (emit (latch s rq j v) x) o e r i = regWord s o e r i := by
  rw [regWord_emit _ x o e r i hr, regWord_latch_of_ne ho hj v e r i hr]

theorem regWord_emit_latchTime_of_ne {o : Requester} (ho : o ≠ rq) (x : Output) (e : Die) (r : Reg) (i : Nat)
    (hr : r ≠ .BOB_POP_TAG) : regWord (emit (latchTime s rq) x) o e r i = regWord s o e r i := by
  rw [regWord_emit _ x o e r i hr, latchTime, regWord_latch_of_ne ho (by decide) _ e r i hr,
    regWord_latch_of_ne ho (by decide) _ e r i hr, regWord_latch_of_ne ho (by decide) _ e r i hr]

/-- A latch reads as the value latched. -/
theorem latched_latch_same (k v : Nat) : latched (latch s rq k v) rq k = BitVec.ofNat 32 v := by
  simp only [latched, latch, sparseGet_sparseSet, if_true]

theorem latched_emit (x : Output) (k : Nat) : latched (emit s x) rq k = latched s rq k := rfl

theorem latched_latchTime : latched (latchTime s rq) rq 5 = BitVec.ofNat 32 s.vigil.ns ∧
    latched (latchTime s rq) rq 6 = BitVec.ofNat 32 (s.vigil.seconds.toNat % 2 ^ 32) ∧
    latched (latchTime s rq) rq 7 = BitVec.ofNat 32 (s.vigil.seconds.toNat / 2 ^ 32) := by
  have hapart : ∀ j k, j ≠ k → latchKey rq j ≠ latchKey rq k := fun j k hjk => by unfold latchKey; omega
  unfold latchTime
  refine ⟨?_, ?_, latched_latch_same 7 _⟩
  · rw [latched_latch_other _ _ _ _ _ _ (hapart 5 7 (by decide)), latched_latch_other _ _ _ _ _ _ (hapart 5 6 (by decide)),
      latched_latch_same]
  · rw [latched_latch_other _ _ _ _ _ _ (hapart 6 7 (by decide)), latched_latch_same]

/-! ## The registers that show a latch -/

theorem regWord_BEAT_NUM_HI (d : Die) : regWord s rq d .BEAT_NUM_HI 0 = latched s rq d.val := rfl
theorem regWord_BEAT_CMT_HI (d : Die) : regWord s rq d .BEAT_CMT_HI 0 = latched s rq (2 + d.val) := rfl
theorem regWord_DEV_BEAT_HI : regWord s rq 0 .DEV_BEAT_HI 0 = latched s rq 4 := rfl
theorem regWord_VGL_TIME_NS : regWord s rq 0 .VGL_TIME_NS 0 = latched s rq 5 := rfl
theorem regWord_VGL_TIME_S_LO : regWord s rq 0 .VGL_TIME_S_LO 0 = latched s rq 6 := rfl
theorem regWord_VGL_TIME_S_HI : regWord s rq 0 .VGL_TIME_S_HI 0 = latched s rq 7 := rfl

end

/-- Settles O54: the value answered and the latch taken are those of the read, another requester's latches are at other keys, and the
high registers read what was latched. -/
theorem readsThatLatchOrClear : Obligations.ReadsThatLatchOrClear := by
  refine ⟨fun s rq d h => ⟨exec_tseqStatRead d h true, exec_tseqStatRead d h false, ?cleared⟩,
    fun s rq d cmt n hn => ⟨exec_beatNumLoRead d cmt true hn, exec_beatNumLoRead d cmt false hn⟩,
    fun s rq => ⟨exec_devBeatLoRead true, exec_devBeatLoRead false, exec_vglTimeFracRead true, exec_vglTimeFracRead false⟩,
    ?others, fun s t rq d => ⟨fun ht => ?num, fun ht => ?cmt, fun ht => ?dev, fun ht => ?time⟩⟩
  case cleared => exact getF_emit_setF_zero _ d h _ (by decide) (by decide)
  case others =>
    intro s t rq d c hc ht o e r i ho hr
    simp only [List.mem_cons, List.not_mem_nil, or_false] at hc
    rcases hc with rfl | rfl | rfl | rfl
    · cases (exec_beatNumLoRead_latch d).symm.trans ht
      exact regWord_emit_latch_of_ne ho (by omega) _ _ e r i hr
    · cases (exec_beatCmtLoRead_latch d).symm.trans ht
      exact regWord_emit_latch_of_ne ho (by omega) _ _ e r i hr
    · cases (exec_devBeatLoRead false).symm.trans ht
      exact regWord_emit_latch_of_ne ho (by decide) _ _ e r i hr
    · cases (exec_vglTimeFracRead false).symm.trans ht
      exact regWord_emit_latchTime_of_ne ho _ e r i hr
  case num =>
    cases (exec_beatNumLoRead_latch d).symm.trans ht
    rw [regWord_BEAT_NUM_HI, latched_emit, latched_latch_same]
  case cmt =>
    cases (exec_beatCmtLoRead_latch d).symm.trans ht
    rw [regWord_BEAT_CMT_HI, latched_emit, latched_latch_same]
  case dev =>
    cases (exec_devBeatLoRead false).symm.trans ht
    rw [regWord_DEV_BEAT_HI, latched_emit]
    exact latched_latch_same 4 _
  case time =>
    cases (exec_vglTimeFracRead false).symm.trans ht
    rw [regWord_VGL_TIME_NS, regWord_VGL_TIME_S_LO, regWord_VGL_TIME_S_HI, latched_emit, latched_emit, latched_emit]
    exact latched_latchTime

end Sys2Proof.Machine
end

section
/-! PROOFS. The cycle of a reed with one word, and the transfer of a gate (R89 to R96, R203, R204): neither changes a resident reed
draft, so that the parity check at the end of a reed's cycle sees the drafts of its beginning. -/

namespace Sys2Proof.Machine

/-! ## The resident reed drafts are kept -/

/-- The resident draft of a reed for an index: what a word reads there (R91, R110). -/
def reedDraftNow (s : State) (d : Die) (h i k : Nat) : BitVec 96 := getReedDraft s d h i (getHar s d h).flip k

section
variable {s t : State} {d : Die} {h i k : Nat}

/-- The resident drafts rest on the stored ones and on the flip of the harness alone. -/
theorem reedDraftNow_congr (hdraft : t.arr.reedDraft = s.arr.reedDraft) (hflip : (getHar t d h).flip = (getHar s d h).flip) :
    reedDraftNow t d h i k = reedDraftNow s d h i k := by
  unfold reedDraftNow getReedDraft
  rw [hdraft, hflip]

theorem reedDraftNow_modHar (f : HarSt → HarSt) (hf : ∀ a, (f a).flip = a.flip) :
    reedDraftNow (modHar s d h f) d h i k = reedDraftNow s d h i k :=
  reedDraftNow_congr rfl (by rw [modHar, getHar_setHar, hf])

@[simp] theorem reedDraftNow_takeInput (j code : Nat) :
    reedDraftNow (takeInput s d h j code) d h i k = reedDraftNow s d h i k := by
  unfold takeInput takeCellOut
  split
  · split <;> rfl
  · rfl

@[simp] theorem reedDraftNow_putOut (j : Nat) (w : Wire) (o : ReedOut) :
    reedDraftNow (putOut s d h j w o) d h i k = reedDraftNow s d h i k := by
  cases o
  case gw =>
    unfold putOut
    dsimp only
    split
    · rfl
    · exact reedDraftNow_modHar _ fun _ => rfl
  all_goals
    unfold putOut
    dsimp only
    repeat' split
    all_goals rfl

theorem reedDraftNow_putOuts (j : Nat) (w : Wire) (os : List ReedOut) :
    reedDraftNow (os.foldl (fun s o => putOut s d h j w o) s) d h i k = reedDraftNow s d h i k := by
  induction os generalizing s with
  | nil => rfl
  | cons o os ih => rw [List.foldl_cons, ih, reedDraftNow_putOut]

theorem reedDraftNow_raiseEvent (code : Nat) (e : Die) (src data : Word) :
    reedDraftNow (raiseEvent s code e src data) d h i k = reedDraftNow s d h i k := by
  unfold reedDraftNow getReedDraft getHar
  rw [raiseEvent_arr]

@[simp] theorem reedDraftNow_deadEnd : reedDraftNow (deadEnd s d h) d h i k = reedDraftNow s d h i k := by
  unfold deadEnd
  dsimp only
  split
  · rfl
  · rw [reedDraftNow_raiseEvent, reedDraftNow_modHar]
    · rfl
    · exact fun _ => rfl

@[simp] theorem reedDraftNow_reedWord (u : State) (j : Nat) (cs : List Claim) (c : Claim) :
    reedDraftNow (reedWord u d h j cs s c) d h i k = reedDraftNow s d h i k := by
  unfold reedWord
  repeat' split
  all_goals simp only [reedDraftNow_putOuts, reedDraftNow_deadEnd, reedDraftNow_takeInput]

end

/-! ## The cycle of a reed with one word (R93, R94, R96) -/

section
variable {s : State} {d : Die} {h : Harn} {n : Fin 64}

/-- The one word of a reed, whose draft is sound, is all that the cycle moves. -/
theorem exec_reedCycle_one {c : Claim} (hrun : harRuns s d h.val = true) (hcs : reedClaims s d h.val n.val = [c])
    (hok : reedParityOk (reedDraftNow s d h.val n.val c.w.idx.toNat) = true) :
    exec (.reedCycle d h n) s = .next (reedWord s d h.val n.val [c] s c) := by
  have hexec : exec (.reedCycle d h n) s = execReedCycle d h n s := rfl
  rw [← reedDraftNow_reedWord s n.val [c] c, reedDraftNow] at hok
  simp [hexec, execReedCycle, hrun, hcs, reedParity, hok]

theorem exec_reedCycle_none (hrun : harRuns s d h.val = true) (hcs : reedClaims s d h.val n.val = []) :
    exec (.reedCycle d h n) s = .next s := by
  have hexec : exec (.reedCycle d h n) s = execReedCycle d h n s := rfl
  simp [hexec, execReedCycle, hrun, hcs, reedParity]

end

section
variable {s : State} {d : Die} {h i : Nat} {c : Claim} (hidle : tagIdle c.w.tag = false)
include hidle

/-- A word alone wins every output it claims. -/
theorem wins_alone {o : ReedOut} (ho : o ∈ c.outs) : wins [c] c o = true := by
  simp [wins, hidle, ho]

theorem reedWord_moves (hne : c.outs ≠ []) (hready : ∀ o ∈ c.outs, outReady s d h i o = true) :
    reedWord s d h i [c] s c = c.outs.foldl (fun s o => putOut s d h i c.w o) (takeInput s d h i c.code) := by
  have hall : c.outs.all (fun o => wins [c] c o && outReady s d h i o) = true :=
    List.all_eq_true.mpr fun o ho => by rw [wins_alone hidle ho, hready o ho, Bool.true_and]
  rw [reedWord, if_neg (by simp [hidle]), if_neg hne, if_pos hall]

theorem reedWord_waits {o : ReedOut} (ho : o ∈ c.outs) (hbusy : outReady s d h i o = false) :
    reedWord s d h i [c] s c = s := by
  have hall : ¬ c.outs.all (fun o => wins [c] c o && outReady s d h i o) = true := fun hall => by
    have hgo := List.all_eq_true.mp hall o ho
    rw [hbusy, Bool.and_false] at hgo
    exact Bool.false_ne_true hgo
  rw [reedWord, if_neg (by simp [hidle]), if_neg (List.ne_nil_of_mem ho), if_neg hall]

theorem reedWord_deadEnd (hnone : c.outs = []) : reedWord s d h i [c] s c = deadEnd (takeInput s d h i c.code) d h := by
  rw [reedWord, if_neg (by simp [hidle]), if_pos hnone]

end

/-! ## The transfer of a gate (R89, R203) -/

section
variable {s : State} {d : Die} {v : Bool} {h : Harn} {k : Fin 8} {far : Nat}

theorem exec_harnessGateTransfer (both : Option (BitVec 4)) (hfar : gateFar v h.val = some far) :
    exec (.harnessGateTransfer d v h k both) s = .next (gateStep s d v h.val far k.val both) := by
  have hexec : exec (.harnessGateTransfer d v h k both) s = execHarnessGateTransfer d v h k both s := rfl
  rw [hexec, execHarnessGateTransfer, hfar]

theorem exec_harnessGateTransfer_noLine (both : Option (BitVec 4)) (hfar : gateFar v h.val = none) :
    exec (.harnessGateTransfer d v h k both) s = .next s := by
  have hexec : exec (.harnessGateTransfer d v h k both) s = execHarnessGateTransfer d v h k both s := rfl
  rw [hexec, execHarnessGateTransfer, hfar]

end

section
variable {s : State} {d : Die} {v : Bool} {h far k : Nat} {g : GateSt} {w : Wire} {ws : List Wire}
  (hg : getGate s (gateKey d v h k) = g) (hforced : g.forced = false) (hfailed : g.failed = false)
include hg

theorem carry_toFar (hw : g.fromA = w :: ws) : carry s d v h far k true =
    setReedIn (setGate s (gateKey d v h k) { g with fromA := ws, turnB := true })
      (reedKey d far (gateReed v h k) (if v then 15 else 14)) (some w) := by
  simp only [carry, hg, hw, if_true]

theorem carry_back (hw : g.fromB = w :: ws) : carry s d v h far k false =
    setReedIn (setGate s (gateKey d v h k) { g with fromB := ws, turnB := false })
      (reedKey d h (gateReed v h k) (if v then 15 else 14)) (some w) := by
  simp only [carry, hg, hw, Bool.false_eq_true, if_false]

include hforced hfailed

/-- A sound line carries the word whose turn it is among those that may go. -/
theorem gateStep_sound : gateStep s d v h far k none =
    if canCarry s d v h far k true && (!canCarry s d v h far k false || !g.turnB) then carry s d v h far k true
    else if canCarry s d v h far k false then carry s d v h far k false else s := by
  simp only [gateStep, hg, hforced, hfailed, Bool.or_false, Bool.false_eq_true, if_false]

theorem gateStep_toFar (ha : canCarry s d v h far k true = true)
    (hturn : canCarry s d v h far k false = false ∨ g.turnB = false) :
    gateStep s d v h far k none = carry s d v h far k true := by
  rw [gateStep_sound hg hforced hfailed, if_pos]
  rcases hturn with hturn | hturn <;> simp [ha, hturn]

theorem gateStep_back (hb : canCarry s d v h far k false = true)
    (hturn : canCarry s d v h far k true = false ∨ g.turnB = true) :
    gateStep s d v h far k none = carry s d v h far k false := by
  rw [gateStep_sound hg hforced hfailed, if_neg, if_pos hb]
  rcases hturn with hturn | hturn <;> simp [hb, hturn]

end

/-- Settles O6: a reed's one word moves, waits or is a dead end as its outputs say, and a gate carries the word whose turn it is. -/
theorem reedAndGateMoveWords : Obligations.ReedAndGateMoveWords := by
  refine ⟨fun s d h n c hrun hcs hok hidle => ?reed, fun s d h n hrun hcs => exec_reedCycle_none hrun hcs,
    fun s d v h k far g w ws hfar hg hforced hfailed => ?gate, fun s d v h k both hfar => exec_harnessGateTransfer_noLine both hfar⟩
  case reed =>
    rw [exec_reedCycle_one hrun hcs hok]
    refine ⟨fun hne hready => ?_, fun o ho hbusy => ?_, fun hnone => ?_⟩
    · rw [reedWord_moves hidle hne hready]
    · rw [reedWord_waits hidle ho hbusy]
    · rw [reedWord_deadEnd hidle hnone]
  case gate =>
    rw [exec_harnessGateTransfer none hfar]
    refine ⟨fun hw ha hturn => ?_, fun hw hb hturn => ?_⟩
    · rw [gateStep_toFar hg hforced hfailed ha hturn, carry_toFar hg hw]
    · rw [gateStep_back hg hforced hfailed hb hturn, carry_back hg hw]

end Sys2Proof.Machine
end

section
/-! PROOFS. The gateway lanes and the treadling table (R98 to R102, R135, R205): a cycle of a lane is the cycle of its harness's
items followed by the entry of the first buffered word, and the table steps by its entry. -/

namespace Sys2Proof.Machine

/-! ## A lane whose die has no word on its way to a later stage (R99, R135) -/

section
variable {s : State} {d : Die} {h l : Nat}

theorem pullOnward_none (p : BitVec 4 → Bool) (hnone : ∀ g, (getHar s d g).gwOut = []) : pullOnward s d h p = s :=
  List.foldl_fixed' (fun g => by rw [hnone g]; rfl) _

/-- Is a draft entry index one that a lane serves (R98)? -/
def servedBy (s : State) (d : Die) (h l k : Nat) : Bool := decide (k < 14) && decide (laneOf s d h k = l)

/-- The harness after a cycle of a lane has aged its items and the gaps of its indices (R99, R135). -/
def agedHar (s : State) (d : Die) (h l : Nat) : HarSt :=
  { getHar s d h with
    gw := (getHar s d h).gw.map (fun g => if servedBy s d h l g.idx.toNat then { g with age := g.age + 1 } else g)
    firstAge := (List.range 14).foldl (fun f k =>
      if servedBy s d h l k then sparseMod (fun _ => 0) f k (fun n => n - 1) else f) (getHar s d h).firstAge }

/-- The item that a lane serves in such a cycle (R99). -/
def servedItem (s : State) (d : Die) (h l : Nat) : Option GwItem :=
  let m := agedHar s d h l
  laneChoice (setHar s d h m) d (sparseGet (fun _ => 15) m.laneLast l)
    ((headsOf m.gw).filter (fun g => servedBy s d h l g.idx.toNat && laneReady (setHar s d h m) d h g))

/-- The harness after an item has given its next word to the buffer of a lane (R99, R135). -/
def servedHar (m : HarSt) (l : Nat) (g : GwItem) : HarSt :=
  { putGw m (nextWord g).2 with
    laneLast := sparseSet (fun _ => 15) m.laneLast l g.idx
    firstAge := if tagFirst (nextWord g).1.tag then sparseSet (fun _ => 0) m.firstAge g.idx.toNat 4 else m.firstAge
    gwIn := setLaneWords m.gwIn l (laneWords m.gwIn l ++ [(nextWord g).1]) }

/-- A cycle of a lane: no item gives a word while the buffer is full or none may go; else the one chosen does. -/
theorem laneCycle_eq (hnone : ∀ g, (getHar s d g).gwOut = []) {m : HarSt} (hm : m = agedHar s d h l) : laneCycle s d h l =
    if laneRoom ≤ (laneWords m.gwIn l).length then laneEnter (setHar s d h m) d h l
    else match servedItem s d h l with
      | none => laneEnter (setHar s d h m) d h l
      | some g => laneEnter (setHar (setHar s d h m) d h (servedHar m l g)) d h l := by
  subst hm
  unfold laneCycle
  dsimp only
  rw [pullOnward_none _ hnone]
  have haged : getHar (setHar s d h (agedHar s d h l)) d h = agedHar s d h l := getHar_setHar s d h _
  have hmod : modHar s d h (fun a =>
      { a with gw := a.gw.map (fun g => if servedBy s d h l g.idx.toNat then { g with age := g.age + 1 } else g)
               firstAge := (List.range 14).foldl (fun m k =>
                 if servedBy s d h l k then sparseMod (fun _ => 0) m k (fun n => n - 1) else m) a.firstAge }) =
      setHar s d h (agedHar s d h l) := rfl
  unfold servedBy at hmod
  rw [hmod, haged]
  rfl

theorem laneCycle_full (hnone : ∀ g, (getHar s d g).gwOut = []) {m : HarSt} (hm : m = agedHar s d h l)
    (hfull : laneRoom ≤ (laneWords m.gwIn l).length) : laneCycle s d h l = laneEnter (setHar s d h m) d h l := by
  rw [laneCycle_eq hnone hm, if_pos hfull]

theorem laneCycle_idle (hnone : ∀ g, (getHar s d g).gwOut = []) {m : HarSt} (hm : m = agedHar s d h l)
    (hroom : (laneWords m.gwIn l).length < laneRoom) (hitem : servedItem s d h l = none) :
    laneCycle s d h l = laneEnter (setHar s d h m) d h l := by
  rw [laneCycle_eq hnone hm, if_neg (by omega), hitem]

theorem laneCycle_serves (hnone : ∀ g, (getHar s d g).gwOut = []) {m : HarSt} (hm : m = agedHar s d h l)
    (hroom : (laneWords m.gwIn l).length < laneRoom) {g : GwItem} (hitem : servedItem s d h l = some g) :
    laneCycle s d h l = laneEnter (setHar (setHar s d h m) d h (servedHar m l g)) d h l := by
  rw [laneCycle_eq hnone hm, if_neg (by omega), hitem]

/-! ## The head of a lane's buffer (R205) -/

section
variable {w : Wire} {ws : List Wire} (hw : laneWords (getHar s d h).gwIn l = w :: ws)
include hw

theorem laneEnter_waits (hlive : liveWire (getReedIn s (reedKey d h (8 * l) 16)) = true) : laneEnter s d h l = s := by
  simp only [laneEnter, hw, hlive, if_true]

theorem laneEnter_enters (hfree : liveWire (getReedIn s (reedKey d h (8 * l) 16)) = false) (hlast : tagLast w.tag = false) :
    laneEnter s d h l = setReedIn (setHar s d h { getHar s d h with gwIn := setLaneWords (getHar s d h).gwIn l ws })
      (reedKey d h (8 * l) 16) (some w) := by
  simp only [laneEnter, hw, hfree, hlast, Bool.false_eq_true, if_false]
  rfl

end

/-! ## The table (R101) -/

/-- A table that runs, with its word accepted and nothing held back or passed over, is at its entry. -/
theorem treadleStep_entry {a : HarSt} (hen : flagF s fTSEQ_CTL_tbl_en d h = true) (hrun : seqRuns s d h = true)
    (ha : getHar s d h = a) (hoff : a.tOffered = false) (hdrain : a.draining = false) (hhold : a.tHold = none)
    (hdone : a.tDone = []) : treadleStep s d h = tableEntry s d h false := by
  have hgo : treadleStep s d h = runEntry s d h := by simp [treadleStep, ha, hoff, hen, hrun, hdrain, hhold]
  rw [hgo]
  simp [runEntry, ha, hdone]

theorem tableEntry_invalid {a : HarSt} (ha : getHar s d h = a)
    (hv : bitOf (getTable s d h a.flip a.tpos.toNat).toNat 31 = false) :
    tableEntry s d h false = setHar s d h (tableNext s d h a) := by
  subst ha
  exact if_pos (by rw [hv]; rfl)

/-- An entry of an index that no pinned yarn owns is offered as it stands. -/
theorem tableEntry_unowned {a : HarSt} (ha : getHar s d h = a) {e : Word} (he : getTable s d h a.flip a.tpos.toNat = e)
    (hv : bitOf e.toNat 31 = true) (hown : ownerOf s d h (tableWire e).idx = none) :
    tableEntry s d h false = offerEntry s d h false (tableWire e) := by
  subst ha he
  unfold tableEntry
  dsimp only
  rw [hv, hown]
  rfl

end

/-! ## The commands -/

theorem exec_gatewayLaneCycle {s : State} {d : Die} {h : Harn} (l : Fin 8) (hrun : harRuns s d h.val = true) :
    exec (.gatewayLaneCycle d h (some l)) s = .next (laneCycle s d h.val l.val) := by
  have hexec : exec (.gatewayLaneCycle d h (some l)) s = execGatewayLaneCycle d h (some l) s := rfl
  rw [hexec, execGatewayLaneCycle, if_pos hrun]

theorem exec_treadleStep {s : State} {d : Die} {h : Harn} (hrun : harRuns s d h.val = true) :
    exec (.treadleStep d h) s = .next (treadleStep s d h.val) := by
  have hexec : exec (.treadleStep d h) s = execTreadleStep d h s := rfl
  rw [hexec, execTreadleStep, if_pos hrun]

/-- Settles O7: a lane serves the item chosen where its buffer has room, the head of the buffer enters where the reed input is free, and
the table passes or offers its entry. -/
theorem laneAndTableOfferWords : Obligations.LaneAndTableOfferWords := by
  refine ⟨?lane, fun s d h l w ws hw => ⟨laneEnter_waits hw, laneEnter_enters hw⟩, ?table⟩
  case lane =>
    rintro s d h l mine m hrun hnone rfl hm
    rw [exec_gatewayLaneCycle l hrun]
    refine ⟨fun hfull => ?_, ?_⟩
    · rw [laneCycle_full hnone hm hfull]
    · rintro o ho hroom
      have hitem : servedItem s d h.val l.val = o := by rw [← ho, hm]; rfl
      refine ⟨fun hn => ?_, fun g hg => ?_⟩
      · rw [laneCycle_idle hnone hm hroom (hitem.trans hn)]
      · rw [laneCycle_serves hnone hm hroom (hitem.trans hg)]
        rfl
  case table =>
    rintro s d h a e hrun hen hseq ha hoff hdrain hhold hdone he
    rw [exec_treadleStep hrun, treadleStep_entry hen hseq ha hoff hdrain hhold hdone]
    refine ⟨fun hv => ?_, fun hv hown => ?_⟩
    · rw [tableEntry_invalid ha (he ▸ hv)]
    · rw [tableEntry_unowned ha he hv hown]

end Sys2Proof.Machine
end

section
/-! PROOFS. Standby swaps (R109, R111, R112, R120, R256): arming, cancelling, and how the swap of one draining harness ends. -/

namespace Sys2Proof.Machine

section
variable {s : State} {d : Die} {h : Nat}

/-! ## Arming (R111) -/

theorem armSwap_armed (ha : armed s d h = true) : armSwap s d h = (s, some 11) := if_pos ha

theorem armSwap_clash (ha : armed s d h = false) (hc : swapClash s d h = true) :
    armSwap s d h = (setF s fSWAP_CTL_last_status d h 9, some 9) := by
  rw [armSwap, if_neg (by rw [ha]; decide), if_pos hc]

/-- The state in which a swap is armed now. -/
def withArm (s : State) (d : Die) (h : Nat) : State :=
  setF (setHar s d h { getHar s d h with armTick := some s.vigil.ticks }) fSWAP_CTL_arm d h 1

theorem armSwap_arms (ha : armed s d h = false) (hc : swapClash s d h = false) : armSwap s d h = (withArm s d h, none) := by
  rw [armSwap, if_neg (by rw [ha]; decide), if_neg (by rw [hc]; decide)]
  rfl

/-! ## Cancelling (R120) -/

/-- An arm whose drain has not begun can be cancelled: the arm is cleared, and a command that waits ends (log entry 23). -/
theorem cancelSwap_cancels (ha : armed s d h = true) (hd : (getHar s d h).draining = false) : cancelSwap s d h =
    endWait (setF (setHar s d h { getHar s d h with armTick := none }) fSWAP_CTL_arm d h 0) (.swap d h) 6 0 0 := by
  have hgo : ((getHar s d h).armTick.isNone || (getHar s d h).draining) = false := by
    unfold armed at ha
    rw [hd, Bool.or_false, Option.isNone_eq_false_iff, ha]
  exact if_neg (by rw [hgo]; decide)

/-! ## The end of a swap (R112, R256) -/

/-- A swap that ends with the code of a failure: nothing is exchanged. -/
theorem endSwap_failed {code : Nat} (hcode : code ≠ 0) : endSwap s d h code =
    endWait (setF (setF (setF (setHar s d h { getHar s d h with armTick := none, draining := false }) fSWAP_CTL_arm d h 0)
      fTSEQ_STAT_swap_busy d h 0) fSWAP_CTL_last_status d h code) (.swap d h) 7 code 0 := by
  unfold endSwap
  rw [if_neg hcode]
  rfl

/-- BANK_EXCHANGE with one harness draining. -/
theorem exec_bankExchange_one (hdr : drainingHars s d = [h]) (bad : List Harn) : exec (.bankExchange d bad) s =
    .next (if drained s d h then if bad.any (fun b => b.val = h) then endSwap s d h 1 else exchange s d h else s) := by
  have hexec : exec (.bankExchange d bad) s = execBankExchange d bad s := rfl
  simp only [hexec, execBankExchange, hdr, List.all_cons, List.all_nil, Bool.and_true, List.foldl_cons, List.foldl_nil]

theorem exec_swapTimeout_one (hdr : drainingHars s d = [h]) :
    exec (.swapTimeout d) s = .next (if drained s d h then s else endSwap s d h 12) := by
  have hexec : exec (.swapTimeout d) s = execSwapTimeout d s := rfl
  simp only [hexec, execSwapTimeout, hdr, List.all_cons, List.all_nil, Bool.and_true, List.foldl_cons, List.foldl_nil]

end

theorem exec_swapArm (rq : Requester) (d : Die) (h : Harn) (s : State) :
    exec (.swapArm rq d h) s = .next (armSwap s d h.val).1 := rfl

theorem exec_swapCancel (rq : Requester) (d : Die) (h : Harn) (s : State) :
    exec (.swapCancel rq d h) s = .next (cancelSwap s d h.val) := rfl

/-- Settles O8: each command leaves what `armSwap`, `cancelSwap`, `exchange` and `endSwap` leave in its case. -/
theorem swapsArmCancelAndEnd : Obligations.SwapsArmCancelAndEnd := by
  refine ⟨fun s rq d h => ⟨fun ha => ?_, fun ha hc => ?_, fun ha hc => ?_⟩, fun s rq d h ha hd => ?_,
    fun s d h hdr => ⟨fun hgone => ?_, fun bad hgone hbad => ?_, fun bad hstay => ⟨?_, ?_⟩⟩⟩
  · rw [exec_swapArm, armSwap_armed ha]
  · rw [exec_swapArm, armSwap_clash ha hc]
  · rw [exec_swapArm, armSwap_arms ha hc]
    rfl
  · rw [exec_swapCancel, cancelSwap_cancels ha hd]
  · rw [exec_bankExchange_one hdr, if_pos hgone]
    rfl
  · rw [exec_bankExchange_one hdr, if_pos hgone, if_pos hbad]
  · rw [exec_bankExchange_one hdr, if_neg (by rw [hstay]; decide)]
  · rw [exec_swapTimeout_one hdr, if_neg (by rw [hstay]; decide), endSwap_failed (by decide)]

end Sys2Proof.Machine
end

section
/-! PROOFS. Darning (R116, R117, R354), overflow reports (R137), the admission of an item (R129, R130, R256), and beat marks (R161,
R179). -/

namespace Sys2Proof.Machine

/-! ## Darning (R116, R117) -/

theorem exec_darning (d : Die) (h : Harn) (r : Row) (c : Fin 8) (why : DarnWhy) (bad : Bool) (s : State) :
    exec (.darning d h r c why bad) s = .next (darning s d h.val r.val c.val why bad) := rfl

section
variable {s : State} {d : Die} {h r c : Nat} {why : DarnWhy} (hdue : darnDue s d h r c why = true)
  (hhalt : (getHar s d h).halted = false) (hfw : fwAt s d 2 = true)
include hdue hhalt hfw

/-- A darning that is due in a harness that is not halted is work that the firmware takes up. -/
theorem darning_goes : ¬ (!fwAt s d 2 || !darnDue s d h r c why || (getHar s d h).halted) = true := by
  rw [hfw, hdue, hhalt]
  decide

theorem darning_sound (hfree : spareUsed s d h r = false) (hgood : s.mem.spareBad.contains (harKey d h, r) = false) :
    darning s d h r c why false = endWait (darnCell s d h r c) (.darn d h) 0 0 0 := by
  unfold darning
  rw [if_neg (darning_goes hdue hhalt hfw), if_neg (by rw [hfree]; decide), if_neg (by rw [hgood]; decide)]

theorem darning_used (hused : spareUsed s d h r = true) (hwhy : why ≠ .host) (bad : Bool) :
    darning s d h r c why bad = loseHarness (darnStat s d h r c 1) d h := by
  unfold darning
  rw [if_neg (darning_goes hdue hhalt hfw), if_pos hused]
  cases why
  case host => exact absurd rfl hwhy
  all_goals rfl

theorem darning_used_host (hused : spareUsed s d h r = true) (hwhy : why = .host) (bad : Bool) :
    darning s d h r c why bad = endWait (darnStat s d h r c 3) (.darn d h) 6 3 0 := by
  unfold darning
  rw [if_neg (darning_goes hdue hhalt hfw), if_pos hused]
  subst hwhy
  rfl

end

/-! ## Overflow reports (R137) -/

/-- The oldest report of a die is counted once it has left the list. -/
theorem exec_overflowReport {s : State} {d : Die} {r : Die × Nat × Word} (hr : s.flow.reports.find? (fun r => r.1 = d) = some r) :
    exec (.overflowReport d) s = .next (countOverflow { s with flow.reports := s.flow.reports.erase r } d r.2.1 r.2.2) := by
  have hexec : exec (.overflowReport d) s = execOverflowReport d s := rfl
  rw [hexec, execOverflowReport, hr]

/-- A count of reports, which stops at all ones. -/
def countReport (v : Word) : Word := if v = 0xFFFFFFFF then v else v + 1

/-- A yarn with a report of an item counted, in it and in those of its cuts that have the item before them. -/
def withReport (y : Yarn) (seq : Word) : Yarn :=
  { y with ovfCount := countReport y.ovfCount
           cuts := y.cuts.map (fun c => if (c.itemsIn - seq).toNat < 2 ^ 31 then { c with ovf := countReport c.ovf } else c) }

/-- A report for a yarn of policy 0 is counted and asks for nothing else. -/
theorem countOverflow_quiet {s : State} {d : Die} {n : Nat} {seq : Word} {y : Yarn} (hy : getYarn s d n = y)
    (hfree : y.state ≠ .free) (hpol : y.ovfPolicy = 0) : countOverflow s d n seq = setYarn s d n (withReport y seq) := by
  have hcode : y.ovfPolicy.toNat = 0 := by rw [hpol]; rfl
  unfold countOverflow
  dsimp only
  rw [hy, if_neg hfree, hcode]
  simp only [decide_eq_true_eq]
  rfl

/-! ## The admission of an item (R129, R130, R256) -/

section
variable {s : State} {d : Die} {h : Harn} {x : Fin 16} {n : Nat} (hn : chosenYarn s d h.val x.val = some n)
include hn

theorem exec_itemAdmit_clean : exec (.itemAdmit d h x .none) s = .next { admitYarn s d n with
    flow.lastYarn := sparseSet (fun _ => 32767) (admitYarn s d n).flow.lastYarn (lastKey d h.val x.val) n } := by
  have hexec : exec (.itemAdmit d h x .none) s = execItemAdmit d h x .none s := rfl
  rw [hexec, execItemAdmit, hn]
  rfl

theorem exec_itemAdmit_yarnBad : exec (.itemAdmit d h x .yarnBad) s = .next (stopYarn s d n 0xFF) := by
  have hexec : exec (.itemAdmit d h x .yarnBad) s = execItemAdmit d h x .yarnBad s := rfl
  rw [hexec, execItemAdmit, hn]
  rfl

end

/-! ## Beat marks (R161, R179) -/

theorem exec_markTake (d : Die) (y : YarnNo) (i : Fin 4) (s : State) :
    exec (.markTake d y i) s = .next (markTake s d y.val i.val) := rfl

/-- A mark at the head of an input bobbin that delivers nothing is read and noted. -/
theorem markTake_head {s : State} {d : Die} {n i b : Nat} {y : Yarn} {k : Nat} {m : ItemRec} (hy : getYarn s d n = y)
    (hfree : y.state ≠ .free) (hon : domWorks s d 56 = true) (hrest : restoring s d n = false) (hin : y.ins.getD i none = some b)
    (hre : y.reinject.getD i [] = []) (hk : inputBob s d y b = k) (hm : headItem (getBob s k) = some m) (hkind : m.kind = 3)
    (hdel : undelivered s k = 0) :
    markTake s d n i = noteMark (takeWord s k).1 d n i (ordFrom s (markDie s (getBob s k)) d m.ord) := by
  have hgo : ¬ (y.state = .free ∨ restoring s d n = true ∨ (!domWorks s d 56) = true) := by simp [hfree, hrest, hon]
  have hmark : ¬ (m.kind ≠ 3 ∨ 0 < undelivered s k) := by simp [hkind, hdel]
  unfold markTake
  dsimp only
  rw [hy, if_neg hgo, hin]
  dsimp only
  rw [hre]
  dsimp only
  rw [hk, hm]
  exact if_neg hmark

/-- Settles O9: each command does what its own part of the model does in its case. -/
theorem darningReportsItemsAndMarks : Obligations.DarningReportsItemsAndMarks := by
  refine ⟨fun s d h r c why bad hdue hhalt hfw => ⟨fun hfree hgood => ?_, fun hused hwhy => ?_, fun hused hwhy => ?_⟩,
    fun s d r y hr hy hfree hpol => ?_, fun s d h x n hn => ⟨exec_itemAdmit_clean hn, exec_itemAdmit_yarnBad hn⟩,
    fun s d y n b m hfree hon hrest hin hre hm hkind hdel => ?_⟩
  · rw [exec_darning, darning_sound hdue hhalt hfw hfree hgood]
  · rw [exec_darning, darning_used hdue hhalt hfw hused hwhy]
  · rw [exec_darning, darning_used_host hdue hhalt hfw hused hwhy]
  · rw [exec_overflowReport hr,
      countOverflow_quiet (s := { s with flow.reports := s.flow.reports.erase r }) hy hfree hpol]
    rfl
  · rw [exec_markTake, markTake_head rfl hfree hon hrest hin hre rfl hm hkind hdel]

end Sys2Proof.Machine
end

section
/-! PROOFS. Replay and the loss of a die (R182 to R185, R192, R194, R263, R313, R348): the start of a replay that stops no yarn, what a
replay is restored from, and the cutting off and the reload of a die. -/

namespace Sys2Proof.Machine

/-! ## The start of a replay (R182, R185) -/

/-- A replay without some yarns. -/
def replayWithout (go : List Nat) (p : Replay) : Replay := { p with yarns := p.yarns.filter (fun c => !go.contains c) }

/-- The replays of a die once some yarns have left them: one that has no other yarn ends. -/
def leaveReplays (go : List Nat) (b : BeatSt) : BeatSt :=
  { b with replays := (b.replays.filter (fun p =>
      p.yarns.all (fun c => !go.contains c) || (replayWithout go p).yarns ≠ [])).map (replayWithout go) }

/-- The state in which a replay of some yarns for a fault waits to be restored. -/
def withReplay (t : State) (d : Die) (f : FaultRec) (go : List Nat) : State :=
  let v := go.foldl (fun v c => settleYarn v (codeDie c) (c / 2)) (go.foldl enterReplay (dropYarns t go))
  let u := modBeat (modBeat v 0 (leaveReplays go)) 1 (leaveReplays go)
  modBeat u d (fun b => { b with replays := b.replays ++
    [{ fault := f, yarns := go, restored := false, result := 0, silent := false }] })

theorem exec_replayStart (d : Die) (s : State) : exec (.replayStart d) s = .next (replayStart s d) := rfl

theorem replayStart_none {s : State} {d : Die} (h : (getBeat s d).faults = []) : replayStart s d = s := by
  unfold replayStart
  rw [h]

section
variable {t : State} {go : List Nat} (hclass : ∀ c ∈ go, (codeYarn t c).replay ≠ 2 ∧ (codeYarn t c).replays < 2)
include hclass

/-- No yarn of the group stops: none is of class NONE, and none replays for the third time. -/
theorem replay_stops_none : go.filter (fun c => decide ((codeYarn t c).replay = 2)) = [] :=
  List.filter_eq_nil_iff.mpr fun c hc => by simpa using (hclass c hc).1

theorem replay_third_none : go.filter (fun c => decide (2 ≤ (codeYarn t c).replays)) = [] :=
  List.filter_eq_nil_iff.mpr fun c hc => by simpa using (hclass c hc).2

theorem replay_goes_all : go.filter (fun c => decide ((codeYarn t c).replays < 2)) = go :=
  List.filter_eq_self.mpr fun c hc => by simpa using (hclass c hc).2

end

/-- The oldest fault, which names no harness, of yarns none of which stops: it leaves the list and they all enter the replay. -/
theorem replayStart_covers {s t : State} {d : Die} {f : FaultRec} {fs : List FaultRec} {go : List Nat}
    (hf : (getBeat s d).faults = f :: fs) (hhar : f.har = none) (hcls : f.cls ≠ 6)
    (ht : modBeat s d (fun b => { b with faults := fs }) = t)
    (hgo : (faultGroup t d f).filter (fun c => replayable (codeYarn t c)) = go) (hne : go ≠ [])
    (hclass : ∀ c ∈ go, (codeYarn t c).replay ≠ 2 ∧ (codeYarn t c).replays < 2) :
    replayStart s d = withReplay t d f go := by
  have hc : decide (f.cls = 6) = false := decide_eq_false hcls
  unfold replayStart
  rw [hf]
  dsimp -zeta only
  rw [hhar]
  dsimp -zeta only
  rw [if_neg (by decide), ht]
  dsimp only
  rw [if_neg hcls, hc, hgo]
  simp only [Bool.false_and, Bool.false_or, replay_stops_none hclass, List.foldl_nil, List.contains_nil, Bool.not_false,
    List.filter_true, replay_third_none hclass, replay_goes_all hclass]
  rw [if_neg fun h => hne h.1, decide_eq_false hne]
  rfl

/-! ## What a replay is restored from (R183 to R185, R263) -/

section
variable {s : State} {d : Die} {r : Replay}

theorem restoreFrom_gone {back : Nat}
    (h : ((replayVals s r back).filter (fun e => decide ((codeYarn s e.1).replay = 0))).any (entryGone s) = true) :
    restoreFrom s d r back = failReplay s d r 3 9 := if_pos h

theorem restoreFrom_kept {back : Nat}
    (h : ((replayVals s r back).filter (fun e => decide ((codeYarn s e.1).replay = 0))).any (entryGone s) = false) :
    restoreFrom s d r back = restoreAll s d r back := if_neg (by rw [h]; decide)

/-- What the restore of a replay does by what the reads find, once their errors are recorded. -/
def restoreBy (t : State) (d : Die) (r : Replay) : RestoreRead → State
  | .good | .corrected => restoreFrom t d r 0
  | .lastBad => restoreFrom t d r 1
  | .bothBad => failReplay t d r 6 r.fault.cls.toNat
  | .entryBad => failReplay t d r 3 9

/-- The oldest replay to be restored, with nothing that it waits for, is restored. -/
theorem exec_replayRestoreDone (hr : (getBeat s d).replays.find? (fun r => !r.restored) = some r) (hbusy : egressBusy s r = false)
    (hhalt : haltedHars s r = false) (rd : RestoreRead) : exec (.replayRestoreDone d rd) s =
      .next (restoreBy (restoreErrors (restoreUe s r rd) r) d r (restoreFinds s r rd)) := by
  have hexec : exec (.replayRestoreDone d rd) s = .next (restoreDone s d rd) := rfl
  have hgo : ¬ (egressBusy s r || haltedHars s r) = true := by simp [hbusy, hhalt]
  rw [hexec]
  unfold restoreDone
  rw [hr]
  dsimp only
  rw [if_neg hgo]
  cases restoreFinds s r rd <;> rfl

end

/-! ## The loss of a die (R192, R348) -/

section
variable {s : State} {d : Die}

/-- The surviving die once it knows of the loss: RPL_LAST shows it, and the yarns and bobbins of the lost die are cut off. -/
def withoutPeer (s : State) (d : Die) : State :=
  let t := setF s fBEAT_STAT_peer_lost d 0 1
  let t := rplLast t d 0 7 (((yarnsOn t (otherDie d)).head?.map (fun e => e.1)).getD 0)
  let t := (yarnsOn t (otherDie d)).foldl (fun t e => loseYarn t d e) t
  t.flow.bobs.foldl (fun t e => if e.2.die = otherDie d ∧ e.1 < 65536 ∧ e.2.state ≠ .free then
    setBob t e.1 { getBob t e.1 with prodCut := true, consCut := true } else t) t

theorem exec_dieLostDeclare (hbeat : domOn s (otherDie d) 59 = false ∨ dieHeld s (otherDie d) = true)
    (hlink : getF s fBRD_STAT_lstate d 0 = 0) (hnew : flagF s fBEAT_STAT_peer_lost d 0 = false) (hdoze : s.rst.dozing = false)
    (hpwr : getF s fVGL_PWR_state 0 0 = 0) : exec (.dieLostDeclare d) s = .next (withoutPeer s d) := by
  have hexec : exec (.dieLostDeclare d) s = .next (dieLostDeclare s d) := rfl
  have hgo : ¬ ((domOn s (otherDie d) 59 = true ∧ dieHeld s (otherDie d) = false) ∨ getF s fBRD_STAT_lstate d 0 ≠ 0 ∨
      flagF s fBEAT_STAT_peer_lost d 0 = true ∨ s.rst.dozing = true ∨ getF s fVGL_PWR_state 0 0 ≠ 0) := by
    rcases hbeat with hbeat | hbeat <;> simp [hbeat, hlink, hnew, hdoze, hpwr]
  rw [hexec]
  exact congrArg _ (if_neg hgo)

/-! ## The reload of a die (R194, R310, R313) -/

/-- The die with its array off, its Ethernet ports silent and its rings stopped. -/
def portsStopped (s : State) (d : Die) : State :=
  let t := (List.range 36).foldl (fun t h => loseOff t d h) s
  let t := (List.range 48).foldl (fun t m => if isPickline (getF t fPCFG_mode d m) then t
    else
      let v := cutFrame t (d.val * 48 + m)
      setPort v (d.val * 48 + m) { getPort v (d.val * 48 + m) with cut := true, segs := [], txq := [], frag := none }) t
  (List.range 24).foldl (fun t k => setF t fPL_CTL_run d (2 * k) 0) (stompRings t d)

/-- The die waiting for its image, with its stack in self-refresh. -/
def waitImage (s : State) (d : Die) : State :=
  let t := selfRefresh (setDieState (setF s fCFG_STAT_done d 0 0) d 3) d true
  setImg t d { getImg t d with waiting := true, update := true, retained := false }

/-- A die whose yarns have moved, with an image alone to load. -/
theorem exec_dieReload_image {u : Update} (hu : (getBeat s d).update = some u) (hfw : u.fw = false)
    (hmoved : updateMoved s d = true) : exec (.dieReload d) s =
      .next (waitImage (portsStopped (setBeat s d { getBeat s d with update := some { u with phase := .reloading } }) d) d) := by
  have hexec : exec (.dieReload d) s = .next (dieReload s d) := rfl
  rw [hexec]
  unfold dieReload
  rw [hu]
  dsimp only
  rw [if_neg (by rw [hmoved]; decide), if_neg (by rw [hfw]; decide)]
  rfl

end

/-- Settles O13: each command does what its own part of the model does in its case. -/
theorem replayAndLossRun : Obligations.ReplayAndLossRun := by
  refine ⟨?start, fun s d h => by rw [exec_replayStart, replayStart_none h], ?restore,
    fun s d r back => ⟨restoreFrom_gone, restoreFrom_kept⟩,
    fun s d hbeat hlink hnew hdoze hpwr => exec_dieLostDeclare hbeat hlink hnew hdoze hpwr,
    fun s d u hu hfw hmoved => ?reload⟩
  case start =>
    rintro s d f fs t go hf hhar hcls rfl hgo hne hclass
    rw [exec_replayStart, replayStart_covers hf hhar hcls rfl hgo.symm hne hclass]
    rfl
  case reload =>
    rw [exec_dieReload_image hu hfw hmoved, waitImage, portsStopped]
  case restore =>
    rintro s d r hr hbusy hhalt rd t rfl
    rw [exec_replayRestoreDone hr hbusy hhalt rd]
    refine ⟨fun hfinds => ?_, fun hfinds => ?_, fun hfinds => ?_, fun hfinds => ?_⟩
    · rcases hfinds with hfinds | hfinds <;> rw [hfinds, restoreBy]
    · rw [hfinds, restoreBy]
    · rw [hfinds, restoreBy]
    · rw [hfinds, restoreBy]

end Sys2Proof.Machine
end

section
/-! PROOFS. NOP, EVENT_SUB, RESET, DRAFT_LOAD and DRAFT_SWAP (R107, R109, R111, R334, R335, R419): the case lemmas of each command in
the order of its checks. -/

namespace Sys2Proof.Machine

section
variable {s : State} {c : HostCmd}

theorem exec_nop : exec (.nop c) s = .next (finish s c 0 0) := rfl

theorem exec_eventSub : exec (.eventSub c) s = .next (finish (setReg s .QP_EVT 0 c.qp.val
    (BitVec.ofNat 32 (opOf c 0 / 2 * 2))) c 0 (regRaw s .QP_EVT 0 c.qp.val).toNat) := rfl

/-! ## RESET (R335, R419) -/

/-- The level that RESET names. -/
def opLevel (c : HostCmd) : Option Level := levelOf (bitsOf (opOf c 0) 2 0)

/-- The codes above HARNESS name no level. -/
theorem levelOf_reserved {n : Nat} (h : 6 ≤ n) : levelOf n = none := by
  obtain ⟨k, rfl⟩ := Nat.exists_eq_add_of_le' h
  rfl

theorem exec_resetCmd : exec (.resetCmd c) s = .next (resetOp s c) := rfl

theorem resetOp_device (h : opLevel c = some .device) :
    resetOp s c = assertReset s 5 { level := .device, die := 0, har := 0 } := by
  unfold opLevel at h
  simp only [resetOp, h]

theorem resetOp_host (h : opLevel c = some .host) : resetOp s c = hostReset s := by
  unfold opLevel at h
  simp only [resetOp, h]

theorem resetOp_die (h : opLevel c = some .die) : resetOp s c =
    assertReset (waitFor s c (.release (opDie c 1) .die 0)) 5 { level := .die, die := opDie c 1, har := 0 } := by
  unfold opLevel at h
  simp only [resetOp, h]

theorem resetOp_control (h : opLevel c = some .control) : resetOp s c =
    assertReset (waitFor s c (.release (opDie c 1) .control 0)) 5 { level := .control, die := opDie c 1, har := 0 } := by
  unfold opLevel at h
  simp only [resetOp, h]

theorem resetOp_harness (h : opLevel c = some .harness) (hh : opHar c 1 < 36) : resetOp s c =
    assertReset (waitFor s c (.release (opDie c 1) .harness (opHar c 1))) 5
      { level := .harness, die := opDie c 1, har := opHar c 1 } := by
  unfold opLevel at h
  simp only [resetOp, h, if_neg (Nat.not_le.mpr hh)]

theorem resetOp_noHarness (h : opLevel c = some .harness) (hh : 36 ≤ opHar c 1) : resetOp s c = finish s c 4 0 := by
  unfold opLevel at h
  simp only [resetOp, h, if_pos hh]

/-- A POWER reset is no level of the command, and neither is a reserved code. -/
theorem resetOp_noLevel (h : opLevel c = some .power ∨ opLevel c = none) : resetOp s c = finish s c 2 0 := by
  unfold opLevel at h
  rcases h with h | h <;> simp only [resetOp, h]

/-! ## DRAFT_LOAD (R107) -/

theorem exec_draftLoad : exec (.draftLoad c) s = .next (draftLoad s c) := rfl

theorem draftLoad_noHarness (h : 36 ≤ opHar c 0) : draftLoad s c = finish s c 4 0 := if_pos h

/-- DRAFT_LOAD answers what the loader answers: SUCCESS, or LOAD_STATUS with its code. -/
theorem draftLoad_answer (h : opHar c 0 < 36) {t : State} {r : Nat} (hl : loadPackage s (opDie c 0) (opHar c 0) c.buf = (t, r)) :
    draftLoad s c = finish t c (if r = 0 then 0 else 7) r := by
  unfold draftLoad
  rw [if_neg (by omega), hl]

/-! ## DRAFT_SWAP (R111) -/

theorem exec_draftSwap : exec (.draftSwap c) s = .next (draftSwap s c) := rfl

theorem draftSwap_noHarness (h : 36 ≤ opHar c 0) : draftSwap s c = finish s c 4 0 := if_pos h

section
variable (hh : opHar c 0 < 36)
include hh

section
variable (harm : bitOf (opOf c 1) 0 = false) {t : State}
include harm

theorem draftSwap_rejected {code : Nat} (ha : armSwap s (opDie c 0) (opHar c 0) = (t, some code)) :
    draftSwap s c = finish t c 7 code := by
  unfold draftSwap
  dsimp only
  rw [if_neg (by omega), if_neg (by rw [harm]; decide), ha]

theorem draftSwap_waits (ha : armSwap s (opDie c 0) (opHar c 0) = (t, none)) :
    draftSwap s c = waitFor t c (.swap (opDie c 0) (opHar c 0)) := by
  unfold draftSwap
  dsimp only
  rw [if_neg (by omega), if_neg (by rw [harm]; decide), ha]

end

section
variable (hcancel : bitOf (opOf c 1) 0 = true)
include hcancel

theorem draftSwap_nothingArmed (h : (getHar s (opDie c 0) (opHar c 0)).armTick = none ∨
    (getHar s (opDie c 0) (opHar c 0)).draining = true) : draftSwap s c = finish s c 3 0 := by
  unfold draftSwap
  dsimp only
  rw [if_neg (by omega), if_pos hcancel, if_pos]
  rcases h with h | h <;> simp [h]

theorem draftSwap_cancels {k : Nat} (hk : (getHar s (opDie c 0) (opHar c 0)).armTick = some k)
    (hd : (getHar s (opDie c 0) (opHar c 0)).draining = false) :
    draftSwap s c = finish (cancelSwap s (opDie c 0) (opHar c 0)) c 0 0 := by
  unfold draftSwap
  dsimp only
  rw [if_neg (by omega), if_pos hcancel, if_neg (by simp [hk, hd])]

end
end
end

/-- Settles O28: each command answers what its checks, taken in turn, choose. -/
theorem hostCommandsNopSubscribeResetAndLoad : Obligations.HostCommandsNopSubscribeResetAndLoad := by
  refine ⟨fun s c => exec_nop, fun s c => exec_eventSub, ?reset, ?load, ?swap⟩
  case reset =>
    rintro s c d rfl
    rw [exec_resetCmd]
    refine ⟨fun h => ?_, fun h => ?_, fun h => ?_, fun h => ?_, fun h hh => ?_, fun h hh => ?_, fun h => ?_, fun h => ?_⟩
    · rw [resetOp_device (congrArg levelOf h)]
    · rw [resetOp_die (congrArg levelOf h)]
    · rw [resetOp_host (congrArg levelOf h)]
    · rw [resetOp_control (congrArg levelOf h)]
    · rw [resetOp_harness (congrArg levelOf h) hh]
    · rw [resetOp_noHarness (congrArg levelOf h) hh]
    · rw [resetOp_noLevel (.inl (congrArg levelOf h))]
    · rw [resetOp_noLevel (.inr (levelOf_reserved h))]
  case load =>
    intro s t c r
    rw [exec_draftLoad]
    refine ⟨fun h => ?_, fun h hl => ⟨fun hr => ?_, fun hr => ?_⟩⟩
    · rw [draftLoad_noHarness h]
    · rw [draftLoad_answer h hl, if_pos hr, hr]
    · rw [draftLoad_answer h hl, if_neg hr]
  case swap =>
    rintro s c d h rfl rfl
    rw [exec_draftSwap]
    refine ⟨fun hh => ?_, fun hh harm t => ⟨fun code ha => ?_, fun ha => ?_⟩,
      fun hh hcancel => ⟨fun hn => ?_, fun k hk hd => ?_⟩⟩
    · rw [draftSwap_noHarness hh]
    · rw [draftSwap_rejected hh harm ha]
    · rw [draftSwap_waits hh harm ha]
    · rw [draftSwap_nothingArmed hh hcancel hn]
    · rw [draftSwap_cancels hh hcancel hk hd]

end Sys2Proof.Machine
end

section
/-! PROOFS. DARN, HARNESS_CFG, BEAT_SET, DOMAIN_SET and MEM_TEST, and the write of the beat period (R116, R120, R157, R196, R199, R218,
R268, R335): the case lemmas of each command in the order of its checks. -/

namespace Sys2Proof.Machine

section
variable {s : State} {c : HostCmd}

/-! ## DARN (R116) -/

/-- The row that DARN names. -/
def opRow (c : HostCmd) : Nat := bitsOf (opOf c 0) 10 8
/-- The column that DARN names. -/
def opCol (c : HostCmd) : Nat := bitsOf (opOf c 0) 14 12

theorem exec_darn : exec (.darn c) s = .next (darn s c) := rfl

theorem darn_noHarness (h : 36 ≤ opHar c 0) : darn s c = failStaged s c 4 0 := if_pos h

section
variable (h : opHar c 0 < 36)
include h

theorem darn_busy (hb : flagF s fDARN_STAT_busy (opDie c 0) (opHar c 0) = true) : darn s c = failStaged s c 10 0 := by
  unfold darn
  dsimp only
  rw [if_neg (by omega), if_pos hb]

variable (hb : flagF s fDARN_STAT_busy (opDie c 0) (opHar c 0) = false)
include hb

theorem darn_used (hu : spareUsed s (opDie c 0) (opHar c 0) (opRow c) = true) :
    darn s c = failStaged (darnStat s (opDie c 0) (opHar c 0) (opRow c) (opCol c) 3) c 6 3 := by
  unfold opRow at hu
  unfold darn
  dsimp only
  rw [if_neg (by omega), if_neg (by rw [hb]; decide), if_pos hu]
  rfl

/-- The state in which a darning that DARN asks for is due. -/
def withDarn (s : State) (c : HostCmd) : State :=
  setF (setF (darnStat s (opDie c 0) (opHar c 0) (opRow c) (opCol c) 0) fDARN_STAT_busy (opDie c 0) (opHar c 0) 1)
    fTSEQ_STAT_darn_busy (opDie c 0) (opHar c 0) 1

theorem darn_starts (hu : spareUsed s (opDie c 0) (opHar c 0) (opRow c) = false) :
    darn s c = stagedOk (withDarn s c) c 0 (.darn (opDie c 0) (opHar c 0)) := by
  unfold opRow at hu
  unfold darn
  dsimp only
  rw [if_neg (by omega), if_neg (by rw [hb]; decide), if_neg (by rw [hu]; decide)]
  rfl

end

/-! ## HARNESS_CFG (R120, R199) -/

/-- The frequency that HARNESS_CFG asks for; 0 asks for none. -/
def opFreq (c : HostCmd) : Nat := bitsOf (opOf c 8) 6 0

/-- The registers of the sequencer that HARNESS_CFG writes. -/
def sequencerSet (s : State) (c : HostCmd) : State :=
  let d := opDie c 0
  let h := opHar c 0
  let w (i : Nat) : Word := BitVec.ofNat 32 (opOf c i)
  let t := regWrite (regWrite (regWrite s .TSEQ_CTL d h (w 1)) .TSEQ_SRC_LO d h (w 2)) .TSEQ_SRC_HI d h (w 3)
  regWrite (regWrite (regWrite (regWrite t .TSEQ_URG_LO d h (w 4)) .TSEQ_URG_HI d h (w 5)) .TSEQ_LANE_LO d h (w 6)) .TSEQ_LANE_HI
    d h (w 7)

/-- A harness with a frequency asked for (R199). -/
def askFreq (s : State) (d : Die) (h f : Nat) : State :=
  let v := setFreq s d h f
  { v with cap.asked := sparseSet (fun _ => 0) v.cap.asked (harKey d h) f }

theorem exec_harnessCfg : exec (.harnessCfg c) s = .next (harnessCfg s c) := rfl

theorem harnessCfg_noHarness (h : 36 ≤ opHar c 0) : harnessCfg s c = failStaged s c 4 0 := if_pos h

theorem harnessCfg_done (h : opHar c 0 < 36) : harnessCfg s c =
    stagedOk (if opFreq c = 0 then sequencerSet s c else askFreq (sequencerSet s c) (opDie c 0) (opHar c 0) (opFreq c)) c 0 .none :=
  if_neg (by omega)

theorem harnessCfg_noFreq (h : opHar c 0 < 36) (hf : opFreq c = 0) :
    harnessCfg s c = stagedOk (sequencerSet s c) c 0 .none := by
  rw [harnessCfg_done h, if_pos hf]

theorem harnessCfg_freq (h : opHar c 0 < 36) (hf : opFreq c ≠ 0) :
    harnessCfg s c = stagedOk (askFreq (sequencerSet s c) (opDie c 0) (opHar c 0) (opFreq c)) c 0 .none := by
  rw [harnessCfg_done h, if_neg hf]

/-! ## The beat period (R157, R196) -/

theorem exec_beatSet : exec (.beatSet c) s =
    .next (stagedOk (regWrite s .BEAT_CTL 0 0 (BitVec.ofNat 32 (bitsOf (opOf c 0) 16 0))) c 0 .none) := rfl

theorem exec_beatPeriodWrite_die1 (s : State) (rq : Requester) (v : Word) : exec (.beatPeriodWrite rq 1 v) s = .next s := rfl

/-! ## DOMAIN_SET (R218) -/

/-- The domain that DOMAIN_SET names. -/
def opDomain (c : HostCmd) : Nat := bitsOf (opOf c 0) 6 0
/-- The target that it names. -/
def opTarget (c : HostCmd) : Option DState := targetOf (bitsOf (opOf c 0) 9 8)

theorem exec_domainSet : exec (.domainSet c) s = .next (domainSet s c) := rfl

theorem domainSet_noDomain (h : domExists (opDie c 0) (opDomain c) = false) : domainSet s c = failStaged s c 4 0 := by
  unfold opDomain at h
  unfold domainSet
  dsimp only
  rw [if_pos (by rw [h]; rfl)]

section
variable (hex : domExists (opDie c 0) (opDomain c) = true) (hne : opDomain c ≠ 63) {g : DState} (hg : opTarget c = some g)
include hex hne hg

/-- DOMAIN_SET of a domain that exists and is not Vigil's, check by check. -/
theorem domainSet_eq : domainSet s c =
    if !domSupports (opDomain c) g then failStaged s c 2 0
    else if !domWritable (opDie c 0) (opDomain c) || !targetAllowed s (opDie c 0) (opDomain c) g ||
        (decide (opDomain c < 36) && (getHar s (opDie c 0) (opDomain c)).halted) then failStaged s c 6 0
    else
      let t := setF s fDOM_CTL_woa (opDie c 0) (opDomain c) (bitsOf (opOf c 0) 12 12)
      let m := getDom t (opDie c 0) (opDomain c)
      if m.state = g ∧ m.step = .none ∧ !m.waiting then stagedOk (setTarget t (opDie c 0) (opDomain c) g) c 0 .none
      else setTarget (stagedOk t c 0 (.domain (opDie c 0) (opDomain c))) (opDie c 0) (opDomain c) g := by
  unfold opDomain at hex hne
  unfold opTarget at hg
  unfold domainSet
  dsimp only
  rw [if_neg (by rw [hex]; decide), if_neg hne, hg]
  rfl

theorem domainSet_unsupported (hs : domSupports (opDomain c) g = false) : domainSet s c = failStaged s c 2 0 := by
  rw [domainSet_eq hex hne hg, if_pos (by rw [hs]; rfl)]

variable (hs : domSupports (opDomain c) g = true)
include hs

theorem domainSet_refused (h : targetAllowed s (opDie c 0) (opDomain c) g = false ∨
    (opDomain c < 36 ∧ (getHar s (opDie c 0) (opDomain c)).halted = true)) : domainSet s c = failStaged s c 6 0 := by
  rw [domainSet_eq hex hne hg, if_neg (by rw [hs]; decide), if_pos]
  rcases h with h | ⟨hlt, hhalt⟩
  · simp [h]
  · simp [hlt, hhalt]

/-- A target that is allowed and not yet reached is set, and the command waits for it. -/
theorem domainSet_moves (hw : domWritable (opDie c 0) (opDomain c) = true)
    (ha : targetAllowed s (opDie c 0) (opDomain c) g = true)
    (hh : 36 ≤ opDomain c ∨ (getHar s (opDie c 0) (opDomain c)).halted = false) {t : State}
    (ht : t = setF s fDOM_CTL_woa (opDie c 0) (opDomain c) (bitsOf (opOf c 0) 12 12))
    (hm : (getDom t (opDie c 0) (opDomain c)).state ≠ g) : domainSet s c =
    setTarget (stagedOk t c 0 (.domain (opDie c 0) (opDomain c))) (opDie c 0) (opDomain c) g := by
  have hgo : (!domWritable (opDie c 0) (opDomain c) || !targetAllowed s (opDie c 0) (opDomain c) g ||
      (decide (opDomain c < 36) && (getHar s (opDie c 0) (opDomain c)).halted)) = false := by
    rcases hh with hh | hh
    · simp [hw, ha, Nat.not_lt.mpr hh]
    · simp [hw, ha, hh]
  subst ht
  rw [domainSet_eq hex hne hg, if_neg (by rw [hs]; decide), if_neg (by rw [hgo]; decide)]
  exact if_neg fun h => hm h.1

end

/-! ## MEM_TEST (R268) -/

theorem exec_memTest : exec (.memTest c) s = .next (memTest s c) := rfl

theorem memTest_busy (h : flagF s fMT_STAT_busy (opDie c 0) 0 = true) : memTest s c = finish s c 10 0 := if_pos h

section
variable (hb : flagF s fMT_STAT_busy (opDie c 0) 0 = false)
include hb

theorem memTest_badField (h : bitsOf (opOf c 0) 12 11 = 3 ∨ bitsOf (opOf c 0) 10 7 = 0) : memTest s c = finish s c 2 0 := by
  unfold memTest
  dsimp only
  rw [if_neg (by rw [hb]; decide), if_pos h]

/-- The pass that MEM_TEST starts: the harnesses selected, and the pass begun. -/
def withPass (s : State) (c : HostCmd) : State :=
  mtStart (regWrite (regWrite s .MT_HSEL_LO (opDie c 0) 0 (BitVec.ofNat 32 (opOf c 1))) .MT_HSEL_HI (opDie c 0) 0
    (BitVec.ofNat 32 (opOf c 2))) (opDie c 0) (BitVec.ofNat 32 (2 ^ 31 + bitsOf (opOf c 0) 13 0))

theorem memTest_tried (halg : bitsOf (opOf c 0) 12 11 ≠ 3) (hbg : bitsOf (opOf c 0) 10 7 ≠ 0) : memTest s c =
    if flagF (withPass s c) fMT_STAT_busy (opDie c 0) 0 then waitFor (withPass s c) c (.march (opDie c 0))
    else finish (withPass s c) c 6 (regRaw (withPass s c) .MT_STAT (opDie c 0) 0).toNat := by
  unfold memTest
  dsimp only
  rw [if_neg (by rw [hb]; decide), if_neg (by simp [halg, hbg])]
  rfl

end
end

/-- Settles O29: each command answers what its checks, taken in turn, choose. -/
theorem hostCommandsOfHarnessesBeatsAndDomains : Obligations.HostCommandsOfHarnessesBeatsAndDomains := by
  refine ⟨?darn, ?cfg, fun s c => exec_beatSet,
    fun s rq v => ⟨exec_beatPeriodWrite_die0 s rq v, exec_beatPeriodWrite_die1 s rq v⟩, ?domain, ?memTest⟩
  case darn =>
    rintro s c d h r k rfl rfl rfl rfl
    rw [exec_darn, exec_harnessCfg]
    refine ⟨fun h => ⟨?_, ?_⟩, fun h hb => ?_, fun h hb hu => ?_, fun h hb hu => ?_⟩
    · rw [darn_noHarness h]
    · rw [harnessCfg_noHarness h]
    · rw [darn_busy h hb]
    · rw [darn_used h hb hu]
      rfl
    · rw [darn_starts h hb hu]
      rfl
  case cfg =>
    rintro s t u c d h f w rfl rfl hh rfl rfl rfl rfl
    rw [exec_harnessCfg]
    refine ⟨fun hf => ?_, ?_⟩
    · rw [harnessCfg_noFreq hh hf, sequencerSet]
    · rintro hf v rfl
      rw [harnessCfg_freq hh hf, sequencerSet]
      rfl
  case domain =>
    rintro s c d i rfl rfl hne
    rw [exec_domainSet]
    refine ⟨fun hex => ?_, fun hex g hg => ⟨fun hs => ?_, fun hs => ⟨fun h => ?_, fun hw ha hh t ht hm => ?_⟩⟩⟩
    · rw [domainSet_noDomain hex]
    · rw [domainSet_unsupported hex hne hg hs]
    · rw [domainSet_refused hex hne hg hs h]
    · rw [domainSet_moves hex hne hg hs hw ha hh ht hm]
      rfl
  case memTest =>
    intro s c
    rw [exec_memTest]
    refine ⟨fun h => ?_, fun hb => ⟨fun h => ?_, ?_⟩⟩
    · rw [memTest_busy h]
    · rw [memTest_badField hb h]
    · rintro halg hbg t rfl
      refine ⟨fun h => ?_, fun h => ?_⟩
      · rw [memTest_tried hb halg hbg, withPass, if_pos h]
      · rw [memTest_tried hb halg hbg, withPass, if_neg (by rw [h]; decide)]

end Sys2Proof.Machine
end

section
/-! PROOFS. The journal ring of a die as writes of JRN_BASE and JRN_SIZE set it (R152, R153, R166, R261): each write is one of a few
outcomes, chosen by what the ring holds, by a shrink that waits, and by which granules of the stack are free. -/

namespace Sys2Proof.Machine

section
variable {s : State} {d : Die} {v : Word}

/-! ## JRN_BASE (R166, R261) -/

/-- The base that a write of JRN_BASE asks for, in granules. -/
def askedRingBase (v : Word) : Nat := bitsOf v.toNat 22 0
/-- The size that a write of JRN_SIZE asks for, in granules. -/
def askedRingSize (v : Word) : Nat := bitsOf v.toNat 19 0
/-- The base of the ring of a die, in granules. -/
def ringBase (s : State) (d : Die) : Nat := getF s fJRN_BASE_granules d 0
/-- The size of the ring of a die, in granules. -/
def ringSize (s : State) (d : Die) : Nat := getF s fJRN_SIZE_granules d 0
/-- The state in which JRN_STAT shows that a write of the ring's place was refused. -/
def ringRefused (s : State) (d : Die) : State := setF s fJRN_STAT_rsz_refused d 0 1

theorem jrnBaseWrite_refused (h : 0 < (getBeat s d).jlen ∨ ringMayLie s d (askedRingBase v) (ringSize s d) = false) :
    jrnBaseWrite s d v = ringRefused s d := by
  refine if_pos ?_
  rcases h with h | h
  · rw [decide_eq_true h, Bool.true_or]
  · unfold askedRingBase ringSize at h
    rw [h, Bool.not_false, Bool.or_true]

theorem jrnBaseWrite_moves (h0 : (getBeat s d).jlen = 0) (h : ringMayLie s d (askedRingBase v) (ringSize s d) = true) :
    jrnBaseWrite s d v = freshRing s d (askedRingBase v) (ringSize s d) := by
  refine if_neg ?_
  unfold askedRingBase ringSize at h
  rw [h, h0]
  decide

/-! ## JRN_SIZE of an empty ring (R166, R261) -/

theorem jrnSizeWrite_fresh (h0 : (getBeat s d).jlen = 0) (h : ringMayLie s d (ringBase s d) (askedRingSize v) = true) :
    jrnSizeWrite s d v = freshRing s d (ringBase s d) (askedRingSize v) :=
  (if_pos h0).trans (if_pos h)

theorem jrnSizeWrite_noRoom (h0 : (getBeat s d).jlen = 0) (h : ringMayLie s d (ringBase s d) (askedRingSize v) = false) :
    jrnSizeWrite s d v = ringRefused s d :=
  (if_pos h0).trans (if_neg (by unfold ringBase askedRingSize at h; rw [h]; decide))

/-! ## JRN_SIZE of a ring that holds entries (R152, R153, R166) -/

section
variable (hheld : 0 < (getBeat s d).jlen)
include hheld

theorem jrnSizeWrite_shrinkWaits (h : (getBeat s d).jshrink ≠ none) : jrnSizeWrite s d v = ringRefused s d :=
  (if_neg hheld.ne').trans (if_pos (Option.isSome_iff_ne_none.mpr h))

/-- A ring to grow: the granules that follow it become free for its writer after the wrap that it has made (R152). -/
def ringGrown (s : State) (d : Die) (q : Nat) : State :=
  modBeat (trimAlloc (setF s fJRN_SIZE_granules d 0 q) d .journal q) d
    (fun b => { b with jgrown := if ringWrapped (jrnRing s d) then (getBeat s d).jgrown + 64 * (q - ringSize s d)
                                 else (getBeat s d).jgrown })

/-- A write of JRN_SIZE of a ring that holds entries and has no shrink waiting, check by check. -/
theorem jrnSizeWrite_asks (hidle : (getBeat s d).jshrink = none) : jrnSizeWrite s d v =
    if askedRingSize v = ringSize s d then s
    else if ringSize s d < askedRingSize v then
      if allocFree s d (ringBase s d + ringSize s d) (askedRingSize v - ringSize s d) &&
          decide (ringBase s d + askedRingSize v ≤ allocLimit) then ringGrown s d (askedRingSize v)
      else ringRefused s d
    else if askedRingSize v * 64 < (getBeat s d).jlen then ringRefused s d
    else modBeat s d (fun b => { b with jshrink := some (askedRingSize v) }) :=
  (if_neg hheld.ne').trans (if_neg (by rw [hidle]; decide))

variable (hidle : (getBeat s d).jshrink = none)
include hidle

theorem jrnSizeWrite_same (h : askedRingSize v = ringSize s d) : jrnSizeWrite s d v = s := by
  rw [jrnSizeWrite_asks hheld hidle, if_pos h]

theorem jrnSizeWrite_cannotGrow (hgt : ringSize s d < askedRingSize v)
    (h : allocFree s d (ringBase s d + ringSize s d) (askedRingSize v - ringSize s d) = false ∨
      allocLimit < ringBase s d + askedRingSize v) : jrnSizeWrite s d v = ringRefused s d := by
  rw [jrnSizeWrite_asks hheld hidle, if_neg hgt.ne', if_pos hgt, if_neg]
  rw [Bool.and_eq_true, decide_eq_true_eq]
  rintro ⟨hfree, hle⟩
  rcases h with h | h
  · rw [h] at hfree
    contradiction
  · omega

theorem jrnSizeWrite_grows (hgt : ringSize s d < askedRingSize v)
    (hfree : allocFree s d (ringBase s d + ringSize s d) (askedRingSize v - ringSize s d) = true)
    (hle : ringBase s d + askedRingSize v ≤ allocLimit) : jrnSizeWrite s d v = ringGrown s d (askedRingSize v) := by
  rw [jrnSizeWrite_asks hheld hidle, if_neg hgt.ne', if_pos hgt, if_pos (by rw [hfree, decide_eq_true hle]; rfl)]

theorem jrnSizeWrite_holdsMore (hlt : askedRingSize v < ringSize s d) (h : askedRingSize v * 64 < (getBeat s d).jlen) :
    jrnSizeWrite s d v = ringRefused s d := by
  rw [jrnSizeWrite_asks hheld hidle, if_neg hlt.ne, if_neg hlt.not_gt, if_pos h]

theorem jrnSizeWrite_shrinks (hlt : askedRingSize v < ringSize s d) (h : (getBeat s d).jlen ≤ askedRingSize v * 64) :
    jrnSizeWrite s d v = modBeat s d (fun b => { b with jshrink := some (askedRingSize v) }) := by
  rw [jrnSizeWrite_asks hheld hidle, if_neg hlt.ne, if_neg hlt.not_gt, if_neg h.not_gt]

end

/-! ## What JRN_BASE and JRN_SIZE show of a fresh ring (R166) -/

theorem getF_freshRing_size (base size : Nat) : getF (freshRing s d base size) fJRN_SIZE_granules d 0 = size % 2 ^ 20 :=
  getF_setF (setF s fJRN_BASE_granules d 0 base) fJRN_SIZE_granules d 0 size (by decide) (by decide)

theorem getF_freshRing_base (base size : Nat) : getF (freshRing s d base size) fJRN_BASE_granules d 0 = base % 2 ^ 23 :=
  calc getF (freshRing s d base size) fJRN_BASE_granules d 0
      = getF (setF (setF s fJRN_BASE_granules d 0 base) fJRN_SIZE_granules d 0 size) fJRN_BASE_granules d 0 := rfl
    _ = getF (setF s fJRN_BASE_granules d 0 base) fJRN_BASE_granules d 0 :=
        getF_setF_apart _ _ _ d d 0 0 size (by decide) (by decide) (by decide)
    _ = base % 2 ^ 23 := getF_setF s fJRN_BASE_granules d 0 base (by decide) (by decide)

end

/-! ## The commands -/

theorem exec_jrnBaseWrite (rq : Requester) (d : Die) (v : Word) (s : State) :
    exec (.jrnBaseWrite rq d v) s = .next (jrnBaseWrite s d v) := rfl

theorem exec_jrnSizeWrite (rq : Requester) (d : Die) (v : Word) (s : State) :
    exec (.jrnSizeWrite rq d v) s = .next (jrnSizeWrite s d v) := rfl

/-- Settles O56: each write does what its checks, taken in turn, choose, and a fresh ring shows the base and size it was given. -/
theorem journalRingIsSetAndResized : Obligations.JournalRingIsSetAndResized := by
  refine ⟨?empty, ?held, fun s d base size => ⟨getF_freshRing_size base size, getF_freshRing_base base size⟩⟩
  case empty =>
    intro s rq d v
    rw [exec_jrnBaseWrite, exec_jrnSizeWrite]
    refine ⟨fun h => congrArg _ (jrnBaseWrite_refused (.inl h)), ?_⟩
    rintro h0 b q rfl rfl
    refine ⟨fun h => ?_, fun h => ?_, fun h => ?_, fun h => ?_⟩
    · exact congrArg _ (jrnBaseWrite_moves h0 h)
    · exact congrArg _ (jrnBaseWrite_refused (.inr h))
    · exact congrArg _ (jrnSizeWrite_fresh h0 h)
    · exact congrArg _ (jrnSizeWrite_noRoom h0 h)
  case held =>
    rintro s rq d v q cur base hheld rfl rfl rfl
    rw [exec_jrnSizeWrite]
    refine ⟨fun h => ?_, fun hidle => ⟨fun h => ?_, fun hgt h => ?_, fun hgt hfree hle => ?_, fun hlt h => ?_, fun hlt h => ?_⟩⟩
    · exact congrArg _ (jrnSizeWrite_shrinkWaits hheld h)
    · exact congrArg _ (jrnSizeWrite_same hheld hidle h)
    · exact congrArg _ (jrnSizeWrite_cannotGrow hheld hidle hgt h)
    · exact congrArg _ (jrnSizeWrite_grows hheld hidle hgt hfree hle)
    · exact congrArg _ (jrnSizeWrite_holdsMore hheld hidle hlt h)
    · exact congrArg _ (jrnSizeWrite_shrinks hheld hidle hlt h)

end Sys2Proof.Machine
end

section
/-! PROOFS. The bobbin engine's steps and the selected bobbin (R123, R139 to R155, R255, R256, R336): what the checks at a use of a
bobbin find comes first, then each step of the engine, then what the host does with items and with the bobbin it has selected. -/

namespace Sys2Proof.Machine

/-! ## The checks at a use of a bobbin (R149, R255, R256) -/

section
variable {s : State} {n : Nat}

/-- Copies of the pointers that agree let the use go on (R149). -/
theorem pointerCheck_agree {x : Bob} (hx : getBob s n = x) (hwp : x.wp = x.wp2) (hrp : x.rp = x.rp2) :
    pointerCheck s n 0 = (setBob s n x, true) := by
  have hflip : x.wp2 ^^^ 0 = x.wp2 := BitVec.xor_zero
  unfold pointerCheck
  rw [hx]
  dsimp only
  rw [hflip]
  exact if_neg (by simp [hwp, hrp])

theorem bobCheck_none : (bobCheck s n .none).1 = s := by
  unfold bobCheck
  split <;> rfl

section
variable (h : (getBob s n).state = .active)
include h

theorem bobCheck_corrected : (bobCheck s n .corrected).1 = countF s fMEM_ECC_ce (getBob s n).die 0 := by
  unfold bobCheck
  rw [if_neg (not_not_intro h)]

theorem bobCheck_bad : (bobCheck s n .bad).1 = bobFault (countF s fMEM_ECC_ue_nsto (getBob s n).die 0) n 0 false := by
  unfold bobCheck
  rw [if_neg (not_not_intro h)]

theorem bobCheck_entryBad : (bobCheck s n .entryBad).1 = bobFault s n 0 true := by
  unfold bobCheck
  rw [if_neg (not_not_intro h)]

end

/-- A step at one copy of a bobbin, after the pointer check and while its bobbin engine works (R149, R212). -/
def atCopy (f : State → Nat → State) (s : State) (n : Nat) (flip : Word) : State :=
  if (getBob s n).state = .active ∧ domWorks s (getBob s n).die 56 = true then
    if (pointerCheck s n flip).2 then f (pointerCheck s n flip).1 n else (pointerCheck s n flip).1
  else s

theorem eachCopy_eq (flip : Word) (f : State → Nat → State) :
    eachCopy s n flip f = atCopy f (atCopy f s n flip) (n + 65536) 0 := rfl

theorem atCopy_inactive {f : State → Nat → State} {flip : Word} (h : (getBob s n).state ≠ .active) : atCopy f s n flip = s :=
  if_neg (fun hc => h hc.1)

section
variable {x : Bob} {f : State → Nat → State} (hx : getBob s n = x) (hact : x.state = .active) (hwp : x.wp = x.wp2)
  (hrp : x.rp = x.rp2) (hon : domWorks s x.die 56 = true)
include hx hact hwp hrp hon

theorem atCopy_agree : atCopy f s n 0 = f (setBob s n x) n := by
  unfold atCopy
  rw [hx, if_pos ⟨hact, hon⟩, pointerCheck_agree hx hwp hrp, if_pos rfl]

/-- A step at a bobbin whose copy on the other die is then not active is the step at the bobbin alone (R191). -/
theorem eachCopy_alone (halone : (getBob (f (setBob s n x) n) (n + 65536)).state ≠ .active) :
    eachCopy s n 0 f = f (setBob s n x) n := by
  rw [eachCopy_eq, atCopy_agree hx hact hwp hrp hon, atCopy_inactive halone]

end
end

/-! ## BOBBIN_WORD_WRITE and EGRESS_STALL_TIMEOUT (R123, R145) -/

theorem exec_bobbinWordWrite_entry {s : State} {b : BobNo} (w : TWord) (flip : Word) (hstate : (getBob s b.val).state ≠ .free)
    (hprod : (getBob s b.val).prod ≠ .yarn) (hon : domWorks s (getBob s b.val).die 56 = true) :
    exec (.bobbinWordWrite b (.entry w) flip) s =
      .next (dropStalled (writeWord (pointerCheck s b.val flip).1 b.val w true) b.val) := by
  refine congrArg _ (if_neg ?_)
  rw [hon]
  simp [hstate, hprod]

theorem exec_egressStallTimeout_shut {s : State} {b : BobNo} (hstall : (getBob s b.val).stall ≠ 0)
    (hact : (getBob s b.val).state = .active) (hshut : egressShut s b.val = true) :
    exec (.egressStallTimeout b) s = .next (dropStalled (setBob s b.val { getBob s b.val with stalled := true }) b.val) := by
  refine congrArg _ (if_pos ?_)
  rw [decide_eq_true hstall, decide_eq_true hact, hshut]
  rfl

/-! ## BOBBIN_SPILL (R139, R140) -/

theorem getBob_writeHbm (s : State) (d : Die) (off : Nat) (bs : List Byte) (k : Nat) :
    getBob (writeHbm s d off bs) k = getBob s k := by
  have h : (writeHbm s d off bs).flow = s.flow := by
    unfold writeHbm clearPoison
    dsimp only
    split <;> rfl
  unfold getBob
  rw [h]

/-- The spill of a bobbin that may spill. -/
def spillIfMay (s : State) (n : Nat) : State := if maySpill (getBob s n) then spillBlock s n else s

theorem exec_bobbinSpill (b : BobNo) (flip : Word) (u : BobUpset) (s : State) :
    exec (.bobbinSpill b flip u) s = .next (eachCopy (bobCheck s b.val u).1 b.val flip spillIfMay) := rfl

/-- A block has left the tail for the ring's writer (R139, R140). -/
def spilledBob (x : Bob) : Bob :=
  bobWithRing { x with tail := x.tail.drop 8, wseq := x.wseq + 1, spoolPos := x.spoolPos ++ (x.tail.take 8).map (fun w => w.pos) }
    (ringPush (bobRing x))

/-- The state in which the first eight words of the tail of a bobbin are a block of its spool. -/
def spilled (s : State) (n : Nat) (x : Bob) : State :=
  setBob (writeHbm s x.die (spoolAddr x x.wpos) (spoolBlock ((x.tail.take 8).map (fun w => w.w)) x.wseq.toNat (n % 65536))) n
    (spilledBob x)

section
variable {s : State} {n : Nat} {x : Bob} (hx : getBob s n = x)
include hx

theorem spillIfMay_spills (hmay : maySpill x = true) (hroom : ringFull (bobRing x) = false) (hlen : 8 ≤ x.tail.length) :
    spillIfMay s n = spilled s n x := by
  subst hx
  refine (if_pos hmay).trans (if_neg ?_)
  rw [hroom]
  rintro (h | h)
  · omega
  · contradiction

theorem spillIfMay_stays (hmay : maySpill x = false) : spillIfMay s n = s := by
  subst hx
  exact if_neg (by rw [hmay]; decide)

end

theorem getBob_spilled_other {s : State} {n k : Nat} (x : Bob) (h : k ≠ n) : getBob (spilled s n x) k = getBob s k := by
  rw [spilled, getBob_setBob, if_neg h, getBob_writeHbm]

/-! ## BOBBIN_REFILL and BOBBIN_WORD_READ (R139, R143 to R145) -/

theorem exec_bobbinRefill (b : BobNo) (flip : Word) (out : ReadOutcome) (s : State) :
    exec (.bobbinRefill b flip out) s =
      .next (eachCopy s b.val flip (fun s n => refillBlock s n (if n < 65536 then out else .clean))) := rfl

/-- A bobbin's consumer reads it: a yarn at each copy, another consumer at the bobbin itself. -/
def readByConsumer (s : State) (n : Nat) (flip : Word) : State :=
  if (getBob s n).state = .active ∧ (getBob s n).cons = .yarn then eachCopy s n flip yarnRead
  else readOut (pointerCheck s n flip).1 n

theorem exec_bobbinWordRead (b : BobNo) (flip : Word) (u : BobUpset) (s : State) :
    exec (.bobbinWordRead b flip u) s = .next (readByConsumer (bobCheck s b.val u).1 b.val flip) := rfl

/-- Settles O11: each step is what its checks at the bobbin let it be, and a check that finds something is the step after it. -/
theorem bobbinWordsMove : Obligations.BobbinWordsMove := by
  refine ⟨fun s b w flip hstate hprod hon => exec_bobbinWordWrite_entry w flip hstate hprod hon, ?agree, ?found,
    fun s b hstall hact hshut => exec_egressStallTimeout_shut hstall hact hshut⟩
  case agree =>
    intro s b x hx hact hwp hrp hon
    have hne : b.val + 65536 ≠ b.val := by omega
    have hself : getBob (setBob s b.val x) b.val = x := by rw [getBob_setBob, if_pos rfl]
    have hother : getBob (setBob s b.val x) (b.val + 65536) = getBob s (b.val + 65536) := by rw [getBob_setBob, if_neg hne]
    have alone (f : State → Nat → State) := eachCopy_alone (f := f) hx hact hwp hrp hon
    rw [exec_bobbinSpill, exec_bobbinWordRead, bobCheck_none]
    refine ⟨fun htwin hmay hroom hlen => ?_, fun htwin hmay => ?_, ?_, ?_, fun hcons => ?_⟩
    · have hf := spillIfMay_spills hself hmay hroom hlen
      rw [alone _ (by rw [hf, getBob_spilled_other x hne, hother]; exact htwin), hf]
      rfl
    · have hf := spillIfMay_stays hself hmay
      rw [alone _ (by rw [hf, hother]; exact htwin), hf]
    · rintro ue t rfl htwin
      have hf : refillBlock (setBob s b.val x) b.val (if b.val < 65536 then ue else .clean) =
          refillBlock (setBob s b.val x) b.val ue := by rw [if_pos b.isLt]
      rw [exec_bobbinRefill, alone _ (by rw [hf]; exact htwin), hf]
    · rintro t hcons rfl htwin
      rw [readByConsumer, hx, if_pos ⟨hact, hcons⟩, alone _ htwin]
    · rw [readByConsumer, hx, if_neg (fun h => hcons h.2), pointerCheck_agree hx hwp hrp]
  case found =>
    intro s b u t hact ht
    have hu : (bobCheck s b.val u).1 = t := by
      rw [ht]
      cases u with
      | none => exact bobCheck_none
      | corrected => exact bobCheck_corrected hact
      | bad => exact bobCheck_bad hact
      | entryBad => exact bobCheck_entryBad hact
    rw [exec_bobbinSpill, exec_bobbinSpill, exec_bobbinWordRead, exec_bobbinWordRead, bobCheck_none, hu]
    exact ⟨rfl, rfl⟩

/-! ## ITEM_PUSH (R147, R336) -/

section
variable {s : State} {c : HostCmd}

/-- The bobbin that ITEM_PUSH names. -/
def pushedBob (c : HostCmd) : Nat := bitsOf (opOf c 0) 31 16
/-- The words of its item. -/
def pushedWords (c : HostCmd) : List TWord :=
  itemWords ((wordsOf c.buf).take (c.bufLen.toNat / 4)) (bitsOf (opOf c 0) 6 5) (bitsOf (opOf c 0) 4 0) false

theorem exec_itemPush : exec (.itemPush c) s = .next (itemPush s c) := rfl

theorem itemPush_barred {code : Nat} (h : pushStatus s c = some code) : itemPush s c = finish s c code 0 := by
  unfold itemPush
  rw [h]

theorem itemPush_written (h : pushStatus s c = none) {t : State}
    (ht : t = writeItem (pointerCheck s (pushedBob c) 0).1 (pushedBob c) (pushedWords c)) :
    itemPush s c = finish t c 0 (getBob t (pushedBob c)).wstat.toNat := by
  unfold itemPush
  rw [h, ht]
  rfl

theorem pushStatus_missing (h : (getBob s (pushedBob c)).state = .free) : pushStatus s c = some 4 := if_pos h

end

/-! ## The selected bobbin (R150, R152, R153, R155) -/

section
variable {s : State} {rq : Requester} {d : Die} {v : Word}

theorem exec_bobCtlFlush : exec (.bobCtlFlush rq d) s = .next (bobCtlFlush s rq d) := rfl

theorem exec_bobQuotaWrite : exec (.bobQuotaWrite rq d v) s = .next (bobQuotaWrite s rq d v) := rfl

theorem exec_bobPush : exec (.bobPush rq d v) s = .next (bobPush s rq d v) := rfl

/-- BOB_POP answers the word that the read takes. -/
theorem exec_bobPop {inspect : Bool} {t : State} {w : TWord} (h : bobPop s rq d inspect = (t, w)) :
    exec (.bobPop rq d inspect) s = .next (emit t (.hostWord rq w)) := by
  change Host.Outcome.next (emit (bobPop s rq d inspect).1 (.hostWord rq (bobPop s rq d inspect).2)) = _
  rw [h]

section
variable (hsel : selectedBob s rq d = none)
include hsel

theorem bobCtlFlush_unselected : bobCtlFlush s rq d = s := by
  unfold bobCtlFlush
  rw [hsel]

theorem bobQuotaWrite_unselected : bobQuotaWrite s rq d v = s := by
  unfold bobQuotaWrite
  rw [hsel]

theorem bobPush_unselected : bobPush s rq d v = s := by
  unfold bobPush
  rw [hsel]

theorem bobPop_unselected (inspect : Bool) : bobPop s rq d inspect = (s, idleWord) := by
  unfold bobPop
  rw [hsel]

end

section
variable {n : Nat} (hsel : selectedBob s rq d = some n)
include hsel

theorem bobCtlFlush_selected : bobCtlFlush s rq d = flushBoth s (n % 65536) := by
  unfold bobCtlFlush
  rw [hsel]

theorem bobQuotaWrite_selected {t : State} {r p : Bool} (hr : resizeBob s n (bitsOf v.toNat 16 0) = (t, r, p)) :
    bobQuotaWrite s rq d v = setF t fBOB_QUOTA_refused d 0 (bitN r) := by
  unfold bobQuotaWrite
  rw [hsel]
  dsimp only
  rw [hr]

theorem bobPush_host (h : (getBob s n).prod = .host) : bobPush s rq d v = writeWord (pointerCheck s n 0).1 n
    { data := v, tag := BitVec.ofNat 12 (getF s fBOB_PUSH_TAG_tag d (selInst rq 0)) } true := by
  unfold bobPush
  rw [hsel]
  exact if_neg (not_not_intro h)

theorem bobPush_notHost (h : (getBob s n).prod ≠ .host) : bobPush s rq d v = s := by
  unfold bobPush
  rw [hsel]
  exact if_pos h

theorem bobPop_inspect : bobPop s rq d true = (modBob s n (fun b => { b with inspected := true }), idleWord) := by
  unfold bobPop
  rw [hsel]
  rfl

/-- The state in which a normal read finds the bobbin: its pointers checked, and no inspect read since. -/
def popChecked (s : State) (n : Nat) : State := modBob (pointerCheck s n 0).1 n (fun b => { b with inspected := false })

theorem bobPop_normal : bobPop s rq d false =
    if (getBob (popChecked s n) n).cons ≠ .host then (popChecked s n, idleWord)
    else ((egressWord (bobWords (getBob (popChecked s n) n) + 1) (popChecked s n) n).1,
      (egressWord (bobWords (getBob (popChecked s n) n) + 1) (popChecked s n) n).2.getD idleWord) := by
  unfold bobPop
  rw [hsel]
  rfl

theorem bobPop_notHost (h : (getBob (popChecked s n) n).cons ≠ .host) : bobPop s rq d false = (popChecked s n, idleWord) := by
  rw [bobPop_normal hsel, if_pos h]

theorem bobPop_host (h : (getBob (popChecked s n) n).cons = .host) {u : State} {w : Option TWord}
    (hw : egressWord (bobWords (getBob (popChecked s n) n) + 1) (popChecked s n) n = (u, w)) :
    bobPop s rq d false = (u, w.getD idleWord) := by
  rw [bobPop_normal hsel, if_neg (not_not_intro h), hw]

end
end

/-- Settles O34: an item is pushed where nothing bars it, and each register acts on the bobbin that its requester has selected. -/
theorem itemsPushedAndSelectedBobbin : Obligations.ItemsPushedAndSelectedBobbin := by
  refine ⟨?push, ?unselected, ?selected⟩
  case push =>
    intro s c
    rw [exec_itemPush]
    refine ⟨fun code h => by rw [itemPush_barred h], ?_, fun h => by rw [itemPush_barred (pushStatus_missing h)]⟩
    rintro h n t rfl ht
    exact congrArg _ (itemPush_written h ht)
  case unselected =>
    intro s rq d v b hsel
    rw [exec_bobCtlFlush, exec_bobQuotaWrite, exec_bobPush, bobCtlFlush_unselected hsel, bobQuotaWrite_unselected hsel,
      bobPush_unselected hsel]
    exact ⟨rfl, rfl, rfl, exec_bobPop (bobPop_unselected hsel b)⟩
  case selected =>
    intro s rq d v n hsel
    rw [exec_bobCtlFlush, exec_bobQuotaWrite, exec_bobPush, bobCtlFlush_selected hsel]
    refine ⟨rfl, fun t r p hr => by rw [bobQuotaWrite_selected hsel hr], fun h => by rw [bobPush_host hsel h],
      fun h => by rw [bobPush_notHost hsel h], exec_bobPop (bobPop_inspect hsel), ?_⟩
    rintro t rfl
    exact ⟨fun h => exec_bobPop (bobPop_notHost hsel h), fun h u w hw => exec_bobPop (bobPop_host hsel h hw)⟩

end Sys2Proof.Machine
end

section
/-! PROOFS. The regions of the host (R262, R263, R335, R337): mapping and unmapping, the doorbell, and the blocks that the device
reads from an input region and writes to an output region. -/

namespace Sys2Proof.Machine

/-! ## REGION_MAP (R335, R337) -/

section
variable {s : State} {c : HostCmd}

/-- The state in which REGION_MAP to unmap waits for a region to stop, and stops it if it is at an item boundary. -/
def unmapping (s : State) (c : HostCmd) : State :=
  stopRegion (setRegion (waitFor s c (.region (opRegion c))) (opRegion c)
    { getRegion (waitFor s c (.region (opRegion c))) (opRegion c) with stop := true }) (opRegion c)

/-- The region that REGION_MAP maps, with both indexes 0. -/
def mappedRegion (c : HostCmd) : HostReg :=
  { mapped := true, out := bitOf (opOf c 0) 8, bob := bitsOf (opOf c 1) 15 0, base := bitsOf (opOf c 2) 23 0,
    log2 := bitsOf (opOf c 3) 4 0, dev := 0, host := 0, stop := false }

/-- The state in which the region is mapped and its header block cleared. -/
def withRegion (s : State) (c : HostCmd) : State :=
  writeHdm (setRegion s (opRegion c) (mappedRegion c)) ((mappedRegion c).base * 4096) (List.replicate 64 0)

theorem exec_regionMap : exec (.regionMap c) s = .next (regionMap s c) := rfl

theorem regionMap_unreachable (h : hdmReachable s = false) : regionMap s c = finish s c 6 0 := if_pos (by rw [h]; decide)

section
variable (hreach : hdmReachable s = true)
include hreach

/-- REGION_MAP with the window in reach. -/
theorem regionMap_reachable : regionMap s c =
    if bitOf (opOf c 0) 31 then
      if (getRegion s (opRegion c)).mapped then unmapping s c else finish s c 3 0
    else match mapStatus s c with
      | some code => finish s c code 0
      | none =>
        finish (if (mappedRegion c).out then modBob (withRegion s c) (mappedRegion c).bob (fun b => { b with stalled := false })
          else withRegion s c) c 0 0 :=
  if_neg (by rw [hreach]; decide)

section
variable (hunmap : bitOf (opOf c 0) 31 = true)
include hunmap

theorem regionMap_notMapped (h : (getRegion s (opRegion c)).mapped = false) : regionMap s c = finish s c 3 0 := by
  rw [regionMap_reachable hreach, if_pos hunmap, if_neg (by rw [h]; decide)]

theorem regionMap_unmaps (h : (getRegion s (opRegion c)).mapped = true) : regionMap s c = unmapping s c := by
  rw [regionMap_reachable hreach, if_pos hunmap, if_pos h]

end

section
variable (hmap : ¬ bitOf (opOf c 0) 31 = true)
include hmap

theorem regionMap_barred {code : Nat} (h : mapStatus s c = some code) : regionMap s c = finish s c code 0 := by
  rw [regionMap_reachable hreach, if_neg hmap, h]

variable (hmay : mapStatus s c = none)
include hmay

theorem regionMap_input (h : (mappedRegion c).out = false) : regionMap s c = finish (withRegion s c) c 0 0 := by
  rw [regionMap_reachable hreach, if_neg hmap, hmay, h]
  rfl

theorem regionMap_output (h : (mappedRegion c).out = true) :
    regionMap s c = finish (modBob (withRegion s c) (mappedRegion c).bob (fun b => { b with stalled := false })) c 0 0 := by
  rw [regionMap_reachable hreach, if_neg hmap, hmay, h]
  rfl

end
end
end

/-! ## REGION_DOORBELL (R337) -/

section
variable {s : State} {j : Nat} {v : BitVec 16}

theorem exec_regionDoorbell {j : Fin 64} (hopen : s.host.d3hot = false) :
    exec (.regionDoorbell j v) s = .next (ringBell (regionDoorbell s j.val v)) :=
  congrArg _ (if_pos (by rw [windowOpen, hopen]; rfl))

theorem ringBell_awake {t : State} (h : t.rst.dozing = false) : ringBell t = t := if_neg (by rw [h]; decide)

theorem regionDoorbell_error (h : doorbellOk (getRegion s j) v = false) : regionDoorbell s j v = countF s fHOST_ERR_db_err 0 0 :=
  if_pos (by rw [h]; decide)

theorem regionDoorbell_input (h : doorbellOk (getRegion s j) v = true) (hin : (getRegion s j).out = false) :
    regionDoorbell s j v = setRegion s j { getRegion s j with host := v } :=
  (if_neg (by rw [h]; decide)).trans (if_neg (by rw [hin]; decide))

end

/-! ## REGION_INPUT_READ (R262, R263, R337) -/

section
variable {s : State} {j : Nat} {out : ReadOutcome} {g : HostReg} (hg : getRegion s j = g)
include hg

theorem regionInputRead_nothing (h : g.mapped = false ∨ g.out = true ∨ g.dev = g.host) : regionInputRead s j out = s := by
  subst hg
  refine if_pos ?_
  rcases h with h | h | h <;> simp [h]

/-- The words of a block as the device takes them: marked where its read found an error. -/
def takenWords (r : State) (a : Nat) (bad : Bool) : List TWord :=
  (blockWords (readHdm r a 64)).map (fun w => if bad then { w with tag := w.tag ||| 0x080 } else w)

/-- A region past one more block: its index, its header with a write status, and its stop if it is to stop. -/
def pastBlock (u : State) (j : Nat) (h : HostReg) (o : Option Nat) : State :=
  stopRegion (regionHeader (setRegion u j h) h (o.getD (regionStatus u h))) j

theorem regionInputRead_block (hmapped : g.mapped = true) (hin : g.out = false) (hblock : g.dev ≠ g.host) {r u : State}
    {bad : Bool} {o : Option Nat}
    (hcheck : stackCheck s (hdmStack (regionBlock g g.dev)) (hdmOff (regionBlock g g.dev)) 64 out 0 = (r, bad))
    (hwords : inputWords g.bob g.stop (takenWords r (regionBlock g g.dev) bad) ((pointerCheck r g.bob 0).1, none) = (u, o)) :
    regionInputRead s j out = pastBlock u j { g with dev := g.dev + 1 } o := by
  unfold takenWords at hwords
  unfold regionInputRead
  dsimp only
  rw [hg, if_neg (by simp [hmapped, hin, hblock]), hcheck, hwords]
  rfl

end

/-! ## REGION_OUTPUT_WRITE (R337) -/

section
variable {s : State} {j : Nat} {g : HostReg} (hg : getRegion s j = g)
include hg

theorem regionOutputWrite_nothing (h : g.mapped = false ∨ g.out = false) : regionOutputWrite s j = s := by
  subst hg
  refine if_pos ?_
  rcases h with h | h <;> simp [h]

variable (hmapped : g.mapped = true) (hout : g.out = true)
include hmapped hout

theorem regionOutputWrite_full (h : 2 ^ g.log2 ≤ blocksFrom g.host g.dev + ((peekItem s g.bob).length + 7) / 8) :
    regionOutputWrite s j = s := by
  subst hg
  exact (if_neg (by simp [hmapped, hout])).trans (if_pos h)

/-- The state in which an item's blocks stand in an output ring, and its header shows the index past them. -/
def outputWritten (u : State) (j : Nat) (g : HostReg) (ws : List TWord) : State :=
  regionHeader (setRegion (outputBlocks g g.bob 0 (groups8 ws.length ws) u) j
      { g with dev := g.dev + BitVec.ofNat 16 (groups8 ws.length ws).length })
    { g with dev := g.dev + BitVec.ofNat 16 (groups8 ws.length ws).length } 0

theorem regionOutputWrite_item (h : blocksFrom g.host g.dev + ((peekItem s g.bob).length + 7) / 8 < 2 ^ g.log2) {u : State}
    {ws : List TWord} (hitem : egressItem (pointerCheck s g.bob 0).1 g.bob = (u, ws)) (hne : ws ≠ []) :
    regionOutputWrite s j = outputWritten u j g ws := by
  unfold regionOutputWrite
  dsimp only
  rw [hg, if_neg (by simp [hmapped, hout]), if_neg h.not_ge, hitem]
  exact if_neg hne

end

/-! ## The commands -/

theorem exec_regionInputRead (j : Fin 64) (out : ReadOutcome) (s : State) :
    exec (.regionInputRead j out) s = .next (regionInputRead s j.val out) := rfl

theorem exec_regionOutputWrite (j : Fin 64) (s : State) : exec (.regionOutputWrite j) s = .next (regionOutputWrite s j.val) := rfl

/-- Settles O35: each command answers what its checks, taken in turn, choose. -/
theorem hostRegionsMoveItems : Obligations.HostRegionsMoveItems := by
  refine ⟨?map, ?doorbell, ?input, ?output⟩
  case map =>
    rintro s c j rfl
    rw [exec_regionMap]
    refine ⟨fun h => by rw [regionMap_unreachable h], fun hr hu => ⟨fun h => by rw [regionMap_notMapped hr hu h], ?_⟩,
      fun hr hm => ⟨fun code h => ?_, ?_⟩⟩
    · rintro h t rfl
      rw [regionMap_unmaps hr hu h, unmapping]
    · rw [regionMap_barred hr (by rw [hm]; decide) h]
    · rintro hmay g t rfl rfl
      have hmap : ¬ bitOf (opOf c 0) 31 = true := by rw [hm]; decide
      exact ⟨fun h => congrArg _ (regionMap_input hr hmap hmay h), fun h => congrArg _ (regionMap_output hr hmap hmay h)⟩
  case doorbell =>
    rintro s j v g hopen hawake rfl
    rw [exec_regionDoorbell hopen]
    refine ⟨fun h => ?_, fun h hin => ?_⟩
    · rw [regionDoorbell_error h, ringBell_awake (by rw [countF_rst]; exact hawake)]
    · rw [regionDoorbell_input h hin, ringBell_awake (by rw [setRegion_rst]; exact hawake)]
  case input =>
    intro s j out g hg
    rw [exec_regionInputRead]
    refine ⟨fun h => by rw [regionInputRead_nothing hg h], ?_⟩
    rintro hmapped hin hblock a ws r u bad o rfl hcheck rfl hwords
    exact congrArg _ (regionInputRead_block hg hmapped hin hblock hcheck hwords)
  case output =>
    intro s j g hg
    rw [exec_regionOutputWrite]
    refine ⟨fun h => by rw [regionOutputWrite_nothing hg h], fun hmapped hout => ⟨fun h => ?_, fun h u ws hitem hne => ?_⟩⟩
    · rw [regionOutputWrite_full hg hmapped hout h]
    · exact congrArg _ (regionOutputWrite_item hg hmapped hout h hitem hne)

end Sys2Proof.Machine
end

section
/-! PROOFS. The frames of an Ethernet port and its gates (R145, R278 to R288, R315, R500): what becomes of a frame that arrives,
what a turn of the transmitter sends, and how the gate control list moves on. -/

namespace Sys2Proof.Machine

/-! ## ETH_FRAME_RECEIVE (R278 to R282) -/

section
variable {s : State} {p : Nat} {bs : List Byte}

section
variable (hmin : 64 ≤ bs.length) (hmax : bs.length ≤ 9216)
include hmin hmax

theorem frameArrives_control (h : (ethParse bs).etype = 0x8808) :
    frameArrives s p bs true = countF s fRX_DROP_no_match (portDie p) (portIx p) := by
  rw [frameArrives_good s p bs hmin hmax, if_pos h]

theorem frameArrives_ptp (hdata : (ethParse bs).etype ≠ 0x8808) (hen : flagF s fPCFG_ptp_en (portDie p) (portIx p) = true)
    (hptp : isPtp (ethParse bs) = true) : frameArrives s p bs true = emit s (.ptp p bs (ingressTime s p)) := by
  rw [frameArrives_good s p bs hmin hmax, if_neg hdata, if_pos (by rw [hen, hptp]; rfl)]

end
end

/-! ## ETH_FRAME_TRANSMIT (R284, R285) -/

section
variable {s : State} {p : Nat} {due : Option Nat}

section
variable {x : TxFrame} (hline : looped s p = false) (hend : preemptAt s p x.tc (x.bytes.length - x.sent) due = none)
include hline hend

theorem sendPart_leaves (h : x.sent = 0) :
    sendPart s p x due = emit (noteTx s p x.bytes.length) (.frame p x.bytes (egressTime s p)) := by
  rw [sendPart_whole s p x due h hend, sendEth, if_neg (by rw [hline]; decide)]

theorem sendPart_last (h : x.sent ≠ 0) : sendPart s p x due =
    emit (noteTx (setPort s p { getPort s p with frag := none }) p (x.bytes.length - x.sent))
      (.fragment p x.count true (x.bytes.drop x.sent)) := by
  unfold sendPart
  rw [hend]
  dsimp only
  rw [if_neg h, if_neg (by rw [hline]; decide)]

end
end

/-! ## The gate control list (R286) -/

section
variable {s : State} {p : Nat}

/-- A cycle begins with the change that has waited for it, if its base time has come. -/
def cycleList (s : State) (p : Nat) : State :=
  if flagF s fQBV_CTL_pend (portDie p) (portIx p) && decide (adminBase s p ≤ vigilNow s) then adoptList s p else s

/-- A port at an entry of its list that begins now. -/
def entryBegins (s : State) (p e cycleAt : Nat) : State :=
  setPort s p { getPort s p with entry := e, cycleAt := cycleAt, entryAt := vigilNow s }

theorem qbvCycle_eq : qbvCycle s p =
    if (getPort (cycleList s p) p).started then unstall (entryBegins (cycleList s p) p 0 (vigilNow (cycleList s p))) p
    else cycleList s p := rfl

theorem qbvCycle_started (h : (getPort (cycleList s p) p).started = true) :
    qbvCycle s p = unstall (entryBegins (cycleList s p) p 0 (vigilNow (cycleList s p))) p := by
  rw [qbvCycle_eq, if_pos h]

theorem qbvCycle_notStarted (h : (getPort (cycleList s p) p).started = false) : qbvCycle s p = cycleList s p := by
  rw [qbvCycle_eq, if_neg (by rw [h]; decide)]

end

/-! ## The commands -/

section
variable {s : State} {p : Port}

section
variable (hlive : ethLive s p.val = true)
include hlive

theorem exec_ethFrameReceive (hup : portUp s p.val = true) (bs : List Byte) (ok : Bool) :
    exec (.ethFrameReceive p bs ok) s = .next (frameArrives s p.val bs ok) :=
  congrArg _ (if_pos (by rw [hlive, hup]; rfl))

theorem exec_ethFrameTransmit (hup : portUp s p.val = true) (due : Option Nat) :
    exec (.ethFrameTransmit p due) s = .next (transmit s p.val due) :=
  congrArg _ (if_pos (by rw [hlive, hup]; rfl))

theorem exec_qbvCycleStart : exec (.qbvCycleStart p) s = .next (qbvCycle s p.val) := congrArg _ (if_pos hlive)

theorem exec_gateControlListEntryEnd_next (hstarted : (getPort s p.val).started = true)
    (h : (getPort s p.val).entry + 1 < (getPort s p.val).olen) : exec (.gateControlListEntryEnd p) s =
      .next (unstall (entryBegins s p.val ((getPort s p.val).entry + 1) (getPort s p.val).cycleAt) p.val) :=
  congrArg _ (if_pos (by rw [hlive, hstarted, decide_eq_true h]; rfl))

end

theorem exec_gateControlListEntryEnd_last (h : (getPort s p.val).olen ≤ (getPort s p.val).entry + 1) :
    exec (.gateControlListEntryEnd p) s = .next s :=
  congrArg _ (if_neg (by rw [decide_eq_false h.not_gt, Bool.and_false]; decide))

theorem exec_qbvChange (rq : Requester) :
    exec (.qbvChange rq p) s = .next (setF s fQBV_CTL_pend (portDie p.val) (portIx p.val) 1) := rfl

theorem exec_serdesRecalibration : exec (.serdesRecalibration p) s = .next s := rfl

end

/-- Settles O20: each command does what its checks, taken in turn, choose. -/
theorem ethernetFramesAndGates : Obligations.EthernetFramesAndGates := by
  refine ⟨?receive, ?transmit, ?part, fun s rq p => exec_qbvChange rq, ?cycle, ?entry, fun s p => exec_serdesRecalibration⟩
  case receive =>
    intro s p bs hlive hup
    have hexec := exec_ethFrameReceive hlive hup bs
    refine ⟨fun h ok => ?_, ?_, fun hmin hmax => ⟨fun h => ?_, fun hd hen hp => ?_, fun hd hen => ?_⟩⟩
    · rw [hexec, frameArrives_bad s p.val bs ok (.inr h)]
    · rw [hexec, frameArrives_bad s p.val bs false (.inl rfl)]
    · rw [hexec, frameArrives_control hmin hmax h]
    · rw [hexec, frameArrives_ptp hmin hmax hd hen hp]
    · rw [hexec]
      exact ⟨fun r hr => by rw [frameArrives_rule s p.val bs r hmin hmax hd hen hr],
        fun hr => by rw [frameArrives_unmatched s p.val bs hmin hmax hd hen hr]⟩
  case transmit =>
    rintro s t p due hlive hup rfl
    rw [exec_ethFrameTransmit hlive hup]
    refine ⟨fun hc => ?_, fun e hc => by rw [transmit_of_some s p.val due _ hc, sendChosen],
      fun x hc => by rw [transmit_of_some s p.val due _ hc, sendChosen]⟩
    rw [transmit_of_none s p.val due hc]
    refine ⟨fun hf => by rw [resumeFrame_idle _ _ _ hf], fun x hf => ?_⟩
    rw [resumeFrame_frag _ _ _ x hf]
    exact ⟨fun ho => by rw [if_pos ho], fun ho => by rw [if_neg (by rw [ho]; decide)]⟩
  case part =>
    exact fun s p x due hline => ⟨fun hend h => sendPart_leaves hline hend h, fun hend h => sendPart_last hline hend h,
      fun h => preemptAt_none s p x.tc (x.bytes.length - x.sent) due h⟩
  case cycle =>
    intro s t p hlive ht
    have hlist : cycleList s p.val = t := by
      rw [ht, cycleList]
      simp only [Bool.and_eq_true, decide_eq_true_eq]
    rw [exec_qbvCycleStart hlive]
    refine ⟨fun h => ?_, fun h => ?_⟩
    · rw [qbvCycle_started (by rw [hlist]; exact h), hlist, entryBegins]
    · rw [qbvCycle_notStarted (by rw [hlist]; exact h), hlist]
  case entry =>
    exact fun s p hlive hstarted =>
      ⟨fun h => exec_gateControlListEntryEnd_next hlive hstarted h, fun h => exec_gateControlListEntryEnd_last h⟩

end Sys2Proof.Machine
end

section
/-! PROOFS. Beats: which boundary begins one (R158, R165, R212), what a checkpoint does that reaches HBM (R172), the commit a die
applies (R175 to R178), and the move of a yarn to the other die (R194). -/

namespace Sys2Proof.Machine

section
variable {s : State} {d : Die}

/-! ## Boundaries (R158, R165, R212) -/

theorem exec_beatBoundary : exec (.beatBoundary d) s = .next (beatBoundary s d) := rfl

/-- The state at a die's next boundary: a period after its last one, or now where it has had none (R158). -/
def boundaryTime (s : State) (d : Die) : State :=
  if (getBeat s d).nums = [] then s else passTo s ((getBeat s d).lastTick + periodTicks s)

theorem boundaryTime_first (h : (getBeat s d).nums = []) : boundaryTime s d = s := if_pos h

theorem boundaryTime_later {n : Nat × BitVec 48} {ns : List (Nat × BitVec 48)} (h : (getBeat s d).nums = n :: ns) :
    boundaryTime s d = passTo s ((getBeat s d).lastTick + periodTicks s) :=
  if_neg (by rw [h]; exact List.cons_ne_nil n ns)

theorem nextNum_first (h : (getBeat s d).nums = []) : nextNum s d = 0 := by rw [nextNum, h]

theorem beatBoundary_none (h : boundaryDies s d = []) : beatBoundary s d = s := if_pos (by rw [h]; simp)

theorem beatBoundary_begins {e : Die} {es : List Die} (hrun : beatsRun s = true) (hdies : boundaryDies s d = e :: es)
    (hon : ∀ x ∈ e :: es, domWorks s x 56 = true) :
    beatBoundary s d = boundaryOn (boundaryTime s d) (e :: es) (nextNum (boundaryTime s d) d) := by
  have hbegins : ¬ (!beatsRun s || (e :: es).isEmpty || !(e :: es).all (fun x => domWorks s x 56)) = true := by
    rw [hrun, List.all_eq_true.mpr hon, List.isEmpty_cons]
    decide
  unfold beatBoundary
  rw [hdies]
  exact if_neg hbegins

/-! ## Checkpoints (R172) -/

theorem exec_checkpointWritten {y : YarnNo} {c : CutRec} {cs : List CutRec} (hcuts : (getYarn s d y.val).cuts = c :: cs) :
    exec (.checkpointWritten d y) s =
      .next (if cutReady s d y.val c then compareTwin (writeCkpt s d y.val c) d y.val else s) := by
  have hexec : exec (.checkpointWritten d y) s = execCheckpointWritten d y s := rfl
  rw [hexec, execCheckpointWritten, hcuts]

/-! ## Readiness and commits (R175 to R178) -/

theorem exec_ready : exec .ready s = .next (readyStep s) := rfl

theorem exec_commit : exec (.commit d) s = .next (commitStep s d) := rfl

/-- Die 0 has the READY of die 1 for a beat number. -/
def readySent (s : State) (num : Nat) : State :=
  setBeat s 0 { getBeat s 0 with readyMsg := (getBeat s 0).readyMsg ++ [num] }

/-- Die 0 has taken the READY for a beat number and sent its COMMIT (R176). -/
def commitSent (s : State) (num : Nat) : State :=
  let t := setBeat s 0 { getBeat s 0 with readyMsg := (getBeat s 0).readyMsg.erase num }
  setBeat t 1 { getBeat t 1 with commitMsg := (getBeat t 1).commitMsg ++ [num] }

variable {c num : Nat}

theorem commitStep_alone (hc : c = (getBeat s d).cmt + 1) (hstart : (getBeat s d).started = true) (hon : domWorks s d 56 = true)
    (halone : commitsAlone s d c = true) : commitStep s d = if dieReady s d c then applyCommit s d c else s := by
  subst hc
  unfold commitStep
  dsimp only
  rw [if_neg (by rw [hstart, hon]; decide), if_pos halone]

theorem commitStep_die0 (hc : c = (getBeat s 0).cmt + 1) (hnum : num = (numOfOrd s 0 c).toNat)
    (hstart : (getBeat s 0).started = true) (hon : domWorks s 0 56 = true) (hjoint : commitsAlone s 0 c = false)
    (hready : dieReady s 0 c = true) (hsaid : num ∈ (getBeat s 0).readyMsg) :
    commitStep s 0 = applyCommit (commitSent s num) 0 c := by
  subst hc hnum
  have htakes : (dieReady s 0 ((getBeat s 0).cmt + 1) &&
      (getBeat s 0).readyMsg.contains (numOfOrd s 0 ((getBeat s 0).cmt + 1)).toNat) = true := by
    rw [hready, List.contains_eq_mem, decide_eq_true hsaid, Bool.and_true]
  unfold commitStep
  dsimp only
  rw [if_neg (by rw [hstart, hon]; decide), if_neg (by rw [hjoint]; decide), if_pos rfl, if_pos htakes]
  rfl

section
variable (hc : c = (getBeat s 1).cmt + 1) (hnum : num = (numOfOrd s 1 c).toNat) (hstart : (getBeat s 1).started = true)
  (hon : domWorks s 1 56 = true) (hjoint : commitsAlone s 1 c = false)
include hc hnum hstart hon hjoint

theorem readyStep_says (hready : dieReady s 1 c = true) (hnew : num ∉ (getBeat s 0).readyMsg) :
    readyStep s = readySent s num := by
  subst hc hnum
  refine if_pos ?_
  rw [hstart, hon, hjoint, hready, List.contains_eq_mem, decide_eq_false hnew]
  decide

theorem commitStep_die1 (hcome : num ∈ (getBeat s 1).commitMsg) (hended : c < (getBeat s 1).ord) :
    commitStep s 1 = applyCommit s 1 c := by
  subst hc hnum
  have hcommits : ((getBeat s 1).commitMsg.contains (numOfOrd s 1 ((getBeat s 1).cmt + 1)).toNat &&
      decide ((getBeat s 1).cmt + 1 < (getBeat s 1).ord)) = true := by
    rw [List.contains_eq_mem, decide_eq_true hcome, decide_eq_true hended, Bool.and_true]
  unfold commitStep
  dsimp only
  rw [if_neg (by rw [hstart, hon]; decide), if_neg (by rw [hjoint]; decide), if_neg (by decide), if_pos hcommits]

end

/-! ## The move of a yarn (R194) -/

theorem exec_yarnMigrateDone (y : YarnNo) : exec (.yarnMigrateDone y) s = .next (migrateDone s y.val) := rfl

/-- A yarn that migrates on die 1 alone moves from there. -/
theorem migrateDone_die1 {n : Nat} (h0 : (getYarn s 0 n).state ≠ .migrate) (h1 : (getYarn s 1 n).state = .migrate)
    (hcuts : (getYarn s 1 n).cuts = []) (hat : atBoundary s 1 n = true) : migrateDone s n = migrateYarn s 1 n := by
  have hstays : (if (getYarn s 0 n).state = .migrate ∧ (getYarn s 0 n).cuts = [] ∧ atBoundary s 0 n then
      migrateYarn s 0 n else s) = s := if_neg (fun h => h0 h.1)
  unfold migrateDone
  simp only [List.foldl_cons, List.foldl_nil]
  rw [hstays, if_pos ⟨h1, hcuts, hat⟩]

end

/-- Settles O12: each step does what its checks, taken in turn, let it do. -/
theorem beatsBeginAndCommit : Obligations.BeatsBeginAndCommit := by
  refine ⟨?boundary, ?checkpoint, ?die1, ?alone, ?die0, ?moves⟩
  case boundary =>
    intro s d hrun
    rw [exec_beatBoundary]
    refine ⟨fun h => by rw [beatBoundary_none h], fun e es hdies hon hnums => ?_, fun e es o n ns hdies hon hnums => ?_⟩
    · rw [beatBoundary_begins hrun hdies hon, boundaryTime_first hnums, nextNum_first hnums]
    · rw [beatBoundary_begins hrun hdies hon, boundaryTime_later hnums]
  case checkpoint =>
    intro s d y c cs hcuts
    rw [exec_checkpointWritten hcuts]
    exact ⟨fun h => by rw [if_pos h], fun h => by rw [if_neg (by rw [h]; decide)]⟩
  case die1 =>
    intro s c num hc hnum hstart hon hjoint
    rw [exec_ready, exec_commit]
    exact ⟨fun hready hnew => congrArg _ (readyStep_says hc hnum hstart hon hjoint hready hnew),
      fun hcome hended => congrArg _ (commitStep_die1 hc hnum hstart hon hjoint hcome hended)⟩
  case alone =>
    intro s d c hc hstart hon halone
    rw [exec_commit, commitStep_alone hc hstart hon halone]
    exact ⟨fun h => by rw [if_pos h], fun h => by rw [if_neg (by rw [h]; decide)]⟩
  case die0 =>
    intro s c num hc hnum hstart hon hjoint hready hsaid
    rw [exec_commit, commitStep_die0 hc hnum hstart hon hjoint hready hsaid, commitSent]
  case moves =>
    intro s y h0 h1 hcuts hat
    rw [exec_yarnMigrateDone, migrateDone_die1 h0 h1 hcuts hat]

end Sys2Proof.Machine
end

section
/-! PROOFS. The Bredan link (R179, R241 to R249): a frame in order, the start and the end of a retrain, training, hold-down, and the
rejoin event. -/

namespace Sys2Proof.Machine

section
variable {s : State} {d : Die}

/-! ## Frames (R242 to R244) -/

/-- The state in which a half has taken a frame in order, before its flits leave (R242, R244). -/
def frameTaken (s : State) (d : Die) (f : BitVec 4320) : State :=
  let b := getBrd s d
  takeTrailer (setBrd s d
    { b with nextSeq := b.nextSeq + 1, naks := 0, waitSeq := false, crDue := creditsFor b.crDue (frameFlits f) }) d f

theorem exec_bredanFrameReceive (f : BitVec 4320) (es : List (Fin 42 × FlitErr)) (x : Finds) :
    exec (.bredanFrameReceive d f es x) s = .next (frameReceive s d f es x) := rfl

theorem frameReceive_inOrder (hup : linkUp s d = true) {f : BitVec 4320} (hok : frameOk f = true)
    (hseq : trailer f 11 0 = (getBrd s d).nextSeq.toNat) (es : List (Fin 42 × FlitErr)) (x : Finds) : frameReceive s d f es x =
      sendFlits (sendFrame ((frameFlits f).foldl (fun t y => takeFlit es x t d y) (passStray (frameTaken s d f) d)) d 1) d := by
  unfold frameReceive
  dsimp only
  rw [if_neg (by rw [hup]; decide), if_neg (by rw [hok]; decide), if_neg (by rw [decide_eq_true hseq]; decide)]
  rfl

/-! ## The start of a retrain, and hold-down (R246, R247) -/

theorem exec_bredanNoFrame (hup : linkUp s d = true) : exec (.bredanNoFrame d) s = .next (startRetrain s) := by
  have hexec : exec (.bredanNoFrame d) s = execBredanNoFrame d s := rfl
  rw [hexec, execBredanNoFrame, if_pos hup]

theorem exec_bredanLaneAlignmentLoss (hup : linkUp s d = true) {l : Fin 24} (hused : laneUsed s d l.val = true) :
    exec (.bredanLaneAlignmentLoss d l) s = .next (startRetrain s) := by
  have hexec : exec (.bredanLaneAlignmentLoss d l) s = execBredanLaneAlignmentLoss d l s := rfl
  rw [hexec, execBredanLaneAlignmentLoss, if_pos (by rw [hup, hused]; decide)]

/-- Both halves may take full width again (R246). -/
def fullWidthAllowed (s : State) : State :=
  let t := setBrd s 0 { getBrd s 0 with width12 := false }
  setBrd t 1 { getBrd t 1 with width12 := false }

theorem exec_brdRetrain (hup : linkUp s d = true) (rq : Requester) :
    exec (.brdRetrain rq d) s = .next (startRetrain (fullWidthAllowed s)) := by
  have hexec : exec (.brdRetrain rq d) s = execBrdRetrain rq d s := rfl
  rw [hexec, execBrdRetrain, if_pos hup]
  rfl

theorem exec_brdHoldDown (rq : Requester) (v : Bool) :
    exec (.brdHoldDown rq d v) s =
      .next (if v then linkDown (setF s fBRD_CTL_hold_down d 0 (bitN v)) else setF s fBRD_CTL_hold_down d 0 (bitN v)) := rfl

/-! ## The end of a retrain, and training (R245 to R248) -/

@[simp] theorem getBrd_showLanes (d e : Die) (a b : BitVec 24) : getBrd (showLanes s d a b) e = getBrd s e := by
  rw [showLanes, getBrd_setF, getBrd_setF]

theorem exec_bredanRetrainDone (a b : BitVec 24) : exec (.bredanRetrainDone d a b) s = .next (retrainDone s d a b) := rfl

theorem retrainDone_lanes (h : linkState s d = 4) {a b : BitVec 24} {w : Bool × Bool}
    (hw : widthFor (a &&& b) (getBrd s d).width12 = some w) : retrainDone s d a b =
      linkEvent ([(0 : Die), 1].foldl (fun t x => if linkState t x = 4 then sendFlits (resend (halfUp t x w) x) x else t)
        (showLanes s d a b)) d := by
  unfold retrainDone
  dsimp only
  rw [if_neg (not_not.mpr h), getBrd_showLanes, hw]

theorem exec_bredanTrainAttempt (a b : BitVec 24) : exec (.bredanTrainAttempt d a b) s = .next (trainAttempt s d a b) := rfl

section
variable (h0 : linkState s 0 ≤ 1) (h1 : linkState s 1 ≤ 1) (hmay0 : mayTrain s 0 = true) (hmay1 : mayTrain s 1 = true)
include h0 h1 hmay0 hmay1

/-- Two halves that are DOWN or in TRAIN, and may train, bar no attempt. -/
theorem trainAttempt_notBarred : ¬ (!decide (linkState s 0 = 0 ∨ linkState s 0 = 1) ||
    !decide (linkState s 1 = 0 ∨ linkState s 1 = 1) || !mayTrain s 0 || !mayTrain s 1) = true := by
  rw [decide_eq_true (Nat.le_one_iff_eq_zero_or_eq_one.mp h0), decide_eq_true (Nat.le_one_iff_eq_zero_or_eq_one.mp h1),
    hmay0, hmay1]
  decide

variable {t : State} {a b : BitVec 24} (ht : t = showLanes s d a b)
include ht

theorem trainAttempt_noLanes (hw : widthFor (a &&& b) ((getBrd t 0).width12 && (getBrd t 1).width12) = none) :
    trainAttempt s d a b = linkDown t := by
  subst ht
  unfold trainAttempt
  dsimp only
  rw [if_neg (trainAttempt_notBarred h0 h1 hmay0 hmay1), hw]

/-- Halves that were not split come up, and no rejoin is asked for. -/
theorem trainAttempt_lanes {w : Bool × Bool} (hw : widthFor (a &&& b) ((getBrd t 0).width12 && (getBrd t 1).width12) = some w)
    (hjoined : apart t = false) (hs0 : flagF t fBRD_STAT_split 0 0 = false) (hs1 : flagF t fBRD_STAT_split 1 0 = false) :
    trainAttempt s d a b = linkEvent ([(0 : Die), 1].foldl (fun t x =>
      sendFlits (halfUp (setBrd t x (freshHalf (getBrd t x))) x w) x) t) d := by
  subst ht
  unfold trainAttempt
  dsimp only
  rw [if_neg (trainAttempt_notBarred h0 h1 hmay0 hmay1), hw]
  dsimp only
  rw [hjoined, hs0, hs1]
  rfl

end

/-! ## Rejoin (R179) -/

theorem exec_rejoinEvent (hp0 : flagF s fBRD_STAT_rejoin_pend 0 0 = true) (hp1 : flagF s fBRD_STAT_rejoin_pend 1 0 = true)
    (hup : linkUp s 1 = true) (hev : (getBrd s 0).rejoinEv.isSome = true) : exec .rejoinEvent s =
      .next (setBeat (setBrd s 0 { getBrd s 0 with rejoinEv := none }) 1 { getBeat s 1 with
        rejoinMod := some (if (getBeat s 1).started then ((beatNum s 1).toNat + 1) % 3 else 3) }) := by
  have hexec : exec .rejoinEvent s = execRejoinEvent s := rfl
  rw [hexec, execRejoinEvent, if_pos (by rw [hp0, hp1, hup, hev]; decide)]
  rfl

end

/-- Settles O17: each command does what the state of the link and the lanes found good choose. -/
theorem bredanLinkFramesAndTraining : Obligations.BredanLinkFramesAndTraining := by
  refine ⟨?frame, ?starts, fun s rq d => ⟨exec_brdHoldDown rq true, exec_brdHoldDown rq false⟩, ?ends, ?training,
    fun s hp0 hp1 hup hev => exec_rejoinEvent hp0 hp1 hup hev⟩
  case frame =>
    rintro s d f es x hup hok hseq b t rfl rfl
    exact congrArg _ (frameReceive_inOrder hup hok hseq es x)
  case starts =>
    exact fun s d hup => ⟨exec_bredanNoFrame hup, fun l => exec_bredanLaneAlignmentLoss hup, exec_brdRetrain hup⟩
  case ends =>
    intro s d a b w h0 h1 hw
    have h : linkState s d = 4 := match d with
      | 0 => h0
      | 1 => h1
    rw [exec_bredanRetrainDone, retrainDone_lanes h hw]
  case training =>
    intro s t d a b h0 h1 hmay0 hmay1 ht
    rw [exec_bredanTrainAttempt]
    exact ⟨fun hw => by rw [trainAttempt_noLanes h0 h1 hmay0 hmay1 ht hw],
      fun w hw hjoined hs0 hs1 => by rw [trainAttempt_lanes h0 h1 hmay0 hmay1 ht hw hjoined hs0 hs1]⟩

end Sys2Proof.Machine
end

section
/-! PROOFS. Writes of the NV store (R335, R376) and the live update of a die (R194, R362): the case lemmas of each command in the
order of its checks. -/

namespace Sys2Proof.Machine

section
variable {s : State} {c : HostCmd} {d : Die}

/-! ## NV_WRITE (R335, R376) -/

/-- The target that NV_WRITE names. -/
def opNvTarget (c : HostCmd) : Nat := bitsOf (opOf c 0) 2 0

theorem exec_nvWrite : exec (.nvWrite c) s = .next (nvWrite s c) := rfl

theorem nvTarget_reserved {t : Nat} (h : 5 ≤ t) : nvTarget t = none := by
  obtain ⟨k, rfl⟩ := Nat.exists_eq_add_of_le' h
  rfl

theorem nvWrite_noTarget (h : nvTarget (opNvTarget c) = none) : nvWrite s c = finish s c 2 0 := by
  unfold opNvTarget at h
  simp only [nvWrite, h]

section
variable {b l : Nat} (htarget : nvTarget (opNvTarget c) = some (b, l))
include htarget

theorem nvWrite_pastEnd (h : l < opOf c 1 + c.buf.length) : nvWrite s c = finish s c 2 0 := by
  unfold opNvTarget at htarget
  unfold nvWrite
  dsimp only
  rw [htarget]
  exact if_pos h

variable (hfits : opOf c 1 + c.buf.length ≤ l)
include hfits

theorem nvWrite_running (h : runsFrom s (opDie c 0) (opNvTarget c) = true) : nvWrite s c = finish s c 6 0 := by
  unfold opNvTarget at htarget h
  unfold nvWrite
  dsimp only
  rw [htarget]
  dsimp only
  rw [if_neg hfits.not_gt, if_pos h]

variable (hother : runsFrom s (opDie c 0) (opNvTarget c) = false)
include hother

theorem nvWrite_busy (h : (getImg s (opDie c 0)).nvBusy ≠ none ∨ (getBeat s (opDie c 0)).update ≠ none) :
    nvWrite s c = finish s c 10 0 := by
  have hbusy : ((getImg s (opDie c 0)).nvBusy.isSome || (getBeat s (opDie c 0)).update.isSome) = true := by
    rwa [Bool.or_eq_true, Option.isSome_iff_ne_none, Option.isSome_iff_ne_none]
  unfold opNvTarget at htarget hother
  unfold nvWrite
  dsimp only
  rw [htarget]
  dsimp only
  rw [if_neg hfits.not_gt, if_neg (by rw [hother]; decide), if_pos hbusy]

/-- The state in which the data of NV_WRITE stand in the flash and its programming has begun. -/
def nvWriting (s : State) (c : HostCmd) (b : Nat) : State :=
  let u := { s with mem.nv := memWrite s.mem.nv (nvAddr (opDie c 0) (b + opOf c 1)) c.buf }
  setImg u (opDie c 0) { getImg u (opDie c 0) with nvBusy := some (opNvTarget c + 8 * bitN (bitOf (opOf c 0) 8)) }

theorem nvWrite_begins (hidle : (getImg s (opDie c 0)).nvBusy = none) (hstays : (getBeat s (opDie c 0)).update = none) :
    nvWrite s c = waitFor (nvWriting s c b) c (.nv (opDie c 0)) := by
  unfold opNvTarget at htarget hother
  unfold nvWrite
  dsimp only
  rw [htarget]
  dsimp only
  rw [if_neg hfits.not_gt, if_neg (by rw [hother]; decide), if_neg (by rw [hidle, hstays]; decide)]
  rfl

end

/-! ## NV_STORE_WRITE_DONE (R335) -/

theorem exec_nvStoreWriteDone (ok : Bool) : exec (.nvStoreWriteDone d ok) s = .next (nvDone s d ok) := rfl

theorem nvDone_idle (h : (getImg s d).nvBusy = none) (ok : Bool) : nvDone s d ok = s := by rw [nvDone, h]

section
variable {t : Nat} (hbusy : (getImg s d).nvBusy = some t) {ok : Bool}
include hbusy

/-- The programming ends with the status that the write's kind and the slot's signature give. -/
theorem nvDone_busy : nvDone s d ok = endWait (setImg s d { getImg s d with nvBusy := none }) (.nv d)
    (if decide (8 ≤ t) && decide (t % 8 < 4) && !(ok && slotSigned s d (t % 8)) then 0xB else 0) 0 0 := by
  rw [nvDone, hbusy]
  rfl

theorem nvDone_good (h : t < 8 ∨ 4 ≤ t % 8 ∨ ok = true ∧ slotSigned s d (t % 8) = true) :
    nvDone s d ok = endWait (setImg s d { getImg s d with nvBusy := none }) (.nv d) 0 0 0 := by
  rw [nvDone_busy hbusy, if_neg]
  obtain h | h | ⟨rfl, h⟩ := h
  · simp [h]
  · simp [h.not_gt]
  · simp [h]

theorem nvDone_bad (hlast : 8 ≤ t) (hslot : t % 8 < 4) (h : ok = false ∨ slotSigned s d (t % 8) = false) :
    nvDone s d ok = endWait (setImg s d { getImg s d with nvBusy := none }) (.nv d) 0xB 0 0 := by
  rw [nvDone_busy hbusy, if_pos]
  obtain rfl | h := h
  · simp [hlast, hslot]
  · simp [hlast, hslot, h]

end

/-! ## DIE_UPDATE (R194, R362) -/

/-- The update that DIE_UPDATE asks for. -/
def opUpdate (c : HostCmd) : Update :=
  let w := opOf c 0
  { phase := if bitOf w 2 then .moving else .firmware, fw := bitOf w 3, img := bitOf w 2, fwSlot := bitOf w 1, imSlot := bitOf w 0
    moving := [] }

theorem exec_dieUpdate : exec (.dieUpdate c) s = .next (dieUpdate s c) := rfl

theorem updateStatus_nothing {u : Update} (hfw : u.fw = false) (himg : u.img = false) : updateStatus s d u = some 2 :=
  if_pos (by rw [hfw, himg]; decide)

theorem dieUpdate_turnedAway {code : Nat} (h : updateStatus s (opDie c 0) (opUpdate c) = some code) :
    dieUpdate s c = failStaged s c code 0 := by
  unfold opUpdate at h
  unfold dieUpdate
  dsimp only at h ⊢
  rw [h]

/-- The state in which the update that DIE_UPDATE asks for is noted. -/
def updateNoted (s : State) (c : HostCmd) : State :=
  setBeat s (opDie c 0) { getBeat s (opDie c 0) with update := some (opUpdate c) }

theorem dieUpdate_starts (h : updateStatus s (opDie c 0) (opUpdate c) = none) : dieUpdate s c =
    stagedOk (if (opUpdate c).img then setDieState (updateNoted s c) (opDie c 0) 3 else dropFirmware (updateNoted s c) (opDie c 0))
      c 0 (.update (opDie c 0)) := by
  unfold opUpdate at h
  unfold dieUpdate
  dsimp only at h ⊢
  rw [h]
  rfl

/-! ## FW_SWAP_DONE (R362) -/

theorem exec_fwSwapDone (res : SwapResult) : exec (.fwSwapDone d res) s = .next (swapDone s d res) := rfl

/-- The state in which no update of the die is noted. -/
def updateOver (s : State) (d : Die) : State := setBeat s d { getBeat s d with update := none }

/-- What the result of a firmware swap does once the update is over. -/
def swapEnds (s : State) (d : Die) (slot : Bool) : SwapResult → State
  | .done v =>
    if (fwFrames s d slot).isSome then endWait (startIfOk (loadFirmware s d slot v.toNat) d) (.update d) 0 0 0
    else swapBack s d
  | .badSignature => swapBack s d
  | .watchdog => wdtFire s d

theorem swapDone_ends {u : Update} (hu : (getBeat s d).update = some u) (hphase : u.phase = .firmware)
    (hheld : controlHeld s d = false) (hon : domOn s d 59 = true) (hstage : 6 ≤ getStage s d) (res : SwapResult) :
    swapDone s d res = swapEnds (updateOver s d) d u.fwSlot res := by
  rw [swapDone, hu]
  dsimp only
  rw [if_neg (by simp [hphase, hheld, hon, hstage])]
  cases res <;> rfl

end

/-- Settles O37: each command answers what its checks, taken in turn, choose. -/
theorem nvWritesAndDieUpdates : Obligations.NvWritesAndDieUpdates := by
  refine ⟨?write, ?written, ?update, ?swap⟩
  case write =>
    rintro s c d t o rfl rfl rfl
    rw [exec_nvWrite]
    refine ⟨fun h => by rw [nvWrite_noTarget (nvTarget_reserved h)], fun b l htarget =>
      ⟨fun h => by rw [nvWrite_pastEnd htarget h], fun hfits h => by rw [nvWrite_running htarget hfits h],
        fun hfits hother => ⟨fun h => by rw [nvWrite_busy htarget hfits hother h], ?_⟩⟩⟩
    rintro hidle hstays u rfl
    exact congrArg _ (nvWrite_begins htarget hfits hother hidle hstays)
  case written =>
    intro s d ok
    rw [exec_nvStoreWriteDone]
    refine ⟨fun h => by rw [nvDone_idle h], ?_⟩
    rintro t u hbusy rfl
    exact ⟨fun h => by rw [nvDone_good hbusy h], fun hlast hslot h => by rw [nvDone_bad hbusy hlast hslot h]⟩
  case update =>
    rintro s c d w u rfl rfl hu
    obtain rfl : u = opUpdate c := hu
    rw [exec_dieUpdate]
    refine ⟨fun hfw himg => by rw [dieUpdate_turnedAway (updateStatus_nothing hfw himg)],
      fun code h => by rw [dieUpdate_turnedAway h], ?_⟩
    rintro h t rfl
    rw [dieUpdate_starts h]
    exact ⟨fun himg => by rw [if_pos himg, updateNoted], fun himg => by rw [if_neg (by rw [himg]; decide), updateNoted]⟩
  case swap =>
    intro s t d u hu hphase hheld hon hstage ht
    obtain rfl : t = updateOver s d := ht
    have hends := swapDone_ends hu hphase hheld hon hstage
    refine ⟨fun v => ⟨fun h => ?_, fun h => ?_⟩, ?_, ?_⟩
    · rw [exec_fwSwapDone, hends, swapEnds, if_pos (Option.isSome_iff_ne_none.mpr h)]
    · rw [exec_fwSwapDone, hends, swapEnds, if_neg (by rw [h]; decide), swapBack]
    · rw [exec_fwSwapDone, hends, swapEnds, swapBack]
    · rw [exec_fwSwapDone, hends, swapEnds]

end Sys2Proof.Machine
end

section
/-! PROOFS. A harness that is ON: its clock fails, locks again and slews (R200, R202), its voltage loop runs (R206, R207), its
lengthened cycles are counted (R208), and its aging is measured (R210). -/

namespace Sys2Proof.Machine

section
variable {s : State} {d : Die} {n : Harn} {h : Nat}

/-! ## The clock fails and locks again (R202) -/

theorem exec_harnessClockFail : exec (.harnessClockFail d n) s = .next (clockFail s d n.val) := rfl

/-- The state in which a clock failure is shown and counted, its source asserted, and its event and fault raised (R202). -/
def clockFailed (s : State) (d : Die) (h : Nat) : State :=
  let t := countF (setF s fCLK_STAT_fail d h 1) fCLK_STAT_fail_cnt d h
  let t := assertReset t 8 { level := reachOf t d 8, die := d, har := h }
  let t := setHar t d h { getHar t d h with relocks := 0 }
  addFault (raiseEvent t 0x0B d (BitVec.ofNat 32 h) (regRaw t .CLK_STAT d h)) d { cls := 3, id := 0, har := some h, bob := none }

theorem clockFail_running (hworks : domWorks s d h = true) (hopen : (getHar s d h).inReset = false)
    (hgoes : (getHar s d h).halted = false) : clockFail s d h = clockFailed s d h :=
  if_neg (by rw [hworks, hopen, hgoes]; decide)

theorem exec_harnessClockRelock (ok : Bool) : exec (.harnessClockRelock d n ok) s = .next (relock s d n.val ok) := rfl

/-- While the failure is asserted, a lock releases it, and an attempt that fails is noted or loses the harness. -/
theorem relock_clockHeld {a : Asserted} (ha : clockHeld s d h = some a) (ok : Bool) : relock s d h ok =
    if ok then releaseReset s a
    else if (getHar s d h).relocks = 0 then setHar s d h { getHar s d h with relocks := 1 }
    else loseHarness s d h := by
  rw [relock, ha]
  rfl

/-! ## The frequency (R199, R200) -/

theorem exec_clkFreqWrite (rq : Requester) (v : Word) : exec (.clkFreqWrite rq d n v) s =
    .next (setFreq s d n.val (bitsOf (regWritten .CLK_CTL (regRaw s .CLK_CTL d n.val) v).toNat 6 0)) := rfl

/-- The generator slews exactly where it is locked at another frequency. -/
theorem setFreq_eq {t : State} {f : Nat} (ht : t = setF s fCLK_CTL_freq d h f) : setFreq s d h f =
    setF t fCLK_STAT_slewing d h
      (if flagF t fCLK_STAT_locked d h ∧ getF t fCLK_STAT_freq_now d h ≠ f then 1 else 0) := by
  subst ht
  unfold setFreq bitN
  simp only [Bool.and_eq_true, decide_eq_true_eq]

theorem exec_clkSlewDone : exec (.clkSlewDone d n) s = .next (slewDone s d n.val) := rfl

section
variable (hslews : flagF s fCLK_STAT_slewing d h = true)
include hslews

theorem slewDone_waits (hlow : getF s fCLK_STAT_freq_now d h < getF s fCLK_CTL_freq d h ∧ marginOf s d h < marginTarget s) :
    slewDone s d h = s := by
  unfold slewDone
  dsimp only
  rw [if_neg (by rw [hslews]; decide), if_pos hlow]

theorem slewDone_ends (hends : getF s fCLK_CTL_freq d h ≤ getF s fCLK_STAT_freq_now d h ∨ marginTarget s ≤ marginOf s d h) :
    slewDone s d h = setF (setF s fCLK_STAT_freq_now d h (getF s fCLK_CTL_freq d h)) fCLK_STAT_slewing d h 0 := by
  unfold slewDone
  dsimp only
  rw [if_neg (by rw [hslews]; decide), if_neg (by omega)]

end

/-! ## The voltage loop (R206 to R208) -/

theorem exec_avsLoopTick (m : BitVec 8) (r : BitVec 6) : exec (.avsLoopTick d n m r) s = .next (avsTick s d n.val m r.toNat) := rfl

/-- The state in which a loop period has shown its worst margin and what the rail allows. -/
def avsSeen (s : State) (d : Die) (h : Nat) (margin : BitVec 8) (headroom : Nat) : State :=
  modHar (setF s fAVS_STAT_margin d h margin.toNat) d h (fun a => { a with headroom := headroom })

/-- The state in which a voltage code is in force and the periods above the target are counted anew. -/
def codeInForce (s : State) (d : Die) (h v : Nat) : State :=
  modHar (setF s fAVS_STAT_vnow d h v) d h (fun a => { a with aboveFor := 0 })

section
variable {t : State} {m : BitVec 8} {r : Nat} (hworks : domWorks s d h = true) (ht : t = avsSeen s d h m r)
include hworks ht

theorem avsTick_loopOff (hoff : flagF t fAVS_CTL_en d h = false) :
    avsTick s d h m r = codeInForce t d h (min r (getF t fAVS_CTL_vman d h)) := by
  subst ht
  unfold avsTick
  dsimp only
  rw [if_neg (by rw [hworks]; decide)]
  exact if_pos ((Bool.not_eq_true' _).mpr hoff)

variable (hon : flagF t fAVS_CTL_en d h = true)
include hon

theorem avsTick_loopOn : avsTick s d h m r =
    if signed 8 m.toNat < marginTarget s then
      (if getF t fAVS_STAT_vnow d h < min r (getF t fAVS_CTL_vmax d h) then
        codeInForce t d h (clampV t d h (getF t fAVS_STAT_vnow d h + 1) r)
      else avsLimit (codeInForce t d h (clampV t d h (getF t fAVS_STAT_vnow d h) r)) d h)
    else if marginTarget s + 4 < signed 8 m.toNat then
      (if 7 ≤ (getHar t d h).aboveFor then
        codeInForce t d h (clampV t d h (getF t fAVS_STAT_vnow d h - 1) r)
      else modHar (setF t fAVS_STAT_vnow d h (clampV t d h (getF t fAVS_STAT_vnow d h) r)) d h
        (fun a => { a with aboveFor := (getHar t d h).aboveFor + 1 }))
    else codeInForce t d h (clampV t d h (getF t fAVS_STAT_vnow d h) r) := by
  subst ht
  unfold avsTick
  dsimp only
  rw [if_neg (by rw [hworks]; decide)]
  exact if_neg (by rw [Bool.not_eq_true', Bool.not_eq_false]; exact hon)

theorem avsTick_rises (hlow : signed 8 m.toNat < marginTarget s)
    (hroom : getF t fAVS_STAT_vnow d h < min r (getF t fAVS_CTL_vmax d h)) :
    avsTick s d h m r = codeInForce t d h (clampV t d h (getF t fAVS_STAT_vnow d h + 1) r) := by
  rw [avsTick_loopOn hworks ht hon, if_pos hlow, if_pos hroom]

theorem avsTick_holds (hlow : marginTarget s ≤ signed 8 m.toNat) (hhigh : signed 8 m.toNat ≤ marginTarget s + 4) :
    avsTick s d h m r = codeInForce t d h (clampV t d h (getF t fAVS_STAT_vnow d h) r) := by
  rw [avsTick_loopOn hworks ht hon, if_neg hlow.not_gt, if_neg hhigh.not_gt]

end

theorem exec_clockStretch (hworks : domWorks s d n.val = true) (c : BitVec 8) : exec (.clockStretch d n c) s =
    .next (setF s fAVS_STAT_stretch d n.val (min 255 (getF s fAVS_STAT_stretch d n.val + c.toNat))) := by
  have hexec : exec (.clockStretch d n c) s = execClockStretch d n c s := rfl
  rw [hexec, execClockStretch, if_pos hworks]

/-! ## Aging (R210) -/

theorem exec_agingMeasure (a b : Nat) : exec (.agingMeasure d n a b) s = .next (agingMeasure s d n.val a b) := rfl

/-- The NV store holds a harness's shift, beside the frequency to which aging has lowered it. -/
def shiftRecorded (s : State) (d : Die) (h x : Nat) : State :=
  let l := (sparseGet (fun _ => (0, 0)) s.mem.aged (harKey d h)).2
  { s with mem.aged := sparseSet (fun _ => (0, 0)) s.mem.aged (harKey d h) (x, l) }

/-- With its loop off, a harness has no settled code, and its frequency stays. -/
theorem agingMeasure_loopOff {t : State} {a b x : Nat} (hworks : domWorks s d h = true) (hfw : fwAt s d 5 = true)
    (hx : x = unsigned 16 (agingShift a b)) (ht : t = wrapF (setF s fAGE_STAT_shift d h x) fAGE_STAT_meas d h)
    (hoff : flagF t fAVS_CTL_en d h = false) : agingMeasure s d h a b = shiftRecorded t d h x := by
  subst ht hx
  unfold agingMeasure
  dsimp only
  rw [if_neg (by rw [hworks, hfw]; decide), hoff, Bool.false_and, Bool.false_and, if_neg Bool.false_ne_true, shiftRecorded]

end

/-- Settles O14: each command answers what its checks, taken in turn, choose. -/
theorem harnessClocksFailAndSlew : Obligations.HarnessClocksFailAndSlew := by
  refine ⟨?fails, ?locks, ?freq, ?slews, ?loop, fun s d h c hworks => exec_clockStretch hworks c, ?aging⟩
  case fails =>
    intro s d h hworks hopen hgoes
    rw [exec_harnessClockFail, clockFail_running hworks hopen hgoes, clockFailed]
  case locks =>
    intro s d h a ha
    rw [exec_harnessClockRelock, exec_harnessClockRelock, relock_clockHeld ha, relock_clockHeld ha, if_pos rfl, if_neg Bool.false_ne_true]
    exact ⟨rfl, fun h0 => by rw [if_pos h0], fun h1 => by rw [if_neg h1]⟩
  case freq =>
    rintro s rq d h v f rfl
    rw [exec_clkFreqWrite, setFreq_eq rfl]
  case slews =>
    intro s d h hslews
    rw [exec_clkSlewDone]
    exact ⟨fun hwait => by rw [slewDone_waits hslews hwait], fun hend => by rw [slewDone_ends hslews hend]⟩
  case loop =>
    intro s t d h m r hworks ht
    rw [exec_avsLoopTick]
    exact ⟨fun hoff => congrArg _ (avsTick_loopOff hworks ht hoff),
      fun hon hlow hroom => congrArg _ (avsTick_rises hworks ht hon hlow hroom),
      fun hon hlow hhigh => congrArg _ (avsTick_holds hworks ht hon hlow hhigh)⟩
  case aging =>
    intro s t d h a b x hworks hfw hx ht hoff
    rw [exec_agingMeasure, agingMeasure_loopOff hworks hfw hx ht hoff, shiftRecorded]

end Sys2Proof.Machine
end

section
/-! PROOFS. Power domains: their targets (R212, R216, R219), the steps of their sequence and its failure (R214, R215, R217), and
what a proxy answers (R239). -/

namespace Sys2Proof.Machine

section
variable {s : State} {d : Die} {n : DomIx} {i : Nat}

/-! ## A write of DOM_CTL (R212, R216, R219) -/

theorem exec_domTargetWrite (rq : Requester) (v : Word) : exec (.domTargetWrite rq d n v) s = .next (domCtlWrite s rq d n.val v) := rfl

theorem domCtlWrite_host (v : Word) : domCtlWrite s .host d i v = s := if_pos rfl

theorem domCtlWrite_firmware {rq : Requester} (hrq : rq ≠ .host) (hw : domWritable d i = true) {v : Word} {g : DState}
    (hg : targetOf (bitsOf v.toNat 1 0) = some g) : domCtlWrite s rq d i v =
      if domSupports i g then setTarget (setF s fDOM_CTL_woa d i (bitsOf v.toNat 8 8)) d i g
      else setF s fDOM_CTL_woa d i (bitsOf v.toNat 8 8) := by
  unfold domCtlWrite hostBarred
  rw [decide_eq_false hrq, hw, if_neg (by decide), hg]

/-! ## The steps of a domain (R214, R215) -/

theorem exec_domainStepComplete (ok : Bool) (f : Finds) :
    exec (.domainStepComplete d n ok f) s = .next (domainStep s d n.val ok f) := rfl

@[simp] theorem getDom_lockClock (h : Nat) : getDom (lockClock s d h) d i = getDom s d i := by
  unfold lockClock
  rw [getDom_setF, getDom_setF, getDom_setF]

section
variable (h57 : i ≠ 57) (h63 : i ≠ 63)
include h57 h63

/-- The proxy goes on answering, and keeps what it holds, while its domain is in a step. -/
theorem afterStep_inStep (h : (getDom s d i).step ≠ .none) (was : DStep) (f : Finds) : afterStep s d i was f = s := by
  have hproxied : proxied s d i = true := by simp [proxied, h57, h63, h]
  have hgoes : upFailed s d i was = false := by simp [upFailed, h]
  rw [afterStep, hproxied, if_neg (by decide), hgoes, if_neg (by decide)]

/-- A step that leads to another step leaves what the proxy holds. -/
theorem domainStep_inStep {t : State} {ok : Bool} (ht : domStep s d i ok = t) (h : (getDom t d i).step ≠ .none) (f : Finds) :
    domainStep s d i ok f = t := by
  rw [domainStep, ht, afterStep_inStep h57 h63 h]

/-- A step whose end changes the domain's own state alone, and leaves it in a step. -/
theorem domainStep_setDom {x : DomSt} {ok : Bool} (ht : domStep s d i ok = setDom s d i x) (h : x.step ≠ .none) (f : Finds) :
    domainStep s d i ok f = setDom s d i x :=
  domainStep_inStep h57 h63 ht (by rwa [getDom_setDom]) f

variable {m : DomSt} (hm : getDom s d i = m)
include hm

theorem domainStep_passes {a b : DStep} (hab : (a, b) ∈ [(DStep.u2, DStep.u3), (.u3, .u4), (.d4, .d5)]) (ha : m.step = a)
    (ok : Bool) (f : Finds) : domainStep s d i ok f = setDom s d i { m with step := b } := by
  simp only [List.mem_cons, Prod.mk.injEq, List.not_mem_nil, or_false] at hab
  rcases hab with ⟨rfl, rfl⟩ | ⟨rfl, rfl⟩ | ⟨rfl, rfl⟩ <;>
    exact domainStep_setDom h57 h63 (by rw [domStep, hm, ha]) (by simp) f

theorem domainStep_locks (hu4 : m.step = .u4) (f : Finds) : domainStep s d i true f =
    (let t := setDom s d i { m with step := if m.fast then .u6 else .u5 }
     if i < 36 then lockClock t d i else t) := by
  have hstep : (if m.fast then DStep.u6 else DStep.u5) ≠ .none := by split <;> decide
  refine domainStep_inStep h57 h63 (by rw [domStep, hm, hu4]; rfl) ?_ f
  dsimp only
  split
  · rw [getDom_lockClock, getDom_setDom]
    exact hstep
  · rw [getDom_setDom]
    exact hstep

theorem domainStep_lockTriedAgain (hu4 : m.step = .u4) (hfirst : m.locks = 0) (f : Finds) :
    domainStep s d i false f = setDom s d i { m with locks := 1 } := by
  refine domainStep_setDom h57 h63 ?_ (by dsimp only; rw [hu4]; decide) f
  rw [domStep, hm, hu4]
  exact (if_neg Bool.false_ne_true).trans (if_pos hfirst)

theorem domainStep_isolates (hd2 : m.step = .d2) (hdown : m.goal ≠ .on) (ok : Bool) (f : Finds) :
    domainStep s d i ok f = setDom s d i { m with step := .d3 } := by
  refine domainStep_setDom h57 h63 ?_ (by simp) f
  rw [domStep, hm, hd2]
  exact if_neg hdown

theorem domainStep_saves (hd3 : m.step = .d3) (ok : Bool) (f : Finds) :
    domainStep s d i ok f = setDom s d i { m with step := if m.fall = .ret then .d4 else .d5 } := by
  refine domainStep_setDom h57 h63 ?_ (by dsimp only; split <;> decide) f
  rw [domStep, hm, hd3]
  exact (apply_ite (fun b => setDom s d i { m with step := b }) _ _ _).symm

end

/-! ## A precharge that takes too long (R217) -/

theorem exec_domainPrechargeTimeout (hu1 : (getDom s d n.val).step = .u1) : exec (.domainPrechargeTimeout d n) s =
    .next (afterStep (domFails s d n.val 1) d n.val .u1 cleanFinds) := by
  have hexec : exec (.domainPrechargeTimeout d n) s = execDomainPrechargeTimeout d n s := rfl
  rw [hexec, execDomainPrechargeTimeout, if_pos hu1]

/-! ## What a proxy answers (R239) -/

variable {p : Packet}

@[simp] theorem flagF_addAwait (f : Fld) (j : Nat) : flagF (addAwait s p) f d j = flagF s f d j := by
  unfold addAwait
  split <;> rfl

@[simp] theorem heldPackets_addAwait (k : Nat) : heldPackets (addAwait s p) k = heldPackets s k := by
  unfold addAwait
  split <;> rfl

theorem addAwait_event (hcls : p.cls = .event) : addAwait s p = s := if_neg (by rw [isAsked, hcls]; decide)

/-- A packet that a proxied domain's sender may send is the proxy's to answer. -/
theorem exec_proxyPacket (hex : domExists d n.val = true) (hprox : proxied s d n.val = true) (hsend : maySend s p = true) :
    exec (.proxyPacket d n p) s = .next (proxyTake (addAwait s p) d n.val p) := by
  have hexec : exec (.proxyPacket d n p) s = execProxyPacket d n p s := rfl
  rw [hexec, execProxyPacket, if_pos (by rw [hex, hprox, hsend]; decide)]

theorem proxyTake_unlessResponse (h : p.cls ≠ .response) : proxyTake s d i p = proxyAnswer s d i p := if_neg h

theorem proxyTake_request (hcls : p.cls = .request) : proxyTake s d i p =
    if flagF s fDOM_CTL_woa d i then
      setTarget (setHeld s (domKey d i) (heldPackets s (domKey d i) ++ [p])) d i .on
    else countF (respond s p 1 []) fPROXY_STAT_asleep d i := by
  rw [proxyTake_unlessResponse (by rw [hcls]; decide), proxyAnswer, hcls]
  rfl

theorem proxyTake_eventDropped (hcls : p.cls = .event) (hwoa : flagF s fDOM_CTL_woa d i = false) :
    proxyTake s d i p = countF s fPROXY_STAT_ev_drop d i := by
  rw [proxyTake_unlessResponse (by rw [hcls]; decide), proxyAnswer, hcls]
  exact if_neg (by rw [hwoa]; decide)

end

/-- Settles O15: a step that leads to another step leaves what the proxy holds, and the rest is what the checks of each command,
taken in turn, choose. -/
theorem domainsStepAndAnswer : Obligations.DomainsStepAndAnswer := by
  refine ⟨?target, ?steps, fun s d n => exec_domainPrechargeTimeout, ?asleep, ?woken, ?dropped⟩
  case target =>
    rintro s rq d n v t rfl
    rw [exec_domTargetWrite]
    refine ⟨?_, fun hrq hw g hg => ?_⟩
    · rintro rfl
      rw [domCtlWrite_host]
    · rw [domCtlWrite_firmware hrq hw hg]
      exact ⟨fun h => by rw [if_pos h], fun h => by rw [if_neg (by rw [h]; decide)]⟩
  case steps =>
    intro s d n m ok f hm h57 h63
    rw [exec_domainStepComplete, exec_domainStepComplete, exec_domainStepComplete]
    exact ⟨fun a b hab ha => congrArg _ (domainStep_passes h57 h63 hm hab ha ok f),
      fun hu4 => congrArg _ (domainStep_locks h57 h63 hm hu4 f),
      fun hu4 hfirst => congrArg _ (domainStep_lockTriedAgain h57 h63 hm hu4 hfirst f),
      fun hd2 hdown => congrArg _ (domainStep_isolates h57 h63 hm hd2 hdown ok f),
      fun hd3 => congrArg _ (domainStep_saves h57 h63 hm hd3 ok f)⟩
  case asleep =>
    intro s d n p hex hprox hcls hsend hwoa
    rw [exec_proxyPacket hex hprox hsend, proxyTake_request hcls, flagF_addAwait, hwoa, if_neg Bool.false_ne_true]
  case woken =>
    intro s d n p hex hprox hcls hsend hwoa
    rw [exec_proxyPacket hex hprox hsend, proxyTake_request hcls, flagF_addAwait, hwoa, if_pos rfl, heldPackets_addAwait]
  case dropped =>
    intro s d n p hex hprox hcls hsend hwoa
    rw [exec_proxyPacket hex hprox hsend, addAwait_event hcls, proxyTake_eventDropped hcls hwoa]

end Sys2Proof.Machine
end

section
/-! PROOFS. An access of the host to a line of its memory window (R239, R259, R262, R263, R266, R319 to R321): what a stack's reads
and writes leave, the case lemmas of the command, and what a line reads as after a write of it. -/

namespace Sys2Proof.Machine

/-! ## What the errors of a stack leave (R263, R266) -/

section
variable {s : State} {d : Die} {off n : Nat} {bs : List Byte}

@[simp] theorem setHbm_hbm (v : HbmSt) : (setHbm s d v).mem.hbm = s.mem.hbm := rfl

@[simp] theorem setHbm_allocs (v : HbmSt) : (setHbm s d v).mem.allocs = s.mem.allocs := rfl

@[simp] theorem showRetired_hbm : (showRetired s d).mem.hbm = s.mem.hbm := by
  unfold showRetired
  dsimp only
  split <;> simp

@[simp] theorem retireEvent_hbm (page : Nat) : (retireEvent s d page).mem.hbm = s.mem.hbm := by
  rw [retireEvent, raiseEvent_mem]

@[simp] theorem retirePc_hbm (pc page : Nat) : (retirePc s d pc page).mem.hbm = s.mem.hbm := by
  unfold retirePc
  dsimp only
  split <;> simp

@[simp] theorem withdrawGranule_hbm (page : Nat) : (withdrawGranule s d page).mem.hbm = s.mem.hbm := by
  unfold withdrawGranule
  dsimp only
  split <;> simp

/-- The retirement of a page moves no byte: it is redirected inside the stack (R266). -/
@[simp] theorem retirePage_hbm : (retirePage s d off).mem.hbm = s.mem.hbm := by
  unfold retirePage
  dsimp only
  split
  · rfl
  · split
    · simp
    · split <;> simp

/-- An uncorrectable error is recorded, and the bytes of the stack stay (R263). -/
@[simp] theorem demandUe_hbm : (demandUe s d off).mem.hbm = s.mem.hbm := by
  unfold demandUe
  rw [retirePage_hbm]
  split <;> simp

/-! ## The poison of a range (R263, R266) -/

/-- Does a granule lie in a range? -/
def granuleIn (off n g : Nat) : Bool := decide (off < g * 32 + 32) && decide (g * 32 < off + n)

theorem poisoned_eq : poisoned s d off n = (getHbm s d).poison.any (granuleIn off n) := rfl

/-- A write leaves marked the granules that lie outside it. -/
theorem poison_clearPoison : (getHbm (clearPoison s d off n) d).poison =
    (getHbm s d).poison.filter (fun g => decide (off + n ≤ g * 32) || decide (g * 32 + 32 ≤ off)) := by
  unfold clearPoison
  dsimp only
  split
  case isTrue h => rw [List.isEmpty_iff.mp h, List.filter_nil]
  case isFalse h => rw [getHbm_setHbm, if_pos rfl]

theorem poisoned_clearPoison : poisoned (clearPoison s d off n) d off n = false := by
  rw [poisoned_eq, poison_clearPoison, List.any_eq_false]
  intro g hg
  obtain ⟨-, hout⟩ := List.mem_filter.mp hg
  simp only [Bool.or_eq_true, decide_eq_true_eq] at hout
  simp only [granuleIn, Bool.and_eq_true, decide_eq_true_eq]
  omega

theorem poisoned_writeHbm : poisoned (writeHbm s d off bs) d off bs.length = false := poisoned_clearPoison

theorem poisoned_poisonLine (hn : 0 < n) : poisoned (poisonLine s d off) d off n = true := by
  rw [poisoned_eq, poisonLine, getHbm_setHbm, if_pos rfl, List.any_eq_true]
  refine ⟨off / 32, List.mem_cons_self, ?_⟩
  simp only [granuleIn, Bool.and_eq_true, decide_eq_true_eq]
  omega

/-! ## What a check of a range finds (R262, R263) -/

theorem stackCheck_uncorrectable (hn : 0 < n) : stackCheck s d off n .uncorrectable 0 = (demandUe s d off, true) :=
  if_pos (by simp [hn])

theorem stackCheck_poisoned {out : ReadOutcome} (hout : out ≠ .uncorrectable) (h : poisoned s d off n = true) {g : Nat}
    (hg : (getHbm s d).poison.find? (granuleIn off n) = some g) : stackCheck s d off n out 0 = (demandUe s d (g * 32), true) := by
  unfold granuleIn at hg
  unfold stackCheck
  dsimp only
  rw [if_neg (by simp [hout]), if_pos h, hg]

theorem stackCheck_clean (h : poisoned s d off n = false) : stackCheck s d off n .clean 0 = (s, false) := by
  unfold stackCheck
  dsimp only
  rw [if_neg (by simp), if_neg (by rw [h]; decide)]

theorem stackCheck_corrected (h : poisoned s d off n = false) :
    stackCheck s d off n .corrected 0 = (correctedAt s d off, false) := by
  unfold stackCheck
  dsimp only
  rw [if_neg (by simp), if_neg (by rw [h]; decide)]
  rfl

/-- A range that is poisoned has a first granule that is. -/
theorem exists_find_of_poisoned (h : poisoned s d off n = true) : ∃ g, (getHbm s d).poison.find? (granuleIn off n) = some g := by
  obtain ⟨g, hg, hin⟩ := List.any_eq_true.mp h
  exact Option.isSome_iff_exists.mp (List.find?_isSome.mpr ⟨g, hg, hin⟩)

end

/-! ## A line as its stack serves it (R320, R321) -/

section
variable {s : State} {d : Die} {off : Nat} {bs : List Byte} {p : Bool}

/-- The state after a write of bytes that are poison or not. -/
def lineWritten (s : State) (d : Die) (off : Nat) (bs : List Byte) (p : Bool) : State :=
  if p then poisonLine (writeHbm s d off bs) d off else writeHbm s d off bs

/-- A write changes the bytes of the stack and what is marked poisoned, and nothing else. -/
theorem lineWritten_eq : ∃ st, lineWritten s d off bs p =
    { s with mem := { s.mem with hbm := memWrite s.mem.hbm (hbmAddr d off) bs, stack := st } } := by
  have hwrite : ∃ st, writeHbm s d off bs =
      { s with mem := { s.mem with hbm := memWrite s.mem.hbm (hbmAddr d off) bs, stack := st } } := by
    unfold writeHbm clearPoison
    dsimp only
    split
    · exact ⟨s.mem.stack, rfl⟩
    · exact ⟨_, rfl⟩
  obtain ⟨st, hst⟩ := hwrite
  unfold lineWritten
  rw [hst]
  split
  · exact ⟨_, rfl⟩
  · exact ⟨st, rfl⟩

theorem lineWritten_hbm : (lineWritten s d off bs p).mem.hbm = memWrite s.mem.hbm (hbmAddr d off) bs := by
  obtain ⟨st, h⟩ := lineWritten_eq (s := s) (d := d) (off := off) (bs := bs) (p := p)
  rw [h]

@[simp] theorem hdmReachable_lineWritten : hdmReachable (lineWritten s d off bs p) = hdmReachable s := by
  obtain ⟨st, h⟩ := lineWritten_eq (s := s) (d := d) (off := off) (bs := bs) (p := p)
  rw [h]
  rfl

@[simp] theorem windowGranule_lineWritten (g : Nat) : windowGranule (lineWritten s d off bs p) g = windowGranule s g := by
  obtain ⟨st, h⟩ := lineWritten_eq (s := s) (d := d) (off := off) (bs := bs) (p := p)
  rw [h]
  rfl

@[simp] theorem proxied_lineWritten (e : Die) (i : Nat) : proxied (lineWritten s d off bs p) e i = proxied s e i := by
  obtain ⟨st, h⟩ := lineWritten_eq (s := s) (d := d) (off := off) (bs := bs) (p := p)
  rw [h]
  rfl

theorem readHbm_lineWritten : readHbm (lineWritten s d off bs p) d off bs.length = bs := by
  rw [readHbm, lineWritten_hbm, memRead_memWrite]

theorem poisoned_lineWritten (hn : 0 < bs.length) : poisoned (lineWritten s d off bs p) d off bs.length = p := by
  cases p
  · exact poisoned_writeHbm
  · exact poisoned_poisonLine hn

theorem memByte_lineWritten_out {a : Nat} (h : a < hbmAddr d off ∨ hbmAddr d off + bs.length ≤ a) :
    memByte (lineWritten s d off bs p).mem.hbm a = memByte s.mem.hbm a := by
  rw [lineWritten_hbm, memByte_memWrite_out _ _ _ _ h]

end

/-! ## HDM_ACCESS (R239, R319, R320) -/

section
variable {s : State} {l : Fin 738197504} {w : Option (List Byte)} {p : Bool} {u : ReadOutcome}

theorem exec_hdmAccess : exec (.hdmAccess l w p u) s = .next (hdmAccess s l.val w p u) := rfl

theorem hdmAccess_unreachable {line : Nat} (h : hdmReachable s = false) : hdmAccess s line w p u = s :=
  if_pos (by rw [h]; decide)

section
variable {line : Nat} (hreach : hdmReachable s = true)
include hreach

theorem hdmAccess_outside (h : windowGranule s (line * 64 / 4096) = false) : hdmAccess s line w p u =
    if w.isSome then countF s fHOST_ERR_hdm_denied 0 0
    else emit (countF s fHOST_ERR_hdm_denied 0 0) (.window (List.replicate 64 0) true) :=
  (if_neg (by rw [hreach]; decide)).trans (if_pos (by rw [h]; decide))

variable (hin : windowGranule s (line * 64 / 4096) = true) {d : Die} {o : Nat} (hd : d = hdmStack (line * 64))
  (ho : o = hdmOff (line * 64))
include hin hd ho

theorem hdmAccess_proxied (h : proxied s d (48 + pcOf o / 4) = true) : hdmAccess s line w p u =
    hdmProxy s d (48 + pcOf o / 4) { line := line, wr := w, poison := p } := by
  subst hd ho
  exact (if_neg (by rw [hreach]; decide)).trans ((if_neg (by rw [hin]; decide)).trans (if_pos h))

variable (hon : proxied s d (48 + pcOf o / 4) = false)
include hon

theorem hdmAccess_served : hdmAccess s line w p u = hdmServe s { line := line, wr := w, poison := p } u := by
  subst hd ho
  exact (if_neg (by rw [hreach]; decide)).trans ((if_neg (by rw [hin]; decide)).trans (if_neg (by rw [hon]; decide)))

theorem hdmAccess_write (bs : List Byte) :
    hdmAccess s line (some bs) p u = lineWritten s d o (padTo 64 (bs.take 64)) p := by
  rw [hdmAccess_served hreach hin hd ho hon]
  subst hd ho
  rfl

theorem hdmAccess_read {r : State} {bad : Bool} (hcheck : stackCheck s d o 64 u 0 = (r, bad)) :
    hdmAccess s line none p u = emit r (.window (readHbm r d o 64) bad) := by
  rw [hdmAccess_served hreach hin hd ho hon]
  subst hd ho
  rw [hdmServe]
  dsimp only
  rw [hcheck]

end

/-- A read of a line that was written answers what was written, poison or not. -/
theorem hdmAccess_readsBack {line : Nat} {d : Die} {o : Nat} {bs : List Byte} (hreach : hdmReachable s = true)
    (hin : windowGranule s (line * 64 / 4096) = true) (hd : d = hdmStack (line * 64)) (ho : o = hdmOff (line * 64))
    (hon : proxied s d (48 + pcOf o / 4) = false) (hlen : bs.length = 64) :
    ∃ r, hdmAccess (lineWritten s d o bs p) line none false .clean = emit r (.window bs p) ∧
      (p = false → r = lineWritten s d o bs p) ∧ r.mem.hbm = (lineWritten s d o bs p).mem.hbm := by
  have hbytes : readHbm (lineWritten s d o bs p) d o 64 = bs := by rw [← hlen, readHbm_lineWritten]
  have hpoison : poisoned (lineWritten s d o bs p) d o 64 = p := by rw [← hlen, poisoned_lineWritten (by omega)]
  rw [← hdmReachable_lineWritten (d := d) (off := o) (bs := bs) (p := p)] at hreach
  rw [← windowGranule_lineWritten (d := d) (off := o) (bs := bs) (p := p)] at hin
  rw [← proxied_lineWritten (d := d) (off := o) (bs := bs) (p := p)] at hon
  generalize lineWritten s d o bs p = t at *
  cases p
  case false =>
    exact ⟨t, by rw [hdmAccess_read hreach hin hd ho hon (stackCheck_clean hpoison), hbytes], fun _ => rfl, rfl⟩
  case true =>
    obtain ⟨g, hg⟩ := exists_find_of_poisoned hpoison
    have hsame : (demandUe t d (g * 32)).mem.hbm = t.mem.hbm := demandUe_hbm
    refine ⟨demandUe t d (g * 32), ?_, by simp, hsame⟩
    rw [hdmAccess_read hreach hin hd ho hon (stackCheck_poisoned (by decide) hpoison hg), readHbm, hsame, ← readHbm, hbytes]

end

/-- Settles O59: the write stores the 64 bytes and leaves the line poisoned or not, as its data are; a read of such a line answers
those bytes, and records an error only where it is poisoned. -/
theorem hdmReadsBackWhatWasWritten : Obligations.HdmReadsBackWhatWasWritten := by
  intro s l bs p u hreach hin hlen hon
  have hline : padTo 64 (bs.take 64) = bs := by simp [padTo, List.take_of_length_le, hlen]
  obtain ⟨r, hread, hsame, hhbm⟩ := hdmAccess_readsBack (p := p) hreach hin rfl rfl hon hlen
  refine ⟨lineWritten s (hdmStack (l.val * 64)) (hdmOff (l.val * 64)) bs p, ?_, ⟨r, ?_, hsame, hhbm⟩,
    fun a ha => memByte_lineWritten_out (by rwa [hlen])⟩
  · rw [exec_hdmAccess, hdmAccess_write hreach hin rfl rfl hon, hline]
  · rw [exec_hdmAccess, hread]

end Sys2Proof.Machine
end

section
/-! PROOFS. The windows of the host (R239, R261, R319 to R321, R335, R338, R339): the host-managed window and its size, and the beat
window, what is published in it and its areas. -/

namespace Sys2Proof.Machine

/-! ## What a proxy does with an access to a line (R239) -/

section
variable {s : State} {d : Die} {i : Nat} {x : HeldLine}

theorem hdmProxy_wakes (h : flagF s fDOM_CTL_woa d i = true) :
    hdmProxy s d i x = setTarget (setHeldLines s (domKey d i) (heldLines s (domKey d i) ++ [x])) d i .on := if_pos h

theorem hdmProxy_asleep (h : flagF s fDOM_CTL_woa d i = false) : hdmProxy s d i x =
    if x.wr.isSome then countF s fPROXY_STAT_asleep d i
    else emit (countF s fPROXY_STAT_asleep d i) (.window (List.replicate 64 0) true) :=
  if_neg (by rw [h]; decide)

end

/-! ## WINDOW_SET (R261, R335) -/

section
variable {s : State} {c : HostCmd}

/-- The stack whose window the command sets. -/
def opStack (c : HostCmd) : Die := if bitOf (opOf c 0) 0 then 1 else 0

theorem exec_windowSet : exec (.windowSet c) s = .next (windowSet s c) := rfl

theorem windowSet_unreachable (h : hdmReachable s = false) : windowSet s c = finish s c 6 0 := if_pos (by rw [h]; decide)

section
variable (hreach : hdmReachable s = true)
include hreach

theorem windowSet_unfit (h : windowSize s (opStack c) (bitsOf (opOf c 1) 22 0) = none) :
    windowSet s c = finish s c (windowRefusal s (opStack c)) 0 := by
  unfold opStack at *
  unfold windowSet
  dsimp only
  rw [if_neg (by rw [hreach]; decide), h]

theorem windowSet_done {t : State} {b : Nat} (h : windowSize s (opStack c) (bitsOf (opOf c 1) 22 0) = some (t, b)) :
    windowSet s c = finish t c 0 (b + (if opStack c = 1 then 0x580000 else 0)) := by
  unfold opStack at *
  unfold windowSet
  dsimp only
  rw [if_neg (by rw [hreach]; decide), h]

end

/-! ## BEATWIN_SET (R338) -/

/-- The state with the beat window at a place and of an area size, and no area shown. -/
def withWindow (s : State) (base area : Nat) : State :=
  { s with host := { s.host with win := { s.host.win with base := base, area := area, next := (getBeat s 0).ord, done := [], shown := none } } }

/-- The header block of a beat window, with no area shown. -/
def windowHeader (area : Nat) : List Byte := padTo 64 (leBytes 4 0x4E575442 ++ leBytes 12 0 ++ leBytes 8 (area * 4096))

theorem exec_beatwinSet : exec (.beatwinSet c) s = .next (beatwinSet s c) := rfl

theorem beatwinSet_unreachable (h : hdmReachable s = false) : beatwinSet s c = failStaged s c 6 0 := if_pos (by rw [h]; decide)

section
variable (hreach : hdmReachable s = true) {b a : Nat} (hb : b = bitsOf (opOf c 0) 23 0) (ha : a = bitsOf (opOf c 1) 15 0)
include hreach hb ha

theorem beatwinSet_outside (hon : a ≠ 0) (h : windowRange s b (1 + 3 * a) = false) : beatwinSet s c = failStaged s c 2 0 := by
  subst hb ha
  exact (if_neg (by rw [hreach]; decide)).trans (if_pos ⟨hon, by rw [h]; decide⟩)

theorem beatwinSet_fits (h : ¬ (a ≠ 0 ∧ (!windowRange s b (1 + 3 * a)) = true)) : beatwinSet s c =
    stagedOk (if a = 0 then withWindow s b a else writeHdm (withWindow s b a) (b * 4096) (windowHeader a)) c 0 .none := by
  subst hb ha
  exact (if_neg (by rw [hreach]; decide)).trans (if_neg h)

theorem beatwinSet_disables (h : a = 0) : beatwinSet s c = stagedOk (withWindow s b a) c 0 .none := by
  rw [beatwinSet_fits hreach hb ha (fun hout => hout.1 h), if_pos h]

theorem beatwinSet_places (hon : a ≠ 0) (h : windowRange s b (1 + 3 * a) = true) :
    beatwinSet s c = stagedOk (writeHdm (withWindow s b a) (b * 4096) (windowHeader a)) c 0 .none := by
  rw [beatwinSet_fits hreach hb ha (fun hout => by simp [h] at hout), if_neg hon]

end

/-! ## BEATWIN_PUB (R338) -/

/-- What is published but for one yarn. -/
def otherPubs (s : State) (n : Nat) : Sparse (BitVec 4) := s.host.win.pubs.filter (fun e => decide (e.1 ≠ n))

theorem exec_beatwinPub : exec (.beatwinPub c) s = .next (beatwinPub s c) := rfl

section
variable {n : Nat} (hn : n = bitsOf (opOf c 0) 15 0)
include hn

section
variable (hremove : bitOf (opOf c 0) 31 = true)
include hremove

theorem beatwinPub_removes (h : (otherPubs s n).length < s.host.win.pubs.length) :
    beatwinPub s c = stagedOk (setPubs s (otherPubs s n)) c 0 .none := by
  subst hn
  exact (if_pos hremove).trans (if_pos h)

theorem beatwinPub_notPublished (h : s.host.win.pubs.length ≤ (otherPubs s n).length) :
    beatwinPub s c = failStaged s c 4 0 := by
  subst hn
  exact (if_pos hremove).trans (if_neg h.not_gt)

end

section
variable (hpub : bitOf (opOf c 0) 31 = false)
include hpub

theorem beatwinPub_noYarn (h : yarnHome s n = none) : beatwinPub s c = failStaged s c 4 0 := by
  subst hn
  exact (if_neg (by rw [hpub]; decide)).trans (if_pos (by rw [h]; rfl))

variable {d : Die} (hyarn : yarnHome s n = some d)
include hyarn

theorem beatwinPub_windowOff (h : winOn s = false) : beatwinPub s c = failStaged s c 3 0 := by
  subst hn
  exact (if_neg (by rw [hpub]; decide)).trans ((if_neg (by simp [hyarn])).trans (if_pos (by rw [h]; rfl)))

theorem beatwinPub_publishes (hon : winOn s = true) {m : BitVec 4} (hm : m = BitVec.ofNat 4 (bitsOf (opOf c 1) 3 0))
    (hroom : (otherPubs s n).length < 4096)
    (hfits : 64 + ((otherPubs s n).map (fun e => entryLen s e.1 e.2)).sum + entryLen s n m ≤ winArea s) :
    beatwinPub s c = stagedOk (setPubs s ((otherPubs s n).filter (fun e => decide (e.1 < n)) ++ [(n, m)] ++
      (otherPubs s n).filter (fun e => decide (n < e.1)))) c 0 .none := by
  subst hn hm
  exact (if_neg (by rw [hpub]; decide)).trans ((if_neg (by simp [hyarn])).trans
    ((if_neg (by rw [hon]; decide)).trans (if_neg (not_or.mpr ⟨hroom.not_ge, hfits.not_gt⟩))))

end
end
end

/-! ## BEATWIN_AREA_WRITE (R339) -/

section
variable {s : State}

theorem exec_beatwinAreaWrite : exec .beatwinAreaWrite s = .next (beatwinArea s) := rfl

theorem beatwinArea_off (h : winOn s = false) : beatwinArea s = s := if_pos (by rw [h]; rfl)

/-- The state in which the area of a checkpoint has been written, before it is shown. -/
def areaWritten (s t : State) (x k : Nat) : State :=
  { t with host.win := { s.host.win with
      next := x + 1
      old := s.host.win.old.filter (fun e => decide (x < e.1))
      done := s.host.win.done.filter (fun o => (numOfOrd t 0 o).toNat % 3 ≠ k % 3) ++ [x] } }

theorem beatwinArea_copies (hon : winOn s = true) {x : Nat} (hx : x = nextArea s) (h0 : 0 < x) (hord : x ≤ (getBeat s 0).ord)
    (hcmt : x ≤ (getBeat s 0).cmt + 3) (hready : (pubsAt s.host.win x).all (fun e => entryReady s e.1 x) = true) {k a : Nat}
    (hk : k = (numOfOrd s 0 x).toNat) (ha : a = s.host.win.base * 4096 + 0x1000 + k % 3 * winArea s) :
    beatwinArea s = winShow (areaWritten s (writeHdm s a ((areaBytes s x).take (winArea s))) x k) := by
  subst hx hk ha
  exact if_neg (by simp [hon, h0.ne', hord.not_gt, hcmt.not_gt, hready])

end

/-- Settles O36: each command does what its checks, taken in turn, choose. -/
theorem windowsOfTheHost : Obligations.WindowsOfTheHost := by
  refine ⟨?unreachable, ?outside, ?served, ?proxied, ?size, ?place, ?publish, ?off, ?area⟩
  case unreachable =>
    intro s l w p u h
    rw [exec_hdmAccess, hdmAccess_unreachable h]
  case outside =>
    intro s l p u hreach hout
    refine ⟨fun bs => ?_, ?_⟩
    · rw [exec_hdmAccess, hdmAccess_outside hreach hout, if_pos Option.isSome_some]
    · rw [exec_hdmAccess, hdmAccess_outside hreach hout, if_neg (by decide)]
  case served =>
    intro s l u d o hreach hin hd ho hon
    simp only [exec_hdmAccess]
    refine ⟨fun bs => ⟨congrArg _ (hdmAccess_write hreach hin hd ho hon bs), congrArg _ (hdmAccess_write hreach hin hd ho hon bs)⟩,
      fun p => ⟨congrArg _ (hdmAccess_read hreach hin hd ho hon (stackCheck_uncorrectable (by decide))),
        fun hp => ⟨congrArg _ (hdmAccess_read hreach hin hd ho hon (stackCheck_clean hp)), ?_⟩, ?_⟩⟩
    · rintro t rfl
      exact congrArg _ (hdmAccess_read hreach hin hd ho hon (stackCheck_corrected hp))
    · rintro hp g t hg rfl
      exact congrArg _ (hdmAccess_read hreach hin hd ho hon (stackCheck_poisoned (by decide) hp hg))
  case proxied =>
    rintro s l wr p u d i k t hreach hin hd rfl rfl hprox
    rw [exec_hdmAccess, hdmAccess_proxied hreach hin hd rfl hprox]
    refine ⟨fun h => by rw [hdmProxy_wakes h], ?_⟩
    rintro h rfl
    rw [hdmProxy_asleep h]
    refine ⟨fun hw => by rw [if_pos (Option.isSome_iff_ne_none.mpr hw)], ?_⟩
    rintro rfl
    rw [if_neg (by simp)]
  case size =>
    rintro s c d rfl
    rw [exec_windowSet, exec_beatwinSet]
    refine ⟨fun h => by rw [windowSet_unreachable h, beatwinSet_unreachable h]; exact ⟨rfl, rfl⟩, fun hreach => ⟨?_, ?_⟩⟩
    · rintro h r rfl
      exact congrArg _ (windowSet_unfit hreach h)
    · exact fun t b h => congrArg _ (windowSet_done hreach h)
  case place =>
    rintro s t c b a hreach hb ha rfl
    rw [exec_beatwinSet]
    exact ⟨fun h => congrArg _ (beatwinSet_disables hreach hb ha h), fun hon h => by rw [beatwinSet_outside hreach hb ha hon h],
      fun hon h => congrArg _ (beatwinSet_places hreach hb ha hon h)⟩
  case publish =>
    rintro s c n ps os hn rfl rfl
    rw [exec_beatwinPub]
    refine ⟨fun hr => ⟨fun h => congrArg _ (beatwinPub_removes hn hr h), fun h => congrArg _ (beatwinPub_notPublished hn hr h)⟩,
      fun hp => ⟨fun h => by rw [beatwinPub_noYarn hn hp h], fun d hy => ⟨fun h => by rw [beatwinPub_windowOff hn hp hy h], ?_⟩⟩⟩
    exact fun hon m hm hroom hfits => congrArg _ (beatwinPub_publishes hn hp hy hon hm hroom hfits)
  case off =>
    intro s h
    rw [exec_beatwinAreaWrite, beatwinArea_off h]
  case area =>
    rintro s t x a k w hon rfl hx h0 hord hcmt hready hk ha rfl
    rw [exec_beatwinAreaWrite]
    exact congrArg _ (beatwinArea_copies hon hx h0 hord hcmt hready hk ha)

end Sys2Proof.Machine
end

section
/-! PROOFS. The network of a die (R226, R228, R231 to R237, R247): the way of a packet to its endpoint, event slots, requests that
time out, lock-up, and the steps of a generation switch. -/

namespace Sys2Proof.Machine

/-! ## The way of a packet (R226, R228, R231, R233, R235) -/

section
variable {s : State} {d : Die} {p : Packet} {es : List (Fin 42 × FlitErr)} {f : Finds}

theorem exec_networkPacketReceive : exec (.networkPacketReceive p es f) s = .next (packetReceive s p es f) := rfl

/-- A packet that needs no token may always be sent. -/
theorem maySend_event (hcls : p.cls = .event) : maySend s p = true := by simp [maySend, isAsked, hcls]

/-- An event enters the network without a token, behind the stray packets that now go on. -/
theorem packetReceive_event (hcls : p.cls = .event) (hsrc : epDie p.src = d) (hon : domOn s d 57 = true)
    (hheld : dieHeld s d = false) : packetReceive s p es f = passFound (passStray s d) d es p f := by
  subst hsrc
  unfold packetReceive
  dsimp only
  rw [if_neg (by simp [hon, hheld, maySend_event hcls]), addAwait_event hcls]

/-- Routers that find no error pass a packet on as it is. -/
theorem passErrors_clean (hclean : ∀ e ∈ es, e.2 = .none) : passErrors s d es p = (s, some p) := by
  induction es with
  | nil => rfl
  | cons e es ih =>
    obtain ⟨r, x⟩ := e
    obtain ⟨rfl, hrest⟩ := List.forall_mem_cons.mp hclean
    rw [passErrors, ih hrest]

theorem passFound_clean (hclean : ∀ e ∈ es, e.2 = .none) : passFound s d es p f = passNetwork s d p f := by
  rw [passFound, passErrors_clean hclean]

/-- With no switch running, the tables bring a packet to an endpoint of the die. -/
theorem passNetwork_arrives (hswitch : flagF s fNOC_STAT_switching d 0 = false) (hrouter : noRouter d p = false)
    (hroute : routed s d p = true) (hdst : epDie p.dst = d) : passNetwork s d p f = packetIn s d p f := by
  rw [passNetwork, hswitch, if_neg (by simp), if_neg (by simp [hrouter]), if_neg (by simp [hroute]), if_pos hdst]

theorem packetIn_delivered {n : Nat} (hdom : epDomain p.dst = some n) (hon : proxied s d n = false) :
    packetIn s d p f = deliverPacket s d n p f := by
  rw [packetIn, hdom]
  exact if_neg (by rw [hon]; decide)

theorem deliverPacket_event {n : Nat} (hcls : p.cls = .event) (hop : p.op = 0x18) (hgood : p.poison = false) :
    deliverPacket s d n p f = takeEvent s d (eventOf p) f.taken := by
  rw [deliverPacket, hcls]
  exact if_neg (by simp [hgood, opKnown, hcls, hop])

end

/-! ## Events, timeouts and lock-up (R228, R231, R232, R234, R247) -/

section
variable {s : State} {d : Die}

theorem exec_eventReceive (e : NetEvent) (taken : Bool) : exec (.eventReceive d e taken) s = .next (takeEvent s d e taken) := rfl

theorem exec_networkLockup :
    exec (.networkLockup d) s = .next (assertReset s 10 { level := reachOf s d 10, die := d, har := 0 }) := rfl

/-- A request that times out returns its token and completes with status 3 at its own endpoint; one that waits for its place in the
tracker crosses. -/
theorem exec_requestTimeout {ep tok : BitVec 8} {a : Await}
    (ha : s.net.awaits.find? (fun a => a.die = d ∧ a.ep = ep ∧ a.token = tok) = some a) : exec (.requestTimeout d ep tok) s =
      .next (forwardNext (emit (dropAwait s d ep tok) (.packet (completion a (flagF s fNOC_STAT_gen d 0) 3))) d) := by
  have hexec : exec (.requestTimeout d ep tok) s = execRequestTimeout d ep tok s := rfl
  rw [hexec, execRequestTimeout, ha]

/-! ## A generation switch (R236, R237) -/

theorem exec_genSwitchStart {rq : Requester} (hrq : rq ≠ .host) (hidle : flagF s fNOC_STAT_switching d 0 = false) :
    exec (.genSwitchStart rq d) s =
      .next (setF { s with net.switched := s.net.switched.filter (fun e => decide (e.1 ≠ d.val)) } fNOC_STAT_switching d 0 1) :=
  congrArg _ (if_neg (by simp [hostBarred, hrq, hidle]))

section
variable (hruns : flagF s fNOC_STAT_switching d 0 = true)
include hruns

theorem exec_genSwitchRouter {r : Fin 42} (hnew : (d.val, r.val) ∉ s.net.switched)
    (hempty : strayAt s d r.val (flagF s fNOC_STAT_gen d 0) = false) :
    exec (.genSwitchRouter d r) s = .next { s with net.switched := s.net.switched ++ [(d.val, r.val)] } :=
  congrArg _ (if_pos (by simp [hruns, hnew, hempty]))

/-- The state in which a switch is over: the other generation is in force, and the switch is counted. -/
def switchOver (s : State) (d : Die) : State :=
  let t := wrapF (setF (setF s fNOC_STAT_gen d 0 (1 - getF s fNOC_STAT_gen d 0)) fNOC_STAT_switching d 0 0) fNOC_STAT_sw_count d 0
  setHeld (setHeld { t with net.switched := t.net.switched.filter (fun e => decide (e.1 ≠ d.val)) } (130 + d.val) []) (132 + d.val) []

/-- A switch that every router has made ends, and with no packet held nothing goes on. -/
theorem exec_genSwitchComplete (hall : allSwitched s d = true) (hway : heldPackets s (130 + d.val) = [])
    (hsent : heldPackets s (132 + d.val) = []) : exec (.genSwitchComplete d) s = .next (switchOver s d) := by
  have hexec : exec (.genSwitchComplete d) s = .next (genSwitchComplete s d) := rfl
  unfold genSwitchComplete at hexec
  dsimp only at hexec
  rw [hexec, if_neg (by simp [hruns, hall]), hway, hsent]
  rfl

/-- A late switch names the first router that has not switched. -/
theorem exec_genSwitchLate {r : Nat} (hr : (List.range 42).find? (fun r => !s.net.switched.contains (d.val, r)) = some r) :
    exec (.genSwitchLate d) s = .next (raiseEvent (setF s fNOC_STAT_gen_late d 0 1) 0x0F d (BitVec.ofNat 32 r)
      (regRaw (setF s fNOC_STAT_gen_late d 0 1) .NOC_STAT d 0)) := by
  have hexec : exec (.genSwitchLate d) s = execGenSwitchLate d s := rfl
  rw [hexec, execGenSwitchLate, if_pos hruns]
  dsimp only
  rw [setF_net, hr, Option.getD_some]

end
end

/-- Settles O16: an event that the tables bring to an endpoint passes each stage of its way to its slot, and every other command does
what its checks choose. -/
theorem networkEventsAndGenerations : Obligations.NetworkEventsAndGenerations := by
  refine ⟨?packet, fun s d e taken => exec_eventReceive e taken, ?timeout, fun s d => exec_networkLockup,
    fun s rq d => exec_genSwitchStart, fun s d r hruns => exec_genSwitchRouter hruns, fun s d => exec_genSwitchComplete,
    fun s d r hruns => exec_genSwitchLate hruns⟩
  case packet =>
    rintro s t p es f d n hcls hop hgood hdst hsrc hrouter hdom hclean hheld hon rfl hroute hswitch hprox
    rw [exec_networkPacketReceive, packetReceive_event hcls hsrc hon hheld, passFound_clean hclean,
      passNetwork_arrives hswitch hrouter hroute hdst, packetIn_delivered hdom hprox, deliverPacket_event hcls hop hgood]
  case timeout =>
    rintro s d ep tok a e ha rfl
    obtain ⟨rfl, rfl, rfl⟩ : a.die = d ∧ a.ep = ep ∧ a.token = tok := by simpa using List.find?_some ha
    exact exec_requestTimeout ha

end Sys2Proof.Machine
end

section
/-! PROOFS. The reads and writes of the Selvedge wire (R239, R454 to R456, R459, R469): what ID, STATUS, READ and WRITE answer to a
new request. -/

namespace Sys2Proof.Machine

section
variable {s : State} {q : SvReq}

/-! ## The requests as `svRequest` executes them (R451 to R454) -/

theorem exec_ident_new (h : svNew s q 0 = true) : exec (.ident q) s = .next (svIdent (svKept s q)) :=
  congrArg Host.Outcome.next (svRequest_new svIdent h)

theorem exec_svStatus_new (h : svNew s q 0 = true) : exec (.svStatus q) s = .next (svStatusDo (svKept s q)) :=
  congrArg Host.Outcome.next (svRequest_new svStatusDo h)

theorem exec_svRead_new (h : svNew s q 0 = true) (a : BitVec 48) (n attr : Byte) (fd : Finds) :
    exec (.svRead q a n attr fd) s = .next (svReadDo (svKept s q) a.toNat n.toNat attr.toNat fd) :=
  congrArg Host.Outcome.next (svRequest_new (fun t => svReadDo t a.toNat n.toNat attr.toNat fd) h)

theorem exec_svWrite_new (h : svNew s q 1 = true) (a : BitVec 48) (words : List Word) (fd : Finds) :
    exec (.svWrite q a words fd) s = .next (svWriteDo (svKept s q) a.toNat words fd) :=
  congrArg Host.Outcome.next (svRequest_new (fun t => svWriteDo t a.toNat words fd) h)

theorem scopesHeld_none : scopesHeld s 0 = true := by simp [scopesHeld]

@[simp] theorem scopesHeld_svKept (need : Nat) : scopesHeld (svKept s q) need = scopesHeld s need := rfl

/-- A request whose frame is whole and right, and that is not the last one sent again, is new where its scopes are in force. -/
theorem svNew_of {need : Nat} (hon : svOn s = true) (hframed : s.dbg.framed = true) (hcrc : crc8 q.frame = q.crc.toNat)
    (hrepeat : svRepeat s q = false) (hlen : q.lenOk = true) (hscope : scopesHeld s need = true) : svNew s q need = true := by
  simp [svNew, hon, hframed, hcrc, hrepeat, hlen, hscope]

end

/-! ## ID and STATUS (R455) -/

section
variable {t : State}

theorem svIdent_eq : svIdent t = svAnswer t 0 (leBytes 4 (regWord t .selvedge 0 .HW_ID 0).toNat ++
    (leBytes 4 (regWord t .selvedge 0 .SERIAL_LO 0).toNat ++ leBytes 4 (regWord t .selvedge 0 .SERIAL_HI 0).toNat)) := by
  rw [svIdent]
  simp only [List.map_cons, List.map_nil, List.flatMap_cons, List.flatMap_nil, List.append_nil]

theorem svStatusDo_eq : svStatusDo t = svAnswer t 0 (leBytes 4 (dbgStat t).toNat ++ (leBytes 4 (dbgHalt t 0 0 32).toNat ++
    (leBytes 4 (dbgHalt t 0 32 4).toNat ++ (leBytes 4 (dbgHalt t 1 0 32).toNat ++ leBytes 4 (dbgHalt t 1 32 4).toNat)))) := by
  rw [svStatusDo]
  simp only [List.map_cons, List.map_nil, List.flatMap_cons, List.flatMap_nil, List.append_nil]

/-! ## READ (R239, R456) -/

section
variable {a n : Nat} {attr : Byte} {fd : Finds} {u : State} {st : Nat} {b : List Byte}

theorem svReadDo_bad (h : n = 0 ∨ 32 < n ∨ 2 ≤ attr.toNat) : svReadDo t a n attr.toNat fd = svAnswer t 2 [] := if_pos h

theorem bitOf_inspect (h : attr.toNat < 2) : bitOf attr.toNat 0 = decide (attr = 1) := by
  rw [bitOf, decide_eq_decide, ← BitVec.toNat_inj]
  simp
  omega

/-- The request that waits for the domain of the word that a proxy holds. -/
def readWaits (u : State) (a n attr : Nat) : State :=
  { u with dbg := { u.dbg with svWait := some { write := false, addr := a, count := n, attr := attr, words := [] } } }

/-- A READ that is no bad command answers what the words from its address on give. -/
theorem svReadDo_words (h0 : n ≠ 0) (h32 : n ≤ 32) (hattr : attr.toNat < 2)
    (hwords : svReadWords t (decide (attr = 1)) fd 0 a n = (u, st, b)) : svReadDo t a n attr.toNat fd =
      if st = 0 then svAnswer u 0 b
      else if st = heldStatus then readWaits u a n attr.toNat
      else svAnswer u 4 (b ++ [BitVec.ofNat 8 st]) := by
  unfold svReadDo
  dsimp only
  rw [if_neg (by omega), bitOf_inspect hattr, hwords]
  rfl

/-- One word that is read without error. -/
theorem svReadWords_one {inspect : Bool} {v : Word} (h : netAccess t .selvedge a none inspect (findsOf fd 0) = (u, 0, v)) :
    svReadWords t inspect fd 0 a 1 = (u, 0, leBytes 4 v.toNat) := by
  rw [svReadWords, h]
  simp [svReadWords]

end

/-! ## WRITE (R239, R456, R459, R469) -/

section
variable {a : Nat} {words : List Word} {fd : Finds} {u : State} {st : Nat}

theorem svWriteDo_bad (h : words = [] ∨ 32 < words.length) : svWriteDo t a words fd = svAnswer t 2 [] := if_pos h

/-- Does a write of so many words from an address touch a breakpoint setting? -/
def touchesBreakpoint (a n : Nat) : Bool := (List.range n).any (fun i => bpAddress (a + 4 * i))

theorem touchesBreakpoint_iff {n : Nat} : touchesBreakpoint a n = true ↔ ∃ i < n, bpAddress (a + 4 * i) = true := by
  simp [touchesBreakpoint]

theorem touchesBreakpoint_none {n : Nat} (h : ∀ i < n, bpAddress (a + 4 * i) = false) : touchesBreakpoint a n = false := by
  simpa [touchesBreakpoint] using h

section
variable (hne : words ≠ []) (h32 : words.length ≤ 32)
include hne h32

theorem svWriteDo_locked (hbp : touchesBreakpoint a words.length = true) (hrun : scopesHeld t 4 = false) :
    svWriteDo t a words fd = svAnswer t 3 [] := by
  unfold touchesBreakpoint at hbp
  exact (if_neg (not_or.mpr ⟨hne, h32.not_gt⟩)).trans (if_pos (by rw [hbp, hrun]; rfl))

/-- The request that waits for the domain of the word that a proxy holds. -/
def writeWaits (u : State) (a : Nat) (words : List Word) : State :=
  { u with dbg := { u.dbg with svWait := some { write := true, addr := a, count := 0, attr := 0, words := words } } }

/-- A WRITE that may be made answers what the words from its address on give. -/
theorem svWriteDo_words (hmay : touchesBreakpoint a words.length = false ∨ scopesHeld t 4 = true)
    (hwords : svWriteWords t fd 0 a words = (u, st)) : svWriteDo t a words fd =
      if st = 0 then svAnswer u 0 []
      else if st = heldStatus then writeWaits u a words
      else svAnswer u 4 [BitVec.ofNat 8 st] := by
  have hlocked : ¬ (touchesBreakpoint a words.length && !scopesHeld t 4) = true := by
    rcases hmay with h | h <;> simp [h]
  unfold touchesBreakpoint at hlocked
  unfold svWriteDo
  dsimp only
  rw [if_neg (not_or.mpr ⟨hne, h32.not_gt⟩), if_neg hlocked, hwords]
  rfl

end

/-- One word that is written without error. -/
theorem svWriteWords_one {v x : Word} (h : netAccess t .selvedge a (some v) false (findsOf fd 0) = (u, 0, x)) :
    svWriteWords t fd 0 a [v] = (u, 0) := by
  rw [svWriteWords, h]
  simp [svWriteWords]

end
end

/-- Settles O50: a new request is executed on the state that keeps it, and each of the four answers there what its checks choose. -/
theorem selvedgeReadsAndWrites : Obligations.SelvedgeReadsAndWrites := by
  intro s t q hon hframed hcrc hrepeat hlen ht
  obtain rfl : t = svKept s q := ht
  have hnew (need : Nat) (h : scopesHeld s need = true) : svNew s q need = true := svNew_of hon hframed hcrc hrepeat hlen h
  have hread := exec_svRead_new (hnew 0 scopesHeld_none)
  refine ⟨?ident, ?status, ?read, ?readOne, ?write, ?writeOne⟩
  case ident => rw [exec_ident_new (hnew 0 scopesHeld_none), svIdent_eq]
  case status => rw [exec_svStatus_new (hnew 0 scopesHeld_none), svStatusDo_eq]
  case read =>
    intro a n attr fd
    rw [hread]
    refine ⟨fun h => ?_, fun u st b h0 h32 hattr hwords => ?_⟩
    · rw [svReadDo_bad (h.imp_left (congrArg BitVec.toNat))]
    · have hn : n.toNat ≠ 0 := fun h => h0 (BitVec.eq_of_toNat_eq h)
      rw [svReadDo_words hn h32 hattr hwords]
      exact ⟨fun h => by rw [if_pos h], fun h h' => by rw [if_neg h, if_neg h'],
        fun h => by rw [h, if_neg (by decide), if_pos rfl]; rfl⟩
  case readOne =>
    intro a attr fd u v hattr hword
    have hone : (1 : Byte).toNat = 1 := rfl
    rw [hread, hone, svReadDo_words (by decide) (by decide) hattr (svReadWords_one hword), if_pos rfl]
  case write =>
    intro a words fd hscope
    rw [exec_svWrite_new (hnew 1 hscope)]
    refine ⟨fun h => by rw [svWriteDo_bad h], fun hne h32 => ⟨fun hbp hrun => ?_, fun u st hmay hwords => ?_⟩⟩
    · rw [← scopesHeld_svKept (q := q)] at hrun
      rw [svWriteDo_locked hne h32 (touchesBreakpoint_iff.mpr hbp) hrun]
    · rw [← scopesHeld_svKept (q := q)] at hmay
      rw [svWriteDo_words hne h32 (hmay.imp_left touchesBreakpoint_none) hwords]
      exact ⟨fun h => by rw [if_pos h], fun h h' => by rw [if_neg h, if_neg h'],
        fun h => by rw [h, if_neg (by decide), if_pos rfl]; rfl⟩
  case writeOne =>
    intro a v fd u hscope hbp hword
    have hnone : touchesBreakpoint a.toNat [v].length = false := touchesBreakpoint_none (by simpa using hbp)
    rw [exec_svWrite_new (hnew 1 hscope), svWriteDo_words (by simp) (by simp) (.inl hnone) (svWriteWords_one hword), if_pos rfl]

end Sys2Proof.Machine
end

section
/-! PROOFS. The HBM stacks between their accesses (R253, R262 to R264, R266, R273): the collision counts, a temperature reading, a
change of the data rate, the patrol scrubber and the end of a retirement copy; and the march test engine (R268, R271 to R273): the
start, the chunks and the end of a pass. -/

namespace Sys2Proof.Machine

/-! ## HBM temperature and rates (R264) -/

section
variable {s : State} {d : Die}

theorem exec_bankCollClear (rq : Requester) (h : Harn) :
    exec (.bankCollClear rq d h) s = .next (setReg s .BANK_COLL d h.val 0) := rfl

theorem exec_hbmTempRead (v : BitVec 9) : exec (.hbmTempRead d v) s = .next (tempRead s d (signed 9 v.toNat)) := rfl

theorem showTemp_inRange {t : Int} (hlo : -128 ≤ t) (hhi : t ≤ 127) : showTemp s d t = setF s fHBM_STAT_temp d 0 (unsigned 8 t) :=
  if_pos ⟨hlo, hhi⟩

/-- The band of a stack after a reading: up at once, down as far as the edges have been clear (R264). -/
def bandAfter (s : State) (d : Die) (t : Int) : Nat :=
  if (getHbm s d).band ≤ bandOf t then bandOf t
  else coolTo s.vigil.ticks (coolSince s.vigil.ticks t (getHbm s d).coolAt) (bandOf t) (getHbm s d).band

/-- A reading that the register holds lies below the trip at 135 °C, so it is shown and moves the band. -/
theorem tempRead_inRange {t : Int} (hlo : -128 ≤ t) (hhi : t ≤ 127) : tempRead s d t =
    startRate (setF (setHbm (setF s fHBM_STAT_temp d 0 (unsigned 8 t)) d
      { getHbm s d with band := bandAfter s d t, coolAt := coolSince s.vigil.ticks t (getHbm s d).coolAt })
      fHBM_STAT_refresh d 0 (bandRefresh (bandAfter s d t))) d := by
  unfold tempRead
  dsimp only
  rw [showTemp_inRange hlo hhi, if_neg (by omega)]
  rfl

theorem exec_hbmRateGroupDone (bad : Option (Fin 4)) : exec (.hbmRateGroupDone d bad) s = .next (rateGroup s d bad) := rfl

section
variable (hchanging : flagF s fHBM_STAT_changing d 0 = true)
include hchanging

/-- Without a failing pseudo-channel a group that has changed is counted, and the last one ends the change. -/
theorem rateGroup_clean : rateGroup s d none =
    if (getHbm s d).groups < 7 then setHbm s d { getHbm s d with groups := (getHbm s d).groups + 1 }
    else
      let t := setHbm (setF (setF s fHBM_STAT_changing d 0 0) fHBM_STAT_rate d 0 (bandRate (getHbm s d).band)) d
        { getHbm s d with groups := 0 }
      raiseEvent t 0x11 d (BitVec.ofNat 32 d.val) (regRaw t .HBM_STAT d 0) := by
  rw [rateGroup, hchanging]
  rfl

theorem rateGroup_counts (h : (getHbm s d).groups < 7) :
    rateGroup s d none = setHbm s d { getHbm s d with groups := (getHbm s d).groups + 1 } := by
  rw [rateGroup_clean hchanging, if_pos h]

theorem rateGroup_ends (h : 7 ≤ (getHbm s d).groups) {t : State}
    (ht : t = setHbm (setF (setF s fHBM_STAT_changing d 0 0) fHBM_STAT_rate d 0 (bandRate (getHbm s d).band)) d
      { getHbm s d with groups := 0 }) :
    rateGroup s d none = raiseEvent t 0x11 d (BitVec.ofNat 32 d.val) (regRaw t .HBM_STAT d 0) := by
  rw [rateGroup_clean hchanging, if_neg h.not_gt, ht]

end

/-! ## The patrol scrubber and the retirement copy (R262, R263, R266) -/

theorem exec_hbmPatrolScrub (g : Fin 771751936) (out : ReadOutcome) :
    exec (.hbmPatrolScrub d g out) s = .next (patrol s d g.val out) := rfl

theorem patrol_clean {g : Nat} (h : g ∉ (getHbm s d).poison) : patrol s d g .clean = s :=
  if_neg (by rwa [List.contains_iff_mem])

theorem patrol_onDie (g : Nat) : patrol s d g .onDie = countF s fHBM_ECC_ode d 0 := rfl

theorem patrol_corrected (g : Nat) : patrol s d g .corrected = correctedAt s d (g * 32) := rfl

theorem patrol_uncorrectable (g : Nat) : patrol s d g .uncorrectable = demandUe s d (g * 32) := rfl

theorem exec_hbmRetireCopyDone : exec (.hbmRetireCopyDone d) s = .next (setF s fHBM_RET_copying d 0 0) := rfl

end

/-- Settles O18: what each step of a stack leaves, case by case of its reading, its change of rate and its patrol. -/
theorem hbmTemperatureScrubAndRetire : Obligations.HbmTemperatureScrubAndRetire := by
  refine ⟨fun s rq d h => exec_bankCollClear rq h, ?temp, ?rate, ?patrol, fun s d => exec_hbmRetireCopyDone⟩
  case temp =>
    rintro s d v t m b rfl hlo hhi rfl rfl
    rw [exec_hbmTempRead, tempRead_inRange hlo hhi, bandAfter]
  case rate =>
    intro s d hchanging
    rw [exec_hbmRateGroupDone]
    refine ⟨fun h => ?_, fun h t ht => ?_⟩
    · rw [rateGroup_counts hchanging h]
    · rw [rateGroup_ends hchanging h ht]
  case patrol =>
    intro s d g
    refine ⟨fun h => ?_, ?_, ?_, ?_⟩
    · rw [exec_hbmPatrolScrub, patrol_clean h]
    · rw [exec_hbmPatrolScrub, patrol_onDie]
    · rw [exec_hbmPatrolScrub, patrol_corrected]
    · rw [exec_hbmPatrolScrub, patrol_uncorrectable]

/-! ## The march test engine (R268, R271 to R273) -/

section
variable {s t : State} {d : Die}

/-! ### The start of a pass (R268, R271) -/

theorem exec_mtStart (rq : Requester) (v : Word) : exec (.mtStart rq d v) s = .next (mtStart s d v) := rfl

/-- A start that the engine takes begins the pass that MT_CTL then describes. -/
theorem mtStart_takes {v : Word} (hbusy : flagF s fMT_STAT_busy d 0 = false) (hstart : bitOf v.toNat 31 = true)
    (hdom : domTakes (regWrite s .MT_CTL d 0 v) d 60 = true) : mtStart s d v = startPass (regWrite s .MT_CTL d 0 v) d := by
  unfold mtStart
  dsimp only
  rw [hbusy, hstart, hdom]
  rfl

/-- The engine at the start of a pass: busy alone, and no failure of this pass. -/
def passShown (t : State) (d : Die) : State := setF (setReg t .MT_STAT d 0 0x80000000) fMT_FAIL_valid d 0 0

theorem startPass_refused (hmode : flagF t fMT_CTL_mode d 0 = false) (huse : marchInUse t d (getF t fMT_CTL_tgt d 0) = true) :
    startPass t d = setF t fMT_STAT_refused d 0 1 := by
  unfold startPass
  dsimp only
  rw [hmode, huse]
  rfl

theorem startPass_destroys (hmode : flagF t fMT_CTL_mode d 0 = false) (huse : marchInUse t d (getF t fMT_CTL_tgt d 0) = false) :
    startPass t d = setMarch (passShown t d) d { getMarch (passShown t d) d with total := 0, chunks := [] } := by
  unfold startPass
  dsimp only
  rw [hmode, huse]
  rfl

theorem startPass_preserves (hmode : flagF t fMT_CTL_mode d 0 = true) :
    startPass t d = setMarch (passShown t d) d { getMarch (passShown t d) d with
      total := (marchChunks (passShown t d) d (getF t fMT_CTL_tgt d 0)).length
      chunks := marchChunks (passShown t d) d (getF t fMT_CTL_tgt d 0) } := by
  unfold startPass
  dsimp only
  rw [hmode]
  rfl

/-! ### The end of a pass, at an abort or by itself (R272, R273) -/

theorem exec_mtAbort (rq : Requester) : exec (.mtAbort rq d) s = .next (mtAbort s d) := rfl

theorem mtAbort_busy (hbusy : flagF s fMT_STAT_busy d 0 = true) : mtAbort s d =
    endPass (if flagF s fMT_CTL_mode d 0 then s else marchWipe s d (getF s fMT_CTL_tgt d 0)) d := by
  rw [mtAbort, hbusy]
  rfl

theorem mtAbort_preserving (hbusy : flagF s fMT_STAT_busy d 0 = true) (hmode : flagF s fMT_CTL_mode d 0 = true) :
    mtAbort s d = endPass s d := by
  rw [mtAbort_busy hbusy, if_pos hmode]

theorem mtAbort_destructive (hbusy : flagF s fMT_STAT_busy d 0 = true) (hmode : flagF s fMT_CTL_mode d 0 = false) :
    mtAbort s d = endPass (marchWipe s d (getF s fMT_CTL_tgt d 0)) d := by
  rw [mtAbort_busy hbusy, hmode, if_neg Bool.false_ne_true]

theorem exec_mtPassDone (bad : List MarchPlace) : exec (.mtPassDone d bad) s = .next (passDone s d bad) := rfl

theorem passDone_preserving (bad : List MarchPlace) (hbusy : flagF s fMT_STAT_busy d 0 = true)
    (hchunks : (getMarch s d).chunks = []) (hmode : flagF (setF s fMT_STAT_pct d 0 100) fMT_CTL_mode d 0 = true) :
    passDone s d bad = endPass (setF s fMT_STAT_pct d 0 100) d := by
  unfold passDone
  dsimp only
  rw [hbusy, hchunks, if_pos hmode]
  rfl

/-! ### The chunks of a preserving pass (R271) -/

theorem exec_marchChunkDone (touched : Bool) (bad : Option Nat) :
    exec (.marchChunkDone d touched bad) s = .next (chunkDone s d touched bad) := rfl

section
variable {m : MarchSt} {c : Chunk} {cs : List Chunk} (hm : getMarch s d = m) (hcs : m.chunks = c :: cs)
include hm hcs

/-- What becomes of a chunk that a user touched hangs on how often it has been tried. -/
theorem chunkDone_touched (bad : Option Nat) : chunkDone s d true bad =
    if 3 ≤ c.tries then marchPct (countF (setMarch s d { m with chunks := cs }) fMT_STAT_skipped d 0) d
    else setMarch s d { m with chunks := cs ++ [{ c with tries := c.tries + 1 }] } := by
  unfold chunkDone
  dsimp only
  rw [hm, hcs]
  rfl

theorem chunkDone_retried (bad : Option Nat) (h : c.tries < 3) : chunkDone s d true bad =
    setMarch s d { m with chunks := cs ++ [{ c with tries := c.tries + 1 }] } := by
  rw [chunkDone_touched hm hcs, if_neg h.not_ge]

theorem chunkDone_skipped (bad : Option Nat) (h : 3 ≤ c.tries) : chunkDone s d true bad =
    marchPct (countF (setMarch s d { m with chunks := cs }) fMT_STAT_skipped d 0) d := by
  rw [chunkDone_touched hm hcs, if_pos h]

theorem chunkDone_passed : chunkDone s d false none = marchPct (setMarch s d { m with chunks := cs }) d := by
  unfold chunkDone
  dsimp only
  rw [hm, hcs]
  rfl

end
end

/-- Settles O19: a start, an abort, a chunk and the end of a pass, each by the case that MT_CTL, MT_STAT and the chunks choose. -/
theorem marchTestsRun : Obligations.MarchTestsRun := by
  refine ⟨?start, ?abort, ?chunk, ?ends⟩
  case start =>
    rintro s t rq d v rfl hbusy hstart hdom
    rw [exec_mtStart, mtStart_takes hbusy hstart hdom]
    refine ⟨fun hmode huse => ?_, ?_⟩
    · rw [startPass_refused hmode huse]
    · rintro u rfl
      refine ⟨fun hmode huse => ?_, fun hmode => ?_⟩
      · rw [startPass_destroys hmode huse, passShown]
      · rw [startPass_preserves hmode, passShown]
  case abort =>
    intro s rq d hbusy
    rw [exec_mtAbort]
    refine ⟨fun hmode => ?_, fun hmode => ?_⟩
    · rw [mtAbort_preserving hbusy hmode]
    · rw [mtAbort_destructive hbusy hmode]
  case chunk =>
    intro s d m c cs bad hm hcs
    simp only [exec_marchChunkDone]
    refine ⟨fun h => ?_, fun h => ?_, ?_⟩
    · rw [chunkDone_retried hm hcs bad h]
    · rw [chunkDone_skipped hm hcs bad h]
    · rw [chunkDone_passed hm hcs]
  case ends =>
    intro s d bad hbusy hchunks hmode
    rw [exec_mtPassDone, passDone_preserving bad hbusy hchunks hmode, endPass]

end Sys2Proof.Machine
end

section
/-! PROOFS. The configuration engine loads an image (R374, R377 to R384): which source starts a load, what becomes of a segment
that comes from the pins, the wait for the rail, and the end of a chip select. -/

namespace Sys2Proof.Machine

section
variable {s t : State} {d : Die}

/-! ## Sources (R377 to R383) -/

theorem exec_imageLoad (x : ImgSrc) : exec (.imageLoad d x) s = .next (imageLoad s d x) := rfl

theorem exec_imagePush (h : List Byte) : exec (.imagePush d h) s = .next (imageLoad s d (.pushed h)) := rfl

/-- A source is taken the same way from IMAGE_LOAD and, where it is a push, from IMAGE_PUSH. -/
theorem exec_load_or_push {x : ImgSrc} (h : imageLoad s d x = t) :
    exec (.imageLoad d x) s = .next t ∧ ∀ hd, x = .pushed hd → exec (.imagePush d hd) s = .next t := by
  refine ⟨?_, ?_⟩
  · rw [exec_imageLoad, h]
  · rintro hd rfl
    rw [exec_imagePush, h]

/-- The engine takes no source without its domain, the fringe's or the rail, while a load or start-up runs, or before the source
is due (R377 to R381). -/
theorem imageLoad_ignored {x : ImgSrc} (h : domTakes s d 60 = false ∨ domTakes s d 58 = false ∨
    flagF s fFIO_STAT_rail_ok d 0 = false ∨ (getImg s d).loading = true ∨ (getImg s d).starting = true ∨ sourceDue s d x = false) : imageLoad s d x = s := by
  refine if_pos ?_
  rcases h with h | h | h | h | h | h <;> simp [h]

theorem imageLoad_starts {x : ImgSrc} (heng : domTakes s d 60 = true) (hfrg : domTakes s d 58 = true)
    (hrail : flagF s fFIO_STAT_rail_ok d 0 = true) (hload : (getImg s d).loading = false) (hstart : (getImg s d).starting = false)
    (hdue : sourceDue s d x = true) (hret : (getImg s d).retained = false) :
    imageLoad s d x = startLoad s d x (getImg s d).update false := by
  unfold imageLoad
  dsimp only
  rw [heng, hfrg, hrail, hload, hstart, hdue, hret]
  rfl

theorem startLoad_begun {x : ImgSrc} {update retained : Bool} (h : beginLoad s d x false update retained = (t, none)) :
    startLoad s d x update retained = t := by
  rw [startLoad, h]

theorem startLoad_failed {x : ImgSrc} {update retained : Bool} {code seg : Nat}
    (h : beginLoad s d x false update retained = (t, some (code, seg))) :
    startLoad s d x update retained = failLoad t d code seg := by
  rw [startLoad, h]

/-! ## Segments (R374, R381) -/

theorem exec_segmentLoad (bs : List Byte) (bad : Bool) : exec (.segmentLoad d bs bad) s = .next (segmentLoad s d bs bad) := rfl

theorem segmentLoad_idle (bs : List Byte) (bad : Bool) (h : (getImg s d).loading = false) : segmentLoad s d bs bad = s := by
  unfold segmentLoad
  dsimp only
  rw [h]

/-- What a segment that decodes, and that another one follows, leaves: a last mark in it is a failure; else its frames are stored,
the progress is shown, and its bytes stay in the engine's buffers (R250, R381). -/
def segmentKept (s : State) (d : Die) (m : ImgSt) (e : SegEnt) (bs : List Byte) (o : SegOut) : State :=
  if o.last then failLoad s d 0x09 m.done
  else setImg (setF (writeAlso (putFrames s d m.retained e o.frames) d m e.off bs) fCFG_PROG_seg_done d 0 (m.done + 1)) d
    { m with done := m.done + 1, key := o.next, keys := m.keys ++ o.next.toList, digest := shaUpdate m.digest bs,
             buffers := (bs :: m.buffers).take 2 }

section
variable {m : ImgSt} {e f : SegEnt} {key : Nat} {bs y hd : List Byte} (hm : getImg s d = m) (hload : m.loading = true)
  (hsrc : m.src = some (.pins y hd)) (he : m.table[m.done]? = some e) (hf : m.table[m.done + 1]? = some f)
  (hkey : m.key = some key)
include hm hload hsrc he hf hkey

/-- A segment that comes from the pins and that another one follows: its length is checked, then it is decoded. -/
theorem segmentLoad_pins : segmentLoad s d bs false =
    if bs.length ≠ f.off - e.off then failLoad s d 0x06 m.done
    else Sum.elim (segmentKept s d m e bs) (fun code => failLoad s d code m.done)
      (segDecode m.header m.done e key (bs.take e.len)) := by
  have hnotLast : decide (m.done + 1 = m.table.length) = false := by
    obtain ⟨hlt, -⟩ := List.getElem?_eq_some_iff.mp hf
    exact decide_eq_false hlt.ne
  unfold segmentLoad
  dsimp only
  rw [hm, hload, hsrc, he, hkey, hf]
  dsimp only
  rw [hnotLast]
  cases segDecode m.header m.done e key (bs.take e.len) with
  | inl o =>
    simp [segmentKept, hload, hsrc]
  | inr code => simp

theorem segmentLoad_wrongLength (h : bs.length ≠ f.off - e.off) : segmentLoad s d bs false = failLoad s d 0x06 m.done := by
  rw [segmentLoad_pins hm hload hsrc he hf hkey, if_pos h]

theorem segmentLoad_undecoded (h : bs.length = f.off - e.off) {code : Nat}
    (hcode : segDecode m.header m.done e key (bs.take e.len) = .inr code) :
    segmentLoad s d bs false = failLoad s d code m.done := by
  rw [segmentLoad_pins hm hload hsrc he hf hkey, if_neg (not_not.mpr h), hcode, Sum.elim_inr]

theorem segmentLoad_decoded (h : bs.length = f.off - e.off) {o : SegOut}
    (ho : segDecode m.header m.done e key (bs.take e.len) = .inl o) : segmentLoad s d bs false = segmentKept s d m e bs o := by
  rw [segmentLoad_pins hm hload hsrc he hf hkey, if_neg (not_not.mpr h), ho, Sum.elim_inl]

end

/-! ## The wait for the rail, and the chip select (R378, R382) -/

theorem exec_fioRailWaitTimeout : exec (.fioRailWaitTimeout d) s =
    .next (if !(getImg s d).waiting || flagF s fFIO_STAT_rail_ok d 0 then s else showFail s d 0x10 0) := rfl

theorem exec_fioRailWaitTimeout_over (h : (getImg s d).waiting = false ∨ flagF s fFIO_STAT_rail_ok d 0 = true) :
    exec (.fioRailWaitTimeout d) s = .next s := by
  rw [exec_fioRailWaitTimeout, if_pos (by rcases h with h | h <;> simp [h])]

theorem exec_fioRailWaitTimeout_late (hwait : (getImg s d).waiting = true) (hrail : flagF s fFIO_STAT_rail_ok d 0 = false) :
    exec (.fioRailWaitTimeout d) s = .next (showFail s d 0x10 0) := by
  rw [exec_fioRailWaitTimeout, hwait, hrail]
  rfl

theorem exec_cfgCsDeassert : exec .cfgCsDeassert s =
    .next (modImg (modImg (csDeassert (csDeassert s 0) 1) 0 (fun m => { m with pinsTaken := false })) 1
      (fun m => { m with pinsTaken := false })) := rfl

/-- A die that waits for no image, and loads none, takes no notice of the end of a chip select. -/
theorem csDeassert_idle (hwait : (getImg s d).waiting = false) (hload : (getImg s d).loading = false) : csDeassert s d = s := by
  unfold csDeassert
  dsimp only
  rw [hwait, hload]
  rfl

end

/-- Settles O41: a source by whether the engine takes it and its first checks, a segment by its checks in turn, and the rail's
time-out and the chip select by what the die waits for. -/
theorem imagesAreLoaded : Obligations.ImagesAreLoaded := by
  refine ⟨fun s d x h => exec_load_or_push (imageLoad_ignored h), ?start, ?segment, ?idle, ?rail, ?select⟩
  case start =>
    rintro s d x m heng hfrg hrail rfl hload hstart hdue hret t
    have hbegin := imageLoad_starts heng hfrg hrail hload hstart hdue hret
    exact ⟨fun h => exec_load_or_push (hbegin.trans (startLoad_begun h)),
      fun code seg h => exec_load_or_push (hbegin.trans (startLoad_failed h))⟩
  case segment =>
    intro s d bs y hd m e f key hm hload hsrc he hf hkey
    rw [exec_segmentLoad]
    refine ⟨fun h => ?_, fun h _ => ⟨fun code hcode => ?_, fun o ho => ?_⟩⟩
    · rw [segmentLoad_wrongLength hm hload hsrc he hf hkey h]
    · rw [segmentLoad_undecoded hm hload hsrc he hf hkey h hcode]
    · rw [segmentLoad_decoded hm hload hsrc he hf hkey h ho, segmentKept]
      refine ⟨fun hlast => ?_, ?_⟩
      · rw [if_pos hlast]
      · rintro hlast t rfl
        rw [hlast, if_neg Bool.false_ne_true]
  case idle =>
    intro s d bs bad h
    rw [exec_segmentLoad, segmentLoad_idle bs bad h]
  case rail =>
    rintro s d m rfl
    refine ⟨exec_fioRailWaitTimeout_over, ?_⟩
    rintro hwait hrail t rfl
    rw [exec_fioRailWaitTimeout_late hwait hrail]
    rfl
  case select =>
    rintro s t hidle rfl
    obtain ⟨hwait0, hload0⟩ := hidle 0
    obtain ⟨hwait1, hload1⟩ := hidle 1
    rw [exec_cfgCsDeassert, csDeassert_idle hwait0 hload0, csDeassert_idle hwait1 hload1]
    rfl

end Sys2Proof.Machine
end

section
/-! PROOFS. The configuration and the lines of the ports (R274, R276, R290, R292, R311, R313, R315, R316, R341, R478): a write of
PORT.CFG, what the PCS of a port reports, and the loss of a quad's reference or of the supply. -/

namespace Sys2Proof.Machine

/-! ## A write of PORT.CFG (R276, R315, R478) -/

section
variable {s w : State} {rq : Requester} {p : Nat} {v : Word}

theorem hostBarred_of_ne (hrq : rq ≠ .host) : hostBarred rq = false := decide_eq_false hrq

theorem exec_portCfgWrite (p : Port) : exec (.portCfgWrite rq p v) s = .next (portCfgWrite s rq p.val v) := rfl

theorem portCfgWrite_host : portCfgWrite s .host p v = s := rfl

/-- PORT.CFG as a write stores it: while en was 1, mode and fec stay. -/
def cfgStored (s : State) (p : Nat) (v : Word) : State :=
  let old := regRaw s .PCFG (portDie p) (portIx p)
  let t := regWrite s .PCFG (portDie p) (portIx p) v
  if bitOf old.toNat 31 = true then setF (setF t fPCFG_mode (portDie p) (portIx p) (bitsOf old.toNat 26 24))
    fPCFG_fec (portDie p) (portIx p) (bitsOf old.toNat 23 22) else t

/-- A configured port is no longer silent, and its ring is OFF where its ports are no pair. -/
def cfgEnds (w : State) (p : Nat) : State :=
  let x := if ringPaired w (p / 2) then w else ringOff w (p / 2)
  setPort x p { getPort x p with cut := false }

theorem portCfgWrite_firmware (hrq : rq ≠ .host) : portCfgWrite s rq p v =
    cfgEnds (if flagF (cfgStored s p v) fPCFG_en (portDie p) (portIx p) && decide (portMode (cfgStored s p v) p ≠ 0) then cfgStored s p v
      else loseLine (cfgStored s p v) p) p :=
  if_neg (by rw [hostBarred_of_ne hrq]; decide)

theorem portCfgWrite_enabled (hrq : rq ≠ .host) (hen : flagF (cfgStored s p v) fPCFG_en (portDie p) (portIx p) = true)
    (hmode : portMode (cfgStored s p v) p ≠ 0) : portCfgWrite s rq p v = cfgEnds (cfgStored s p v) p := by
  rw [portCfgWrite_firmware hrq, if_pos (by rw [hen, decide_eq_true hmode]; rfl)]

theorem portCfgWrite_disabled (hrq : rq ≠ .host) (hen : flagF (cfgStored s p v) fPCFG_en (portDie p) (portIx p) = false) :
    portCfgWrite s rq p v = cfgEnds (loseLine (cfgStored s p v) p) p := by
  rw [portCfgWrite_firmware hrq, if_neg (by rw [hen, Bool.false_and]; decide)]

theorem cfgEnds_paired (h : ringPaired w (p / 2) = true) : cfgEnds w p = setPort w p { getPort w p with cut := false } := by
  rw [cfgEnds, if_pos h]

@[simp] theorem getPort_ringOff (k : Nat) : getPort (ringOff w k) p = getPort w p := by
  rw [ringOff, getPort_setF, getPort_setRing]

theorem cfgEnds_unpaired (h : ringPaired w (p / 2) = false) :
    cfgEnds w p = setPort (ringOff w (p / 2)) p { getPort w p with cut := false } := by
  rw [cfgEnds, if_neg (by rw [h]; decide), getPort_ringOff]

end

/-! ## What a PCS reports (R292, R315) -/

section
variable {s : State} {p : Nat} {l : LineState}

theorem exec_portLinkChange {p : Port} (hen : flagF s fPCFG_en (portDie p.val) (portIx p.val) = true) (hmode : portMode s p.val ≠ 0)
    (hpow : portPowered s p.val = true) : exec (.portLinkChange p l) s = .next (setLine s p.val l) :=
  congrArg _ (if_pos (by rw [hen, hpow, decide_eq_true hmode]; rfl))

/-- The codewords that the FEC of a port has corrected are counted while it is on. -/
def fecCounted (s : State) (p : Nat) (l : LineState) : State :=
  if fecOn s p = true then addF s fPCS_STAT_fec_ce (portDie p) (portIx p) l.fecCe.toNat else s

theorem portIx_lt : portIx p < 65536 := by
  rw [portIx]
  omega

/-- The count of PCS_STAT is no part of PORT.CFG. -/
@[simp] theorem portMode_fecCounted : portMode (fecCounted s p l) p = portMode s p := by
  unfold fecCounted
  split
  · exact getF_setF_apart s fPCS_STAT_fec_ce fPCFG_mode _ _ _ _ _ (by decide) portIx_lt portIx_lt
  · rfl

theorem setLine_eq : setLine s p l =
    if isPickline (portMode s p) then setPlLine (fecCounted s p l) p l else setEthLine (fecCounted s p l) p l := by
  rw [← portMode_fecCounted (l := l)]
  rfl

end

/-! ## The line in PCS_STAT (R315, R341) -/

section
variable {s : State} {p : Nat} {l : LineShown}

/-- PCS_STAT with the bits of a line. -/
def lineShown (s : State) (p : Nat) (l : LineShown) : State :=
  setF (setF (setF (setF (setF s fPCS_STAT_link (portDie p) (portIx p) (bitN l.link)) fPCS_STAT_blk_lock (portDie p) (portIx p)
    (bitN l.blkLock)) fPCS_STAT_hi_ber (portDie p) (portIx p) (bitN l.hiBer)) fPCS_STAT_rem_fault (portDie p) (portIx p)
    (bitN l.remFault)) fPCS_STAT_fec_lock (portDie p) (portIx p) (bitN l.fecLock)

/-- The event of a port whose link has changed. -/
def portEvent (s : State) (p : Nat) : State :=
  raiseEvent s 0x16 (portDie p) (BitVec.ofNat 32 p) (regRaw s .PCS_STAT (portDie p) (portIx p))

/-- A link that is lost is counted, and what the port was sending is cut short. -/
def linkLost (s : State) (p : Nat) : State :=
  setPort (countF s fPCS_STAT_los_cnt (portDie p) (portIx p)) p { getPort s p with txq := [], frag := none }

theorem showLine_eq : showLine s p l =
    if flagF s fPCS_STAT_link (portDie p) (portIx p) = l.link then lineShown s p l
    else portEvent (if flagF s fPCS_STAT_link (portDie p) (portIx p) then linkLost (lineShown s p l) p
      else unstall (lineShown s p l) p) p := rfl

theorem showLine_same (h : flagF s fPCS_STAT_link (portDie p) (portIx p) = l.link) : showLine s p l = lineShown s p l := by
  rw [showLine_eq, if_pos h]

theorem showLine_down (hwas : flagF s fPCS_STAT_link (portDie p) (portIx p) = true) (hlink : l.link = false) :
    showLine s p l = portEvent (linkLost (lineShown s p l) p) p := by
  rw [showLine_eq, hwas, hlink, if_neg (by decide), if_pos rfl]

theorem showLine_up (hwas : flagF s fPCS_STAT_link (portDie p) (portIx p) = false) (hlink : l.link = true) :
    showLine s p l = portEvent (unstall (lineShown s p l) p) p := by
  rw [showLine_eq, hwas, hlink, if_neg (by decide), if_neg (by decide)]

end

/-! ## The line of a Pickline port in block lock (R292) -/

section
variable {s : State} {p : Nat} {l : LineState}

/-- The last four IDLE blocks that a port has seen. -/
def lastIdles (s : State) (p : Nat) (l : LineState) : List Bool :=
  ((getPort s p).idles ++ l.rxOk).drop (((getPort s p).idles ++ l.rxOk).length - 4)

/-- A line in block lock is up unless its last four IDLE blocks all carry rx_ok = 0. -/
def lockedLine (l : LineState) (seen : List Bool) : LineShown where
  link := !(decide (seen.length = 4) && seen.all (fun ok => !ok))
  blkLock := true
  hiBer := l.hiBer
  remFault := decide (seen.getLast? = some false)
  fecLock := false

/-- A port in block lock whose report brings no sync header keeps its lock and shows what its IDLE blocks say; on a ring that is
silent nothing leaves it. -/
theorem setPlLine_locked (hheaders : l.headers = []) (hlock : flagF s fPCS_STAT_blk_lock (portDie p) (portIx p) = true) {t : State}
    (ht : t = showLine (setPort s p { getPort s p with idles := lastIdles s p l }) p (lockedLine l (lastIdles s p l)))
    (hsilent : ringLive t (p / 2) = false) : setPlLine s p l = t := by
  have hseen : setPlLine s p l =
      if ringLive t (p / 2) ∧ portIdle t p ≠ portIdle s p then ringLine t (p / 2) (decide (p % 2 = 1)) [portIdle t p] else t := by
    rw [setPlLine, hheaders, hlock, ht]
    rfl
  rw [hseen, if_neg (by rw [hsilent]; simp)]

end

/-! ## The loss of a reference or of the supply (R274, R311, R313, R316) -/

section
variable {s : State}

/-- A quad whose reference is lost is noted once. -/
def quadNoted (s : State) (q : Nat) : State :=
  { s with ports.quadLost := if s.ports.quadLost.contains q then s.ports.quadLost else s.ports.quadLost ++ [q] }

theorem exec_quadReferenceLoss_lost (q : Fin 24) : exec (.quadReferenceLoss q true) s =
    .next (muteRing (muteRing ((List.range 4).foldl (fun t k => cutPort t (4 * q.val + k)) (quadNoted s q.val)) (2 * q.val))
      (2 * q.val + 1)) := rfl

theorem exec_quadReferenceLoss_back (q : Fin 24) : exec (.quadReferenceLoss q false) s =
    .next { s with ports.quadLost := s.ports.quadLost.filter (fun k => k ≠ q.val) } := rfl

theorem exec_serdesSupplyLoss_lost : exec (.serdesSupplyLoss true) s =
    .next (cxlDown ((List.range 48).foldl muteRing ((List.range 96).foldl cutPort { s with ports.supply := false }))) := rfl

theorem exec_serdesSupplyLoss_back : exec (.serdesSupplyLoss false) s = .next { s with ports.supply := true } := rfl

theorem cutPort_eq {t : State} {p : Nat} (ht : t = loseLine (cutFrame s p) p) :
    cutPort s p = setPort t p { getPort t p with cut := true, segs := [], txq := [], frag := none } := by
  rw [cutPort, ht]

end

/-- Settles O21: each command does what the configuration and the line of its ports choose. -/
theorem portsAreConfiguredAndLost : Obligations.PortsAreConfiguredAndLost := by
  refine ⟨?cfg, ?link, ?shown, ?pickline, ?quad, ?supply, ?cut⟩
  case cfg =>
    intro s rq p v
    rw [exec_portCfgWrite]
    refine ⟨?_, fun hrq old t u hold ht hu => ?_⟩
    · rintro rfl
      rw [portCfgWrite_host]
    · subst hold ht
      obtain rfl : u = cfgStored s p.val v := hu
      refine ⟨fun hen hmode => ?_, fun hen w hw hunpaired => ?_⟩
      · rw [portCfgWrite_enabled hrq hen hmode]
        exact ⟨fun h => by rw [cfgEnds_paired h], fun h => by rw [cfgEnds_unpaired h]⟩
      · subst hw
        rw [portCfgWrite_disabled hrq hen, cfgEnds_unpaired hunpaired]
  case link =>
    intro s t p l hen hmode hpow ht
    obtain rfl : t = fecCounted s p.val l := ht
    rw [exec_portLinkChange hen hmode hpow, setLine_eq]
    exact ⟨fun h => by rw [if_pos h], fun h => by rw [if_neg (by rw [h]; decide)]⟩
  case shown =>
    intro s t u p l d m hd hm ht
    subst hd hm
    obtain rfl : t = lineShown s p l := ht
    refine ⟨showLine_same, fun hwas hlink hu => ?_, fun hwas hlink hu => ?_⟩
    · rw [showLine_down hwas hlink, hu, portEvent, linkLost]
    · rw [showLine_up hwas hlink, hu, portEvent]
  case pickline =>
    intro s t p l seen up hheaders hlock _ hseen hup ht hsilent
    obtain rfl : seen = lastIdles s p l := hseen
    subst hup
    exact setPlLine_locked hheaders hlock ht hsilent
  case quad =>
    intro s t q ht
    obtain rfl : t = quadNoted s q.val := ht
    exact ⟨exec_quadReferenceLoss_lost q, exec_quadReferenceLoss_back q⟩
  case supply => exact fun s => ⟨exec_serdesSupplyLoss_lost, exec_serdesSupplyLoss_back⟩
  case cut => exact fun s t p k => ⟨cutPort_eq, rfl⟩

end Sys2Proof.Machine
end

section
/-! PROOFS. One cycle of a Pickline ring (R299, R302 to R305, R307, R309, R310): the COMMAND frame is built, the cycle starts on its
grid with what the ring may send, its pick instant passes, and its end says what was found. -/

namespace Sys2Proof.Machine

/-! ## The COMMAND frame is built (R304) -/

section
variable {s : State}

/-- The slots of a ring's valid addresses in rising order, and the state after what they took. -/
def slotsFilled (s : State) (k : Nat) : State × List CmdSlot :=
  (ringAddrs s k).foldl (fun (r : State × List CmdSlot) a => ((fillSlot r.1 k a).1, r.2 ++ [(fillSlot r.1 k a).2])) (s, [])

theorem buildCommand_eq {t : State} {k : Nat} {cs : List CmdSlot} (h : slotsFilled s k = (t, cs)) :
    buildCommand s k = setRing t k { getRing t k with slots := cs, built := true } := by
  have hfill : buildCommand s k =
      setRing (slotsFilled s k).1 k { getRing (slotsFilled s k).1 k with slots := (slotsFilled s k).2, built := true } := rfl
  rw [hfill, h]

end

/-! ## The commands of a live ring (R303, R311) -/

section
variable {s : State} {k : Ring} (hlive : ringLive s k.val = true)
include hlive

theorem exec_plFrameBuild (hbuilt : (getRing s k.val).built = false) : exec (.plFrameBuild k) s = .next (buildCommand s k.val) :=
  congrArg _ (if_pos (by rw [hlive, hbuilt]; rfl))

theorem exec_plCycleStart : exec (.plCycleStart k) s = .next (cycleStart (cycleEnd s k.val) k.val) := congrArg _ (if_pos hlive)

theorem exec_plPickInstant {r : RingSt} (hr : getRing s k.val = r) (hrun : r.running = true) (hends : r.ended = false)
    (hpick : r.picked = false) : exec (.plPickInstant k) s =
      .next (setRing (countLost s k.val r.cmdOut.length) k.val { r with cmdOut := [], picked := true }) := by
  subst hr
  exact congrArg _ (if_pos (by rw [hlive, hrun, hends, hpick]; rfl))

theorem exec_plCycleEnd : exec (.plCycleEnd k) s = .next (cycleEnd s k.val) := congrArg _ (if_pos hlive)

end

/-! ## The start of a cycle (R299, R302, R303, R309, R310) -/

section
variable {t : State} {k : Nat}

/-- The pick instant of the last cycle, or of the grid before the first one. -/
def lastPick (t : State) (k : Nat) : Nat :=
  if (getRing t k).running then pickAt (getRing t k) else (nextGrid t k).start + (nextGrid t k).lead - (nextGrid t k).period

/-- A ring at the start of its next cycle, of which nothing is known yet. -/
def cycleOpened (t : State) (k : Nat) : State :=
  setRing t k { nextGrid t k with
    ended := false, built := false, picked := false, cmdOut := [], colOut := [], sending := [], evenReach := [], oddReach := [],
    whole := false, taken := [], found := [], prevPick := lastPick t k }

/-- A frame without slots leaves both ports of a ring. -/
def sentBothWays (w : State) (k ftype time tTx h2 : Nat) : State :=
  sendRing (sendRing w k ftype false time tTx h2 []) k ftype true time tTx h2 []

/-- The time of departure in the frames of a cycle: none while the die is held or loads (R294, R310). -/
def frameTime (time reason : Nat) : Nat := if reason = 1 ∨ reason = 2 then 0 else plTime time

/-- A ring holds for a reason, or because a frame of it would be too long, which is counted and raises its event (R301, R310). -/
def cycleHeld (u : State) (k time reason : Nat) (long : Bool) : State :=
  let w := showCycle (dropSlots u k) k 3
  sentBothWays (if long then ringEvent (countF w fPL_ERR_lost (ringDie k) (ringIx k)) k else w) k ftHold time
    (frameTime time reason) (if long then 4 else reason)

/-- The state in which a ring sends its DISCOVER frames. -/
def discoveryShown (u : State) (k : Nat) : State :=
  let w := showCycle (dropSlots u k) k 4
  setRing w k { getRing w k with discPend := false }

/-- Did the last cycle find the ring whole? -/
def foundWhole : Option (Nat × Nat × Nat) → Bool
  | some (f, _, _) => decide (f = 1)
  | none => false

/-- A ring sends its COMMAND and COLLECT frames in ring or in linear mode. -/
def cycleRuns (u : State) (k : Nat) (intact : Bool) : State :=
  sendCycle (noteSent (showCycle u k (if intact then 1 else 2)) k) k (!intact)

section
variable {u : State} (hbuilt : (getRing t k).built = true) (hu : u = cycleOpened t k)
include hbuilt hu

theorem cycleStart_eq : cycleStart t k =
    if holdReason u k ≠ 0 ∨ (decide (holdReason u k = 0) && ringTooLong u k) = true then
      cycleHeld u k (nextGrid t k).start (holdReason u k) (decide (holdReason u k = 0) && ringTooLong u k)
    else if (nextGrid t k).discPend then
      sentBothWays (discoveryShown u k) k ftDiscover (nextGrid t k).start (frameTime (nextGrid t k).start (holdReason u k))
        (ringCount (discoveryShown u k) k)
    else if !portUp u (2 * k) && !portUp u (2 * k + 1) then showCycle (dropSlots u k) k 5
    else cycleRuns u k (foundWhole (nextGrid t k).prev && portUp u (2 * k) && portUp u (2 * k + 1)) := by
  rw [cycleStart, if_pos hbuilt, hu]
  rfl

theorem cycleStart_holds (hreason : holdReason u k ≠ 0) :
    cycleStart t k = cycleHeld u k (nextGrid t k).start (holdReason u k) false := by
  rw [cycleStart_eq hbuilt hu, if_pos (.inl hreason), decide_eq_false hreason, Bool.false_and]

section
variable (hfree : holdReason u k = 0) (hshort : ringTooLong u k = false)
include hfree hshort

/-- What a ring sends that has no reason to hold. -/
theorem cycleStart_sends : cycleStart t k =
    if (nextGrid t k).discPend then
      sentBothWays (discoveryShown u k) k ftDiscover (nextGrid t k).start (plTime (nextGrid t k).start)
        (ringCount (discoveryShown u k) k)
    else if !portUp u (2 * k) && !portUp u (2 * k + 1) then showCycle (dropSlots u k) k 5
    else cycleRuns u k (foundWhole (nextGrid t k).prev && portUp u (2 * k) && portUp u (2 * k + 1)) := by
  rw [cycleStart_eq hbuilt hu, hfree, hshort, if_neg (by decide)]
  rfl

theorem cycleStart_discovers (hdisc : (nextGrid t k).discPend = true) : cycleStart t k =
    sentBothWays (discoveryShown u k) k ftDiscover (nextGrid t k).start (plTime (nextGrid t k).start)
      (ringCount (discoveryShown u k) k) := by
  rw [cycleStart_sends hbuilt hu hfree hshort, if_pos hdisc]

section
variable (hdisc : (nextGrid t k).discPend = false)
include hdisc

theorem cycleStart_noLink (heven : portUp u (2 * k) = false) (hodd : portUp u (2 * k + 1) = false) :
    cycleStart t k = showCycle (dropSlots u k) k 5 := by
  rw [cycleStart_sends hbuilt hu hfree hshort, if_neg (by rw [hdisc]; decide), heven, hodd, if_pos (by decide)]

theorem cycleStart_runs (heven : portUp u (2 * k) = true) (hodd : portUp u (2 * k + 1) = true) :
    cycleStart t k = cycleRuns u k (foundWhole (nextGrid t k).prev) := by
  rw [cycleStart_sends hbuilt hu hfree hshort, if_neg (by rw [hdisc]; decide), heven, hodd, if_neg (by decide),
    Bool.and_true, Bool.and_true]

end
end
end
end

/-! ## The end of a cycle (R299, R303, R305, R307) -/

section
variable {s : State} {k : Nat} {r : RingSt}

/-- The frames that a cycle still awaits at its end are lost. -/
def endLost (s : State) (k : Nat) (r : RingSt) : State :=
  countLost s k (r.colOut.length + (if r.picked then 0 else r.cmdOut.length))

/-- What a cycle has found, stored, and the reach shown. -/
def findingStored (t : State) (k : Nat) (r : RingSt) (f : Nat × Nat × Nat) : State :=
  setF (setF (setRing (markUnreachable t k f) k { r with ended := true, colOut := [], cmdOut := [], prev := some f })
    fPL_STAT_even_reach (ringDie k) (ringIx k) f.2.1) fPL_STAT_odd_first (ringDie k) (ringIx k) f.2.2

/-- A finding that differs from the one before it raises the ring's event. -/
def findingTold (u : State) (k : Nat) (f : Nat × Nat × Nat) : Option (Nat × Nat × Nat) → State
  | some p => if sameFinding p f then u else ringEvent u k
  | none => u

/-- The end of a cycle, but for what a discovery compares. -/
def cycleCounted (s : State) (k : Nat) (r : RingSt) : State :=
  let t := endLost s k r
  countMisses (findingTold (findingStored t k r (finding t k r)) k (finding t k r) r.prev) k

theorem cycleEnd_eq (hr : getRing s k = r) (hrun : r.running = true) (hends : r.ended = false) : cycleEnd s k =
    if r.mode = 4 then compareNodes (cycleCounted s k r) k else cycleCounted s k r := by
  subst hr
  exact if_neg (by rw [hrun, hends]; decide)

end

/-- Settles O22: each command does what the ring, its die and what came back in the cycle choose. -/
theorem picklineCyclesRun : Obligations.PicklineCyclesRun := by
  refine ⟨?build, ?start, fun s k r hlive => exec_plPickInstant hlive, ?ends⟩
  case build =>
    intro s t k cs hlive hbuilt hfill
    rw [exec_plFrameBuild hlive hbuilt, buildCommand_eq hfill]
  case start =>
    rintro s t u k prev hlive rfl hbuilt rfl hu
    replace hu : u = cycleOpened (cycleEnd s k.val) k.val := hu
    rw [exec_plCycleStart hlive]
    refine ⟨?_, fun hfree hshort => ⟨fun hdisc => ?_, fun hdisc heven hodd => ?_, fun hdisc heven hodd => ?_⟩⟩
    · rintro c rfl hreason
      rw [cycleStart_holds hbuilt hu hreason]
      rfl
    · rw [cycleStart_discovers hbuilt hu hfree hshort hdisc]
      rfl
    · rw [cycleStart_noLink hbuilt hu hfree hshort hdisc heven hodd]
    · rw [cycleStart_runs hbuilt hu hfree hshort hdisc heven hodd]
      exact ⟨fun a b hprev => by rw [hprev]; rfl, fun hprev => by rw [hprev]; rfl⟩
  case ends =>
    intro s t u k r f hlive hr hrun hends ht hf hu w hw
    have hcounted : cycleCounted s k.val r = countMisses w k.val := by
      subst ht hf hu hw
      rfl
    rw [exec_plCycleEnd hlive, cycleEnd_eq hr hrun hends, hcounted]
    exact ⟨fun h => by rw [if_neg h], fun h => by rw [if_pos h]⟩

end Sys2Proof.Machine
end

section
/-! PROOFS. What comes back to a Pickline ring and what sets it (R297, R299, R302, R303, R306, R310, R313, R315, R478): returned
frames, the DLY exchange, and the writes of discovery, run and grid. -/

namespace Sys2Proof.Machine

/-! ## Returned frames (R303, R306) -/

section
variable {s : State} {k : Nat} {odd : Bool} {bl : List PlBlock} {f : PlFrame}

section
variable {k : Ring} (hlive : ringLive s k.val = true)
include hlive

theorem exec_plFrameReturn_inCycle (hrun : (getRing s k.val).running = true) (hends : (getRing s k.val).ended = false) :
    exec (.plFrameReturn k odd bl) s = .next (frameBack s k.val odd bl) :=
  congrArg _ ((if_neg (by rw [hlive]; decide)).trans (if_pos (by rw [hrun, hends]; rfl)))

theorem exec_plFrameReturn_outside (h : (getRing s k.val).running = false ∨ (getRing s k.val).ended = true) :
    exec (.plFrameReturn k odd bl) s = .next (rejectFrame s k.val) :=
  congrArg _ ((if_neg (by rw [hlive]; decide)).trans (if_neg (by rcases h with h | h <;> simp [h])))

end

theorem frameBack_discards {t : State} (h : takeBack s k odd bl = (t, none)) : frameBack s k odd bl = t := by
  rw [frameBack, h]

theorem frameBack_uses {t : State} (h : takeBack s k odd bl = (t, some f)) : frameBack s k odd bl = heal t k f odd := by
  rw [frameBack, h]

theorem frameBack_noFrame (hparse : plParse bl = none) : frameBack s k odd bl = rejectFrame s k :=
  frameBack_discards (by rw [takeBack, hparse])

section
variable (hparse : plParse bl = some f)
include hparse

theorem takeBack_frame : takeBack s k odd bl =
    if f.ring ≠ k ∨ f.cycle ≠ (getRing s k).cycle.toNat then (rejectFrame s k, none)
    else if !f.good then (rejectFrame (setRing s k (noteBack (getRing s k) f)) k, none)
    else (useFrame s k odd f, some f) := by
  rw [takeBack, hparse]

theorem frameBack_foreign (h : f.ring ≠ k ∨ f.cycle ≠ (getRing s k).cycle.toNat) : frameBack s k odd bl = rejectFrame s k :=
  frameBack_discards (by rw [takeBack_frame hparse, if_pos h])

section
variable (hring : f.ring = k) (hcycle : f.cycle = (getRing s k).cycle.toNat)
include hring hcycle

theorem frameBack_damaged (hbad : f.good = false) :
    frameBack s k odd bl = rejectFrame (setRing s k (noteBack (getRing s k) f)) k :=
  frameBack_discards (by rw [takeBack_frame hparse, if_neg (by simp [hring, hcycle]), if_pos (by rw [hbad]; rfl)])

theorem frameBack_good (hgood : f.good = true) : frameBack s k odd bl = heal (useFrame s k odd f) k f odd :=
  frameBack_uses (by rw [takeBack_frame hparse, if_neg (by simp [hring, hcycle]), if_neg (by rw [hgood]; decide)])

end
end

/-- What a ring knows once a frame of its cycle is noted. -/
def frameNoted (s : State) (k : Nat) (odd : Bool) (f : PlFrame) : State :=
  setRing s k (noteReach (noteBack (getRing s k) f) (ringCount s k) f odd)

theorem useFrame_inTime (hlate : leadLate s (getRing s k) f = false) : useFrame s k odd f =
    if f.ftype = 2 then f.slots.foldl (fun s x => takeStatus s k x) (frameNoted s k odd f) else frameNoted s k odd f := by
  rw [useFrame, hlate]
  rfl

/-! ## What a frame that is discarded leaves (R306) -/

/-- A frame is counted as discarded, and nothing that a used frame would change has changed. -/
def FrameDiscarded (s t : State) (k : Nat) : Prop :=
  getF t fPL_ERR_crc (ringDie k) (ringIx k) = stopAt 255 (getF s fPL_ERR_crc (ringDie k) (ringIx k)) ∧
    t.ports.nodes = s.ports.nodes ∧ t.ports.lastCmd = s.ports.lastCmd ∧ t.flow = s.flow ∧ t.mem = s.mem ∧
    (getRing t k).evenReach = (getRing s k).evenReach ∧ (getRing t k).oddReach = (getRing s k).oddReach ∧
    (getRing t k).taken = (getRing s k).taken ∧ (getRing t k).found = (getRing s k).found ∧
    (getRing t k).whole = (getRing s k).whole ∧ (getRing t k).mode = (getRing s k).mode

theorem getF_rejectFrame : getF (rejectFrame s k) fPL_ERR_crc (ringDie k) (ringIx k) =
    stopAt 255 (getF s fPL_ERR_crc (ringDie k) (ringIx k)) := getF_countF s fPL_ERR_crc _ _ (by decide) (by decide)

theorem frameDiscarded_rejectFrame : FrameDiscarded s (rejectFrame s k) k :=
  ⟨getF_rejectFrame, rfl, rfl, rfl, rfl, rfl, rfl, rfl, rfl, rfl, rfl⟩

/-- A frame that is no longer awaited changes a ring in what it awaits alone. -/
theorem noteBack_eq (r : RingSt) (f : PlFrame) : ∃ cmd col, noteBack r f = { r with cmdOut := cmd, colOut := col } := by
  unfold noteBack
  split
  · exact ⟨_, r.colOut, rfl⟩
  · exact ⟨r.cmdOut, _, rfl⟩

@[simp] theorem getRing_rejectFrame : getRing (rejectFrame s k) k = getRing s k := rfl

theorem frameDiscarded_damaged : FrameDiscarded s (rejectFrame (setRing s k (noteBack (getRing s k) f)) k) k := by
  obtain ⟨cmd, col, hback⟩ := noteBack_eq (getRing s k) f
  have hring : getRing (rejectFrame (setRing s k (noteBack (getRing s k) f)) k) k =
      { getRing s k with cmdOut := cmd, colOut := col } := by
    rw [getRing_rejectFrame, getRing_setRing, if_pos rfl, hback]
  refine ⟨getF_rejectFrame, rfl, rfl, rfl, rfl, ?_⟩
  rw [hring]
  exact ⟨rfl, rfl, rfl, rfl, rfl, rfl⟩

/-- A frame that is no frame of this ring and cycle, or not good, is discarded. -/
theorem frameBack_discarded (h : ∀ f, plParse bl = some f → f.good = false ∨ f.ring ≠ k ∨ f.cycle ≠ (getRing s k).cycle.toNat) :
    FrameDiscarded s (frameBack s k odd bl) k := by
  cases hparse : plParse bl with
  | none =>
    rw [frameBack_noFrame hparse]
    exact frameDiscarded_rejectFrame
  | some f =>
    by_cases hown : f.ring = k ∧ f.cycle = (getRing s k).cycle.toNat
    · obtain ⟨hring, hcycle⟩ := hown
      have hbad : f.good = false := (h f hparse).resolve_right (by simp [hring, hcycle])
      rw [frameBack_damaged hparse hring hcycle hbad]
      exact frameDiscarded_damaged
    · rw [frameBack_foreign hparse (by rwa [← not_and_or])]
      exact frameDiscarded_rejectFrame

end

/-- Settles O24: outside a cycle a frame is discarded, in one it is where it is not good or not of the ring and cycle, and a good one
of both is noted. -/
theorem returnedFramesNotOfTheCycleAreDiscarded : Obligations.ReturnedFramesNotOfTheCycleAreDiscarded := by
  refine ⟨?discarded, ?used⟩
  case discarded =>
    intro s k odd bl hlive h
    by_cases hcycle : (getRing s k.val).running = true ∧ (getRing s k.val).ended = false
    · obtain ⟨hrun, hends⟩ := hcycle
      have hbad := (h.resolve_left (by rw [hrun]; decide)).resolve_left (by rw [hends]; decide)
      exact ⟨_, exec_plFrameReturn_inCycle hlive hrun hends, frameBack_discarded hbad⟩
    · rw [not_and_or, Bool.not_eq_true, Bool.not_eq_false] at hcycle
      exact ⟨_, exec_plFrameReturn_outside hlive hcycle, frameDiscarded_rejectFrame⟩
  case used =>
    intro s t k odd bl f hlive hrun hends hparse hgood hring hcycle hlate htype ht
    obtain rfl : t = frameNoted s k.val odd f := ht
    rw [exec_plFrameReturn_inCycle hlive hrun hends, frameBack_good hparse hring hcycle hgood, useFrame_inTime hlate, if_neg htype]

/-! ## The DLY exchange (R297, R315) -/

section
variable {s : State} {k : Nat} {odd : Bool}

theorem ringLine_open (hopen : looped s (ringPort k odd) = false) (bl : List PlBlock) :
    ringLine s k odd bl = emit s (.ring k odd bl) :=
  if_neg (by rw [hopen]; decide)

theorem askDly_open (hopen : looped s (ringPort k odd) = false) (now : Nat) : askDly s k odd now =
    emit (setPort s (ringPort k odd) { getPort s (ringPort k odd) with
        dlySeq := (getPort s (ringPort k odd)).dlySeq + 1, dlyReq := some ((getPort s (ringPort k odd)).dlySeq, now) })
      (.ring k odd [dlyBlock false (getPort s (ringPort k odd)).dlySeq 0]) :=
  ringLine_open (s := setPort s (ringPort k odd) _) hopen _

section
variable {b x : Nat}

theorem takeDly_request (hopen : looped s (ringPort k odd) = false) (hreq : bitOf b 8 = false) : takeDly s k odd b x =
    emit s (.ring k odd [dlyBlock true (BitVec.ofNat 16 (bitsOf b 31 16)) (BitVec.ofNat 32 x)]) :=
  (if_pos (by rw [hreq]; rfl)).trans (ringLine_open hopen _)

theorem takeDly_response (hresp : bitOf b 8 = true) {q : BitVec 16} {sent : Nat}
    (hasked : (getPort s (ringPort k odd)).dlyReq = some (q, sent)) : takeDly s k odd b x =
    if q = BitVec.ofNat 16 (bitsOf b 31 16) then
      setF (setPort s (ringPort k odd) { getPort s (ringPort k odd) with dlyReq := none })
        (if odd then fPL_DLY_dly_odd else fPL_DLY_dly_even) (ringDie k) (ringIx k) (dlyOf sent x (bitsOf b 63 32))
    else s := by
  rw [takeDly, if_neg (by rw [hresp]; decide), hasked]

/-- A response to no request of the device's is ignored. -/
theorem takeDly_unasked (hresp : bitOf b 8 = true)
    (hnone : ∀ sent, (getPort s (ringPort k odd)).dlyReq ≠ some (BitVec.ofNat 16 (bitsOf b 31 16), sent)) :
    takeDly s k odd b x = s := by
  cases hasked : (getPort s (ringPort k odd)).dlyReq with
  | none => rw [takeDly, if_neg (by rw [hresp]; decide), hasked]
  | some e =>
    obtain ⟨q, sent⟩ := e
    have hother : q ≠ BitVec.ofNat 16 (bitsOf b 31 16) := fun hq => hnone sent (hq ▸ hasked)
    rw [takeDly_response hresp hasked, if_neg hother]

end

section
variable {k : Ring} {x : BitVec 64} (hlive : ringLive s k.val = true)
include hlive

theorem exec_dly_ask : exec (.dly k odd none x) s = .next (askDly s k.val odd x.toNat) :=
  congrArg _ (if_neg (by rw [hlive]; decide))

theorem exec_dly_block (b : PlBlock) : exec (.dly k odd (some b) x) s =
    .next (if isDly b then takeDly s k.val odd b.data.toNat x.toNat else s) :=
  congrArg _ (if_neg (by rw [hlive]; decide))

end
end

/-! ## Discovery, run and grid (R299, R302, R310, R313, R478) -/

section
variable {s : State} {k : Ring} {rq : Requester}

theorem exec_plDiscover_host : exec (.plDiscover .host k) s = .next s := rfl

theorem exec_plDiscover (hrq : rq ≠ .host) :
    exec (.plDiscover rq k) s = .next (setRing s k.val { getRing s k.val with discPend := true }) :=
  congrArg _ (if_neg (by rw [hostBarred_of_ne hrq]; decide))

theorem exec_plRunWrite_host (v : Bool) : exec (.plRunWrite .host k v) s = .next s := rfl

theorem exec_plRunWrite (hrq : rq ≠ .host) (v : Bool) : exec (.plRunWrite rq k v) s = .next (setRun s k.val v) :=
  congrArg _ (if_neg (by rw [hostBarred_of_ne hrq]; decide))

theorem exec_plGridWrite (i : Fin 4) (v : Word) : exec (.plGridWrite rq k i v) s = .next (gridWrite s rq k.val i.val v) := rfl

end

section
variable {s : State} {k : Nat}

theorem setRun_clear : setRun s k false =
    if flagF s fPL_CTL_run (ringDie k) (ringIx k) then stompRing (setF s fPL_CTL_run (ringDie k) (ringIx k) 0) k
    else setF s fPL_CTL_run (ringDie k) (ringIx k) 0 := rfl

theorem setRun_again (hwas : flagF s fPL_CTL_run (ringDie k) (ringIx k) = true) {t : State}
    (ht : t = setF s fPL_CTL_run (ringDie k) (ringIx k) 1) : setRun s k true = setRing t k { getRing t k with silent := false } := by
  rw [setRun, hwas, ht]
  rfl

theorem setRun_starts (hwas : flagF s fPL_CTL_run (ringDie k) (ringIx k) = false) {t : State}
    (ht : t = setF s fPL_CTL_run (ringDie k) (ringIx k) 1) :
    setRun s k true = setRing t k { getRing t k with discPend := true, silent := false } := by
  rw [setRun, hwas, ht]
  rfl

variable {rq : Requester} {v : Word}

theorem gridWrite_host (i : Nat) : gridWrite s .host k i v = s := rfl

theorem gridWrite_reg (hrq : rq ≠ .host) {i : Nat} (hi : i < 3) :
    gridWrite s rq k i v = regWrite s (gridReg i) (ringDie k) (ringIx k) v :=
  (if_neg (by rw [hostBarred_of_ne hrq]; decide)).trans (if_neg (by omega))

theorem gridWrite_lead (hrq : rq ≠ .host) : gridWrite s rq k 3 v =
    if 2000 ≤ bitsOf v.toNat 20 0 ∧ bitsOf v.toNat 20 0 + 2000 ≤ getF s fPL_PERIOD_value (ringDie k) (ringIx k) then
      setF s fPL_LEAD_value (ringDie k) (ringIx k) (bitsOf v.toNat 20 0)
    else s :=
  (if_neg (by rw [hostBarred_of_ne hrq]; decide)).trans (if_pos (Nat.le_refl 3))

end

/-- Settles O23: a returned frame by what its blocks are and say, a DLY block by its kind and number, and each write by its
requester and what the ring's registers hold. -/
theorem picklineFramesReturnAndGrid : Obligations.PicklineFramesReturnAndGrid := by
  refine ⟨?cycle, fun s k odd bl hlive h => exec_plFrameReturn_outside hlive h, ?dly, ?discover, ?run, ?grid⟩
  case cycle =>
    rintro s k odd bl r hlive rfl hrun hends
    rw [exec_plFrameReturn_inCycle hlive hrun hends]
    refine ⟨fun hparse => congrArg _ (frameBack_noFrame hparse), fun f hparse => ⟨fun h => congrArg _ (frameBack_foreign hparse h),
      fun hring hcycle => ⟨fun hbad => congrArg _ (frameBack_damaged hparse hring hcycle hbad), fun hgood hlate t ht => ?_⟩⟩⟩
    obtain rfl : t = frameNoted s k.val odd f := ht
    rw [frameBack_good hparse hring hcycle hgood, useFrame_inTime hlate]
    exact ⟨fun h => by rw [if_neg h], fun h => by rw [if_pos h]⟩
  case dly =>
    rintro s k odd x p hlive rfl hopen
    refine ⟨by rw [exec_dly_ask hlive, askDly_open hopen], ?_⟩
    rintro b q rfl
    rw [exec_dly_block hlive]
    refine ⟨fun hother => by rw [hother, if_neg Bool.false_ne_true], fun hdly hreq => ?_, fun hdly hresp hnone => ?_,
      fun hdly hresp sent hasked => ?_⟩ <;> rw [if_pos hdly]
    · rw [takeDly_request hopen hreq]
    · rw [takeDly_unasked hresp hnone]
    · rw [takeDly_response hresp hasked, if_pos rfl, dlyOf]
  case discover =>
    refine fun s rq k => ⟨?_, exec_plDiscover⟩
    rintro rfl
    exact exec_plDiscover_host
  case run =>
    refine fun s rq k => ⟨?_, fun hrq => ⟨?_, fun t ht => ⟨fun hwas => ?_, fun hwas => ?_⟩⟩⟩
    · rintro rfl v
      exact exec_plRunWrite_host v
    · rintro t rfl
      rw [exec_plRunWrite hrq, setRun_clear]
      exact ⟨fun hwas => by rw [hwas, if_neg Bool.false_ne_true], fun hwas => by rw [if_pos hwas]⟩
    · rw [exec_plRunWrite hrq, setRun_again hwas ht]
    · rw [exec_plRunWrite hrq, setRun_starts hwas ht]
  case grid =>
    rintro s rq k v x rfl
    refine ⟨?_, fun hrq => ⟨?period, ?baseNs, ?baseS, fun hout => ?_, fun hlo hhi => ?_⟩⟩
    · rintro rfl i
      rw [exec_plGridWrite, gridWrite_host]
    case period => exact congrArg _ (gridWrite_reg hrq (by decide))
    case baseNs => exact congrArg _ (gridWrite_reg hrq (by decide))
    case baseS => exact congrArg _ (gridWrite_reg hrq (by decide))
    · exact congrArg _ ((gridWrite_lead hrq).trans (if_neg (by omega)))
    · exact congrArg _ ((gridWrite_lead hrq).trans (if_pos ⟨hlo, hhi⟩))

end Sys2Proof.Machine
end

section
/-! PROOFS. Halts over the Selvedge wire (R310, R454, R455, R463 to R467): what HALT and RESUME of a complex, of a harness and of all
harnesses of a die answer to a new request, and what a harness that is halted leaves. -/

namespace Sys2Proof.Machine

/-! ## The requests as `svRequest` executes them (R451 to R454) -/

section
variable {s : State} {q : SvReq} {d : Die} {h : Harn}

theorem exec_halt_new {hard : Bool} (hnew : svNew s q (if hard then 6 else 4) = true) (tg : HaltTarget) (linked : Bool) :
    exec (.halt q d tg h hard linked) s = .next (svHalt (svKept s q) d tg h.val hard linked) :=
  congrArg Host.Outcome.next (svRequest_new (fun t => svHalt t d tg h.val hard linked) hnew)

theorem exec_resume_new (hnew : svNew s q 4 = true) (tg : HaltTarget) :
    exec (.resume q d tg h) s = .next (svResume (svKept s q) d tg h.val) :=
  congrArg Host.Outcome.next (svRequest_new (fun t => svResume t d tg h.val) hnew)

end

section
variable {t : State} {d : Die}

theorem any_harBusy : (List.range 36).any (fun k => harBusy t d k) = true ↔ ∃ k < 36, harBusy t d k = true := by simp

theorem no_harBusy (h : ∀ k < 36, harBusy t d k = false) : ¬ (List.range 36).any (fun k => harBusy t d k) = true := by simpa using h

theorem all_halted : (List.range 36).all (fun k => (getHar t d k).halted) = true ↔ ∀ k < 36, (getHar t d k).halted = true := by simp

/-! ## HALT (R463, R466, R467) -/

section
variable {h : Nat} {hard linked : Bool}

theorem svHalt_control_busy (hbusy : coresRun t d = false ∨ (getRt t d).haltWait ≠ none ∨ (getRt t d).halt ≠ .none) :
    svHalt t d .control h hard linked = svAnswer t 6 [] := by
  refine if_pos ?_
  rw [coreBusy, Bool.or_eq_true, Bool.not_eq_true', Option.isSome_iff_ne_none, or_assoc]
  exact hbusy

/-- The state in which a complex is asked to halt: the answer waits for its halt, and whether it is between a load-reserve and its
store-conditional is known. -/
def haltAsked (t : State) (d : Die) (linked : Bool) : State :=
  modRt { t with dbg := { t.dbg with haltFor := some d } } d (fun r => { r with linked := linked })

theorem svHalt_control (hrun : coresRun t d = true) (hwait : (getRt t d).haltWait = none) (hgoes : (getRt t d).halt = .none) :
    svHalt t d .control h hard linked =
      if linked || holdsSem (haltAsked t d linked) d then modRt (haltAsked t d linked) d (fun r => { r with haltWait := some hard })
      else haltNow (haltAsked t d linked) d hard := by
  have hfree : ¬ (coreBusy t d = true ∨ (getRt t d).halt ≠ .none) := by simp [coreBusy, hrun, hwait, hgoes]
  rw [svHalt, if_neg hfree]
  exact apply_ite Prod.fst _ _ _

theorem svHalt_harness_busy (hbusy : harBusy t d h = true ∨ (getHar t d h).halted = true) :
    svHalt t d .harness h hard linked = svAnswer t 6 [] :=
  if_pos (Bool.or_eq_true _ _ ▸ hbusy)

theorem svHalt_harness (hidle : harBusy t d h = false) (hgoes : (getHar t d h).halted = false) :
    svHalt t d .harness h hard linked = svAnswer (haltHarness t d h) 0 [] :=
  if_neg (by rw [hidle, hgoes]; decide)

theorem svHalt_all_busy (hbusy : (∃ k < 36, harBusy t d k = true) ∨ ∀ k < 36, (getHar t d k).halted = true) :
    svHalt t d .all h hard linked = svAnswer t 6 [] := by
  rw [← any_harBusy, ← all_halted, ← Bool.or_eq_true] at hbusy
  exact if_pos hbusy

theorem svHalt_all (hidle : ∀ k < 36, harBusy t d k = false) (hgoes : ∃ k < 36, (getHar t d k).halted = false) :
    svHalt t d .all h hard linked = svAnswer (haltAll t d) 0 [] := by
  refine if_neg ?_
  rw [Bool.or_eq_true, all_halted]
  obtain ⟨k, hk, hrun⟩ := hgoes
  exact not_or.mpr ⟨no_harBusy hidle, fun hall => by rw [hall k hk] at hrun; cases hrun⟩

end

/-! ## RESUME (R465) -/

section
variable {h : Nat}

theorem svResume_control_waits (hwait : (getRt t d).haltWait ≠ none) : svResume t d .control h = svAnswer t 6 [] :=
  if_pos (Option.isSome_iff_ne_none.mpr hwait)

section
variable (hwait : (getRt t d).haltWait = none)
include hwait

theorem svResume_control :
    svResume t d .control h = svAnswer (if (getRt t d).halt = .none then t else resumeCore t d) 0 [] :=
  if_neg (by rw [hwait]; decide)

theorem svResume_control_goes (hgoes : (getRt t d).halt = .none) : svResume t d .control h = svAnswer t 0 [] := by
  rw [svResume_control hwait, if_pos hgoes]

theorem svResume_control_halted (hhalted : (getRt t d).halt ≠ .none) :
    svResume t d .control h = svAnswer (resumeCore t d) 0 [] := by
  rw [svResume_control hwait, if_neg hhalted]

end

theorem svResume_harness_busy (hbusy : harBusy t d h = true) : svResume t d .harness h = svAnswer t 6 [] := if_pos hbusy

theorem svResume_harness (hidle : harBusy t d h = false) :
    svResume t d .harness h = svAnswer (modHar t d h (fun a => { a with halted := false })) 0 [] :=
  if_neg (by rw [hidle]; decide)

theorem svResume_all_busy (hbusy : ∃ k < 36, harBusy t d k = true) : svResume t d .all h = svAnswer t 6 [] :=
  if_pos (any_harBusy.mpr hbusy)

theorem svResume_all (hidle : ∀ k < 36, harBusy t d k = false) : svResume t d .all h =
    svAnswer ((List.range 36).foldl (fun s k => modHar s d k (fun a => { a with halted := false })) t) 0 [] :=
  if_neg (no_harBusy hidle)

end

/-! ## A harness that is halted (R310, R463) -/

theorem haltHarness_eq {s : State} {h : Nat} (ht : t = modHar s d h (fun a => { a with halted := true, stepping := 0, haltIn := 0 })) :
    haltHarness s d h = if dieHalted t d then stompRings t d else t := by
  rw [haltHarness, ht]

end

/-- Settles O52: a new request is executed on the state that keeps it, and HALT and RESUME answer there what the state of their target
chooses. -/
theorem selvedgeHaltsAndResumes : Obligations.SelvedgeHaltsAndResumes := by
  refine ⟨?halt, ?resume, ?harness⟩
  case halt =>
    intro s t q d h hard linked need hon hframed hcrc hrepeat hlen ht hneed hscope
    obtain rfl : t = svKept s q := ht
    subst hneed
    have hhalt (tg : HaltTarget) := exec_halt_new (d := d) (h := h) (svNew_of hon hframed hcrc hrepeat hlen hscope) tg linked
    rw [hhalt, hhalt, hhalt]
    refine ⟨fun hbusy => congrArg _ (svHalt_control_busy hbusy), ?_, fun hbusy => congrArg _ (svHalt_harness_busy hbusy),
      fun hidle hgoes => congrArg _ (svHalt_harness hidle hgoes), fun hbusy => congrArg _ (svHalt_all_busy hbusy),
      fun hidle hgoes => congrArg _ (svHalt_all hidle hgoes)⟩
    intro u hrun hwait hgoes hu
    obtain rfl : u = haltAsked (svKept s q) d linked := hu
    rw [svHalt_control (t := svKept s q) hrun hwait hgoes]
    exact ⟨fun h => by rw [if_pos (Bool.or_eq_true _ _ ▸ h)], fun hl hsem => by rw [if_neg (by rw [hsem, hl]; decide)]⟩
  case resume =>
    intro s t q d h hon hframed hcrc hrepeat hlen ht hscope
    obtain rfl : t = svKept s q := ht
    have hresume := exec_resume_new (d := d) (h := h) (svNew_of hon hframed hcrc hrepeat hlen hscope)
    rw [hresume, hresume, hresume]
    exact ⟨fun hwait => congrArg _ (svResume_control_waits hwait),
      fun hwait hgoes => congrArg _ (svResume_control_goes hwait hgoes),
      fun hwait hhalted => congrArg _ (svResume_control_halted hwait hhalted),
      fun hbusy => congrArg _ (svResume_harness_busy hbusy), fun hidle => congrArg _ (svResume_harness hidle),
      fun hbusy => congrArg _ (svResume_all_busy hbusy), fun hidle => congrArg _ (svResume_all hidle)⟩
  case harness =>
    intro s t d h ht
    rw [haltHarness_eq ht]
    exact ⟨fun h => by rw [if_neg (by rw [h]; decide)], fun h => by rw [if_pos h]⟩

end Sys2Proof.Machine
end

section
/-! PROOFS. The bound on staged commands over every step (R332). -/

namespace Sys2Proof.Machine

section
variable {s t : State}

theorem step_idle (h : s.pending = []) : step s = .next s := by
  rw [step, h]

theorem step_front {c : Instr} {rest : List Instr} (h : s.pending = c :: rest) : step s = exec c { s with pending := rest } := by
  rw [step, h]

/-- Taking a command from the queue leaves the staged commands, and `exec_stays` says that no command takes them over the bound. -/
theorem step_keeps_staged_bound (hbound : s.host.staged.length ≤ 1024) (hstep : step s = .next t) :
    t.host.staged.length ≤ 1024 := by
  cases hp : s.pending with
  | nil =>
    rw [step_idle hp] at hstep
    cases hstep
    exact hbound
  | cons c rest =>
    rw [step_front hp] at hstep
    obtain ⟨-, -, hkeeps⟩ := exec_stays c { s with pending := rest } t hstep
    exact hkeeps hbound

end

/-- Settles O3: an empty queue leaves the device, and each command keeps the bound. -/
theorem stagedCommandsStayWithinBound : Obligations.StagedCommandsStayWithinBound :=
  fun _ _ => step_keeps_staged_bound

end Sys2Proof.Machine
end

section
/-! PROOFS. The doorbells of a queue pair and the writes of QP_CTL (R326 to R329). -/

namespace Sys2Proof.Machine

section
variable {s : State}

/-- The function is in D0, so that the windows are open (R316). -/
theorem windowOpen_inD0 (h : s.host.d3hot = false) : windowOpen s = true := by
  rw [windowOpen, h]
  rfl

/-! ## Doorbells (R327, R328) -/

section
variable {n : Qp} {q v : Nat}

theorem exec_sqTailDoorbell (hopen : s.host.d3hot = false) (w : BitVec 16) :
    exec (.sqTailDoorbell n w) s = .next (ringBell (sqTailWrite s n.val w.toNat)) :=
  congrArg _ (if_pos (windowOpen_inD0 hopen))

theorem exec_cqHeadDoorbell (hopen : s.host.d3hot = false) (w : BitVec 16) :
    exec (.cqHeadDoorbell n w) s = .next (ringBell (cqHeadWrite s n.val w.toNat)) :=
  congrArg _ (if_pos (windowOpen_inD0 hopen))

@[simp] theorem sqTailWrite_rst : (sqTailWrite s q v).rst = s.rst := by
  unfold sqTailWrite
  split
  · rfl
  · split <;> rfl

@[simp] theorem cqHeadWrite_rst : (cqHeadWrite s q v).rst = s.rst := by
  unfold cqHeadWrite
  split
  · rfl
  · split <;> rfl

/-- Awake, a tail doorbell is no wake event: it is the write of the tail alone. -/
theorem exec_sqTailDoorbell_awake (hopen : s.host.d3hot = false) (hawake : s.rst.dozing = false) (w : BitVec 16) :
    exec (.sqTailDoorbell n w) s = .next (sqTailWrite s n.val w.toNat) := by
  rw [exec_sqTailDoorbell hopen, ringBell_awake (by rw [sqTailWrite_rst]; exact hawake)]

theorem exec_cqHeadDoorbell_awake (hopen : s.host.d3hot = false) (hawake : s.rst.dozing = false) (w : BitVec 16) :
    exec (.cqHeadDoorbell n w) s = .next (cqHeadWrite s n.val w.toNat) := by
  rw [exec_cqHeadDoorbell hopen, ringBell_awake (by rw [cqHeadWrite_rst]; exact hawake)]

theorem sqTailWrite_disabled (hen : flagF s fQP_CTL_en 0 q = false) : sqTailWrite s q v = doorbellError s :=
  if_pos (by rw [qpEnabled, hen]; rfl)

theorem cqHeadWrite_disabled (hen : flagF s fQP_CTL_en 0 q = false) : cqHeadWrite s q v = doorbellError s :=
  if_pos (by rw [qpEnabled, hen]; rfl)

theorem sqTailWrite_enabled (hen : flagF s fQP_CTL_en 0 q = true) : sqTailWrite s q v =
    if sqDepth s q ≤ v then doorbellError (stopQp s q 1) else setQp s q { getQp s q with sqTail := v } :=
  if_neg (by rw [qpEnabled, hen]; decide)

theorem cqHeadWrite_enabled (hen : flagF s fQP_CTL_en 0 q = true) : cqHeadWrite s q v =
    if cqDepth s q ≤ v then s else setQp s q { getQp s q with cqHead := v } :=
  if_neg (by rw [qpEnabled, hen]; decide)

end

/-! ## Writes of QP_CTL (R326, R327, R329) -/

theorem bitOf_eq_testBit (x i : Nat) : bitOf x i = x.testBit i := Nat.testBit_eq_decide_div_mod_eq.symm

/-- QP_ENABLE writes en = 1 and leaves coal as it is in the value. -/
theorem en_of_enable (v : Word) : bitOf (v ||| 0x80000000#32).toNat 31 = true := by
  rw [bitOf_eq_testBit, BitVec.toNat_or, Nat.testBit_or, Bool.or_eq_true]
  exact .inr (by decide)

theorem coal_of_enable (v : Word) : bitsOf (v ||| 0x80000000#32).toNat 7 0 = bitsOf v.toNat 7 0 := by
  have hen : (0x80000000#32).toNat = 2 ^ 31 := by decide
  refine Nat.eq_of_testBit_eq fun i => ?_
  rw [testBit_bitsOf, testBit_bitsOf, BitVec.toNat_or, Nat.testBit_or, hen, Nat.testBit_two_pow]
  by_cases hi : 0 + i ≤ 7
  · rw [decide_eq_false (by omega : ¬ 31 = 0 + i), Bool.or_false]
  · rw [decide_eq_false hi, Bool.false_and, Bool.false_and]

/-- QP_DISABLE writes en = 0 and leaves coal as it is in the value. -/
theorem en_of_disable (v : Word) : bitOf (v &&& 0x7FFFFFFF#32).toNat 31 = false := by
  rw [bitOf_eq_testBit, BitVec.toNat_and, Nat.testBit_and, Bool.and_eq_false_iff]
  exact .inr (by decide)

theorem coal_of_disable (v : Word) : bitsOf (v &&& 0x7FFFFFFF#32).toNat 7 0 = bitsOf v.toNat 7 0 := by
  have hen : (0x7FFFFFFF#32).toNat = 2 ^ 31 - 1 := by decide
  refine Nat.eq_of_testBit_eq fun i => ?_
  rw [testBit_bitsOf, testBit_bitsOf, BitVec.toNat_and, Nat.testBit_and, hen, Nat.testBit_two_pow_sub_one]
  by_cases hi : 0 + i ≤ 7
  · rw [decide_eq_true (by omega : 0 + i < 31), Bool.and_true]
  · rw [decide_eq_false hi, Bool.false_and, Bool.false_and]

section
variable {n : Qp}

theorem exec_qpEnable (hopen : s.host.d3hot = false) (v : Word) :
    exec (.qpEnable n v) s = .next (qpCtlWrite s n.val (v ||| 0x80000000#32)) :=
  congrArg _ (if_pos (windowOpen_inD0 hopen))

theorem exec_qpDisable (hopen : s.host.d3hot = false) (v : Word) :
    exec (.qpDisable n v) s = .next (qpCtlWrite s n.val (v &&& 0x7FFFFFFF#32)) :=
  congrArg _ (if_pos (windowOpen_inD0 hopen))

theorem exec_qpDisableTimeout : exec (.qpDisableTimeout n) s =
    .next (if (getQp s n.val).draining then endQp s n.val else s) := rfl

end

section
variable {q : Nat} {w : Word}

theorem qpCtlWrite_starts (hen : flagF s fQP_CTL_en 0 q = false) (hw : bitOf w.toNat 31 = true) :
    qpCtlWrite s q w = enableQp s q w := by
  rw [qpCtlWrite, qpEnabled, hen, hw]

theorem qpCtlWrite_staysDisabled (hen : flagF s fQP_CTL_en 0 q = false) (hw : bitOf w.toNat 31 = false) :
    qpCtlWrite s q w = regWrite s .QP_CTL 0 q w := by
  rw [qpCtlWrite, qpEnabled, hen, hw]

theorem qpCtlWrite_staysEnabled (hen : flagF s fQP_CTL_en 0 q = true) (hw : bitOf w.toNat 31 = true) :
    qpCtlWrite s q w = setF s fQP_CTL_coal 0 q (bitsOf w.toNat 7 0) := by
  rw [qpCtlWrite, qpEnabled, hen, hw]

theorem qpCtlWrite_disables (hen : flagF s fQP_CTL_en 0 q = true) (hw : bitOf w.toNat 31 = false) {t : State}
    (ht : t = setF s fQP_CTL_coal 0 q (bitsOf w.toNat 7 0)) :
    qpCtlWrite s q w = disableQp t q (BitVec.ofNat 32 ((regRaw t .QP_CTL 0 q).toNat % 2 ^ 31)) := by
  rw [qpCtlWrite, qpEnabled, hen, hw, ht]

end
end

/-- Settles O25: each doorbell by en and the depth of its queue, and each write of QP_CTL by en before and after it. -/
theorem queueDoorbellsAndEnable : Obligations.QueueDoorbellsAndEnable := by
  refine ⟨?doorbells, ?control, ?timeout⟩
  case doorbells =>
    intro s q v hopen hawake
    rw [exec_sqTailDoorbell_awake hopen hawake, exec_cqHeadDoorbell_awake hopen hawake]
    refine ⟨fun hen => ⟨?_, ?_⟩, fun hen => ?_⟩
    · rw [sqTailWrite_disabled hen, doorbellError]
    · rw [cqHeadWrite_disabled hen, doorbellError]
    · rw [sqTailWrite_enabled hen, cqHeadWrite_enabled hen]
      refine ⟨fun h => ?_, fun h => ?_, fun h => ?_, fun h => ?_⟩
      · rw [if_neg (Nat.not_le.mpr h)]
      · rw [if_pos h, doorbellError, stopQp]
      · rw [if_neg (Nat.not_le.mpr h)]
      · rw [if_pos h]
  case control =>
    intro s q v hopen
    rw [exec_qpEnable hopen, exec_qpDisable hopen]
    refine ⟨fun hen => ⟨?_, ?_⟩, fun hen t ht => ⟨?_, ?_⟩⟩
    · rw [qpCtlWrite_starts hen (en_of_enable v), enableQp]
    · rw [qpCtlWrite_staysDisabled hen (en_of_disable v)]
    · rw [qpCtlWrite_staysEnabled hen (en_of_enable v), coal_of_enable, ht]
    · rw [qpCtlWrite_disables hen (en_of_disable v) (ht.trans (by rw [coal_of_disable]))]
  case timeout =>
    intro s q
    rw [exec_qpDisableTimeout]
    exact ⟨fun h => by rw [if_pos h], fun h => by rw [h, if_neg Bool.false_ne_true]⟩

end Sys2Proof.Machine
end

section
/-! PROOFS. Completions and messages to the host, and the states of the host link (R316, R326, R328, R331, R340, R342, R343, R480). -/

namespace Sys2Proof.Machine

section
variable {s : State}

/-! ## The completion that is written next (R340) -/

section
variable {c : Completion} {cs : List Completion}

theorem nextCompletion_nil : nextCompletion s [] = none := rfl

theorem nextCompletion_writable (h : heldEvent s c = false) : nextCompletion s (c :: cs) = some (c, cs) :=
  if_neg (by rw [h]; decide)

theorem nextCompletion_held (h : heldEvent s c = true) :
    nextCompletion s (c :: cs) = (nextCompletion s cs).map (fun r => (r.1, c :: r.2)) := if_pos h

end

/-! ## COMPLETION_WRITE (R326, R328, R331) -/

theorem exec_completionWrite {n : Qp} (hopen : s.host.d3hot = false) (ok : Bool) :
    exec (.completionWrite n ok) s = .next (writeCompletion s n.val ok) :=
  congrArg _ (if_pos (windowOpen_inD0 hopen))

section
variable {q : Nat} {c : Completion} {cs : List Completion} {p : QpSt} (hp : getQp s q = p)
  (hnext : nextCompletion s p.waiting = some (c, cs))
include hp hnext

theorem writeCompletion_full (hfull : cqFree s q = 0) (ok : Bool) : writeCompletion s q ok = s := by
  rw [writeCompletion, hp, hnext]
  exact if_pos (by simp [hfull])

section
variable (hready : flagF s fQP_STAT_ready 0 q = true) (hgoes : writeStopped s q = false) (hfree : cqFree s q ≠ 0)
include hready hgoes hfree

theorem writeCompletion_fails : writeCompletion s q false = stopQp s q 3 := by
  rw [writeCompletion, hp, hnext]
  exact (if_neg (by simp [hready, hgoes, hfree])).trans (if_pos rfl)

/-- The entry is written at the tail, and the queue pair's message is due. -/
theorem writeCompletion_unbuffered (hbuf : c.buf = []) {t : State}
    (ht : t = emit s (.completion q p.cqTail (completionBytes s q c))) : writeCompletion s q true =
      (let last := decide (p.cqTail + 1 = cqDepth t q)
       queueMessage (setQp t q { p with waiting := cs, cqTail := if last then 0 else p.cqTail + 1,
                                        phase := if last then !p.phase else p.phase }) q) := by
  rw [writeCompletion, hp, hnext]
  refine (if_neg (by simp [hready, hgoes, hfree])).trans ((if_neg (by decide)).trans ?_)
  rw [if_pos hbuf, ht]

end
end

/-! ## Messages (R326, R342) -/

theorem exec_coalesceIntervalExpire {n : Qp} {p : QpSt} (hp : getQp s n.val = p) : exec (.coalesceIntervalExpire n) s = .next (
    if !p.coalBusy then s
    else if p.msgDue then sendMsi (setQp s n.val { p with msgDue := false }) (getF s fQP_CTL_vector 0 n.val)
    else setQp s n.val { p with coalBusy := false }) := by
  subst hp
  rfl

theorem exec_msixVectorUnmask {v : Fin 64} (hopen : s.host.d3hot = false) :
    exec (.msixVectorUnmask v) s = .next (unmaskVector s v.val) :=
  congrArg _ (if_pos (windowOpen_inD0 hopen))

/-- A vector is sent as it is unmasked where its bit in MSIX_PBA is set. -/
theorem unmaskVector_eq {t : State} {v b : Nat} (ht : t = setF s fMSIX_CTL_mask 0 v 0)
    (hb : b = (regRaw t .MSIX_PBA 0 (v / 32)).toNat) : unmaskVector s v =
      if bitOf b (v % 32) then
        sendMsi (setReg t .MSIX_PBA 0 (v / 32) (BitVec.ofNat 32 (putBits b (v % 32) (v % 32) 0))) v
      else t := by
  subst hb ht
  rfl

/-! ## The states of the host link (R316, R343, R480) -/

theorem exec_hostReset_linkDown : exec (.hostReset .linkDown) s = .next (cxlDown s) := rfl

theorem exec_hostReset {k : HostResetKind} (hk : k ≠ .linkDown) : exec (.hostReset k) s = .next (hostReset s) := by
  cases k with
  | linkDown => exact absurd rfl hk
  | hot | flr | cxlReset | command => rfl

theorem exec_d3hotEntry_leaves : exec (.d3hotEntry true) s = .next { s with host.d3hot := false } := rfl

theorem exec_d3hotEntry_enters : exec (.d3hotEntry false) s = .next (enterD3hot s) := rfl

theorem exec_cxlLinkRetrain_fails (w : Word) : exec (.cxlLinkRetrain false w) s = .next (cxlDown s) := rfl

/-- A retrain that ends while the link was up is counted, and no reset source waits for its end. -/
theorem exec_cxlLinkRetrain_up (hsupply : s.ports.supply = true) (hup : flagF s fCXL_LINK_STAT_up 0 0 = true) {w : Word} {t : State}
    (ht : t = countF (setReg s .CXL_LINK_STAT 0 0 (BitVec.ofNat 32 (2 ^ 31 + bitsOf w.toNat 30 19 * 2 ^ 19 +
      (regRaw s .CXL_LINK_STAT 0 0).toNat % 65536))) fCXL_LINK_STAT_retrain_cnt 0 0) :
    exec (.cxlLinkRetrain true w) s = .next t := by
  have hexec : exec (.cxlLinkRetrain true w) s = execCxlLinkRetrain true w s := rfl
  rw [hexec, execCxlLinkRetrain, hsupply, hup, if_pos (by decide), ht]
  rfl

end

/-- Settles O26: the next completion along the list that waits, and each command by its checks in their order. -/
theorem completionsAndMessagesReachTheHost : Obligations.CompletionsAndMessagesReachTheHost := by
  refine ⟨?write, fun s => ⟨nextCompletion_nil, fun c cs => ⟨nextCompletion_writable, nextCompletion_held⟩⟩, ?interval, ?unmask,
    fun s k => ⟨exec_hostReset, exec_hostReset_linkDown⟩, ?d3hot,
    fun s t w hsupply ht => ⟨fun hup => exec_cxlLinkRetrain_up hsupply hup ht, exec_cxlLinkRetrain_fails w⟩⟩
  case write =>
    intro s q c cs p hopen hp hready hnext hgoes
    rw [exec_completionWrite hopen, exec_completionWrite hopen]
    refine ⟨fun hfull ok => ?_, fun hfree => ⟨?_, fun hbuf t ht => ?_⟩⟩
    · rw [exec_completionWrite hopen, writeCompletion_full hp hnext hfull]
    · rw [writeCompletion_fails hp hnext hready hgoes hfree]
    · rw [writeCompletion_unbuffered hp hnext hready hgoes hfree hbuf ht]
      exact ⟨fun h => by rw [decide_eq_false h]; rfl, fun h => by rw [decide_eq_true h]; rfl⟩
  case interval =>
    intro s q p hp
    rw [exec_coalesceIntervalExpire hp]
    refine ⟨fun hidle => ?_, fun hbusy hdue => ?_, fun hbusy hnone => ?_⟩
    · rw [hidle]
      rfl
    · rw [hbusy, hdue]
      rfl
    · rw [hbusy, hnone]
      rfl
  case unmask =>
    intro s t v b hopen ht hb
    rw [exec_msixVectorUnmask hopen, unmaskVector_eq ht hb]
    exact ⟨fun h => by rw [h, if_neg Bool.false_ne_true], fun h => by rw [if_pos h]⟩
  case d3hot =>
    rintro s t rfl
    exact ⟨exec_d3hotEntry_enters, exec_d3hotEntry_leaves⟩

end Sys2Proof.Machine
end

section
/-! PROOFS. The way of a command from its queue to its effect (R326, R330, R332, R333, R355). -/

namespace Sys2Proof.Machine

section
variable {s : State}

/-! ## COMMAND_FETCH (R326, R330, R332) -/

/-- No queue pair can be fetched from while the device holds as many staged commands as it can. -/
theorem canFetch_full (hfull : 1024 ≤ s.host.staged.length) (q : Nat) : canFetch s q = false := by
  have hroom : decide (s.host.staged.length < 1024) = false := decide_eq_false (Nat.not_lt.mpr hfull)
  rw [canFetch, hroom, Bool.and_false, Bool.false_and]

section
variable {q : Qp} {e : BitVec 512} {buf : List Byte} {bo : Bool}

theorem exec_commandFetch (ok : Bool) : exec (.commandFetch q e ok buf bo) s = .next (commandFetch s q e ok buf bo) := rfl

theorem commandFetch_barred (hno : canFetch s q.val = false) (ok : Bool) : commandFetch s q e ok buf bo = s :=
  if_pos (by rw [hno]; rfl)

section
variable (hcan : canFetch s q.val = true)
include hcan

theorem commandFetch_readFails : commandFetch s q e false buf bo = stopQp s q.val 2 :=
  (if_neg (by rw [hcan]; decide)).trans (if_pos rfl)

/-- An entry that is read is taken, unless its command is fenced and earlier ones are in flight (R330). -/
theorem commandFetch_read {c : HostCmd} (hc : c = parseEntry q e buf bo) : commandFetch s q e true buf bo =
    if c.fence && decide (0 < (getQp s q.val).inFlight) then s else takeEntry s q e c := by
  rw [hc]
  exact (if_neg (by rw [hcan]; decide)).trans (if_neg (by decide))

end
end

/-! ## What becomes of an entry that is taken (R332, R333) -/

/-- The state in which an entry of a queue pair is taken: sq_head advances, and its command counts as in flight. -/
def entryTaken (s : State) (q : Nat) : State :=
  let h := getF s fQP_STAT_sq_head 0 q + 1
  let t := setF s fQP_STAT_sq_head 0 q (if h = sqDepth s q then 0 else h)
  setQp t q { getQp t q with inFlight := (getQp t q).inFlight + 1 }

section
variable {q : Qp} {e : BitVec 512} {c : HostCmd}

theorem takeEntry_checked {code : Nat} (hcheck : fetchCheck e c = some code) :
    takeEntry s q e c = finish (entryTaken s q.val) c code 0 := by
  rw [takeEntry, hcheck, entryTaken]

section
variable (hpass : fetchCheck e c = none)
include hpass

theorem takeEntry_turnedAway {code : Nat} (haway : turnedAway (entryTaken s q.val) c = some code) :
    takeEntry s q e c = finish (entryTaken s q.val) c code 0 := by
  rw [entryTaken] at haway
  rw [takeEntry, hpass, entryTaken]
  dsimp only at haway ⊢
  rw [haway]

theorem takeEntry_accepted {u : State} (hu : u = entryTaken s q.val) (haway : turnedAway u c = none) : takeEntry s q e c =
    if isStaged c.opcode.toNat then { u with host.staged := u.host.staged ++ [{ cmd := c, tick := u.vigil.ticks }] }
    else handOver u c := by
  subst hu
  rw [entryTaken] at haway ⊢
  rw [takeEntry, hpass]
  dsimp only at haway ⊢
  rw [haway]

end
end

/-! ## MAILBOX_MESSAGE (R355) -/

/-- A complex that runs serves the first command of its mailbox, unless it is that of a die 1 split off or lost. -/
theorem exec_mailboxMessage {d : Die} {m : Handed} {ms : List Handed} (hbox : (getRt s d).mailbox = m :: ms)
    (hreach : d = 0 ∨ apart s = false) (hruns : fwRuns s d = true) : exec (.mailboxMessage d) s =
      .next (if m.mute then applyMute (setRt s d { getRt s d with mailbox := ms }) m.cmd
        else applyCmd (setRt s d { getRt s d with mailbox := ms }) m.cmd) := by
  have hexec : exec (.mailboxMessage d) s = .next (mailboxMessage s d) := rfl
  have hhere : ¬ (d = 1 ∧ apart s = true) := by
    rintro ⟨rfl, hap⟩
    rcases hreach with h | h
    · cases h
    · rw [hap] at h
      cases h
  rw [hexec, mailboxMessage, hbox]
  exact congrArg _ ((if_neg hhere).trans (if_neg (by rw [hruns]; decide)))

end

/-- Settles O27: a fetch by the checks of the engine and of the entry in their order, and a mailbox by its first command. -/
theorem commandsAreFetchedAndServed : Obligations.CommandsAreFetchedAndServed := by
  refine ⟨fun s => canFetch_full, fun s q e ok buf bo hno => ?barred, fun s q e buf bo hcan => ?fails, ?taken, ?mailbox⟩
  case barred => rw [exec_commandFetch, commandFetch_barred hno]
  case fails => rw [exec_commandFetch, commandFetch_readFails hcan]
  case taken =>
    intro s q e buf bo c hcan hc
    rw [exec_commandFetch, commandFetch_read hcan hc]
    refine ⟨fun hfence hbusy => ?_, fun hgoes t u ht hu => ?_⟩
    · rw [hfence, decide_eq_true hbusy, Bool.and_self, if_pos rfl]
    · obtain rfl : u = entryTaken s q.val := by rw [hu, ht, entryTaken]
      have hfree : ¬ (c.fence && decide (0 < (getQp s q.val).inFlight)) = true := by
        rcases hgoes with h | h <;> simp [h]
      rw [if_neg hfree]
      refine ⟨fun code hcheck => ?_, fun hpass => ⟨fun code haway => ?_, fun haway => ⟨fun hstaged => ?_, fun hnow => ?_⟩⟩⟩
      · rw [takeEntry_checked hcheck]
      · rw [takeEntry_turnedAway hpass haway]
      · rw [takeEntry_accepted hpass rfl haway, if_pos hstaged]
      · rw [takeEntry_accepted hpass rfl haway, hnow, if_neg Bool.false_ne_true]
  case mailbox =>
    rintro s t d m ms hbox rfl hreach hruns
    rw [exec_mailboxMessage hbox hreach hruns]
    exact ⟨fun h => by rw [h, if_neg Bool.false_ne_true], fun h => by rw [if_pos h]⟩

end Sys2Proof.Machine
end

section
/-! PROOFS. The reset sources and the stages of a release (R419, R422, R423, R426, R445). -/

namespace Sys2Proof.Machine

section
variable {s : State} {d : Die}

/-! ## Sources (R419, R422, R423) -/

section
variable {n : Nat}

theorem exec_resetSourceAssert (k : Fin 13) : exec (.resetSourceAssert d k) s = .next (sourceAssert s d k.val) := rfl

theorem sourceAssert_ignored (h : outsideSource n = false ∨ s.rst.asserted.any (fun a => decide (a.src = n)) = true) :
    sourceAssert s d n = s := by
  refine if_pos ?_
  rcases h with h | h <;> simp [h]

theorem sourceAssert_starts (hout : outsideSource n = true) (hnew : s.rst.asserted.any (fun a => decide (a.src = n)) = false)
    {t : State} (ht : t = assertReset s n { level := reachOf s d n, die := d, har := 0 }) :
    sourceAssert s d n = if n = 7 then countF t fREFCLK_STAT_fails d 0 else t := by
  rw [ht]
  exact if_neg (by rw [hout, hnew]; decide)

theorem exec_resetSourceRelease (k : Fin 13) : exec (.resetSourceRelease d k) s = .next (sourceRelease s d k.val) := rfl

theorem sourceRelease_kept (h : n = 6 ∨ n = 8 ∨ (n = 11 ∧ getF s fCXL_LINK_STAT_up 0 0 = 0)) : sourceRelease s d n = s := if_pos h

theorem sourceRelease_ends (hdebug : n ≠ 6) (hclock : n ≠ 8) (hhost : n ≠ 11 ∨ getF s fCXL_LINK_STAT_up 0 0 ≠ 0) :
    sourceRelease s d n =
      (s.rst.asserted.filter (fun a => decide (a.src = n) && (!perDie n || decide (a.die = d)))).foldl releaseReset s := by
  refine if_neg ?_
  rintro (h | h | ⟨h, hdown⟩)
  · exact hdebug h
  · exact hclock h
  · exact hhost.elim (fun hn => hn h) (fun hup => hup hdown)

end

/-! ## RST_REQ (R445) -/

section
variable {rq : Requester} {v : Word}

theorem exec_rstReqGo : exec (.rstReqGo rq d v) s = .next (rstReq s rq d v) := rfl

theorem rstReq_host : rstReq s .host d v = s := if_pos rfl

section
variable (hrq : rq ≠ .host) {t : State} (ht : t = regWrite s .RST_REQ d 0 v)
include hrq ht

/-- The firmware's write stores the register, and where go is set with a level that exists it asserts source 5. -/
theorem rstReq_firmware : rstReq s rq d v =
    if !bitOf v.toNat 31 ∨ bitsOf v.toNat 18 16 = 0 ∨ (bitsOf v.toNat 18 16 = 5 ∧ 36 ≤ bitsOf v.toNat 5 0) then t
    else match levelOf (bitsOf v.toNat 18 16) with
      | some l => assertReset t 5 { level := l, die := d, har := if l = .harness then bitsOf v.toNat 5 0 else 0 }
      | none => t := by
  rw [ht]
  exact if_neg (by rw [hostBarred_of_ne hrq]; decide)

theorem rstReq_stores (h : bitOf v.toNat 31 = false ∨ bitsOf v.toNat 18 16 = 0 ∨ 6 ≤ bitsOf v.toNat 18 16) :
    rstReq s rq d v = t := by
  rw [rstReq_firmware hrq ht]
  rcases h with h | h | h
  · exact if_pos (.inl (by rw [h]; rfl))
  · exact if_pos (.inr (.inl h))
  · rw [levelOf_reserved h]
    exact ite_self t

theorem rstReq_noHarness (hlevel : bitsOf v.toNat 18 16 = 5) (hhar : 36 ≤ bitsOf v.toNat 5 0) : rstReq s rq d v = t := by
  rw [rstReq_firmware hrq ht]
  exact if_pos (.inr (.inr ⟨hlevel, hhar⟩))

section
variable (hgo : bitOf v.toNat 31 = true)
include hgo

theorem rstReq_harness (hlevel : bitsOf v.toNat 18 16 = 5) (hhar : bitsOf v.toNat 5 0 < 36) :
    rstReq s rq d v = assertReset t 5 { level := .harness, die := d, har := bitsOf v.toNat 5 0 } := by
  rw [rstReq_firmware hrq ht, hgo, hlevel]
  exact if_neg (by simp [hhar])

/-- A level above HARNESS resets the die, the device or the part that it names, whatever harness the register names. -/
theorem rstReq_level {l : Level} (hlevel : levelOf (bitsOf v.toNat 18 16) = some l) (hpower : l ≠ .power) (hharness : l ≠ .harness) :
    rstReq s rq d v = assertReset t 5 { level := l, die := d, har := 0 } := by
  have h0 : bitsOf v.toNat 18 16 ≠ 0 := fun h => by
    rw [h] at hlevel
    exact hpower (Option.some.inj hlevel).symm
  have h5 : bitsOf v.toNat 18 16 ≠ 5 := fun h => by
    rw [h] at hlevel
    exact hharness (Option.some.inj hlevel).symm
  rw [rstReq_firmware hrq ht, hlevel, if_neg (by simp [hgo, h0, h5])]
  dsimp only
  rw [if_neg hharness]

end
end
end

/-! ## RELEASE_STAGE (R422, R426) -/

section
variable {cs : Bool}

theorem exec_releaseStage : exec (.releaseStage d cs) s = .next (releaseStage s d cs) := rfl

theorem releaseStage_waits (h : dieHeld s d = true ∨ 8 ≤ getStage s d ∨ s.rst.dozing = true ∨ s.rst.vigil = true ∨
    (getStage s d = 5 ∧ poweringUp s d = true)) : releaseStage s d cs = s := by
  refine if_pos ?_
  rcases h with h | h | h | h | ⟨h, hup⟩ <;> simp [*]

/-- What a stage of a release does once it is noted. -/
def stageEffect (t : State) (d : Die) (cs : Bool) : Nat → State
  | 0 => if d = 0 then vigilOn t else t
  | 1 => if d = 0 then turnOn t 0 64 else t
  | 2 => optionLoader t d cs
  | 3 => networkOn t d
  | 4 => blocksOn t d
  | 6 => (List.range 36).foldl (fun s h => openHarness s d h) t
  | 7 => if d = 0 then releaseHost (showReady t) else t
  | _ => t

theorem releaseStage_runs (hfree : dieHeld s d = false) (hawake : s.rst.dozing = false) (hvigil : s.rst.vigil = false) {k : Nat}
    (hk : getStage s d = k) (hlast : k < 8) (hup : k = 5 → poweringUp s d = false) :
    releaseStage s d cs = stageEffect (setStage s d (k + 1)) d cs k := by
  have hgo : ¬ (dieHeld s d || decide (8 ≤ k) || s.rst.dozing || s.rst.vigil || (decide (k = 5) && poweringUp s d)) = true := by
    simpa [hfree, hawake, hvigil, hlast] using hup
  rw [releaseStage, hk]
  exact if_neg hgo

end
end

/-- Settles O45: a source by whether it may assert or end, RST_REQ by its requester and its level, and a release by its stage. -/
theorem resetSourcesAndRelease : Obligations.ResetSourcesAndRelease := by
  refine ⟨?assert, ?release, ?request, ?waits, ?stages⟩
  case assert =>
    intro s d n
    rw [exec_resetSourceAssert]
    refine ⟨fun h => by rw [sourceAssert_ignored h], fun hout hnew t ht => ?_⟩
    rw [sourceAssert_starts hout hnew ht]
    exact ⟨fun h => by rw [if_neg h], fun h => by rw [if_pos h]⟩
  case release =>
    intro s d n
    rw [exec_resetSourceRelease]
    exact ⟨fun h => by rw [sourceRelease_kept h], fun h6 h8 h11 => by rw [sourceRelease_ends h6 h8 h11]⟩
  case request =>
    rintro s rq d v t l ht rfl
    rw [exec_rstReqGo]
    refine ⟨?_, fun hrq h => congrArg _ (rstReq_stores hrq ht h), fun hrq hgo => ?_⟩
    · rintro rfl
      rw [rstReq_host]
    · have hasserts {l : Level} := rstReq_level hrq ht hgo (l := l)
      refine ⟨fun h => ?_, fun h => ?_, fun h => ?_, fun h => ?_, fun h hh => ?_, fun h hh => ?_⟩
      · rw [hasserts (congrArg levelOf h) (by decide) (by decide)]
      · rw [hasserts (congrArg levelOf h) (by decide) (by decide)]
      · rw [hasserts (congrArg levelOf h) (by decide) (by decide)]
      · rw [hasserts (congrArg levelOf h) (by decide) (by decide)]
      · rw [rstReq_harness hrq ht hgo h hh]
      · rw [rstReq_noHarness hrq ht h hh]
  case waits =>
    intro s d cs h
    rw [exec_releaseStage, releaseStage_waits h]
  case stages =>
    rintro s d cs k t hfree hawake hvigil hk rfl
    have hruns := releaseStage_runs hfree hawake hvigil hk (cs := cs)
    rw [exec_releaseStage]
    refine ⟨?_, ?_, ?_, ?_, ?_, ?five, ?_, ?_⟩
    case five =>
      rintro rfl hup
      exact congrArg _ (hruns (by decide) fun _ => hup)
    all_goals
      rintro rfl
      exact congrArg _ (hruns (by decide) nofun)

end Sys2Proof.Machine
end

section
/-! PROOFS. A step and its queue (R421, R431), and the state after a POWER reset (R332). -/

namespace Sys2Proof.Machine

section
variable {s t : State} {c : Instr} {rest : List Instr}

theorem step_withFront (c : Instr) (s : State) : step (s.withFront c) = exec c s := step_front rfl

/-- `exec_stays` says of each command that it leaves the queue it is given and the fuses. -/
theorem step_keeps_rest_and_fuses (hqueue : s.pending = c :: rest) (hstep : step s = .next t) :
    t.pending = rest ∧ t.fuses = s.fuses := by
  rw [step_front hqueue] at hstep
  obtain ⟨hpending, hfuses, -⟩ := exec_stays c { s with pending := rest } t hstep
  exact ⟨hpending, hfuses⟩

/-- A memory that lists nothing is in canonical form. -/
theorem wf_empty : Memory.wf [] = true := rfl

end

/-- Settles O4: the command at the front runs on the rest of the queue, and no command changes the queue or the fuses. -/
theorem stepPopsOneCommand : Obligations.StepPopsOneCommand :=
  fun _ _ _ _ => step_keeps_rest_and_fuses

/-- Settles O1: the three cases of `step` over the queue. -/
theorem stepTakesFrontOfQueue : Obligations.StepTakesFrontOfQueue :=
  ⟨step_withFront, fun _ _ _ => step_front, fun _ => step_idle⟩

/-- Settles O2: the reset state has nothing in its queue, its staged commands and its memories. -/
theorem resetMeetsInvariant : Obligations.ResetMeetsInvariant :=
  ⟨rfl, Nat.zero_le _, rfl, wf_empty, wf_empty, wf_empty, wf_empty, wf_empty, wf_empty, wf_empty⟩

end Sys2Proof.Machine
end

section
/-! PROOFS. Unlocks over the Selvedge wire (R447, R458 to R460): the nonce, what an UNLOCK answers, and the lock after three
failures. -/

namespace Sys2Proof.Machine

section
variable {s : State} {q : SvReq}

/-! ## The requests as `svRequest` executes them (R451 to R454) -/

theorem exec_challenge_new (hnew : svNew s q 0 = true) : exec (.challenge q) s = .next (svChallenge (svKept s q)) :=
  congrArg Host.Outcome.next (svRequest_new svChallenge hnew)

theorem exec_lock_new (hnew : svNew s q 0 = true) : exec (.lock q) s = .next (svLock (svKept s q)) :=
  congrArg Host.Outcome.next (svRequest_new svLock hnew)

theorem exec_unlock_new (hnew : svNew s q 0 = true) (scope slot : Byte) (key sig : List Byte) :
    exec (.unlock q scope slot key sig) s = .next (svUnlock (svKept s q) scope slot.toNat key sig) :=
  congrArg Host.Outcome.next (svRequest_new (fun t => svUnlock t scope slot.toNat key sig) hnew)

end

/-! ## UNLOCK (R458 to R460) -/

section
variable {t : State} {scope : Byte} {slot : Nat} {key sig : List Byte}

/-- The nonce has served its one UNLOCK (R458). -/
def nonceUsed (t : State) : State := { t with dbg := { t.dbg with nonce := none } }

theorem svUnlock_reserved (h : 8 ≤ scope.toNat ∨ 2 ≤ slot) : svUnlock t scope slot key sig = svAnswer t 2 [] := if_pos h

section
variable (hscope : scope.toNat < 8) (hslot : slot < 2)
include hscope hslot

theorem svUnlock_lockedOut (hout : flagF t fDBG_STAT_lockout 0 0 = true) :
    svUnlock t scope slot key sig = svAnswer (nonceUsed t) 5 [] :=
  (if_neg (by omega)).trans (if_pos hout)

/-- An UNLOCK is checked while unlocks are not locked out, and fails or grants its scopes. -/
theorem svUnlock_checked (hopen : flagF t fDBG_STAT_lockout 0 0 = false) : svUnlock t scope slot key sig =
    if unlockGood t scope slot key sig then
      svAnswer (setF { nonceUsed t with dbg := { (nonceUsed t).dbg with fails := 0 } } fDBG_STAT_scope 0 0
        (Nat.lor (svScopes t) (scopesGranted t scope.toNat))) (if scopesGranted t scope.toNat = scope.toNat then 0 else 3) []
    else unlockFailed (nonceUsed t) := by
  refine (if_neg (by omega)).trans ((if_neg (hopen.symm ▸ Bool.false_ne_true)).trans ?_)
  cases hgood : unlockGood t scope slot key sig <;> rfl

end

/-- A failed UNLOCK is counted, and the third in a row starts the lockout (R460). -/
theorem unlockFailed_eq {v : State} (hv : v = countF t fDBG_STAT_fails 0 0) : unlockFailed t =
    if t.dbg.fails < 2 then svAnswer { v with dbg := { v.dbg with fails := t.dbg.fails + 1 } } 5 []
    else svAnswer (setF { v with dbg := { v.dbg with fails := 0 } } fDBG_STAT_lockout 0 0 1) 5 [] := by
  subst hv
  have hcount : (countF t fDBG_STAT_fails 0 0).dbg = t.dbg := rfl
  by_cases hfew : t.dbg.fails < 2
  · have hthird : t.dbg.fails + 1 < 3 := by omega
    simp only [unlockFailed, hcount, if_pos hfew, if_pos hthird]
  · have hthird : ¬ t.dbg.fails + 1 < 3 := by omega
    simp only [unlockFailed, hcount, if_neg hfew, if_neg hthird]

theorem unlockGood_noNonce (h : t.dbg.nonce = none) : unlockGood t scope slot key sig = false := by
  rw [unlockGood, h]

theorem unlockGood_nonce {k : Nat} (h : t.dbg.nonce = some k) : unlockGood t scope slot key sig =
    (decide (t.fuses.debugKeys.getD slot none = some (sha384Nat key)) &&
      ecdsaVerify key sig (sha384Nat (leBytes 16 (Config.nonce k).toNat ++ leBytes 8 t.fuses.serial.toNat ++ [scope]))) := by
  rw [unlockGood, h]

end

/-! ## The end of the nonce and of the lockout (R458, R460) -/

section
variable {s : State}

theorem exec_nonceExpire : exec .nonceExpire s = .next (nonceUsed s) := rfl

theorem exec_unlockLockoutEnd : exec .unlockLockoutEnd s =
    .next (if flagF s fDBG_STAT_lockout 0 0 then setF s fDBG_STAT_lockout 0 0 0 else s) := rfl

end

/-- Settles O51: a new request is executed on the state that keeps it; UNLOCK by its operands, the lockout and its check. -/
theorem selvedgeUnlocks : Obligations.SelvedgeUnlocks := by
  refine ⟨?requests, fun s scope slot key sig => ⟨unlockGood_noNonce, fun k => unlockGood_nonce⟩, fun s =>
    ⟨exec_nonceExpire, fun hout => ?ends, fun hopen => ?none⟩⟩
  case requests =>
    intro s t q hon hframed hcrc hrepeat hlen ht
    obtain rfl : t = svKept s q := ht
    have hnew := svNew_of hon hframed hcrc hrepeat hlen scopesHeld_none
    refine ⟨exec_challenge_new hnew, exec_lock_new hnew, fun scope slot key sig u hu => ?_⟩
    obtain rfl : u = nonceUsed (svKept s q) := hu
    rw [exec_unlock_new hnew]
    refine ⟨fun h => congrArg _ (svUnlock_reserved h), fun hscope hslot =>
      ⟨fun hout => congrArg _ (svUnlock_lockedOut hscope hslot hout), fun hopen v w g hv hg hw => ?_⟩⟩
    rw [svUnlock_checked (t := svKept s q) hscope hslot hopen, unlockFailed_eq hv, hw, hg]
    rfl
  case ends => rw [exec_unlockLockoutEnd, if_pos hout]
  case none => rw [exec_unlockLockoutEnd, if_neg (hopen.symm ▸ Bool.false_ne_true)]

end Sys2Proof.Machine
end

section
/-! PROOFS. Steps of a harness and the debug reset over the Selvedge wire (R457, R465). -/

namespace Sys2Proof.Machine

section
variable {s : State} {q : SvReq} {d : Die} {h : Harn}

/-! ## The requests as `svRequest` executes them (R451 to R454) -/

theorem exec_svStep_new (hnew : svNew s q 4 = true) (n : BitVec 16) :
    exec (.svStep q d h n) s = .next (svStepDo (svKept s q) d h.val n.toNat) :=
  congrArg Host.Outcome.next (svRequest_new (fun t => svStepDo t d h.val n.toNat) hnew)

theorem exec_rstAssert_new (hnew : svNew s q 4 = true) (level : Byte) :
    exec (.rstAssert q level d h) s = .next (svAssert (svKept s q) level.toNat d h.val) :=
  congrArg Host.Outcome.next (svRequest_new (fun t => svAssert t level.toNat d h.val) hnew)

theorem exec_rstRelease_new (hnew : svNew s q 4 = true) : exec (.rstRelease q) s = .next (svRelease (svKept s q)) :=
  congrArg Host.Outcome.next (svRequest_new svRelease hnew)

theorem exec_stepDone : exec (.stepDone d h) s = .next (if 0 < (getHar s d h.val).stepping then haltHarness s d h.val else s) := rfl

end

section
variable {t : State} {d : Die} {h n : Nat}

/-! ## STEP (R465) -/

theorem svStepDo_noCycles (hn : n = 0) : svStepDo t d h n = svAnswer t 2 [] := if_pos hn

theorem svStepDo_busy (hn : n ≠ 0) (hbusy : harBusy t d h = true ∨ (getHar t d h).halted = false) :
    svStepDo t d h n = svAnswer t 6 [] :=
  (if_neg hn).trans (if_pos (by rwa [Bool.or_eq_true, Bool.not_eq_true']))

theorem svStepDo_runs (hn : n ≠ 0) (hidle : harBusy t d h = false) (hhalted : (getHar t d h).halted = true) :
    svStepDo t d h n = svAnswer (modHar t d h (fun a => { a with stepping := n })) 0 [] :=
  (if_neg hn).trans (if_neg (by rw [hidle, hhalted]; decide))

/-! ## RST_ASSERT and RST_RELEASE (R457) -/

theorem svAssert_reserved (hn : n = 0 ∨ 5 < n) : svAssert t n d h = svAnswer t 2 [] := by
  rcases hn with rfl | hn
  · rfl
  · rw [svAssert, levelOf_reserved hn]

section
variable {l : Level} (hl : levelOf n = some l) (hpower : l ≠ .power)
include hl hpower

theorem svAssert_busy (hheld : t.dbg.rstHeld ≠ none) : svAssert t n d h = svAnswer t 6 [] := by
  rw [svAssert, hl]
  exact (if_neg hpower).trans (if_pos (Option.isSome_iff_ne_none.mpr hheld))

theorem svAssert_asserts (hfree : t.dbg.rstHeld = none) {k : Nat} (hk : k = if l = .harness then h else 0) :
    svAssert t n d h =
      svAnswer (assertReset { t with dbg := { t.dbg with rstHeld := some ⟨6, l, d, k⟩ } } 6 ⟨l, d, k⟩) 0 [] := by
  rw [svAssert, hl, hk]
  exact (if_neg hpower).trans (if_neg (by rw [hfree]; decide))

end

theorem svRelease_notAsserted (hfree : t.dbg.rstHeld = none) : svRelease t = svAnswer t 0 [] := by
  rw [svRelease, hfree]

theorem svRelease_asserted {a : Asserted} (hheld : t.dbg.rstHeld = some a) :
    svRelease t = svAnswer (releaseReset { t with dbg := { t.dbg with rstHeld := none } } a) 0 [] := by
  rw [svRelease, hheld]

end

/-- The codes of the levels that RST_ASSERT takes (R457). -/
theorem levelOf_named {level : Byte} {l : Level}
    (hmem : (level, l) ∈ [((1 : Byte), Level.device), (2, .die), (3, .host), (4, .control), (5, .harness)]) :
    levelOf level.toNat = some l ∧ l ≠ .power := by
  simp only [List.mem_cons, Prod.mk.injEq, List.not_mem_nil, or_false] at hmem
  rcases hmem with ⟨rfl, rfl⟩ | ⟨rfl, rfl⟩ | ⟨rfl, rfl⟩ | ⟨rfl, rfl⟩ | ⟨rfl, rfl⟩ <;> exact ⟨rfl, nofun⟩

/-- Settles O53: a new request is executed on the state that keeps it, and answers there by its operands and the state of its
target. -/
theorem selvedgeStepsAndResets : Obligations.SelvedgeStepsAndResets := by
  refine ⟨?requests, fun s d h => ⟨fun hsteps => ?steps, fun hends => ?idle⟩⟩
  case requests =>
    intro s t q hon hframed hcrc hrepeat hlen ht hrun
    obtain rfl : t = svKept s q := ht
    have hnew := svNew_of hon hframed hcrc hrepeat hlen hrun
    refine ⟨fun d h n => ?_, fun level d h => ?_, ?_, ?_⟩
    · have hcycles : n ≠ 0 → n.toNat ≠ 0 := fun hn h0 => hn (BitVec.eq_of_toNat_eq h0)
      rw [exec_svStep_new hnew]
      exact ⟨fun hn => congrArg _ (svStepDo_noCycles (congrArg BitVec.toNat hn)),
        fun hn hbusy => congrArg _ (svStepDo_busy (hcycles hn) hbusy),
        fun hn hidle hhalted => congrArg _ (svStepDo_runs (hcycles hn) hidle hhalted)⟩
    · rw [exec_rstAssert_new hnew]
      have hzero : level = 0 → level.toNat = 0 := congrArg BitVec.toNat
      refine ⟨fun hres => congrArg _ (svAssert_reserved (hres.imp_left hzero)), fun l k hmem hk => ?_⟩
      obtain ⟨hl, hpower⟩ := levelOf_named hmem
      exact ⟨fun hheld => congrArg _ (svAssert_busy (t := svKept s q) hl hpower hheld),
        fun hfree => congrArg _ (svAssert_asserts (t := svKept s q) hl hpower hfree hk)⟩
    · exact fun hfree => (exec_rstRelease_new hnew).trans (congrArg _ (svRelease_notAsserted (t := svKept s q) hfree))
    · exact fun a hheld => (exec_rstRelease_new hnew).trans (congrArg _ (svRelease_asserted (t := svKept s q) hheld))
  case steps => rw [exec_stepDone, if_pos hsteps]
  case idle => rw [exec_stepDone, hends, if_neg (Nat.lt_irrefl 0)]

end Sys2Proof.Machine
end

section
/-! PROOFS. The time of the Vigil domain (R353, R440 to R442, R445): a tick of its counter, its PPS output, the writes that load and
step it, and its discipline by PPS in. -/

namespace Sys2Proof.Machine

/-! ## Ticks (R440) -/

section
variable {s : State}

theorem vigilTick_asleep (h : vigilRuns s = false) : vigilTick s = s := if_pos (by rw [h]; rfl)

/-- The counter takes the time of VGL_SET or adds VGL_INC, and then a step that waits. -/
theorem nextTime_eq {b x : Int} (hb : b = if s.vigil.load then setTime s else vigilTime s.vigil + getF s fVGL_INC_inc 0 0)
    (hx : s.vigil.step = none ∧ x = b ∨ ∃ n, s.vigil.step = some n ∧ x = b + n.toInt * 2 ^ 24) : nextTime s = x := by
  rcases hx with ⟨hstep, rfl⟩ | ⟨n, hstep, rfl⟩ <;> rw [nextTime, hstep, hb]

theorem vigilTick_counts (hruns : vigilRuns s = true) {x : Int} (hx : nextTime s = x) {v : VigilSt} (hv : v = putTime s.vigil x) :
    vigilTick s = timersAt (ppsOut { s with vigil := { v with load := false, step := none, ticks := v.ticks + 1 } }
      (decide (v.seconds ≠ s.vigil.seconds))) := by
  rw [hv, ← hx]
  exact if_neg (by rw [hruns]; decide)

end

/-! ## The PPS output (R442) -/

section
variable {s : State} (hon : flagF s fVGL_CTL_pps_en 0 0 = true)
include hon

theorem ppsOut_rises {w : Nat} (hw : w = getF s fVGL_CTL_pps_w 0 0 * 25000) (hpos : 0 < w) (hlow : s.vigil.ppsHigh = 0) :
    ppsOut s true = emit { s with vigil.ppsHigh := w } (.pps true) := by
  subst hw
  simp [ppsOut, hon, hlow, hpos]

theorem ppsOut_low (hlow : s.vigil.ppsHigh = 0) : ppsOut s false = { s with vigil.ppsHigh := 0 } := by
  simp [ppsOut, hon, hlow]

theorem ppsOut_falls (hlast : s.vigil.ppsHigh = 1) : ppsOut s false = emit { s with vigil.ppsHigh := 0 } (.pps false) := by
  simp [ppsOut, hon, hlast]

theorem ppsOut_high (hhigh : 1 < s.vigil.ppsHigh) : ppsOut s false = { s with vigil.ppsHigh := s.vigil.ppsHigh - 1 } := by
  have hnow : s.vigil.ppsHigh ≠ 0 := by omega
  have hnext : s.vigil.ppsHigh - 1 ≠ 0 := by omega
  simp [ppsOut, hon, hnow, hnext]

end

/-! ## VGL_LOAD and VGL_STEP (R440, R445) -/

section
variable {s : State} {rq : Requester} {v : Word}

theorem exec_vglLoad_host : exec (.vglLoad .host) s = .next s := congrArg Host.Outcome.next (if_pos rfl)

theorem vglStepWrite_host : vglStepWrite s .host v = s := if_pos rfl

section
variable (hrq : rq ≠ .host)
include hrq

theorem vglStepWrite_firmware : vglStepWrite s rq v = { s with vigil.step := some v } :=
  if_neg (by rw [hostBarred_of_ne hrq]; decide)

theorem vglCtlWrite_load (hload : bitOf v.toNat 31 = true) :
    vglCtlWrite s rq v = { regWrite s .VGL_CTL 0 0 v with vigil.load := true } :=
  (if_neg (by rw [hostBarred_of_ne hrq]; decide)).trans (if_pos hload)

end

end

/-! ## Discipline by PPS in (R441) -/

section
variable {s : State}

theorem exec_ppsInEdge : exec .ppsInEdge s = .next (ppsEdge s) := rfl

/-- PPS in does not discipline the counter while its domain is in reset or another reference is chosen. -/
theorem notDisciplined (h : vigilRuns s = false ∨ getF s fVGL_CTL_disc 0 0 ≠ 1) :
    (!vigilRuns s || decide (getF s fVGL_CTL_disc 0 0 ≠ 1)) = true := by
  rcases h with h | h <;> simp [h]

theorem ppsEdge_ignored (h : vigilRuns s = false ∨ getF s fVGL_CTL_disc 0 0 ≠ 1) : ppsEdge s = s := if_pos (notDisciplined h)

theorem exec_ppsHoldover_ignored (h : vigilRuns s = false ∨ getF s fVGL_CTL_disc 0 0 ≠ 1) : exec .ppsHoldover s = .next s :=
  congrArg Host.Outcome.next (if_pos (notDisciplined h))

section
variable (hruns : vigilRuns s = true) (hdisc : getF s fVGL_CTL_disc 0 0 = 1)
include hruns hdisc

theorem disciplined : ¬ (!vigilRuns s || decide (getF s fVGL_CTL_disc 0 0 ≠ 1)) = true := by simp [hruns, hdisc]

theorem exec_ppsHoldover_starts : exec .ppsHoldover s =
    .next (setF (setF { s with vigil.ppsBad := 0, vigil.ppsGood := 0 } fVGL_STAT_holdover 0 0 1) fVGL_STAT_pps_lock 0 0 0) :=
  congrArg Host.Outcome.next (if_neg (disciplined hruns hdisc))

/-- An edge counts itself among the bad and the good ones, and then steps the counter or adjusts its increment. -/
theorem ppsEdge_taken {t u v : State} {e : Int} {bad good : Nat} (he : e = ppsError s.vigil)
    (ht : t = setF (setF s fVGL_PPS_ERR_e 0 0 (BitVec.ofInt 32 e).toNat) fVGL_STAT_holdover 0 0 0)
    (hbad : bad = if flagF t fVGL_STAT_pps_lock 0 0 = false ∧ 1000 < e.natAbs then s.vigil.ppsBad + 1 else 0)
    (hgood : good = if e.natAbs ≤ 50 then s.vigil.ppsGood + 1 else 0)
    (hu : u = { t with vigil.ppsBad := bad % 4, vigil.ppsGood := min good 8 })
    (hv : v = if 8 ≤ good then setF u fVGL_STAT_pps_lock 0 0 1 else u) :
    ppsEdge s = if bad = 4 then { v with vigil := putTime v.vigil ((vigilTime v.vigil : Int) - e * 2 ^ 24) } else slewInc v := by
  simp only [← Bool.not_eq_true'] at hbad
  rw [hv, hu, hbad, hgood, ht, he]
  exact if_neg (disciplined hruns hdisc)

end

/-- VGL_INC stays within 100 ppm of its nominal value. -/
theorem slewInc_within : ∃ n : Nat, 0x28000000 - 67108 ≤ n ∧ n ≤ 0x28000000 + 67108 ∧
    slewInc s = setF (freeValue s).2 fVGL_INC_inc 0 0 n := by
  refine ⟨0x28000000 - 67108 + (freeValue s).1.toNat % 134217, Nat.le_add_right .., ?_, rfl⟩
  have hspan : (freeValue s).1.toNat % 134217 < 134217 := Nat.mod_lt _ (by decide)
  omega

end

/-- Settles O47: a tick by the load and the step that wait, the PPS output by how long it is high, the writes by their requester,
and an edge of PPS in by its error. -/
theorem vigilTimeCounts : Obligations.VigilTimeCounts := by
  refine ⟨fun s hasleep => congrArg _ (vigilTick_asleep hasleep),
    fun s h => ⟨congrArg _ (ppsEdge_ignored h), exec_ppsHoldover_ignored h⟩,
    fun s b x v hruns hb hx hv => congrArg _ (vigilTick_counts hruns (nextTime_eq hb hx) hv),
    fun s w hon hw hpos => ⟨fun hlow => ⟨ppsOut_rises hon hw hpos hlow, ppsOut_low hon hlow⟩, ppsOut_falls hon, ppsOut_high hon⟩,
    fun s rq v => ⟨?host, fun hrq => ⟨congrArg _ (vglStepWrite_firmware hrq), ?load⟩⟩, ?edge, fun s => slewInc_within,
    fun s => exec_ppsHoldover_starts⟩
  case host =>
    rintro rfl
    exact ⟨exec_vglLoad_host, congrArg _ (vglStepWrite_host (v := v))⟩
  case load =>
    rintro t rfl
    exact congrArg _ (vglCtlWrite_load hrq (en_of_enable _))
  case edge =>
    intro s t u v e bad good hruns hdisc he ht hbad hgood hu hv
    rw [exec_ppsInEdge, ppsEdge_taken hruns hdisc he ht hbad hgood hu hv]
    exact ⟨fun h => by rw [if_pos h], fun h => by rw [if_neg h]⟩

end Sys2Proof.Machine
end

section
/-! PROOFS. The monitors, alarms and comparators of the Vigil domain (R419, R429, R436, R441, R443, R444). -/

namespace Sys2Proof.Machine

section
variable {s : State}

/-! ## While the domain is in reset -/

section
variable (hasleep : vigilRuns s = false)
include hasleep

theorem tcxoFail_asleep {r : Bool} : tcxoFail s r = s := if_pos (by rw [hasleep]; rfl)

theorem tcxoRecovery_asleep : tcxoRecovery s = s := if_pos (by rw [hasleep]; rfl)

theorem alarmFire_asleep {a : Fin 4} : alarmFire s a = s := if_pos (by rw [hasleep]; rfl)

theorem comparatorTrip_asleep {c : Fin 8} : comparatorTrip s c = s := if_pos (by rw [hasleep]; rfl)

theorem exec_comparatorClear_asleep {c : Fin 8} : exec (.comparatorClear c) s = .next s :=
  congrArg Host.Outcome.next (if_neg (by rw [hasleep]; exact Bool.false_ne_true))

end

/-! ## Actions (R436, R443, R444) -/

section
variable {act line : Nat} {c : WakeCause} (hline : bitOf act 0 = false) (hwake : bitOf act 1 = false)
include hline hwake

theorem vigilAct_nothing (hvigil : bitOf act 2 = false) : vigilAct s act line c = s := by
  simp [vigilAct, hline, hwake, hvigil]

theorem vigilAct_request (hvigil : bitOf act 2 = true) (hawake : s.rst.vigil = false) :
    vigilAct s act line c = { s with rst.request := some (true, false) } := by
  simp [vigilAct, hline, hwake, hvigil, hawake]

end

/-! ## Alarms and comparators that do nothing (R443, R444) -/

theorem alarmFire_waits {a : Fin 4}
    (h : flagF s fVGL_ALM_en 0 a.val = false ∨ vigilTime s.vigil < alarmTime s a.val * 2 ^ 24) : alarmFire s a = s := by
  refine if_pos ?_
  rcases h with h | h
  · simp [h]
  · rw [decide_eq_true h, Bool.or_true]

theorem comparatorTrip_ignored {c : Fin 8}
    (h : flagF s fVGL_CMP_CTL_en 0 c.val = false ∨ bitOf (getF s fVGL_CMP_STAT_now 0 0) c.val = true) : comparatorTrip s c = s := by
  refine if_pos ?_
  rcases h with h | h <;> simp [h]

section
variable (hruns : vigilRuns s = true)
include hruns

/-! ## The TCXO (R419, R441) -/

section
variable {t : State} {r : Bool} (ht : t = switchRef (switchRef { setF (setF s fVGL_STAT_tcxo_ok 0 0 0) fVGL_STAT_tcxo_chk 0 0 (bitN r) with
  vigil.tcxoBad := true } 0) 1)
include ht

/-- The dies that still take their reference from the TCXO count its failure, and the first asserts source 7 once. -/
theorem tcxoFail_shown : tcxoFail s r =
    ([(0 : Die), 1].filter (onTcxo t)).foldl (fun s d => countF s fREFCLK_STAT_fails d 0)
      (match [(0 : Die), 1].filter (onTcxo t) with
        | d :: _ => if t.rst.asserted.any (fun a => decide (a.src = 7)) then t
            else assertReset t 7 { level := reachOf t d 7, die := d, har := 0 }
        | [] => t) := by
  rw [ht]
  exact if_neg (by rw [hruns]; decide)

theorem tcxoFail_otherReference (h0 : onTcxo t 0 = false) (h1 : onTcxo t 1 = false) : tcxoFail s r = t := by
  have hnone : [(0 : Die), 1].filter (onTcxo t) = [] := by simp [h0, h1]
  rw [tcxoFail_shown hruns ht, hnone]
  rfl

theorem tcxoFail_onOneDie {d o : Die} (hdies : (d = 0 ∧ o = 1) ∨ (d = 1 ∧ o = 0)) (hd : onTcxo t d = true) (ho : onTcxo t o = false)
    (hnew : t.rst.asserted.any (fun a => decide (a.src = 7)) = false) :
    tcxoFail s r = countF (assertReset t 7 { level := reachOf t d 7, die := d, har := 0 }) fREFCLK_STAT_fails d 0 := by
  have hone : [(0 : Die), 1].filter (onTcxo t) = [d] := by
    rcases hdies with ⟨rfl, rfl⟩ | ⟨rfl, rfl⟩ <;> simp [hd, ho]
  rw [tcxoFail_shown hruns ht, hone]
  exact congrArg (countF · fREFCLK_STAT_fails d 0) (if_neg (hnew.symm ▸ Bool.false_ne_true))

end

theorem tcxoRecovery_shown {t : State} (ht : t = setF { s with vigil.tcxoBad := false } fVGL_STAT_tcxo_ok 0 0 1) :
    tcxoRecovery s = if s.vigil.tcxoBad then sourceRelease t 0 7 else t := by
  rw [ht]
  exact if_neg (by rw [hruns]; decide)

/-! ## Alarms and comparators that act (R443, R444) -/

theorem alarmFire_acts {a : Fin 4} (hen : flagF s fVGL_ALM_en 0 a.val = true)
    (hdue : alarmTime s a.val * 2 ^ 24 ≤ vigilTime s.vigil) : alarmFire s a =
      vigilAct (setF (setF s fVGL_ALM_en 0 a.val 0) fVGL_ALM_fired 0 a.val 1) (getF s fVGL_ALM_act 0 a.val) a.val (.alarm a) :=
  if_neg (by rw [hruns, hen, decide_eq_false (Nat.not_lt.mpr hdue)]; decide)

theorem comparatorTrip_acts {c : Fin 8} (hen : flagF s fVGL_CMP_CTL_en 0 c.val = true)
    (hnow : bitOf (getF s fVGL_CMP_STAT_now 0 0) c.val = false) {t : State}
    (ht : t = putBitF (putBitF s fVGL_CMP_STAT_now 0 0 c.val true) fVGL_CMP_STAT_tripped 0 0 c.val true) :
    comparatorTrip s c = vigilAct t (getF t fVGL_CMP_CTL_act 0 c.val) (4 + c.val) (.comparator c) := by
  rw [ht]
  exact if_neg (by rw [hruns, hen, hnow]; decide)

theorem exec_comparatorClear {c : Fin 8} (hen : flagF s fVGL_CMP_CTL_en 0 c.val = true) :
    exec (.comparatorClear c) s = .next (putBitF s fVGL_CMP_STAT_now 0 0 c.val false) :=
  congrArg Host.Outcome.next (if_pos (by rw [hruns, hen]; rfl))

end

end

/-- Settles O48: each monitor by whether the domain runs and by what it finds, and an action by its bits. -/
theorem vigilMonitorsAlarmsAndComparators : Obligations.VigilMonitorsAlarmsAndComparators := by
  refine ⟨fun s hasleep => ⟨fun r => congrArg _ (tcxoFail_asleep hasleep), congrArg _ (tcxoRecovery_asleep hasleep),
      fun a => congrArg _ (alarmFire_asleep hasleep),
      fun c => ⟨congrArg _ (comparatorTrip_asleep hasleep), exec_comparatorClear_asleep hasleep⟩⟩,
    fun s t r hruns ht => ⟨fun h0 h1 => congrArg _ (tcxoFail_otherReference hruns ht h0 h1),
      fun d o hdies hd ho hnew => congrArg _ (tcxoFail_onOneDie hruns ht hdies hd ho hnew)⟩,
    fun s t hruns ht => ⟨fun hbad => congrArg _ ((tcxoRecovery_shown hruns ht).trans (if_pos hbad)),
      fun hgood => congrArg _ ((tcxoRecovery_shown hruns ht).trans (if_neg (hgood.symm ▸ Bool.false_ne_true)))⟩,
    fun s a hruns => ⟨fun h => congrArg _ (alarmFire_waits h),
      fun hen hdue => congrArg _ (alarmFire_acts hruns hen hdue)⟩,
    fun s t c hruns => ⟨fun h => congrArg _ (comparatorTrip_ignored h),
      fun hen hnow ht => congrArg _ (comparatorTrip_acts hruns hen hnow ht), exec_comparatorClear hruns⟩,
    fun s act line c hline hwake => ⟨vigilAct_nothing hline hwake, vigilAct_request hline hwake⟩⟩

end Sys2Proof.Machine
end

section
/-! PROOFS. The scrubber (R389, R390, R413), the rewriting of the NV store for retention (R500) and the power cap (R486, R487). -/

namespace Sys2Proof.Machine

/-! ## Frames that the scrubber reads (R389, R390) -/

section
variable {s : State} {d : Die}

theorem exec_scrubFrameCheck (f : BitVec 24) (bad still : Bool) :
    exec (.scrubFrameCheck d f bad still) s = .next (scrubCheck s d f.toNat bad still) := rfl

section
variable {f : Nat} (hlast : f ≠ 8406801)
include hlast

/-- A frame that does not end the cycle is rewritten or repaired where it differs. -/
theorem scrubCheck_within (bad still : Bool) : scrubCheck s d f bad still =
    if !bad || !scrubs s d f then s else if f / 2 ^ 20 = 8 then scrubDmem s d f still else scrubFringe s d f :=
  if_neg fun h => hlast h.1

theorem scrubCheck_passes {bad : Bool} (h : bad = false ∨ scrubs s d f = false) (still : Bool) : scrubCheck s d f bad still = s := by
  refine (scrubCheck_within hlast bad still).trans (if_pos ?_)
  rcases h with h | h <;> simp [h]

theorem scrubCheck_differs (hscrubs : scrubs s d f = true) (still : Bool) : scrubCheck s d f true still =
    if f / 2 ^ 20 = 8 then scrubDmem s d f still else scrubFringe s d f :=
  (scrubCheck_within hlast true still).trans (if_neg (by rw [hscrubs]; decide))

end

theorem scrubCheck_endsCycle (hen : flagF s fSCRUB_CTL_en d 0 = true) (hdone : flagF s fCFG_STAT_done d 0 = true) :
    scrubCheck s d 8406801 false false = wrapF s fSCRUB_STAT_cycles d 0 := if_pos ⟨rfl, hen, hdone⟩

section
variable {f : BitVec 24} {m : ImgSt} (hm : getImg s d = m) (hnone : m.scrubGot = none)
include hm hnone

theorem scrubFringe_noSlot (hslot : 2 ≤ m.nvSlot.toNat) : scrubFringe s d f.toNat = scrubNote s d f.toNat false true := by
  simp [scrubFringe, hm, hnone, hslot]

theorem scrubFringe_waits (hslot : m.nvSlot.toNat < 2) : scrubFringe s d f.toNat = setImg s d { m with scrubGot := some f } := by
  simp [scrubFringe, hm, hnone, hslot]

end

/-! ## The end of a repair (R390, R413) -/

theorem exec_scrubRepairDone (still : Bool) : exec (.scrubRepairDone d still) s = .next (scrubRepair s d still) := rfl

theorem scrubRepair_none (h : (getImg s d).scrubGot = none) (still : Bool) : scrubRepair s d still = s := by
  rw [scrubRepair, h]

section
variable {f : BitVec 24} {t : State} (hgot : (getImg s d).scrubGot = some f) (ht : t = setImg s d { getImg s d with scrubGot := none })
include hgot ht

theorem scrubRepair_noFrame (hnone : storedFrames t d 0 f.toNat 1 = none) (still : Bool) :
    scrubRepair s d still = scrubNote t d f.toNat false true := by
  subst ht
  simp only [scrubRepair, hgot, hnone]

theorem scrubRepair_stores {fs : List (Nat × List Byte)} (hsome : storedFrames t d 0 f.toNat 1 = some fs) (still : Bool) :
    scrubRepair s d still = scrubNote (fs.foldl (fun s e => putFrame s d false 0 e.1 e.2) t) d f.toNat true still := by
  subst ht
  simp only [scrubRepair, hgot, hsome]

end

/-! ## Retention (R500) -/

theorem exec_nvRetentionScrub (b : Fin 8192) : exec (.nvRetentionScrub d b) s = .next (rewriteBlock s d b.val) := rfl

theorem rewriteBlock_noFirmware (h : fwAt s d 5 = false) (b : Nat) : rewriteBlock s d b = s := if_pos (by rw [h]; rfl)

theorem rewriteBlock_rewrites (h : fwAt s d 5 = true) (b : Nat) : rewriteBlock s d b =
    { s with mem.nv := memWrite s.mem.nv (nvAddr d (4096 * b)) (memRead s.mem.nv (nvAddr d (4096 * b)) 4096) } :=
  if_neg (by rw [h]; decide)

end

/-! ## The power cap (R486) -/

section
variable {s : State} {p : Nat} {j : Int}

theorem exec_powerCapTick : exec (.powerCapTick p j) s = .next (capTick s p j) := rfl

theorem capTick_noFirmware (h : fwAt s 0 5 = false) : capTick s p j = s := if_pos (by rw [h]; rfl)

theorem capTick_cool (hfw : fwAt s 0 5 = true) (hcool : caseTemp j p ≤ 85000) (hcap : flagF s fDEV_STATE_pwr_cap 0 0 = false) :
    capTick s p j = { s with cap.samples := (p :: s.cap.samples).take 10 } := by
  refine (if_neg (by rw [hfw]; decide)).trans ((if_neg fun h => ?_).trans (if_neg fun h => ?_))
  · exact absurd h.1 (not_lt.mpr hcool)
  · exact Bool.false_ne_true (hcap.symm.trans (Bool.and_eq_true _ _ ▸ h).1)

end

/-- Settles O38: a frame by whether it differs and whose it is, a repair by what the slot holds, and the power cap where it is cool. -/
theorem scrubbingChecksAndRepairs : Obligations.ScrubbingChecksAndRepairs := by
  refine ⟨fun s d f bad still hlast => ⟨fun h => ?passes, ?dmem⟩, fun s d hen hdone => ?cycle, ?fringe, fun s d still => ?repair,
    fun s d b => ⟨fun h => ?asleep, fun h => ?rewrites⟩, fun s p j => ⟨fun h => ?noFirmware, fun hfw hcool hcap => ?cool⟩⟩
  case passes => rw [exec_scrubFrameCheck, scrubCheck_passes hlast h]
  case dmem =>
    rintro rfl hscrubs hdmem
    rw [exec_scrubFrameCheck, scrubCheck_differs hlast hscrubs, if_pos hdmem]
  case cycle => exact congrArg _ (scrubCheck_endsCycle hen hdone)
  case fringe =>
    intro s d f m hscrubs hf hm hnone
    have hlast : f.toNat ≠ 8406801 := by omega
    have hfringe : ¬ f.toNat / 2 ^ 20 = 8 := by omega
    rw [exec_scrubFrameCheck, scrubCheck_differs hlast hscrubs, if_neg hfringe]
    exact ⟨fun hslot => by rw [scrubFringe_noSlot hm hnone hslot], fun hslot => by rw [scrubFringe_waits hm hnone hslot]⟩
  case repair =>
    rw [exec_scrubRepairDone]
    exact ⟨fun h => by rw [scrubRepair_none h], fun f t hgot ht => ⟨fun h => by rw [scrubRepair_noFrame hgot ht h],
      fun fs h => by rw [scrubRepair_stores hgot ht h]⟩⟩
  case asleep => rw [exec_nvRetentionScrub, rewriteBlock_noFirmware h]
  case rewrites =>
    rw [exec_nvRetentionScrub, rewriteBlock_rewrites h]
    exact ⟨_, rfl, memByte_rewrite _ _ _⟩
  case noFirmware => rw [exec_powerCapTick, capTick_noFirmware h]
  case cool => rw [exec_powerCapTick, capTick_cool hfw hcool hcap]

end Sys2Proof.Machine
end

section
/-! PROOFS. The start-up of a loaded die (R382, R385 to R387) and the reload of the draft master copy (R388). -/

namespace Sys2Proof.Machine

section
variable {s : State} {d : Die}

/-! ## Steps of the start-up (R385 to R387) -/

theorem exec_startupStep : exec (.startupStep d) s = .next (startupStep s d) := rfl

theorem startupStep_waits (h : (getImg s d).starting = false ∨ clocksLocked s d = false) : startupStep s d = s := by
  refine if_pos ?_
  rcases h with h | h <;> simp [h]

theorem startupStep_ends {m : ImgSt} (hm : getImg s d = m) (hstart : m.starting = true) (hlock : clocksLocked s d = true) {c : Nat}
    (hc : c = bitsOf (getOpts s d).order (7 - 2 * m.stepNo) (6 - 2 * m.stepNo)) {t u : State}
    (ht : t = setF s fCFG_STAT_steps d 0 (Nat.lor (getF s fCFG_STAT_steps d 0) (2 ^ c)))
    (hu : u = setImg (if c = 1 then { t with fringe.fuseMap := listSet t.fringe.fuseMap d.val false } else t) d
      { m with stepNo := m.stepNo + 1 }) : startupStep s d = if m.stepNo = 3 then loadDone u d else u := by
  rw [hu, ht, hc]
  subst hm
  exact if_neg (by rw [hstart, hlock]; decide)

theorem exec_startupClockTimeout : exec (.startupClockTimeout d) s =
    .next (if (getImg s d).starting && !clocksLocked s d then failLoad s d 0x0D 0 else s) := rfl

theorem startup_inTime (h : (getImg s d).starting = false ∨ clocksLocked s d = true) :
    ¬ ((getImg s d).starting && !clocksLocked s d) = true := by
  rcases h with h | h <;> simp [h]

/-! ## The draft master copy (R388) -/

section
variable {h : Nat}

theorem exec_masterCopyReload (h : Harn) : exec (.masterCopyReload d h) s = .next (masterReload s d h.val) := rfl

theorem masterReload_notLoaded
    (hdown : domOn s d 60 = false ∨ flagF s fCFG_STAT_done d 0 = false ∨ (getImg s d).loading = true) : masterReload s d h = s := by
  refine if_pos ?_
  rcases hdown with hdown | hdown | hdown <;> simp [hdown]

section
variable (hon : domOn s d 60 = true) (hdone : flagF s fCFG_STAT_done d 0 = true) (hload : (getImg s d).loading = false)
include hon hdone hload

theorem masterReload_loaded : masterReload s d h =
    if s.mem.drafted.contains (harKey d h) then loseHarness s d h
    else match storedFrames s d 1 (2704 * h) 2704 with
      | some fs => fs.foldl (fun s f => putFrame s d false 1 f.1 f.2) s
      | none => loseHarness s d h :=
  if_neg (by rw [hon, hdone, hload]; decide)

theorem masterReload_drafted (hdraft : s.mem.drafted.contains (harKey d h) = true) : masterReload s d h = loseHarness s d h := by
  rw [masterReload_loaded hon hdone hload, if_pos hdraft]

section
variable (hdraft : s.mem.drafted.contains (harKey d h) = false)
include hdraft

theorem masterReload_noFrames (hnone : storedFrames s d 1 (2704 * h) 2704 = none) : masterReload s d h = loseHarness s d h := by
  rw [masterReload_loaded hon hdone hload, if_neg (hdraft.symm ▸ Bool.false_ne_true), hnone]

theorem masterReload_writes {fs : List (Nat × List Byte)} (hsome : storedFrames s d 1 (2704 * h) 2704 = some fs) :
    masterReload s d h = fs.foldl (fun s f => putFrame s d false 1 f.1 f.2) s := by
  rw [masterReload_loaded hon hdone hload, if_neg (hdraft.symm ▸ Bool.false_ne_true), hsome]

end

end

end

end

/-- Settles O42: a step and its time-out by whether the clocks are locked, and a reload by what the slot holds for the harness. -/
theorem diesStartUp : Obligations.DiesStartUp := by
  refine ⟨fun s d h => congrArg _ (startupStep_waits h), ?step, fun s d => ⟨fun h => ?inTime, fun hstart hlock => ?late⟩, ?reload⟩
  case step =>
    intro s t u d m c hm hstart hlock hc ht hu
    rw [exec_startupStep, startupStep_ends hm hstart hlock hc ht hu]
    exact ⟨fun h => by rw [if_neg h], fun h => by rw [if_pos h]⟩
  case inTime => rw [exec_startupClockTimeout, if_neg (startup_inTime h)]
  case late => rw [exec_startupClockTimeout, if_pos (by rw [hstart, hlock]; rfl)]
  case reload =>
    intro s d h
    rw [exec_masterCopyReload]
    exact ⟨fun hdown => by rw [masterReload_notLoaded hdown], fun hon hdone hload =>
      ⟨fun hdraft => by rw [masterReload_drafted hon hdone hload hdraft], fun hdraft =>
        ⟨fun hnone => by rw [masterReload_noFrames hon hdone hload hdraft hnone],
          fun fs hsome => by rw [masterReload_writes hon hdone hload hdraft hsome]⟩⟩⟩

end Sys2Proof.Machine
end

section
/-! PROOFS. The clocks, pins and rails of the fringe (R384, R394, R401, R404, R410, R412, R426). -/

namespace Sys2Proof.Machine

section
variable {s : State} {d : Die}

/-! ## PLLs and ring oscillators (R401, R410) -/

theorem exec_fringePllLockLoss_unlocked {i : Fin 2} (h : pllLocked s d i.val = false) : exec (.fringePllLockLoss d i) s = .next s :=
  congrArg Host.Outcome.next (if_pos (by rw [h]; rfl))

theorem exec_fringePllLockLoss_locked {i : Fin 2} (h : pllLocked s d i.val = true) {t : State}
    (ht : t = setF s (if i.val = 0 then fFCLK_STAT_pll0_lock else fFCLK_STAT_pll1_lock) d 0 0) : exec (.fringePllLockLoss d i) s =
      .next (if flagF (showNets t d) fCFG_STAT_done d 0 then setF (showNets t d) fFCLK_STAT_lock_lost d 0 1 else showNets t d) := by
  rw [ht]
  exact congrArg Host.Outcome.next (if_neg (by rw [h]; decide))

theorem exec_fringePllRelock (i : Fin 2) : exec (.fringePllRelock d i) s =
    .next (if domOn s d 58 && pllEn s d i.val && !(getImg s d).loading then setPll s d i.val true else s) := rfl

theorem exec_fringePllRelock_off {i : Fin 2} (h : domOn s d 58 = false ∨ pllEn s d i.val = false) :
    exec (.fringePllRelock d i) s = .next s := by
  rw [exec_fringePllRelock, if_neg]
  rcases h with h | h <;> simp [h]

theorem exec_roCountWindow (i : Fin 4) (n : BitVec 16) : exec (.roCountWindow d i n) s =
    .next (setF s fRO_CNT_count d i.val (if bitOf (getF s fFCLK_STAT_ro_run d 0) i.val then n.toNat else 0)) := rfl

/-! ## The rail of the pins (R412, R426) -/

/-- The rail of a loaded die is lost: its pins take their fuse-map states and read 0, and the event is raised (R412). -/
def pinsLost (t : State) (d : Die) : State :=
  let u := { t with fringe.fuseMap := listSet t.fringe.fuseMap d.val true, fringe.rx := dropRangeOf t.fringe.rx (d.val * 32) 32 }
  raiseEvent (setReg (setF u fFIO_STAT_lost d 0 1) .FIO_IN d 0 0) 0x05 d 0xFFFF 0xFF

theorem exec_fioRailLoss {t : State} (ht : t = setF s fFIO_STAT_rail_ok d 0 0) : exec (.fioRailLoss d) s =
    .next (if !flagF s fFIO_STAT_rail_ok d 0 then s else if flagF t fCFG_STAT_done d 0 then pinsLost t d else t) := by
  rw [ht]
  rfl

theorem exec_fioRailReturn (v : Bool) : exec (.fioRailReturn d v) s =
    .next (setF (setF s fFIO_STAT_rail_ok d 0 1) fFIO_STAT_rail_v d 0 (bitN v)) := rfl

/-! ## Clock edges (R384, R394, R404) -/

theorem exec_fringeClockEdge (n : Fin 8) (l : BitVec 32) (x : BitVec 256) :
    exec (.fringeClockEdge d n l x) s = .next (clockEdge s d n.val l.toNat x.toNat) := rfl

theorem clockEdge_ignored {n : Nat} (h : netRuns s d n = false ∨ (getImg s d).loading = true) (l x : Nat) :
    clockEdge s d n l x = s := by
  refine if_pos ?_
  rcases h with h | h <;> simp [h]

/-- Before step O no pin is driven and before step S no flip-flop moves: an edge samples the pins of its net. -/
theorem clockEdge_samples {n l x : Nat} (hruns : netRuns s d n = true) (hload : (getImg s d).loading = false)
    (hpins : stepDoneOf s d 1 = false) (hffs : stepDoneOf s d 2 = false) {m : List (Nat × Bool × BitVec 8)}
    (hm : m = (ioOn s d n).map (fun p => (p, ioSample s d p (bitOf l p) (bitsOf x (8 * p + 7) (8 * p))))) {t : State}
    (ht : t = setReg { setFfs s [] with fringe.rx := m.foldl (fun r e => sparseSet (fun _ => 0) r (d.val * 32 + e.1) e.2.2) (setFfs s []).fringe.rx }
      .FIO_IN d 0 (BitVec.ofNat 32 (m.foldl (fun v e => putBits v e.1 e.1 (bitN e.2.1)) (regRaw s .FIO_IN d 0).toNat)))
    (hffs' : stepDoneOf t d 2 = false) : clockEdge s d n l x = { t with free := t.free + 393216 } := by
  have hidle : ¬ (!netRuns s d n || (getImg s d).loading) = true := by rw [hruns, hload]; decide
  subst hm
  simp only [clockEdge, if_neg hidle, hpins, hffs, Bool.false_eq_true, if_false, List.foldl_nil]
  rw [if_neg, ht]
  · rfl
  · rw [ht] at hffs'
    exact fun h => Bool.false_ne_true (hffs'.symm.trans h)

end

/-- Settles O43: each row by whether its clock, rail or net runs, and an edge by the steps of the start-up that are done. -/
theorem fringeClocksPinsAndRails : Obligations.FringeClocksPinsAndRails := by
  refine ⟨fun s d i => ⟨exec_fringePllLockLoss_unlocked, fun h t ht => ?loses, fun hon hen hload => ?relocks,
      exec_fringePllRelock_off⟩, fun s d i n => ?count,
    fun s t d ht => ?rail, fun s d => exec_fioRailReturn, fun s d n l x h => congrArg _ (clockEdge_ignored h _ _), ?edge⟩
  case loses =>
    rw [exec_fringePllLockLoss_locked h ht]
    exact ⟨fun hdone => by rw [if_pos hdone], fun hdone => by rw [if_neg (hdone.symm ▸ Bool.false_ne_true)]⟩
  case relocks =>
    rw [exec_fringePllRelock, hon, hen, hload]
    rfl
  case count =>
    rw [exec_roCountWindow]
    exact ⟨fun h => by rw [if_pos h], fun h => by rw [if_neg (h.symm ▸ Bool.false_ne_true)]⟩
  case rail =>
    rw [exec_fioRailLoss ht]
    refine ⟨fun h => by rw [h, if_pos (by decide)], fun h hdone => ?_, fun h hdone => ?_⟩ <;> rw [h, if_neg (by decide)]
    · rw [if_neg (hdone.symm ▸ Bool.false_ne_true)]
    · rw [if_pos hdone]
      rfl
  case edge =>
    intro s t d n l x m hruns hload hpins hffs hm ht hffs'
    rw [exec_fringeClockEdge, clockEdge_samples hruns hload hpins hffs hm ht hffs']

end Sys2Proof.Machine
end

section
/-! PROOFS. The gates of the fringe (R406, R407) and its serial controllers (R409, R414). -/

namespace Sys2Proof.Machine

section
variable {s : State} {d : Die}

/-! ## Words through a gate (R406, R407) -/

section
variable {g : Nat}

theorem exec_gateInWord (g : Fin 64) (w : TWord) : exec (.gateInWord d g w) s = .next (gateInWord s d g.val w) := rfl

theorem exec_gateOutWord (g : Fin 64) (ready : Bool) : exec (.gateOutWord d g ready) s = .next (gateOutWord s d g.val ready) := rfl

theorem gateInWord_refused {w : TWord} (h : gateReady s d g = false ∨ tagIdle w.tag = true) : gateInWord s d g w = s := by
  refine if_pos ?_
  rcases h with h | h <;> simp [h]

theorem gateInWord_taken {w : TWord} (hready : gateReady s d g = true) (hword : tagIdle w.tag = false) {t : State}
    (ht : t = setFGate s d g { getFGate s d g with buf := (getFGate s d g).buf ++ [w] }) : gateInWord s d g w =
      if tagLast w.tag ∨ 8 ≤ (getFGate s d g).buf.length + 1 then flushGate t d g else t := by
  rw [ht]
  exact if_neg (by rw [hready, hword]; decide)

theorem exec_gateOutWord_notReady (g : Fin 64) : exec (.gateOutWord d g false) s = .next s := congrArg Host.Outcome.next (if_pos rfl)

theorem gateOutWord_offersNone (h : gateOffers s d g = false) : gateOutWord s d g true = s := if_pos (by rw [h]; rfl)

theorem gateOutWord_sends (hoffers : gateOffers s d g = true) {n : Nat} (hn : n = getF s fGATE_OUT_bobbin d g) {t : State} {w : TWord}
    (hw : egressWord (bobWords (getBob s n) + 1) s n = (t, some w)) {u : State}
    (hu : u = setFGate (emit t (.word n w)) d g { getFGate (emit t (.word n w)) d g with inOpen := !tagLast w.tag }) :
    gateOutWord s d g true = if tagLast w.tag then wrapF u fGATE_CNT_items_out d g else u := by
  subst hn hu
  have hidle : ¬ (!true || !gateOffers s d g) = true := by rw [hoffers]; decide
  simp only [gateOutWord, if_neg hidle, hw, Option.getD_some]

end

/-! ## Serial controllers (R409, R414) -/

section
variable {c : Nat}

theorem exec_serTxdWrite (rq : Requester) (c : Fin 8) (v : Word) :
    exec (.serTxdWrite rq d c v) s = .next (serTxdWrite s d c.val v) := rfl

theorem exec_serByteReceive (c : Fin 8) (b : Byte) (bad : Bool) :
    exec (.serByteReceive d c b bad) s = .next (serReceive s d c.val b bad) := rfl

theorem exec_serRxdRead (rq : Requester) (c : Fin 8) (inspect : Bool) : exec (.serRxdRead rq d c inspect) s =
    .next (emit (serRxdRead s d c.val inspect).1 (.value rq (serRxdRead s d c.val inspect).2)) := rfl

theorem serRxdRead_empty (h : (getSer s d c).rx = []) (inspect : Bool) : serRxdRead s d c inspect = (s, 0x80000000) := by
  rw [serRxdRead, h]

theorem serRxdRead_byte {b : Byte} {bs : List Byte} (h : (getSer s d c).rx = b :: bs) (inspect : Bool) :
    serRxdRead s d c inspect =
      (if inspect then s else showSer (setSer s d c { getSer s d c with rx := bs }) d c, BitVec.ofNat 32 b.toNat) := by
  simp only [serRxdRead, h]

section
variable (hheld : stepDoneOf s d 3 = false)
include hheld

theorem serTxdWrite_beforeStepE (v : Word) : serTxdWrite s d c v = s := if_pos (by rw [hheld]; rfl)

theorem serReceive_beforeStepE (b : Byte) (bad : Bool) : serReceive s d c b bad = s := if_pos (by rw [hheld]; rfl)

theorem serSent_beforeStepE (nack : Bool) : serSent s d c nack = s := by
  cases htx : (getSer s d c).tx with
  | nil => rw [serSent, htx]
  | cons b bs =>
    rw [serSent, htx]
    exact if_pos (by rw [hheld]; rfl)

end

section
variable (hstep : stepDoneOf s d 3 = true)
include hstep

theorem serTxdWrite_takes (v : Word) : serTxdWrite s d c v =
    if 64 ≤ (getSer s d c).tx.length then setF s fSER_STAT_tx_ovf d c 1
    else showSer (setSer s d c { getSer s d c with tx := (getSer s d c).tx ++ [BitVec.ofNat 11 v.toNat] }) d c :=
  if_neg (by rw [hstep]; decide)

section
variable (hen : flagF s fSER_CTL_en d c = true)
include hen

/-- A byte that arrives is kept while the buffer has room, and otherwise lost, but for an I²C target, which waits. -/
theorem serReceive_takes {b : Byte} {bad : Bool} (hroom : (getSer s d c).rx.length < 64 ∨ getF s fSER_CTL_mode d c ≠ 3) {t : State}
    (ht : t = if bad && decide (getF s fSER_CTL_mode d c = 0) then setF s fSER_STAT_err d c 1 else s) : serReceive s d c b bad =
      if 64 ≤ (getSer s d c).rx.length then setF t fSER_STAT_rx_ovf d c 1
      else showSer (setSer t d c { getSer s d c with rx := (getSer s d c).rx ++ [b] }) d c := by
  have htakes : ¬ (!stepDoneOf s d 3 || !flagF s fSER_CTL_en d c ||
      (decide (64 ≤ (getSer s d c).rx.length) && decide (getF s fSER_CTL_mode d c = 3))) = true := by
    simp only [hstep, hen, Bool.not_true, Bool.false_or, Bool.and_eq_true, decide_eq_true_eq]
    omega
  subst ht
  simp only [serReceive, if_neg htakes, decide_eq_true_eq]

theorem serSent_acknowledged {b : BitVec 11} {bs : List (BitVec 11)} (htx : (getSer s d c).tx = b :: bs) :
    serSent s d c false = emit (showSer (setSer s d c { getSer s d c with tx := bs }) d c) (.serial d c b) := by
  have hruns : ¬ (!stepDoneOf s d 3 || !flagF s fSER_CTL_en d c) = true := by rw [hstep, hen]; decide
  simp only [serSent, htx, if_neg hruns, Bool.false_and, Bool.false_eq_true, if_false]

end

end

end

end

/-- Settles O44: a gate by whether it is ready and what its buffer holds, and a serial controller by step E and its buffers. -/
theorem fringeGatesAndSerialPorts : Obligations.FringeGatesAndSerialPorts := by
  refine ⟨fun s d g w => ⟨fun h => congrArg _ (gateInWord_refused h), fun hready hword t ht => ?into⟩,
    fun s d g => ⟨exec_gateOutWord_notReady g, fun h => congrArg _ (gateOutWord_offersNone (g := g.val) h), ?out⟩,
    fun s d c hheld => ⟨fun rq v => congrArg _ (serTxdWrite_beforeStepE hheld v), fun b bad => congrArg _ (serReceive_beforeStepE hheld b bad),
      fun n => congrArg _ (serSent_beforeStepE hheld n)⟩,
    fun s rq d c v hstep => ?write, fun s rq d c => ⟨fun hnone i => ?empty, fun b bs hrx => ?read⟩, ?receive,
    fun s d c b bs hstep hen htx => congrArg _ (serSent_acknowledged hstep hen htx)⟩
  case into =>
    rw [exec_gateInWord, gateInWord_taken hready hword ht]
    exact ⟨fun h => by rw [if_pos h], fun hlast hfew => by
      rw [if_neg (not_or.mpr ⟨hlast.symm ▸ Bool.false_ne_true, Nat.not_le.mpr hfew⟩)]⟩
  case out =>
    intro hoffers n t w hn hw u hu
    rw [exec_gateOutWord, gateOutWord_sends hoffers hn hw hu]
    exact ⟨fun h => by rw [h, if_neg Bool.false_ne_true], fun h => by rw [if_pos h]⟩
  case write =>
    rw [exec_serTxdWrite, serTxdWrite_takes hstep]
    exact ⟨fun h => by rw [if_pos h], fun h => by rw [if_neg (Nat.not_le.mpr h)]⟩
  case empty => rw [exec_serRxdRead, serRxdRead_empty hnone]
  case read =>
    rw [exec_serRxdRead, exec_serRxdRead, serRxdRead_byte hrx, serRxdRead_byte hrx]
    exact ⟨rfl, rfl⟩
  case receive =>
    intro s t d c b bad hstep hen ht
    rw [exec_serByteReceive]
    exact ⟨fun h => by rw [serReceive_takes hstep hen (.inl h) ht, if_neg (Nat.not_le.mpr h)],
      fun h hmode => by rw [serReceive_takes hstep hen (.inr hmode) ht, if_pos h]⟩

end Sys2Proof.Machine
end

section
/-! PROOFS. The restore of a die (R418, R427) and the power states of the device (R435 to R439). -/

namespace Sys2Proof.Machine

section
variable {s : State} {d : Die}

/-! ## DIE_RESTORE (R418) -/

theorem dieRestore_waits (h : s.rst.restore.contains d.val = false ∨ s.rst.opened = false ∨ dieReadyUp s d = false ∨ dieState s d ≠ 2) :
    dieRestore s d = s := by
  refine if_pos ?_
  rcases h with h | h | h | h
  all_goals simp only [h, decide_true, Bool.not_false, Bool.true_or, Bool.or_true, ne_eq, not_false_eq_true]

/-- What the saved descriptors of a die leave of the flow: they are put back where there are any. -/
def flowBack (s : State) (d : Die) : State :=
  match savedDescs s d with
  | some x => restoreFlow (putBack s d x) d
  | none => s

theorem flowBack_eq {t : State} (ht : (savedDescs s d = none ∧ t = s) ∨ ∃ x, savedDescs s d = some x ∧ t = restoreFlow (putBack s d x) d) :
    flowBack s d = t := by
  rcases ht with ⟨hnone, rfl⟩ | ⟨x, hsome, rfl⟩
  · rw [flowBack, hnone]
  · rw [flowBack, hsome]

theorem dieRestore_runs (hwaits : s.rst.restore.contains d.val = true) (hopen : s.rst.opened = true) (hup : dieReadyUp s d = true)
    (hstate : dieState s d = 2) {t u v : State} (ht : flowBack s d = t)
    (hu : u = setBeat t d { getBeat t d with started := decide (d = 0) || !linkUp t 1 || !(getBeat t 0).started })
    (hv : v = raiseEvent (showReady { u with rst.restore := u.rst.restore.filter (fun k => decide (k ≠ d.val)) }) 0x1A d 2
      (BitVec.ofNat 32 (d.val * 65536))) : dieRestore s d = endWait v (.release d .die 0) 0 0 0 := by
  rw [hv, hu, ← ht]
  exact if_neg (by simp only [hwaits, hopen, hup, hstate]; decide)

end

/-! ## DOZE_ENTRY (R436, R437) -/

section
variable {s : State}

theorem exec_dozeEntry : exec .dozeEntry s = .next (dozeEntry s) := rfl

theorem dozeEntry_none (h : s.rst.request = none) : dozeEntry s = s := by rw [dozeEntry, h]

theorem dozeEntry_asked {v h : Bool} (hasked : s.rst.request = some (v, h)) (hawake : s.rst.dozing = false) (hvigil : s.rst.vigil = false)
    (hrun : getF s fVGL_PWR_state 0 0 = 0) {t : State} (ht : t = { s with rst.request := none }) : dozeEntry s =
      if h && (sleepRefused t || !allCommitted t) then endWait t (.domain 0 63) 6 0 0
      else setF (parkAll { (endWait t (.domain 0 63) 0 0 0) with rst.dozing := true, host.bell := false }) fVGL_PWR_state 0 0
        (if v then 3 else 1) := by
  rw [ht, dozeEntry, hasked]
  exact if_neg (by rw [hawake, hvigil, hrun]; decide)

/-! ## VIGIL_ENTRY (R438, R439) -/

theorem vigilEntry_ignored (h : s.rst.dozing = false ∨ s.rst.vigil = true ∨ getF s fVGL_PWR_state 0 0 ≠ 3) : vigilEntry s = s := by
  refine if_pos ?_
  rcases h with h | h | h <;> simp [h]

theorem vigilEntry_enters (hdoze : s.rst.dozing = true) (hvigil : s.rst.vigil = false) (hstate : getF s fVGL_PWR_state 0 0 = 3) {t u : State}
    (ht : t = parkRange (parkRange (parkRange (parkRange s .off 0 57) .off 58 5) .off 64 1) .off 57 1)
    (hu : u = { t with
      dbg := debugInit
      rst.asserted := t.rst.asserted.filter (fun a => decide (a.src ≠ 6))
      regs := t.regs.filter (fun e => decide ((regSpec (keyReg e.1)).blk ≠ Block.dbg)) }) :
    vigilEntry s = heldWakeNow (setF { u with rst.vigil := true, rst.dozing := false } fVGL_PWR_state 0 0 2) := by
  rw [hu, ht]
  exact if_neg (by rw [hdoze, hvigil, hstate]; decide)

/-! ## WAKE (R437 to R439) -/

section
variable {c : WakeCause}

theorem exec_wake_notDue (h : wakeDue s c = false) : exec (.wake c) s = .next s :=
  congrArg Host.Outcome.next (if_neg (h.symm ▸ Bool.false_ne_true))

theorem exec_wake_due (h : wakeDue s c = true) : exec (.wake c) s = .next (wakeEvent s c) := congrArg Host.Outcome.next (if_pos h)

theorem wakeEvent_vigil (hvigil : s.rst.vigil = true) (hc : c ≠ .doorbell) :
    wakeEvent s c = wakeVigil (setF s fVGL_PWR_wake 0 0 (wakeCode c)) :=
  ((if_pos hvigil).trans (if_neg hc)).trans (if_pos hvigil)

section
variable (hvigil : s.rst.vigil = false)
include hvigil

theorem wakeEvent_awake (hawake : s.rst.dozing = false) : wakeEvent s c = s := by
  simp [wakeEvent, hvigil, hawake]

section
variable (hdoze : s.rst.dozing = true)
include hdoze

theorem wakeEvent_doze (hstate : getF s fVGL_PWR_state 0 0 = 1) :
    wakeEvent s c = wakeDoze (setF s fVGL_PWR_wake 0 0 (wakeCode c)) := by
  have hleave : leave s c = wakeDoze (setF s fVGL_PWR_wake 0 0 (wakeCode c)) := if_neg (hvigil.symm ▸ Bool.false_ne_true)
  simp [wakeEvent, hvigil, hdoze, hstate, hleave]

/-- During the entry to VIGIL the first wake is held (R439). -/
theorem wakeEvent_entering (hstate : getF s fVGL_PWR_state 0 0 ≠ 1) :
    wakeEvent s c = if s.rst.heldWake.isNone then { s with rst.heldWake := some c } else s := by
  simp [wakeEvent, hvigil, hdoze, hstate]

end

end

end

end

/-- Settles O46: a restore, an entry and a wake each by the power state that the device is in. -/
theorem dieRestoreAndSleepStates : Obligations.DieRestoreAndSleepStates := by
  refine ⟨fun s d h => congrArg _ (dieRestore_waits h),
    fun s t u v d hwaits hopen hup hstate ht hu hv => congrArg _ (dieRestore_runs hwaits hopen hup hstate (flowBack_eq ht) hu hv),
    fun s h => congrArg _ (dozeEntry_none h), ?doze, fun s h => congrArg _ (vigilEntry_ignored h),
    fun s t u hdoze hvigil hstate ht hu => congrArg _ (vigilEntry_enters hdoze hvigil hstate ht hu),
    fun s c => ⟨exec_wake_notDue, fun hdue hvigil hc => ?fromVigil, fun hdue hvigil hawake => ?awake, fun hdue hvigil hdoze => ?fromDoze⟩⟩
  case doze =>
    intro s t v h hasked hawake hvigil hrun ht
    rw [exec_dozeEntry, dozeEntry_asked hasked hawake hvigil hrun ht]
    refine ⟨?_, ?_⟩
    · rintro rfl hrefused
      rw [if_pos (by rcases hrefused with hr | hr <;> simp [hr])]
    · rintro hgoes u rfl
      rw [if_neg]
      rcases hgoes with rfl | ⟨hquiet, hall⟩
      · exact Bool.false_ne_true
      · simp [hquiet, hall]
  case fromVigil => rw [exec_wake_due hdue, wakeEvent_vigil hvigil hc]
  case awake => rw [exec_wake_due hdue, wakeEvent_awake hvigil hawake]
  case fromDoze =>
    rw [exec_wake_due hdue]
    refine ⟨fun hstate => by rw [wakeEvent_doze hvigil hdoze hstate], fun hstate hnone => ?_, fun hstate hheld => ?_⟩ <;>
      rw [wakeEvent_entering hvigil hdoze hstate]
    · rw [if_pos (by rw [hnone]; rfl)]
    · rw [if_neg (fun h => hheld (Option.isNone_iff_eq_none.mp h))]

end Sys2Proof.Machine
end

section
/-! PROOFS. A Rentur complex that runs (R345, R347, R350 to R354, R359): mismatches, overflows of its windows, pending lines, and the
end of a handler with the errors that it met. -/

namespace Sys2Proof.Machine

section
variable {s : State} {d : Die}

/-! ## Control lock-up (R345, R347) -/

theorem exec_lockstepMismatch (h : coresRun s d = true ∨ bootRuns s d = true) : exec (.lockstepMismatch d) s = .next (lockUp s d 1) :=
  congrArg Host.Outcome.next (if_pos (by rwa [Bool.or_eq_true]))

/-! ## Fault entry and full spill regions (R351, R352) -/

theorem enterFault_first (hruns : coresRun s d = true) (hout : flagF s fRT_STAT_fault_entry d 0 = false) {r : RtSt} (hr : getRt s d = r) :
    enterFault s d = setRt (setF s fRT_STAT_fault_entry d 0 1) d { r with
      level := some 0
      back := r.window.headD 0
      window := listSet r.window 0 7
      preempt := match r.level with | some p => if r.preempt.contains p then r.preempt else r.preempt ++ [p] | none => r.preempt } := by
  have hcores : ¬ (!coresRun s d) = true := by rw [hruns]; decide
  subst hr
  exact (if_neg hcores).trans (if_neg (hout.symm ▸ Bool.false_ne_true))

theorem exec_windowOverflowTrap (k : Fin 8) (n : BitVec 16) :
    exec (.windowOverflowTrap d k n) s = .next (overflowTrap s d k.val n.toNat) := rfl

section
variable {k : Nat} (hruns : coresRun s d = true) (hlevel : (getRt s d).level.getD 7 = k) (hfull : spillBlocked s d k = true)
include hruns hlevel hfull

theorem overflowTrap_taken (n : Nat) : overflowTrap s d k n =
    if k = 0 ∨ flagF s fRT_STAT_fault_entry d 0 then lockUp s d 2
    else if 0 < n then spillEngine (setF (enterFault s d) fRT_SPILL_limit d k (min 65535 (getF (enterFault s d) fRT_SPILL_limit d k + n))) d k
    else raiseEvent (endTask (enterFault s d) d k) 0x05 d 0xFFFF 0xFF := by
  have hrun : runLevel (getRt s d) = k := hlevel
  exact if_neg (by rw [hruns, hfull, hrun]; simp)

theorem overflowTrap_doubleFault (h : k = 0 ∨ flagF s fRT_STAT_fault_entry d 0 = true) (n : Nat) : overflowTrap s d k n = lockUp s d 2 := by
  rw [overflowTrap_taken hruns hlevel hfull, if_pos h]

section
variable (hk : k ≠ 0) (hout : flagF s fRT_STAT_fault_entry d 0 = false)
include hk hout

theorem overflowTrap_first (n : Nat) : overflowTrap s d k n =
    if 0 < n then spillEngine (setF (enterFault s d) fRT_SPILL_limit d k (min 65535 (getF (enterFault s d) fRT_SPILL_limit d k + n))) d k
    else raiseEvent (endTask (enterFault s d) d k) 0x05 d 0xFFFF 0xFF := by
  rw [overflowTrap_taken hruns hlevel hfull, if_neg (by simp [hk, hout])]

theorem overflowTrap_extends {n : Nat} (hn : 0 < n) : overflowTrap s d k n =
    spillEngine (setF (enterFault s d) fRT_SPILL_limit d k (min 65535 (getF (enterFault s d) fRT_SPILL_limit d k + n))) d k := by
  rw [overflowTrap_first hruns hlevel hfull hk hout, if_pos hn]

theorem overflowTrap_endsTask {n : Nat} (hn : n = 0) :
    overflowTrap s d k n = raiseEvent (endTask (enterFault s d) d k) 0x05 d 0xFFFF 0xFF := by
  rw [overflowTrap_first hruns hlevel hfull hk hout, if_neg (by omega)]

end

end

/-! ## Event lines (R353) -/

theorem linePending_ignored (h : domOn s d 59 = false ∨ flagF s fRT_STAT_in_reset d 0 = true) (l : Nat) : linePending s d l = s := by
  refine if_pos ?_
  rcases h with h | h <;> simp [h]

section
variable (hon : domOn s d 59 = true) (hout : flagF s fRT_STAT_in_reset d 0 = false) {l : Nat}
include hon hout

theorem linePending_taken : linePending s d l =
    if lineFaults d (getRt s d) l then enterFault s d
    else schedule (setRt s d { getRt s d with lines := if (getRt s d).lines.contains l then (getRt s d).lines else (getRt s d).lines ++ [l] }) d :=
  if_neg (by rw [hon, hout]; decide)

theorem linePending_faults (hfault : lineFaults d (getRt s d) l = true) : linePending s d l = enterFault s d := by
  rw [linePending_taken hon hout, if_pos hfault]

theorem linePending_pends (hline : lineFaults d (getRt s d) l = false) {r : RtSt} (hr : getRt s d = r) : linePending s d l =
    schedule (setRt s d { r with lines := if r.lines.contains l then r.lines else r.lines ++ [l] }) d := by
  rw [linePending_taken hon hout, if_neg (hline.symm ▸ Bool.false_ne_true), hr]

end

/-- A line that the firmware has set has the level and the mapping that it set. -/
theorem line_set {r : RtSt} {l : Nat} {x : Option (Fin 8)} {b : Bool} (h : sparseGet (fun _ => none) r.lineSet l = some (x, b)) :
    lineFaults d r l = b ∧ lineLevel d r l = x.map (fun q => q.val) := by
  rw [lineFaults, lineLevel, h]
  exact ⟨rfl, rfl⟩

/-! ## The end of a handler (R347, R353, R359) -/

section
variable {acts : List CoreAct} {n : Nat}

theorem tcmErrors_uncorrectable (b : Bool) : tcmErrors s d n (some b) = lockUp (addF s fRT_ERR_ce d 0 n) d (if b then 4 else 3) := rfl

theorem handlerEnd_boot (hboot : bootRuns s d = true) (ue : Option Bool) : handlerEnd s d acts n ue = tcmErrors s d n ue := if_pos hboot

section
variable {a : State} (hboot : bootRuns s d = false) (hruns : coresRun s d = true) (ha : a = acts.foldl (coreAct d) s)
  (hstill : coresRun a d = true)
include hboot hruns ha hstill

theorem handlerEnd_cores (ue : Option Bool) : handlerEnd s d acts n ue =
    if ue.isNone then handlerYield (addF a fRT_ERR_ce d 0 n) d else tcmErrors a d n ue := by
  have hstart : ¬ (!coresRun s d) = true := by rw [hruns]; decide
  have hend : ¬ (!coresRun (acts.foldl (coreAct d) s) d) = true := by rw [← ha, hstill]; decide
  simp only [handlerEnd, hboot, Bool.false_eq_true, if_false, if_neg hstart, if_neg hend, ha]
  cases ue <;> rfl

end

theorem handlerYield_ordinary (hout : flagF s fRT_STAT_fault_entry d 0 = false) :
    handlerYield s d = setRt s d (yieldLevel d (getRt s d)) := by
  rw [handlerYield, if_neg (hout.symm ▸ Bool.false_ne_true)]
  rfl

/-- A handler of fault entry leaves window 7 and then yields. -/
theorem handlerYield_fault (hin : flagF s fRT_STAT_fault_entry d 0 = true) {w : RtSt}
    (hw : w = { getRt s d with window := listSet (getRt s d).window 0 (getRt s d).back }) :
    handlerYield s d = setRt (setF (setRt s d w) fRT_STAT_fault_entry d 0 0) d (yieldLevel d w) := by
  have hleft : getRt (setF (setRt s d w) fRT_STAT_fault_entry d 0 0) d = w := by simp
  rw [handlerYield, if_pos hin, leaveFault, modRt, modRt, ← hw, hleft]

end

end

/-- Settles O39: an overflow by its bank and by fault entry, a line by its mapping, and the end of a handler by the errors met. -/
theorem complexesServeLinesAndFault : Obligations.ComplexesServeLinesAndFault := by
  refine ⟨fun s d => exec_lockstepMismatch, fun s d k n hruns hlevel hfull => ?overflow,
    fun s d hruns hout r hr => enterFault_first hruns hout hr,
    fun s d l hon hout => ⟨fun hfault => congrArg _ (linePending_faults hon hout hfault),
      fun hline r hr => congrArg _ (linePending_pends hon hout hline hr)⟩,
    fun s d l h => congrArg _ (linePending_ignored h _), ?handler, ?boot, fun r l d x b => line_set, ?acts⟩
  case overflow =>
    rw [exec_windowOverflowTrap]
    refine ⟨fun hk => congrArg _ (overflowTrap_doubleFault hruns hlevel hfull (.inl hk) _),
      fun hk hin => congrArg _ (overflowTrap_doubleFault hruns hlevel hfull (.inr hin) _), ?_⟩
    rintro hk hout t l rfl rfl
    refine ⟨fun hn => congrArg _ (overflowTrap_extends hruns hlevel hfull hk hout hn), ?_⟩
    rintro hn q rfl
    exact congrArg _ (overflowTrap_endsTask hruns hlevel hfull hk hout hn)
  case handler =>
    rintro s a t d acts r n hboot hruns ha hstill rfl rfl
    have hend := handlerEnd_cores (n := n.toNat) hboot hruns ha hstill
    refine ⟨fun b => congrArg _ ((hend (some b)).trans (tcmErrors_uncorrectable b)),
      fun hout => congrArg _ ((hend none).trans (handlerYield_ordinary hout)), fun hin w hw => ?_⟩
    exact congrArg _ ((hend none).trans (handlerYield_fault hin hw))
  case boot =>
    rintro s t d acts n hboot rfl
    exact ⟨congrArg _ (handlerEnd_boot hboot none), fun b => congrArg _ (handlerEnd_boot hboot (some b))⟩
  case acts =>
    intro s d a hruns
    refine (if_neg (by rw [hruns]; decide)).trans ?_
    cases a <;> rfl

end Sys2Proof.Machine
end

section
/-! PROOFS. The watchdog of a complex (R356), its restart (R359, R361), the hardware semaphores (R363), and the halts that wait for
them (R467). -/

namespace Sys2Proof.Machine

section
variable {s : State} {d : Die}

/-! ## The watchdog (R356, R363) -/

section
variable {rq : Requester} {v : Word}

theorem wdtKick_ignored (h : rq = .host ∨ v.toNat % 65536 ≠ 0xC1A5) : wdtKick s rq d v = s := by
  refine if_pos ?_
  rcases h with rfl | h
  · rfl
  · rw [decide_eq_true h, Bool.or_true]

theorem wdtKick_refreshes (hrq : rq ≠ .host) (hkey : v.toNat % 65536 = 0xC1A5) :
    wdtKick s rq d v = setRt s d { getRt s d with wdt := getF s fWDT_CTL_timeout d 0 * 1000, wdtAt := s.vigil.ticks } :=
  if_neg (by rw [hostBarred_of_ne hrq, hkey]; decide)

end

section
variable (hruns : coresRun s d = true)
include hruns

theorem exec_wdtPrewarn : exec (.wdtPrewarn d) s = .next (enterFault (setF (setRt s d { getRt s d with
    wdt := getF s fWDT_CTL_timeout d 0 * 1000 / 4, wdtAt := s.vigil.ticks }) fWDT_STAT_warn d 0 1) d) :=
  congrArg Host.Outcome.next (if_neg (by rw [hruns]; decide))

/-- An expiry resets at its reach, and is counted after the reset. -/
theorem exec_wdtExpire {l : Level} (hl : l = reachOf s d (if secondExpiry s d then 13 else 4)) {t : State}
    (ht : t = countF (assertReset s 4 { level := l, die := d, har := 0 }) fWDT_HIST_expiries d 0) : exec (.wdtExpire d) s =
      .next (if l = .die then setCause (countF t fWDT_HIST_escal d 0) d 14
        else if l = .control then setRt t d { getRt t d with lastExp := some s.vigil.ticks } else t) := by
  rw [ht, hl]
  exact congrArg Host.Outcome.next (if_pos hruns)

end

/-! ## The restart of a complex (R359, R361) -/

section
variable {v : Nat}

theorem exec_renturRestartDone (v : BitVec 31) : exec (.renturRestartDone d v) s = .next (restartDone s d v.toNat) := rfl

section
variable (hboot : bootRuns s d = true) (hswap : ∀ u, (getBeat s d).update = some u → u.phase ≠ .firmware)
include hboot hswap

/-- No firmware swap is under way, so that the boot ROM starts what is kept or loads the slot. -/
theorem restartDone_boot : restartDone s d v =
    if (getRt s d).fwOk && itcmMatches s d then serveAgain (startCores s d) d else restartLoaded s d v := by
  rw [restartDone]
  cases hup : (getBeat s d).update with
  | none => exact if_neg (by rw [hboot]; decide)
  | some u => exact if_neg (by simp [hboot, hswap u hup])

theorem restartDone_kept (hok : (getRt s d).fwOk = true) (hdigest : itcmDigest s.mem.itcm d = (getRt s d).digest) :
    restartDone s d v = serveAgain (startCores s d) d := by
  rw [restartDone_boot hboot hswap, if_pos (by rw [hok, itcmMatches, decide_eq_true hdigest]; rfl)]

theorem restartDone_loads (h : (getRt s d).fwOk = false ∨ itcmDigest s.mem.itcm d ≠ (getRt s d).digest) :
    restartDone s d v = restartLoaded s d v := by
  rw [restartDone_boot hboot hswap, if_neg]
  rcases h with h | h <;> simp [itcmMatches, h]

end

theorem serveAgain_eq {t : State} (ht : t = raiseEvent s 0x1A d 4 (BitVec.ofNat 32 (d.val * 65536))) : serveAgain s d =
    showReady (schedule (endWait (dieUp t d (reloading t d) false) (.release d .control 0) 0 0 0) d) := by
  rw [ht, serveAgain]

section
variable {t : State} (ht : t = startIfOk (loadFirmware s d (fwSlotUsed s d) v) d)
include ht

theorem restartLoaded_unverified (hbad : (getRt t d).fwOk = false) : restartLoaded s d v = t := by
  rw [restartLoaded, ← ht]
  exact if_pos (by rw [hbad]; rfl)

section
variable (hok : (getRt t d).fwOk = true)
include hok

theorem restartLoaded_verified : restartLoaded s d v =
    if !(getRt s d).booted then showReady (dieUp (startMarch t d) d (reloading t d) false)
    else if (getBeat s d).update.isSome then dieUp t d (reloading t d) false
    else serveAgain (endWait t (.update d) 6 0 0) d := by
  rw [restartLoaded, ← ht]
  exact if_neg (by rw [hok]; decide)

theorem restartLoaded_first (hfirst : (getRt s d).booted = false) :
    restartLoaded s d v = showReady (dieUp (startMarch t d) d (reloading t d) false) := by
  rw [restartLoaded_verified ht hok, if_pos (by rw [hfirst]; rfl)]

theorem restartLoaded_again (hagain : (getRt s d).booted = true) : restartLoaded s d v =
    if (getBeat s d).update.isSome then dieUp t d (reloading t d) false else serveAgain (endWait t (.update d) 6 0 0) d := by
  rw [restartLoaded_verified ht hok, if_neg (by rw [hagain]; decide)]

end

end

end

/-! ## Semaphores (R363, R467) -/

theorem exec_semAcquire (hruns : coresRun s d = true) (i : Fin 64) (q : Fin 8) : exec (.semAcquire d i d q) s = .next
    (if flagF s fSEM_held d i.val then emit s (.value .fwOwn 0)
      else emit (setF (setF (setF s fSEM_held d i.val 1) fSEM_owner_die d i.val d.val) fSEM_owner_level d i.val q.val) (.value .fwOwn 1)) := by
  have hreach : ¬ (!coresRun s d || (decide (d ≠ d) && apart s)) = true := by simp [hruns]
  have hown : (if d = d then Requester.fwOwn else .fwOther) = .fwOwn := if_pos rfl
  refine congrArg Host.Outcome.next ((if_neg hreach).trans ?_)
  rw [hown]

theorem exec_semaphoreRelease (i : Fin 64) : exec (.semaphoreRelease d i) s = .next (semRelease s d i.val) := rfl

theorem semRelease_free {i : Nat} (h : flagF s fSEM_held d i = false) : semRelease s d i = s := if_pos (by rw [h]; rfl)

/-- The holder's release frees a semaphore, and may let the halt that waits for it take effect. -/
theorem semRelease_frees {i : Nat} {o : Die} (ho : o = if flagF s fSEM_owner_die d i then 1 else 0) {t : State}
    (ht : t = setF s fSEM_held d i 0) (hheld : flagF s fSEM_held d i = true) (hruns : coresRun s o = true) : semRelease s d i =
      match (getRt t o).haltWait with
      | some hard => if (getRt t o).linked || holdsSem t o then t else haltNow t o hard
      | none => t := by
  subst ho ht
  exact if_neg (by rw [hheld, hruns]; decide)

/-! ## Halts that are forced (R467) -/

theorem exec_haltForced_eq : exec (.haltForced d) s = .next (match (getRt s d).haltWait with
    | none => s
    | some hard => haltNow (setF (setRt s d { getRt s d with linked := false }) fDBG_STAT_forced 0 0 1) d hard) := rfl

theorem exec_haltForced_none (h : (getRt s d).haltWait = none) : exec (.haltForced d) s = .next s := by
  rw [exec_haltForced_eq, h]

theorem exec_haltForced {hard : Bool} (h : (getRt s d).haltWait = some hard) : exec (.haltForced d) s =
    .next (haltNow (setF (setRt s d { getRt s d with linked := false }) fDBG_STAT_forced 0 0 1) d hard) := by
  rw [exec_haltForced_eq, h]

end

/-- Settles O40: the watchdog by its key and its reach, a restart by what the ITCM holds, and a semaphore by whether it is held. -/
theorem watchdogsAndSemaphores : Obligations.WatchdogsAndSemaphores := by
  refine ⟨fun s rq d v => ⟨fun h => congrArg _ (wdtKick_ignored h), fun hrq hkey => congrArg _ (wdtKick_refreshes hrq hkey)⟩,
    fun s d hruns => ⟨exec_wdtPrewarn hruns, fun l t hl ht => ?expire⟩, fun s d v hboot hswap => ⟨?kept, ?loads⟩,
    fun s d i q hruns => ?acquire, fun s t d o i ho ht => ⟨fun hfree => congrArg _ (semRelease_free hfree), ?release⟩,
    fun s d => ⟨exec_haltForced_none, fun hard => exec_haltForced⟩⟩
  case expire =>
    rw [exec_wdtExpire hruns hl ht]
    exact ⟨fun h => by rw [if_pos h], fun h => by rw [if_neg (by rw [h]; decide), if_pos h],
      fun hdie hcontrol => by rw [if_neg hdie, if_neg hcontrol]⟩
  case kept =>
    intro hok hdigest t ht
    rw [exec_renturRestartDone, restartDone_kept hboot hswap hok hdigest, serveAgain_eq ht]
  case loads =>
    intro h t ht
    rw [exec_renturRestartDone, restartDone_loads hboot hswap h]
    refine ⟨fun hbad => by rw [restartLoaded_unverified ht hbad], fun hok hfirst => by rw [restartLoaded_first ht hok hfirst],
      fun hok hagain hup => ?_, fun hok hagain hup => ?_⟩ <;> rw [restartLoaded_again ht hok hagain]
    · rw [if_pos (Option.isSome_iff_ne_none.mpr hup)]
    · rw [if_neg (by rw [hup]; decide)]
  case acquire =>
    rw [exec_semAcquire hruns]
    exact ⟨fun h => by rw [if_pos h], fun h => by rw [if_neg (h.symm ▸ Bool.false_ne_true)]⟩
  case release =>
    intro hheld hruns
    rw [exec_semaphoreRelease, semRelease_frees ho ht hheld hruns]
    refine ⟨fun hnone => by rw [hnone], fun hard hwait hlinked hsem => ?_⟩
    rw [hwait, hlinked, hsem]
    rfl

end Sys2Proof.Machine
end
